-- ==== Sys2Proof/Word.lean ====
section
/-!
DEFINITION. Word.lean: the words the machine computes with and their plainest arithmetic.
The manual's integers are bit vectors of a fixed width (R5, R44); addresses while they are computed are 64-bit words (R85).
-/
namespace Sys2Proof

/-- A byte of memory. -/
abbrev Byte := BitVec 8
/-- A 32-bit slot, scalar instruction word or lane mask. -/
abbrev W32 := BitVec 32
/-- A 64-bit scalar register or address. -/
abbrev W64 := BitVec 64
/-- A lane instruction or clause header (R121). -/
abbrev W96 := BitVec 96

/-- Bits hi down to lo of a word as a number (the manual's x<hi:lo>). -/
def bitsOf {w : Nat} (x : BitVec w) (hi lo : Nat) : Nat := (x.toNat >>> lo) % 2 ^ (hi + 1 - lo)

/-- Bit n of a word. -/
def bitAt {w : Nat} (x : BitVec w) (n : Nat) : Bool := x.toNat.testBit n

/-- Bits hi down to lo of a number. -/
def natBits (x hi lo : Nat) : Nat := (x >>> lo) % 2 ^ (hi + 1 - lo)

/-- Sign extension of a field to 64 bits (R150). -/
abbrev sext64 {w : Nat} (x : BitVec w) : W64 := x.signExtend 64
/-- Zero extension of a field to 64 bits (R150). -/
abbrev zext64 {w : Nat} (x : BitVec w) : W64 := x.setWidth 64

end Sys2Proof
end

