-- ==== Sys2Proof/Config.lean ====
section
/-!
DEFINITION. Config.lean: what one implementation or one system fixes and the manual leaves open. Each is an opaque
constant: nothing in Lean can evaluate it, so a claim holds whatever it is. The log entries name each.
-/
namespace Sys2Proof.Config

/-- A choice between two outcomes the manual allows; arguments: the counter of the state and what the choice is about (log 10). -/
opaque choice : Nat → Nat → Bool

/-- A choice among n outcomes the manual allows; arguments: the counter and n (log 10). -/
opaque pick : Nat → Nat → Nat

/-- Bits of a tile element that nothing has written since its group started: arguments the tile's nonce and the element
(R29, R259, log 4). -/
opaque tileBits : Nat → Nat → W32

/-- Bytes of a DRAM domain that was switched off and on again (R83, log 11): arguments the counter and the address. -/
opaque revived : Nat → Nat → Byte

/-- A byte of a router's tile store at an offset; where tiles lie in it is not defined (R80, log 12). -/
opaque tileStoreByte : Nat → Nat → Byte

/-- Bytes of the device's far-tier assignment (R78, log 13). -/
opaque farSize : Nat

/-- What the configuration record of a self-test's results gives a management register: the results' number and the register (R418, R427,
log 6). -/
opaque record : Nat → Nat → W64

/-- The physical cluster that carries a logical number by a self-test's results (R418, R419, log 6). -/
opaque physical : Nat → Nat → Nat

/-- A doubleword of the digest of a record: RECSEQ, the self-test's results, the map, the spares, and which doubleword (R418, R425,
log 22). -/
opaque recordDigest : W32 → Nat → List (Option Nat) → W64 → Nat → W64

/-- Of a firmware image, by number: its version, whether its signature verifies, and a doubleword of its digest (R425, log 22). -/
opaque imageVersion : Nat → Nat
opaque imageSigned : Nat → Bool
opaque imageDigest : Nat → Nat → W64

/-- The image that a management command writes to the firmware slot not in use, if it is one that does: the command's block as a number
(R401, R425, log 22). -/
opaque cmdImage : Nat → Option Nat

/-- Whether the configuration record leaves a router enabled (R358, log 6). -/
opaque routerEnabled : Nat → Bool

/-- The lowest and highest frequency the record allows a region (R421, log 6). -/
opaque freqLimits : Nat → Nat × Nat

/-- The laser power in mW and the drive current in mA of a port in a laser state, and the region whose cap counts it (R413, R414, log 20):
port and state. -/
opaque laserPower : Nat → Nat → Nat
opaque laserCurrent : Nat → Nat → Nat
opaque portRegion : Nat → Nat

/-- A boot stage succeeds (R420, log 6): the counter and the stage. -/
opaque stageOk : Nat → Nat → Bool

/-- A port comes up when the boot trains it, and the device number it learns (R420, log 6). -/
opaque portUp : Nat → Bool
opaque portPartner : Nat → BitVec 16

/-- The routers a message passes between two routers, the ends left out, where the network takes another way than the shortest
(R359, log 21). -/
opaque route : Nat → Nat → List Nat

/-- The router of a quadrant that holds its long link to another quadrant, counted within the quadrant (R2, log 21). -/
opaque longEnd : Nat → Nat → Nat

/-- The router a core port joins (R359, log 21). -/
opaque portRouter : Nat → Nat

/-- A byte of a management command's response (R401, log 22): the counter and the byte's place in the block. -/
opaque cmdByte : Nat → Nat → Byte

/-- What a data flit's payload, read as a number, says: the device it is for, the device it started from, the links it has passed; and a
byte of what goes on to the next device, or back to the origin where it ends with 0x08 (R402, log 32). -/
opaque flitDest : Nat → Nat
opaque flitOrigin : Nat → Nat
opaque flitHops : Nat → Nat
opaque flitOnward : Nat → Nat → Byte
opaque flitRefused : Nat → Nat → Byte

/-- A byte of the device's configuration space and of its CDAT (R394, log 22). -/
opaque cfgByte : Nat → Byte
opaque cdatByte : Nat → Byte

/-- A byte of the attestation signature (R425, log 22). -/
opaque signature : Nat → Byte

/-- A byte of the boot ROM's digest (R425, log 22). -/
opaque romDigest : Nat → Byte

/-- The reticle region that holds a cluster (R421, log 29). -/
opaque regionOf : Nat → Nat

/-- TWARN of a region in 0.125 °C, before the 95 °C limit (R423, log 6). -/
opaque warnTemp : Nat → Nat

/-- The delay, in ticks, that a two-way exchange of time flits attributes to the link: the counter (R416, log 30). -/
opaque linkDelay : Nat → Int

/-- The eight bytes by which an ACK names the stamp of its TLBINV: frame, writer, plane (R337, log 102). -/
opaque stampWord : Nat → Nat → Nat → W64

/-- A byte of the crew-state part of a context area, whose layout the manual leaves open (R315, log 28): the counter and the offset. -/
opaque crewByte : Nat → Nat → Byte

/-- The set of the owner filter that a line falls in (R344, log 94). -/
opaque filterSet : Nat → Nat

/-- What a wavelength's sensors read: the counter and the register (R347, log 95). -/
opaque waveSense : Nat → Nat → W64

end Sys2Proof.Config
end

