-- ==== Sys2Proof/Syntax.lean ====
section
/-!
DEFINITION. Syntax.lean: the instructions, one constructor for each row of spec/opcode_table.json.
Scalar instructions carry the fields of their word (R122 to R126). Lane instructions carry the decoded fields of
their format (R127 to R134). The events of the table have no encoding (log 8): each carries what identifies it.
-/
namespace Sys2Proof

/-- The predicate field of a lane instruction (R127): its negate bit and its number. -/
structure PredSel where
  neg : Bool
  num : BitVec 3
  deriving DecidableEq, Repr

/-- An operand specification (R132). -/
inductive Opnd where
  /-- Mode 000: main slot v(n). -/
  | v (n : BitVec 8)
  /-- Mode 001: operand file c(n). -/
  | c (n : BitVec 3)
  /-- Mode 010: last result y(n). -/
  | y (n : BitVec 1)
  /-- Mode 011: `v[xk+off]`. -/
  | vx (k : BitVec 2) (off : BitVec 7)
  /-- Mode 100: broadcast of s(n). -/
  | s (n : BitVec 6)
  /-- Mode 101: signed immediate. -/
  | imm (n : BitVec 9)
  /-- Mode 110: a predicate. -/
  | p (neg : Bool) (n : BitVec 3)
  /-- Mode 111: a lane special. -/
  | spec (n : BitVec 2)
  deriving DecidableEq, Repr

/-- The type codes of R134. -/
inductive Ty where
  | i8 | n8 | i16 | n16 | i32 | n32 | i64 | n64
  | f32 | bf16 | bf16x2 | f16 | f16x2 | e4m3 | e5m2 | e2m1
  | e8m0 | b8 | e4m3x4 | e5m2x4 | e2m1x8 | b8x4 | vpf | vpfc
  deriving DecidableEq, Repr

/-- Format LA (R127). -/
structure LaForm where
  pr : PredSel
  d : Opnd
  a : Opnd
  b : Opnd
  c : Opnd
  ty : Ty
  md : BitVec 10
  ext : BitVec 14
  yw : Bool
  reuse : Bool
  deriving DecidableEq, Repr

/-- Format LI (R127). -/
structure LiForm where
  pr : PredSel
  d : Opnd
  a : Opnd
  ty : Ty
  md : BitVec 10
  imm : W32
  deriving DecidableEq, Repr

/-- Format LM (R127, R130). -/
structure LmForm where
  pr : PredSel
  data : Opnd
  addr : Opnd
  sbase : BitVec 6
  ty : Ty
  space : BitVec 3
  order : BitVec 3
  scope : BitVec 3
  fe : BitVec 2
  cache : BitVec 2
  vec : BitVec 2
  off : BitVec 21
  deriving DecidableEq, Repr

/-- Format LX (R127, R131). -/
structure LxForm where
  pr : PredSel
  tile : BitVec 4
  a : Opnd
  bBase : BitVec 6
  mCode : BitVec 2
  nCode : BitVec 2
  kCode : BitVec 4
  tA : Ty
  tB : Ty
  band : Bool
  zero : Bool
  mode : BitVec 2
  aScale : BitVec 8
  bScale : BitVec 6
  reuse : Bool
  deriving DecidableEq, Repr

/-- A group's identity: launch, band of the launch, crew of the band, group of the crew (R12, R43). -/
structure GKey where
  launch : Nat
  band : Nat
  crew : Nat
  group : Nat
  deriving DecidableEq, Repr
/-- Where the scheduler takes a packet from: a work queue or a ready graph node (R300, R309). -/
inductive PktSrc where
  | queue (q : Nat)
  | node (n : Nat)
  deriving DecidableEq, Repr

/-- A face of a router: its local cluster, a neighbour router, or a core port (R361). -/
inductive Face where
  | loc
  | router (r : Nat)
  | port (p : Nat)
  deriving DecidableEq, Repr

/-- The messages of named tiles (R359 to R372). -/
inductive NetKind where
  | interest
  | nack
  | publication
  /-- What HOME answers to a publication of another device: its status. -/
  | stored
  | delivery
  | drop
  | never
  /-- An interest that cannot be served: its status. -/
  | unserved
  | cancel
  /-- A declaration, and the status that answers it. -/
  | declare
  | declared
  deriving DecidableEq, Repr

/-- A named-tile message on its way. `site` is the router it arrives at, 80 + c for the engine of cluster c, or 144 + p where it leaves
by core port p; `path` is the rest of its way to the rendezvous router, or the site its answer goes to; `frm` the face it comes from;
`dev` the device it started on, 0xFFFF for this one; `op` the operation it serves there; `dest` the device it is for, 0xFFFF for this one;
`hops` the links between devices it has passed (R402). -/
structure NetMsg where
  kind : NetKind
  site : Nat
  frm : Face
  pennant : W64
  mask : W64
  expiry : Nat
  path : List Nat
  bytes : List Byte
  dev : Nat
  crew : GKey
  op : Nat
  dest : Nat
  hops : Nat
  deriving DecidableEq, Repr

/-- A page whose access count reached HEAT in a window, as the unit counted (R388, log 24). -/
structure HeatPage where
  asid : BitVec 16
  ptbase : W64
  va : W64
  deriving DecidableEq, Repr

/-- What another member of a collective hands in: its command's EPOCH, KIND, DTYPE and COUNT, and its bytes (R385, R386). -/
structure CollIn where
  epoch : Nat
  kind : Nat
  dtype : Nat
  count : Nat
  data : List Byte
  deriving DecidableEq, Repr

/-- What the rest of its set brings to a collective: the members' hand-ins, and whether the run fails on its way (R385). -/
structure CollRun where
  inp : List CollIn
  fails : Bool
  deriving DecidableEq, Repr

/-- A received flit (R407); `good`: its CRC holds. -/
structure Flit where
  lane : BitVec 5
  kind : BitVec 4
  epoch : BitVec 8
  sack : BitVec 16
  ack : BitVec 24
  seq : BitVec 24
  payload : List Byte
  good : Bool
  deriving DecidableEq, Repr

/-- The instructions and events of the opcode table. -/
inductive Instr where
  /-- NOP (R188): Does nothing; NOP is the all-zero word. -/
  | nop
  /-- END (R189): Closes open matrix work into a batch, waits for every earlier clause and batch to complete, and ends the group. -/
  | endGroup
  /-- ENDK (R190): Ends the group as END does and keeps a range of main-register granules for a successor crew. -/
  | endk (a : BitVec 6) (b : BitVec 6)
  /-- YIELD (R188): Lets the group scheduler prefer other groups for a time and has no other effect. -/
  | yield
  /-- ISYNC (R116): Waits for earlier clauses to end, then discards the group's fetch buffers and lane clause cache. -/
  | isync
  /-- NPBEGIN (R191): Opens a non-pre-emptible region with a 200 µs budget. -/
  | npbegin
  /-- NPEND (R191): Closes the group's non-pre-emptible region. -/
  | npend
  /-- ADD (R154): Writes the 64-bit sum of two scalar registers to sd. -/
  | add (d : BitVec 6) (a : BitVec 6) (b : BitVec 6)
  /-- SUB (R154): Writes the 64-bit difference of two scalar registers to sd. -/
  | sub (d : BitVec 6) (a : BitVec 6) (b : BitVec 6)
  /-- MUL (R154): Writes the low 64 bits of the product to sd. -/
  | mul (d : BitVec 6) (a : BitVec 6) (b : BitVec 6)
  /-- MULH (R154): Writes the high 64 bits of the signed 128-bit product to sd. -/
  | mulh (d : BitVec 6) (a : BitVec 6) (b : BitVec 6)
  /-- MULHN (R154): Writes the high 64 bits of the unsigned 128-bit product to sd. -/
  | mulhn (d : BitVec 6) (a : BitVec 6) (b : BitVec 6)
  /-- DIV (R155): Writes the signed quotient truncated toward zero, with the fixed results for edge cases. -/
  | div (d : BitVec 6) (a : BitVec 6) (b : BitVec 6)
  /-- DIVN (R155): Writes the unsigned quotient, with the fixed result for a zero divisor. -/
  | divn (d : BitVec 6) (a : BitVec 6) (b : BitVec 6)
  /-- REM (R155): Writes the signed remainder with the sign of the dividend. -/
  | rem (d : BitVec 6) (a : BitVec 6) (b : BitVec 6)
  /-- REMN (R155): Writes the unsigned remainder. -/
  | remn (d : BitVec 6) (a : BitVec 6) (b : BitVec 6)
  /-- AND (R154): Writes the bitwise AND to sd. -/
  | and (d : BitVec 6) (a : BitVec 6) (b : BitVec 6)
  /-- OR (R154): Writes the bitwise OR to sd. -/
  | or (d : BitVec 6) (a : BitVec 6) (b : BitVec 6)
  /-- XOR (R154): Writes the bitwise XOR to sd. -/
  | xor (d : BitVec 6) (a : BitVec 6) (b : BitVec 6)
  /-- SHL (R154): Shifts left by the low six bits of sb. -/
  | shl (d : BitVec 6) (a : BitVec 6) (b : BitVec 6)
  /-- SHR (R154): Shifts right logically by the low six bits of sb. -/
  | shr (d : BitVec 6) (a : BitVec 6) (b : BitVec 6)
  /-- SHA (R154): Shifts right arithmetically by the low six bits of sb. -/
  | sha (d : BitVec 6) (a : BitVec 6) (b : BitVec 6)
  /-- MIN (R154): Writes the signed minimum. -/
  | min (d : BitVec 6) (a : BitVec 6) (b : BitVec 6)
  /-- MAX (R154): Writes the signed maximum. -/
  | max (d : BitVec 6) (a : BitVec 6) (b : BitVec 6)
  /-- MINN (R154): Writes the unsigned minimum. -/
  | minn (d : BitVec 6) (a : BitVec 6) (b : BitVec 6)
  /-- MAXN (R154): Writes the unsigned maximum. -/
  | maxn (d : BitVec 6) (a : BitVec 6) (b : BitVec 6)
  /-- CLZ (R154): Writes the number of leading zero bits of sa. -/
  | clz (d : BitVec 6) (a : BitVec 6)
  /-- POPC (R154): Writes the number of one bits of sa. -/
  | popc (d : BitVec 6) (a : BitVec 6)
  /-- CMP_EQ (R154): Writes 1 if the operands are equal, else 0. -/
  | cmpEq (d : BitVec 6) (a : BitVec 6) (b : BitVec 6)
  /-- CMP_NE (R154): Writes 1 if the operands differ, else 0. -/
  | cmpNe (d : BitVec 6) (a : BitVec 6) (b : BitVec 6)
  /-- CMP_LT (R154): Writes 1 if a < b signed, else 0. -/
  | cmpLt (d : BitVec 6) (a : BitVec 6) (b : BitVec 6)
  /-- CMP_LE (R154): Writes 1 if a ≤ b signed, else 0. -/
  | cmpLe (d : BitVec 6) (a : BitVec 6) (b : BitVec 6)
  /-- CMP_LTN (R154): Writes 1 if a < b unsigned, else 0. -/
  | cmpLtn (d : BitVec 6) (a : BitVec 6) (b : BitVec 6)
  /-- CMP_LEN (R154): Writes 1 if a ≤ b unsigned, else 0. -/
  | cmpLen (d : BitVec 6) (a : BitVec 6) (b : BitVec 6)
  /-- ADDI (R156): Adds a sign-extended 14-bit immediate to sa. -/
  | addi (d : BitVec 6) (a : BitVec 6) (imm : BitVec 14)
  /-- ANDI (R156): ANDs sa with a sign-extended 14-bit immediate. -/
  | andi (d : BitVec 6) (a : BitVec 6) (imm : BitVec 14)
  /-- ORI (R156): ORs sa with a sign-extended 14-bit immediate. -/
  | ori (d : BitVec 6) (a : BitVec 6) (imm : BitVec 14)
  /-- XORI (R156): XORs sa with a sign-extended 14-bit immediate. -/
  | xori (d : BitVec 6) (a : BitVec 6) (imm : BitVec 14)
  /-- SHI_SHL (R157): Shifts sa left by an immediate amount. -/
  | shiShl (d : BitVec 6) (a : BitVec 6) (n : BitVec 6)
  /-- SHI_SHR (R157): Shifts sa right logically by an immediate amount. -/
  | shiShr (d : BitVec 6) (a : BitVec 6) (n : BitVec 6)
  /-- SHI_SHA (R157): Shifts sa right arithmetically by an immediate amount. -/
  | shiSha (d : BitVec 6) (a : BitVec 6) (n : BitVec 6)
  /-- CMPI_EQ (R157): Writes 1 if sa equals the sign-extended immediate. -/
  | cmpiEq (d : BitVec 6) (a : BitVec 6) (v : BitVec 11)
  /-- CMPI_NE (R157): Writes 1 if sa differs from the sign-extended immediate. -/
  | cmpiNe (d : BitVec 6) (a : BitVec 6) (v : BitVec 11)
  /-- CMPI_LT (R157): Writes 1 if sa is less than the immediate, signed. -/
  | cmpiLt (d : BitVec 6) (a : BitVec 6) (v : BitVec 11)
  /-- CMPI_LE (R157): Writes 1 if sa is at most the immediate, signed. -/
  | cmpiLe (d : BitVec 6) (a : BitVec 6) (v : BitVec 11)
  /-- CMPI_LTN (R157): Writes 1 if sa is less than the sign-extended immediate, unsigned. -/
  | cmpiLtn (d : BitVec 6) (a : BitVec 6) (v : BitVec 11)
  /-- CMPI_LEN (R157): Writes 1 if sa is at most the sign-extended immediate, unsigned. -/
  | cmpiLen (d : BitVec 6) (a : BitVec 6) (v : BitVec 11)
  /-- LHI (R158): Writes the immediate shifted to bits 31:12, sign-extended from bit 31. -/
  | lhi (d : BitVec 6) (imm : BitVec 20)
  /-- ADDPC (R158): Writes pc plus a signed word displacement. -/
  | addpc (d : BitVec 6) (imm : BitVec 20)
  /-- BFX (R159): Extracts a bit field of sa, zero-extended. -/
  | bfx (d : BitVec 6) (a : BitVec 6) (p : BitVec 6) (l : BitVec 6)
  /-- BFXN (R159): Extracts a bit field of sa, sign-extended. -/
  | bfxn (d : BitVec 6) (a : BitVec 6) (p : BitVec 6) (l : BitVec 6)
  /-- BFI (R159): Inserts the low bits of sa into a field of sd. -/
  | bfi (d : BitVec 6) (a : BitVec 6) (p : BitVec 6) (l : BitVec 6)
  /-- MADD (R160): Writes sa × sb + sc modulo 2^64. -/
  | madd (d : BitVec 6) (a : BitVec 6) (b : BitVec 6) (c : BitVec 6)
  /-- MSUB (R160): Writes sc − sa × sb modulo 2^64. -/
  | msub (d : BitVec 6) (a : BitVec 6) (b : BitVec 6) (c : BitVec 6)
  /-- TADDR (R161): Computes the address of a two-dimensional array element. -/
  | taddr (d : BitVec 6) (a : BitVec 6) (b : BitVec 6) (c : BitVec 6) (w : BitVec 2)
  /-- SEL (R162): Writes sa when sc is nonzero, else sb. -/
  | sel (d : BitVec 6) (a : BitVec 6) (b : BitVec 6) (c : BitVec 6)
  /-- J (R163): Jumps by a signed 26-bit word displacement. -/
  | j (disp : BitVec 26)
  /-- JAL (R163): Jumps by a signed 26-bit word displacement and links pc + 4 in s62. -/
  | jal (disp : BitVec 26)
  /-- JR (R164): Jumps to the address in sa. -/
  | jr (a : BitVec 6)
  /-- JALR (R164): Jumps to the address in sa and links pc + 4 in sd. -/
  | jalr (d : BitVec 6) (a : BitVec 6)
  /-- BZ (R163): Branches when sa is zero. -/
  | bz (a : BitVec 6) (disp : BitVec 20)
  /-- BNZ (R163): Branches when sa is nonzero. -/
  | bnz (a : BitVec 6) (disp : BitVec 20)
  /-- LD (R166): Scalar load of 1, 2, 4 or 8 bytes, zero- or sign-extended. -/
  | ld (d : BitVec 6) (a : BitVec 6) (w : BitVec 2) (x : BitVec 1) (o : BitVec 11)
  /-- ST (R166): Scalar store of 1, 2, 4 or 8 bytes. -/
  | st (d : BitVec 6) (a : BitVec 6) (w : BitVec 2) (o : BitVec 11)
  /-- LDK (R167): Loads an 8-byte literal through the fetch path. -/
  | ldk (d : BitVec 6) (imm : BitVec 20)
  /-- AMO_SWAP (R169): Atomically swaps memory with sd and returns the old value. -/
  | amoSwap (d : BitVec 6) (a : BitVec 6) (o : BitVec 3) (sc : BitVec 3) (w : BitVec 1)
  /-- AMO_ADD (R169): Atomic wrapping add returning the old value. -/
  | amoAdd (d : BitVec 6) (a : BitVec 6) (o : BitVec 3) (sc : BitVec 3) (w : BitVec 1)
  /-- AMO_AND (R169): Atomic AND returning the old value. -/
  | amoAnd (d : BitVec 6) (a : BitVec 6) (o : BitVec 3) (sc : BitVec 3) (w : BitVec 1)
  /-- AMO_OR (R169): Atomic OR returning the old value. -/
  | amoOr (d : BitVec 6) (a : BitVec 6) (o : BitVec 3) (sc : BitVec 3) (w : BitVec 1)
  /-- AMO_XOR (R169): Atomic XOR returning the old value. -/
  | amoXor (d : BitVec 6) (a : BitVec 6) (o : BitVec 3) (sc : BitVec 3) (w : BitVec 1)
  /-- AMO_MIN (R169): Atomic signed minimum returning the old value. -/
  | amoMin (d : BitVec 6) (a : BitVec 6) (o : BitVec 3) (sc : BitVec 3) (w : BitVec 1)
  /-- AMO_MAX (R169): Atomic signed maximum returning the old value. -/
  | amoMax (d : BitVec 6) (a : BitVec 6) (o : BitVec 3) (sc : BitVec 3) (w : BitVec 1)
  /-- AMO_MINN (R169): Atomic unsigned minimum returning the old value. -/
  | amoMinn (d : BitVec 6) (a : BitVec 6) (o : BitVec 3) (sc : BitVec 3) (w : BitVec 1)
  /-- AMO_MAXN (R169): Atomic unsigned maximum returning the old value. -/
  | amoMaxn (d : BitVec 6) (a : BitVec 6) (o : BitVec 3) (sc : BitVec 3) (w : BitVec 1)
  /-- AMO_FADD (R169): Atomic FP32 add rounded RNE, returning the old value. -/
  | amoFadd (d : BitVec 6) (a : BitVec 6) (o : BitVec 3) (sc : BitVec 3)
  /-- CAS (R170): Compares memory with sd, stores sb if equal, and returns the old value. -/
  | cas (d : BitVec 6) (a : BitVec 6) (b : BitVec 6) (o : BitVec 3) (sc : BitVec 3) (w : BitVec 1)
  /-- CLAUSE (R172): Appends a clause entry with the current mask and fmt to the lane queue. -/
  | clause (imm : BitVec 20)
  /-- CLAUSER (R173): Appends a clause entry whose index is taken from sa. -/
  | clauser (a : BitVec 6)
  /-- MPUSH (R176): Pushes the mask stack and narrows amask by a predicate. -/
  | mpush (n : BitVec 1) (p : BitVec 3)
  /-- MPUSH_REGISTER (R176): Pushes the mask stack and narrows amask by the low 32 bits of sa. -/
  | mpushRegister (a : BitVec 6)
  /-- MELSE (R176): Switches amask to the second path and restores the stacked fmt. -/
  | melse
  /-- MPOP (R176): Restores amask and fmt from the top entry and pops it. -/
  | mpop
  /-- SETP (R176): Positions a write of predicate k in every lane from the bits of sa. -/
  | setp (k : BitVec 3) (a : BitVec 6)
  /-- PMOV (R176): Writes a predicate's 32-lane mask to sd. -/
  | pmov (d : BitVec 6) (n : BitVec 1) (p : BitVec 3)
  /-- WFLAG (R177): Stalls the scalar thread until earlier clauses started and the masked flags are clear. -/
  | wflag (m : BitVec 12)
  /-- VGET (R178): Copies one lane slot to a scalar register after earlier clauses end. -/
  | vget (d : BitVec 6) (slot : BitVec 8) (lane : BitVec 5)
  /-- VPUT (R178): Positions a write of one lane slot from a scalar register. -/
  | vput (d : BitVec 6) (slot : BitVec 8) (lane : BitVec 5)
  /-- SETFMT (R179): Writes masked bits of fmt. -/
  | setfmt (a : BitVec 6) (b : BitVec 6)
  /-- GETFMT (R179): Reads fmt to sd. -/
  | getfmt (d : BitVec 6)
  /-- SETPREC (R179): Sets WPREC and/or CPREC. -/
  | setprec (a : BitVec 6) (b : BitVec 6)
  /-- GETSTAT (R179): Waits for earlier clauses to complete and reads fstat. -/
  | getstat (d : BitVec 6)
  /-- CLRSTAT (R179): Waits for earlier clauses to complete and clears fstat bits. -/
  | clrstat (a : BitVec 6)
  /-- MFS (R180): Reads a special register to sd. -/
  | mfs (d : BitVec 6) (n : BitVec 13)
  /-- MTS (R181): Writes a special register from sa, positioned in the lane stream for prng and fewait. -/
  | mts (a : BitVec 6) (n : BitVec 13)
  /-- FENCE_FULL (R110): Orders every earlier access before every later access at the scope. -/
  | fenceFull (e : BitVec 1) (sc : BitVec 3)
  /-- FENCE_ACQUIRE (R110): Orders earlier loads before later accesses at the scope. -/
  | fenceAcquire (e : BitVec 1) (sc : BitVec 3)
  /-- FENCE_RELEASE (R110): Orders earlier accesses before later stores, cumulatively. -/
  | fenceRelease (e : BitVec 1) (sc : BitVec 3)
  /-- FENCE_SC (R110): Full fence that takes a place in the SC order. -/
  | fenceSc (e : BitVec 1) (sc : BitVec 3)
  /-- BAR_SYNC (R184): Arrives at a crew barrier and waits for the phase to complete. -/
  | barSync (a : BitVec 6) (t : BitVec 6)
  /-- BAR_ARV (R184): Arrives at a crew barrier and continues at once. -/
  | barArv (a : BitVec 6) (t : BitVec 6)
  /-- RDTIME (R186): Reads device time to sd. -/
  | rdtime (d : BitVec 6)
  /-- WAITUNTIL (R186): Stalls the scalar thread until time reaches sa. -/
  | waituntil (a : BitVec 6)
  /-- WAITUNTIL_REACHED (R186): Device time reaches the awaited tick and the waiting group continues. -/
  | waituntilReached (k : GKey)
  /-- QLOCK (R187): Takes a ticket on a queue lock and waits until it is served, then acquires. -/
  | qlock (d : BitVec 6) (a : BitVec 6)
  /-- QUNLOCK (R187): Releases and advances the served count of a queue lock. -/
  | qunlock (a : BitVec 6)
  /-- CPY (R277): Issues an engine copy of len bytes, completing to a tag or byte barrier. -/
  | cpy (d : BitVec 6) (a : BitVec 6) (b : BitVec 6) (t : BitVec 6)
  /-- CPY2D (R278): Issues an engine copy of rows with source and destination pitches. -/
  | cpy2d (d : BitVec 6) (a : BitVec 6) (b : BitVec 5) (t : BitVec 6)
  /-- TWAIT_ALL (R269): Waits until no masked tag is pending and traps on an error status. -/
  | twaitAll (d : BitVec 6) (a : BitVec 6)
  /-- TWAIT_ANY (R269): Waits until some masked tag is ready or none is pending. -/
  | twaitAny (d : BitVec 6) (a : BitVec 6)
  /-- TFIRST (R269): Returns the lowest ready masked tag and its status without waiting. -/
  | tfirst (d : BitVec 6) (a : BitVec 6)
  /-- TACK (R269): Makes every ready masked tag idle. -/
  | tack (a : BitVec 6)
  /-- BBINIT (R273): Initialises a byte barrier's state. -/
  | bbinit (t : BitVec 6)
  /-- BBEXP (R274): Posts the expectation of the phase in progress and evaluates. -/
  | bbexp (a : BitVec 6) (t : BitVec 6)
  /-- BBWAIT (R275): Waits until a named phase has passed, then acquires. -/
  | bbwait (d : BitVec 6) (a : BitVec 6) (t : BitVec 6)
  /-- BBARV (R276): Releases at crew scope and arrives at a byte barrier with a count. -/
  | bbarv (a : BitVec 6) (b : BitVec 6) (t : BitVec 6)
  /-- BSUB (R279): Installs a broadcast subscription from a 32-byte block. -/
  | bsub (d : BitVec 6) (a : BitVec 6) (t : BitVec 6)
  /-- BUNSUB (R281): Removes a subscription and returns its missed count. -/
  | bunsub (d : BitVec 6) (a : BitVec 6)
  /-- BSYNC (R282): Waits until the group's broadcast slots are received or out of the window and returns re-sendings. -/
  | bsync (d : BitVec 6)
  /-- NDECL (R283): Declares a tensor at the rendezvous routers and returns its handle. -/
  | ndecl (d : BitVec 6) (a : BitVec 6)
  /-- NDROP (R287): Ends the life of a named tile, or of a declaration. -/
  | ndrop (a : BitVec 6)
  /-- NCAN (R286): Withdraws the crew's interest in a pennant for a target. -/
  | ncan (a : BitVec 6) (b : BitVec 6) (t : BitVec 6)
  /-- SKCMD_TAG (R288): Issues a Loam command block completing to a tag and the completion word. -/
  | skcmdTag (a : BitVec 6) (b : BitVec 6) (t : BitVec 6)
  /-- SKCMD_BB (R288): Issues a Loam command block arriving at a byte barrier. -/
  | skcmdBb (a : BitVec 6) (b : BitVec 6) (t : BitVec 6)
  /-- SKCMD_CW (R288): Issues a Loam command block reporting only through its completion word. -/
  | skcmdCw (a : BitVec 6) (b : BitVec 6)
  /-- PUT (R290): Copies local bytes into a peer's registered window. -/
  | put (d : BitVec 6) (a : BitVec 6) (b : BitVec 6) (t : BitVec 6)
  /-- GET (R290): Copies bytes from a peer's registered window to local memory. -/
  | get (d : BitVec 6) (a : BitVec 6) (b : BitVec 6) (t : BitVec 6)
  /-- WINWAIT (R291): Waits until a window counter reaches a value, then acquires. -/
  | winwait (a : BitVec 6) (b : BitVec 6) (k : BitVec 6)
  /-- WINCNT (R291): Reads a window counter without waiting. -/
  | wincnt (d : BitVec 6) (a : BitVec 6) (k : BitVec 6)
  /-- QPUSH (R292): Claims a queue slot, waits for room, writes the packet and releases it. -/
  | qpush (d : BitVec 6) (a : BitVec 6) (b : BitVec 6)
  /-- TRAP (R293): Raises trap 0x18 with a value, resuming after the TRAP. -/
  | trap (a : BitVec 6) (t : BitVec 6)
  /-- TRET (R330): Waits for handler clauses, restores the trap save area and resumes at tpc. -/
  | tret
  /-- MSAVE (R295): Waits for batches and saves the group's tiles and batch state in the save area. -/
  | msave
  /-- MREST (R295): Waits for handler batches and restores tiles and batch state. -/
  | mrest
  /-- TLBINV (R296): Sends an invalidation of a virtual range for an ASID. -/
  | tlbinv (d : BitVec 6) (a : BitVec 6) (b : BitVec 6)
  /-- TLBSYNC (R297): Waits until every holder has acknowledged the group's earlier invalidations. -/
  | tlbsync
  /-- TLBINV_ALL (R296): Sends an invalidation of every entry of every ASID. -/
  | tlbinvAll
  /-- NPUB (R284): Publishes a snapshot of a tile under a pennant. -/
  | npub (d : BitVec 6) (a : BitVec 6) (t : BitVec 6)
  /-- NPUB_REL (R284): Publishes a tile and releases the group's earlier writes at device scope. -/
  | npubRel (d : BitVec 6) (a : BitVec 6) (t : BitVec 6)
  /-- NREQ_TAG (R285): Records an interest in a pennant completing to a tag. -/
  | nreqTag (d : BitVec 6) (a : BitVec 6) (b : BitVec 6) (t : BitVec 6)
  /-- NREQ_BB (R285): Records an interest in a pennant arriving at a byte barrier. -/
  | nreqBb (d : BitVec 6) (a : BitVec 6) (b : BitVec 6) (t : BitVec 6)
  /-- POOL_GUARD (R139): Executing a literal-pool guard word raises the pool-entry trap. -/
  | poolGuard (n : BitVec 26)
  /-- IADD (R198): Lane integer add, wrapping or saturating. -/
  | iadd (f : LaForm)
  /-- ISUB (R198): Lane integer subtract, wrapping or saturating. -/
  | isub (f : LaForm)
  /-- IMUL (R198): Lane integer multiply, low half. -/
  | imul (f : LaForm)
  /-- IMULH (R198): Lane integer multiply, high half. -/
  | imulh (f : LaForm)
  /-- IMAD (R198): Lane integer multiply-add. -/
  | imad (f : LaForm)
  /-- IDOT4 (R199): Lane four-element 8-bit dot product with accumulate. -/
  | idot4 (f : LaForm)
  /-- IMIN (R198): Lane integer minimum. -/
  | imin (f : LaForm)
  /-- IMAX (R198): Lane integer maximum. -/
  | imax (f : LaForm)
  /-- BFN3 (R200): Applies a three-input bit function table. -/
  | bfn3 (f : LaForm)
  /-- SHF (R200): Lane shift, including funnel shift. -/
  | shf (f : LaForm)
  /-- LANE_BFX (R201): Lane bit-field extract. -/
  | laneBfx (f : LaForm)
  /-- LANE_BFI (R201): Lane bit-field insert. -/
  | laneBfi (f : LaForm)
  /-- BITC (R201): Lane popcount, leading or trailing zeros, or bit reverse. -/
  | bitc (f : LaForm)
  /-- ICMP (R202): Lane integer compare to a predicate or register. -/
  | icmp (f : LaForm)
  /-- IADD_LI (R194): Immediate form of IADD. -/
  | iaddLi (f : LiForm)
  /-- ISUB_LI (R194): Immediate form of ISUB. -/
  | isubLi (f : LiForm)
  /-- IMUL_LI (R194): Immediate form of IMUL. -/
  | imulLi (f : LiForm)
  /-- IMULH_LI (R194): Immediate form of IMULH. -/
  | imulhLi (f : LiForm)
  /-- IMAD_LI (R194): Immediate form of IMAD, with c read from d. -/
  | imadLi (f : LiForm)
  /-- IDOT4_LI (R194): Immediate form of IDOT4, with c read from d. -/
  | idot4Li (f : LiForm)
  /-- IMIN_LI (R194): Immediate form of IMIN. -/
  | iminLi (f : LiForm)
  /-- IMAX_LI (R194): Immediate form of IMAX. -/
  | imaxLi (f : LiForm)
  /-- BFN3_LI (R200): Immediate form of BFN3 with the table in mod. -/
  | bfn3Li (f : LiForm)
  /-- SHF_LI (R194): Immediate form of SHF. -/
  | shfLi (f : LiForm)
  /-- LANE_BFX_LI (R201): Immediate form of lane BFX. -/
  | laneBfxLi (f : LiForm)
  /-- LANE_BFI_LI (R201): Immediate form of lane BFI, inserting into d. -/
  | laneBfiLi (f : LiForm)
  /-- ICMP_LI (R194): Immediate form of ICMP. -/
  | icmpLi (f : LiForm)
  /-- FADD (R203): Lane float add, rounded once. -/
  | fadd (f : LaForm)
  /-- FMUL (R203): Lane float multiply, rounded once. -/
  | fmul (f : LaForm)
  /-- FFMA (R203): Lane fused multiply-add, rounded once. -/
  | ffma (f : LaForm)
  /-- FMIN (R204): Lane float minimum. -/
  | fmin (f : LaForm)
  /-- FMAX (R204): Lane float maximum. -/
  | fmax (f : LaForm)
  /-- FCMP (R205): Lane float compare. -/
  | fcmp (f : LaForm)
  /-- FMATH (R206): Correctly rounded elementary function or division. -/
  | fmath (f : LaForm)
  /-- FSCA (R207): FP32 scaled accumulate, rounded once. -/
  | fsca (f : LaForm)
  /-- FCLASS (R208): Classifies a value into a class mask or predicate. -/
  | fclass (f : LaForm)
  /-- FADD_LI (R194): Immediate form of FADD. -/
  | faddLi (f : LiForm)
  /-- FMUL_LI (R194): Immediate form of FMUL. -/
  | fmulLi (f : LiForm)
  /-- FFMA_LI (R203): Immediate form of FFMA, with c read from d. -/
  | ffmaLi (f : LiForm)
  /-- FMIN_LI (R194): Immediate form of FMIN. -/
  | fminLi (f : LiForm)
  /-- FMAX_LI (R194): Immediate form of FMAX. -/
  | fmaxLi (f : LiForm)
  /-- FCMP_LI (R194): Immediate form of FCMP. -/
  | fcmpLi (f : LiForm)
  /-- FMATH_DIV_LI (R194): Immediate form of FMATH for division only. -/
  | fmathDivLi (f : LiForm)
  /-- FSCA_LI (R207): Immediate form of FSCA, with c read from d. -/
  | fscaLi (f : LiForm)
  /-- CVT (R209): Converts between integer and float types. -/
  | cvt (f : LaForm)
  /-- PACK (R210): Rounds FP32 values into one packed slot, optionally scaled. -/
  | pack (f : LaForm)
  /-- UNPACK (R211): Expands packed elements to FP32 slots, optionally scaled. -/
  | unpack (f : LaForm)
  /-- SCALEX (R212): Computes an e8m0 scale for a target format. -/
  | scalex (f : LaForm)
  /-- LPERM (R214): Permutes a value within lane segments. -/
  | lperm (f : LaForm)
  /-- QXCH (R215): Exchanges values with a partner lane of the quad. -/
  | qxch (f : LaForm)
  /-- QBC (R215): Broadcasts one lane's value within each quad. -/
  | qbc (f : LaForm)
  /-- RED (R216): Reduces over the participants of each segment by a fixed tree. -/
  | red (f : LaForm)
  /-- SCAN (R217): Running combination over participants in lane order. -/
  | scan (f : LaForm)
  /-- PPOLL (R218): Polls a predicate across the group's participants. -/
  | ppoll (f : LaForm)
  /-- XADD (R220): VPF add rounded to the destination precision. -/
  | xadd (f : LaForm)
  /-- XMUL (R220): VPF multiply rounded to the destination precision. -/
  | xmul (f : LaForm)
  /-- XFMA (R220): VPF fused multiply-add rounded once. -/
  | xfma (f : LaForm)
  /-- XADDE (R221): Exact VPF sum under the CPREC ceiling. -/
  | xadde (f : LaForm)
  /-- XMULE (R221): Exact VPF product under the CPREC ceiling. -/
  | xmule (f : LaForm)
  /-- XCVT (R222): Converts between VPF and other types. -/
  | xcvt (f : LaForm)
  /-- XCMP (R223): Compares VPF windows. -/
  | xcmp (f : LaForm)
  /-- XRND (R224): Rounds a VPF value to an integer or a narrower precision. -/
  | xrnd (f : LaForm)
  /-- XERR (R225): Returns the rounding error of a VPF sum or product. -/
  | xerr (f : LaForm)
  /-- MOV (R226): Copies slots without interpretation. -/
  | mov (f : LaForm)
  /-- MOVI (R226): Writes a 32-bit immediate in the type. -/
  | movi (f : LiForm)
  /-- LANE_SEL (R227): Selects a or b by a predicate. -/
  | laneSel (f : LaForm)
  /-- PFN3 (R227): Applies a function table to three predicates. -/
  | pfn3 (f : LaForm)
  /-- SPEC (R228): Writes a value of the lane's state to a register. -/
  | spec (f : LaForm)
  /-- IXSET (R229): Writes fields of an index register. -/
  | ixset (f : LaForm)
  /-- LANE_LD (R234): Lane load of raw elements into slots. -/
  | laneLd (f : LmForm)
  /-- LANE_ST (R234): Lane store of raw elements; a qualifying space-3 store becomes a Bunting slot. -/
  | laneSt (f : LmForm)
  /-- LDV (R237): Loads a self-describing VPF element and rounds it to the window precision. -/
  | ldv (f : LmForm)
  /-- STV (R238): Stores a VPF window as a self-describing element. -/
  | stv (f : LmForm)
  /-- PREF (R239): Prefetches lines toward the core without trapping. -/
  | pref (f : LmForm)
  /-- ATOM (R245): Per-lane atomic add, swap, min or max. -/
  | atom (f : LmForm)
  /-- ATOMC (R245): Per-lane atomic compare-and-swap or bitwise operation. -/
  | atomc (f : LmForm)
  /-- LDFE (R242): Waits for full, reads the word and sets it empty. -/
  | ldfe (f : LmForm)
  /-- STFE (R242): Waits for empty, writes the word and sets it full. -/
  | stfe (f : LmForm)
  /-- FESET_FULL (R242): Sets a word's full/empty bit full. -/
  | fesetFull (f : LmForm)
  /-- FESET_EMPTY (R242): Sets a word's full/empty bit empty. -/
  | fesetEmpty (f : LmForm)
  /-- LD_WF (R243): Waits until full, reads, and leaves the word full. -/
  | ldWf (f : LmForm)
  /-- ST_FILL (R243): Writes a word and sets it full without waiting. -/
  | stFill (f : LmForm)
  /-- ST_EMPTY (R243): Writes a word and sets it empty without waiting. -/
  | stEmpty (f : LmForm)
  /-- FULL_EMPTY_PERFORM (R242): A waiting lane performs its full/empty operation once the bit allows it. -/
  | fullEmptyPerform
  /-- FULL_EMPTY_WAIT_EXPIRED (R244): The fewait limit is reached with lanes still waiting and trap 0x0E is raised. -/
  | fullEmptyWaitExpired
  /-- MMA (R253): Matrix multiply-accumulate into tiles, opened as a batch operation. -/
  | mma (f : LxForm)
  /-- MMAS (R253): Block-scaled matrix multiply-accumulate into tiles. -/
  | mmas (f : LxForm)
  /-- ACCZ (R260): Zeroes a tile as an open matrix operation. -/
  | accz (f : LxForm)
  /-- ACCLD (R261): Loads tile rows from memory. -/
  | accld (f : LmForm)
  /-- ACCST (R261): Stores tile rows to memory. -/
  | accst (f : LmForm)
  /-- ACCRD (R262): Reads a tile row into lane slots. -/
  | accrd (f : LaForm)
  /-- ACCWR (R262): Writes lane slots into a tile row. -/
  | accwr (f : LaForm)
  /-- MBFEN (R257): Closes the group's open matrix operations into a numbered batch. -/
  | mbfen (f : LiForm)
  /-- MBWAIT (R258): Holds the lane stream until a named batch has completed. -/
  | mbwait (f : LiForm)
  /-- MATRIX_OPERATION_COMPLETE (R257): A matrix operation finishes writing its tiles. -/
  | matrixOperationComplete (k : GKey) (q : Nat)
  /-- CLAUSE_START (R19): The clause at the head of the lane queue starts once its wait flags are clear. -/
  | clauseStart (k : GKey)
  /-- POSITIONED_EFFECT (R153): A queued VPUT, SETP or MTS of prng or fewait is applied after earlier clauses end. -/
  | positionedEffect (k : GKey)
  /-- LONG_LATENCY_COMPLETION (R20): A long-latency lane instruction completes, writing results and decrementing its flag. -/
  | longLatencyCompletion (k : GKey) (q : Nat)
  /-- GRANULE_FILL (R38): An absent register granule is filled from the save area before the access. -/
  | granuleFill (k : GKey) (j : Nat)
  /-- TRAP_ENTRY (R327): The group sets its lane queue aside, writes the save area and enters the handler. -/
  | trapEntry (k : GKey) (lane : Bool) (idx : Nat) (cause : Nat) (tval : W64)
  /-- ENGINE_OPERATION_COMPLETE (R265): An engine operation ends with its status. -/
  | engineOperationComplete (id : Nat) (st : Byte) (data : List Byte)
  /-- DATA_RESPONSE (R343): A point-to-point data response for a coherence request arrives at the requester. -/
  | dataResponse (c : Nat) (line : Nat) (m : W32)
  /-- TLB_ACKNOWLEDGE (R91): A TLB holder acknowledges once accesses through removed entries are performed. -/
  | tlbAcknowledge (id : Nat) (h : Nat)
  /-- REMOTE_PUT_ARRIVAL (R290): PUT bytes are performed at the target and its arrived counter rises. -/
  | remotePutArrival (w : Nat) (off : Nat) (data : List Byte)
  /-- SENT_COMPLETE (R290): The source's sent-complete counter rises after the target has performed the bytes. -/
  | sentComplete (id : Nat)
  /-- REMOTE_GET (R290): A GET request reads window bytes at the target for return. -/
  | remoteGet (w : Nat) (off : Nat) (len : Nat)
  /-- GETS (R343): A GetS request takes effect at its stamp in every cache and at the home. -/
  | gets (p : Nat)
  /-- GETM (R343): A GetM request invalidates other copies and grants M at its stamp. -/
  | getm (p : Nat)
  /-- UPGRADE (R343): An Upgrade request invalidates other copies, acting as GetM if S was lost. -/
  | upgrade (p : Nat)
  /-- PUTM (R345): A PutM writes back words whose grantee and version match. -/
  | putm (p : Nat)
  /-- INV (R343): An INV makes every cached copy of the masked words invalid. -/
  | inv (p : Nat)
  /-- POISON (R351): A POISON message poisons masked words at the home. -/
  | poison (p : Nat)
  /-- BCAST (R280): A broadcast-window slot is delivered to matching subscriptions and arrives at their barriers. -/
  | bcast (p : Nat)
  /-- TILE (R367): A named-tile descriptor or chunk slot delivers a tile by Bunting. -/
  | tile (p : Nat)
  /-- TLBINV_MESSAGE (R91): A TLB invalidation message is applied, removing matching entries. -/
  | tlbinvMessage (p : Nat)
  /-- ACK (R346): A writer's acknowledgement of a TLBINV is applied toward TLBSYNC. -/
  | ack (p : Nat)
  /-- NACK (R340): A writer receiving a NACK stops new slots, sends REPLAY and re-sends kept slots. -/
  | nack (p : Nat)
  /-- HOLD (R339): A HOLD stops or releases new non-control slots on the plane. -/
  | hold (p : Nat)
  /-- REPLAY (R341): A reader reconstructs stamps of re-sent slots and resumes the plane in stamp order. -/
  | replay (p : Nat)
  /-- NACK_SEND (R339): A reader sends, and every 16 frames repeats, a NACK for an unreadable slot. -/
  | nackSend (p : Nat) (r : Nat)
  /-- RETRANSMISSION_WINDOW_EXPIRY (R340): A writer discards a kept slot after 64 frames without a NACK. -/
  | retransmissionWindowExpiry (p : Nat)
  /-- WAVELENGTH_DEGRADED (R348): A Bunting wavelength loses lock and becomes degraded. -/
  | wavelengthDegraded (p : Nat) (g : Nat) (w : Nat)
  /-- RETUNE_COMPLETE (R348): Readers and writer finish retuning to the spare and held slots are replayed. -/
  | retuneComplete (p : Nat) (g : Nat) (w : Nat)
  /-- HEARTBEAT (R349): A cluster or stack sends its heartbeat on the management network every 10 µs. -/
  | heartbeat (w : Nat)
  /-- UNIT_DEAD (R349): A unit that misses three heartbeats is declared dead. -/
  | unitDead (w : Nat)
  /-- PLANE_READ_TIMEOUT (R349): A reader still unable to read a plane 1,250 frames after takeover stops its heartbeats. -/
  | planeReadTimeout (w : Nat)
  /-- FENCING (R350): From frame F the dead unit's slots are discarded, links disabled and words scrubbed. -/
  | fencing (w : Nat)
  /-- RECORD_REWRITE (R352): After the scrub a spare takes the dead logical number at one frame. -/
  | recordRewrite (c : Nat)
  /-- DECLARATION (R356): A tensor declaration is recorded, or refused, at a router. -/
  | declaration (m : NetMsg) (lost : Bool)
  /-- INTEREST (R361): An interest arrives at a router and is delivered, merged, forwarded or NACKed. -/
  | interest (m : NetMsg)
  /-- INTEREST_NACK (R362): A router or engine receives a NACK for a forwarded interest. -/
  | interestNack (m : NetMsg)
  /-- INTEREST_RETRY (R362): An engine resends an interest after its backoff delay. -/
  | interestRetry (c : Nat) (pn : W64)
  /-- PUBLICATION (R364): A publication reaches the rendezvous router and is stored or refused. -/
  | publication (m : NetMsg)
  /-- REFILL (R365): A spilled tile is refilled from the backing area on demand. -/
  | refill (r : Nat) (pn : W64)
  /-- TILE_DELIVERY (R366): A tile copy arrives along the path and is passed on or written at local records. -/
  | tileDelivery (m : NetMsg)
  /-- LOCAL_RECORD_EXPIRY (R363): A local record expires and completes with status 0x06. -/
  | localRecordExpiry (id : Nat)
  /-- PIT_ENTRY_EXPIRY (R363): A PIT entry is freed when its latest expiry passes. -/
  | pitEntryExpiry (r : Nat) (pn : W64)
  /-- DROP (R371): A drop reaches the rendezvous router, removes the tile and holds a tombstone. -/
  | drop (m : NetMsg)
  /-- NEVER_PRODUCED (R371): A never-produced answer travels the path and completes records with 0x06. -/
  | neverProduced (m : NetMsg)
  /-- TILE_LIFETIME_END (R371): A stored tile's lifetime ends with the effects of a drop. -/
  | tileLifetimeEnd (r : Nat) (pn : W64)
  /-- TOMBSTONE_END (R371): A tombstone's lifetime ends and its PIT entry is freed. -/
  | tombstoneEnd (r : Nat) (pn : W64)
  /-- CANCEL (R372): A cancel removes a face from each router entry along the path. -/
  | cancel (m : NetMsg)
  /-- NOP_PACKET (R302): The scheduler takes a NOP packet, which completes at once. -/
  | nopPacket (src : PktSrc)
  /-- LAUNCH (R303): The scheduler takes a LAUNCH packet and queues its bands for placement. -/
  | launch (src : PktSrc)
  /-- GRAPH (R310): A GRAPH packet arms a run of nodes in one step. -/
  | graph (src : PktSrc)
  /-- COPY (R306): A COPY packet performs a copy under its own translation. -/
  | copy (src : PktSrc)
  /-- SIGNAL (R306): A SIGNAL packet performs a releasing store or atomic add. -/
  | signal (src : PktSrc)
  /-- TIME (R306): A TIME packet completes at its START tick. -/
  | time (src : PktSrc)
  /-- START_REACHED (R312): Work whose START tick arrives becomes ready. -/
  | startReached (id : Nat)
  /-- CQ_HEADER_RECHECK (R307): The scheduler rereads an invalid completion-queue header every 10 µs. -/
  | cqHeaderRecheck (cq : Nat)
  /-- AGEING (R311): Work that waited AGE(L) moves to the tail of level L + 1. -/
  | ageing (id : Nat)
  /-- BLOCKING (R313): An entry unplaced for 100 µs at a non-ageing level becomes blocking. -/
  | blocking (id : Nat)
  /-- BAND_PLACEMENT (R314): The distributor places a band whose crews fit on one cluster. -/
  | bandPlacement (id : Nat) (c : Nat) (cores : List Nat)
  /-- PREWAIT_EXPIRY (R318): A blocking entry that waited PREWAIT triggers pre-emption of lower-level bands. -/
  | prewaitExpiry (id : Nat) (c : Nat)
  /-- PREEMPT_COMMAND (R318): A supervisor command pre-empts a named launch band. -/
  | preemptCommand (l : Nat) (b : Nat) (reloc : Bool)
  /-- BAND_RESUME (R321): A pre-empted band resumes as a gang with its state restored. -/
  | bandResume (l : Nat) (b : Nat) (c : Nat) (cores : List Nat)
  /-- REGION_OVERRUN (R324): A non-pre-emptible region's 200 µs budget runs out. -/
  | regionOverrun (k : GKey)
  /-- THROTTLE_WINDOW (R317): Every 4,096 cycles the core sets how many groups may issue memory instructions. -/
  | throttleWindow (c : Nat) (co : Nat) (h : Nat)
  /-- LOAM_ZERO (R380): The Loam unit writes zero bytes at a destination. -/
  | loamZero (id : Nat)
  /-- LOAM_COPY (R380): The Loam unit copies bytes as CPY does. -/
  | loamCopy (id : Nat)
  /-- GRED (R381): The Loam unit sums bags of indexed table rows into output rows. -/
  | gred (id : Nat)
  /-- SADD (R382): The Loam unit adds source rows into indexed table rows. -/
  | sadd (id : Nat)
  /-- COLL (R385): The Loam unit accepts a collective command and waits for its matched set. -/
  | coll (id : Nat)
  /-- COLLECTIVE_RUN (R385): A matched collective set runs once every member has issued. -/
  | collectiveRun (id : Nat) (run : CollRun)
  /-- COLLECTIVE_TIMEOUT (R385): The group's TIMEOUT passes before all members issued and the command ends with 0x0B. -/
  | collectiveTimeout (id : Nat)
  /-- MIG (R388): The Loam unit moves a page to the target tier. -/
  | mig (id : Nat)
  /-- HEAT_WINDOW (R388): At the end of a 100 µs window the unit moves pages whose count reached HEAT. -/
  | heatWindow (st : Nat) (pages : List HeatPage)
  /-- DOMAIN_SWITCH_OFF (R392): Clearing ON bit d starts the switch-off and makes every later check fail. -/
  | domainSwitchOff (st : Nat) (d : Nat)
  /-- DOMAIN_POWER_OFF (R392): After draining and recalling, the domain powers off and READY falls. -/
  | domainPowerOff (st : Nat) (d : Nat)
  /-- DOMAIN_SWITCH_ON (R392): Setting ON bit d starts powering the domain on. -/
  | domainSwitchOn (st : Nat) (d : Nat)
  /-- DOMAIN_READY (R392): The domain becomes usable and READY bit d reads 1. -/
  | domainReady (st : Nat) (d : Nat)
  /-- HOST_WINDOW_WRITE (R396): A CXL.mem write is applied at the home after invalidating cached words. -/
  | hostWindowWrite (off : Nat) (data : List Byte)
  /-- HOST_WINDOW_READ (R396): A CXL.mem read of the host window is served. -/
  | hostWindowRead (off : Nat)
  /-- CXL_LINK_DOWN (R398): The CXL link goes down and host-memory accesses take their down-link fates. -/
  | cxlLinkDown
  /-- CXL_LINK_UP (R398): The CXL link comes back up. -/
  | cxlLinkUp
  /-- QUEUE_REGISTRATION (R298): Writing EN registers a queue header, or leaves EN 0 when refused. -/
  | queueRegistration (q : Nat) (v : W64)
  /-- MANAGEMENT_COMMAND (R401): The management controller executes the next submitted command and advances DONESEQ. -/
  | managementCommand
  /-- CONTROLLER_RESET (R401): The management controller restarts and resumes commands from DONESEQ + 1. -/
  | controllerReset
  /-- SPDM_REQUEST (R425): An SPDM request over DOE returns signed measurements. -/
  | spdmRequest
  /-- DATA_FLIT (R408): A received data flit is checked and delivered in SEQ order exactly once. -/
  | dataFlit (p : Nat) (f : Flit)
  /-- ACKNOWLEDGEMENT_FLIT (R408): A received acknowledgement releases or triggers re-sending of flits. -/
  | acknowledgementFlit (p : Nat) (f : Flit)
  /-- IDLE_FLIT (R407): A received idle flit carries acknowledgements only. -/
  | idleFlit (p : Nat) (f : Flit)
  /-- PROPOSE (R410): A width proposal makes the transmitter move flits off a wavelength and accept. -/
  | propose (p : Nat) (f : Flit)
  /-- ACCEPT (R410): A width accept makes the receiver adopt the new epoch. -/
  | accept (p : Nat) (f : Flit)
  /-- TRAIN (R411): A train proposal makes the transmitter light a wavelength and send training flits. -/
  | train (p : Nat) (f : Flit)
  /-- TIME_FLIT (R416): A received time flit updates the offset measurement and SYNCED. -/
  | timeFlit (p : Nat) (f : Flit)
  /-- TIME_EXCHANGE (R416): Every 1 µs each up core port sends a time flit. -/
  | timeExchange
  /-- FLIT_RESEND_TIMEOUT (R408): A flit unacknowledged for 2 µs is re-sent on another wavelength. -/
  | flitResendTimeout (p : Nat) (q : Nat)
  /-- ACKNOWLEDGEMENT_SEND (R408): A receiver with nothing to send sends an acknowledgement flit within 256 ns. -/
  | acknowledgementSend (p : Nat)
  /-- LINK_DOWN (R408): A port link goes down after 100 µs of silence or 16 unacknowledged sendings. -/
  | linkDown (p : Nat)
  /-- PORT_LOCK_LOSS (R410): A port wavelength loses lock and is marked degraded. -/
  | portLockLoss (p : Nat) (w : Nat)
  /-- TRAINING_TIMEOUT (R411): Training that fails within 50 µs leaves the wavelength spare. -/
  | trainingTimeout (p : Nat)
  /-- LTARGET (R412): Writing LTARGET requests a laser state change within the hard limits. -/
  | ltarget (p : Nat) (v : Nat)
  /-- DWELL_EXPIRY (R414): A deferred laser state change takes effect once DWELL has passed. -/
  | dwellExpiry (p : Nat)
  /-- INTERLOCK_TRIP (R415): An opened fibre path turns the laser off and takes the link down. -/
  | interlockTrip (p : Nat)
  /-- INTERLOCK_CLOSE (R415): The fibre path closes, allowing relight after 1 s and a firmware write. -/
  | interlockClose (p : Nat)
  /-- MODULE_RESET (R420): Module reset runs the boot stages in order. -/
  | moduleReset
  /-- FTARGET (R421): Writing FTARGET changes the region frequency, stopping issue for at most 200 ns. -/
  | ftarget (r : Nat) (v : Nat)
  /-- DROOP (R421): A detected droop stretches the region's cycles until it passes. -/
  | droop (r : Nat)
  /-- TEMPERATURE_WARN (R423): A region reaching TWARN starts stepping its frequency down. -/
  | temperatureWarn (r : Nat) (t : Nat)
  /-- FREQUENCY_STEP (R423): Every 10 µs above TWARN, FNOW is lowered by 100 MHz. -/
  | frequencyStep (r : Nat)
  /-- CLOCK_STOP (R423): A region at TSTOP has its clock stopped. -/
  | clockStop (r : Nat) (t : Nat)
  /-- CLOCK_RESTART (R423): A region falling below TSTOP is clocked again. -/
  | clockRestart (r : Nat) (t : Nat)
  /-- THERMAL_TRIP (R423): Any region at TTRIP cuts module power. -/
  | thermalTrip (r : Nat)
  /-- TOKEN_WINDOW (R422): Each 100 ns window the token budget is allocated and injection throttled. -/
  | tokenWindow (limited : Bool)
  /-- CHECKPOINT_START (R424): Writing START begins writing back and copying every powered domain. -/
  | checkpointStart (v : W64)
  /-- CHECKPOINT_DONE (R424): The checkpoint ends and DONE, STATUS and CKEND are set. -/
  | checkpointDone
  /-- NODE_ACCESS (R428): Writing GO reads or writes a graph node as one step. -/
  | nodeAccess (v : W64)
  /-- REGISTER_WRITE (R427): A write to a management register that has no behaviour of its own. -/
  | registerWrite (off : Nat) (v : W64)
  /-- RESUME_STOPPED_CREW (R331): The supervisor resumes a crew that was stopped after a double trap. -/
  | resumeStoppedCrew (k : GKey)
  /-- END_STOPPED_CREW (R332): The supervisor ends a crew stopped after a double trap, and its launch completes with status 0x0C. -/
  | endStoppedCrew (k : GKey)
  /-- KEPT_RANGE_RELEASE (R39): The supervisor releases kept register ranges still charged to a core. -/
  | keptRangeRelease (k : GKey)
  /-- BUNTING_FRAME (R336): At each frame boundary, each writer sends at most one pending slot on each plane, in the order the rule fixes. -/
  | buntingFrame
  /-- RECEIVER_LOCK (R411): A port wavelength in training reaches LOCK = 1 with BERX at least 40, and the receiver proposes the wider mask. -/
  | receiverLock (p : Nat) (w : Nat)
  /-- FREQUENCY_CHANGE_END (R421): A regional frequency change completes and issue in the region resumes, at most 200 ns after it stopped. -/
  | frequencyChangeEnd (r : Nat)
  /-- DROOP_PASSED (R421): A droop passes and the region's cycles stop being stretched. -/
  | droopPassed (r : Nat)
  /-- TEMPERATURE_BELOW_TWARN (R423): A region's temperature falls below TWARN, frequency stepping stops and TSTATE returns to 0. -/
  | temperatureBelowTwarn (r : Nat) (t : Nat)
  /-- MSI_X_VECTOR_UNMASK (R395): The host unmasks an MSI-X vector, and a vector pending while masked is raised. -/
  | msiXVectorUnmask (v : Nat)
  /-- HOST_MEMORY_COMPLETION (R398): A CXL.io completion for a device access to host memory returns, completing the access or the host's acceptance of a store. -/
  | hostMemoryCompletion (k : GKey)
  deriving DecidableEq, Repr

end Sys2Proof
end

