-- ==== Sys2Proof/Machine/Forms.lean ====
section
/-!
DEFINITION. Forms.lean: what each lane instruction accepts in its fields: types, mod and ext values, operand modes
(R128 to R135, R194 to R197, R230 to R262). WellFormed.lean and the decoder call these checks at a fixed `fmt`, the
lane stream calls them at the clause's recorded `fmt`.
-/
namespace Sys2Proof.Machine

/-! ### Types (R134) -/

/-- Width in bits of an element or packed word; 0 for the variable-precision types (R193). -/
def tyWidth : Ty → Nat
  | .i8 | .n8 | .e4m3 | .e5m2 | .e8m0 | .b8 => 8
  | .i16 | .n16 | .bf16 | .f16 => 16
  | .i32 | .n32 | .f32 | .bf16x2 | .f16x2 | .e4m3x4 | .e5m2x4 | .e2m1x8 | .b8x4 => 32
  | .i64 | .n64 => 64
  | .e2m1 => 4
  | .vpf | .vpfc => 0

/-- The integer types i8 to n64. -/
def tyIsInt : Ty → Bool
  | .i8 | .n8 | .i16 | .n16 | .i32 | .n32 | .i64 | .n64 => true
  | _ => false

/-- The signed integer types (R198). -/
def tySigned : Ty → Bool
  | .i8 | .i16 | .i32 | .i64 => true
  | _ => false

/-- vpf and vpfc. -/
def tyIsVpf : Ty → Bool
  | .vpf | .vpfc => true
  | _ => false

/-- f32, bf16 and f16, the scalar types of the float class. -/
def tyIsFloat : Ty → Bool
  | .f32 | .bf16 | .f16 => true
  | _ => false

/-- The types FADD and its kin accept (R197). -/
def tyIsFloatOrPair : Ty → Bool
  | .f32 | .bf16 | .f16 | .bf16x2 | .f16x2 => true
  | _ => false

/-- The packed types. -/
def tyPacked : Ty → Bool
  | .bf16x2 | .f16x2 | .e4m3x4 | .e5m2x4 | .e2m1x8 | .b8x4 => true
  | _ => false

/-- Elements of a packed word (R47); 1 for the others. -/
def tyCount : Ty → Nat
  | .bf16x2 | .f16x2 => 2
  | .e4m3x4 | .e5m2x4 | .b8x4 => 4
  | .e2m1x8 => 8
  | _ => 1

/-- The element type of a packed type. -/
def tyElem : Ty → Ty
  | .bf16x2 => .bf16
  | .f16x2 => .f16
  | .e4m3x4 => .e4m3
  | .e5m2x4 => .e5m2
  | .b8x4 => .b8
  | .e2m1x8 => .e2m1
  | t => t

/-- Types whose meaning needs `fmt.P` (R48). -/
def tyIsB8 : Ty → Bool
  | .b8 | .b8x4 => true
  | _ => false

/-- Types a mode-101 immediate may be read in (R133). -/
def tyImmOk (t : Ty) : Bool := tyIsInt t || tyIsFloat t

/-- The 6-bit code of a type (R134). -/
def tyCode : Ty → BitVec 6
  | .i8 => 0x00 | .n8 => 0x01 | .i16 => 0x02 | .n16 => 0x03
  | .i32 => 0x04 | .n32 => 0x05 | .i64 => 0x06 | .n64 => 0x07
  | .f32 => 0x08 | .bf16 => 0x09 | .bf16x2 => 0x0A | .f16 => 0x0B
  | .f16x2 => 0x0C | .e4m3 => 0x10 | .e5m2 => 0x11 | .e2m1 => 0x12
  | .e8m0 => 0x14 | .b8 => 0x15 | .e4m3x4 => 0x16 | .e5m2x4 => 0x17
  | .e2m1x8 => 0x18 | .b8x4 => 0x19 | .vpf => 0x20 | .vpfc => 0x21

/-- The type of a 6-bit code; none for an unassigned code (R134). -/
def tyOfCode (c : BitVec 6) : Option Ty :=
  match c.toNat with
  | 0x00 => some .i8 | 0x01 => some .n8 | 0x02 => some .i16 | 0x03 => some .n16
  | 0x04 => some .i32 | 0x05 => some .n32 | 0x06 => some .i64 | 0x07 => some .n64
  | 0x08 => some .f32 | 0x09 => some .bf16 | 0x0A => some .bf16x2 | 0x0B => some .f16
  | 0x0C => some .f16x2 | 0x10 => some .e4m3 | 0x11 => some .e5m2 | 0x12 => some .e2m1
  | 0x14 => some .e8m0 | 0x15 => some .b8 | 0x16 => some .e4m3x4 | 0x17 => some .e5m2x4
  | 0x18 => some .e2m1x8 | 0x19 => some .b8x4 | 0x20 => some .vpf | 0x21 => some .vpfc
  | _ => none

/-! ### Fields of `fmt` (R54) -/

/-- The rounding mode field RM. -/
def fmtRm (f : W64) : Nat := bitsOf f 2 0
/-- Flush class A, B, C inputs. -/
def fmtFia (f : W64) : Bool := bitAt f 3
def fmtFib (f : W64) : Bool := bitAt f 4
def fmtFic (f : W64) : Bool := bitAt f 5
/-- Flush class A, B, C outputs. -/
def fmtFoa (f : W64) : Bool := bitAt f 6
def fmtFob (f : W64) : Bool := bitAt f 7
def fmtFoc (f : W64) : Bool := bitAt f 8
/-- The binary8 precision P. -/
def fmtP (f : W64) : Nat := bitsOf f 11 9
/-- The binary8 unsigned form. -/
def fmtB8u (f : W64) : Bool := bitAt f 12
/-- Binary8 infinities. -/
def fmtB8inf (f : W64) : Bool := bitAt f 13
/-- Saturation of class B and C results. -/
def fmtSat (f : W64) : Bool := bitAt f 14
/-- The working precision. -/
def fmtWprec (f : W64) : Nat := bitsOf f 22 16
/-- The precision ceiling. -/
def fmtCprec (f : W64) : Nat := bitsOf f 29 23
/-- Trap on an exact result beyond CPREC. -/
def fmtPxt (f : W64) : Bool := bitAt f 30

/-- The bits of `fmt` that a write may change; the others are reserved and read zero (R54, R6). -/
def fmtMask : W64 := 0x7FFF7FFF

/-- The precision that governs a variable-precision type (R219). -/
def vpfPrec (f : W64) : Ty → Nat
  | .vpfc => fmtCprec f
  | _ => fmtWprec f

/-- The window length of a precision; 0 where the precision gives no valid window (R31). -/
def windowLen (p : Nat) : Nat :=
  if p < 2 then 0 else if p ≤ 17 then 1 else if p ≤ 49 then 2 else if p ≤ 81 then 3
  else if p ≤ 113 then 4 else 0

/-- Slots that an operand of a type occupies (R31, R193). -/
def slotsOf (f : W64) (t : Ty) : Nat :=
  if tyIsVpf t then windowLen (vpfPrec f t) else if tyWidth t = 64 then 2 else 1

/-! ### Uses of an operand position (R132, R133, R195) -/

/-- How an instruction uses an operand position. -/
inductive Use where
  /-- Not used: the field holds 0x000. -/
  | unused
  /-- A source of n slots, typed, or raw 32 bits where no type is given. -/
  | src (n : Nat) (t : Option Ty)
  /-- A destination of n slots. -/
  | dst (n : Nat)
  /-- Read and then written, n slots. -/
  | upd (n : Nat)
  /-- A predicate source. -/
  | pred
  /-- A predicate destination. -/
  | pdst
  /-- Not an operand specification of this check: ACCLD and ACCST's tile number, bits 11:4 zero. -/
  | tileNo
  deriving DecidableEq, Repr

/-- A typed source may use a broadcast or an immediate only when it is one slot or one 64-bit value (R133). -/
def useScalarWide (n : Nat) (t : Option Ty) : Bool :=
  n = 1 || (n = 2 && (t = some .i64 || t = some .n64))

/-- Whether an operand specification may stand in a position of the given use (R132, R133, R195). -/
def useOk (u : Use) (o : Opnd) : Bool :=
  match u, o with
  | .unused, .v n => n = 0
  | .unused, _ => false
  | .src n _, .v _ => 0 < n
  | .src n _, .vx _ _ => 0 < n
  | .src n _, .c i => 0 < n && i.toNat + n ≤ 8
  | .src n _, .y _ => n = 1
  | .src n t, .s _ => useScalarWide n t && (t.map tyIsVpf).getD false = false
  | .src n t, .imm _ => useScalarWide n t && (t.map tyImmOk).getD true
  | .src n _, .spec _ => n = 1
  | .src _ _, .p _ _ => false
  | .dst n, .v _ => 0 < n
  | .dst n, .vx _ _ => 0 < n
  | .dst n, .c i => 0 < n && i.toNat + n ≤ 8
  | .dst _, _ => false
  | .upd n, .v _ => 0 < n
  | .upd n, .vx _ _ => 0 < n
  | .upd n, .c i => 0 < n && i.toNat + n ≤ 8
  | .upd _, _ => false
  | .pred, .p _ _ => true
  | .pred, _ => false
  | .pdst, .p neg k => !neg && k ≠ 0
  | .pdst, _ => false
  | .tileNo, .v n => n.toNat < 16
  | .tileNo, _ => false

/-- The slots a use spans for the range check of R33; 0 for a position without slots. -/
def useSlots : Use → Nat
  | .src n _ | .dst n | .upd n => n
  | _ => 0

/-- What an instruction requires of its fields: the uses of its four positions, whether its types, mod and ext are
assigned, whether it takes a rounding mode, and whether its result is one 32-bit value per lane (R23). -/
structure Shape where
  d : Use := .unused
  a : Use := .unused
  b : Use := .unused
  c : Use := .unused
  ok : Bool := true
  rounds : Option (BitVec 3) := none
  single : Bool := false
  deriving DecidableEq, Repr

/-- No bit of mod outside `mask`, and a rounding modifier other than 7 where the instruction rounds (R128). -/
def mdOk (mask : Nat) (rnd : Bool) (m : BitVec 10) : Bool :=
  (m &&& ~~~(BitVec.ofNat 10 mask ||| if rnd then 0x380 else 0)) = 0
    && (!rnd || m.extractLsb' 7 3 ≠ 7)

/-- The rounding modifier, mod bits 9:7 (R128). -/
def mdRnd (m : BitVec 10) : BitVec 3 := m.extractLsb' 7 3

/-- The second type, ext bits 15:10 of the word (R128). -/
def extTy (e : BitVec 14) : Option Ty := tyOfCode (e.extractLsb' 8 6)
/-- The 8-bit field, ext bits 9:2 of the word (R128). -/
def extByte (e : BitVec 14) : BitVec 8 := e.extractLsb' 0 8

/-- A rounding mode is wanted of the modifier (R55). -/
def rmOf (m : BitVec 10) : Option (BitVec 3) := some (mdRnd m)

/-- The destination of a compare: a predicate or a register (R202). -/
def cmpDst (d : Opnd) (n : Nat) : Use :=
  match d with
  | .p _ _ => .pdst
  | _ => .dst n

/-- Whether an operand names a predicate. -/
def isPred : Opnd → Bool
  | .p _ _ => true
  | _ => false

/-! ### Shapes, instruction by instruction (R197) -/

def shArith (f : W64) (sat : Bool) (third : Bool) (ty : Ty) (md : BitVec 10) (ext : BitVec 14) : Shape :=
  let n := slotsOf f ty
  { d := .dst n, a := .src n (some ty), b := .src n (some ty),
    c := if third then .src n (some ty) else .unused,
    ok := tyIsInt ty && mdOk (if sat then 1 else 0) false md && ext = 0, single := n = 1 }

def shIdot4 (ty : Ty) (md : BitVec 10) (ext : BitVec 14) : Shape :=
  { d := .dst 1, a := .src 1 (some ty), b := .src 1 (some ty), c := .src 1 (some ty),
    ok := (ty = .i32 || ty = .n32) && mdOk 7 false md && ext = 0, single := true }

/-- BFN3: the function table is in ext in LA and in mod in LI (R200). -/
def shBfn3 (f : W64) (li : Bool) (ty : Ty) (md : BitVec 10) (ext : BitVec 14) : Shape :=
  let n := slotsOf f ty
  { d := .dst n, a := .src n (some ty), b := .src n (some ty), c := .src n (some ty),
    ok := tyIsInt ty && mdOk (if li then 0xFF else 0) false md && ext.extractLsb' 8 6 = 0, single := n = 1 }

def shShf (f : W64) (ty : Ty) (md : BitVec 10) (ext : BitVec 14) : Shape :=
  let n := slotsOf f ty
  { d := .dst n, a := .src n (some ty), b := .src n (some ty),
    c := if md.extractLsb' 0 2 = 3 then .src n (some ty) else .unused,
    ok := tyIsInt ty && mdOk 3 false md && ext = 0, single := n = 1 }

/-- BFX and BFI read b as one 32-bit slot whatever the type (R201). -/
def shBf (f : W64) (ins : Bool) (ty : Ty) (md : BitVec 10) (ext : BitVec 14) : Shape :=
  let n := slotsOf f ty
  { d := .dst n, a := .src n (some ty), b := .src 1 none, c := if ins then .src n (some ty) else .unused,
    ok := tyIsInt ty && mdOk (if ins then 0 else 1) false md && ext = 0, single := n = 1 }

def shBitc (f : W64) (ty : Ty) (md : BitVec 10) (ext : BitVec 14) : Shape :=
  let n := slotsOf f ty
  { d := .dst n, a := .src n (some ty), ok := tyIsInt ty && mdOk 3 false md && ext = 0, single := n = 1 }

/-- The compares: conditions below `ncond`, combining only into a predicate (R202, R205, R223). -/
def shCmp (f : W64) (tyOk : Bool) (ncond : Nat) (vpf : Bool) (d : Opnd) (ty : Ty) (md : BitVec 10)
    (ext : BitVec 14) : Shape :=
  let n := slotsOf f ty
  let comb := md.extractLsb' 3 2
  { d := cmpDst d (if vpf then 1 else n), a := .src n (some ty), b := .src n (some ty),
    c := if comb ≠ 0 then .pred else .unused,
    ok := tyOk && mdOk 0x1F false md && (md.extractLsb' 0 3).toNat < ncond && ext = 0
      && (isPred d || comb = 0),
    single := !isPred d && (vpf || n = 1) }

def shFloat (signs : Nat) (third : Bool) (ty : Ty) (md : BitVec 10) (ext : BitVec 14) : Shape :=
  { d := .dst 1, a := .src 1 (some ty), b := .src 1 (some ty), c := if third then .src 1 (some ty) else .unused,
    ok := tyIsFloatOrPair ty && mdOk signs true md && ext = 0, rounds := rmOf md, single := true }

def shFminmax (ty : Ty) (md : BitVec 10) (ext : BitVec 14) : Shape :=
  { d := .dst 1, a := .src 1 (some ty), b := .src 1 (some ty),
    ok := tyIsFloatOrPair ty && mdOk 1 false md && ext = 0, single := true }

def shFmath (ty : Ty) (md : BitVec 10) (ext : BitVec 14) : Shape :=
  { d := .dst 1, a := .src 1 (some ty), b := if md.extractLsb' 0 4 = 8 then .src 1 (some ty) else .unused,
    ok := tyIsFloatOrPair ty && mdOk 0xF true md && (md.extractLsb' 0 4).toNat ≤ 8 && ext = 0,
    rounds := rmOf md, single := true }

/-- FSCA: a scale of kind 1 or 2 is one or two e8m0 codes read as bits (R207), from a raw slot that any mode of a 32-bit
integer source may name (DEDUCED, log 90). -/
def shFsca (ty : Ty) (md : BitVec 10) (ext : BitVec 14) : Shape :=
  { d := .dst 1, a := .src 1 (some ty), b := .src 1 (if md.extractLsb' 0 2 = 0 then some ty else none),
    c := .src 1 (some ty),
    ok := ty = .f32 && mdOk 3 true md && md.extractLsb' 0 2 ≠ 3 && ext = 0, rounds := rmOf md, single := true }

def shFclass (f : W64) (d : Opnd) (ty : Ty) (md : BitVec 10) (ext : BitVec 14) : Shape :=
  { d := cmpDst d 1, a := .src (slotsOf f ty) (some ty),
    ok := (tyIsFloat ty || ty = .e4m3 || ty = .e5m2 || ty = .e2m1 || ty = .b8 || tyIsVpf ty)
      && mdOk (if isPred d then 0x1FF else 0) false md && ext = 0,
    single := !isPred d }

/-- The types CVT accepts on both sides (R209). -/
def cvtTy (t : Ty) : Bool :=
  tyIsInt t || tyIsFloat t || t = .e4m3 || t = .e5m2 || t = .e2m1 || t = .b8

def shCvt (f : W64) (ty : Ty) (md : BitVec 10) (ext : BitVec 14) : Shape :=
  match extTy ext with
  | none => { ok := false }
  | some ts =>
    let ints := tyIsInt ty && tyIsInt ts
    { d := .dst (slotsOf f ty), a := .src (slotsOf f ts) (some ts),
      ok := cvtTy ty && (cvtTy ts || ts = .e8m0) && mdOk (if ints then 1 else 0) (!ints) md && extByte ext = 0,
      rounds := if ints then none else rmOf md, single := slotsOf f ty = 1 }

/-- PACK: a window of as many f32 slots as the packed type has elements, and a scale code (R210; its operand: log 90). -/
def shPack (ty : Ty) (md : BitVec 10) (ext : BitVec 14) : Shape :=
  { d := .dst 1, a := .src (tyCount ty) (some .f32), b := if bitAt md 0 then .src 1 none else .unused,
    ok := tyPacked ty && mdOk 1 true md && extTy ext = some .f32 && extByte ext = 0, rounds := rmOf md,
    single := true }

/-- UNPACK takes a rounding mode only where it rounds: unscaled it is exact (R211; DEDUCED, log 91). Its scale operand: log 90. -/
def shUnpack (ty : Ty) (md : BitVec 10) (ext : BitVec 14) : Shape :=
  match extTy ext with
  | none => { ok := false }
  | some ts =>
    { d := .dst (tyCount ts), a := .src 1 (some ts), b := if bitAt md 0 then .src 1 none else .unused,
      ok := ty = .f32 && tyPacked ts && mdOk 1 true md && extByte ext = 0,
      rounds := if bitAt md 0 then rmOf md else none, single := false }

def shScalex (ty : Ty) (md : BitVec 10) (ext : BitVec 14) : Shape :=
  { d := .dst 1, a := .src 1 (some .f32),
    ok := ty = .e8m0 && md = 0 && extByte ext = 0
      && (match extTy ext with | some .e4m3 | some .e5m2 | some .e2m1 | some .b8 => true | _ => false),
    single := true }

def shLperm (f : W64) (ty : Ty) (md : BitVec 10) (ext : BitVec 14) : Shape :=
  let n := slotsOf f ty
  { d := .dst n, a := .src n (some ty), b := .src 1 none,
    ok := !tyIsVpf ty && mdOk 0x1F false md && (md.extractLsb' 2 3).toNat ≤ 4 && ext = 0, single := n = 1 }

def shQuad (f : W64) (codes : Nat) (ty : Ty) (md : BitVec 10) (ext : BitVec 14) : Shape :=
  let n := slotsOf f ty
  { d := .dst n, a := .src n (some ty),
    ok := !tyIsVpf ty && mdOk 3 false md && (md.extractLsb' 0 2).toNat < codes && ext = 0, single := n = 1 }

/-- RED and SCAN: the operation code must suit the type (R216, R217). -/
def shRed (f : W64) (scan : Bool) (ty : Ty) (md : BitVec 10) (ext : BitVec 14) : Shape :=
  let n := slotsOf f ty
  let op := (md.extractLsb' 0 3).toNat
  let seg := (if scan then md.extractLsb' 4 3 else md.extractLsb' 3 3).toNat
  { d := .dst n, a := .src n (some ty),
    ok := (tyIsInt ty || tyIsFloat ty) && mdOk (if scan then 0x7F else 0x3F) true md && seg ≤ 4 && ext = 0
      && (op ≤ 2 || (op ≤ 5 && tyIsInt ty) || (op = 6 && !scan && tyIsFloat ty)),
    rounds := if tyIsFloat ty && op = 0 then rmOf md else none, single := n = 1 }

def shPpoll (d : Opnd) (ty : Ty) (md : BitVec 10) (ext : BitVec 14) : Shape :=
  let mk := md.extractLsb' 0 2 = 2
  { d := if mk then .dst 1 else .pdst, a := .pred, ok := ty = .n32 && mdOk 3 false md && ext = 0,
    single := mk && !isPred d }

/-- VPF arithmetic: destination type in the type field, source type in ext (R219). -/
def shVpf (f : W64) (third : Bool) (exact : Bool) (md mask : BitVec 10) (ty : Ty) (ext : BitVec 14) (two : Bool)
    (byteOk : Bool) : Shape :=
  match extTy ext with
  | none => { ok := false }
  | some ts =>
    let n := slotsOf f ts
    { d := .dst (slotsOf f ty), a := .src n (some ts), b := if two then .src n (some ts) else .unused,
      c := if third then .src n (some ts) else .unused,
      ok := tyIsVpf ty && (!exact || ty = .vpfc) && tyIsVpf ts && mdOk mask.toNat true md && byteOk,
      rounds := rmOf md, single := slotsOf f ty = 1 }

/-- The types XCVT accepts (R222). -/
def xcvtTy (t : Ty) : Bool :=
  tyIsVpf t || tyIsFloat t || t = .e4m3 || t = .e5m2 || t = .b8 || t = .i32 || t = .n32 || t = .i64 || t = .n64

def shXcvt (f : W64) (ty : Ty) (md : BitVec 10) (ext : BitVec 14) : Shape :=
  match extTy ext with
  | none => { ok := false }
  | some ts =>
    { d := .dst (slotsOf f ty), a := .src (slotsOf f ts) (some ts),
      ok := xcvtTy ty && xcvtTy ts && (tyIsVpf ty || tyIsVpf ts) && mdOk 0 true md && extByte ext = 0,
      rounds := rmOf md, single := slotsOf f ty = 1 }

/-- The target of XRND: 0, or a precision from 2 to 113 (R224). -/
def xrndTarget (q : Nat) : Bool := q = 0 || (2 ≤ q && q ≤ 113)

def shMov (f : W64) (ty : Ty) (md : BitVec 10) (ext : BitVec 14) : Shape :=
  let n := slotsOf f ty
  { d := .dst n, a := .src n (some ty), ok := md = 0 && ext = 0, single := n = 1 }

def shSel (f : W64) (ty : Ty) (md : BitVec 10) (ext : BitVec 14) : Shape :=
  let n := slotsOf f ty
  { d := .dst n, a := .src n (some ty), b := .src n (some ty), c := .pred, ok := md = 0 && ext = 0,
    single := n = 1 }

def shPfn3 (ty : Ty) (md : BitVec 10) (ext : BitVec 14) : Shape :=
  { d := .pdst, a := .pred, b := .pred, c := .pred, ok := ty = .i8 && md = 0 && ext.extractLsb' 8 6 = 0 }

def shSpec (ty : Ty) (md : BitVec 10) (ext : BitVec 14) : Shape :=
  let sel := (md.extractLsb' 0 4).toNat
  { d := .dst 1,
    ok := ty = .n32 && mdOk 0xF false md && sel ≤ 9 && ext.extractLsb' 8 6 = 0
      && (if 6 ≤ sel && sel ≤ 8 then (extByte ext).toNat ≤ 3 else extByte ext = 0),
    single := true }

def shIxset (ty : Ty) (md : BitVec 10) (ext : BitVec 14) : Shape :=
  let en (k : Nat) : Use := if bitAt md k then .src 1 (some ty) else .unused
  { a := en 2, b := en 3, c := en 4,
    ok := ty = .i32 && mdOk 0x1F false md && md.extractLsb' 2 3 ≠ 0 && ext = 0 }

def shAccrd (ty : Ty) (md : BitVec 10) (ext : BitVec 14) : Shape :=
  { d := .dst 4, a := .src 1 none, ok := ty = .f32 && mdOk 0xF false md && ext = 0 }

def shAccwr (ty : Ty) (md : BitVec 10) (ext : BitVec 14) : Shape :=
  { a := .src 4 (some .f32), b := .src 1 none, ok := ty = .f32 && mdOk 0xF false md && ext = 0 }

/-! ### Formats -/

/-- A predicate field other than negated p0 (R26, R127). -/
def predOk (p : PredSel) : Bool := !(p.neg && p.num = 0)

/-- The rounding mode an instruction takes: its modifier, or `fmt.RM`; none where RM is reserved (R55). -/
def rmCode (f : W64) (r : BitVec 3) : Option Nat :=
  if r = 0 then (if fmtRm f ≤ 5 then some (fmtRm f) else none) else some (r.toNat - 1)

/-- The dynamic checks of R55: a usable rounding mode where one is taken. -/
def roundOk (f : W64) (r : Option (BitVec 3)) : Bool :=
  match r with
  | none => true
  | some m => (rmCode f m).isSome

/-- A binary8 type needs P from 1 to 7 (R55). -/
def b8Ok (f : W64) (ts : List Ty) : Bool := fmtP f ≠ 0 || ts.all fun t => !tyIsB8 t

/-- The types a format LA word names. -/
def laTypes (x : LaForm) (second : Bool) : List Ty :=
  x.ty :: (if second then (extTy x.ext).toList else [])

/-- The check of a format LA instruction against its shape. -/
def laOk (f : W64) (x : LaForm) (second : Bool) (sh : Shape) : Bool :=
  predOk x.pr && sh.ok && useOk sh.d x.d && useOk sh.a x.a && useOk sh.b x.b && useOk sh.c x.c
    && (!x.yw || sh.single) && roundOk f sh.rounds && b8Ok f (laTypes x second)

/-- The third source of an LI form is its destination (R129, R194). -/
def liDst (d c : Use) : Use :=
  match c, d with
  | .unused, d => d
  | .pred, d => d
  | _, .dst n => .upd n
  | _, d => d

/-- The immediate of an LI form fits its type (R129). -/
def liImmOk (raw : Bool) (t : Ty) (imm : W32) : Bool :=
  raw || tyIsVpf t = false && (32 ≤ tyWidth t || imm.toNat < 2 ^ tyWidth t)

/-- The check of a format LI instruction against the shape of its LA form. -/
def liOk (f : W64) (x : LiForm) (raw : Bool) (sh : Shape) : Bool :=
  predOk x.pr && sh.ok && useOk (liDst sh.d sh.c) x.d && useOk sh.a x.a && roundOk f sh.rounds
    && b8Ok f [x.ty] && liImmOk raw x.ty x.imm && sh.b ≠ .unused

/-! ### Format LM (R130, R230 to R247, R261) -/

/-- Bytes of a memory element of a type; 0 where LD and ST do not accept it (R234). -/
def elemBytes : Ty → Nat
  | .e2m1 | .vpf | .vpfc => 0
  | t => tyWidth t / 8

/-- Elements named by the vec code (R130). -/
def vecCount (v : BitVec 2) : Nat := 2 ^ v.toNat

/-- The order codes an access may carry (R105): plain and SC always. -/
def orderOk (acq rel ar : Bool) (o : BitVec 3) : Bool :=
  match o.toNat with
  | 0 => true
  | 1 => acq
  | 2 => rel
  | 3 => ar
  | 4 => true
  | _ => false

/-- A scope is used only with an order, and 6 and 7 are reserved (R96). -/
def scopeOk (o s : BitVec 3) : Bool := o = 0 || s.toNat ≤ 5

/-- The common checks of format LM: predicate, space, cache, address operand (R130, R230, R233). -/
def lmCommon (f : W64) (x : LmForm) (data : Use) : Bool :=
  predOk x.pr && x.space.toNat ≤ 3 && x.cache ≠ 3 && (x.space = 0 || x.cache = 0) && x.vec ≠ 3
    && useOk (.src 1 none) x.addr && useOk data x.data && b8Ok f [x.ty]

/-- The operand of LD and ST: v elements of their slots (R234). -/
def lmData (ld : Bool) (x : LmForm) : Use :=
  let n := vecCount x.vec * (if tyWidth x.ty = 64 then 2 else 1)
  if ld then .dst n else .src n (some x.ty)

def lmLdOk (f : W64) (x : LmForm) : Bool :=
  lmCommon f x (lmData true x) && elemBytes x.ty ≠ 0 && x.fe = 0 && orderOk true false false x.order
    && scopeOk x.order x.scope

def lmStOk (f : W64) (x : LmForm) : Bool :=
  lmCommon f x (lmData false x) && elemBytes x.ty ≠ 0 && x.fe = 0 && orderOk false true false x.order
    && scopeOk x.order x.scope

/-- The conditions of R241 on full/empty operations. -/
def lmFeCommon (x : LmForm) : Bool :=
  (x.space = 1 || x.space = 2) && (x.ty = .i32 || x.ty = .n32 || x.ty = .f32) && x.vec = 0 && x.cache = 0

/-- LDFE, STFE and FESET: the scope field applies to every order but 0 (R105, R242; DEDUCED, log 106). -/
def lmFeOk (f : W64) (x : LmForm) (data : Use) (fe : BitVec 2) (acq rel : Bool) : Bool :=
  lmCommon f x data && lmFeCommon x && x.fe = fe && orderOk acq rel false x.order && scopeOk x.order x.scope

/-- LD.wf, ST.fill and ST.empty: the scope field is used only with SC (R243; DEDUCED, log 106). -/
def lmFlavourOk (f : W64) (x : LmForm) (data : Use) (fe : BitVec 2) (acq rel : Bool) : Bool :=
  lmCommon f x data && lmFeCommon x && x.fe = fe && orderOk acq rel false x.order && (x.order ≠ 4 || x.scope.toNat ≤ 5)

def lmLdvOk (f : W64) (x : LmForm) : Bool :=
  lmCommon f x (.dst (slotsOf f x.ty)) && tyIsVpf x.ty && x.vec = 0 && x.fe = 0
    && orderOk true false false x.order && scopeOk x.order x.scope && roundOk f (some 0)

def lmStvOk (f : W64) (x : LmForm) : Bool :=
  lmCommon f x (.src (slotsOf f x.ty) (some x.ty)) && tyIsVpf x.ty && x.vec = 0 && x.fe = 0
    && orderOk false true false x.order && scopeOk x.order x.scope

def lmPrefOk (f : W64) (x : LmForm) : Bool :=
  lmCommon f x .unused && elemBytes x.ty ≠ 0 && x.space = 0 && x.order = 0 && x.scope = 0 && x.fe = 0

/-- The types an ATOM or ATOMC operation accepts (R245). -/
def atomTyOk (cas : Bool) (op : BitVec 2) (t : Ty) : Bool :=
  let int := t = .i32 || t = .n32 || t = .i64 || t = .n64
  if cas then int || (op = 0 && t = .f32)
  else int || t = .f32 || (op = 0 && (t = .bf16x2 || t = .f16x2))

/-- Whether the data operand of an atomic makes it return (R246). -/
def atomReturns : Opnd → Bool
  | .v _ | .c _ | .vx _ _ => true
  | _ => false

def atomUse (cas : Bool) (x : LmForm) : Use :=
  let n := if tyWidth x.ty = 64 then 2 else 1
  if cas && x.fe = 0 then .upd (2 * n)
  else if atomReturns x.data then .upd n else .src n (some x.ty)

def lmAtomOk (f : W64) (cas : Bool) (x : LmForm) : Bool :=
  lmCommon f x (atomUse cas x) && atomTyOk cas x.fe x.ty && x.vec = 0 && x.cache = 0
    && orderOk true true true x.order && scopeOk x.order x.scope

def lmAccOk (f : W64) (ld : Bool) (x : LmForm) : Bool :=
  lmCommon f x .tileNo && x.ty = .f32 && x.vec = 0 && x.fe = 0 && orderOk ld (!ld) false x.order
    && scopeOk x.order x.scope

/-! ### Format LX (R131, R248 to R256) -/

/-- Chunk depth, elements per slot and k-group of a legal type pair (R248). -/
def mmaPair (tA tB : Ty) : Option (Nat × Nat × Nat) :=
  let e8 (t : Ty) : Bool := t = .e4m3 || t = .e5m2 || t = .b8
  if (tA = .bf16 && tB = .bf16) || (tA = .f16 && tB = .f16) then some (32, 2, 16)
  else if e8 tA && e8 tB then some (64, 4, 32)
  else if tA = .e2m1 && tB = .e2m1 then some (128, 8, 64)
  else none

/-- M and N of the shape codes, and n, the number of chunks along k (R131, R248). -/
def mmaM (x : LxForm) : Nat := 32 * 2 ^ x.mCode.toNat
def mmaN (x : LxForm) : Nat := 64 * 2 ^ x.nCode.toNat
def mmaChunks (x : LxForm) : Nat := x.kCode.toNat + 1
/-- Slots of operand A (R249). -/
def mmaASlots (x : LxForm) : Nat := 16 * mmaChunks x * (mmaM x / 32)
/-- Slots of the A-scale run (R251). -/
def mmaScaleSlots (x : LxForm) : Nat := mmaChunks x * (mmaM x / 32)

def lxMmaOk (f : W64) (scaled : Bool) (x : LxForm) : Bool :=
  match mmaPair x.tA x.tB with
  | none => false
  | some (kc, _, kg) =>
    predOk x.pr && x.mCode ≠ 3 && x.nCode ≠ 3 && x.mode ≠ 3 && !x.zero
      && (match x.a with | .v _ => true | _ => false)
      && (if scaled then kg ≠ 16 && x.mode ≠ 2 else x.aScale = 0 && x.bScale = 0)
      && (x.mode ≠ 2 || mmaChunks x * kc ≤ 128) && b8Ok f [x.tA, x.tB]

def lxAcczOk (x : LxForm) : Bool :=
  predOk x.pr && x.a = .v 0 && x.bBase = 0 && x.mCode = 0 && x.nCode = 0 && x.kCode = 0 && x.tA = .i8 && x.tB = .i8
    && !x.band && !x.zero && x.mode = 0 && x.aScale = 0 && x.bScale = 0 && !x.reuse

/-- MBFEN and MBWAIT: every field zero but opcode, predicate and MBWAIT's batch (R257, R258). -/
def liMbOk (wait : Bool) (x : LiForm) : Bool :=
  predOk x.pr && x.d = .v 0 && x.a = .v 0 && x.ty = .i8 && x.md = 0
    && (if wait then x.imm.toNat < 65536 else x.imm = 0)

end Sys2Proof.Machine
end

