-- ==== Sys2Proof/Machine/Legal.lean ====
section
/-!
DEFINITION. Legal.lean: which terms of Instr are legal at a given `fmt` (R126, R128, R196), constructor by constructor.
-/
namespace Sys2Proof.Machine

/-- The order and scope of a scalar atomic: order 0 to 4, and a scope below 6 where the order uses it (R168, R170). -/
def amoOrderOk (o s : BitVec 3) : Bool := o.toNat ≤ 4 && (o = 0 || s.toNat ≤ 5)

/-- Whether the instruction is legal at `fmt` = f: a scalar word assigned by R124 to R126, a lane instruction whose
fields its description accepts. Events have no fields to check. -/
def legalAt (f : W64) : Instr → Bool
  | .nop => true
  | .endGroup => true
  | .endk _ _ => true
  | .yield => true
  | .isync => true
  | .npbegin => true
  | .npend => true
  | .add _ _ _ => true
  | .sub _ _ _ => true
  | .mul _ _ _ => true
  | .mulh _ _ _ => true
  | .mulhn _ _ _ => true
  | .div _ _ _ => true
  | .divn _ _ _ => true
  | .rem _ _ _ => true
  | .remn _ _ _ => true
  | .and _ _ _ => true
  | .or _ _ _ => true
  | .xor _ _ _ => true
  | .shl _ _ _ => true
  | .shr _ _ _ => true
  | .sha _ _ _ => true
  | .min _ _ _ => true
  | .max _ _ _ => true
  | .minn _ _ _ => true
  | .maxn _ _ _ => true
  | .clz _ _ => true
  | .popc _ _ => true
  | .cmpEq _ _ _ => true
  | .cmpNe _ _ _ => true
  | .cmpLt _ _ _ => true
  | .cmpLe _ _ _ => true
  | .cmpLtn _ _ _ => true
  | .cmpLen _ _ _ => true
  | .addi _ _ _ => true
  | .andi _ _ _ => true
  | .ori _ _ _ => true
  | .xori _ _ _ => true
  | .shiShl _ _ _ => true
  | .shiShr _ _ _ => true
  | .shiSha _ _ _ => true
  | .cmpiEq _ _ _ => true
  | .cmpiNe _ _ _ => true
  | .cmpiLt _ _ _ => true
  | .cmpiLe _ _ _ => true
  | .cmpiLtn _ _ _ => true
  | .cmpiLen _ _ _ => true
  | .lhi _ _ => true
  | .addpc _ _ => true
  | .bfx _ _ p l => p.toNat + l.toNat + 1 ≤ 64
  | .bfxn _ _ p l => p.toNat + l.toNat + 1 ≤ 64
  | .bfi _ _ p l => p.toNat + l.toNat + 1 ≤ 64
  | .madd _ _ _ _ => true
  | .msub _ _ _ _ => true
  | .taddr _ _ _ _ _ => true
  | .sel _ _ _ _ => true
  | .j _ => true
  | .jal _ => true
  | .jr _ => true
  | .jalr _ _ => true
  | .bz _ _ => true
  | .bnz _ _ => true
  | .ld _ _ w x _ => w ≠ 3 || x = 0
  | .st _ _ _ _ => true
  | .ldk _ _ => true
  | .amoSwap _ _ o sc _ => amoOrderOk o sc
  | .amoAdd _ _ o sc _ => amoOrderOk o sc
  | .amoAnd _ _ o sc _ => amoOrderOk o sc
  | .amoOr _ _ o sc _ => amoOrderOk o sc
  | .amoXor _ _ o sc _ => amoOrderOk o sc
  | .amoMin _ _ o sc _ => amoOrderOk o sc
  | .amoMax _ _ o sc _ => amoOrderOk o sc
  | .amoMinn _ _ o sc _ => amoOrderOk o sc
  | .amoMaxn _ _ o sc _ => amoOrderOk o sc
  | .amoFadd _ _ o sc => amoOrderOk o sc
  | .cas _ _ _ o sc _ => amoOrderOk o sc
  | .clause _ => true
  | .clauser _ => true
  | .mpush n p => !(n = 1 && p = 0)
  | .mpushRegister _ => true
  | .melse => true
  | .mpop => true
  | .setp k _ => k ≠ 0
  | .pmov _ n p => !(n = 1 && p = 0)
  | .wflag _ => true
  | .vget _ _ _ => true
  | .vput _ _ _ => true
  | .setfmt _ _ => true
  | .getfmt _ => true
  | .setprec _ _ => true
  | .getstat _ => true
  | .clrstat _ => true
  | .mfs _ _ => true
  | .mts _ _ => true
  | .fenceFull _ sc => sc.toNat ≤ 5
  | .fenceAcquire _ sc => sc.toNat ≤ 5
  | .fenceRelease _ sc => sc.toNat ≤ 5
  | .fenceSc _ sc => sc.toNat ≤ 5
  | .barSync _ t => t.toNat < 16
  | .barArv _ t => t.toNat < 16
  | .rdtime _ => true
  | .waituntil _ => true
  | .waituntilReached _ => true
  | .qlock _ _ => true
  | .qunlock _ => true
  | .cpy _ _ _ _ => true
  | .cpy2d _ _ b _ => b ≠ 0
  | .twaitAll _ _ => true
  | .twaitAny _ _ => true
  | .tfirst _ _ => true
  | .tack _ => true
  | .bbinit _ => true
  | .bbexp _ _ => true
  | .bbwait _ _ _ => true
  | .bbarv _ _ _ => true
  | .bsub _ _ _ => true
  | .bunsub _ _ => true
  | .bsync _ => true
  | .ndecl _ _ => true
  | .ndrop _ => true
  | .ncan _ _ _ => true
  | .skcmdTag _ _ _ => true
  | .skcmdBb _ _ _ => true
  | .skcmdCw _ _ => true
  | .put _ _ _ _ => true
  | .get _ _ _ _ => true
  | .winwait _ _ k => k.toNat ≤ 1
  | .wincnt _ _ k => k.toNat ≤ 1
  | .qpush _ _ _ => true
  | .trap _ _ => true
  | .tret => true
  | .msave => true
  | .mrest => true
  | .tlbinv _ _ _ => true
  | .tlbsync => true
  | .tlbinvAll => true
  | .npub _ _ _ => true
  | .npubRel _ _ _ => true
  | .nreqTag _ _ _ _ => true
  | .nreqBb _ _ _ _ => true
  | .poolGuard _ => true
  | .iadd x => laOk f x false (shArith f true false x.ty x.md x.ext)
  | .isub x => laOk f x false (shArith f true false x.ty x.md x.ext)
  | .imul x => laOk f x false (shArith f false false x.ty x.md x.ext)
  | .imulh x => laOk f x false (shArith f false false x.ty x.md x.ext)
  | .imad x => laOk f x false (shArith f true true x.ty x.md x.ext)
  | .idot4 x => laOk f x false (shIdot4 x.ty x.md x.ext)
  | .imin x => laOk f x false (shArith f false false x.ty x.md x.ext)
  | .imax x => laOk f x false (shArith f false false x.ty x.md x.ext)
  | .bfn3 x => laOk f x false (shBfn3 f false x.ty x.md x.ext)
  | .shf x => laOk f x false (shShf f x.ty x.md x.ext)
  | .laneBfx x => laOk f x false (shBf f false x.ty x.md x.ext)
  | .laneBfi x => laOk f x false (shBf f true x.ty x.md x.ext)
  | .bitc x => laOk f x false (shBitc f x.ty x.md x.ext)
  | .icmp x => laOk f x false (shCmp f (tyIsInt x.ty) 6 false x.d x.ty x.md x.ext)
  | .iaddLi x => liOk f x false (shArith f true false x.ty x.md 0)
  | .isubLi x => liOk f x false (shArith f true false x.ty x.md 0)
  | .imulLi x => liOk f x false (shArith f false false x.ty x.md 0)
  | .imulhLi x => liOk f x false (shArith f false false x.ty x.md 0)
  | .imadLi x => liOk f x false (shArith f true true x.ty x.md 0)
  | .idot4Li x => liOk f x false (shIdot4 x.ty x.md 0)
  | .iminLi x => liOk f x false (shArith f false false x.ty x.md 0)
  | .imaxLi x => liOk f x false (shArith f false false x.ty x.md 0)
  | .bfn3Li x => liOk f x false (shBfn3 f true x.ty x.md 0)
  | .shfLi x => liOk f x false (shShf f x.ty x.md 0)
  | .laneBfxLi x => liOk f x true (shBf f false x.ty x.md 0)
  | .laneBfiLi x => liOk f x true (shBf f true x.ty x.md 0)
  | .icmpLi x => liOk f x false (shCmp f (tyIsInt x.ty) 6 false x.d x.ty x.md 0)
  | .fadd x => laOk f x false (shFloat 0xF false x.ty x.md x.ext)
  | .fmul x => laOk f x false (shFloat 0xF false x.ty x.md x.ext)
  | .ffma x => laOk f x false (shFloat 0x1F true x.ty x.md x.ext)
  | .fmin x => laOk f x false (shFminmax x.ty x.md x.ext)
  | .fmax x => laOk f x false (shFminmax x.ty x.md x.ext)
  | .fcmp x => laOk f x false (shCmp f (tyIsFloat x.ty) 8 false x.d x.ty x.md x.ext)
  | .fmath x => laOk f x false (shFmath x.ty x.md x.ext)
  | .fsca x => laOk f x false (shFsca x.ty x.md x.ext)
  | .fclass x => laOk f x false (shFclass f x.d x.ty x.md x.ext)
  | .faddLi x => liOk f x false (shFloat 0xF false x.ty x.md 0)
  | .fmulLi x => liOk f x false (shFloat 0xF false x.ty x.md 0)
  | .ffmaLi x => liOk f x false (shFloat 0x1F true x.ty x.md 0)
  | .fminLi x => liOk f x false (shFminmax x.ty x.md 0)
  | .fmaxLi x => liOk f x false (shFminmax x.ty x.md 0)
  | .fcmpLi x => liOk f x false (shCmp f (tyIsFloat x.ty) 8 false x.d x.ty x.md 0)
  | .fmathDivLi x => liOk f x false (shFmath x.ty x.md 0) && x.md.extractLsb' 0 4 = 8
  | .fscaLi x => liOk f x false (shFsca x.ty x.md 0)
  | .cvt x => laOk f x true (shCvt f x.ty x.md x.ext)
  | .pack x => laOk f x true (shPack x.ty x.md x.ext)
  | .unpack x => laOk f x true (shUnpack x.ty x.md x.ext)
  | .scalex x => laOk f x true (shScalex x.ty x.md x.ext)
  | .lperm x => laOk f x false (shLperm f x.ty x.md x.ext)
  | .qxch x => laOk f x false (shQuad f 3 x.ty x.md x.ext)
  | .qbc x => laOk f x false (shQuad f 4 x.ty x.md x.ext)
  | .red x => laOk f x false (shRed f false x.ty x.md x.ext)
  | .scan x => laOk f x false (shRed f true x.ty x.md x.ext)
  | .ppoll x => laOk f x false (shPpoll x.d x.ty x.md x.ext)
  | .xadd x => laOk f x true (shVpf f false false x.md 0 x.ty x.ext true (extByte x.ext = 0))
  | .xmul x => laOk f x true (shVpf f false false x.md 0 x.ty x.ext true (extByte x.ext = 0))
  | .xfma x => laOk f x true (shVpf f true false x.md 0 x.ty x.ext true (extByte x.ext = 0))
  | .xadde x => laOk f x true (shVpf f false true x.md 0 x.ty x.ext true (extByte x.ext = 0))
  | .xmule x => laOk f x true (shVpf f false true x.md 0 x.ty x.ext true (extByte x.ext = 0))
  | .xcvt x => laOk f x true (shXcvt f x.ty x.md x.ext)
  | .xcmp x => laOk f x false (shCmp f (tyIsVpf x.ty) 8 true x.d x.ty x.md x.ext)
  | .xrnd x => laOk f x true (shVpf f false false x.md 0 x.ty x.ext false (xrndTarget (extByte x.ext).toNat))
  | .xerr x => laOk f x true (shVpf f false false x.md 1 x.ty x.ext true (extByte x.ext = 0))
  | .mov x => laOk f x false (shMov f x.ty x.md x.ext)
  | .movi x => predOk x.pr && useOk (.dst (slotsOf f x.ty)) x.d && x.a = .v 0 && x.md = 0 && b8Ok f [x.ty] && liImmOk false x.ty x.imm
  | .laneSel x => laOk f x false (shSel f x.ty x.md x.ext)
  | .pfn3 x => laOk f x false (shPfn3 x.ty x.md x.ext)
  | .spec x => laOk f x false (shSpec x.ty x.md x.ext)
  | .ixset x => laOk f x false (shIxset x.ty x.md x.ext)
  | .laneLd x => lmLdOk f x
  | .laneSt x => lmStOk f x
  | .ldv x => lmLdvOk f x
  | .stv x => lmStvOk f x
  | .pref x => lmPrefOk f x
  | .atom x => lmAtomOk f false x
  | .atomc x => lmAtomOk f true x
  | .ldfe x => lmFeOk f x (.dst 1) 0 true false
  | .stfe x => lmFeOk f x (.src 1 (some x.ty)) 0 false true
  | .fesetFull x => lmFeOk f x .unused 1 false true
  | .fesetEmpty x => lmFeOk f x .unused 2 false true
  | .ldWf x => lmFlavourOk f x (.dst 1) 1 true false
  | .stFill x => lmFlavourOk f x (.src 1 (some x.ty)) 1 false true
  | .stEmpty x => lmFlavourOk f x (.src 1 (some x.ty)) 2 false true
  | .fullEmptyPerform => true
  | .fullEmptyWaitExpired => true
  | .mma x => lxMmaOk f false x
  | .mmas x => lxMmaOk f true x
  | .accz x => lxAcczOk x
  | .accld x => lmAccOk f true x
  | .accst x => lmAccOk f false x
  | .accrd x => laOk f x false (shAccrd x.ty x.md x.ext) && !x.reuse
  | .accwr x => laOk f x false (shAccwr x.ty x.md x.ext) && !x.reuse
  | .mbfen x => liMbOk false x
  | .mbwait x => liMbOk true x
  | .matrixOperationComplete _ _ => true
  | .clauseStart _ => true
  | .positionedEffect _ => true
  | .longLatencyCompletion _ _ => true
  | .granuleFill _ _ => true
  | .trapEntry _ _ _ _ _ => true
  | .engineOperationComplete _ _ _ => true
  | .dataResponse _ _ _ => true
  | .tlbAcknowledge _ _ => true
  | .remotePutArrival _ _ _ => true
  | .sentComplete _ => true
  | .remoteGet _ _ _ => true
  | .gets _ => true
  | .getm _ => true
  | .upgrade _ => true
  | .putm _ => true
  | .inv _ => true
  | .poison _ => true
  | .bcast _ => true
  | .tile _ => true
  | .tlbinvMessage _ => true
  | .ack _ => true
  | .nack _ => true
  | .hold _ => true
  | .replay _ => true
  | .nackSend _ _ => true
  | .retransmissionWindowExpiry _ => true
  | .wavelengthDegraded _ _ _ => true
  | .retuneComplete _ _ _ => true
  | .heartbeat _ => true
  | .unitDead _ => true
  | .planeReadTimeout _ => true
  | .fencing _ => true
  | .recordRewrite _ => true
  | .declaration _ _ => true
  | .interest _ => true
  | .interestNack _ => true
  | .interestRetry _ _ => true
  | .publication _ => true
  | .refill _ _ => true
  | .tileDelivery _ => true
  | .localRecordExpiry _ => true
  | .pitEntryExpiry _ _ => true
  | .drop _ => true
  | .neverProduced _ => true
  | .tileLifetimeEnd _ _ => true
  | .tombstoneEnd _ _ => true
  | .cancel _ => true
  | .nopPacket _ => true
  | .launch _ => true
  | .graph _ => true
  | .copy _ => true
  | .signal _ => true
  | .time _ => true
  | .startReached _ => true
  | .cqHeaderRecheck _ => true
  | .ageing _ => true
  | .blocking _ => true
  | .bandPlacement _ _ _ => true
  | .prewaitExpiry _ _ => true
  | .preemptCommand _ _ _ => true
  | .bandResume _ _ _ _ => true
  | .regionOverrun _ => true
  | .throttleWindow _ _ _ => true
  | .loamZero _ => true
  | .loamCopy _ => true
  | .gred _ => true
  | .sadd _ => true
  | .coll _ => true
  | .collectiveRun _ _ => true
  | .collectiveTimeout _ => true
  | .mig _ => true
  | .heatWindow _ _ => true
  | .domainSwitchOff _ _ => true
  | .domainPowerOff _ _ => true
  | .domainSwitchOn _ _ => true
  | .domainReady _ _ => true
  | .hostWindowWrite _ _ => true
  | .hostWindowRead _ => true
  | .cxlLinkDown => true
  | .cxlLinkUp => true
  | .queueRegistration _ _ => true
  | .managementCommand => true
  | .controllerReset => true
  | .spdmRequest => true
  | .dataFlit _ _ => true
  | .acknowledgementFlit _ _ => true
  | .idleFlit _ _ => true
  | .propose _ _ => true
  | .accept _ _ => true
  | .train _ _ => true
  | .timeFlit _ _ => true
  | .timeExchange => true
  | .flitResendTimeout _ _ => true
  | .acknowledgementSend _ => true
  | .linkDown _ => true
  | .portLockLoss _ _ => true
  | .trainingTimeout _ => true
  | .ltarget _ _ => true
  | .dwellExpiry _ => true
  | .interlockTrip _ => true
  | .interlockClose _ => true
  | .moduleReset => true
  | .ftarget _ _ => true
  | .droop _ => true
  | .temperatureWarn _ _ => true
  | .frequencyStep _ => true
  | .clockStop _ _ => true
  | .clockRestart _ _ => true
  | .thermalTrip _ => true
  | .tokenWindow _ => true
  | .checkpointStart _ => true
  | .checkpointDone => true
  | .nodeAccess _ => true
  | .registerWrite _ _ => true
  | .resumeStoppedCrew _ => true
  | .endStoppedCrew _ => true
  | .keptRangeRelease _ => true
  | .buntingFrame => true
  | .receiverLock _ _ => true
  | .frequencyChangeEnd _ => true
  | .droopPassed _ => true
  | .temperatureBelowTwarn _ _ => true
  | .msiXVectorUnmask _ => true
  | .hostMemoryCompletion _ => true

/-- The `fmt` at which static well-formedness is asked: every variable-precision window is one slot, RM and P are
usable, so a term refused here is refused at every `fmt`. -/
def staticFmt : W64 := 0x01020800

end Sys2Proof.Machine
end

