-- ==== Sys2Proof/WellFormed.lean ====
section
/-!
DEFINITION. WellFormed.lean: the well-formed terms of Instr: those some `fmt` makes legal (R126, R128, R196).
What depends on the clause's recorded `fmt` (R31, R55) is checked again when the instruction issues.
-/
namespace Sys2Proof

/-- The instruction is legal at the most permissive `fmt`. -/
def Instr.wellFormed (i : Instr) : Bool := Machine.legalAt Machine.staticFmt i

end Sys2Proof
end

