-- ==== Sys2Proof/Decode.lean ====
section
/-!
DEFINITION. Decode.lean: the encoder and the decoder, written from the encoding tables of R119 to R136, R168, R170
and spec/opcode_table.json. The decoder is total: a word it does not decode is unassigned (R137).
-/
namespace Sys2Proof
open Machine

/-! ### Scalar words (R122 to R126) -/

/-- The word of a scalar instruction; none for lane instructions and events. -/
def encodeScalar : Instr → Option W32
  | .nop => some (0x0#6 ++ 0x0#26)
  | .endGroup => some (0x0#6 ++ 0x1#26)
  | .endk a b => some (0x0#6 ++ 0x0#6 ++ a ++ b ++ 0x2#8)
  | .yield => some (0x0#6 ++ 0x3#26)
  | .isync => some (0x0#6 ++ 0x4#26)
  | .npbegin => some (0x0#6 ++ 0x5#26)
  | .npend => some (0x0#6 ++ 0x6#26)
  | .add d a b => some (0x1#6 ++ d ++ a ++ b ++ 0x0#8)
  | .sub d a b => some (0x1#6 ++ d ++ a ++ b ++ 0x1#8)
  | .mul d a b => some (0x1#6 ++ d ++ a ++ b ++ 0x2#8)
  | .mulh d a b => some (0x1#6 ++ d ++ a ++ b ++ 0x3#8)
  | .mulhn d a b => some (0x1#6 ++ d ++ a ++ b ++ 0x4#8)
  | .div d a b => some (0x1#6 ++ d ++ a ++ b ++ 0x5#8)
  | .divn d a b => some (0x1#6 ++ d ++ a ++ b ++ 0x6#8)
  | .rem d a b => some (0x1#6 ++ d ++ a ++ b ++ 0x7#8)
  | .remn d a b => some (0x1#6 ++ d ++ a ++ b ++ 0x8#8)
  | .and d a b => some (0x1#6 ++ d ++ a ++ b ++ 0x9#8)
  | .or d a b => some (0x1#6 ++ d ++ a ++ b ++ 0xA#8)
  | .xor d a b => some (0x1#6 ++ d ++ a ++ b ++ 0xB#8)
  | .shl d a b => some (0x1#6 ++ d ++ a ++ b ++ 0xC#8)
  | .shr d a b => some (0x1#6 ++ d ++ a ++ b ++ 0xD#8)
  | .sha d a b => some (0x1#6 ++ d ++ a ++ b ++ 0xE#8)
  | .min d a b => some (0x1#6 ++ d ++ a ++ b ++ 0xF#8)
  | .max d a b => some (0x1#6 ++ d ++ a ++ b ++ 0x10#8)
  | .minn d a b => some (0x1#6 ++ d ++ a ++ b ++ 0x11#8)
  | .maxn d a b => some (0x1#6 ++ d ++ a ++ b ++ 0x12#8)
  | .clz d a => some (0x1#6 ++ d ++ a ++ 0x13#14)
  | .popc d a => some (0x1#6 ++ d ++ a ++ 0x14#14)
  | .cmpEq d a b => some (0x1#6 ++ d ++ a ++ b ++ 0x18#8)
  | .cmpNe d a b => some (0x1#6 ++ d ++ a ++ b ++ 0x19#8)
  | .cmpLt d a b => some (0x1#6 ++ d ++ a ++ b ++ 0x1A#8)
  | .cmpLe d a b => some (0x1#6 ++ d ++ a ++ b ++ 0x1B#8)
  | .cmpLtn d a b => some (0x1#6 ++ d ++ a ++ b ++ 0x1C#8)
  | .cmpLen d a b => some (0x1#6 ++ d ++ a ++ b ++ 0x1D#8)
  | .addi d a imm => some (0x2#6 ++ d ++ a ++ imm)
  | .andi d a imm => some (0x3#6 ++ d ++ a ++ imm)
  | .ori d a imm => some (0x4#6 ++ d ++ a ++ imm)
  | .xori d a imm => some (0x5#6 ++ d ++ a ++ imm)
  | .shiShl d a n => some (0x6#6 ++ d ++ a ++ 0x0#8 ++ n)
  | .shiShr d a n => some (0x6#6 ++ d ++ a ++ 0x40#8 ++ n)
  | .shiSha d a n => some (0x6#6 ++ d ++ a ++ 0x80#8 ++ n)
  | .cmpiEq d a v => some (0x7#6 ++ d ++ a ++ 0x0#3 ++ v)
  | .cmpiNe d a v => some (0x7#6 ++ d ++ a ++ 0x1#3 ++ v)
  | .cmpiLt d a v => some (0x7#6 ++ d ++ a ++ 0x2#3 ++ v)
  | .cmpiLe d a v => some (0x7#6 ++ d ++ a ++ 0x3#3 ++ v)
  | .cmpiLtn d a v => some (0x7#6 ++ d ++ a ++ 0x4#3 ++ v)
  | .cmpiLen d a v => some (0x7#6 ++ d ++ a ++ 0x5#3 ++ v)
  | .lhi d imm => some (0x8#6 ++ d ++ imm)
  | .addpc d imm => some (0x9#6 ++ d ++ imm)
  | .bfx d a p l => some (0xA#6 ++ d ++ a ++ 0x0#2 ++ p ++ l)
  | .bfxn d a p l => some (0xA#6 ++ d ++ a ++ 0x1#2 ++ p ++ l)
  | .bfi d a p l => some (0xA#6 ++ d ++ a ++ 0x2#2 ++ p ++ l)
  | .madd d a b c => some (0xB#6 ++ d ++ a ++ b ++ c ++ 0x0#2)
  | .msub d a b c => some (0xB#6 ++ d ++ a ++ b ++ c ++ 0x1#2)
  | .taddr d a b c w => some (0xC#6 ++ d ++ a ++ b ++ c ++ w)
  | .sel d a b c => some (0xD#6 ++ d ++ a ++ b ++ c ++ 0x0#2)
  | .j disp => some (0x10#6 ++ disp)
  | .jal disp => some (0x11#6 ++ disp)
  | .jr a => some (0x12#6 ++ 0x0#6 ++ a ++ 0x0#14)
  | .jalr d a => some (0x12#6 ++ d ++ a ++ 0x1#14)
  | .bz a disp => some (0x13#6 ++ a ++ disp)
  | .bnz a disp => some (0x14#6 ++ a ++ disp)
  | .ld d a w x o => some (0x18#6 ++ d ++ a ++ w ++ x ++ o)
  | .st d a w o => some (0x19#6 ++ d ++ a ++ w ++ 0x0#1 ++ o)
  | .ldk d imm => some (0x1A#6 ++ d ++ imm)
  | .amoSwap d a o sc w => some (0x1B#6 ++ d ++ a ++ o ++ sc ++ 0x0#4 ++ w ++ 0x0#3)
  | .amoAdd d a o sc w => some (0x1B#6 ++ d ++ a ++ o ++ sc ++ 0x1#4 ++ w ++ 0x0#3)
  | .amoAnd d a o sc w => some (0x1B#6 ++ d ++ a ++ o ++ sc ++ 0x2#4 ++ w ++ 0x0#3)
  | .amoOr d a o sc w => some (0x1B#6 ++ d ++ a ++ o ++ sc ++ 0x3#4 ++ w ++ 0x0#3)
  | .amoXor d a o sc w => some (0x1B#6 ++ d ++ a ++ o ++ sc ++ 0x4#4 ++ w ++ 0x0#3)
  | .amoMin d a o sc w => some (0x1B#6 ++ d ++ a ++ o ++ sc ++ 0x5#4 ++ w ++ 0x0#3)
  | .amoMax d a o sc w => some (0x1B#6 ++ d ++ a ++ o ++ sc ++ 0x6#4 ++ w ++ 0x0#3)
  | .amoMinn d a o sc w => some (0x1B#6 ++ d ++ a ++ o ++ sc ++ 0x7#4 ++ w ++ 0x0#3)
  | .amoMaxn d a o sc w => some (0x1B#6 ++ d ++ a ++ o ++ sc ++ 0x8#4 ++ w ++ 0x0#3)
  | .amoFadd d a o sc => some (0x1B#6 ++ d ++ a ++ o ++ sc ++ 0x90#8)
  | .cas d a b o sc w => some (0x1C#6 ++ d ++ a ++ b ++ o ++ sc ++ 0x0#1 ++ w)
  | .clause imm => some (0x20#6 ++ 0x0#6 ++ imm)
  | .clauser a => some (0x21#6 ++ 0x0#6 ++ a ++ 0x0#14)
  | .mpush n p => some (0x22#6 ++ 0x2#14 ++ n ++ p ++ 0x0#8)
  | .mpushRegister a => some (0x22#6 ++ 0x0#6 ++ a ++ 0x0#14)
  | .melse => some (0x22#6 ++ 0x1#26)
  | .mpop => some (0x22#6 ++ 0x2#26)
  | .setp k a => some (0x22#6 ++ 0x0#3 ++ k ++ a ++ 0x3#14)
  | .pmov d n p => some (0x22#6 ++ d ++ 0x2#8 ++ n ++ p ++ 0x4#8)
  | .wflag m => some (0x23#6 ++ 0x0#14 ++ m)
  | .vget d slot lane => some (0x24#6 ++ d ++ slot ++ lane ++ 0x0#7)
  | .vput d slot lane => some (0x24#6 ++ d ++ slot ++ lane ++ 0x1#7)
  | .setfmt a b => some (0x25#6 ++ 0x0#6 ++ a ++ b ++ 0x0#8)
  | .getfmt d => some (0x25#6 ++ d ++ 0x1#20)
  | .setprec a b => some (0x25#6 ++ 0x0#6 ++ a ++ b ++ 0x2#8)
  | .getstat d => some (0x25#6 ++ d ++ 0x3#20)
  | .clrstat a => some (0x25#6 ++ 0x0#6 ++ a ++ 0x4#14)
  | .mfs d n => some (0x26#6 ++ d ++ 0x0#7 ++ n)
  | .mts a n => some (0x26#6 ++ 0x0#6 ++ a ++ 0x1#1 ++ n)
  | .fenceFull e sc => some (0x27#6 ++ 0x0#20 ++ e ++ 0x0#2 ++ sc)
  | .fenceAcquire e sc => some (0x27#6 ++ 0x0#20 ++ e ++ 0x1#2 ++ sc)
  | .fenceRelease e sc => some (0x27#6 ++ 0x0#20 ++ e ++ 0x2#2 ++ sc)
  | .fenceSc e sc => some (0x27#6 ++ 0x0#20 ++ e ++ 0x3#2 ++ sc)
  | .barSync a t => some (0x28#6 ++ 0x0#6 ++ a ++ 0x0#8 ++ t)
  | .barArv a t => some (0x28#6 ++ 0x0#6 ++ a ++ 0x1#8 ++ t)
  | .rdtime d => some (0x29#6 ++ d ++ 0x0#20)
  | .waituntil a => some (0x29#6 ++ 0x0#6 ++ a ++ 0x1#14)
  | .qlock d a => some (0x2A#6 ++ d ++ a ++ 0x0#14)
  | .qunlock a => some (0x2A#6 ++ 0x0#6 ++ a ++ 0x1#14)
  | .cpy d a b t => some (0x30#6 ++ d ++ a ++ b ++ 0x0#2 ++ t)
  | .cpy2d d a b t => some (0x30#6 ++ d ++ a ++ b ++ 0x1#3 ++ t)
  | .twaitAll d a => some (0x31#6 ++ d ++ a ++ 0x0#14)
  | .twaitAny d a => some (0x31#6 ++ d ++ a ++ 0x40#14)
  | .tfirst d a => some (0x31#6 ++ d ++ a ++ 0x80#14)
  | .tack a => some (0x31#6 ++ 0x0#6 ++ a ++ 0xC0#14)
  | .bbinit t => some (0x32#6 ++ 0x0#20 ++ t)
  | .bbexp a t => some (0x32#6 ++ 0x0#6 ++ a ++ 0x1#8 ++ t)
  | .bbwait d a t => some (0x32#6 ++ d ++ a ++ 0x2#8 ++ t)
  | .bbarv a b t => some (0x32#6 ++ 0x0#6 ++ a ++ b ++ 0x3#2 ++ t)
  | .bsub d a t => some (0x33#6 ++ d ++ a ++ 0x0#8 ++ t)
  | .bunsub d a => some (0x33#6 ++ d ++ a ++ 0x40#14)
  | .bsync d => some (0x33#6 ++ d ++ 0x80#20)
  | .ndecl d a => some (0x34#6 ++ d ++ a ++ 0x0#14)
  | .ndrop a => some (0x34#6 ++ 0x0#6 ++ a ++ 0x40#14)
  | .ncan a b t => some (0x34#6 ++ 0x0#6 ++ a ++ b ++ 0x2#2 ++ t)
  | .skcmdTag a b t => some (0x35#6 ++ 0x0#6 ++ a ++ b ++ 0x0#2 ++ t)
  | .skcmdBb a b t => some (0x35#6 ++ 0x0#6 ++ a ++ b ++ 0x1#2 ++ t)
  | .skcmdCw a b => some (0x35#6 ++ 0x0#6 ++ a ++ b ++ 0x80#8)
  | .put d a b t => some (0x36#6 ++ d ++ a ++ b ++ 0x0#2 ++ t)
  | .get d a b t => some (0x36#6 ++ d ++ a ++ b ++ 0x1#2 ++ t)
  | .winwait a b k => some (0x36#6 ++ 0x0#6 ++ a ++ b ++ 0x2#2 ++ k)
  | .wincnt d a k => some (0x36#6 ++ d ++ a ++ 0x3#8 ++ k)
  | .qpush d a b => some (0x37#6 ++ d ++ a ++ b ++ 0x0#8)
  | .trap a t => some (0x38#6 ++ 0x0#6 ++ a ++ 0x0#8 ++ t)
  | .tret => some (0x38#6 ++ 0x40#26)
  | .msave => some (0x38#6 ++ 0x80#26)
  | .mrest => some (0x38#6 ++ 0xC0#26)
  | .tlbinv d a b => some (0x39#6 ++ d ++ a ++ b ++ 0x0#8)
  | .tlbsync => some (0x39#6 ++ 0x40#26)
  | .tlbinvAll => some (0x39#6 ++ 0x80#26)
  | .npub d a t => some (0x3A#6 ++ d ++ a ++ 0x0#8 ++ t)
  | .npubRel d a t => some (0x3A#6 ++ d ++ a ++ 0x1#8 ++ t)
  | .nreqTag d a b t => some (0x3B#6 ++ d ++ a ++ b ++ 0x0#2 ++ t)
  | .nreqBb d a b t => some (0x3B#6 ++ d ++ a ++ b ++ 0x1#2 ++ t)
  | .poolGuard n => some (0x3F#6 ++ n)
  | .waituntilReached _ => none
  | .iadd _ => none
  | .isub _ => none
  | .imul _ => none
  | .imulh _ => none
  | .imad _ => none
  | .idot4 _ => none
  | .imin _ => none
  | .imax _ => none
  | .bfn3 _ => none
  | .shf _ => none
  | .laneBfx _ => none
  | .laneBfi _ => none
  | .bitc _ => none
  | .icmp _ => none
  | .iaddLi _ => none
  | .isubLi _ => none
  | .imulLi _ => none
  | .imulhLi _ => none
  | .imadLi _ => none
  | .idot4Li _ => none
  | .iminLi _ => none
  | .imaxLi _ => none
  | .bfn3Li _ => none
  | .shfLi _ => none
  | .laneBfxLi _ => none
  | .laneBfiLi _ => none
  | .icmpLi _ => none
  | .fadd _ => none
  | .fmul _ => none
  | .ffma _ => none
  | .fmin _ => none
  | .fmax _ => none
  | .fcmp _ => none
  | .fmath _ => none
  | .fsca _ => none
  | .fclass _ => none
  | .faddLi _ => none
  | .fmulLi _ => none
  | .ffmaLi _ => none
  | .fminLi _ => none
  | .fmaxLi _ => none
  | .fcmpLi _ => none
  | .fmathDivLi _ => none
  | .fscaLi _ => none
  | .cvt _ => none
  | .pack _ => none
  | .unpack _ => none
  | .scalex _ => none
  | .lperm _ => none
  | .qxch _ => none
  | .qbc _ => none
  | .red _ => none
  | .scan _ => none
  | .ppoll _ => none
  | .xadd _ => none
  | .xmul _ => none
  | .xfma _ => none
  | .xadde _ => none
  | .xmule _ => none
  | .xcvt _ => none
  | .xcmp _ => none
  | .xrnd _ => none
  | .xerr _ => none
  | .mov _ => none
  | .movi _ => none
  | .laneSel _ => none
  | .pfn3 _ => none
  | .spec _ => none
  | .ixset _ => none
  | .laneLd _ => none
  | .laneSt _ => none
  | .ldv _ => none
  | .stv _ => none
  | .pref _ => none
  | .atom _ => none
  | .atomc _ => none
  | .ldfe _ => none
  | .stfe _ => none
  | .fesetFull _ => none
  | .fesetEmpty _ => none
  | .ldWf _ => none
  | .stFill _ => none
  | .stEmpty _ => none
  | .fullEmptyPerform => none
  | .fullEmptyWaitExpired => none
  | .mma _ => none
  | .mmas _ => none
  | .accz _ => none
  | .accld _ => none
  | .accst _ => none
  | .accrd _ => none
  | .accwr _ => none
  | .mbfen _ => none
  | .mbwait _ => none
  | .matrixOperationComplete _ _ => none
  | .clauseStart _ => none
  | .positionedEffect _ => none
  | .longLatencyCompletion _ _ => none
  | .granuleFill _ _ => none
  | .trapEntry _ _ _ _ _ => none
  | .engineOperationComplete _ _ _ => none
  | .dataResponse _ _ _ => none
  | .tlbAcknowledge _ _ => none
  | .remotePutArrival _ _ _ => none
  | .sentComplete _ => none
  | .remoteGet _ _ _ => none
  | .gets _ => none
  | .getm _ => none
  | .upgrade _ => none
  | .putm _ => none
  | .inv _ => none
  | .poison _ => none
  | .bcast _ => none
  | .tile _ => none
  | .tlbinvMessage _ => none
  | .ack _ => none
  | .nack _ => none
  | .hold _ => none
  | .replay _ => none
  | .nackSend _ _ => none
  | .retransmissionWindowExpiry _ => none
  | .wavelengthDegraded _ _ _ => none
  | .retuneComplete _ _ _ => none
  | .heartbeat _ => none
  | .unitDead _ => none
  | .planeReadTimeout _ => none
  | .fencing _ => none
  | .recordRewrite _ => none
  | .declaration _ _ => none
  | .interest _ => none
  | .interestNack _ => none
  | .interestRetry _ _ => none
  | .publication _ => none
  | .refill _ _ => none
  | .tileDelivery _ => none
  | .localRecordExpiry _ => none
  | .pitEntryExpiry _ _ => none
  | .drop _ => none
  | .neverProduced _ => none
  | .tileLifetimeEnd _ _ => none
  | .tombstoneEnd _ _ => none
  | .cancel _ => none
  | .nopPacket _ => none
  | .launch _ => none
  | .graph _ => none
  | .copy _ => none
  | .signal _ => none
  | .time _ => none
  | .startReached _ => none
  | .cqHeaderRecheck _ => none
  | .ageing _ => none
  | .blocking _ => none
  | .bandPlacement _ _ _ => none
  | .prewaitExpiry _ _ => none
  | .preemptCommand _ _ _ => none
  | .bandResume _ _ _ _ => none
  | .regionOverrun _ => none
  | .throttleWindow _ _ _ => none
  | .loamZero _ => none
  | .loamCopy _ => none
  | .gred _ => none
  | .sadd _ => none
  | .coll _ => none
  | .collectiveRun _ _ => none
  | .collectiveTimeout _ => none
  | .mig _ => none
  | .heatWindow _ _ => none
  | .domainSwitchOff _ _ => none
  | .domainPowerOff _ _ => none
  | .domainSwitchOn _ _ => none
  | .domainReady _ _ => none
  | .hostWindowWrite _ _ => none
  | .hostWindowRead _ => none
  | .cxlLinkDown => none
  | .cxlLinkUp => none
  | .queueRegistration _ _ => none
  | .managementCommand => none
  | .controllerReset => none
  | .spdmRequest => none
  | .dataFlit _ _ => none
  | .acknowledgementFlit _ _ => none
  | .idleFlit _ _ => none
  | .propose _ _ => none
  | .accept _ _ => none
  | .train _ _ => none
  | .timeFlit _ _ => none
  | .timeExchange => none
  | .flitResendTimeout _ _ => none
  | .acknowledgementSend _ => none
  | .linkDown _ => none
  | .portLockLoss _ _ => none
  | .trainingTimeout _ => none
  | .ltarget _ _ => none
  | .dwellExpiry _ => none
  | .interlockTrip _ => none
  | .interlockClose _ => none
  | .moduleReset => none
  | .ftarget _ _ => none
  | .droop _ => none
  | .temperatureWarn _ _ => none
  | .frequencyStep _ => none
  | .clockStop _ _ => none
  | .clockRestart _ _ => none
  | .thermalTrip _ => none
  | .tokenWindow _ => none
  | .checkpointStart _ => none
  | .checkpointDone => none
  | .nodeAccess _ => none
  | .registerWrite _ _ => none
  | .resumeStoppedCrew _ => none
  | .endStoppedCrew _ => none
  | .keptRangeRelease _ => none
  | .buntingFrame => none
  | .receiverLock _ _ => none
  | .frequencyChangeEnd _ => none
  | .droopPassed _ => none
  | .temperatureBelowTwarn _ _ => none
  | .msiXVectorUnmask _ => none
  | .hostMemoryCompletion _ => none

/-- Bits of a scalar word from `lo`, `n` of them. -/
abbrev fld (w : W32) (lo n : Nat) : BitVec n := w.extractLsb' lo n

/-- Candidates of major 0x00. -/
def scalarMajor00 (w : W32) : Option Instr :=
  match (fld w 0 8).toNat with
  | 0x0 => some (.nop)
  | 0x1 => some (.endGroup)
  | 0x2 => some (.endk (fld w 14 6) (fld w 8 6))
  | 0x3 => some (.yield)
  | 0x4 => some (.isync)
  | 0x5 => some (.npbegin)
  | 0x6 => some (.npend)
  | _ => none

/-- Candidates of major 0x01. -/
def scalarMajor01 (w : W32) : Option Instr :=
  match (fld w 0 8).toNat with
  | 0x0 => some (.add (fld w 20 6) (fld w 14 6) (fld w 8 6))
  | 0x1 => some (.sub (fld w 20 6) (fld w 14 6) (fld w 8 6))
  | 0x2 => some (.mul (fld w 20 6) (fld w 14 6) (fld w 8 6))
  | 0x3 => some (.mulh (fld w 20 6) (fld w 14 6) (fld w 8 6))
  | 0x4 => some (.mulhn (fld w 20 6) (fld w 14 6) (fld w 8 6))
  | 0x5 => some (.div (fld w 20 6) (fld w 14 6) (fld w 8 6))
  | 0x6 => some (.divn (fld w 20 6) (fld w 14 6) (fld w 8 6))
  | 0x7 => some (.rem (fld w 20 6) (fld w 14 6) (fld w 8 6))
  | 0x8 => some (.remn (fld w 20 6) (fld w 14 6) (fld w 8 6))
  | 0x9 => some (.and (fld w 20 6) (fld w 14 6) (fld w 8 6))
  | 0xA => some (.or (fld w 20 6) (fld w 14 6) (fld w 8 6))
  | 0xB => some (.xor (fld w 20 6) (fld w 14 6) (fld w 8 6))
  | 0xC => some (.shl (fld w 20 6) (fld w 14 6) (fld w 8 6))
  | 0xD => some (.shr (fld w 20 6) (fld w 14 6) (fld w 8 6))
  | 0xE => some (.sha (fld w 20 6) (fld w 14 6) (fld w 8 6))
  | 0xF => some (.min (fld w 20 6) (fld w 14 6) (fld w 8 6))
  | 0x10 => some (.max (fld w 20 6) (fld w 14 6) (fld w 8 6))
  | 0x11 => some (.minn (fld w 20 6) (fld w 14 6) (fld w 8 6))
  | 0x12 => some (.maxn (fld w 20 6) (fld w 14 6) (fld w 8 6))
  | 0x13 => some (.clz (fld w 20 6) (fld w 14 6))
  | 0x14 => some (.popc (fld w 20 6) (fld w 14 6))
  | 0x18 => some (.cmpEq (fld w 20 6) (fld w 14 6) (fld w 8 6))
  | 0x19 => some (.cmpNe (fld w 20 6) (fld w 14 6) (fld w 8 6))
  | 0x1A => some (.cmpLt (fld w 20 6) (fld w 14 6) (fld w 8 6))
  | 0x1B => some (.cmpLe (fld w 20 6) (fld w 14 6) (fld w 8 6))
  | 0x1C => some (.cmpLtn (fld w 20 6) (fld w 14 6) (fld w 8 6))
  | 0x1D => some (.cmpLen (fld w 20 6) (fld w 14 6) (fld w 8 6))
  | _ => none

/-- Candidates of major 0x06. -/
def scalarMajor06 (w : W32) : Option Instr :=
  match (fld w 12 2).toNat with
  | 0x0 => some (.shiShl (fld w 20 6) (fld w 14 6) (fld w 0 6))
  | 0x1 => some (.shiShr (fld w 20 6) (fld w 14 6) (fld w 0 6))
  | 0x2 => some (.shiSha (fld w 20 6) (fld w 14 6) (fld w 0 6))
  | _ => none

/-- Candidates of major 0x07. -/
def scalarMajor07 (w : W32) : Option Instr :=
  match (fld w 11 3).toNat with
  | 0x0 => some (.cmpiEq (fld w 20 6) (fld w 14 6) (fld w 0 11))
  | 0x1 => some (.cmpiNe (fld w 20 6) (fld w 14 6) (fld w 0 11))
  | 0x2 => some (.cmpiLt (fld w 20 6) (fld w 14 6) (fld w 0 11))
  | 0x3 => some (.cmpiLe (fld w 20 6) (fld w 14 6) (fld w 0 11))
  | 0x4 => some (.cmpiLtn (fld w 20 6) (fld w 14 6) (fld w 0 11))
  | 0x5 => some (.cmpiLen (fld w 20 6) (fld w 14 6) (fld w 0 11))
  | _ => none

/-- Candidates of major 0x0A. -/
def scalarMajor0A (w : W32) : Option Instr :=
  match (fld w 12 2).toNat with
  | 0x0 => some (.bfx (fld w 20 6) (fld w 14 6) (fld w 6 6) (fld w 0 6))
  | 0x1 => some (.bfxn (fld w 20 6) (fld w 14 6) (fld w 6 6) (fld w 0 6))
  | 0x2 => some (.bfi (fld w 20 6) (fld w 14 6) (fld w 6 6) (fld w 0 6))
  | _ => none

/-- Candidates of major 0x0B. -/
def scalarMajor0B (w : W32) : Option Instr :=
  match (fld w 0 2).toNat with
  | 0x0 => some (.madd (fld w 20 6) (fld w 14 6) (fld w 8 6) (fld w 2 6))
  | 0x1 => some (.msub (fld w 20 6) (fld w 14 6) (fld w 8 6) (fld w 2 6))
  | _ => none

/-- Candidates of major 0x12. -/
def scalarMajor12 (w : W32) : Option Instr :=
  match (fld w 0 8).toNat with
  | 0x0 => some (.jr (fld w 14 6))
  | 0x1 => some (.jalr (fld w 20 6) (fld w 14 6))
  | _ => none

/-- Candidates of major 0x1B. -/
def scalarMajor1B (w : W32) : Option Instr :=
  match (fld w 4 4).toNat with
  | 0x0 => some (.amoSwap (fld w 20 6) (fld w 14 6) (fld w 11 3) (fld w 8 3) (fld w 3 1))
  | 0x1 => some (.amoAdd (fld w 20 6) (fld w 14 6) (fld w 11 3) (fld w 8 3) (fld w 3 1))
  | 0x2 => some (.amoAnd (fld w 20 6) (fld w 14 6) (fld w 11 3) (fld w 8 3) (fld w 3 1))
  | 0x3 => some (.amoOr (fld w 20 6) (fld w 14 6) (fld w 11 3) (fld w 8 3) (fld w 3 1))
  | 0x4 => some (.amoXor (fld w 20 6) (fld w 14 6) (fld w 11 3) (fld w 8 3) (fld w 3 1))
  | 0x5 => some (.amoMin (fld w 20 6) (fld w 14 6) (fld w 11 3) (fld w 8 3) (fld w 3 1))
  | 0x6 => some (.amoMax (fld w 20 6) (fld w 14 6) (fld w 11 3) (fld w 8 3) (fld w 3 1))
  | 0x7 => some (.amoMinn (fld w 20 6) (fld w 14 6) (fld w 11 3) (fld w 8 3) (fld w 3 1))
  | 0x8 => some (.amoMaxn (fld w 20 6) (fld w 14 6) (fld w 11 3) (fld w 8 3) (fld w 3 1))
  | 0x9 => some (.amoFadd (fld w 20 6) (fld w 14 6) (fld w 11 3) (fld w 8 3))
  | _ => none

/-- Candidates of major 0x22. -/
def scalarMajor22 (w : W32) : Option Instr :=
  match (fld w 0 8).toNat with
  | 0x0 => if fld w 13 1 = 1 then some (.mpush (fld w 11 1) (fld w 8 3)) else some (.mpushRegister (fld w 14 6))
  | 0x1 => some (.melse)
  | 0x2 => some (.mpop)
  | 0x3 => some (.setp (fld w 20 3) (fld w 14 6))
  | 0x4 => some (.pmov (fld w 20 6) (fld w 11 1) (fld w 8 3))
  | _ => none

/-- Candidates of major 0x24. -/
def scalarMajor24 (w : W32) : Option Instr :=
  match (fld w 0 7).toNat with
  | 0x0 => some (.vget (fld w 20 6) (fld w 12 8) (fld w 7 5))
  | 0x1 => some (.vput (fld w 20 6) (fld w 12 8) (fld w 7 5))
  | _ => none

/-- Candidates of major 0x25. -/
def scalarMajor25 (w : W32) : Option Instr :=
  match (fld w 0 8).toNat with
  | 0x0 => some (.setfmt (fld w 14 6) (fld w 8 6))
  | 0x1 => some (.getfmt (fld w 20 6))
  | 0x2 => some (.setprec (fld w 14 6) (fld w 8 6))
  | 0x3 => some (.getstat (fld w 20 6))
  | 0x4 => some (.clrstat (fld w 14 6))
  | _ => none

/-- Candidates of major 0x26. -/
def scalarMajor26 (w : W32) : Option Instr :=
  match (fld w 13 1).toNat with
  | 0x0 => some (.mfs (fld w 20 6) (fld w 0 13))
  | 0x1 => some (.mts (fld w 14 6) (fld w 0 13))
  | _ => none

/-- Candidates of major 0x27. -/
def scalarMajor27 (w : W32) : Option Instr :=
  match (fld w 3 2).toNat with
  | 0x0 => some (.fenceFull (fld w 5 1) (fld w 0 3))
  | 0x1 => some (.fenceAcquire (fld w 5 1) (fld w 0 3))
  | 0x2 => some (.fenceRelease (fld w 5 1) (fld w 0 3))
  | 0x3 => some (.fenceSc (fld w 5 1) (fld w 0 3))
  | _ => none

/-- Candidates of major 0x28. -/
def scalarMajor28 (w : W32) : Option Instr :=
  match (fld w 6 2).toNat with
  | 0x0 => some (.barSync (fld w 14 6) (fld w 0 6))
  | 0x1 => some (.barArv (fld w 14 6) (fld w 0 6))
  | _ => none

/-- Candidates of major 0x29. -/
def scalarMajor29 (w : W32) : Option Instr :=
  match (fld w 0 8).toNat with
  | 0x0 => some (.rdtime (fld w 20 6))
  | 0x1 => some (.waituntil (fld w 14 6))
  | _ => none

/-- Candidates of major 0x2A. -/
def scalarMajor2A (w : W32) : Option Instr :=
  match (fld w 0 8).toNat with
  | 0x0 => some (.qlock (fld w 20 6) (fld w 14 6))
  | 0x1 => some (.qunlock (fld w 14 6))
  | _ => none

/-- Candidates of major 0x30. -/
def scalarMajor30 (w : W32) : Option Instr :=
  match (fld w 6 2).toNat with
  | 0x0 => some (.cpy (fld w 20 6) (fld w 14 6) (fld w 8 6) (fld w 0 6))
  | 0x1 => some (.cpy2d (fld w 20 6) (fld w 14 6) (fld w 9 5) (fld w 0 6))
  | _ => none

/-- Candidates of major 0x31. -/
def scalarMajor31 (w : W32) : Option Instr :=
  match (fld w 6 2).toNat with
  | 0x0 => some (.twaitAll (fld w 20 6) (fld w 14 6))
  | 0x1 => some (.twaitAny (fld w 20 6) (fld w 14 6))
  | 0x2 => some (.tfirst (fld w 20 6) (fld w 14 6))
  | 0x3 => some (.tack (fld w 14 6))
  | _ => none

/-- Candidates of major 0x32. -/
def scalarMajor32 (w : W32) : Option Instr :=
  match (fld w 6 2).toNat with
  | 0x0 => some (.bbinit (fld w 0 6))
  | 0x1 => some (.bbexp (fld w 14 6) (fld w 0 6))
  | 0x2 => some (.bbwait (fld w 20 6) (fld w 14 6) (fld w 0 6))
  | 0x3 => some (.bbarv (fld w 14 6) (fld w 8 6) (fld w 0 6))
  | _ => none

/-- Candidates of major 0x33. -/
def scalarMajor33 (w : W32) : Option Instr :=
  match (fld w 6 2).toNat with
  | 0x0 => some (.bsub (fld w 20 6) (fld w 14 6) (fld w 0 6))
  | 0x1 => some (.bunsub (fld w 20 6) (fld w 14 6))
  | 0x2 => some (.bsync (fld w 20 6))
  | _ => none

/-- Candidates of major 0x34. -/
def scalarMajor34 (w : W32) : Option Instr :=
  match (fld w 6 2).toNat with
  | 0x0 => some (.ndecl (fld w 20 6) (fld w 14 6))
  | 0x1 => some (.ndrop (fld w 14 6))
  | 0x2 => some (.ncan (fld w 14 6) (fld w 8 6) (fld w 0 6))
  | _ => none

/-- Candidates of major 0x35. -/
def scalarMajor35 (w : W32) : Option Instr :=
  match (fld w 6 2).toNat with
  | 0x0 => some (.skcmdTag (fld w 14 6) (fld w 8 6) (fld w 0 6))
  | 0x1 => some (.skcmdBb (fld w 14 6) (fld w 8 6) (fld w 0 6))
  | 0x2 => some (.skcmdCw (fld w 14 6) (fld w 8 6))
  | _ => none

/-- Candidates of major 0x36. -/
def scalarMajor36 (w : W32) : Option Instr :=
  match (fld w 6 2).toNat with
  | 0x0 => some (.put (fld w 20 6) (fld w 14 6) (fld w 8 6) (fld w 0 6))
  | 0x1 => some (.get (fld w 20 6) (fld w 14 6) (fld w 8 6) (fld w 0 6))
  | 0x2 => some (.winwait (fld w 14 6) (fld w 8 6) (fld w 0 6))
  | 0x3 => some (.wincnt (fld w 20 6) (fld w 14 6) (fld w 0 6))
  | _ => none

/-- Candidates of major 0x38. -/
def scalarMajor38 (w : W32) : Option Instr :=
  match (fld w 6 2).toNat with
  | 0x0 => some (.trap (fld w 14 6) (fld w 0 6))
  | 0x1 => some (.tret)
  | 0x2 => some (.msave)
  | 0x3 => some (.mrest)
  | _ => none

/-- Candidates of major 0x39. -/
def scalarMajor39 (w : W32) : Option Instr :=
  match (fld w 6 2).toNat with
  | 0x0 => some (.tlbinv (fld w 20 6) (fld w 14 6) (fld w 8 6))
  | 0x1 => some (.tlbsync)
  | 0x2 => some (.tlbinvAll)
  | _ => none

/-- Candidates of major 0x3A. -/
def scalarMajor3A (w : W32) : Option Instr :=
  match (fld w 6 2).toNat with
  | 0x0 => some (.npub (fld w 20 6) (fld w 14 6) (fld w 0 6))
  | 0x1 => some (.npubRel (fld w 20 6) (fld w 14 6) (fld w 0 6))
  | _ => none

/-- Candidates of major 0x3B. -/
def scalarMajor3B (w : W32) : Option Instr :=
  match (fld w 6 2).toNat with
  | 0x0 => some (.nreqTag (fld w 20 6) (fld w 14 6) (fld w 8 6) (fld w 0 6))
  | 0x1 => some (.nreqBb (fld w 20 6) (fld w 14 6) (fld w 8 6) (fld w 0 6))
  | _ => none

/-- The instruction whose fields the word would hold, by major opcode and sub-code (R124). -/
def scalarCandidate (w : W32) : Option Instr :=
  match (fld w 26 6).toNat with
  | 0x00 => scalarMajor00 w
  | 0x01 => scalarMajor01 w
  | 0x02 => some (.addi (fld w 20 6) (fld w 14 6) (fld w 0 14))
  | 0x03 => some (.andi (fld w 20 6) (fld w 14 6) (fld w 0 14))
  | 0x04 => some (.ori (fld w 20 6) (fld w 14 6) (fld w 0 14))
  | 0x05 => some (.xori (fld w 20 6) (fld w 14 6) (fld w 0 14))
  | 0x06 => scalarMajor06 w
  | 0x07 => scalarMajor07 w
  | 0x08 => some (.lhi (fld w 20 6) (fld w 0 20))
  | 0x09 => some (.addpc (fld w 20 6) (fld w 0 20))
  | 0x0A => scalarMajor0A w
  | 0x0B => scalarMajor0B w
  | 0x0C => some (.taddr (fld w 20 6) (fld w 14 6) (fld w 8 6) (fld w 2 6) (fld w 0 2))
  | 0x0D => some (.sel (fld w 20 6) (fld w 14 6) (fld w 8 6) (fld w 2 6))
  | 0x10 => some (.j (fld w 0 26))
  | 0x11 => some (.jal (fld w 0 26))
  | 0x12 => scalarMajor12 w
  | 0x13 => some (.bz (fld w 20 6) (fld w 0 20))
  | 0x14 => some (.bnz (fld w 20 6) (fld w 0 20))
  | 0x18 => some (.ld (fld w 20 6) (fld w 14 6) (fld w 12 2) (fld w 11 1) (fld w 0 11))
  | 0x19 => some (.st (fld w 20 6) (fld w 14 6) (fld w 12 2) (fld w 0 11))
  | 0x1A => some (.ldk (fld w 20 6) (fld w 0 20))
  | 0x1B => scalarMajor1B w
  | 0x1C => some (.cas (fld w 20 6) (fld w 14 6) (fld w 8 6) (fld w 5 3) (fld w 2 3) (fld w 0 1))
  | 0x20 => some (.clause (fld w 0 20))
  | 0x21 => some (.clauser (fld w 14 6))
  | 0x22 => scalarMajor22 w
  | 0x23 => some (.wflag (fld w 0 12))
  | 0x24 => scalarMajor24 w
  | 0x25 => scalarMajor25 w
  | 0x26 => scalarMajor26 w
  | 0x27 => scalarMajor27 w
  | 0x28 => scalarMajor28 w
  | 0x29 => scalarMajor29 w
  | 0x2A => scalarMajor2A w
  | 0x30 => scalarMajor30 w
  | 0x31 => scalarMajor31 w
  | 0x32 => scalarMajor32 w
  | 0x33 => scalarMajor33 w
  | 0x34 => scalarMajor34 w
  | 0x35 => scalarMajor35 w
  | 0x36 => scalarMajor36 w
  | 0x37 => some (.qpush (fld w 20 6) (fld w 14 6) (fld w 8 6))
  | 0x38 => scalarMajor38 w
  | 0x39 => scalarMajor39 w
  | 0x3A => scalarMajor3A w
  | 0x3B => scalarMajor3B w
  | 0x3F => some (.poolGuard (fld w 0 26))
  | _ => none

/-- Sub-field values that make a word unassigned beyond its fixed bits (R124, R159, R166, R168, R170). The others that
`legalAt` refuses decode, and their meaning takes the trap its rule names. -/
def scalarAssigned : Instr → Bool
  | .bfx _ _ p l => p.toNat + l.toNat + 1 ≤ 64
  | .bfxn _ _ p l => p.toNat + l.toNat + 1 ≤ 64
  | .bfi _ _ p l => p.toNat + l.toNat + 1 ≤ 64
  | .ld _ _ w x _ => w ≠ 3 || x = 0
  | .barSync _ t => t.toNat < 16
  | .barArv _ t => t.toNat < 16
  | .cpy2d _ _ b _ => b ≠ 0
  | .winwait _ _ k => k.toNat ≤ 1
  | .wincnt _ _ k => k.toNat ≤ 1
  | .amoSwap _ _ o _ _ | .amoAdd _ _ o _ _ | .amoAnd _ _ o _ _ | .amoOr _ _ o _ _ | .amoXor _ _ o _ _
  | .amoMin _ _ o _ _ | .amoMax _ _ o _ _ | .amoMinn _ _ o _ _ | .amoMaxn _ _ o _ _ => o.toNat ≤ 4
  | .amoFadd _ _ o _ => o.toNat ≤ 4
  | .cas _ _ _ o _ _ => o.toNat ≤ 4
  | _ => true

/-- The scalar instruction of a word; none where the word is unassigned: every bit outside the fields of the instruction
is as its encoding fixes it (R126, R137). -/
def decodeScalar (w : W32) : Option Instr :=
  match scalarCandidate w with
  | none => none
  | some i => if encodeScalar i = some w && scalarAssigned i then some i else none

/-! ### Lane words (R121, R127 to R135) -/

/-- The predicate field, bits 83:80 (R127). -/
def encodePred (p : PredSel) : BitVec 4 := BitVec.ofBool p.neg ++ p.num

/-- The 12 bits of an operand specification (R132). -/
def encodeOpnd : Opnd → BitVec 12
  | .v n => 0#3 ++ 0#1 ++ n
  | .c n => 1#3 ++ 0#6 ++ n
  | .y n => 2#3 ++ 0#8 ++ n
  | .vx k off => 3#3 ++ k ++ off
  | .s n => 4#3 ++ 0#3 ++ n
  | .imm n => 5#3 ++ n
  | .p neg n => 6#3 ++ 0#5 ++ BitVec.ofBool neg ++ n
  | .spec n => 7#3 ++ 0#7 ++ n

/-- The operand a specification names, its zero bits not yet checked (R132). -/
def opndCandidate (w : BitVec 12) : Opnd :=
  match (w.extractLsb' 9 3).toNat with
  | 0 => .v (w.extractLsb' 0 8)
  | 1 => .c (w.extractLsb' 0 3)
  | 2 => .y (w.extractLsb' 0 1)
  | 3 => .vx (w.extractLsb' 7 2) (w.extractLsb' 0 7)
  | 4 => .s (w.extractLsb' 0 6)
  | 5 => .imm (w.extractLsb' 0 9)
  | 6 => .p (w.getLsbD 3) (w.extractLsb' 0 3)
  | _ => .spec (w.extractLsb' 0 2)

/-- The operand of a specification; none where a bit that must be zero is not (R132). -/
def decodeOpnd (w : BitVec 12) : Option Opnd :=
  if encodeOpnd (opndCandidate w) = w then some (opndCandidate w) else none

/-- A format LA word (R127). -/
def encodeLa (op : BitVec 12) (x : LaForm) : W96 :=
  op ++ encodePred x.pr ++ encodeOpnd x.d ++ encodeOpnd x.a ++ encodeOpnd x.b ++ encodeOpnd x.c ++ tyCode x.ty
    ++ x.md ++ x.ext ++ BitVec.ofBool x.yw ++ BitVec.ofBool x.reuse

/-- A format LI word (R127). -/
def encodeLi (op : BitVec 12) (x : LiForm) : W96 :=
  op ++ encodePred x.pr ++ encodeOpnd x.d ++ encodeOpnd x.a ++ tyCode x.ty ++ x.md ++ 0#8 ++ x.imm

/-- A format LM word (R127, R130). -/
def encodeLm (op : BitVec 12) (x : LmForm) : W96 :=
  op ++ encodePred x.pr ++ encodeOpnd x.data ++ encodeOpnd x.addr ++ x.sbase ++ tyCode x.ty ++ x.space ++ x.order
    ++ x.scope ++ x.fe ++ x.cache ++ x.vec ++ x.off ++ 0#8

/-- A format LX word (R127, R131). -/
def encodeLx (op : BitVec 12) (x : LxForm) : W96 :=
  op ++ encodePred x.pr ++ 0#4 ++ x.tile ++ encodeOpnd x.a ++ x.bBase ++ x.mCode ++ x.nCode ++ x.kCode ++ tyCode x.tA
    ++ tyCode x.tB ++ BitVec.ofBool x.band ++ BitVec.ofBool x.zero ++ x.mode ++ x.aScale ++ x.bScale ++ 0#15
    ++ BitVec.ofBool x.reuse

/-- The predicate field of a lane word. -/
def lanePred (w : W96) : PredSel := { neg := w.getLsbD 83, num := w.extractLsb' 80 3 }

/-- The fields of a format LA word; none where an operand or type is unassigned. -/
def decodeLa (w : W96) : Option LaForm := do
  let d ← decodeOpnd (w.extractLsb' 68 12)
  let a ← decodeOpnd (w.extractLsb' 56 12)
  let b ← decodeOpnd (w.extractLsb' 44 12)
  let c ← decodeOpnd (w.extractLsb' 32 12)
  let ty ← tyOfCode (w.extractLsb' 26 6)
  pure { pr := lanePred w, d, a, b, c, ty, md := w.extractLsb' 16 10, ext := w.extractLsb' 2 14,
         yw := w.getLsbD 1, reuse := w.getLsbD 0 }

/-- The fields of a format LI word. -/
def decodeLi (w : W96) : Option LiForm := do
  let d ← decodeOpnd (w.extractLsb' 68 12)
  let a ← decodeOpnd (w.extractLsb' 56 12)
  let ty ← tyOfCode (w.extractLsb' 50 6)
  pure { pr := lanePred w, d, a, ty, md := w.extractLsb' 40 10, imm := w.extractLsb' 0 32 }

/-- The fields of a format LM word. -/
def decodeLm (w : W96) : Option LmForm := do
  let data ← decodeOpnd (w.extractLsb' 68 12)
  let addr ← decodeOpnd (w.extractLsb' 56 12)
  let ty ← tyOfCode (w.extractLsb' 44 6)
  pure { pr := lanePred w, data, addr, sbase := w.extractLsb' 50 6, ty, space := w.extractLsb' 41 3,
         order := w.extractLsb' 38 3, scope := w.extractLsb' 35 3, fe := w.extractLsb' 33 2,
         cache := w.extractLsb' 31 2, vec := w.extractLsb' 29 2, off := w.extractLsb' 8 21 }

/-- The fields of a format LX word. -/
def decodeLx (w : W96) : Option LxForm := do
  let a ← decodeOpnd (w.extractLsb' 60 12)
  let tA ← tyOfCode (w.extractLsb' 40 6)
  let tB ← tyOfCode (w.extractLsb' 34 6)
  pure { pr := lanePred w, tile := w.extractLsb' 72 4, a, bBase := w.extractLsb' 54 6, mCode := w.extractLsb' 52 2,
         nCode := w.extractLsb' 50 2, kCode := w.extractLsb' 46 4, tA, tB, band := w.getLsbD 33,
         zero := w.getLsbD 32, mode := w.extractLsb' 30 2, aScale := w.extractLsb' 22 8,
         bScale := w.extractLsb' 16 6, reuse := w.getLsbD 0 }

/-- The word of a lane instruction (R135); none for scalar instructions and events. -/
def encodeLane : Instr → Option W96
  | .nop => none
  | .endGroup => none
  | .endk _ _ => none
  | .yield => none
  | .isync => none
  | .npbegin => none
  | .npend => none
  | .add _ _ _ => none
  | .sub _ _ _ => none
  | .mul _ _ _ => none
  | .mulh _ _ _ => none
  | .mulhn _ _ _ => none
  | .div _ _ _ => none
  | .divn _ _ _ => none
  | .rem _ _ _ => none
  | .remn _ _ _ => none
  | .and _ _ _ => none
  | .or _ _ _ => none
  | .xor _ _ _ => none
  | .shl _ _ _ => none
  | .shr _ _ _ => none
  | .sha _ _ _ => none
  | .min _ _ _ => none
  | .max _ _ _ => none
  | .minn _ _ _ => none
  | .maxn _ _ _ => none
  | .clz _ _ => none
  | .popc _ _ => none
  | .cmpEq _ _ _ => none
  | .cmpNe _ _ _ => none
  | .cmpLt _ _ _ => none
  | .cmpLe _ _ _ => none
  | .cmpLtn _ _ _ => none
  | .cmpLen _ _ _ => none
  | .addi _ _ _ => none
  | .andi _ _ _ => none
  | .ori _ _ _ => none
  | .xori _ _ _ => none
  | .shiShl _ _ _ => none
  | .shiShr _ _ _ => none
  | .shiSha _ _ _ => none
  | .cmpiEq _ _ _ => none
  | .cmpiNe _ _ _ => none
  | .cmpiLt _ _ _ => none
  | .cmpiLe _ _ _ => none
  | .cmpiLtn _ _ _ => none
  | .cmpiLen _ _ _ => none
  | .lhi _ _ => none
  | .addpc _ _ => none
  | .bfx _ _ _ _ => none
  | .bfxn _ _ _ _ => none
  | .bfi _ _ _ _ => none
  | .madd _ _ _ _ => none
  | .msub _ _ _ _ => none
  | .taddr _ _ _ _ _ => none
  | .sel _ _ _ _ => none
  | .j _ => none
  | .jal _ => none
  | .jr _ => none
  | .jalr _ _ => none
  | .bz _ _ => none
  | .bnz _ _ => none
  | .ld _ _ _ _ _ => none
  | .st _ _ _ _ => none
  | .ldk _ _ => none
  | .amoSwap _ _ _ _ _ => none
  | .amoAdd _ _ _ _ _ => none
  | .amoAnd _ _ _ _ _ => none
  | .amoOr _ _ _ _ _ => none
  | .amoXor _ _ _ _ _ => none
  | .amoMin _ _ _ _ _ => none
  | .amoMax _ _ _ _ _ => none
  | .amoMinn _ _ _ _ _ => none
  | .amoMaxn _ _ _ _ _ => none
  | .amoFadd _ _ _ _ => none
  | .cas _ _ _ _ _ _ => none
  | .clause _ => none
  | .clauser _ => none
  | .mpush _ _ => none
  | .mpushRegister _ => none
  | .melse => none
  | .mpop => none
  | .setp _ _ => none
  | .pmov _ _ _ => none
  | .wflag _ => none
  | .vget _ _ _ => none
  | .vput _ _ _ => none
  | .setfmt _ _ => none
  | .getfmt _ => none
  | .setprec _ _ => none
  | .getstat _ => none
  | .clrstat _ => none
  | .mfs _ _ => none
  | .mts _ _ => none
  | .fenceFull _ _ => none
  | .fenceAcquire _ _ => none
  | .fenceRelease _ _ => none
  | .fenceSc _ _ => none
  | .barSync _ _ => none
  | .barArv _ _ => none
  | .rdtime _ => none
  | .waituntil _ => none
  | .waituntilReached _ => none
  | .qlock _ _ => none
  | .qunlock _ => none
  | .cpy _ _ _ _ => none
  | .cpy2d _ _ _ _ => none
  | .twaitAll _ _ => none
  | .twaitAny _ _ => none
  | .tfirst _ _ => none
  | .tack _ => none
  | .bbinit _ => none
  | .bbexp _ _ => none
  | .bbwait _ _ _ => none
  | .bbarv _ _ _ => none
  | .bsub _ _ _ => none
  | .bunsub _ _ => none
  | .bsync _ => none
  | .ndecl _ _ => none
  | .ndrop _ => none
  | .ncan _ _ _ => none
  | .skcmdTag _ _ _ => none
  | .skcmdBb _ _ _ => none
  | .skcmdCw _ _ => none
  | .put _ _ _ _ => none
  | .get _ _ _ _ => none
  | .winwait _ _ _ => none
  | .wincnt _ _ _ => none
  | .qpush _ _ _ => none
  | .trap _ _ => none
  | .tret => none
  | .msave => none
  | .mrest => none
  | .tlbinv _ _ _ => none
  | .tlbsync => none
  | .tlbinvAll => none
  | .npub _ _ _ => none
  | .npubRel _ _ _ => none
  | .nreqTag _ _ _ _ => none
  | .nreqBb _ _ _ _ => none
  | .poolGuard _ => none
  | .iadd x => some (encodeLa 0x000 x)
  | .isub x => some (encodeLa 0x001 x)
  | .imul x => some (encodeLa 0x002 x)
  | .imulh x => some (encodeLa 0x003 x)
  | .imad x => some (encodeLa 0x004 x)
  | .idot4 x => some (encodeLa 0x005 x)
  | .imin x => some (encodeLa 0x006 x)
  | .imax x => some (encodeLa 0x007 x)
  | .bfn3 x => some (encodeLa 0x008 x)
  | .shf x => some (encodeLa 0x009 x)
  | .laneBfx x => some (encodeLa 0x00A x)
  | .laneBfi x => some (encodeLa 0x00B x)
  | .bitc x => some (encodeLa 0x00C x)
  | .icmp x => some (encodeLa 0x00D x)
  | .iaddLi x => some (encodeLi 0x040 x)
  | .isubLi x => some (encodeLi 0x041 x)
  | .imulLi x => some (encodeLi 0x042 x)
  | .imulhLi x => some (encodeLi 0x043 x)
  | .imadLi x => some (encodeLi 0x044 x)
  | .idot4Li x => some (encodeLi 0x045 x)
  | .iminLi x => some (encodeLi 0x046 x)
  | .imaxLi x => some (encodeLi 0x047 x)
  | .bfn3Li x => some (encodeLi 0x048 x)
  | .shfLi x => some (encodeLi 0x049 x)
  | .laneBfxLi x => some (encodeLi 0x04A x)
  | .laneBfiLi x => some (encodeLi 0x04B x)
  | .icmpLi x => some (encodeLi 0x04D x)
  | .fadd x => some (encodeLa 0x100 x)
  | .fmul x => some (encodeLa 0x101 x)
  | .ffma x => some (encodeLa 0x102 x)
  | .fmin x => some (encodeLa 0x103 x)
  | .fmax x => some (encodeLa 0x104 x)
  | .fcmp x => some (encodeLa 0x105 x)
  | .fmath x => some (encodeLa 0x106 x)
  | .fsca x => some (encodeLa 0x107 x)
  | .fclass x => some (encodeLa 0x108 x)
  | .faddLi x => some (encodeLi 0x140 x)
  | .fmulLi x => some (encodeLi 0x141 x)
  | .ffmaLi x => some (encodeLi 0x142 x)
  | .fminLi x => some (encodeLi 0x143 x)
  | .fmaxLi x => some (encodeLi 0x144 x)
  | .fcmpLi x => some (encodeLi 0x145 x)
  | .fmathDivLi x => some (encodeLi 0x146 x)
  | .fscaLi x => some (encodeLi 0x147 x)
  | .cvt x => some (encodeLa 0x200 x)
  | .pack x => some (encodeLa 0x201 x)
  | .unpack x => some (encodeLa 0x202 x)
  | .scalex x => some (encodeLa 0x203 x)
  | .lperm x => some (encodeLa 0x280 x)
  | .qxch x => some (encodeLa 0x281 x)
  | .qbc x => some (encodeLa 0x282 x)
  | .red x => some (encodeLa 0x283 x)
  | .scan x => some (encodeLa 0x284 x)
  | .ppoll x => some (encodeLa 0x285 x)
  | .xadd x => some (encodeLa 0x300 x)
  | .xmul x => some (encodeLa 0x301 x)
  | .xfma x => some (encodeLa 0x302 x)
  | .xadde x => some (encodeLa 0x303 x)
  | .xmule x => some (encodeLa 0x304 x)
  | .xcvt x => some (encodeLa 0x305 x)
  | .xcmp x => some (encodeLa 0x306 x)
  | .xrnd x => some (encodeLa 0x307 x)
  | .xerr x => some (encodeLa 0x308 x)
  | .mov x => some (encodeLa 0x380 x)
  | .movi x => some (encodeLi 0x3C0 x)
  | .laneSel x => some (encodeLa 0x381 x)
  | .pfn3 x => some (encodeLa 0x382 x)
  | .spec x => some (encodeLa 0x383 x)
  | .ixset x => some (encodeLa 0x384 x)
  | .laneLd x => some (encodeLm 0x400 x)
  | .laneSt x => some (encodeLm 0x401 x)
  | .ldv x => some (encodeLm 0x402 x)
  | .stv x => some (encodeLm 0x403 x)
  | .pref x => some (encodeLm 0x404 x)
  | .atom x => some (encodeLm 0x500 x)
  | .atomc x => some (encodeLm 0x501 x)
  | .ldfe x => some (encodeLm 0x502 x)
  | .stfe x => some (encodeLm 0x503 x)
  | .fesetFull x => some (encodeLm 0x504 x)
  | .fesetEmpty x => some (encodeLm 0x504 x)
  | .ldWf x => some (encodeLm 0x400 x)
  | .stFill x => some (encodeLm 0x401 x)
  | .stEmpty x => some (encodeLm 0x401 x)
  | .fullEmptyPerform => none
  | .fullEmptyWaitExpired => none
  | .mma x => some (encodeLx 0x600 x)
  | .mmas x => some (encodeLx 0x601 x)
  | .accz x => some (encodeLx 0x602 x)
  | .accld x => some (encodeLm 0x603 x)
  | .accst x => some (encodeLm 0x604 x)
  | .accrd x => some (encodeLa 0x605 x)
  | .accwr x => some (encodeLa 0x606 x)
  | .mbfen x => some (encodeLi 0x607 x)
  | .mbwait x => some (encodeLi 0x608 x)
  | .matrixOperationComplete _ _ => none
  | .clauseStart _ => none
  | .positionedEffect _ => none
  | .longLatencyCompletion _ _ => none
  | .granuleFill _ _ => none
  | .trapEntry _ _ _ _ _ => none
  | .engineOperationComplete _ _ _ => none
  | .dataResponse _ _ _ => none
  | .tlbAcknowledge _ _ => none
  | .remotePutArrival _ _ _ => none
  | .sentComplete _ => none
  | .remoteGet _ _ _ => none
  | .gets _ => none
  | .getm _ => none
  | .upgrade _ => none
  | .putm _ => none
  | .inv _ => none
  | .poison _ => none
  | .bcast _ => none
  | .tile _ => none
  | .tlbinvMessage _ => none
  | .ack _ => none
  | .nack _ => none
  | .hold _ => none
  | .replay _ => none
  | .nackSend _ _ => none
  | .retransmissionWindowExpiry _ => none
  | .wavelengthDegraded _ _ _ => none
  | .retuneComplete _ _ _ => none
  | .heartbeat _ => none
  | .unitDead _ => none
  | .planeReadTimeout _ => none
  | .fencing _ => none
  | .recordRewrite _ => none
  | .declaration _ _ => none
  | .interest _ => none
  | .interestNack _ => none
  | .interestRetry _ _ => none
  | .publication _ => none
  | .refill _ _ => none
  | .tileDelivery _ => none
  | .localRecordExpiry _ => none
  | .pitEntryExpiry _ _ => none
  | .drop _ => none
  | .neverProduced _ => none
  | .tileLifetimeEnd _ _ => none
  | .tombstoneEnd _ _ => none
  | .cancel _ => none
  | .nopPacket _ => none
  | .launch _ => none
  | .graph _ => none
  | .copy _ => none
  | .signal _ => none
  | .time _ => none
  | .startReached _ => none
  | .cqHeaderRecheck _ => none
  | .ageing _ => none
  | .blocking _ => none
  | .bandPlacement _ _ _ => none
  | .prewaitExpiry _ _ => none
  | .preemptCommand _ _ _ => none
  | .bandResume _ _ _ _ => none
  | .regionOverrun _ => none
  | .throttleWindow _ _ _ => none
  | .loamZero _ => none
  | .loamCopy _ => none
  | .gred _ => none
  | .sadd _ => none
  | .coll _ => none
  | .collectiveRun _ _ => none
  | .collectiveTimeout _ => none
  | .mig _ => none
  | .heatWindow _ _ => none
  | .domainSwitchOff _ _ => none
  | .domainPowerOff _ _ => none
  | .domainSwitchOn _ _ => none
  | .domainReady _ _ => none
  | .hostWindowWrite _ _ => none
  | .hostWindowRead _ => none
  | .cxlLinkDown => none
  | .cxlLinkUp => none
  | .queueRegistration _ _ => none
  | .managementCommand => none
  | .controllerReset => none
  | .spdmRequest => none
  | .dataFlit _ _ => none
  | .acknowledgementFlit _ _ => none
  | .idleFlit _ _ => none
  | .propose _ _ => none
  | .accept _ _ => none
  | .train _ _ => none
  | .timeFlit _ _ => none
  | .timeExchange => none
  | .flitResendTimeout _ _ => none
  | .acknowledgementSend _ => none
  | .linkDown _ => none
  | .portLockLoss _ _ => none
  | .trainingTimeout _ => none
  | .ltarget _ _ => none
  | .dwellExpiry _ => none
  | .interlockTrip _ => none
  | .interlockClose _ => none
  | .moduleReset => none
  | .ftarget _ _ => none
  | .droop _ => none
  | .temperatureWarn _ _ => none
  | .frequencyStep _ => none
  | .clockStop _ _ => none
  | .clockRestart _ _ => none
  | .thermalTrip _ => none
  | .tokenWindow _ => none
  | .checkpointStart _ => none
  | .checkpointDone => none
  | .nodeAccess _ => none
  | .registerWrite _ _ => none
  | .resumeStoppedCrew _ => none
  | .endStoppedCrew _ => none
  | .keptRangeRelease _ => none
  | .buntingFrame => none
  | .receiverLock _ _ => none
  | .frequencyChangeEnd _ => none
  | .droopPassed _ => none
  | .temperatureBelowTwarn _ _ => none
  | .msiXVectorUnmask _ => none
  | .hostMemoryCompletion _ => none

/-- The instruction of a lane word by its opcode, its form decoded and not yet checked (R135). LD, ST and FESET are
told apart by fe (R241, R243). -/
def laneCandidate (w : W96) : Option Instr :=
  match (w.extractLsb' 84 12).toNat with
  | 0x000 => (decodeLa w).map .iadd
  | 0x001 => (decodeLa w).map .isub
  | 0x002 => (decodeLa w).map .imul
  | 0x003 => (decodeLa w).map .imulh
  | 0x004 => (decodeLa w).map .imad
  | 0x005 => (decodeLa w).map .idot4
  | 0x006 => (decodeLa w).map .imin
  | 0x007 => (decodeLa w).map .imax
  | 0x008 => (decodeLa w).map .bfn3
  | 0x009 => (decodeLa w).map .shf
  | 0x00A => (decodeLa w).map .laneBfx
  | 0x00B => (decodeLa w).map .laneBfi
  | 0x00C => (decodeLa w).map .bitc
  | 0x00D => (decodeLa w).map .icmp
  | 0x040 => (decodeLi w).map .iaddLi
  | 0x041 => (decodeLi w).map .isubLi
  | 0x042 => (decodeLi w).map .imulLi
  | 0x043 => (decodeLi w).map .imulhLi
  | 0x044 => (decodeLi w).map .imadLi
  | 0x045 => (decodeLi w).map .idot4Li
  | 0x046 => (decodeLi w).map .iminLi
  | 0x047 => (decodeLi w).map .imaxLi
  | 0x048 => (decodeLi w).map .bfn3Li
  | 0x049 => (decodeLi w).map .shfLi
  | 0x04A => (decodeLi w).map .laneBfxLi
  | 0x04B => (decodeLi w).map .laneBfiLi
  | 0x04D => (decodeLi w).map .icmpLi
  | 0x100 => (decodeLa w).map .fadd
  | 0x101 => (decodeLa w).map .fmul
  | 0x102 => (decodeLa w).map .ffma
  | 0x103 => (decodeLa w).map .fmin
  | 0x104 => (decodeLa w).map .fmax
  | 0x105 => (decodeLa w).map .fcmp
  | 0x106 => (decodeLa w).map .fmath
  | 0x107 => (decodeLa w).map .fsca
  | 0x108 => (decodeLa w).map .fclass
  | 0x140 => (decodeLi w).map .faddLi
  | 0x141 => (decodeLi w).map .fmulLi
  | 0x142 => (decodeLi w).map .ffmaLi
  | 0x143 => (decodeLi w).map .fminLi
  | 0x144 => (decodeLi w).map .fmaxLi
  | 0x145 => (decodeLi w).map .fcmpLi
  | 0x146 => (decodeLi w).map .fmathDivLi
  | 0x147 => (decodeLi w).map .fscaLi
  | 0x200 => (decodeLa w).map .cvt
  | 0x201 => (decodeLa w).map .pack
  | 0x202 => (decodeLa w).map .unpack
  | 0x203 => (decodeLa w).map .scalex
  | 0x280 => (decodeLa w).map .lperm
  | 0x281 => (decodeLa w).map .qxch
  | 0x282 => (decodeLa w).map .qbc
  | 0x283 => (decodeLa w).map .red
  | 0x284 => (decodeLa w).map .scan
  | 0x285 => (decodeLa w).map .ppoll
  | 0x300 => (decodeLa w).map .xadd
  | 0x301 => (decodeLa w).map .xmul
  | 0x302 => (decodeLa w).map .xfma
  | 0x303 => (decodeLa w).map .xadde
  | 0x304 => (decodeLa w).map .xmule
  | 0x305 => (decodeLa w).map .xcvt
  | 0x306 => (decodeLa w).map .xcmp
  | 0x307 => (decodeLa w).map .xrnd
  | 0x308 => (decodeLa w).map .xerr
  | 0x380 => (decodeLa w).map .mov
  | 0x381 => (decodeLa w).map .laneSel
  | 0x382 => (decodeLa w).map .pfn3
  | 0x383 => (decodeLa w).map .spec
  | 0x384 => (decodeLa w).map .ixset
  | 0x3C0 => (decodeLi w).map .movi
  | 0x400 => (decodeLm w).map fun x => if x.fe = 1 then .ldWf x else .laneLd x
  | 0x401 => (decodeLm w).map fun x => if x.fe = 1 then .stFill x else if x.fe = 2 then .stEmpty x else .laneSt x
  | 0x402 => (decodeLm w).map .ldv
  | 0x403 => (decodeLm w).map .stv
  | 0x404 => (decodeLm w).map .pref
  | 0x500 => (decodeLm w).map .atom
  | 0x501 => (decodeLm w).map .atomc
  | 0x502 => (decodeLm w).map .ldfe
  | 0x503 => (decodeLm w).map .stfe
  | 0x504 => (decodeLm w).map fun x => if x.fe = 2 then .fesetEmpty x else .fesetFull x
  | 0x600 => (decodeLx w).map .mma
  | 0x601 => (decodeLx w).map .mmas
  | 0x602 => (decodeLx w).map .accz
  | 0x603 => (decodeLm w).map .accld
  | 0x604 => (decodeLm w).map .accst
  | 0x605 => (decodeLa w).map .accrd
  | 0x606 => (decodeLa w).map .accwr
  | 0x607 => (decodeLi w).map .mbfen
  | 0x608 => (decodeLi w).map .mbwait
  | _ => none

/-- The lane instruction of a word; none where it is unassigned or its fields are not accepted (R137, R196). -/
def decodeLane (w : W96) : Option Instr :=
  match laneCandidate w with
  | none => none
  | some i => if encodeLane i = some w && i.wellFormed then some i else none

/-- A clause header (R127, R136). -/
structure ClauseHeader where
  count : Nat
  wait : BitVec 12
  setA : BitVec 5
  setB : BitVec 5
  helper : Bool
  deriving DecidableEq, Repr

/-- A set-flag field is legal: a valid bit with a flag below 12, or neither (R136). -/
def setFlagOk (x : BitVec 5) : Bool := if x.getLsbD 4 then (x.extractLsb' 0 4).toNat < 12 else x = 0

/-- The header of a word; none where the bad-clause trap is raised (R136). -/
def decodeHeader (w : W96) : Option ClauseHeader :=
  let h : ClauseHeader :=
    { count := (w.extractLsb' 80 4).toNat, wait := w.extractLsb' 68 12, setA := w.extractLsb' 63 5,
      setB := w.extractLsb' 58 5, helper := w.getLsbD 57 }
  if w.extractLsb' 84 12 = 0xF00 && h.count ≠ 0 && setFlagOk h.setA && setFlagOk h.setB && w.extractLsb' 0 57 = 0
  then some h else none

/-- The opcode of a clause header (R127). -/
def isHeaderWord (w : W96) : Bool := w.extractLsb' 84 12 = 0xF00

/-- The words of an instruction, low word first (R121); empty for an event. -/
def encode (i : Instr) : List W32 :=
  match encodeScalar i with
  | some w => [w]
  | none =>
    match encodeLane i with
    | some w => [w.extractLsb' 0 32, w.extractLsb' 32 32, w.extractLsb' 64 32]
    | none => []

/-- Bits 95:32 of a lane instruction, what its illegal-instruction trap holds in `tval`; the word of a scalar one
(R137). -/
def illegalTval (i : Instr) : W64 :=
  match encodeScalar i with
  | some w => w.setWidth 64
  | none =>
    match encodeLane i with
    | some w => w.extractLsb' 32 64
    | none => 0

/-- A lane word from its bytes in memory (R121): 12 bytes, little-endian. -/
def laneWordOf (bs : List Byte) : W96 := BitVec.ofNat 96 (bs.foldr (fun b acc => b.toNat + 256 * acc) 0)

/-- A scalar word from its bytes in memory (R5, R119). -/
def scalarWordOf (bs : List Byte) : W32 := BitVec.ofNat 32 (bs.foldr (fun b acc => b.toNat + 256 * acc) 0)

/-- The host's probe: a scalar word for up to 32 bits, a lane word above. The bits are laid out as bytes, little-endian,
and given to the decoder. -/
def decodeTableWord (nbits w : Nat) : Option Instr :=
  if nbits ≤ 32 then decodeScalar (scalarWordOf ((List.range 4).map fun k => BitVec.ofNat 8 (w >>> (8 * k))))
  else decodeLane (laneWordOf ((List.range 12).map fun k => BitVec.ofNat 8 (w >>> (8 * k))))

end Sys2Proof
end

