-- ==== Sys2Proof/Machine/Sparse.lean ====
section
/-!
DEFINITION. Sparse.lean: finite maps from numbers to words, held as lists of pairs in one canonical form: keys strictly
rising, and no entry equal to zero, which is what an unlisted key reads as. Register files, tiles and memory use them.
-/
namespace Sys2Proof.Machine

/-- A map from keys to words of one width. -/
abbrev Sparse (w : Nat) := List (Nat × BitVec w)

/-- The word at a key: 0 where nothing is listed. -/
def spGet {w : Nat} : Sparse w → Nat → BitVec w
  | [], _ => 0
  | (k, v) :: r, i => if k = i then v else spGet r i

/-- Remove a key. -/
def spDel {w : Nat} : Sparse w → Nat → Sparse w
  | [], _ => []
  | (k, v) :: r, i => if k = i then spDel r i else (k, v) :: spDel r i

/-- Insert an entry before the first greater key. -/
def spIns {w : Nat} : Sparse w → Nat → BitVec w → Sparse w
  | [], i, x => [(i, x)]
  | (k, v) :: r, i, x => if i < k then (i, x) :: (k, v) :: r else (k, v) :: spIns r i x

/-- Store a word at a key, keeping the form: storing 0 removes the entry. -/
def spSet {w : Nat} (m : Sparse w) (i : Nat) (x : BitVec w) : Sparse w :=
  if x = 0 then spDel m i else spIns (spDel m i) i x

/-- Keys strictly rising from `lo` and no zero entry. -/
def spWfFrom {w : Nat} (lo : Nat) : Sparse w → Bool
  | [] => true
  | (k, v) :: r => decide (lo ≤ k) && decide (v ≠ 0) && spWfFrom (k + 1) r

/-- The canonical form. -/
def spWf {w : Nat} (m : Sparse w) : Bool := spWfFrom 0 m

/-- Clear every entry whose key lies in [lo, lo + n). -/
def spClear {w : Nat} (m : Sparse w) (lo n : Nat) : Sparse w :=
  m.filter fun p => !(decide (lo ≤ p.1) && decide (p.1 < lo + n))

/-- Store several words. -/
def spSetAll {w : Nat} (m : Sparse w) : List (Nat × BitVec w) → Sparse w
  | [] => m
  | (k, v) :: r => spSetAll (spSet m k v) r

/-! ### Sets of numbers, strictly rising -/

/-- Membership. -/
def setHas (l : List Nat) (n : Nat) : Bool := l.contains n

/-- Insert a number, keeping the list strictly rising. -/
def setAdd : List Nat → Nat → List Nat
  | [], n => [n]
  | k :: r, n => if n = k then k :: r else if n < k then n :: k :: r else k :: setAdd r n

/-- Remove a number. -/
def setDel (l : List Nat) (n : Nat) : List Nat := l.filter fun k => k ≠ n

/-! ### Lists as tables -/

/-- The element at an index; a default beyond the end. -/
def nth {α : Type} (l : List α) (n : Nat) (d : α) : α := (l[n]?).getD d

/-- The element of a table of fixed size; a default beyond the end. -/
def vget {α : Type} {n : Nat} (v : Vector α n) (i : Nat) (d : α) : α := (v[i]?).getD d

/-- A table of fixed size with one element replaced; unchanged beyond the end. -/
def vset {α : Type} {n : Nat} (v : Vector α n) (i : Nat) (x : α) : Vector α n := v.setIfInBounds i x

/-- The table of a function's values at 0 to n - 1. -/
def vtab {α : Type} (n : Nat) (f : Nat → α) : Vector α n := ⟨((List.range n).map f).toArray, by simp⟩

/-- Replace the first element that satisfies p, or do nothing. -/
def replaceFirst {α : Type} (p : α → Bool) (f : α → α) : List α → List α
  | [] => []
  | x :: r => if p x then f x :: r else x :: replaceFirst p f r

end Sys2Proof.Machine
end

