-- ==== Sys2Proof/Machine/State.lean ====
section
/-!
DEFINITION. State.lean: the machine's state as plain data, and the machine right after reset.
INVENTORY.md lists every field with the rule that names it.
-/
namespace Sys2Proof.Machine

/-! ### The group (R17 to R29) -/

/-- An entry of the mask stack (R25). -/
structure MaskEntry where
  mask : W32
  fmt : W64
  taken : W32
  deriving DecidableEq, Repr

/-- The kinds of lane-queue entries (R18, R329). -/
inductive QKind where
  | clause
  | vput
  | setp
  | prng
  | fewait
  deriving DecidableEq, Repr

/-- A lane-queue entry. A started clause stays at the head until it ends; its header fields are those read when it
started (R18, R19, R329). -/
structure QEntry where
  kind : QKind
  addr : W64
  mask : W32 := 0
  fmt : W64 := 0
  target : BitVec 16 := 0
  started : Bool := false
  pos : Nat := 0
  count : Nat := 0
  setA : BitVec 5 := 0
  setB : BitVec 5 := 0
  helper : Bool := false
  fewait : W64 := 0
  /-- Translation in force when the clause was enqueued (R181). -/
  asid : BitVec 16 := 0
  ptbase : W64 := 0
  deriving DecidableEq, Repr

/-- A matrix operation as captured at issue (R253, R254): operand A, the scales of A, the physical bases of B and of
its scales, and the length of the store history at issue. -/
structure MmaOp where
  form : LxForm
  scaled : Bool
  fmt : W64
  aData : Sparse 32
  aScale : Sparse 32
  bBase : Nat
  bScaleBase : Nat
  boff : W64
  soff : W64
  mark : Nat
  deriving DecidableEq, Repr

/-- What an outstanding operation does when it completes (R20, R257, R259). -/
inductive OutAct where
  /-- Its memory effect is performed; its register results stand in `writes`. -/
  | plain
  /-- A prefetch: the identities of the requests for its lines (R239). -/
  | pref (slots : List Nat)
  | accz (t : Nat)
  /-- Elements (row * 128 + column) to write. -/
  | accld (t : Nat) (words : List (Nat × W32))
  /-- Elements, the physical addresses they go to, and the policies of their pages. -/
  | accst (t : Nat) (dst : List (Nat × Nat × Nat))
  /-- Lane register keys and the elements they take. -/
  | accrd (t : Nat) (src : List (Nat × Nat))
  | accwr (t : Nat) (words : List (Nat × W32))
  | mma (op : MmaOp)
  deriving DecidableEq, Repr

/-- An issued lane instruction that has not completed: long-latency (R20) or matrix (R257). -/
structure OutOp where
  seq : Nat
  matrix : Bool
  flag : Option Nat
  tiles : List Nat
  writes : List (Nat × W32)
  act : OutAct
  /-- Position among the group's band-mode instructions (R256). -/
  band : Option Nat
  deriving DecidableEq, Repr

/-- A closed batch that has not completed: its number and its operations (R257). -/
structure Batch where
  num : BitVec 16
  ops : List Nat
  deriving DecidableEq, Repr

/-- A lane that waits for a full/empty word: the word's physical address, the word to write, the register it fills (R242). -/
structure FeLane where
  lane : Nat
  word : Nat
  data : W32
  key : Nat
  deriving DecidableEq, Repr

/-- A lane instruction waiting on full/empty bits (R112, R242 to R244): whether it waits for a full word, whether it leaves
it full, the lanes still waiting, the results held, the tick of issue, its place among the waiters of the machine. -/
structure FeWait where
  load : Bool
  keep : Bool
  left : List FeLane
  writes : List (Nat × W32)
  issued : Nat
  ticket : Nat
  /-- Order and scope as the instruction names them (R109). -/
  order : Nat
  scope : Nat
  deriving DecidableEq, Repr

/-- What the scalar thread holds while it waits inside one instruction (R184, R186, R187, R292, R322). -/
inductive ScalarWait where
  | none
  /-- QLOCK: the ticket taken, and the address of the lock, which the write of sd may have replaced in its register. -/
  | lock (ticket : BitVec 32) (lock : W64)
  /-- QPUSH: the index claimed and the packet read at issue. -/
  | push (w : W64) (pkt : List Byte)
  /-- BAR.SYNC: the phase number joined. -/
  | bar (phase : Nat)
  /-- WAITUNTIL: the tick awaited. -/
  | tick (t : W64)
  /-- NDECL: the declaration under way. -/
  | decl (id : Nat)
  /-- END and ENDK: the batch is closed and the group waits to end. -/
  | ending
  deriving DecidableEq, Repr

/-- The place of an SC operation in the SC order (R109): the stamp (frame, writer, plane), then core, crew, group and lane. -/
structure ScPlace where
  frame : Nat
  writer : Nat
  plane : Nat
  core : Nat
  crew : Nat
  group : Nat
  lane : Nat
  deriving DecidableEq, Repr

/-- Which SC operation of a group: that of its scalar thread, that of its lane stream, a tile store by its number among the group's
operations, a broadcast-window store by its slot. -/
inductive ScUse where
  | scalar
  | lane
  | tile (seq : Nat)
  | window (id : Nat)
  deriving DecidableEq, Repr

/-- An SC operation under way: the messages it has sent, and the latest of their places; frame 0 while none of them is stamped
(R109). -/
structure ScOpen where
  use : ScUse
  slots : List Nat
  place : ScPlace
  deriving DecidableEq, Repr

/-- A broadcast-window slot the group stored and has not synchronised (R282). -/
structure BSlot where
  id : Nat
  resent : Nat
  done : Bool
  deriving DecidableEq, Repr

/-- Where a group stands (R189): no group, on its crew's core or saved with its crew, or ended. -/
inductive GStatus where
  | empty
  | resident
  | ended
  deriving DecidableEq, Repr

/-- A group: its two streams and its registers (R17, R29, R43). -/
structure Group where
  key : GKey
  status : GStatus
  cluster : Nat
  core : Nat
  pc : W64
  sregs : Sparse 64
  lanes : Sparse 32
  ixs : Vector W32 128
  preds : Vector W32 8
  lfsr : Vector (BitVec 16) 32
  prng : W64
  fmt : W64
  fstat : BitVec 7
  amask : W32
  mstack : List MaskEntry
  flags : Vector Nat 12
  queue : List QEntry
  outs : List OutOp
  nextSeq : Nat
  errOps : List Nat
  batches : List Batch
  openOps : List Nat
  bctr : BitVec 16
  mbdone : BitVec 16
  merr : List (BitVec 16)
  bandOps : Nat
  feWait : Option FeWait
  /-- Lanes that performed their full/empty operation before a pre-emption split the instruction (R244). -/
  feDone : W32
  fewait : W64
  lcb : W64
  tsave : W64
  tcause : W64
  tpc : W64
  tval : W64
  tvec : W64
  asid : BitVec 16
  ptbase : W64
  priv : Bool
  handler : Bool
  msaved : Bool
  region : Option Nat
  regionOver : Bool
  lzfill : W64
  absent : List Nat
  fillFrom : Nat
  nslots : Nat
  tiles : List Nat
  wait : ScalarWait
  /-- The wait a lane trap interrupted, resumed by TRET at the same instruction (log 15). -/
  heldWait : ScalarWait
  isyncMark : Nat
  invs : List Nat
  bslots : List BSlot
  bfenced : Bool
  /-- SC operations under way at device or system scope (R109). -/
  scOpen : List ScOpen
  pubs : List Nat
  kept : Option (Nat × Nat)
  /-- The translation under which absent granules fill (R38, R315). -/
  fillAsid : BitVec 16
  fillPt : W64
  deriving DecidableEq, Repr

/-! ### The crew (R12 to R16, R184, R268, R270, R279) -/

/-- A tag (R268). -/
inductive TagState where
  | idle
  | pending
  | ready (status : Byte)
  deriving DecidableEq, Repr

/-- A byte barrier (R270). -/
structure ByteBar where
  inited : Bool
  phase : BitVec 16
  cur : Nat
  next : Nat
  expect : Nat
  posted : Bool
  overrun : Bool
  status : Byte
  deriving DecidableEq, Repr

/-- A crew barrier (R184): the count of the phase in progress (0 when idle), its arrivals, and how many phases have
completed. -/
structure CrewBar where
  count : Nat
  arrived : Nat
  phase : Nat
  deriving DecidableEq, Repr

/-- A broadcast subscription, with its install frame and the frame in which its crew's state was last restored (R279, R280). -/
structure Sub where
  num : Nat
  wbase : Nat
  lines : Nat
  writers : BitVec 96
  spoff : Nat
  bar : Nat
  frame : Nat
  since : Nat
  missed : Nat
  deriving DecidableEq, Repr

/-- Whether a crew runs, is coming to a stop, or is set aside (R319, R331). -/
inductive Halt where
  | running
  /-- Streams have stopped; issued work completes; `dbl`: after a double trap. -/
  | draining (dbl : Bool)
  | saved
  | stopped
  /-- Ended by the supervisor after a double trap: it holds nothing (R332). -/
  | over
  deriving DecidableEq, Repr

/-- A crew. `key` has group 0. -/
structure Crew where
  key : GKey
  cluster : Nat
  core : Nat
  groups : Nat
  crews : Nat
  tags : List TagState
  bbs : List ByteBar
  cbars : List CrewBar
  spbase : Nat
  splen : Nat
  subs : List Sub
  halt : Halt
  deriving DecidableEq, Repr

/-! ### Engine operations (R264 to R290) -/

/-- Where an operation's completion goes (R265): a tag, a byte barrier with the parity fixed at issue (R271), or only the
completion word. -/
inductive OpTarget where
  | tag (t : Nat)
  | bar (t : Nat) (parity : Bool)
  | word
  deriving DecidableEq, Repr

/-- The operations of R264, with the operands read at issue. -/
inductive OpKind where
  | cpy (src dst : W64) (len : Nat)
  | cpy2d (src dst : W64) (rowbytes rows spitch dpitch : Nat)
  | npub (src pennant : W64) (rel : Bool)
  | nreq (dst : W64) (own : Bool) (pennant : W64)
  | skcmd (block : List Byte) (cword : W64) (seq : W32)
  | put (ref src : W64) (len : Nat)
  | get (dst ref : W64) (len : Nat)
  /-- A move that a Loam unit makes of its own accord, as the MIG block that would ask for it (R95, R388). -/
  | heat (block : List Byte)
  deriving DecidableEq, Repr

/-- How far a move of a page has come (R93): it takes over the words of both frames; it has copied the page and rewritten the leaf, and
waits for the acknowledgements of an invalidation; it is over or abandoned, and its record is still to be written. -/
inductive MovePhase where
  | claims
  | invalidates (id : Nat)
  | logs (status : Byte)
  deriving DecidableEq, Repr

/-- A move of a page: the tier it goes to, its frames, the address of its leaf (R93). -/
structure Move where
  tier : Nat
  old : Nat
  new : Nat
  at_ : Nat
  phase : MovePhase
  deriving DecidableEq, Repr

/-- How far an operation has come. -/
inductive OpStage where
  | issued
  /-- On its way or waiting: a PUT or GET sent, a publication travelling, an interest waiting (R285, R290). -/
  | sent
  /-- A Loam command the unit has accepted, a collective waiting for its members (R375, R385). -/
  | running
  /-- Ended, its status still to be delivered (R265). -/
  | ended (status : Byte)
  deriving DecidableEq, Repr

/-- A piece of one destination line of an engine operation (R114): its first physical byte, its length, the identity of the
slot that asks for it (none once the slot has been applied, or where no slot is needed), and its place in the order in which
destination lines were taken over (0 before). -/
structure Own where
  pa : Nat
  len : Nat
  slot : Option Nat
  seq : Nat
  deriving DecidableEq, Repr

/-- An engine operation in flight (R264). `mark` is the length of the store history when it may begin to read, `count` the bytes its
barrier arrival carries (R272), `expiry` the tick a local record ends (R363), `owned` the pieces of its destination (R114), `lost`
the bytes that a later owner of a line has written already, or, of a command that adds, that it has added to itself (R102, R393),
`after` the earlier commands that it waits for (R376, R385), `port` the port by which it left the device (R402, R408), `move` the move of a
MIG (R93). -/
structure EngOp where
  id : Nat
  grp : GKey
  cluster : Nat
  core : Nat
  asid : BitVec 16
  ptbase : W64
  priv : Bool
  kind : OpKind
  target : OpTarget
  stage : OpStage
  issued : Nat
  mark : Nat
  count : Nat
  expiry : Nat
  after : List Nat
  owned : List Own
  lost : List (Nat × Nat)
  port : Option Nat
  move : Option Move
  deriving DecidableEq, Repr

/-! ### Scheduling (R298 to R324) -/

/-- A kernel descriptor (R304). -/
structure KDesc where
  entry : W64
  lcb : W64
  tvec : W64
  stksz : Nat
  groups : Nat
  crews : Nat
  nslots : Nat
  ntiles : Nat
  units : Nat
  ntags : Nat
  nbbs : Nat
  ncbs : Nat
  restart : Bool
  deriving DecidableEq, Repr

/-- Where a piece of work came from and how its completion is reported (R301, R305, R307, R309): the queue and the packet's
SEQ, or 0xFF and the node that dispatched it; the completion queue's header (0: none); the node to decrement (NV); whether a
record is posted; for a node's work, the GRAPH packet that had armed it when it became ready. -/
structure Source where
  queue : Nat
  cq : Nat
  seq : Nat
  nv : Option Nat
  cqe : Bool
  gnode : Option Nat
  node : Nat
  arm : Nat × Nat
  deriving DecidableEq, Repr

/-- A launch that has not completed (R303 to R305): bands placed and bands ended. -/
structure Launch where
  id : Nat
  desc : KDesc
  bands : Nat
  priv : Bool
  inh : Bool
  pred : Nat
  ptbase : W64
  asid : BitVec 16
  ctx : W64
  param : W64
  src : Source
  placed : Nat
  /-- Bands to be placed again after a fence (R333). -/
  redo : List Nat
  ended : Nat
  status : Byte
  deriving DecidableEq, Repr

/-- Where a placed band stands (R318 to R321). -/
inductive BandPhase where
  | resident
  /-- A pre-emption waits or is under way. -/
  | leaving
  | saved
  | ended
  deriving DecidableEq, Repr

/-- A placed band (R311, R314, R318): its level for life, its cores and scratchpad runs by crew. -/
structure Band where
  launch : Nat
  band : Nat
  cluster : Nat
  cores : List Nat
  spbases : List Nat
  level : Nat
  placedAt : Nat
  phase : BandPhase
  /-- Relocation bit of its crews' state (R321). -/
  reloc : Bool
  deriving DecidableEq, Repr

/-- A launch waiting at a priority level (R311, R313). -/
structure Entry where
  launch : Nat
  level : Nat
  waitFrom : Nat
  blocking : Bool
  deriving DecidableEq, Repr

/-- A packet taken and not complete that waits for its START, or a GRAPH with nodes still to complete (R306, R310). -/
structure Job where
  id : Nat
  pkt : BitVec 512
  src : Source
  level : Nat
  start : Nat
  waiting : Bool
  nodes : List Nat
  launch : Nat
  deriving DecidableEq, Repr

/-- A completion record or supervisor event held for its queue: full, or its header invalid (R307). -/
structure Post where
  cq : Nat
  record : BitVec 512
  /-- It goes to the supervisor event queue. -/
  sup : Bool
  /-- The index claimed for it. -/
  claim : Option Nat
  deriving DecidableEq, Repr

/-- A ready graph node whose packet is still to be read (R309), and the launch-identity part of its arming packet. -/
structure ReadyNode where
  node : Nat
  armQueue : Nat
  armSeq : Nat
  deriving DecidableEq, Repr

/-- A kept register range of an ended crew (R39): of which group, on which core, its granules and values, and where its
spill goes: the granules of the group's pre-emption block under its launch's translation; `spilled`: it lies there and takes no
capacity of the core any more (R40, R319). -/
structure KeptRange where
  key : GKey
  cluster : Nat
  core : Nat
  first : Nat
  count : Nat
  vals : Sparse 32
  area : Nat
  asid : BitVec 16
  ptbase : W64
  spilled : Bool
  deriving DecidableEq, Repr

/-! ### Translation (R89 to R91) -/

/-- A translation a holder may have cached: the first address and the size of what its entry maps, the entry, and whether it is a
leaf or the pointer to a table (R89). -/
structure TlbEntry where
  holder : Nat
  asid : BitVec 16
  vbase : Nat
  size : Nat
  entry : W64
  leaf : Bool
  deriving DecidableEq, Repr

/-- An invalidation under way: its identity, the group that sent it, its range and ASID (none: all), the holders still
to acknowledge, and the frame and writer of its stamp (R337). -/
structure Inval where
  id : Nat
  grp : GKey
  asid : Option (BitVec 16)
  lo : Nat
  len : Nat
  waiting : List Nat
  frame : Nat
  writer : Nat
  deriving DecidableEq, Repr

/-! ### Accumulator memory (R80, R259) -/

/-- A physical tile: its number (cluster * 8 + core) * 16 + p, whether ACCZ cleared it, the nonce of its unspecified bits,
and the elements written since, keyed row * 128 + column. -/
structure Tile where
  id : Nat
  zeroed : Bool
  nonce : Nat
  elems : List (Nat × W32)
  deriving DecidableEq, Repr

/-! ### Coherence and the broadcast layer (R335 to R353) -/

/-- What a cluster holds of a word; a word it does not list is I (R342). -/
inductive CState where
  | shared
  | exclusive
  | owned
  | modified
  deriving DecidableEq, Repr

/-- A word as its home, the clusters and their cores see it (R342, R345): the cluster caches that hold it, the L1s that hold it
(by core number, cluster * 8 + core), version and grantee of the latest exclusive grant. -/
structure WordDir where
  addr : Nat
  holders : List (Nat × CState)
  l1 : List (Nat × CState)
  version : Nat
  grantee : Option Nat
  deriving DecidableEq, Repr

/-- A request whose data has not all arrived (R343): its masked words, those of them that have come, and the identity of its message. -/
structure Request where
  cluster : Nat
  line : Nat
  mask : W32
  got : W32
  slot : Nat
  deriving DecidableEq, Repr

/-- An entry of a stack's owner filter (R344): the line, the clusters that hold any word of it in M, O or E, and whether the home is
recalling the line to free the entry. -/
structure FilterEntry where
  line : Nat
  clusters : BitVec 64
  recalled : Bool
  deriving DecidableEq, Repr

/-- The messages of R337. Lines are 128-byte line addresses; `grp` is the group whose store a BCAST carries. -/
inductive Msg where
  | gets (line : Nat) (mask : W32) (core agent : Nat)
  | getm (line : Nat) (mask : W32) (core agent : Nat)
  | upgrade (line : Nat) (mask : W32) (core agent : Nat)
  | putm (line : Nat) (mask : W32) (ver : Nat)
  | inv (line : Nat) (mask : W32)
  | poison (line : Nat) (mask : W32)
  | bcast (line : Nat) (bytes : List Byte) (grp : GKey)
  | tileDesc (num : Nat) (pennant mask : W64) (chunks : Nat)
  | tileChunk (num idx : Nat) (bytes : List Byte)
  | tlbinv (id : Nat)
  | ack (id : Nat)
  | nack (writer frame : Nat)
  | hold (on : Bool)
  | replay (first last : Nat)
  /-- A slot of a reserved kind, 0xE or 0xF. -/
  | other (kind : Nat)
  deriving DecidableEq, Repr

/-- A slot: its identity, its stamp (R335, R336), its message, the frame of its latest sending and how often it was
re-sent (R340). -/
structure Slot where
  id : Nat
  frame : Nat
  writer : Nat
  msg : Msg
  last : Nat
  resent : Nat
  deriving DecidableEq, Repr

/-- A plane: messages to be sent, oldest first; slots sent and not applied, in stamp order; slots still kept by their
writers; the unreadable slot that holds the plane, by writer and frame, and the wavelength that it failed on; the readers that found
it so, each with the frame of its latest NACK; the readers whose HOLD (1) has been seen and not yet their HOLD (0); the writers that a NACK has stopped, each with the
range of its REPLAY; the slots still to be sent again, by writer and identity, in order; the frame in which a spare last took over a
wavelength, and whether readers and writer still have to retune to one (R336 to R341, R348). -/
structure Plane where
  pend : List Slot
  sent : List Slot
  kept : List Slot
  bad : Option (Nat × Nat)
  failed : Option Nat
  readers : List (Nat × Nat)
  holds : List Nat
  replays : List (Nat × Nat × Nat)
  again : List (Nat × Nat)
  takeover : Option Nat
  retuning : Bool
  deriving DecidableEq, Repr

/-- A write by the host into its window that waits for the INV of the home, by the identity of its slot (R346, R396). -/
structure HostWrite where
  slot : Nat
  pa : Nat
  bytes : List Byte
  deriving DecidableEq, Repr

/-- A PUT of a peer that waits until its bytes can be written: window, offset, bytes (R290, R346). -/
structure Arrival where
  win : Nat
  off : Nat
  data : List Byte
  deriving DecidableEq, Repr

/-- A broadcast delivery of a tile being collected: the descriptor slots applied so far, and the chunks; the clusters have been served
once `done` (R367, R368). -/
structure Collect where
  writer : Nat
  num : Nat
  pennant : W64
  mask : W64
  chunks : Nat
  descs : Nat
  done : Bool
  got : List (Nat × List Byte)
  deriving DecidableEq, Repr

/-! ### Named tiles (R354 to R374) -/

/-- A declaration held by the device, with the producers admitted so far: crews, each with its device, 0xFFFF for this one (R355,
R364). -/
structure Decl where
  tnum : Nat
  block : List Byte
  producers : List (Nat × GKey)
  deriving DecidableEq, Repr

/-- An NDECL under way; `asked`: HOME is another device and has been asked, by which port (R283, R356, R408). -/
structure DeclOp where
  id : Nat
  cluster : Nat
  block : List Byte
  asked : Bool
  port : Option Nat
  result : Option Byte
  deriving DecidableEq, Repr

/-- A pending-interest table entry or a tombstone (R361, R371); `dest` and `hops` are those of the interest that made it. -/
structure PitEntry where
  pennant : W64
  faces : List Face
  mask : W64
  expiry : Nat
  path : List Nat
  tomb : Bool
  dest : Nat
  hops : Nat
  deriving DecidableEq, Repr

/-- A stored tile (R365). -/
structure Stored where
  pennant : W64
  bytes : List Byte
  till : Nat
  spilled : Bool
  deriving DecidableEq, Repr

/-- A router's tables (R361, R365). -/
structure Router where
  pit : List PitEntry
  store : List Stored
  waiting : List NetMsg
  deriving DecidableEq, Repr

/-- An interest a cluster's engine has in flight: retries so far, and the tick of the next one (R360, R362). -/
structure Want where
  cluster : Nat
  pennant : W64
  retries : Nat
  resend : Option Nat
  deriving DecidableEq, Repr

/-! ### Ports (R407 to R417) -/

/-- A flit as last sent: the fields of its header, its payload, how often it has been sent and when, and the acknowledgements in a row
that show it missing (R407, R408). -/
structure SentFlit where
  seq : Nat
  lane : Nat
  kind : Nat
  epoch : Nat
  ack : Nat
  sack : Nat
  payload : List Byte
  sends : Nat
  last : Nat
  missed : Nat
  deriving DecidableEq, Repr

/-- A port's link state (R407 to R416). The wavelength registers, LSTATE, LASER, ACTIVE stand in `mgmt`. `outbox`: what is to be sent, by
KIND, the EPOCH of a width flit, and payload; `latest`: the flit last sent; `lit`: wavelengths lit and not active, in training, and since
when; `shed`: those the laser state has shed; `kept`: the port went to L3 while up, and its flits wait for it; `sleeping`: it is on its way
there and has still to send its accept in L2 (R411, R412). -/
structure Port where
  nextTx : Nat
  unacked : List SentFlit
  latest : Option SentFlit
  outbox : List (Nat × Nat × List Byte)
  lit : Nat
  litAt : Nat
  shed : Nat
  kept : Bool
  sleeping : Bool
  nextRx : Nat
  early : List Flit
  delivered : List (List Byte)
  rxMask : Nat
  rxEpoch : Nat
  txEpoch : Nat
  switching : Option (Nat × Nat)
  training : Option (Nat × Nat)
  lastChange : Nat
  target : Option Nat
  interlock : Bool
  closedAt : Nat
  lastHeard : Nat
  ackDue : Bool
  deriving DecidableEq, Repr

/-- A region's clock (R421, R423): issue stopped by a frequency change, cycles stretched by a droop, stepping down and since when, and the
warning limit to which firmware has lowered the record's, in 0.125 °C. -/
structure Region where
  changing : Bool
  droop : Bool
  stepping : Bool
  steppedAt : Nat
  warn : Nat
  deriving DecidableEq, Repr

/-- A checkpoint under way: when it started, the domains still to copy, and the ports and the far-tier GiB fixed at START (R424). -/
structure Checkpoint where
  mark : Nat
  left : List Nat
  ports : Nat
  dest : Nat
  deriving DecidableEq, Repr

/-! ### The machine -/

/-- A copy of the configuration record: RECSEQ, which self-test's results it holds, the physical cluster that carries each logical number
(none: absent), the quadrants whose spares are unused, and whether its signature verifies (R418, R419). -/
structure Record where
  seq : W32
  test : Nat
  map : List (Option Nat)
  spares : W64
  signed : Bool
  deriving DecidableEq, Repr

/-- Whose turn the next step is (log 1). -/
inductive Turn where
  | scalar
  | lane
  | hardware
  deriving DecidableEq, Repr

/-- What stops the machine. -/
inductive Fault where
  /-- Raised by `step` alone: module power is cut after a thermal trip (R423); nothing moves. Safe: the hardware stops. -/
  | powerCut
  deriving DecidableEq, Repr

/-- Why an instruction has no meaning. -/
inductive Refusal where
  /-- Raised by an arm of `exec` that has no meaning yet. Safe: nothing can be proved of that instruction. -/
  | notModelled (mnemonic : String)
  deriving DecidableEq, Repr

/-- The state. INVENTORY.md lists each field's rule and reset value. -/
structure State where
  cur : Group
  crew : Crew
  groups : List Group
  crews : List Crew
  turn : Turn
  inputs : List Instr
  rate : Nat
  ctr : Nat
  time : Nat
  power : Bool
  mem : List Host.Cell
  fe : List Nat
  poison : List Nat
  tiles : List Tile
  revived : List (Nat × Nat × Nat)
  hist : List (Nat × List Byte)
  tlb : List TlbEntry
  invals : List Inval
  ops : List EngOp
  nextId : Nat
  mgmt : List (Nat × W64)
  loam : List (Nat × W64)
  ringKept : List (Nat × Nat × Nat)
  launches : List Launch
  bands : List Band
  entries : List Entry
  jobs : List Job
  posts : List Post
  badQueues : List Nat
  nodes : Sparse 256
  ready : List ReadyNode
  keptRanges : List KeptRange
  throttle : List (Nat × Nat)
  dir : List WordDir
  grants : List (Nat × Nat)
  filter : List FilterEntry
  reqs : List Request
  /-- Writes into the host window whose INV has not been applied (R346, R396). -/
  hostWrites : List HostWrite
  /-- PUTs of peers that wait for the homes to take words back (R290, R346). -/
  arrivals : List Arrival
  /-- The latest SC operation at device or system scope (R109). -/
  scLast : ScPlace
  planes : List Plane
  collects : List Collect
  lastFrame : Nat
  beats : List (Nat × Nat)
  mute : List Nat
  /-- Units declared dead, each with the frame its fencing starts; 0 once fenced (R349, R350). -/
  dead : List (Nat × Nat)
  /-- Writers whose slots are accepted only from a frame on: the spares that took over (R352). -/
  joined : List (Nat × Nat)
  badNacks : List (Nat × Nat)
  decls : List Decl
  declOps : List DeclOp
  routers : List (Nat × Router)
  net : List NetMsg
  wants : List Want
  linkUp : Bool
  hostPend : List GKey
  hostRead : List Byte
  /-- The answer to the latest request of a peer: its status, and the bytes a GET read (R290). -/
  reply : Byte × List Byte
  doe : List Byte
  /-- The MSI-X table but for its mask bits, by offset; and the vectors masked, pending and raised (R395). -/
  msix : List (Nat × W64)
  vecMask : List Nat
  vecPend : List Nat
  vecRaised : List Nat
  ports : List Port
  sync : List Int
  regions : List Region
  ckpt : Option Checkpoint
  /-- The two copies of the configuration record in flash (R418). -/
  flash : List Record
  /-- The images in firmware slots A and B, by number (R425). -/
  images : List Nat
  /-- Accesses to 4 KiB frames since their unit's window began, and when each unit's window began (R388). -/
  heat : List (Nat × Nat)
  heatFrom : List (Nat × Nat)
  deriving DecidableEq, Repr

/-! ### Reset -/

/-- No group: the place of the current group while none is resident. -/
def noGroupKey : GKey := { launch := 2 ^ 64, band := 0, crew := 0, group := 0 }

/-- Lane l's seed for a value written to `prng` (R43). -/
def lfsrSeed (v : W64) (lane : Nat) : BitVec 16 :=
  let x := v.setWidth 16 ^^^ BitVec.ofNat 16 lane
  if x = 0 then 1 else x

/-- Registers of a group as R29 gives them at group start; the fields that placement gives are 0 here (log 2). -/
def blankGroup (k : GKey) : Group :=
  { key := k, status := .empty, cluster := 0, core := 0, pc := 0, sregs := [], lanes := [],
    ixs := .replicate 128 0, preds := .replicate 8 0, lfsr := vtab 32 (lfsrSeed 0x5A17), prng := 0x5A17, fmt := 0x38980800, fstat := 0,
    amask := 0xFFFFFFFF, mstack := [], flags := .replicate 12 0, queue := [], outs := [], nextSeq := 0, errOps := [],
    batches := [], openOps := [], bctr := 0, mbdone := 0xFFFF, merr := [], bandOps := 0, feWait := none, feDone := 0, fewait := 1000000,
    lcb := 0, tsave := 0, tcause := 0, tpc := 0, tval := 0, tvec := 0, asid := 0, ptbase := 0, priv := false,
    handler := false, msaved := false, region := none, regionOver := false, lzfill := 0, absent := [], fillFrom := 0,
    nslots := 0, tiles := [], wait := .none, heldWait := .none, isyncMark := 0, invs := [], bslots := [], bfenced := false, scOpen := [],
    pubs := [], kept := none, fillAsid := 0, fillPt := 0 }

/-- No crew. -/
def blankCrew (k : GKey) : Crew :=
  { key := k, cluster := 0, core := 0, groups := 0, crews := 0, tags := [], bbs := [], cbars := [], spbase := 0,
    splen := 0, subs := [], halt := .running }

/-- A plane with nothing on it. -/
def idlePlane : Plane :=
  { pend := [], sent := [], kept := [], bad := none, failed := none, readers := [], holds := [], replays := [], again := [], takeover := none, retuning := false }

/-- A port after reset: down, its path closed (R413). -/
def idlePort : Port :=
  { nextTx := 0, unacked := [], latest := none, outbox := [], lit := 0, litAt := 0, shed := 0, kept := false, sleeping := false, nextRx := 0, early := [], delivered := [], rxMask := 0, rxEpoch := 0,
    txEpoch := 0, switching := none, training := none, lastChange := 0, target := none, interlock := false, closedAt := 0,
    lastHeard := 0, ackDue := false }

/-- A region after reset (R427). -/
def idleRegion : Region := { changing := false, droop := false, stepping := false, steppedAt := 0, warn := 760 }

/-- The map of logical to physical clusters that a self-test's results give: a number whose CLUSTERS bit is 0 is absent (R418, R419,
log 6). -/
def testMap (n : Nat) : List (Option Nat) :=
  (List.range 64).map fun c => if (Config.record n 0x10).getLsbD c then some (Config.physical n c % 68) else none

/-- The configuration record that a self-test's results give (R418, log 6). -/
def recordOf (n : Nat) (seq : W32) (signed : Bool) : Record :=
  { seq := seq, test := n, map := testMap n, spares := Config.record n 0x18 &&& 0xF, signed := signed }

/-- The machine right after module reset: boot stage 0, no group, nothing queued (R420, R427; log 2). -/
def State.reset : State :=
  { cur := blankGroup noGroupKey, crew := blankCrew noGroupKey, groups := [], crews := [], turn := .hardware, inputs := [],
    rate := 1, ctr := 0, time := 0, power := true, mem := [], fe := [], poison := [], tiles := [], revived := [], hist := [], tlb := [],
    invals := [], ops := [], nextId := 0, mgmt := [], loam := [], ringKept := [], launches := [], bands := [],
    entries := [], jobs := [], posts := [], badQueues := [], nodes := [], ready := [], keptRanges := [], throttle := [],
    dir := [], grants := [], filter := [], reqs := [], hostWrites := [], arrivals := [], scLast := ⟨0, 0, 0, 0, 0, 0, 0⟩, planes := List.replicate 8 idlePlane, collects := [], lastFrame := 0, beats := [],
    mute := [], dead := [], joined := [], badNacks := [], decls := [], declOps := [], routers := [], net := [],
    wants := [], linkUp := true, hostPend := [], hostRead := [], reply := (0, []), doe := [], msix := [],
    vecMask := List.range 64, vecPend := [], vecRaised := [],
    ports := List.replicate 32 idlePort, sync := [], regions := List.replicate 16 idleRegion, ckpt := none,
    flash := [recordOf 0 ((Config.record 0 0x08).extractLsb' 16 32) true, recordOf 0 0 false], images := [0, 0], heat := [], heatFrom := [] }

end Sys2Proof.Machine
end

