-- ==== Sys2Proof/Machine/Regs.lean ====
section
/-!
DEFINITION. Regs.lean: the one home of each register: reads and writes of scalar, lane, index and predicate registers,
and the change of the group whose turn it is.
-/
namespace Sys2Proof.Machine

/-! ### Scalar registers (R29, R150) -/

/-- Read s(r); s0 reads 0. -/
def sget (g : Group) (r : BitVec 6) : W64 := if r = 0 then 0 else spGet g.sregs r.toNat

/-- Write s(r); a write of s0 is discarded. -/
def sset (g : Group) (r : BitVec 6) (v : W64) : Group :=
  if r = 0 then g else { g with sregs := spSet g.sregs r.toNat v }

/-- Change the current group. -/
def modCur (s : State) (f : Group → Group) : State := { s with cur := f s.cur }

/-- Change the crew of the current group. -/
def modCrew (s : State) (f : Crew → Crew) : State := { s with crew := f s.crew }

/-- The scalar thread moves to the next word. -/
def advance (s : State) : State := modCur s fun g => { g with pc := g.pc + 4 }

/-- Write a scalar register and move to the next word. -/
def retS (s : State) (d : BitVec 6) (v : W64) : State :=
  modCur s fun g => { sset g d v with pc := g.pc + 4 }

/-- Source register of the current group. -/
def sreg (s : State) (r : BitVec 6) : W64 := sget s.cur r

/-! ### Lane registers (R29, R193) -/

/-- Keys of lane registers: slot * 32 + lane, slots 0-255 for v, 256-263 for c, 264-265 for y. -/
def laneKey (slot lane : Nat) : Nat := slot * 32 + lane
/-- The key of c(i) in a lane. -/
def cKey (i lane : Nat) : Nat := laneKey (256 + i) lane
/-- The key of y(i) in a lane. -/
def yKey (i lane : Nat) : Nat := laneKey (264 + i) lane

/-- Read a lane register by key. -/
def laneGet (g : Group) (key : Nat) : W32 := spGet g.lanes key
/-- Write a lane register by key. -/
def laneSet (g : Group) (key : Nat) (v : W32) : Group := { g with lanes := spSet g.lanes key v }
/-- Write several lane registers. -/
def laneSetAll (g : Group) (ws : List (Nat × W32)) : Group := { g with lanes := spSetAll g.lanes ws }

/-- An index register of a lane: value 15:0, base 23:16, limit 31:24 (R29, R34). -/
def ixGet (g : Group) (lane k : Nat) : W32 := vget g.ixs (lane * 4 + k) 0
/-- The signed value of an index register. -/
def ixValue (g : Group) (lane k : Nat) : Int := ((ixGet g lane k).extractLsb' 0 16).toInt
def ixBase (g : Group) (lane k : Nat) : Nat := ((ixGet g lane k).extractLsb' 16 8).toNat
def ixLimit (g : Group) (lane k : Nat) : Nat := ((ixGet g lane k).extractLsb' 24 8).toNat

/-- Predicate k of a lane; p0 is true in every lane (R26). -/
def predGet (g : Group) (k lane : Nat) : Bool := k = 0 || (vget g.preds k 0).getLsbD lane

/-- The 32-lane mask of predicate k. -/
def predMask (g : Group) (k : Nat) : W32 := if k = 0 then 0xFFFFFFFF else vget g.preds k 0

/-- Replace the 32-lane mask of predicate k; p0 stays true. -/
def predSetMask (g : Group) (k : Nat) (m : W32) : Group :=
  if k = 0 then g else { g with preds := vset g.preds k m }

/-- The random-word register of a lane (R59). -/
def lfsrGet (g : Group) (lane : Nat) : BitVec 16 := vget g.lfsr lane 1

/-- One step of the random-word register (R59). -/
def lfsrStep (x : BitVec 16) : BitVec 16 :=
  (x <<< 1) ||| ((x >>> 15 ^^^ x >>> 13 ^^^ x >>> 12 ^^^ x >>> 10) &&& 1)

/-- Write `prng`: reseed every lane (R43). -/
def setPrng (g : Group) (v : W64) : Group :=
  { g with prng := v, lfsr := vtab 32 (lfsrSeed v) }

/-! ### The lane queue (R18, R153) -/

/-- The clause in execution, if any: the started head of the queue (R19). -/
def running (g : Group) : Option QEntry :=
  match g.queue with
  | e :: _ => if e.started then some e else none
  | [] => none

/-- Every earlier clause has ended and every positioned effect has been applied. -/
def laneEnded (g : Group) : Bool := g.queue.isEmpty

/-- Every earlier clause has started: no unstarted clause in the queue (R153). -/
def laneStarted (g : Group) : Bool := g.queue.all fun e => e.kind ≠ .clause || e.started

/-- Long-latency lane instructions outstanding (R21). -/
def longOuts (g : Group) : List OutOp := g.outs.filter fun o => !o.matrix

/-- Every earlier clause has ended and all of its instructions have completed (R153). -/
def laneComplete (g : Group) : Bool := g.queue.isEmpty && (longOuts g).isEmpty

/-- Every matrix batch has completed. -/
def batchesDone (g : Group) : Bool := g.batches.isEmpty && g.openOps.isEmpty

/-- Lane register keys with a pending long-latency write (R22). -/
def pendingKeys (g : Group) : List Nat :=
  g.outs.flatMap fun o =>
    o.writes.map (·.1) ++ (match o.act with | .accrd _ src => src.map (·.1) | _ => [])

/-- Whether a lane register has a pending write. -/
def isPending (g : Group) (key : Nat) : Bool := (pendingKeys g).contains key

/-- Adjust the count of flag i. -/
def flagAdd (g : Group) (i n : Nat) : Group := { g with flags := vset g.flags i (vget g.flags i 0 + n) }
def flagSub (g : Group) (i n : Nat) : Group := { g with flags := vset g.flags i (vget g.flags i 0 - n) }

/-- The 12-bit word of set flags (R20, R43). -/
def flagsWord (g : Group) : BitVec 12 :=
  BitVec.ofNat 12 ((List.range 12).foldl (fun acc i => if vget g.flags i 0 = 0 then acc else acc + 2 ^ i) 0)

/-- The distinct flags named by valid set-flags of a clause (R20). -/
def setFlags (e : QEntry) : List Nat :=
  let one (x : BitVec 5) : List Nat := if x.getLsbD 4 then [(x.extractLsb' 0 4).toNat] else []
  (one e.setA ++ one e.setB).eraseDups

/-- The flag an instruction attaches to (R20). -/
def attachFlag (e : QEntry) (returning : Bool) : Option Nat :=
  let a := if e.setA.getLsbD 4 then some (e.setA.extractLsb' 0 4).toNat else none
  let b := if e.setB.getLsbD 4 then some (e.setB.extractLsb' 0 4).toNat else none
  match a, b with
  | some x, some y => if returning then some x else some y
  | some x, none => some x
  | none, some y => some y
  | none, none => none

/-! ### The group and crew in focus -/

/-- The key of a crew: that of its group 0. -/
def crewKey (k : GKey) : GKey := { k with group := 0 }

/-- The group with a key, wherever it stands. -/
def findGroup (s : State) (k : GKey) : Option Group :=
  if s.cur.key = k && s.cur.status ≠ .empty then some s.cur else s.groups.find? fun g => g.key = k

/-- The crew with a key. -/
def findCrew (s : State) (k : GKey) : Option Crew :=
  if s.crew.key = crewKey k then some s.crew else s.crews.find? fun c => c.key = crewKey k

/-- Change the crew with a key. -/
def onCrewData (s : State) (k : GKey) (f : Crew → Crew) : State :=
  if s.crew.key = crewKey k then { s with crew := f s.crew }
  else { s with crews := replaceFirst (fun c => c.key = crewKey k) f s.crews }

/-- Change the group with a key. -/
def onGroupData (s : State) (k : GKey) (f : Group → Group) : State :=
  if s.cur.key = k && s.cur.status ≠ .empty then { s with cur := f s.cur }
  else { s with groups := replaceFirst (fun g => g.key = k) f s.groups }

/-- Bring the crew with a key into focus; the one that was there takes its place in the list. -/
def focusCrew (s : State) (k : GKey) : State :=
  if s.crew.key = crewKey k then s
  else
    match s.crews.find? fun c => c.key = crewKey k with
    | none => s
    | some c => { s with crew := c, crews := replaceFirst (fun x => x.key = crewKey k) (fun _ => s.crew) s.crews }

/-- Bring the group with a key, and its crew, into focus. -/
def focus (s : State) (k : GKey) : State :=
  if s.cur.key = k then focusCrew s k
  else
    match s.groups.find? fun g => g.key = k with
    | none => s
    | some g =>
      focusCrew { s with cur := g, groups := replaceFirst (fun x => x.key = k) (fun _ => s.cur) s.groups } k

/-- Run a change of the current group for the group with a key, then bring the former group back. -/
def onGroup (k : GKey) (f : State → State) (s : State) : State :=
  match findGroup s k with
  | none => s
  | some _ => focus (f (focus s k)) s.cur.key

/-- Every group of the machine, the current one first. -/
def allGroups (s : State) : List Group := (s.cur :: s.groups).filter fun g => g.status ≠ .empty

/-- Every crew of the machine. -/
def allCrews (s : State) : List Crew := (s.crew :: s.crews).filter fun c => c.groups ≠ 0

/-- The crew is saved by pre-emption, stopped after a double trap, or ended after one: it holds nothing of its core (R319, R331,
R332). -/
def crewAway (c : Crew) : Bool := c.halt = .saved || c.halt = .stopped || c.halt = .over

/-- The groups of a crew. -/
def groupsOfCrew (s : State) (k : GKey) : List Group := (allGroups s).filter fun g => crewKey g.key = crewKey k

/-- Take the free-value counter and advance it (log 10). -/
def fresh (s : State) : Nat × State := (s.ctr, { s with ctr := s.ctr + 1 })

end Sys2Proof.Machine
end

