-- ==== Sys2Proof/Machine/Mem.lean ====
section
/-!
DEFINITION. Mem.lean: the physical address map, translation and the bytes of memory (R75 to R94, R114, R118).
Memory is a list of (physical address, byte) pairs in the form of Sparse.lean; an unlisted byte reads `memUnlisted`.
-/
namespace Sys2Proof.Machine

/-- An entry of the regions whose unlisted bytes are free values covers an address: (stack, domain, nonce) a domain that was
switched off and on again (R83, log 11), (16, GiB, nonce) a GiB of the far tier that a checkpoint copied from such a domain
(log 36). -/
def revivedHit (pa : Nat) (r : Nat × Nat × Nat) : Bool :=
  if r.1 < 16 then decide (pa < 2 ^ 50) && r.1 = natBits pa 49 46 && r.2.1 = natBits pa 36 34
  else natBits pa 51 50 = 1 && r.2.1 = natBits pa 49 30

/-- What an unlisted byte of memory reads as. Stacked memory is zeroed at boot (R420) and a scratchpad run at placement
(R75); far and host memory: DESIGN CHOICE (log 3); a region listed in `rv` holds free values. -/
def memUnlisted (rv : List (Nat × Nat × Nat)) (pa : Nat) : Byte :=
  match rv.find? (revivedHit pa) with
  | none => 0
  | some r => Config.revived r.2.2 pa

/-! ### Register files of the panel classes 0x03 and 0x05 -/

/-- A register of a file: what was stored last, else its reset value. -/
def rfGet (f : List (Nat × W64)) (off : Nat) (reset : W64) : W64 :=
  match f.find? fun p => p.1 = off with
  | some p => p.2
  | none => reset

/-- Store a register, keeping one entry per offset. -/
def rfSet : List (Nat × W64) → Nat → W64 → List (Nat × W64)
  | [], k, v => [(k, v)]
  | (i, x) :: r, k, v => if i = k then (k, v) :: r else if k < i then (k, v) :: (i, x) :: r else (i, x) :: rfSet r k v

/-- The key of a register of stack s's Loam unit. -/
def loamKey (stack off : Nat) : Nat := stack * 65536 + off

/-- ON and READY of a stack's five domains (R391): all on and ready at reset. -/
def domainReg (s : State) (stack : Nat) : W64 := rfGet s.loam (loamKey stack 0x0010) 0x3FF

/-- A domain passes the power check: ON and READY (R83, R392). -/
def domainOn (s : State) (stack d : Nat) : Bool :=
  bitAt (domainReg s stack) d && bitAt (domainReg s stack) (5 + d)

/-! ### Physical addresses (R78 to R83) -/

/-- What a physical address names. -/
inductive Place where
  | stacked (stack domain : Nat)
  | far
  | host
  | scratch (cluster core off : Nat)
  | accum (cluster core off : Nat)
  | window (off : Nat)
  | mgmt (off : Nat)
  | tiles (router off : Nat)
  | loam (stack off : Nat)
  deriving DecidableEq, Repr

/-- The unit that backs n bytes at a physical address; none where none backs them (R78, R80, R82). -/
def placeOf (pa n : Nat) : Option Place :=
  match natBits pa 51 50 with
  | 0 =>
    let off := natBits pa 45 0
    if off + n ≤ 0x1400000000 then some (.stacked (natBits pa 49 46) (natBits off 36 34)) else none
  | 1 => if natBits pa 49 0 + n ≤ Config.farSize then some .far else none
  | 2 => some .host
  | _ =>
    match natBits pa 49 44 with
    | 0x00 =>
      if natBits pa 34 20 = 0 && natBits pa 19 0 + n ≤ 0xC0000 then
        some (.scratch (natBits pa 43 38) (natBits pa 37 35) (natBits pa 19 0)) else none
    | 0x01 =>
      if natBits pa 34 18 = 0 && natBits pa 17 0 + n ≤ 0x40000 then
        some (.accum (natBits pa 43 38) (natBits pa 37 35) (natBits pa 17 0)) else none
    | 0x02 => some (.window (natBits pa 43 0))
    | 0x03 => if natBits pa 43 16 = 0 && natBits pa 15 0 + n ≤ 0x10000 then some (.mgmt (natBits pa 15 0)) else none
    | 0x04 =>
      if natBits pa 43 37 < 80 && natBits pa 36 22 = 0 && natBits pa 21 0 + n ≤ 0x400000 then
        some (.tiles (natBits pa 43 37) (natBits pa 21 0)) else none
    | 0x05 =>
      if natBits pa 39 16 = 0 && natBits pa 15 0 + n ≤ 0x10000 then
        some (.loam (natBits pa 43 40) (natBits pa 15 0)) else none
    | _ => none

/-- The physical address of a scratchpad byte (R80). -/
def scratchPa (cluster core off : Nat) : Nat := 3 * 2 ^ 50 + cluster * 2 ^ 38 + core * 2 ^ 35 + off

/-- Unit classes that only a U = 0 page may map (R80). -/
def privClass (pa : Nat) : Bool :=
  natBits pa 51 50 = 3 && (match natBits pa 49 44 with | 0x01 | 0x03 | 0x04 | 0x05 => true | _ => false)

/-! ### Bytes -/

/-- One byte of memory. A cell holds the byte's difference from what an unlisted cell reads as: the byte itself wherever
that is 0. -/
def memGet (s : State) (pa : Nat) : Byte := spGet s.mem pa ^^^ memUnlisted s.revived pa

/-- Memory is in its one canonical form. -/
def Memory.wf (m : List Host.Cell) : Bool := spWf m

/-- n bytes of memory from a physical address. -/
def memRead (s : State) (pa n : Nat) : List Byte := (List.range n).map fun i => memGet s (pa + i)

/-- Little-endian value of bytes (R5). -/
def leValue (bs : List Byte) : Nat := bs.foldr (fun b acc => b.toNat + 256 * acc) 0

/-- n little-endian bytes of a value (R5). -/
def leBytes (v n : Nat) : List Byte := (List.range n).map fun i => BitVec.ofNat 8 (v >>> (8 * i))

/-- Store bytes at consecutive physical addresses. -/
def memPut (rv : List (Nat × Nat × Nat)) : List Host.Cell → Nat → List Byte → List Host.Cell
  | m, _, [] => m
  | m, pa, b :: r => memPut rv (spSet m pa (b ^^^ memUnlisted rv pa)) (pa + 1) r

/-- The 4-byte words that a run of bytes covers whole. -/
def wholeWords (pa n : Nat) (w : Nat) : Bool := pa ≤ w && w + 4 ≤ pa + n

/-- One write by an agent: the bytes, the poison of words written whole (R118), and what they replaced (log 5). -/
def memWrite (s : State) (pa : Nat) (bs : List Byte) : State :=
  { s with
    mem := memPut s.revived s.mem pa bs
    poison := s.poison.filter fun w => !wholeWords pa bs.length w
    hist := (pa, memRead s pa bs.length) :: s.hist }

/-- Whether any of n bytes lies in a poisoned word (R118). -/
def poisoned (s : State) (pa n : Nat) : Bool := s.poison.any fun w => w < pa + n && pa < w + 4

/-- Poison a word (R118, R351). -/
def poisonWord (s : State) (w : Nat) : State := { s with poison := setAdd s.poison w }

/-! ### Translation (R85 to R91) -/

/-- What an access does to a page (R86). -/
inductive Access where
  | load
  | store
  | scalarFetch
  | laneFetch
  deriving DecidableEq, Repr

/-- Why an access fails: translation, place, power, poison (R78, R83, R86, R118). -/
inductive XErr where
  | trans
  | place
  | power
  | poison
  deriving DecidableEq, Repr

/-- Who makes an access: its translation, its privilege, the TLB holder, the band that owns scratchpads for it (R77). -/
structure Actor where
  asid : BitVec 16
  ptbase : W64
  priv : Bool
  holder : Nat
  band : Option (Nat × Nat)
  deriving DecidableEq, Repr

/-- The page-fault cause of an access (R86). -/
def faultCause : Access → Nat
  | .load => 0x08
  | .store => 0x09
  | .scalarFetch | .laneFetch => 0x0A

/-- The cause of a failed thread access (R78, R83, R118). -/
def errCause (k : Access) : XErr → Nat
  | .trans | .place => faultCause k
  | .power => 0x0B
  | .poison => 0x0C

/-- The status of a failed engine access (R265). -/
def errStatus : XErr → Byte
  | .trans => 0x01
  | .place => 0x02
  | .power => 0x03
  | .poison => 0x04

/-- The TLB holder of a core (R89). -/
def coreHolder (cluster core : Nat) : Nat := cluster * 8 + core

/-- A group as an actor. -/
def groupActor (g : Group) : Actor :=
  { asid := g.asid, ptbase := g.ptbase, priv := g.priv, holder := coreHolder g.cluster g.core,
    band := some (g.key.launch, g.key.band) }

/-- The actor of an access by the current group. A lane access of a queued clause translates, access by access, under what
was in force when the clause was enqueued or under what is in force now (R181). -/
def accActor (s : State) (ea : W64) : Actor :=
  match s.turn, s.cur.queue with
  | .lane, e :: _ =>
    if e.kind = .clause && (e.asid ≠ s.cur.asid || e.ptbase ≠ s.cur.ptbase) && Config.choice s.ctr ea.toNat then
      { groupActor s.cur with asid := e.asid, ptbase := e.ptbase }
    else groupActor s.cur
  | _, _ => groupActor s.cur

/-- A virtual address is canonical (R85). -/
def canonical (va : W64) : Bool := (va.extractLsb' 0 48).signExtend 64 = va

/-- A page-table entry points to the next table (R86). -/
def pteIsPointer (e : W64) : Bool := bitsOf e 4 1 = 0

/-- A leaf found by a walk: where its entry lies, the entry, its level, and the pointer entries passed on the way, by level. -/
structure Leaf where
  at_ : Nat
  entry : W64
  level : Nat
  ptrs : List (Nat × W64)
  deriving DecidableEq, Repr

/-- The bytes a leaf of a level maps. -/
def pageSize (level : Nat) : Nat := 2 ^ (12 + 9 * level)

/-- The checks on a leaf that do not depend on the access (R86). -/
def leafValid (e : W64) (level : Nat) : Bool :=
  level ≠ 3 && bitsOf e 63 55 = 0 && !(bitAt e 2 && !bitAt e 1) && bitsOf e 10 9 = bitsOf e 51 50
    && bitsOf e 54 52 ≤ 4 && (bitsOf e 51 12 * 4096) % pageSize level = 0

/-- The home stack of a physical address (R79). -/
def homeStack (pa : Nat) : Option Nat :=
  match natBits pa 51 50 with
  | 0 => some (natBits pa 49 46)
  | 1 => some (natBits pa 13 10)
  | _ => none

/-- A line homed at a dead stack reads as poison (R351). -/
def homeDead (s : State) (pa : Nat) : Bool :=
  match homeStack pa with
  | some st => s.dead.any fun d => d = (64 + st, 0)
  | none => false

/-- The walk from a table at a level down (R85, R86). A table outside stacked memory translates nothing, nor does a table address that
is no multiple of 4,096, which only `ptbase` can give: the manual says of neither what it does (DEDUCED, log 14). -/
def walkFrom (s : State) (va : Nat) : Nat → Nat → Except XErr Leaf
  | level, table =>
    let pa := table + 8 * natBits (va >>> (12 + 9 * level)) 8 0
    match placeOf pa 8 with
    | some (.stacked st d) =>
      if table % 4096 ≠ 0 then .error .trans
      else if !domainOn s st d then .error .power
      else if poisoned s pa 8 || homeDead s pa then .error .poison
      else
        let e : W64 := BitVec.ofNat 64 (leValue (memRead s pa 8))
        if !bitAt e 0 then .error .trans
        else if pteIsPointer e then
          if bitsOf e 63 52 ≠ 0 || bitsOf e 11 1 ≠ 0 || bitsOf e 51 50 ≠ 0 then .error .trans
          else
            match level with
            | 0 => .error .trans
            | n + 1 =>
              match walkFrom s va n (bitsOf e 51 12 * 4096) with
              | .ok l => .ok { l with ptrs := (n + 1, e) :: l.ptrs }
              | .error x => .error x
        else if leafValid e level then .ok { at_ := pa, entry := e, level := level, ptrs := [] }
        else .error .trans
    | _ => .error .trans

/-- The walk of a virtual address from `ptbase` (R85). -/
def walk (s : State) (ptbase : W64) (va : W64) : Except XErr Leaf :=
  if canonical va then walkFrom s va.toNat 3 ptbase.toNat else .error .trans

/-- The pointer entries a walk passes, whether or not it ends in a leaf, each with its level (R85, R89). -/
def walkPointers (s : State) (va : Nat) : Nat → Nat → List (Nat × W64)
  | 0, _ => []
  | level + 1, table =>
    let pa := table + 8 * natBits (va >>> (12 + 9 * (level + 1))) 8 0
    let e : W64 := BitVec.ofNat 64 (leValue (memRead s pa 8))
    match placeOf pa 8 with
    | some (.stacked st d) =>
      if table % 4096 ≠ 0 || !domainOn s st d || poisoned s pa 8 || homeDead s pa || !bitAt e 0 || !pteIsPointer e
          || bitsOf e 63 52 ≠ 0 || bitsOf e 11 1 ≠ 0 || bitsOf e 51 50 ≠ 0 then []
      else (level + 1, e) :: walkPointers s va level (bitsOf e 51 12 * 4096)
    | _ => []

/-- The physical address a leaf gives. -/
def leafPa (e : W64) (level : Nat) (va : W64) : Nat := bitsOf e 51 12 * 4096 + va.toNat % pageSize level

/-- The leaf permits the access (R86). -/
def leafPermits (e : W64) (k : Access) (priv : Bool) (pa : Nat) : Bool :=
  let u := bitAt e 5
  (priv || u) && !(u && privClass pa)
    && (match k with
        | .load => bitAt e 1
        | .store => bitAt e 2
        | .scalarFetch => bitAt e 3 && bitsOf e 10 9 ≠ 3 && !(priv && u)
        | .laneFetch => bitAt e 4 && bitsOf e 10 9 ≠ 3 && !(priv && u))

/-- The TLBs an agent's translations pass: its own, and for a core the cluster's behind it (R89). -/
def holdersOf (h : Nat) : List Nat := if h < 512 then [h, 1024 + h / 8] else [h]

/-- A cached entry covers an address for an agent (R89). -/
def tlbCovers (a : Actor) (va : W64) (t : TlbEntry) : Bool :=
  (holdersOf a.holder).contains t.holder && (t.asid = a.asid || (t.leaf && bitAt t.entry 6)) && t.vbase ≤ natBits va.toNat 47 0
    && natBits va.toNat 47 0 < t.vbase + t.size

/-- A leaf that a holder has cached for an address, if any (R89). -/
def tlbFind (s : State) (a : Actor) (va : W64) : Option TlbEntry := s.tlb.find? fun t => t.leaf && tlbCovers a va t

/-- The level of a cached entry. -/
def tlbLevel (t : TlbEntry) : Nat :=
  if t.size = 4096 then 0 else if t.size = 2097152 then 1 else if t.size = 1073741824 then 2 else 3

/-- A cached pointer that a walk goes through as memory holds it. -/
def onWalk (w : Except XErr Leaf) (t : TlbEntry) : Bool :=
  match w with
  | .ok l => l.ptrs.contains (tlbLevel t, t.entry)
  | .error _ => false

/-- The walk of an agent: from `ptbase`, or from a pointer entry it has cached and memory no longer holds so (R85, R89). -/
def walkVia (s : State) (a : Actor) (va : W64) : Except XErr Leaf :=
  let w := walk s a.ptbase va
  match s.tlb.filter fun t => !t.leaf && tlbCovers a va t && !onWalk w t with
  | [] => w
  | l =>
    match l[Config.pick (s.ctr + va.toNat) (l.length + 1) % (l.length + 1)]? with
    | some t => if canonical va then walkFrom s va.toNat (tlbLevel t - 1) (bitsOf t.entry 51 12 * 4096) else .error .trans
    | none => w

/-- What a translation answers: the physical address, the page's policy, and the leaf if it was walked. -/
structure Xlat where
  pa : Nat
  pol : Nat
  leaf : Option Leaf
  deriving DecidableEq, Repr

/-- An entry used for an access: it permits it or the access faults (R86). -/
def useEntry (e : W64) (level : Nat) (k : Access) (priv : Bool) (va : W64) (l : Option Leaf) : Except XErr Xlat :=
  if leafPermits e k priv (leafPa e level va) then .ok { pa := leafPa e level va, pol := bitsOf e 54 52, leaf := l } else .error .trans

/-- Two answers agree. -/
def sameXlat : Except XErr Xlat → Except XErr Xlat → Bool
  | .ok x, .ok y => x.pa = y.pa && x.pol = y.pol
  | .error e, .error f => e = f
  | _, _ => false

/-- A cached leaf is used for an access: its A, and its D for a store, are set, or it refuses the access all the same; else it leads to
a walk (R88, R89). -/
def leafUsable (t : TlbEntry) (k : Access) (old : Except XErr Xlat) : Bool :=
  match old with
  | .ok _ => bitAt t.entry 7 && (k ≠ .store || bitAt t.entry 8)
  | .error _ => true

/-- The translation of one access: by a walk, or, where a cached leaf answers differently, by either (R89). -/
def translate (s : State) (a : Actor) (k : Access) (va : W64) : Except XErr Xlat :=
  let fresh : Except XErr Xlat :=
    match walkVia s a va with
    | .error e => .error e
    | .ok l => useEntry l.entry l.level k a.priv va (some l)
  match tlbFind s a va with
  | none => fresh
  | some t =>
    let old := useEntry t.entry (tlbLevel t) k a.priv va none
    if canonical va && leafUsable t k old && !sameXlat old fresh && Config.choice s.ctr va.toNat then old
    else fresh

/-- n bytes at a scratchpad offset lie in a run of the actor's band (R77). -/
def inBandRun (s : State) (a : Actor) (cluster core off n : Nat) : Bool :=
  match a.band with
  | none => false
  | some (l, b) =>
    (allCrews s).any fun c =>
      c.key.launch = l && c.key.band = b && c.cluster = cluster && c.core = core && !crewAway c
        && c.spbase ≤ off && off + n ≤ c.spbase + c.splen

/-- The place of the copy of the configuration record in force: the valid one with the higher RECSEQ (R418). -/
def recordPlace (s : State) : Nat :=
  let a := nth s.flash 0 (recordOf 0 0 false)
  let b := nth s.flash 1 (recordOf 0 0 false)
  if b.signed && (!a.signed || decide (a.seq.toNat < b.seq.toNat)) then 1 else 0

/-- The configuration record in force (R418). -/
def recordNow (s : State) : Record := nth s.flash (recordPlace s) (recordOf 0 0 false)

/-- A logical cluster is present (R419). -/
def clusterPresent (s : State) (c : Nat) : Bool := (rfGet s.mgmt 0x10 (Config.record (recordNow s).test 0x10)).getLsbD c

/-- Place and power checks of n bytes at a physical address (R77, R78, R83). -/
def placeCheck (s : State) (a : Actor) (pa n : Nat) : Except XErr Place :=
  match placeOf pa n with
  | none => .error .place
  | some (.stacked st d) =>
    if domainOn s st d && domainOn s st (natBits (natBits (pa + n - 1) 45 0) 36 34) then .ok (.stacked st d)
    else .error .power
  | some (.accum cl co off) => if clusterPresent s cl then .ok (.accum cl co off) else .error .place
  | some (.scratch cl co off) => if inBandRun s a cl co off n then .ok (.scratch cl co off) else .error .place
  | some p => .ok p

/-- A run of physical bytes, with the policy of its page (R87). -/
structure Run where
  pa : Nat
  len : Nat
  place : Place
  leaf : Option Leaf
  pol : Nat := 0
  deriving DecidableEq, Repr

/-- Translate n bytes at a virtual address page by page (R85). `fuel` bounds the pages. -/
def runsFrom (s : State) (a : Actor) (k : Access) : Nat → W64 → Nat → Except XErr (List Run)
  | 0, _, _ => .ok []
  | fuel + 1, va, n =>
    if n = 0 then .ok []
    else
      let here := min n (4096 - va.toNat % 4096)
      match translate s a k va with
      | .error e => .error e
      | .ok x =>
        match placeCheck s a x.pa here with
        | .error e => .error e
        | .ok p =>
          match runsFrom s a k fuel (va + BitVec.ofNat 64 here) (n - here) with
          | .error e => .error e
          | .ok r => .ok ({ pa := x.pa, len := here, place := p, leaf := x.leaf, pol := x.pol } :: r)

/-- The physical runs of n bytes at a virtual address. -/
def runs (s : State) (a : Actor) (k : Access) (va : W64) (n : Nat) : Except XErr (List Run) :=
  runsFrom s a k (n / 4096 + 2) va n

/-- The bits the walker sets in a leaf for an access (R88). -/
def markBits (k : Access) : W64 := if k = .store then 0x180 else 0x80

/-- Set A, and D for a write, in a leaf by an OR on the entry in memory (R88). -/
def markLeaf (s : State) (k : Access) (l : Leaf) : State :=
  let e : W64 := BitVec.ofNat 64 (leValue (memRead s l.at_ 8))
  if e ||| markBits k = e then s else { s with mem := memPut s.revived s.mem l.at_ (leBytes (e ||| markBits k).toNat 8) }

/-- A holder caches an entry in place of what it had cached for the same addresses. -/
def cacheEntry (s : State) (t : TlbEntry) : State :=
  if s.tlb.contains t then s
  else { s with tlb := t :: s.tlb.filter fun u =>
    !(u.holder = t.holder && u.asid = t.asid && u.vbase = t.vbase && u.size = t.size && u.leaf = t.leaf) }

/-- The entries of a walk: the leaf as marked, and the pointers (R89). -/
def walkEntries (a : Actor) (k : Access) (va : W64) (l : Leaf) (holder : Nat) : List TlbEntry :=
  let base (size : Nat) : Nat := natBits va.toNat 47 0 / size * size
  { holder, asid := a.asid, vbase := base (pageSize l.level), size := pageSize l.level, entry := l.entry ||| markBits k, leaf := true }
    :: l.ptrs.map fun p => { holder, asid := a.asid, vbase := base (pageSize p.1), size := pageSize p.1, entry := p.2, leaf := false }

/-- The TLBs an agent's walk passes cache what it found (R89). -/
def cacheLeaf (s : State) (a : Actor) (k : Access) (va : W64) (l : Leaf) : State :=
  ((holdersOf a.holder).flatMap (walkEntries a k va l)).foldl cacheEntry s

/-- The unit of a frame's stack moves pages on its own initiative (R388, R391). -/
def heatOn (s : State) (pa : Nat) : Bool :=
  match homeStack (pa / 4096 * 4096) with
  | some st => bitAt (rfGet s.loam (loamKey st 0x100) 0) 0
  | none => false

/-- The accesses counted of a frame (R388). -/
def heatOf (s : State) (f : Nat) : Nat := ((s.heat.find? fun h => h.1 = f).map (·.2)).getD 0

/-- When a unit's window began (R388). -/
def windowFrom (s : State) (st : Nat) : Nat := ((s.heatFrom.find? fun h => h.1 = st).map (·.2)).getD 0

/-- The window of an address's unit still runs: 100 µs have not passed since it began (R388). -/
def windowOpen (s : State) (pa : Nat) : Bool :=
  match homeStack (pa / 4096 * 4096) with
  | some st => decide (s.time < windowFrom s st + 100000)
  | none => false

/-- One more access to the frame of an address, where its unit counts and its window runs (R388). -/
def countHeat (s : State) (pa : Nat) : State :=
  if heatOn s pa && windowOpen s pa then { s with heat := (pa / 4096, heatOf s (pa / 4096) + 1) :: s.heat.filter fun h => h.1 ≠ pa / 4096 } else s

/-- What the walker leaves behind for the pages of an access: A and D bits, cached translations, and the count of accesses (R88, R89,
R388). -/
def touchRuns (s : State) (a : Actor) (k : Access) (va : W64) : List Run → State
  | [] => s
  | r :: rs =>
    let s := match r.leaf with
      | none => s
      | some l => cacheLeaf (markLeaf s k l) a k va l
    touchRuns (countHeat s r.pa) a k (va + BitVec.ofNat 64 r.len) rs

/-- Bytes of the runs of a plain place. -/
def readRuns (s : State) (rs : List Run) : List Byte := rs.flatMap fun r => memRead s r.pa r.len

/-- Poison in any byte of the runs. -/
def runsPoisoned (s : State) (rs : List Run) : Bool := rs.any fun r => poisoned s r.pa r.len

/-- Write bytes to the runs. -/
def writeRuns (s : State) : List Run → List Byte → State
  | [], _ => s
  | r :: rs, bs => writeRuns (memWrite s r.pa (bs.take r.len)) rs (bs.drop r.len)

/-- The bytes a tile request takes in its crew's own run, wherever the crew now is (R114, R285). -/
def ownScratch (s : State) (o : EngOp) : Option (Nat × Nat) :=
  match o.kind with
  | .nreq dst true _ =>
    (findCrew s o.grp).bind fun c => if crewAway c then none else some (scratchPa c.cluster c.core (c.spbase + dst.toNat), o.count)
  | _ => none

/-- A destination word of an engine operation in flight is owned: a thread access waits (R114). -/
def ownedByEngine (s : State) (pa n : Nat) : Bool :=
  s.ops.any fun o => o.owned.any (fun r => r.slot.isNone && r.pa < pa + n && pa < r.pa + r.len)
    || (match ownScratch s o with
        | some r => r.1 < pa + n && pa < r.1 + r.2
        | none => false)

/-- A pending tile store of the group to the same bytes: a later access waits for it (R99). -/
def ownedByTileStore (g : Group) (pa n : Nat) : Bool :=
  g.outs.any fun o =>
    match o.act with
    | .accst _ dst => dst.any fun d => d.2.1 < pa + n && pa < d.2.1 + 4
    | _ => false

/-- A pending tile store of the group to host memory: a later access to host memory waits for it (R79). -/
def hostTileStore (g : Group) : Bool :=
  g.outs.any fun o =>
    match o.act with
    | .accst _ dst => dst.any fun d => decide (natBits d.2.1 51 50 = 2)
    | _ => false

/-- The number of the physical tile behind tile t of a group (R80). -/
def physTile (g : Group) (t : Nat) : Nat := (g.cluster * 8 + g.core) * 16 + nth g.tiles t 0

/-- The physical tiles that a group's operations of some kind name. -/
def busyTiles (g : Group) (f : OutOp → Bool) : List Nat := (g.outs.filter f).flatMap fun o => o.tiles.map (physTile g)

/-- An access to a tile in accumulator memory waits for the pending MMA and MMAS of every group (R80), and for the operations of the
accessing group, which come before it in program order (R99, R259). -/
def tileHeld (s : State) (t : Nat) : Bool :=
  (allGroups s).any (fun g => (busyTiles g (·.matrix)).contains t) || (busyTiles s.cur fun _ => true).contains t

end Sys2Proof.Machine
end

