-- ==== Sys2Proof/Machine/Device.lean ====
section
/-!
DEFINITION. Device.lean: the registers of panel classes 0x03 and 0x05 and what a write of each starts (R347, R374, R391,
R392, R399, R410 to R415, R421, R424, R427, R428).
-/
namespace Sys2Proof.Machine

/-- A mask of bits hi down to lo. -/
def maskBits (hi lo : Nat) : W64 := BitVec.ofNat 64 ((2 ^ (hi + 1 - lo) - 1) <<< lo)

/-- Bits hi down to lo of a word replaced. -/
def setBits (x : W64) (hi lo v : Nat) : W64 := (x &&& ~~~maskBits hi lo) ||| (BitVec.ofNat 64 (v <<< lo) &&& maskBits hi lo)

/-! ### The map of class 0x03 -/

/-- Registers of class 0x03 by what they are. -/
inductive MReg where
  | ident | boot | clusters | spares | deadc | deads
  | queue (q : Nat)
  | age (l : Nat)
  | prewait | sevqr | gcq | vecen | nodeCtl
  | nodeData (i : Nat)
  | tsbase | tssize
  | region (r f : Nat)
  | tokens | throttles | ckdest | ckctl | ckstat
  | ckmap (i : Nat)
  | ckend | minver
  | digest (i : Nat)
  | bunting (plane group wave : Nat)
  | router (r f : Nat)
  | wave (port wave : Nat)
  | port (p f : Nat)
  | icap (r : Nat)
  | devno | hostwin | prtbase | wtbase | wtcap | scbase | sccap | sync | time | cmdseq | doneseq | mbbase | hostdrop
  deriving DecidableEq, Repr

/-- Offset of the health register of a Bunting wavelength (R347). -/
def buntingOff (p g w : Nat) : Nat := 0x2000 + 8 * (768 * p + 4 * g + w)
/-- Offset of the health register of a port wavelength (R347). -/
def waveOff (p w : Nat) : Nat := 0xE000 + 8 * (18 * p + w)
/-- Offset of a control register of a port (R413). -/
def portOff (p f : Nat) : Nat := 0xF200 + 32 * p + 8 * f
/-- Offset of a register of a region (R427). -/
def regionOff (r f : Nat) : Nat := 0x0800 + 64 * r + 8 * f
/-- Offset of a counter of a router (R374). -/
def routerOff (r f : Nat) : Nat := 0xD400 + 32 * r + 8 * f

/-- The register at an offset below 0x2000, a multiple of 8 (R427). -/
def lowReg (off : Nat) : Option MReg :=
  if off = 0 then some .ident else if off = 0x08 then some .boot else if off = 0x10 then some .clusters
  else if off = 0x18 then some .spares else if off = 0x20 then some .deadc else if off = 0x28 then some .deads
  else if 0x100 ≤ off && off < 0x300 then some (.queue ((off - 0x100) / 8))
  else if 0x300 ≤ off && off < 0x338 then some (.age ((off - 0x300) / 8))
  else if off = 0x338 then some .prewait else if off = 0x340 then some .sevqr else if off = 0x348 then some .gcq
  else if off = 0x350 then some .vecen else if off = 0x360 then some .nodeCtl
  else if 0x368 ≤ off && off < 0x388 then some (.nodeData ((off - 0x368) / 8))
  else if off = 0x400 then some .tsbase else if off = 0x408 then some .tssize
  else if 0x800 ≤ off && off < 0xC00 && (off % 64) / 8 < 5 then some (.region ((off - 0x800) / 64) ((off % 64) / 8))
  else if off = 0xC00 then some .tokens else if off = 0xC10 then some .throttles else if off = 0xD00 then some .ckdest
  else if off = 0xD08 then some .ckctl else if off = 0xD10 then some .ckstat else if off = 0xD18 then some (.ckmap 0)
  else if off = 0xD20 then some (.ckmap 1) else if off = 0xD28 then some .ckend else if off = 0x1000 then some .minver
  else if 0x1008 ≤ off && off < 0x1088 then some (.digest ((off - 0x1008) / 8))
  else none

/-- The register at an offset from 0xF700 (R399). -/
def hostReg (off : Nat) : Option MReg :=
  match off with
  | 0xF700 => some .devno
  | 0xF708 => some .hostwin
  | 0xF710 => some .prtbase
  | 0xF718 => some .wtbase
  | 0xF720 => some .wtcap
  | 0xF728 => some .scbase
  | 0xF730 => some .sccap
  | 0xF738 => some .sync
  | 0xF740 => some .time
  | 0xF748 => some .cmdseq
  | 0xF750 => some .doneseq
  | 0xF758 => some .mbbase
  | 0xF760 => some .hostdrop
  | _ => none

/-- The register at an offset, a multiple of 8; none for the offsets no map lists. -/
def mregOf (off : Nat) : Option MReg :=
  if off % 8 ≠ 0 then none
  else if off < 0x2000 then lowReg off
  else if 0xD400 ≤ off && off < 0xDE00 then some (.router ((off - 0xD400) / 32) ((off % 32) / 8))
  else if off < 0xE000 then
    let i := (off - 0x2000) / 8
    if i % 768 < 384 && i / 768 < 8 then some (.bunting (i / 768) (i % 768 / 4) (i % 4)) else none
  else if off < 0xF200 then some (.wave ((off - 0xE000) / 8 / 18) ((off - 0xE000) / 8 % 18))
  else if off < 0xF600 then some (.port ((off - 0xF200) / 32) ((off % 32) / 8))
  else if off < 0xF680 then some (.icap ((off - 0xF600) / 8))
  else hostReg off

/-- Fields of a health register that the configuration record gives: STATE, SERVES, LANE (R347). -/
def healthFromRecord : W64 := maskBits 63 62 ||| maskBits 60 52

/-- The reset value of a register, where the record in force holds the results of self-test n (R347, R399, R413, R427; log 6). -/
def mregDefault (n off : Nat) : MReg → W64
  | .ident => 0xA1000064
  | .boot => Config.record n off &&& (maskBits 47 16 ||| maskBits 9 9)
  | .clusters => Config.record n off
  | .spares => Config.record n off &&& 0xF
  | .prewait => 500
  | .region _ f => if f ≤ 1 then 2000 else 0
  | .tokens => Config.record n off &&& maskBits 31 0
  | .minver => Config.record n off &&& maskBits 31 0
  | .digest _ => Config.record n off
  | .bunting _ _ _ => (Config.record n off &&& healthFromRecord) ||| maskBits 51 44
  | .wave _ w =>
    if w < 16 then (Config.record n off &&& (maskBits 63 62 ||| maskBits 60 54)) ||| maskBits 51 44
    else setBits ((Config.record n off &&& maskBits 60 54) ||| maskBits 51 44) 63 62 1
  | .port _ f => if f = 0 then 0xB200000000000000 else if f = 2 then Config.record n off &&& (maskBits 47 32 ||| 0xFFFF) else 0
  | .icap _ => Config.record n off &&& 0xFFFF
  | .devno => Config.record n off &&& 0xFFFF
  | _ => 0

/-- The stored part of a register of class 0x03. -/
def mgmtRaw (s : State) (off : Nat) : W64 :=
  match mregOf off with
  | none => 0
  | some r => rfGet s.mgmt off (mregDefault (recordNow s).test off r)

/-- A field of a register. -/
def mgmtField (s : State) (off hi lo : Nat) : Nat := bitsOf (mgmtRaw s off) hi lo

/-- Store a field of a register, as hardware does. -/
def mgmtPut (s : State) (off hi lo v : Nat) : State :=
  match mregOf off with
  | none => s
  | some _ => { s with mgmt := rfSet s.mgmt off (setBits (mgmtRaw s off) hi lo v) }

/-- Add to a 32-bit counter field, wrapping (R374). -/
def mgmtCount (s : State) (off lo : Nat) : State := mgmtPut s off (lo + 31) lo ((mgmtField s off (lo + 31) lo + 1) % 2 ^ 32)

/-- LOCK of 0xF700 (R399). -/
def mgmtLocked (s : State) : Bool := bitAt (mgmtRaw s 0xF700) 63

/-- Writer indices of clusters or stacks declared dead, as bits. -/
def deadBits (s : State) (lo n : Nat) : Nat :=
  (List.range n).foldl (fun acc i => if s.dead.any fun d => d = (lo + i, 0) then acc + 2 ^ i else acc) 0

/-- A router's tables. -/
def routerAt (s : State) (r : Nat) : Router :=
  match s.routers.find? fun p => p.1 = r with
  | some p => p.2
  | none => { pit := [], store := [], waiting := [] }

/-- 128-byte units of stored tiles that lie in the router's own 4 MiB (R365). -/
def storeUse (r : Router) : Nat := (r.store.filter fun t => !t.spilled).foldl (fun acc t => acc + t.bytes.length / 128) 0

/-- A register of class 0x03 as a load reads it; offsets outside the maps read 0 (R427). -/
def mgmtRead (s : State) (off : Nat) : W64 :=
  match mregOf off with
  | some .deadc => BitVec.ofNat 64 (deadBits s 0 64)
  | some .deads => BitVec.ofNat 64 (deadBits s 64 16)
  | some .time => BitVec.ofNat 64 s.time
  | some (.router r 0) =>
    BitVec.ofNat 64 ((if Config.routerEnabled r then s.decls.length else 0) <<< 45 + (routerAt s r).pit.length <<< 32 + storeUse (routerAt s r))
  | some (.port p 3) =>
    let q := nth s.ports p idlePort
    BitVec.ofNat 64 (q.nextRx <<< 24 + q.nextTx)
  | _ => mgmtRaw s off

/-- The bits of a register that a write changes: RW, and RWL while LOCK is clear (R7, R399). STATE, SERVES and LANE of a wavelength are
written by the management controller alone (R347). -/
def mregRw (locked : Bool) : MReg → W64
  | .queue _ => maskBits 51 8
  | .age _ | .prewait | .tssize | .throttles | .cmdseq => maskBits 31 0
  | .sevqr | .gcq => maskBits 51 8
  | .vecen | .nodeData _ => maskBits 63 0
  | .nodeCtl => maskBits 62 62 ||| maskBits 15 0
  | .tsbase | .prtbase | .wtbase | .scbase => maskBits 51 12
  | .region _ f => if f = 0 then maskBits 11 0 else if f = 4 then maskBits 31 0 else 0
  | .tokens => if locked then 0 else maskBits 31 0
  | .ckdest => maskBits 49 0
  | .ckctl => maskBits 31 16
  | .bunting _ _ _ | .wave _ _ => 0
  | .router _ f => if f = 0 then 0 else maskBits 63 0
  | .port _ f => if f = 0 then maskBits 59 57 else if f = 1 then maskBits 63 0
                 else if f = 2 && !locked then maskBits 47 32 ||| maskBits 15 0 else 0
  | .icap _ => if locked then 0 else maskBits 15 0
  | .devno => if locked then 0 else maskBits 63 63 ||| maskBits 15 0
  | .hostwin => maskBits 51 30 ||| maskBits 6 0
  | .wtcap => maskBits 16 0
  | .sccap => maskBits 12 0
  | .sync => maskBits 8 8 ||| maskBits 3 0
  | .mbbase => maskBits 51 6
  | _ => 0

/-- The bits a write of 1 clears (R7). -/
def mregW1c : MReg → W64
  | .bunting _ _ _ | .wave _ _ => maskBits 12 0
  | .ckstat => maskBits 62 62
  | .hostdrop => maskBits 31 0
  | _ => 0

/-- A write of a register that starts nothing (R7, R427). -/
def mgmtPlain (s : State) (off : Nat) (v : W64) : State :=
  match mregOf off with
  | none => s
  | some r =>
    let rw := mregRw (mgmtLocked s) r
    let x := (mgmtRaw s off &&& ~~~rw) ||| (v &&& rw)
    { s with mgmt := rfSet s.mgmt off (x &&& ~~~(v &&& mregW1c r)) }

/-! ### Queue registration (R298) -/

/-- The fields of a queue header (R298). -/
structure QHdr where
  wridx : W64
  rdidx : W64
  base : Nat
  cap : Nat
  prod : Nat
  kind : Nat
  serial : Bool
  cq : Nat
  irq : Nat
  reserved : Bool
  deriving DecidableEq, Repr

/-- A header read at a physical address (R298). -/
def readHdr (s : State) (pa : Nat) : QHdr :=
  let bs := memRead s pa 256
  let n (lo bits : Nat) : Nat := (leValue bs >>> lo) % 2 ^ bits
  { wridx := BitVec.ofNat 64 (n 0 64), rdidx := BitVec.ofNat 64 (n 1024 64), base := n 1088 64, cap := n 1200 32,
    prod := n 1232 8, kind := n 1240 8, serial := n 1248 1 = 1, cq := n 1256 64, irq := n 1320 8,
    reserved := n 64 960 ≠ 0 || n 1152 48 ≠ 0 || n 1249 7 ≠ 0 || n 1328 720 ≠ 0 }

/-- CAP and BASE are valid: a power of two from 2 to 65,536, and a multiple of 64 that names a 52-bit address. -/
def hdrPlaceOk (h : QHdr) : Bool :=
  2 ≤ h.cap && h.cap ≤ 65536 && h.cap = 2 ^ h.cap.log2 && h.base % 64 = 0 && h.base < 2 ^ 52

/-- n bytes at a physical address can be read: backed, powered, not poisoned. -/
def physOk (s : State) (pa n : Nat) : Bool :=
  match placeOf pa n with
  | some (.stacked st d) => domainOn s st d && !poisoned s pa n && !homeDead s pa
  | some .far => !poisoned s pa n && !homeDead s pa
  | some .host => s.linkUp && !poisoned s pa n
  | some (.scratch _ _ _) => !poisoned s pa n
  | _ => false

/-- A header may be registered as a work queue (R298). A nonzero IRQ field, which must be zero there, refuses too
(DEDUCED, log 23), and so does a header that cannot be read, of which the rule says nothing (DESIGN CHOICE, log 122). -/
def workHdrOk (s : State) (pa : Nat) : Bool :=
  physOk s pa 256 && !(readHdr s pa).reserved && (readHdr s pa).kind = 0 && (readHdr s pa).irq = 0 && hdrPlaceOk (readHdr s pa)

/-- A write of queue register q: HDR is stored; EN reads 1 only where the header is accepted (R298, R427). -/
def registerQueue (s : State) (q : Nat) (v : W64) : State :=
  let off := 0x100 + 8 * q
  let s1 := mgmtPlain s off v
  mgmtPut s1 off 0 0 (if bitAt v 0 && workHdrOk s (bitsOf v 51 8 * 256) then 1 else 0)

/-! ### Node access (R428) -/

/-- The node as the four NODEDATA registers. -/
def nodeDataWord (s : State) : BitVec 256 :=
  mgmtRaw s 0x380 ++ mgmtRaw s 0x378 ++ mgmtRaw s 0x370 ++ mgmtRaw s 0x368

/-- A write of 0x0360: with GO the access is made as one step, and GO reads 0 again (R427, R428). A node's reserved
bits stay 0 (R6, R308). -/
def nodeAccess (s : State) (v : W64) : State :=
  let s1 := mgmtPlain s 0x360 v
  if bitAt v 63 then
    let n := bitsOf v 15 0
    if bitAt v 62 then { s1 with nodes := spSet s1.nodes n (nodeDataWord s1 &&& ~~~(BitVec.ofNat 256 (2 ^ 89 - 1))) }
    else
      let x := spGet s1.nodes n
      (List.range 4).foldl (fun s i => mgmtPut s (0x368 + 8 * i) 63 0 (bitsOf x (64 * i + 63) (64 * i))) s1
  else s1

/-! ### Regions, checkpoint (R421, R424) -/

/-- The nearest frequency the manual and the record allow (R421). -/
def allowedFreq (r f : Nat) : Nat :=
  max (max 1200 (Config.freqLimits r).1) (min (min 2400 (Config.freqLimits r).2) f)

/-- Change a region. -/
def onRegion (s : State) (r : Nat) (f : Region → Region) : State :=
  { s with regions := s.regions.set r (f (nth s.regions r idleRegion)) }

/-- A write of FTARGET: the nearest allowed value is taken; issue stops while the clock changes (R421). -/
def setFreq (s : State) (r f : Nat) : State :=
  let v := allowedFreq r f
  let s1 := mgmtPut s (regionOff r 0) 11 0 v
  if mgmtField s (regionOff r 1) 11 0 = v then s1
  else onRegion (mgmtPut s1 (regionOff r 1) 11 0 v) r fun x => { x with changing := true }

/-- The powered domains, numbered 5s + d (R424). -/
def poweredDomains (s : State) : List Nat := (List.range 80).filter fun i => domainOn s (i / 5) (i % 5)

/-- A write of 0x0D08: START begins a checkpoint unless one is running (R424). -/
def startCheckpoint (s : State) (v : W64) : State :=
  let s1 := mgmtPlain s 0xD08 v
  if bitAt v 0 && s.ckpt.isNone then
    let c : Checkpoint := { mark := s.hist.length, left := poweredDomains s, ports := bitsOf v 31 16, dest := mgmtField s 0xD00 49 30 }
    { mgmtPut s1 0xD10 63 63 1 with ckpt := some c }
  else s1

/-! ### Ports (R409 to R415) -/

/-- Change a port. -/
def onPort (s : State) (p : Nat) (f : Port → Port) : State := { s with ports := s.ports.set p (f (nth s.ports p idlePort)) }

/-- The transmit mask of a port. -/
def activeMask (s : State) (p : Nat) : Nat := mgmtField s (portOff p 0) 33 16

/-- The n lowest-numbered wavelengths of a mask (R412). -/
def lowestOf (m : Nat) : Nat → Nat
  | 0 => 0
  | n + 1 => if m = 0 then 0 else
      let b := (List.range 18).find? fun i => m.testBit i
      match b with
      | some i => 2 ^ i + lowestOf (m - 2 ^ i) n
      | none => 0

/-- The most wavelengths a laser state has active (R412). -/
def laserWidth (state : Nat) : Nat :=
  match state with
  | 0 => 16
  | 1 => 8
  | 2 => 1
  | _ => 0

/-- Active wavelengths a laser state keeps (R412). -/
def keptBy (state m : Nat) : Nat := lowestOf m (laserWidth state)

/-- A port's link data. -/
def portAt (s : State) (p : Nat) : Port := nth s.ports p idlePort

/-- LSTATE (R413). -/
def lstate (s : State) (p : Nat) : Nat := mgmtField s (portOff p 0) 63 62

/-- STATE of a wavelength of a port (R409). -/
def waveState (s : State) (p w : Nat) : Nat := mgmtField s (waveOff p w) 63 62

/-- How far b is ahead of a, modulo 2^24 (R407). -/
def seqAhead (a b : Nat) : Nat := (b + 2 ^ 24 - a % 2 ^ 24) % 2 ^ 24

/-- The wavelengths of a mask. -/
def maskLanes (m : Nat) : List Nat := (List.range 18).filter fun w => m.testBit w

/-- The wavelengths of a mask that are not in another. -/
def maskLess (m k : Nat) : Nat := m &&& ((2 ^ 18 - 1) ^^^ k)

/-- The wavelength of a new flit, in turn over the active ones. -/
def turnLane (m n : Nat) : Nat := nth (maskLanes m) (n % max 1 (maskLanes m).length) 0

/-- The wavelength of a re-sending: another active one, whenever there is one. -/
def otherLane (m lane : Nat) : Nat := ((maskLanes m).find? fun w => w ≠ lane).getD lane

/-- SACK: the flits after the next expected that have been received (R407). -/
def sackOf (q : Port) : Nat :=
  (List.range 16).foldl (fun n i => if q.early.any fun g => seqAhead q.nextRx g.seq.toNat = i + 1 then n + 2 ^ i else n) 0

/-- A flit with the acknowledgements its header carries when it is sent now, and but for a width flit the epoch in force (R408, R409). -/
def headed (q : Port) (x : SentFlit) : SentFlit :=
  { x with ack := q.nextRx, sack := sackOf q, epoch := if x.kind = 3 then x.epoch else q.txEpoch }

/-- Re-send a kept flit; RETX counts it (R408, R413). -/
def resendFlit (s : State) (p seq : Nat) : State :=
  let q := portAt s p
  let up (x : SentFlit) : SentFlit :=
    headed q { x with lane := otherLane (activeMask s p) x.lane, sends := x.sends + 1, last := s.time, missed := 0 }
  let s1 := onPort s p fun q =>
    { q with unacked := replaceFirst (fun x => x.seq = seq) up q.unacked, latest := (q.unacked.find? fun x => x.seq = seq).map up }
  mgmtCount s1 (portOff p 1) 32

/-- Re-send some kept flits. -/
def resendAll (p : Nat) (s : State) (seqs : List Nat) : State := seqs.foldl (fun s q => resendFlit s p q) s

/-- A width-control flit's payload: mask, action, SWITCH (R409). -/
def widthPayload (mask action switch : Nat) : List Byte :=
  leBytes mask 3 ++ leBytes action 1 ++ leBytes switch 3 ++ List.replicate 233 0

/-- A payload's mask, action and SWITCH. -/
def widthMask (b : List Byte) : Nat := leValue (b.take 3) % 2 ^ 18
def widthAction (b : List Byte) : Nat := (nth b 3 0).toNat
def widthSwitch (b : List Byte) : Nat := leValue ((b.drop 4).take 3)

/-- Queue a proposal of an epoch on a port. -/
def sendWidth (s : State) (p epoch : Nat) (payload : List Byte) : State :=
  onPort s p fun q => { q with outbox := q.outbox ++ [(3, epoch, payload)] }

/-- The transmitter takes a new mask into force: no new flit goes on the wavelengths it leaves, what went there and is not acknowledged is
re-sent on the others, and the next flit is an accept that names the first flit under the new mask (R410 step 3, log 31). -/
def adoptMask (s : State) (p epoch m : Nat) : State :=
  let s1 := mgmtCount (mgmtPut (onPort s p fun q => { q with txEpoch := epoch, lit := maskLess q.lit m, shed := maskLess q.shed m }) (portOff p 0) 33 16 m) (portOff p 1) 0
  let moved := ((portAt s1 p).unacked.filter fun x => !m.testBit x.lane).map (·.seq)
  onPort (resendAll p s1 moved) p fun q => { q with outbox := (3, epoch, widthPayload m 1 0) :: q.outbox }

/-- The laser state now in force. -/
def laserOf (s : State) (p : Nat) : Nat := mgmtField s (portOff p 0) 61 60

/-- The port sheds wavelengths for a laser state: on a link that is up as a narrowing without loss, with an epoch of its own (R410, R412,
log 84). -/
def shedTo (s : State) (p v : Nat) : State :=
  let old := activeMask s p
  let m := keptBy v old
  if m = old then s
  else
    let s1 := onPort s p fun q => { q with shed := q.shed ||| maskLess old m }
    if lstate s p = 0 then adoptMask s1 p (((portAt s p).txEpoch + 1) % 256) m else mgmtPut s1 (portOff p 0) 33 16 m

/-- The port lights wavelengths that a laser state had shed, as many as the state now in force keeps, to join by training (R411, R412). -/
def relight (s : State) (p v : Nat) : State :=
  let old := activeMask s p
  let more := lowestOf (maskLess (portAt s p).shed old) (laserWidth v - (maskLanes old).length)
  onPort s p fun q => { q with lit := q.lit ||| more, litAt := if more = 0 then q.litAt else s.time, shed := maskLess q.shed more }

/-- L3: no light, and the link is down for traffic, which waits; what was active counts as shed (R412). -/
def enterDark (s : State) (p : Nat) : State :=
  let s1 := onPort (mgmtPut (mgmtPut s (portOff p 0) 61 60 3) (portOff p 0) 33 16 0) p fun q =>
    { q with lit := 0, shed := q.shed ||| q.lit ||| activeMask s p, kept := q.kept || decide (lstate s p = 0), sleeping := false }
  if lstate s p = 3 then s1 else mgmtPut s1 (portOff p 0) 63 62 2

/-- A laser state takes effect (R412): a lower one sheds wavelengths; a higher one lights what had been shed, to join by training; L3 is
entered from L2, on a link that is up once the accept of L2 has been sent and acknowledged; from L3 the link trains. -/
def setLaser (s : State) (p v : Nat) : State :=
  let was := laserOf s p
  let s0 := onPort s p fun q => { q with lastChange := s.time, target := none, sleeping := false }
  let s1 := mgmtPut s0 (portOff p 0) 61 60 v
  if v = 3 then
    if lstate s p = 0 then
      onPort (shedTo (mgmtPut s0 (portOff p 0) 61 60 2) p 2) p fun q => { q with sleeping := true }
    else enterDark s0 p
  else if was = 3 then mgmtPut s1 (portOff p 0) 63 62 1
  else if was < v then shedTo s1 p v
  else relight s1 p v

/-- A port on its way to L3 is there once its width flits have been sent and acknowledged, or its link is down (R410, R412). -/
def sleepNow (s : State) (p : Nat) : State :=
  let q := portAt s p
  if q.sleeping && (lstate s p ≠ 0 || (q.outbox.isEmpty && q.unacked.all fun x => x.kind ≠ 3)) then enterDark s p else s

/-- The drive current of a region's ports, with port p in laser state v (R413, R414, log 20). -/
def regionCurrent (s : State) (p v : Nat) : Nat :=
  ((List.range 32).filter fun q => Config.portRegion q % 16 = Config.portRegion p % 16).foldl
    (fun n q => n + (let x := if q = p then v else laserOf s q; if x = 3 then 0 else Config.laserCurrent q x)) 0

/-- A laser state keeps within PMAX and within its region's ICAP (R414). -/
def laserFits (s : State) (p v : Nat) : Bool :=
  Config.laserPower p v ≤ mgmtField s (portOff p 2) 15 0
    && regionCurrent s p v ≤ mgmtField s (0xF600 + 8 * (Config.portRegion p % 16)) 15 0

/-- The highest state at or below the requested one that keeps within PMAX and ICAP (R414); L3, with no light, always does. -/
def fittingLaser (s : State) (p v : Nat) : Nat :=
  if v ≤ 0 && laserFits s p 0 then 0 else if v ≤ 1 && laserFits s p 1 then 1
  else if v ≤ 2 && laserFits s p 2 then 2 else 3

/-- DWELL in ticks (R413). -/
def dwellTicks (s : State) (p : Nat) : Nat := mgmtField s (portOff p 2) 47 32 * 1000

/-- The port goes to the highest fitting state at or below v, at once or when DWELL has passed (R412, R414); where it is in that state
nothing is deferred any more. -/
def moveLaser (s : State) (p v : Nat) : State :=
  let t := fittingLaser s p v
  if t = laserOf s p then onPort s p fun q => { q with target := none, sleeping := false }
  else if t = 3 && (portAt s p).sleeping then s
  else if s.time < (portAt s p).lastChange + dwellTicks s p then onPort s p fun q => { q with target := some t }
  else setLaser s p t

/-- A request for a laser state: held off by an open path or one closed for less than 1 s (R415), deferred within DWELL,
else taken (R412, R414). -/
def requestLaser (s : State) (p v : Nat) : State :=
  let s1 := mgmtPut s (portOff p 0) 59 58 v
  let q := portAt s p
  if lstate s p = 3 then
    if q.interlock || s.time < q.closedAt + 1000000000 then s1 else moveLaser (mgmtPut s1 (portOff p 0) 63 62 2) p v
  else moveLaser s1 p v

/-- Traffic queued for a port in L3 raises it to L2 where AUTOWAKE is 1 and L2 fits, without waiting for DWELL, which holds off changes
that firmware requests (R412, R414, DEDUCED, log 20). -/
def autoWake (s : State) (p : Nat) : State :=
  if laserOf s p = 3 && mgmtField s (portOff p 0) 57 57 = 1 && lstate s p ≠ 3 && fittingLaser s p 2 = 2 then setLaser s p 2 else s

/-! ### Peers (R402 to R405) -/

/-- The little-endian number in n bytes of physical memory. -/
def physNat (s : State) (pa n : Nat) : Nat := leValue (memRead s pa n)

/-- The core port that traffic for a peer leaves by: the primary, or the alternate while the primary is down; none by an entry that is
not valid or whose other bits are not zero (R6, R402). -/
def peerPort (s : State) (d : Nat) : Option Nat :=
  let e := physNat s (mgmtField s 0xF710 51 12 * 4096 + 4 * d) 4
  if !e.testBit 31 || natBits e 30 25 ≠ 0 || natBits e 15 0 ≠ 0 then none
  else if e.testBit 24 && mgmtField s (portOff (natBits e 19 16) 0) 63 62 ≠ 0 then some (natBits e 23 20)
  else some (natBits e 19 16)

/-- Traffic is queued for a peer. -/
def wakePeer (s : State) (d : Nat) : State :=
  match peerPort s d with
  | some p => autoWake s p
  | none => s

/-- The reserved bits of a window's entry are zero (R6, R403). -/
def windowClear (e : Nat) : Bool :=
  natBits e 191 180 = 0 && natBits e 139 96 = 0 && natBits e 79 67 = 0 && natBits e 31 0 = 0

/-- Where the entry of a registered window lies (R403). -/
def windowEntry (s : State) (w : Nat) : Option Nat :=
  let pa := mgmtField s 0xF718 51 12 * 4096 + 32 * w
  if w < mgmtField s 0xF720 16 0 && (physNat s (pa + 8) 1).testBit 0 && windowClear (physNat s pa 32) then some pa else none

/-- Where the governing sent-complete entry of a peer and window lies; one whose reserved bits are not zero governs nothing (R6, R405). -/
def sentEntry (s : State) (peer win : Nat) : Option Nat :=
  let base := mgmtField s 0xF728 51 12 * 4096
  ((List.range (mgmtField s 0xF730 12 0)).find? fun i =>
    let e := physNat s (base + 16 * i) 8
    e.testBit 63 && natBits e 47 32 = peer && natBits e 15 0 = win && natBits e 62 48 = 0 && natBits e 31 16 = 0).map fun i => base + 16 * i

/-- A write of register +0 of a port: AUTOWAKE is stored, LTARGET requests a state (R413). -/
def writePort (s : State) (p : Nat) (v : W64) : State := requestLaser (mgmtPlain s (portOff p 0) v) p (bitsOf v 59 58)

/-! ### A write of any register of class 0x03 -/

/-- A write of a whole register, with what it starts (R427). -/
def mgmtWrite (s : State) (off : Nat) (v : W64) : State :=
  match mregOf off with
  | some (.queue q) => registerQueue s q v
  | some .nodeCtl => nodeAccess s v
  | some (.region r 0) => setFreq s r (bitsOf v 11 0)
  | some .ckctl => startCheckpoint s v
  | some (.port p 0) => writePort s p v
  | _ => mgmtPlain s off v

/-- The value a narrow store carries in the bytes it does not name: the current value in RW fields, 0 in the fields that a
1 clears or starts (R427). -/
def mgmtCarry (s : State) (off : Nat) : W64 :=
  match mregOf off with
  | some .nodeCtl => mgmtRaw s off &&& ~~~maskBits 63 63
  | some .ckctl => mgmtRaw s off &&& ~~~1
  | some r => mgmtRaw s off &&& ~~~(mregW1c r)
  | none => 0

/-! ### Class 0x05, the Loam units (R391, R392) -/

/-- Reset value of a Loam register: all domains on and ready, everything else 0. -/
def loamDefault (off : Nat) : W64 := if off = 0x0010 then 0x3FF else 0

/-- Whether an offset names a register of a Loam unit (R391). -/
def loamKnown (off : Nat) : Bool :=
  off % 8 = 0 && (off = 0 || off = 0x10 || (0x100 ≤ off && off ≤ 0x120) || (0x140 ≤ off && off < 0x180)
    || (0x1000 ≤ off && off < 0x2000 && (off % 0x100 = 0 || 0x80 ≤ off % 0x100)) || (0x4000 ≤ off && off < 0x4400))

/-- The unit of a running Loam command: bits 15:8 of its block, 0xFF being settled at issue. -/
def opUnit (o : EngOp) : Option Nat :=
  match o.kind with
  | .skcmd b _ _ | .heat b => some (nth b 1 0).toNat
  | _ => none

/-- The Loam commands a unit holds: those that have not ended (R375, R391). -/
def unitOps (s : State) (u : Nat) : List EngOp :=
  s.ops.filter fun o => opUnit o = some u && (match o.kind, o.stage with | .skcmd _ _ _, .ended _ => false | .skcmd _ _ _, _ => true | _, _ => false)

/-- A stored Loam register. -/
def loamRaw (s : State) (st off : Nat) : W64 := rfGet s.loam (loamKey st off) (loamDefault off)

/-- A Loam register as a load reads it (R391). -/
def loamRead (s : State) (st off : Nat) : W64 :=
  if !loamKnown off then 0
  else if off = 0 then BitVec.ofNat 64 (unitOps s st).length
  else loamRaw s st off

/-- The bits of a Loam register that a write changes (R391). -/
def loamRw (off : Nat) : W64 :=
  if off = 0x0000 || off = 0x0118 then 0
  else if off = 0x0010 then maskBits 4 0
  else if off = 0x0100 then maskBits 47 16 ||| 1
  else if off = 0x0108 then maskBits 51 0
  else if off = 0x0110 then maskBits 16 0
  else if off = 0x0140 || off = 0x0160 then maskBits 51 0
  else if off = 0x0148 || off = 0x0168 then maskBits 16 0
  else if 0x1000 ≤ off && off < 0x2000 && off % 0x100 = 0 then maskBits 63 32 ||| maskBits 13 8 ||| maskBits 6 0
  else if 0x4000 ≤ off && off % 16 = 8 then maskBits 63 63 ||| maskBits 47 0
  else maskBits 63 0

/-- Store a Loam register, as hardware does. -/
def loamPut (s : State) (st off : Nat) (v : W64) : State := { s with loam := rfSet s.loam (loamKey st off) v }

/-- ON bit d is cleared: every later check on the domain fails (R392). -/
def domainOff (s : State) (st d : Nat) : State := loamPut s st 0x10 (loamRaw s st 0x10 &&& ~~~maskBits d d)

/-- ON bit d is set (R392). -/
def domainOnReq (s : State) (st d : Nat) : State := loamPut s st 0x10 (loamRaw s st 0x10 ||| maskBits d d)

/-- Frame ring k of a unit: BASE, CAP, PUT, TAKE (R389, R391). -/
def ringReg (s : State) (st k f : Nat) : W64 := loamRaw s st (0x140 + 32 * k + 8 * f)

/-- Push a frame on a ring that has room (R389). -/
def ringPush (s : State) (st k frame : Nat) : State :=
  let cap := (ringReg s st k 1).toNat
  let put := ringReg s st k 2
  let s1 := memWrite s ((ringReg s st k 0).toNat + 8 * (put.toNat % max cap 1)) (leBytes frame 8)
  loamPut s1 st (0x140 + 32 * k + 16) (put + 1)

/-- The ring is full. -/
def ringFull (s : State) (st k : Nat) : Bool := (ringReg s st k 2 - ringReg s st k 3).toNat ≥ (ringReg s st k 1).toNat

/-- Frames kept for want of room go to their rings once the supervisor has made room (R389). -/
def pushKept (s : State) : State :=
  s.ringKept.foldl (fun s e =>
    if ringFull s e.1 e.2.1 then s
    else ringPush { s with ringKept := s.ringKept.erase e } e.1 e.2.1 e.2.2) s

/-- A write of a whole Loam register: ON bits start their domains' switches (R391, R392). -/
def loamWrite (s : State) (st off : Nat) (v : W64) : State :=
  if !loamKnown off then s
  else
    let rw := loamRw off
    pushKept (loamPut s st off ((loamRaw s st off &&& ~~~rw) ||| (v &&& rw)))

/-! ### Bytes of register windows -/

/-- n bytes of a register file from an offset. -/
def regBytes (read : Nat → W64) (off n : Nat) : List Byte :=
  (List.range n).map fun i => BitVec.ofNat 8 ((read ((off + i) / 8 * 8)).toNat >>> (8 * ((off + i) % 8)))

/-- The word a store of some bytes at an offset gives the register at `base`, over what it carries (R427). -/
def mergeReg (carry : W64) (base off : Nat) (bs : List Byte) : W64 :=
  BitVec.ofNat 64 (leValue ((List.range 8).map fun j =>
    if off ≤ base + j && base + j < off + bs.length then nth bs (base + j - off) 0
    else BitVec.ofNat 8 (carry.toNat >>> (8 * j))))

/-- The registers a run of bytes touches. -/
def regBases (off n : Nat) : List Nat := (List.range ((off + n + 7) / 8 - off / 8)).map fun i => (off / 8 + i) * 8

/-- The bits of a register that a store of n bytes at an offset names. -/
def namedBits (base off n : Nat) : W64 :=
  (List.range 8).foldl (fun m j => if off ≤ base + j && base + j < off + n then m ||| maskBits (8 * j + 7) (8 * j) else m) 0

/-- The bits of a register by which a write can change or start anything: a store that names none of them does nothing (R427). -/
def mregLive : MReg → W64
  | .queue _ => maskBits 51 8 ||| 1
  | .nodeCtl => maskBits 63 62 ||| maskBits 15 0
  | .ckctl => maskBits 31 16 ||| 1
  | r => mregRw false r ||| mregW1c r

/-- A store names a live bit of a register. -/
def storeActs (base off n : Nat) : Bool :=
  match mregOf base with
  | some r => namedBits base off n &&& mregLive r ≠ 0
  | none => false

/-- Store bytes to registers of class 0x03. -/
def mgmtStore (s : State) (off : Nat) (bs : List Byte) : State :=
  (regBases off bs.length).foldl (fun s b =>
    if storeActs b off bs.length then mgmtWrite s b (mergeReg (mgmtCarry s b) b off bs) else s) s

/-- Store bytes to registers of class 0x05. -/
def loamStore (s : State) (st off : Nat) (bs : List Byte) : State :=
  (regBases off bs.length).foldl (fun s b => loamWrite s st b (mergeReg (loamRaw s st b) b off bs)) s

/-! ### Accumulator memory (R80, R259) -/

/-- The element of a tile: what was written, else 0 where ACCZ cleared it, else unspecified bits (R29, R259, log 4). -/
def tileElem (t : Tile) (i : Nat) : W32 :=
  match t.elems.find? fun e => e.1 = i with
  | some e => e.2
  | none => if t.zeroed then 0 else Config.tileBits t.nonce i

/-- The physical tile with a number. -/
def tileAt (s : State) (id : Nat) : Tile :=
  match s.tiles.find? fun t => t.id = id with
  | some t => t
  | none => { id := id, zeroed := false, nonce := id, elems := [] }

/-- Store one element in an element list. -/
def elemSet : List (Nat × W32) → Nat → W32 → List (Nat × W32)
  | [], k, v => [(k, v)]
  | (i, x) :: r, k, v => if i = k then (k, v) :: r else if k < i then (k, v) :: (i, x) :: r else (i, x) :: elemSet r k v

/-- Store a tile. -/
def tilePut (s : State) (t : Tile) : State := { s with tiles := t :: s.tiles.filter fun u => u.id ≠ t.id }

/-- Write elements of a tile. -/
def tileWrite (s : State) (id : Nat) (ws : List (Nat × W32)) : State :=
  let t := tileAt s id
  tilePut s { t with elems := ws.foldl (fun l w => elemSet l w.1 w.2) t.elems }

/-- n bytes of accumulator memory of a core from an offset (R80). -/
def accumBytes (s : State) (core off n : Nat) : List Byte :=
  (List.range n).map fun i =>
    let o := off + i
    BitVec.ofNat 8 ((tileElem (tileAt s (core * 16 + o / 0x4000)) (o % 0x4000 / 4)).toNat >>> (8 * (o % 4)))

/-- Store bytes to accumulator memory. -/
def accumStore (s : State) (core off : Nat) (bs : List Byte) : State :=
  (List.range bs.length).foldl (fun s i =>
    let o := off + i
    let id := core * 16 + o / 0x4000
    let e := tileElem (tileAt s id) (o % 0x4000 / 4)
    let sh := 8 * (o % 4)
    tileWrite s id [(o % 0x4000 / 4, (e &&& ~~~((0xFF : W32) <<< sh)) ||| ((nth bs i 0).setWidth 32 <<< sh))]) s

end Sys2Proof.Machine
end

