-- ==== Sys2Proof/Machine/Coherence.lean ====
section
/-!
DEFINITION. Coherence.lean: the word states of clusters and L1s, the home's records and its owner filter, the requests an access sends
before it is performed, and the destination lines engines take over (R102, R114, R342 to R346, R351).
-/
namespace Sys2Proof.Machine

/-- The current frame (R336). -/
def frameOf (s : State) : Nat := s.time / 8

/-! ### Words (R342) -/

/-- The record of a word; a word without one is I everywhere and has no exclusive grant. -/
def wordDir (s : State) (a : Nat) : WordDir :=
  match s.dir.find? fun d => d.addr = a with
  | some d => d
  | none => { addr := a, holders := [], l1 := [], version := 0, grantee := none }

/-- What a cluster holds of a word; none for I (R342). -/
def stateOf (d : WordDir) (c : Nat) : Option CState := (d.holders.find? fun h => h.1 = c).map (·.2)

/-- The most an L1 may hold of what it holds, under what its cluster cache holds (R342). -/
def capL1 : Option CState → CState → Option CState
  | none, _ => none
  | some .shared, _ | some .owned, _ => some .shared
  | some .exclusive, x => some (if x = .modified then .exclusive else x)
  | some .modified, x => some x

/-- No L1 holds more than its cluster cache does (R342). -/
def fitL1 (d : WordDir) : WordDir :=
  { d with l1 := d.l1.filterMap fun h => (capL1 (stateOf d (h.1 / 8)) h.2).map fun x => (h.1, x) }

/-- Store the record of a word. -/
def putWord (s : State) (d : WordDir) : State := { s with dir := fitL1 d :: s.dir.filter fun e => e.addr ≠ d.addr }

/-- A mask of the words of a line that f names by number. -/
def wordMask (f : Nat → Bool) : W32 := BitVec.ofNat 32 ((List.range 32).foldl (fun acc i => if f i then acc + 2 ^ i else acc) 0)

/-- The addresses of the words of a line that a mask names (R337). -/
def maskWords (line : Nat) (m : W32) : List Nat :=
  (List.range 32).filterMap fun i => if m.getLsbD i then some (line * 128 + 4 * i) else none

/-- Change the records of some words. -/
def onWords (s : State) (line : Nat) (m : W32) (f : WordDir → WordDir) : State :=
  (maskWords line m).foldl (fun t a => putWord t (f (wordDir t a))) s

/-- The word mask of the part of a line that a run of bytes overlaps. -/
def overlapMask (pa n line : Nat) : W32 :=
  wordMask fun i => decide (line * 128 + 4 * i < pa + n) && decide (pa < line * 128 + 4 * i + 4)

/-- The cacheable classes: stacked DRAM and the far tier (R73). -/
def cacheable (pa : Nat) : Bool := pa < 2 ^ 51

/-- The pieces of a run of bytes by line: line, first byte, bytes. -/
def linePieces (pa n : Nat) : List (Nat × Nat × Nat) :=
  if n = 0 then []
  else (List.range ((pa + n - 1) / 128 + 1 - pa / 128)).map fun i =>
    let lo := max pa ((pa / 128 + i) * 128)
    (pa / 128 + i, lo, min (pa + n) ((pa / 128 + i + 1) * 128) - lo)

/-! ### Slots waiting to be sent (R335 to R337) -/

/-- The plane of a line (R335). -/
def planeOf (line : Nat) : Nat := line % 8

/-- Change a plane. -/
def onPlane (s : State) (p : Nat) (f : Plane → Plane) : State := { s with planes := s.planes.set p (f (nth s.planes p idlePlane)) }

/-- A writer has a message to send on a plane; the slot takes the next identity (R336). -/
def queueSlot (s : State) (p w : Nat) (m : Msg) : State :=
  let x : Slot := { id := s.nextId, frame := 0, writer := w, msg := m, last := 0, resent := 0 }
  onPlane { s with nextId := s.nextId + 1 } p fun q => { q with pend := q.pend ++ [x] }

/-- The line and the words a message names, if it is about ownership (R337). -/
def msgWords : Msg → Option (Nat × W32)
  | .gets l m _ _ | .getm l m _ _ | .upgrade l m _ _ | .putm l m _ | .inv l m | .poison l m => some (l, m)
  | _ => none

/-- Whether a message is a PutM. -/
def isPutM : Msg → Bool
  | .putm _ _ _ => true
  | _ => false

/-- A message about the word at a, of a kind f names, that writer w has queued or sent and that has not been applied. -/
def slotOpen (s : State) (w a : Nat) (f : Msg → Bool) : Bool :=
  let q := nth s.planes (planeOf (a / 128)) idlePlane
  (q.pend ++ q.sent).any fun x => x.writer = w && f x.msg
    && (match msgWords x.msg with
        | some (l, m) => l = a / 128 && m.getLsbD (a % 128 / 4)
        | none => false)

/-! ### The owner filter (R344) -/

/-- A state in which the home leaves the data to the holder (R344). -/
def isOwner : CState → Bool
  | .shared => false
  | _ => true

/-- The clusters that hold any word of a line in M, O or E. -/
def lineOwners (s : State) (line : Nat) : BitVec 64 :=
  BitVec.ofNat 64 ((List.range 64).foldl (fun acc c =>
    if (s.dir.any fun d => d.addr / 128 = line && (match stateOf d c with | some x => isOwner x | none => false)) then acc + 2 ^ c
    else acc) 0)

/-- The words of a line that some cluster owns. -/
def ownedWords (s : State) (line : Nat) : W32 :=
  wordMask fun i => (wordDir s (line * 128 + 4 * i)).holders.any fun h => isOwner h.2

/-- Two lines share a set of a stack's filter: 65,536 sets of 16 entries make its 1,048,576 (R344, log 94). -/
def sameSet (a b : Nat) : Bool :=
  homeStack (a * 128) = homeStack (b * 128) && Config.filterSet a % 65536 = Config.filterSet b % 65536

/-- The entries of a line's set. -/
def setEntries (s : State) (line : Nat) : List FilterEntry := s.filter.filter fun e => sameSet e.line line

/-- The home recalls a line: GetM for its owned words, in its own name (R344). -/
def recallLine (s : State) (line : Nat) : State :=
  match homeStack (line * 128) with
  | some st =>
    queueSlot { s with filter := s.filter.map fun e => if e.line = line then { e with recalled := true } else e }
      (planeOf line) (64 + st) (.getm line (ownedWords s line) 0 0)
  | none => s

/-- The line has an entry, or needs none: until it has one, the data of a request for it wait (R344). -/
def filterRoom (s : State) (line : Nat) : Bool := s.filter.any (fun e => e.line = line) || lineOwners s line = 0

/-- The lines of a line's set that some cluster owns and that still have no entry. -/
def unfiled (s : State) (line : Nat) : List Nat :=
  ((s.dir.map fun d => d.addr / 128).eraseDups).filter fun l => sameSet l line && !filterRoom s l

/-- A full set with more lines waiting for an entry than entries being freed: one more entry, by a free choice, is recalled (R344). -/
def recallOne (s : State) (line : Nat) : State :=
  let l := setEntries s line
  let old := l.filter fun e => !e.recalled
  if (unfiled s line).length ≤ l.length - old.length then s
  else
    match old[Config.pick s.ctr old.length % max 1 old.length]? with
    | some e => recallLine s e.line
    | none => s

/-- A line that waits takes a free entry of its set; where the set's 16 are all in use, one of them is recalled first (R344). -/
def enterLine (s : State) (line : Nat) : State :=
  match (unfiled s line).head? with
  | none => s
  | some l =>
    if (setEntries s line).length < 16 then
      { s with filter := s.filter ++ [{ line := l, clusters := lineOwners s l, recalled := false }] }
    else recallOne s line

/-- The filter follows the states of a line's words: its entry goes when no cluster owns a word of it (R344). -/
def refreshFilter (s : State) (line : Nat) : State :=
  let m := lineOwners s line
  let s1 := if m = 0 then { s with filter := s.filter.filter fun e => e.line ≠ line }
    else { s with filter := s.filter.map fun e => if e.line = line then { e with clusters := m } else e }
  enterLine s1 line

/-- The home's GetM has been applied: an entry that a cluster has taken anew is being recalled no longer (R344). -/
def recallDone (s : State) (line : Nat) : State :=
  enterLine { s with filter := s.filter.map fun e => if e.line = line then { e with recalled := false } else e } line

/-! ### The effects of requests (R343, R345) -/

/-- The line's grant count (R345). -/
def grantCount (s : State) (line : Nat) : Nat :=
  match s.grants.find? fun g => g.1 = line with
  | some g => g.2
  | none => 0

/-- One exclusive grant of a line: the count rises modulo 2^16 (R345). -/
def bumpGrant (s : State) (line : Nat) : State :=
  { s with grants := (line, (grantCount s line + 1) % 65536) :: s.grants.filter fun g => g.1 ≠ line }

/-- A word under GetS: M becomes O, E becomes S; the requester holds S, or E if no other cluster holds the word (R343). -/
def wordGetS (c : Nat) (d : WordDir) : WordDir :=
  let others := (d.holders.filter fun h => h.1 ≠ c).map fun h =>
    (h.1, match h.2 with
      | .modified => CState.owned
      | .exclusive => CState.shared
      | x => x)
  { d with holders := (c, if others.isEmpty then .exclusive else .shared) :: others }

/-- A word under GetM or Upgrade: every other copy becomes I, the requester holds M (R343). -/
def wordGetM (c : Nat) (d : WordDir) : WordDir := { d with holders := [(c, .modified)] }

/-- Every copy of a word becomes I and no grant of it stands (R343). -/
def wordInv (d : WordDir) : WordDir := { d with holders := [], grantee := none }

/-- An exclusive grant is recorded: version and grantee (R345). -/
def recordGrant (c v : Nat) (d : WordDir) : WordDir := { d with version := v, grantee := some c }

/-- Whether a message is a POISON. -/
def isPoison : Msg → Bool
  | .poison _ _ => true
  | _ => false

/-- A word whose latest exclusive grant a fenced cluster holds, and whose POISON is under way (R350, R351). -/
def poisonDue (s : State) (a : Nat) : Bool :=
  match (wordDir s a).grantee with
  | some c => (s.dead.any fun d => d = (c, 0)) && ((homeStack a).map fun st => slotOpen s (64 + st) a isPoison).getD false
  | none => false

/-- A request finds some of its words owed by a fenced cluster: the home serves them, with poison (R350, R351). -/
def serveDead (s : State) (line : Nat) (m : W32) : State :=
  (maskWords line m).foldl (fun t a => if poisonDue s a then poisonWord (putWord t (wordInv (wordDir t a))) a else t) s

/-- GetS of some words takes effect; a word answered with E is an exclusive grant (R343, R345). -/
def applyGetS (s : State) (c line : Nat) (m : W32) : State :=
  let s := serveDead s line m
  let alone (d : WordDir) : Bool := d.holders.all fun h => h.1 = c
  let s1 := if (maskWords line m).any fun a => alone (wordDir s a) then bumpGrant s line else s
  refreshFilter (onWords s1 line m fun d =>
    if alone d then recordGrant c (grantCount s1 line) (wordGetS c d) else wordGetS c d) line

/-- GetM or Upgrade of some words takes effect: one grant, one version (R343, R345). -/
def applyGetM (s : State) (c line : Nat) (m : W32) : State :=
  let s1 := bumpGrant (serveDead s line m) line
  refreshFilter (onWords s1 line m fun d => recordGrant c (grantCount s1 line) (wordGetM c d)) line

/-- The clusters' copies of some words become I, dirty words first written back (INV, a recall, home writes; R343, R344, R346). -/
def applyInv (s : State) (line : Nat) (m : W32) : State := refreshFilter (onWords s line m wordInv) line

/-- A PutM is applied word by word: written back where sender and version match, after which the sender holds neither copy nor grant;
cancelled otherwise (R343, R345, R353). Memory already holds the word's latest value (log 9). -/
def applyPutM (s : State) (c line : Nat) (m : W32) (ver : Nat) : State :=
  refreshFilter (onWords s line m fun d =>
    if d.grantee = some c && d.version % 256 = ver then
      { d with holders := d.holders.filter fun h => h.1 ≠ c, grantee := none }
    else d) line

/-! ### What an access needs (R87, R114, R342, R343) -/

/-- The cluster has a request for a word of the run outstanding (R343). -/
def requestOpen (s : State) (c pa n : Nat) : Bool :=
  s.reqs.any fun r => r.cluster = c && r.mask &&& overlapMask pa n r.line ≠ 0

/-- The words of a mask that a cluster holds too weakly for an access (R342, R343). -/
def weakMask (s : State) (c line : Nat) (m : W32) (write : Bool) : W32 :=
  wordMask fun i =>
    let st := stateOf (wordDir s (line * 128 + 4 * i)) c
    m.getLsbD i && !(if write then st = some .modified || st = some .exclusive else st.isSome)

/-- The words of a mask that the home must take back before an access that no cluster cache keeps: words some cluster owns, and for a
write words any cluster holds (R87, R344). -/
def homeMask (s : State) (line : Nat) (m : W32) (write : Bool) : W32 :=
  wordMask fun i => m.getLsbD i && (wordDir s (line * 128 + 4 * i)).holders.any fun h => write || isOwner h.2

/-- A page's lines are kept in its cluster's cache (R87). -/
def polCached (pol : Nat) : Bool := decide (pol ≤ 1)

/-- The cluster may perform an access to a run now: it holds every word strongly enough, or, where the page's policy keeps nothing in
its cache, nothing needs to be taken back (R87, R342, R343). -/
def granted (s : State) (c : Nat) (write : Bool) (r : Run) : Bool :=
  !cacheable r.pa || (linePieces r.pa r.len).all fun l =>
    let m := overlapMask r.pa r.len l.1
    if polCached r.pol then weakMask s c l.1 m write = 0 else homeMask s l.1 m write = 0

/-- Send a request for some words; none for no word (R343). -/
def sendRequest (s : State) (c line : Nat) (m : W32) (x : Msg) : State :=
  if m = 0 then s
  else { queueSlot s (planeOf line) c x with reqs := s.reqs ++ [{ cluster := c, line := line, mask := m, got := 0, slot := s.nextId }] }

/-- A cluster asks for the words of a mask that it holds too weakly: Upgrade for those it holds, GetS or GetM for the others; none for a
word that it has asked for or whose PutM it has not yet applied (R343, R345). -/
def askLine (s : State) (c line : Nat) (m : W32) (write : Bool) (core agent : Nat) : State :=
  let weak := weakMask s c line m write
  let free := wordMask fun i => weak.getLsbD i && !requestOpen s c (line * 128 + 4 * i) 4
    && !slotOpen s c (line * 128 + 4 * i) fun _ => true
  let kept := wordMask fun i => free.getLsbD i && (stateOf (wordDir s (line * 128 + 4 * i)) c).isSome
  let bare := free &&& ~~~kept
  let s1 := sendRequest s c line kept (.upgrade line kept core agent)
  sendRequest s1 c line bare (if write then .getm line bare core agent else .gets line bare core agent)

/-- The home takes words back for an access that no cluster cache keeps: an INV before a write, a GetM of its own before a read
(R87, R343, R344). -/
def askHome (s : State) (line : Nat) (m : W32) (write : Bool) : State :=
  match homeStack (line * 128) with
  | some st =>
    let need := homeMask s line m write
    let free := wordMask fun i => need.getLsbD i && !slotOpen s (64 + st) (line * 128 + 4 * i) fun _ => true
    if free = 0 then s else queueSlot s (planeOf line) (64 + st) (if write then .inv line free else .getm line free 0 0)
  | none => s

/-- No cluster holds a word of some bytes that hardware other than a core is to write (R342, R346). -/
def devReady (s : State) (l : List (Nat × Nat)) : Bool :=
  l.all fun r => !cacheable r.1 || (linePieces r.1 r.2).all fun x => homeMask s x.1 (overlapMask r.1 r.2 x.1) true = 0

/-- The homes take back the words that such a write waits for, by INV (R342, R346). -/
def devAsk (s : State) (l : List (Nat × Nat)) : State :=
  l.foldl (fun t r => if cacheable r.1 then
    (linePieces r.1 r.2).foldl (fun t x => askHome t x.1 (overlapMask r.1 r.2 x.1) true) t else t) s

/-- Hardware writes some bytes once no cluster holds a word of them; until then it has the homes take them back (R342, R346, log 9). -/
def whenReady (s : State) (l : List (Nat × Nat)) (act : State) : State := if devReady s l then act else devAsk s l

/-- What an access of the current group to some words of a line sends while it may not be performed: requests for the words it lacks.
The agent number is the group's (DESIGN CHOICE, log 9). -/
def askWords (s : State) (write : Bool) (pol line : Nat) (m : W32) : State :=
  if polCached pol then askLine s s.cur.cluster line m write s.cur.core s.cur.key.group else askHome s line m write

/-- What an access to a run sends. -/
def askRun (s : State) (write : Bool) (r : Run) : State :=
  if cacheable r.pa then
    (linePieces r.pa r.len).foldl (fun t l => askWords t write r.pol l.1 (overlapMask r.pa r.len l.1)) s
  else s

/-- What accesses to some runs send. -/
def askRuns (s : State) (write : Bool) (rs : List Run) : State := rs.foldl (fun t r => askRun t write r) s

/-- A thread access to the run must wait (R79, R80, R99, R114, R259, R343). -/
def runBusy (s : State) (write : Bool) (r : Run) : Bool :=
  ownedByEngine s r.pa r.len || ownedByTileStore s.cur r.pa r.len || requestOpen s s.cur.cluster r.pa r.len
    || (match r.place with
        | .accum cl co off => tileHeld s ((cl * 8 + co) * 16 + off / 0x4000)
        | .host => hostTileStore s.cur
        | _ => !granted s s.cur.cluster write r)

/-- A thread access to the runs must wait. -/
def runsBusy (s : State) (write : Bool) (rs : List Run) : Bool := rs.any (runBusy s write)

/-- A word read by core k of a cluster: its L1 takes it where the policy lets it; a mate's L1 that could write no longer may
(R87, R342). -/
def wordRead (k pol : Nat) (d : WordDir) : WordDir :=
  if pol ≠ 0 || d.l1.any (fun h => decide (h.1 = k)) then d
  else
    let mate (h : Nat × CState) : Bool := h.1 / 8 = k / 8
    { d with l1 := (k, if d.l1.any mate then .shared else .exclusive) :: d.l1.map fun h => if mate h then (h.1, .shared) else h }

/-- A word written by core k of a cluster that may write it: M there; no mate's L1 keeps it (R87, R342). -/
def wordWrite (k pol : Nat) (d : WordDir) : WordDir :=
  let kept := d.l1.filter fun h => h.1 / 8 ≠ k / 8
  { d with
    holders := d.holders.map fun h => if h.1 = k / 8 then (h.1, .modified) else h
    l1 := if pol = 0 then (k, .modified) :: kept else kept }

/-- A word taken by core k for an atomic that writes nothing: no mate's L1 keeps it, its own holds it exclusively (R87, R171). -/
def wordTake (k pol : Nat) (d : WordDir) : WordDir :=
  let own := d.l1.find? fun h => h.1 = k
  let kept := d.l1.filter fun h => h.1 / 8 ≠ k / 8
  { d with l1 := if pol = 0 then (k, if own = some (k, .modified) then .modified else .exclusive) :: kept else kept }

/-- Change the records of the words of a run that its cluster caches. -/
def onRun (s : State) (r : Run) (f : WordDir → WordDir) : State :=
  if cacheable r.pa && polCached r.pol then
    (linePieces r.pa r.len).foldl (fun t l => onWords t l.1 (overlapMask r.pa r.len l.1) f) s
  else s

/-! ### Lines that engines take over (R102, R114, R346) -/

/-- The pieces of a destination by line. -/
def destPieces (l : List (Nat × Nat)) : List (Nat × Nat × Nat) := l.flatMap fun r => linePieces r.1 r.2

/-- Claim one line of an operation's destination for writer w: a cluster by GetM, a Loam unit by INV, in one slot for all words of the
line; what no cache holds is taken at once (R114, R346). -/
def claimLine (w core agent : Nat) (ps : List (Nat × Nat × Nat)) (acc : List Own × State) (line : Nat) : List Own × State :=
  let here := ps.filter fun p => p.1 = line
  if cacheable (line * 128) then
    let m := here.foldl (fun m p => m ||| overlapMask p.2.1 p.2.2 line) 0
    (acc.1 ++ here.map fun p => { pa := p.2.1, len := p.2.2, slot := some acc.2.nextId, seq := 0 },
     queueSlot acc.2 (planeOf line) w (if w < 64 then .getm line m core agent else .inv line m))
  else
    (acc.1 ++ here.map fun p => { pa := p.2.1, len := p.2.2, slot := none, seq := acc.2.nextId },
     { acc.2 with nextId := acc.2.nextId + 1 })

/-- Claim the runs of a destination, line by line in ascending order (R114). -/
def claimRuns (s : State) (w core agent : Nat) (l : List (Nat × Nat)) : List Own × State :=
  ((destPieces l).foldl (fun acc p => setAdd acc p.1) []).foldl (claimLine w core agent (destPieces l)) ([], s)

/-- A claim waits for a PutM of the same cluster for one of its words to be applied (R345). -/
def claimBlocked (s : State) (w : Nat) (l : List (Nat × Nat)) : Bool :=
  l.any fun r => cacheable r.1 && (linePieces r.1 r.2).any fun x =>
    (maskWords x.1 (overlapMask x.2.1 x.2.2 x.1)).any fun a => slotOpen s w a isPutM

/-- The claim of a slot is fulfilled, as number n of the lines taken over. -/
def fulfil (id n : Nat) (x : Own) : Own := if x.slot = some id then { x with slot := none, seq := n } else x

/-- The slot of a claim has been applied: the line is the operation's from now on (R102, R114). -/
def ownLine (s : State) (id : Nat) : State :=
  { s with nextId := s.nextId + 1, ops := s.ops.map fun o => { o with owned := o.owned.map (fulfil id s.nextId) } }

/-- Every line of the destination is the operation's. -/
def ownsAll (o : EngOp) : Bool := o.owned.all fun x => x.slot.isNone

/-- The place of a byte in the order of taking over. -/
def ownSeq (o : EngOp) (pa : Nat) : Nat :=
  ((o.owned.find? fun x => x.pa ≤ pa && pa < x.pa + x.len).map (·.seq)).getD 0

/-- Bytes a later owner has written are lost to an operation that took the line before it (R102). -/
def yieldTo (o : EngOp) (pa n : Nat) (y : EngOp) : EngOp :=
  if y.id ≠ o.id && y.owned.any (fun x => x.slot.isNone && x.pa < pa + n && pa < x.pa + x.len && x.seq < ownSeq o pa) then
    { y with lost := y.lost ++ [(pa, n)] }
  else y

/-- An operation stores bytes at a physical address: those a later owner wrote stand (R102, R114). -/
def ownedWrite (s : State) (o : EngOp) (pa : Nat) (bs : List Byte) : State :=
  let keep (a : Nat) : Bool := o.lost.any fun l => l.1 ≤ a && a < l.1 + l.2
  let data := if o.lost.isEmpty then bs
    else (List.range bs.length).map fun i => if keep (pa + i) then memGet s (pa + i) else nth bs i 0
  if (List.range bs.length).all fun i => keep (pa + i) then s
  else
    let s1 := memWrite s pa data
    { s1 with ops := s1.ops.map (yieldTo o pa bs.length) }

end Sys2Proof.Machine
end

