-- ==== Sys2Proof/Machine/Flags.lean ====
section
/-!
DEFINITION. Flags.lean: the sticky bits of `fstat` (R56). An operation answers its bits as a number; those of all lanes and
elements are joined by OR and added to `fstat`. The operations that set each bit are in Num.lean, LaneFp.lean and
LaneCross.lean.
-/
namespace Sys2Proof.Machine

/-- Inexact. -/
def fNX : Nat := 1
/-- Underflow: tiny and inexact, or flushed on output (R60, R61). -/
def fUF : Nat := 2
/-- Overflow (R58). -/
def fOF : Nat := 4
/-- Division by zero (R63). -/
def fDZ : Nat := 8
/-- Invalid (R63 to R66). -/
def fNV : Nat := 16
/-- Scale underflow (R70). -/
def fSU : Nat := 32
/-- Precision exhausted (R71). -/
def fPX : Nat := 64

/-- The bits of several results. -/
def joinFlags (l : List Nat) : Nat := l.foldl (fun a b => a ||| b) 0

/-- `fstat` after an instruction: its bits are sticky (R56). -/
def stickFlags (f : BitVec 7) (bits : Nat) : BitVec 7 := f ||| BitVec.ofNat 7 bits

end Sys2Proof.Machine
end

