-- ==== Sys2Proof/Machine/Num.lean ====
section
/-!
DEFINITION. Num.lean: number formats, exact values and rounding (R45 to R66). A finite value is sign, integer significand
and binary exponent; every operation is exact and `roundTo` rounds once.
-/
namespace Sys2Proof.Machine

/-- An exact value: NaN, an infinity, or (-1)^neg * m * 2^e; m = 0 is a signed zero. -/
inductive Num where
  | nan
  | inf (neg : Bool)
  | fin (neg : Bool) (m : Nat) (e : Int)
  deriving DecidableEq, Repr

/-! ### Formats (R45 to R50) -/

/-- The flushing and saturation class of a format (R45). -/
inductive FClass where
  | a
  | b
  | c
  deriving DecidableEq, Repr

/-- How codes at the top of a format are used (R45, R48, R50). -/
inductive FKind where
  /-- Exponent all ones: infinities and NaN. -/
  | ieee
  /-- Only 0x7F and 0xFF are NaN; no infinity. -/
  | e4m3
  /-- No infinity and no NaN. -/
  | e2m1
  /-- NaN 0x80; infinities optional. -/
  | b8s
  /-- NaN 0xFF; no sign. -/
  | b8u
  deriving DecidableEq, Repr

/-- A binary format: significand bits p, exponent bias, width of a code, and the uses of its codes. -/
structure FFmt where
  prec : Nat
  bias : Int
  width : Nat
  kind : FKind
  hasInf : Bool
  cls : FClass
  deriving DecidableEq, Repr

def fmtF32 : FFmt := { prec := 24, bias := 127, width := 32, kind := .ieee, hasInf := true, cls := .a }
def fmtBf16 : FFmt := { prec := 8, bias := 127, width := 16, kind := .ieee, hasInf := true, cls := .b }
def fmtF16 : FFmt := { prec := 11, bias := 15, width := 16, kind := .ieee, hasInf := true, cls := .b }
def fmtE4m3 : FFmt := { prec := 4, bias := 7, width := 8, kind := .e4m3, hasInf := false, cls := .c }
def fmtE5m2 : FFmt := { prec := 3, bias := 15, width := 8, kind := .ieee, hasInf := true, cls := .c }
def fmtE2m1 : FFmt := { prec := 2, bias := 1, width := 4, kind := .e2m1, hasInf := false, cls := .c }

/-- The binary8 variant of a `fmt` (R48). -/
def fmtB8 (f : W64) : FFmt :=
  { prec := fmtP f, bias := if fmtB8u f then 2 ^ (8 - fmtP f) else 2 ^ (7 - fmtP f), width := 8,
    kind := if fmtB8u f then .b8u else .b8s, hasInf := fmtB8inf f, cls := .c }

/-- The variable-precision format of precision p (R50). -/
def fmtVpf (p : Nat) : FFmt := { prec := p, bias := 16383, width := 15 + p, kind := .ieee, hasInf := true, cls := .a }

/-- The format of a float type under a `fmt`. -/
def fmtOf (f : W64) : Ty → FFmt
  | .bf16 => fmtBf16
  | .f16 => fmtF16
  | .e4m3 => fmtE4m3
  | .e5m2 => fmtE5m2
  | .e2m1 => fmtE2m1
  | .b8 => fmtB8 f
  | .vpf => fmtVpf (fmtWprec f)
  | .vpfc => fmtVpf (fmtCprec f)
  | _ => fmtF32

/-- Trailing bits t. -/
def trail (F : FFmt) : Nat := F.prec - 1

/-- Whether a format has a sign bit. -/
def hasSign (F : FFmt) : Bool := F.kind ≠ .b8u

/-- The sign bit's weight. -/
def signWeight (F : FFmt) : Nat := if hasSign F then 2 ^ (F.width - 1) else 0

/-- Code of +infinity, where the format has one: exponent all ones and a zero significand, or the top codes of binary8
(R45, R48). -/
def infCode (F : FFmt) : Nat :=
  match F.kind with
  | .b8s => 0x7F
  | .b8u => 0xFE
  | _ => 2 ^ (F.width - 1) - 2 ^ trail F

/-- Code of the largest finite value (R45, R49). -/
def maxCode (F : FFmt) : Nat :=
  match F.kind with
  | .ieee => infCode F - 1
  | .e4m3 => 0x7E
  | .e2m1 => 0x7
  | .b8s => if F.hasInf then 0x7E else 0x7F
  | .b8u => if F.hasInf then 0xFD else 0xFE

/-- The canonical NaN (R62); e2m1 has none and gives +0. -/
def nanCode (F : FFmt) : Nat :=
  match F.kind with
  | .ieee => infCode F + 2 ^ (trail F - 1)
  | .e4m3 => 0x7F
  | .e2m1 => 0
  | .b8s => 0x80
  | .b8u => 0xFF

/-- Exponent of the smallest quantum, 1 - bias - t. -/
def minQuantum (F : FFmt) : Int := 1 - F.bias - trail F

/-- Magnitude code as significand and exponent (R45, R48). -/
def magValue (F : FFmt) (k : Nat) : Nat × Int :=
  if k < 2 ^ trail F then (k, minQuantum F)
  else (2 ^ trail F + k % 2 ^ trail F, minQuantum F + (k / 2 ^ trail F - 1 : Nat))

/-- The value of a code (R45 to R50). -/
def decodeNum (F : FFmt) (code : Nat) : Num :=
  let neg := hasSign F && code.testBit (F.width - 1)
  let k := if hasSign F then code % 2 ^ (F.width - 1) else code % 2 ^ F.width
  let finite : Num := .fin neg (magValue F k).1 (magValue F k).2
  match F.kind with
  | .ieee => if k < infCode F then finite else if k = infCode F then .inf neg else .nan
  | .e4m3 => if k = 0x7F then .nan else finite
  | .e2m1 => finite
  | .b8s => if neg && k = 0 then .nan else if F.hasInf && k = 0x7F then .inf neg else finite
  | .b8u => if k = 0xFF then .nan else if F.hasInf && k = 0xFE then .inf false else finite

/-- A code whose value is subnormal: nonzero with exponent field 0 (R61). -/
def isSubnormal (F : FFmt) (code : Nat) : Bool :=
  let k := if hasSign F then code % 2 ^ (F.width - 1) else code % 2 ^ F.width
  k ≠ 0 && k < 2 ^ trail F

/-- Sign bit of a negative result; binary8 has no negative zero (R48). -/
def withSign (F : FFmt) (neg : Bool) (k : Nat) : Nat :=
  if k = 0 && (F.kind = .b8s || F.kind = .b8u) then 0 else if neg then signWeight F + k else k

/-! ### Flushing (R61) -/

/-- The input-flush bit of a class. -/
def flushIn (f : W64) : FClass → Bool
  | .a => fmtFia f
  | .b => fmtFib f
  | .c => fmtFic f

/-- The output-flush bit of a class. -/
def flushOut (f : W64) : FClass → Bool
  | .a => fmtFoa f
  | .b => fmtFob f
  | .c => fmtFoc f

/-- Zero of the value's sign; binary8 has no negative zero (R61). -/
def zeroLike (F : FFmt) : Num → Num
  | .fin neg _ _ => .fin (neg && F.kind ≠ .b8s) 0 0
  | x => x

/-- Read a code, flushed by class (R61). -/
def readNum (f : W64) (F : FFmt) (code : Nat) : Num :=
  if flushIn f F.cls && isSubnormal F code then zeroLike F (decodeNum F code) else decodeNum F code

/-! ### Rounding (R57 to R60) -/

/-- Rounding modes, by the codes of `fmt.RM` (R54). -/
inductive Rm where
  | rne
  | rtz
  | rup
  | rdn
  | rna
  | sr
  deriving DecidableEq, Repr

/-- The mode of a code below 6. -/
def rmMode : Nat → Rm
  | 0 => .rne
  | 1 => .rtz
  | 2 => .rup
  | 3 => .rdn
  | 4 => .rna
  | _ => .sr

/-- Whether a discarded part rem / 2^sh rounds the magnitude up. `odd`: the lower neighbour's code is odd (R57). -/
def roundsUp (rm : Rm) (neg odd : Bool) (rem sh : Nat) (r : BitVec 16) : Bool :=
  if rem = 0 then false
  else
    match rm with
    | .rne => 2 * rem > 2 ^ sh || (2 * rem = 2 ^ sh && odd)
    | .rna => 2 * rem ≥ 2 ^ sh
    | .rtz => false
    | .rup => !neg
    | .rdn => neg
    | .sr => rem * 2 ^ 16 / 2 ^ sh + r.toNat ≥ 2 ^ 16

/-- Split m * 2^e at quantum 2^q: the whole quanta, the rest and its width. -/
def splitAt (m : Nat) (e q : Int) : Nat × Nat × Nat :=
  if q ≤ e then (m <<< (e - q).toNat, 0, 0)
  else
    let sh := (q - e).toNat
    (m >>> sh, m % 2 ^ sh, sh)

/-- floor(log2) of m * 2^e, m nonzero. -/
def expOf (m : Nat) (e : Int) : Int := e + m.log2

/-- The quantum of a nonzero value in a format, its exponent range unbounded above (R57). -/
def quantum (F : FFmt) (m : Nat) (e : Int) : Int := max (expOf m e - (trail F : Int)) (minQuantum F)

/-- The code of k quanta of 2^q, k at most 2^p. -/
def magCode (F : FFmt) (k : Nat) (q : Int) : Nat :=
  if k < 2 ^ trail F then k
  else if k < 2 ^ F.prec then ((q - minQuantum F).toNat + 1) * 2 ^ trail F + (k - 2 ^ trail F)
  else ((q - minQuantum F).toNat + 2) * 2 ^ trail F

/-- The result of an overflow (R58). -/
def overflowCode (F : FFmt) (sat : Bool) (rm : Rm) (neg : Bool) : Nat :=
  let m := withSign F neg (maxCode F)
  let top := if F.hasInf then withSign F neg (infCode F) else if F.kind = .e2m1 then m else nanCode F
  if sat && F.cls ≠ .a then m
  else
    match rm with
    | .rtz => m
    | .rup => if neg then m else top
    | .rdn => if neg then top else m
    | _ => top

/-- `round_to` of a finite value: code and flags (R57, R58, R60, R61). -/
def roundFin (f : W64) (F : FFmt) (rm : Rm) (r : BitVec 16) (neg : Bool) (m : Nat) (e : Int) : Nat × Nat :=
  if m = 0 then (withSign F neg 0, 0)
  else
    let q := quantum F m e
    let (k, rem, sh) := splitAt m e q
    let up := roundsUp rm neg ((magCode F k q).testBit 0) rem sh r
    let c := magCode F (if up then k + 1 else k) q
    let nx := if rem = 0 then 0 else fNX
    let tiny := decide (expOf m e < 1 - F.bias)
    if c > maxCode F then (overflowCode F (fmtSat f) rm neg, fOF ||| fNX)
    else if flushOut f F.cls && c ≠ 0 && c < 2 ^ trail F then (withSign F neg 0, fUF ||| fNX)
    else (withSign F neg c, nx ||| (if tiny && rem ≠ 0 then fUF else 0))

/-- `round_to` of any value; an infinity in a format without one is `convertNum`'s business. -/
def roundTo (f : W64) (F : FFmt) (rm : Rm) (r : BitVec 16) : Num → Nat × Nat
  | .nan => (nanCode F, 0)
  | .inf neg => (withSign F neg (infCode F), 0)
  | .fin neg m e => roundFin f F rm r neg m e

/-! ### Conversions (R64 to R66) -/

/-- Conversion of a negative finite value into unsigned binary8, rounded as a value: to zero, or NaN with NV (R65). -/
def convertNegU (f : W64) (F : FFmt) (rm : Rm) (r : BitVec 16) (m : Nat) (e : Int) : Nat × Nat :=
  if m = 0 then (0, 0)
  else
    let q := quantum F m e
    let (k, rem, sh) := splitAt m e q
    let up := roundsUp rm true ((magCode F k q).testBit 0) rem sh r
    let c := if up then k + 1 else k
    if c = 0 then (0, fUF ||| fNX)
    else (if fmtSat f then 0 else nanCode F, fNV)

/-- Float-to-float conversion of an exact value (R64, R65). -/
def convertNum (f : W64) (F : FFmt) (rm : Rm) (r : BitVec 16) (x : Num) : Nat × Nat :=
  match x with
  | .nan => (nanCode F, if F.kind = .e2m1 then fNV else 0)
  | .inf neg =>
    if F.kind = .b8u && neg then (if fmtSat f then 0 else nanCode F, fNV)
    else if F.hasInf then
      (withSign F neg (infCode F), 0)
    else if fmtSat f then (withSign F neg (maxCode F), fOF)
    else if F.kind = .e2m1 then (withSign F neg (maxCode F), fNV)
    else (nanCode F, fNV)
  | .fin neg m e =>
    if F.kind = .b8u && neg then convertNegU f F rm r m e else roundFin f F rm r neg m e

/-- Bounds of an integer type (R44). -/
def intMin (t : Ty) : Int := if tySigned t then -(2 ^ (tyWidth t - 1)) else 0
def intMax (t : Ty) : Int := if tySigned t then 2 ^ (tyWidth t - 1) - 1 else 2 ^ tyWidth t - 1

/-- A finite value rounded to an integer, and whether it was inexact (R66). -/
def roundInt (rm : Rm) (r : BitVec 16) (neg : Bool) (m : Nat) (e : Int) : Int × Bool :=
  let (k, rem, sh) := splitAt m e 0
  let k := if roundsUp rm neg (k.testBit 0) rem sh r then k + 1 else k
  (if neg then -(k : Int) else k, rem ≠ 0)

/-- Float-to-integer conversion (R66). -/
def convertInt (t : Ty) (rm : Rm) (r : BitVec 16) : Num → Int × Nat
  | .nan => (0, fNV)
  | .inf neg => (if neg then intMin t else intMax t, fNV)
  | .fin neg m e =>
    let (v, nx) := roundInt rm r neg m e
    if v < intMin t then (intMin t, fNV)
    else if intMax t < v then (intMax t, fNV)
    else (v, if nx then fNX else 0)

/-- An exact integer as a value. -/
def numOfInt (v : Int) : Num := .fin (v < 0) v.natAbs 0

/-- The code of a small integer in a float type, exact for every mode-101 immediate (R133). -/
def intCode (t : Ty) (v : Int) : Nat := (roundTo 0 (fmtOf 0 t) .rne 0 (numOfInt v)).1

/-! ### Exact arithmetic (R57, R63, R67) -/

/-- Whether a value is NaN. -/
def isNan : Num → Bool
  | .nan => true
  | _ => false

def isInf : Num → Bool
  | .inf _ => true
  | _ => false

/-- Zero of either sign. -/
def isZero : Num → Bool
  | .fin _ m _ => m = 0
  | _ => false

def numNeg : Num → Num
  | .nan => .nan
  | .inf n => .inf !n
  | .fin n m e => .fin (!n) m e

def numAbs : Num → Num
  | .nan => .nan
  | .inf _ => .inf false
  | .fin _ m e => .fin false m e

/-- The sign of a number; NaN counts as positive. -/
def numSign : Num → Bool
  | .nan => false
  | .inf n => n
  | .fin n _ _ => n

/-- Signed significand of a finite value at a lower exponent. -/
def scaledInt (neg : Bool) (m : Nat) (e lo : Int) : Int :=
  let v : Int := (m <<< (e - lo).toNat : Nat)
  if neg then -v else v

/-- Exact sum; an exact zero of opposite signs is +0, or -0 under RDN (R57, R63). -/
def numAdd (rm : Rm) (x y : Num) : Num × Nat :=
  match x, y with
  | .nan, _ => (.nan, 0)
  | _, .nan => (.nan, 0)
  | .inf a, .inf b => if a = b then (.inf a, 0) else (.nan, fNV)
  | .inf a, _ => (.inf a, 0)
  | _, .inf b => (.inf b, 0)
  | .fin n1 m1 e1, .fin n2 m2 e2 =>
    if m1 = 0 && m2 = 0 then (.fin (if n1 = n2 then n1 else rm = .rdn) 0 0, 0)
    else if m1 = 0 then (.fin n2 m2 e2, 0)
    else if m2 = 0 then (.fin n1 m1 e1, 0)
    else
      let lo := min e1 e2
      let v := scaledInt n1 m1 e1 lo + scaledInt n2 m2 e2 lo
      if v = 0 then (.fin (rm = .rdn) 0 0, 0) else (.fin (v < 0) v.natAbs lo, 0)

/-- Exact product (R63). -/
def numMul (x y : Num) : Num × Nat :=
  match x, y with
  | .nan, _ => (.nan, 0)
  | _, .nan => (.nan, 0)
  | .inf a, .inf b => (.inf (a != b), 0)
  | .inf a, .fin b m _ => if m = 0 then (.nan, fNV) else (.inf (a != b), 0)
  | .fin a m _, .inf b => if m = 0 then (.nan, fNV) else (.inf (a != b), 0)
  | .fin a m1 e1, .fin b m2 e2 => (.fin (a != b) (m1 * m2) (e1 + e2), 0)

/-- Exact a * b + c (R63, R67). -/
def numFma (rm : Rm) (a b c : Num) : Num × Nat :=
  let (p, f1) := numMul a b
  if f1 ≠ 0 then (.nan, f1) else numAdd rm p c

/-- Order of two numbers that are not NaN: less, equal. -/
def numLess (x y : Num) : Bool :=
  match x, y with
  | .inf a, .inf b => a && !b
  | .inf a, _ => a
  | _, .inf b => !b
  | .fin n1 m1 e1, .fin n2 m2 e2 =>
    let lo := min e1 e2
    scaledInt n1 m1 e1 lo < scaledInt n2 m2 e2 lo
  | _, _ => false

def numEq (x y : Num) : Bool := !isNan x && !isNan y && !numLess x y && !numLess y x

/-- Less, with -0 below +0 (R204). -/
def numLessZ (x y : Num) : Bool := numLess x y || (isZero x && isZero y && numSign x && !numSign y)

end Sys2Proof.Machine
end

