-- ==== Sys2Proof/Machine/Access.lean ====
section
/-!
DEFINITION. Access.lean: loads, stores and atomics of one run of bytes, by what the address names (R76 to R84, R99, R100,
R114, R118, R166 to R171, R230 to R233, R398, R427).
-/
namespace Sys2Proof.Machine

/-- The outcome of an access: done, waiting with what it has asked for, or failed with a cause. -/
inductive Acc (α : Type) where
  | ok (a : α)
  | busy (s : State)
  | err (cause : Nat)

/-! ### What a place answers -/

/-- Why a load of a run fails (R80, R84, R118, R351, R398). -/
def loadErr (s : State) (r : Run) : Option XErr :=
  match r.place with
  | .window _ => some .place
  | .host => if !s.linkUp || poisoned s r.pa r.len then some .poison else none
  | .stacked _ _ | .far | .scratch _ _ _ => if poisoned s r.pa r.len || homeDead s r.pa then some .poison else none
  | _ => none

/-- Why a store to a run fails (R80, R84, R351). -/
def storeErr (s : State) (r : Run) : Option XErr :=
  match r.place with
  | .window _ | .tiles _ _ => some .place
  | .stacked _ _ | .far => if homeDead s r.pa then some .poison else none
  | _ => none

/-- Why an atomic on a run fails: only stacked memory, the far tier and scratchpads take one (R171, R247). -/
def atomErr (s : State) (r : Run) : Option XErr :=
  match r.place with
  | .stacked _ _ | .far | .scratch _ _ _ => loadErr s r
  | _ => some .place

/-- The bytes of a run. -/
def readPlace (s : State) (r : Run) : List Byte :=
  match r.place with
  | .mgmt off => regBytes (mgmtRead s) off r.len
  | .loam st off => regBytes (loamRead s st) off r.len
  | .accum cl co off => accumBytes s (cl * 8 + co) off r.len
  | .tiles _ _ => (List.range r.len).map fun i => Config.tileStoreByte s.ctr (r.pa + i)
  | .window _ => List.replicate r.len 0
  | _ => memRead s r.pa r.len

/-- The number of the current group's core. -/
def curCore (s : State) : Nat := coreHolder s.cur.cluster s.cur.core

/-- Store bytes to a run by the current group. A store to host memory is not performed while the link is down (R398). -/
def writePlace (s : State) (r : Run) (bs : List Byte) : State :=
  match r.place with
  | .mgmt off => mgmtStore s off bs
  | .loam st off => loamStore s st off bs
  | .accum cl co off => accumStore s (cl * 8 + co) off bs
  | .tiles _ _ | .window _ => s
  | .host =>
    if s.linkUp then { memWrite s r.pa bs with hostPend := s.hostPend ++ [s.cur.key] }
    else mgmtCount s 0xF760 0
  | .scratch _ _ _ => memWrite s r.pa bs
  | _ => memWrite (onRun s r (wordWrite (curCore s) r.pol)) r.pa bs

/-- What an atomic that writes nothing leaves in the caches: its words are its core's alone (R171). -/
def takeMark (s : State) (r : Run) : State := onRun s r (wordTake (curCore s) r.pol)

/-- What a load of a run leaves in the caches. -/
def readMark (s : State) (r : Run) : State := onRun s r (wordRead (curCore s) r.pol)

/-- Store bytes to several runs. -/
def writePlaces (s : State) : List Run → List Byte → State
  | [], _ => s
  | r :: rs, bs => writePlaces (writePlace s r (bs.take r.len)) rs (bs.drop r.len)

/-- The first failure of some runs. -/
def firstErr (f : Run → Option XErr) (rs : List Run) : Option XErr := rs.findSome? f

/-! ### Runs of an access by space (R76, R231) -/

/-- The run of n bytes at an offset of a crew's scratchpad allocation. -/
def crewRun (c : Crew) (o n : Nat) : Run :=
  { pa := scratchPa c.cluster c.core (c.spbase + o), len := n, place := .scratch c.cluster c.core (c.spbase + o), leaf := none }

/-- The runs of n bytes a group addresses in a space (R76, R231); the window is space 3. -/
def spaceRuns (s : State) (space : Nat) (k : Access) (ea : W64) (n : Nat) : Except XErr (List Run) :=
  match space with
  | 0 => runs s (accActor s ea) k ea n
  | 1 => if ea.toNat + n ≤ s.crew.splen then .ok [crewRun s.crew ea.toNat n] else .error .place
  | 2 =>
    if ea.toNat ≥ 2 ^ 23 then .error .place
    else
      match findCrew s { s.cur.key with crew := ea.toNat / 2 ^ 20, group := 0 } with
      | none => .error .place
      | some c =>
        let o := ea.toNat % 2 ^ 20
        if !crewAway c && o + n ≤ c.splen then .ok [crewRun c o n] else .error .place
  | _ => .ok [{ pa := 3 * 2 ^ 50 + 2 * 2 ^ 44 + ea.toNat % 2 ^ 44, len := n, place := .window (ea.toNat % 2 ^ 44), leaf := none }]

/-- The runs of an access with its place checked by `f`, or the cause of its failure. -/
def checkedRuns (f : State → Run → Option XErr) (s : State) (space : Nat) (k : Access) (ea : W64) (n : Nat) :
    Except Nat (List Run) :=
  match spaceRuns s space k ea n with
  | .error e => .error (errCause k e)
  | .ok rs =>
    match firstErr (f s) rs with
    | some e => .error (errCause k e)
    | none => .ok rs

/-- The runs of n bytes of an actor with their places checked by `f`, page by page: the cause of the first failure and the address of its
first byte (R78, R83, R86). `fuel` bounds the pages. -/
def checkPagesFrom (f : State → Run → Option XErr) (s : State) (a : Actor) (k : Access) : Nat → W64 → Nat → Except (Nat × W64) (List Run)
  | 0, _, _ => .ok []
  | fuel + 1, va, n =>
    if n = 0 then .ok []
    else
      let here := min n (4096 - va.toNat % 4096)
      match runs s a k va here with
      | .error e => .error (errCause k e, va)
      | .ok rs =>
        match firstErr (f s) rs, checkPagesFrom f s a k fuel (va + BitVec.ofNat 64 here) (n - here) with
        | some e, _ => .error (errCause k e, va)
        | none, .error e => .error e
        | none, .ok r => .ok (rs ++ r)

/-- The checked runs of n bytes at a virtual address of an actor. -/
def checkPages (f : State → Run → Option XErr) (s : State) (a : Actor) (k : Access) (va : W64) (n : Nat) : Except (Nat × W64) (List Run) :=
  checkPagesFrom f s a k (n / 4096 + 2) va n

/-- Load the bytes of checked runs: bytes and the state with the load's traces. -/
def loadRuns (s : State) (ea : W64) (rs : List Run) : List Byte × State :=
  let s2 := rs.foldl readMark (touchRuns s (accActor s ea) .load ea rs)
  (rs.flatMap (readPlace s2), s2)

/-- Store bytes to checked runs. -/
def storeRuns (s : State) (ea : W64) (rs : List Run) (bs : List Byte) : State :=
  writePlaces (touchRuns s (accActor s ea) .store ea rs) rs bs

/-- One atomic operation on runs whose pages have been walked: the old bytes, and the new ones given by `f`; none writes nothing
(R170, R247). -/
def atomicDo (s : State) (rs : List Run) (f : List Byte → Option (List Byte)) : List Byte × State :=
  let old := rs.flatMap (readPlace s)
  match f old with
  | none => (old, rs.foldl takeMark s)
  | some new => (old, writePlaces s rs new)

/-- One atomic access to checked runs. -/
def atomicRuns (s : State) (ea : W64) (rs : List Run) (f : List Byte → Option (List Byte)) : List Byte × State :=
  atomicDo (touchRuns s (accActor s ea) .store ea rs) rs f

/-- The access needs its words for writing: a store, and an atomic even when it writes nothing (R171, R247). -/
def writes (k : Access) : Bool := k = .store

/-- Check the runs of an access, wait while they are held or not granted, asking for what is missing, then go on. -/
def accessAt {α : Type} (f : State → Run → Option XErr) (k : Access) (s : State) (space : Nat) (ea : W64) (n : Nat)
    (act : List Run → α) : Acc α :=
  match checkedRuns f s space k ea n with
  | .error c => .err c
  | .ok rs => if runsBusy s (writes k) rs then .busy (askRuns s (writes k) rs) else .ok (act rs)

/-- A load of n bytes. -/
def loadAt (s : State) (space : Nat) (ea : W64) (n : Nat) : Acc (List Byte × State) :=
  accessAt loadErr .load s space ea n (loadRuns s ea)

/-- A store of bytes. -/
def storeAt (s : State) (space : Nat) (ea : W64) (bs : List Byte) : Acc State :=
  accessAt storeErr .store s space ea bs.length fun rs => storeRuns s ea rs bs

/-- An atomic of n bytes. -/
def atomicAt (s : State) (space : Nat) (ea : W64) (n : Nat) (f : List Byte → Option (List Byte)) :
    Acc (List Byte × State) :=
  accessAt atomErr .store s space ea n fun rs => atomicRuns s ea rs f

/-! ### Ordered accesses (R105, R106, R115) -/

/-- Order codes that act as a release: release, acquire-release, SC (R105, R109). -/
def isRelease (o : Nat) : Bool := o = 2 || o = 3 || o = 4

/-- Engine operations of the current group in flight. -/
def groupOps (s : State) : List EngOp := s.ops.filter fun o => o.grp = s.cur.key

/-- PUTs and GETs of the current group in flight. -/
def remoteOps (s : State) : List EngOp :=
  (groupOps s).filter fun o => match o.kind with | .put _ _ _ | .get _ _ _ => true | _ => false

/-- Every earlier store of the group is performed at a scope: no tile store is under way; beyond the group itself, every
broadcast-window store has been received (R282); at system scope, the host has accepted every store to host memory and the PUTs and
GETs have completed (R106, R115). -/
def storesDone (s : State) (scope : Nat) : Bool :=
  (s.cur.outs.all fun o => match o.act with | .accst _ _ => false | _ => true)
    && (scope = 0 || s.cur.bslots.all (·.done))
    && (scope ≠ 5 || (!s.hostPend.contains s.cur.key && (remoteOps s).isEmpty))

/-! ### The SC order (R109) -/

/-- The place of an SC operation of the current group performed now, as one that sends no message: the frame, the cluster's writer
index, plane 0, then core, crew, group and lane. -/
def scHere (s : State) (lane : Nat) : ScPlace :=
  { frame := frameOf s, writer := s.cur.cluster, plane := 0, core := s.cur.core, crew := s.cur.key.crew, group := s.cur.key.group,
    lane := lane }

/-- A place as one number that rises with it. -/
def scNum (p : ScPlace) : Nat :=
  (((((p.frame * 128 + p.writer) * 8 + p.plane) * 8 + p.core) * 8 + p.crew) * 16 + p.group) * 32 + p.lane

/-- The order code is SC at device or system scope: the operation takes a place in the SC order (R109). -/
def takesPlace (order scope : Nat) : Bool := order = 4 && (scope = 4 || scope = 5)

/-- A broadcast-window store or a tile store: performed after its instruction has issued. -/
def ScUse.later : ScUse → Bool
  | .tile _ | .window _ => true
  | _ => false

/-- The operation of a use that a group has under way. -/
def scFind (g : Group) (u : ScUse) : Option ScOpen := g.scOpen.find? fun e => e.use = u

/-- The place of an SC operation of the current group performed now: the stamp of the message it sent for its words; that of the frame
where it sent none, or where it was held back until an operation of a later place had been performed (DEDUCED, log 96). -/
def scPlace (s : State) (u : ScUse) (lane : Nat) : ScPlace :=
  match scFind s.cur u with
  | some e =>
    if e.place.frame ≠ 0 && decide (scNum s.scLast < scNum { e.place with lane }) then { e.place with lane } else scHere s lane
  | none => scHere s lane

/-- A stamped operation of another place waits for its words, or for its window slot to be applied. -/
def scWaiting (s : State) (e : ScOpen) : Bool :=
  e.place.frame ≠ 0 && (match e.use with
    | .window _ => true
    | _ => e.slots.any fun i => s.reqs.any fun r => r.slot = i)

/-- An operation of an earlier place is still to be performed, or a store of the same group, which comes first in program order (R109). -/
def scBehind (s : State) (u : ScUse) (p : ScPlace) : Bool :=
  (allGroups s).any fun g => g.scOpen.any fun e =>
    !(g.key = s.cur.key && e.use = u) &&
      ((g.key = s.cur.key && e.use.later && !u.later) || (scWaiting s e && decide (scNum e.place < scNum p)))

/-- A slot stamped before a place is still to be applied: what it changes comes before (R102, R109). -/
def slotsBehind (s : State) (p : ScPlace) : Bool :=
  s.planes.zipIdx.any fun q => q.1.sent.any fun x => ((msgWords x.msg).isSome || (match x.msg with | .bcast _ _ _ => true | _ => false))
    && (decide (x.frame < p.frame) || (x.frame = p.frame && (decide (x.writer < p.writer) || (x.writer = p.writer && decide (q.2 < p.plane)))))

/-- An SC operation may be performed: its place comes after every place taken, and nothing of an earlier place is still to come (R109). -/
def scMay (s : State) (u : ScUse) (order scope lane : Nat) : Bool :=
  !takesPlace order scope
    || (decide (scNum s.scLast < scNum (scPlace s u lane)) && !scBehind s u (scPlace s u lane) && !slotsBehind s (scPlace s u lane))

/-- An operation of the group is under way no longer. -/
def scDrop (u : ScUse) (g : Group) : Group := { g with scOpen := g.scOpen.filter fun e => e.use ≠ u }

/-- An SC operation has been performed; `lane` is its highest lane. -/
def scTake (s : State) (u : ScUse) (order scope lane : Nat) : State :=
  if takesPlace order scope then { s with scLast := scPlace s u lane, cur := scDrop u s.cur } else s

/-- The place of an operation of a group before any message of it is stamped. -/
def scNone (g : Group) : ScPlace :=
  { frame := 0, writer := g.cluster, plane := 0, core := g.core, crew := g.key.crew, group := g.key.group, lane := 0 }

/-- An operation that is under way has sent some messages more. -/
def scAdd (u : ScUse) (slots : List Nat) (g : Group) : Group :=
  let e := (scFind g u).getD { use := u, slots := [], place := scNone g }
  { scDrop u g with scOpen := (scDrop u g).scOpen ++ [{ e with slots := e.slots ++ slots }] }

/-- An SC operation waits: the requests that t has and s has not are its messages (R109). -/
def scAsk (s : State) (u : ScUse) (order scope : Nat) (t : State) : State :=
  if takesPlace order scope then modCur t (scAdd u ((t.reqs.filter fun r => !s.reqs.contains r).map (·.slot))) else t

/-- What an access leaves when it has to wait. -/
def Acc.onBusy {α : Type} (f : State → State) : Acc α → Acc α
  | .busy t => .busy (f t)
  | a => a

/-! ### Float operations on memory words (R169, R245) -/

/-- FP32 sum, RNE, without flushing (R169, R245). -/
def f32Sum (a b : Nat) : Nat := (roundTo 0 fmtF32 .rne 0 (numAdd .rne (decodeNum fmtF32 a) (decodeNum fmtF32 b)).1).1

/-- A sum in a 16-bit format, RNE, without flushing; of `fmt` it takes SAT alone (R58, R245). -/
def halfSum (f : W64) (F : FFmt) (a b : Nat) : Nat :=
  (roundTo (f &&& 0x4000) F .rne 0 (numAdd .rne (decodeNum F a) (decodeNum F b)).1).1

end Sys2Proof.Machine
end

