-- ==== Sys2Proof/Machine/Ops.lean ====
section
/-!
DEFINITION. Ops.lean: the shared operations: records to the supervisor, code fetch, batches, taking a trap and returning
from one (R116, R120, R257, R326 to R331).
-/
namespace Sys2Proof.Machine

/-! ### Outcomes -/

/-- The outcome of every modelled instruction: a next state. -/
abbrev Out := Host.Outcome State Fault Refusal

/-- The instruction waits: nothing changes and it is tried again (R153). -/
def stall (s : State) : State := s

/-! ### Records and supervisor events (R307, R430) -/

/-- The fields of a record. -/
structure RecordFields where
  typ : Nat
  status : Nat := 0
  queue : Nat := 0xFF
  node : Nat := 0
  srcseq : Nat := 0
  launch : Nat := 0
  band : Nat := 0
  crew : Nat := 0
  group : Nat := 0
  d0 : Nat := 0
  d1 : Nat := 0
  d2 : Nat := 0

/-- A record at a tick, its SEQ still zero (R307). -/
def packRecord (time : Nat) (r : RecordFields) : BitVec 512 :=
  BitVec.ofNat 512 (r.typ <<< 64 + r.status <<< 72 + r.queue <<< 80 + (r.node % 2 ^ 32) <<< 96
    + (r.srcseq % 2 ^ 64) <<< 128 + (time % 2 ^ 64) <<< 192 + (r.launch % 2 ^ 32) <<< 256 + r.band <<< 288
    + r.crew <<< 308 + r.group <<< 311 + (r.d0 % 2 ^ 64) <<< 320 + (r.d1 % 2 ^ 64) <<< 384
    + (r.d2 % 2 ^ 64) <<< 448)

/-- The header of the supervisor event queue, 0 for none (R427). -/
def sevq (s : State) : Nat := bitsOf (rfGet s.mgmt 0x0340 0) 51 8 * 256

/-- Queue a supervisor event; with SEVQ = 0 none is posted (R307). -/
def postEvent (s : State) (r : RecordFields) : State :=
  if sevq s = 0 then s else { s with posts := s.posts ++ [{ cq := sevq s, record := packRecord s.time r, sup := true, claim := none }] }

/-! ### Code fetch (R116, R119, R120) -/

/-- Undo one recorded write on a run of bytes at `pa`. -/
def undoWrite (pa : Nat) (bs : List Byte) (h : Nat × List Byte) : List Byte :=
  (List.range bs.length).map fun i =>
    if h.1 ≤ pa + i && pa + i < h.1 + h.2.length then nth h.2 (pa + i - h.1) 0 else nth bs i 0

/-- The values a run of bytes has held, newest first, over a stretch of the store history. -/
def valueHistory (pa : Nat) (bs : List Byte) : List (Nat × List Byte) → List (List Byte)
  | [] => [bs]
  | h :: r =>
    let old := undoWrite pa bs h
    if old = bs then valueHistory pa bs r else bs :: valueHistory pa old r

/-- A value the bytes at `pa` have held since the history had length `mark`: the present one where they have not
changed, else one of them by a free choice (R116, R254). -/
def someValueSince (s : State) (mark pa n : Nat) : List Byte :=
  let now := memRead s pa n
  match valueHistory pa now (s.hist.take (s.hist.length - mark)) with
  | [_] => now
  | l => nth l (Config.pick (s.ctr + pa) l.length % l.length) now

/-- One 32-bit code word of the current group, wholly old or wholly new (R116). A word that is poisoned, homed at a dead stack, or in host
memory while the link is down, raises poison consumed (0x0C): the manual says so of loads (R118, R351, R398), and of a fetch only that a
word not fetchable raises 0x0A (DEDUCED, log 97). -/
def fetchWord (s : State) (k : Access) (va : W64) : Except XErr (List Byte × State) :=
  let a := accActor s va
  match runs s a k va 4 with
  | .error e => .error e
  | .ok rs =>
    match rs with
    | [r] =>
      if poisoned s r.pa 4 || homeDead s r.pa || (!s.linkUp && r.place = .host) then .error .poison
      else .ok (someValueSince s s.cur.isyncMark r.pa 4, touchRuns s a k va rs)
    | _ => .error .trans

/-- n consecutive code words. -/
def fetchWords (s : State) (k : Access) (va : W64) : Nat → Except XErr (List Byte × State)
  | 0 => .ok ([], s)
  | n + 1 =>
    match fetchWord s k va with
    | .error e => .error e
    | .ok (b, s1) =>
      match fetchWords s1 k (va + 4) n with
      | .error e => .error e
      | .ok (bs, s2) => .ok (b ++ bs, s2)

/-! ### Batches (R257) -/

/-- Complete the batches at the head whose operations have all completed, in number order (R257). A number says how the latest batch of
that number ended (R256). -/
def settleBatches (g : Group) : List Batch → Group
  | [] => { g with batches := [] }
  | b :: r =>
    if b.ops.all fun q => !(g.outs.any fun o => o.seq = q) then
      let merr := g.merr.filter (· ≠ b.num)
      let g := { g with merr := if b.ops.any fun q => g.errOps.contains q then merr ++ [b.num] else merr }
      settleBatches { g with mbdone := b.num, errOps := g.errOps.filter fun q => !(b.ops.contains q) } r
    else { g with batches := b :: r }

/-- Close the open matrix operations into the next batch (R257). -/
def closeBatch (g : Group) : Group :=
  let b : Batch := { num := g.bctr, ops := g.openOps }
  let g := { g with bctr := g.bctr + 1, openOps := [] }
  settleBatches g (g.batches ++ [b])

/-! ### Taking a trap (R326 to R331) -/

/-- `tcause` (R326). -/
def packCause (lane : Bool) (idx cause : Nat) : W64 :=
  BitVec.ofNat 64 (idx * 512 + (if lane then 256 else 0) + cause)

/-- POS of a saved entry (R329). -/
def packPos (e : QEntry) : Nat := if e.started then 0x80 + e.pos else 0

/-- KIND of a saved entry (R329). -/
def packKind : QKind → Nat
  | .clause => 0
  | .vput => 1
  | .setp => 2
  | .prng => 3
  | .fewait => 4

/-- The 32 bytes of a saved queue entry (R329). -/
def packEntry (e : QEntry) : List Byte :=
  leBytes e.addr.toNat 8 ++ leBytes e.mask.toNat 4 ++ leBytes (packPos e) 1 ++ leBytes (packKind e.kind) 1
    ++ leBytes e.target.toNat 2 ++ leBytes e.fmt.toNat 8 ++ leBytes (if e.started then e.fewait.toNat else 0) 8

/-- The fields of the trap save area below 0x600: offset and bytes (R328). -/
def saveFields (g : Group) (tcause tpc tval : W64) : List (Nat × List Byte) :=
  [(0x000, leBytes tcause.toNat 8), (0x008, leBytes tpc.toNat 8), (0x010, leBytes tval.toNat 8),
   (0x018, (List.range 12).map fun i => BitVec.ofNat 8 (vget g.flags i 0)),
   (0x024, leBytes g.amask.toNat 4), (0x028, leBytes g.mstack.length 1), (0x02A, leBytes g.bctr.toNat 2)]
  ++ (List.range 32).map (fun l =>
      (0x100 + 8 * l, leBytes (laneGet g (yKey 0 l)).toNat 4 ++ leBytes (laneGet g (yKey 1 l)).toNat 4))
  ++ [(0x200, leBytes g.fmt.toNat 8), (0x220, leBytes g.queue.length 4)]
  ++ (List.range g.queue.length).map (fun i =>
      (0x240 + 32 * i, packEntry (nth g.queue i { kind := .clause, addr := 0 })))
  ++ (List.range g.mstack.length).map (fun j =>
      let e := nth g.mstack.reverse j { mask := 0, fmt := 0, taken := 0 }
      (0x400 + 16 * j, leBytes e.mask.toNat 4 ++ leBytes e.taken.toNat 4 ++ leBytes e.fmt.toNat 8))

/-- Write zeros over n bytes. -/
def fillZero (s : State) (pa n : Nat) : State :=
  { s with
    mem := if s.revived.isEmpty then spClear s.mem pa n else memPut s.revived s.mem pa (List.replicate n 0)
    poison := s.poison.filter fun w => !wholeWords pa n w }

/-- Write fields over a zeroed area. -/
def putFields (rv : List (Nat × Nat × Nat)) (m : List Host.Cell) (pa : Nat) : List (Nat × List Byte) → List Host.Cell
  | [] => m
  | f :: r => putFields rv (memPut rv m (pa + f.1) f.2) pa r

/-- The 4 KiB of a save area with some fields. -/
def areaImage (fs : List (Nat × List Byte)) : List Byte :=
  (List.range 4096).map fun i =>
    match fs.find? fun f => f.1 ≤ i && i < f.1 + f.2.length with
    | some f => nth f.2 (i - f.1) 0
    | none => 0

/-- A save area written to memory. -/
def areaMemory (s : State) (pa : Nat) (fs : List (Nat × List Byte)) : State :=
  let z := fillZero s pa 4096
  { z with mem := putFields z.revived z.mem pa fs, hist := (pa, memRead s pa 4096) :: s.hist }

/-- A save area written where its page lies: in memory, or, as any store of these bytes, in the unit that backs them (R80, R398). -/
def putArea (s : State) (r : Run) (fs : List (Nat × List Byte)) : State :=
  match r.place with
  | .stacked _ _ | .far => areaMemory (onRun s r (wordWrite (curCore s) r.pol)) r.pa fs
  | .scratch _ _ _ => areaMemory s r.pa fs
  | _ => writePlace s r (areaImage fs)

/-- Write the save area at `tsave` with the group's translation: it fails as a store there does, and waits as one does (R80, R84, R327
step 2). An unaligned `tsave` counts as a faulting store (DEDUCED, log 16). -/
def writeSaveArea (s : State) (tcause tpc tval : W64) : Acc State :=
  let a := groupActor s.cur
  if s.cur.tsave.toNat % 4096 ≠ 0 then .err 0x0D
  else
    match runs s a .store s.cur.tsave 4096 with
    | .error e => .err (errCause .store e)
    | .ok rs =>
      match firstErr (storeErr s) rs with
      | some e => .err (errCause .store e)
      | none =>
        if runsBusy s true rs then .busy (askRuns s true rs)
        else .ok ((touchRuns s a .store s.cur.tsave rs) |> fun t => rs.foldl (fun t r => putArea t r (saveFields s.cur tcause tpc tval)) t)

/-- A double trap: the crew comes to a stop and the supervisor is told (R331, R430). -/
def doubleTrap (s : State) (first cause : Nat) (tval tpc : W64) : State :=
  let k := s.cur.key
  let s := modCrew s fun c => { c with halt := .draining true }
  postEvent s { typ := 0x82, status := cause, launch := k.launch, band := k.band, crew := k.crew, group := k.group,
                d0 := tval.toNat, d1 := tpc.toNat, d2 := first }

/-- The scalar program counter has bits 1:0 zero (R119): those of a handler or return address are dropped (DEDUCED,
log 18). -/
def alignPc (x : W64) : W64 := x &&& ~~~3

/-- What entry changes in the group once the save area is written (R327 steps 3 to 5). -/
def enterHandler (g : Group) (tcause tpc tval : W64) : Group :=
  { g with
    tcause := tcause, tpc := tpc, tval := tval, amask := 0xFFFFFFFF, mstack := [], flags := .replicate 12 0,
    queue := [], feWait := none, feDone := 0, scOpen := g.scOpen.filter (·.use.later), handler := true, msaved := false, heldWait := g.wait, wait := .none, pc := alignPc g.tvec }

/-- Trap entry, the one operation every cause goes through (R327, R331). It waits until the clause in execution has
ended, for a scalar trap, and until issued lane instructions have completed. -/
def takeTrap (s : State) (lane : Bool) (idx cause : Nat) (tval tpc : W64) : State :=
  if (!lane && (running s.cur).isSome) || !(longOuts s.cur).isEmpty then stall s
  else if s.cur.handler then doubleTrap s (bitsOf s.cur.tcause 7 0) cause tval tpc
  else
    let tc := packCause lane idx cause
    let s1 := modCur s closeBatch
    match writeSaveArea s1 tc tpc tval with
    | .err e => doubleTrap s1 cause e s.cur.tsave tpc
    | .busy t => stall { t with cur := s.cur }
    | .ok s2 => modCur s2 fun g => enterHandler g tc tpc tval

/-- The state a trap leaves while it has to wait: for the clause in execution, for issued lane instructions, for the words of its save
area (R327); none where it is taken. -/
def trapWaits (s : State) (lane : Bool) : Option State :=
  if (!lane && (running s.cur).isSome) || !(longOuts s.cur).isEmpty then some s
  else if s.cur.handler then none
  else
    match writeSaveArea s 0 0 0 with
    | .busy t => some { t with cur := s.cur }
    | _ => none

/-- A trap of an instruction that has an effect f beside it: the effect is made when the trap is taken, and not while it waits. -/
def trapAfter (f : State → State) (s : State) (lane : Bool) (trap : State → State) : State :=
  match trapWaits s lane with
  | some t => stall t
  | none => trap (f s)

/-- A trap of the scalar instruction at `pc` (R326). -/
def scalarTrap (s : State) (cause : Nat) (tval : W64) : State :=
  takeTrap (modCur s fun g => { g with wait := .none }) false 0 cause tval s.cur.pc

/-- A trap of the lane instruction at the head clause's position (R41, R326). -/
def laneTrap (s : State) (cause : Nat) (tval : W64) : State :=
  let idx := match running s.cur with
    | some e => e.pos
    | none => 15
  takeTrap s true idx cause tval s.cur.pc

/-- The illegal-instruction trap of a scalar instruction: `tval` holds its word (R137). -/
def illegalScalar (i : Instr) (s : State) : State := scalarTrap s 0x01 (illegalTval i)

/-- The illegal-instruction trap of a lane instruction: `tval` holds bits 95:32 (R137). -/
def illegalLane (i : Instr) (s : State) : State := laneTrap s 0x01 (illegalTval i)

/-! ### Returning (R330) -/

/-- A number read from a save area. -/
def areaNat (bs : List Byte) (off n : Nat) : Nat := leValue ((bs.drop off).take n)

/-- A `fmt` image has its reserved bits clear (R330). -/
def fmtImageOk (v : Nat) : Bool := v &&& fmtMask.toNat = v

/-- The header of a clause, fetched through the lane code path. -/
def headerAt (s : State) (addr : W64) : Option ClauseHeader :=
  match fetchWords s .laneFetch addr 3 with
  | .ok (bs, _) => decodeHeader (laneWordOf bs)
  | .error _ => none

/-- The kind of a saved entry (R329). -/
def unpackKind : Nat → QKind
  | 1 => .vput
  | 2 => .setp
  | 3 => .prng
  | 4 => .fewait
  | _ => .clause

/-- A saved clause entry (R329). -/
def areaClause (s : State) (bs : List Byte) (o : Nat) : QEntry :=
  let addr : W64 := BitVec.ofNat 64 (areaNat bs o 8)
  let base : QEntry :=
    { kind := .clause, addr := addr, mask := BitVec.ofNat 32 (areaNat bs (o + 8) 4),
      fmt := BitVec.ofNat 64 (areaNat bs (o + 16) 8), asid := s.cur.asid, ptbase := s.cur.ptbase }
  if areaNat bs (o + 12) 1 < 0x80 then base
  else
    match headerAt s addr with
    | none => base
    | some h =>
      { base with started := true, pos := areaNat bs (o + 12) 1 % 16, count := h.count, setA := h.setA, setB := h.setB,
                  helper := h.helper, fewait := BitVec.ofNat 64 (areaNat bs (o + 24) 8) }

/-- Queue entry i of a save area (R329). -/
def areaEntry (s : State) (bs : List Byte) (i : Nat) : QEntry :=
  let o := 0x240 + 32 * i
  let addr : W64 := BitVec.ofNat 64 (areaNat bs o 8)
  let target : BitVec 16 := BitVec.ofNat 16 (areaNat bs (o + 14) 2)
  match unpackKind (areaNat bs (o + 13) 1) with
  | .clause => areaClause s bs o
  | .vput => { kind := .vput, addr := addr, target := target }
  | .setp => { kind := .setp, addr := addr, target := target }
  | .prng => { kind := .prng, addr := addr }
  | .fewait => { kind := .fewait, addr := addr }

/-- The offset of the first malformed field of queue entry i, if any (R330). A clause that has started, or whose index is not 0, and
whose header cannot be read has its index beyond any count (DEDUCED, log 17). -/
def entryMalformed (s : State) (bs : List Byte) (i : Nat) : Option Nat :=
  let o := 0x240 + 32 * i
  let pos := areaNat bs (o + 12) 1
  let kind := areaNat bs (o + 13) 1
  let target := areaNat bs (o + 14) 2
  if natBits pos 6 4 ≠ 0 then some (o + 12)
  else if kind = 0 && pos ≠ 0
      && (match headerAt s (BitVec.ofNat 64 (areaNat bs o 8)) with
          | none => true
          | some h => h.count ≤ pos % 16) then some (o + 12)
  else if kind > 4 then some (o + 13)
  else if (kind = 1 && natBits target 15 13 ≠ 0) || (kind = 2 && natBits target 15 3 ≠ 0) then some (o + 14)
  else if kind = 0 && !fmtImageOk (areaNat bs (o + 16) 8) then some (o + 16)
  else none

/-- The offset of the first malformed field of a save area, if any (R330). -/
def areaMalformed (s : State) (bs : List Byte) : Option Nat :=
  if areaNat bs 0x000 8 ≥ 2 ^ 13 then some 0x000
  else
    match (List.range 12).find? fun i => areaNat bs (0x018 + i) 1 > 65 with
    | some i => some (0x018 + i)
    | none =>
      if areaNat bs 0x028 1 > 32 then some 0x028
      else if !fmtImageOk (areaNat bs 0x200 8) then some 0x200
      else if areaNat bs 0x220 4 > 4 then some 0x220
      else
        match (List.range (areaNat bs 0x220 4)).findSome? fun i => entryMalformed s bs i with
        | some o => some o
        | none =>
          ((List.range (areaNat bs 0x028 1)).find? fun j => !fmtImageOk (areaNat bs (0x408 + 16 * j) 8)).map
            fun j => 0x408 + 16 * j

/-- The group with the fields of a save area restored (R330). -/
def restoreArea (s : State) (bs : List Byte) (g : Group) : Group :=
  let ys := (List.range 32).flatMap fun l =>
    [(yKey 0 l, (BitVec.ofNat 32 (areaNat bs (0x100 + 8 * l) 4) : W32)),
     (yKey 1 l, (BitVec.ofNat 32 (areaNat bs (0x104 + 8 * l) 4) : W32))]
  let tpc : W64 := BitVec.ofNat 64 (areaNat bs 0x008 8)
  { laneSetAll g ys with
    tcause := BitVec.ofNat 64 (areaNat bs 0x000 8)
    tpc := tpc
    tval := BitVec.ofNat 64 (areaNat bs 0x010 8)
    flags := vtab 12 fun i => areaNat bs (0x018 + i) 1
    amask := BitVec.ofNat 32 (areaNat bs 0x024 4)
    bctr := BitVec.ofNat 16 (areaNat bs 0x02A 2)
    fmt := BitVec.ofNat 64 (areaNat bs 0x200 8)
    queue := (List.range (areaNat bs 0x220 4)).map (areaEntry s bs)
    mstack := ((List.range (areaNat bs 0x028 1)).map fun j =>
      { mask := BitVec.ofNat 32 (areaNat bs (0x400 + 16 * j) 4)
        taken := BitVec.ofNat 32 (areaNat bs (0x404 + 16 * j) 4)
        fmt := BitVec.ofNat 64 (areaNat bs (0x408 + 16 * j) 8) : MaskEntry }).reverse
    handler := false
    wait := if tpc = g.tpc then g.heldWait else .none
    heldWait := .none
    pc := alignPc tpc }

/-- The byte ranges of a save area that the fields TRET reads occupy (R330). -/
def areaNamed (bs : List Byte) : List (Nat × Nat) :=
  [(0x000, 0x2C), (0x100, 0x108), (0x220, 4), (0x240, 32 * min 4 (areaNat bs 0x220 4)),
   (0x400, 16 * min 32 (areaNat bs 0x028 1))]

/-- Why the read of a save area fails before its fields are looked at: its place, a dead home, a link that is down (R80, R351, R398). -/
def areaErr (s : State) (r : Run) : Option XErr :=
  match r.place with
  | .stacked _ _ | .far => if homeDead s r.pa then some .poison else none
  | .scratch _ _ _ => none
  | .host => if s.linkUp then none else some .poison
  | _ => loadErr s r

/-- A field that TRET reads is poisoned (R118, R330). -/
def areaPoisoned (s : State) (rs : List Run) (bs : List Byte) : Bool :=
  rs.any fun r => (areaNamed bs).any fun n => poisoned s (r.pa + n.1) n.2

/-- The return from a trap: the save area is read back, as loads of it would be, and the group leaves handler state (R330). -/
def returnTrap (s : State) : State :=
  let a := groupActor s.cur
  match (if s.cur.tsave.toNat % 4096 ≠ 0 then .error .trans else runs s a .load s.cur.tsave 4096) with
  | .error e => scalarTrap s (errCause .load e) s.cur.tsave
  | .ok rs =>
    match firstErr (areaErr s) rs with
    | some e => scalarTrap s (errCause .load e) s.cur.tsave
    | none =>
      if runsBusy s false rs then stall (askRuns s false rs)
      else
        let s1 := rs.foldl readMark (touchRuns s a .load s.cur.tsave rs)
        let bs := rs.flatMap (readPlace s1)
        if areaPoisoned s rs bs then scalarTrap s 0x0C s.cur.tsave
        else
          match areaMalformed s1 bs with
          | some off => scalarTrap s1 0x01 (BitVec.ofNat 64 off)
          | none => modCur s1 (restoreArea s1 bs)

end Sys2Proof.Machine
end

