-- ==== Sys2Proof/Machine/Alu.lean ====
section
/-!
DEFINITION. Alu.lean: scalar integer arithmetic, logic, immediates and bit fields (R154 to R162).
-/
namespace Sys2Proof.Machine

/-- 1 or 0 of a test. -/
def boolW (b : Bool) : W64 := if b then 1 else 0

/-- High 64 bits of the 128-bit signed product (R154). -/
def mulHigh (a b : W64) : W64 := ((a.signExtend 128 * b.signExtend 128) >>> 64).setWidth 64
/-- High 64 bits of the 128-bit unsigned product (R154). -/
def mulHighN (a b : W64) : W64 := ((a.setWidth 128 * b.setWidth 128) >>> 64).setWidth 64

/-- Signed quotient truncated toward zero (R154, R155). -/
def divS (a b : W64) : W64 := if b = 0 then -1 else BitVec.ofInt 64 (a.toInt.tdiv b.toInt)
/-- Unsigned quotient (R155). -/
def divU (a b : W64) : W64 := if b = 0 then -1 else BitVec.ofNat 64 (a.toNat / b.toNat)
/-- Signed remainder with the sign of a (R155). -/
def remS (a b : W64) : W64 := if b = 0 then a else BitVec.ofInt 64 (a.toInt.tmod b.toInt)
/-- Unsigned remainder (R155). -/
def remU (a b : W64) : W64 := if b = 0 then a else BitVec.ofNat 64 (a.toNat % b.toNat)

/-- The shift amount b<5:0> (R154). -/
def shAmt (b : W64) : Nat := b.toNat % 64

/-- Number of leading zero bits, from bit w-1 down (R154). -/
def clzFrom (x : Nat) : Nat → Nat
  | 0 => 0
  | n + 1 => if x.testBit n then 0 else 1 + clzFrom x n

/-- Number of one bits below bit w (R154). -/
def popFrom (x : Nat) : Nat → Nat
  | 0 => 0
  | n + 1 => (if x.testBit n then 1 else 0) + popFrom x n

/-- The result of ADD (R154). -/
def aluAdd (a b : W64) : W64 := a + b
/-- ADD (R154). -/
def execAdd (d a b : BitVec 6) (s : State) : Out := .next (retS s d (aluAdd (sreg s a) (sreg s b)))

/-- The result of SUB (R154). -/
def aluSub (a b : W64) : W64 := a - b
/-- SUB (R154). -/
def execSub (d a b : BitVec 6) (s : State) : Out := .next (retS s d (aluSub (sreg s a) (sreg s b)))

/-- The result of MUL (R154). -/
def aluMul (a b : W64) : W64 := a * b
/-- MUL (R154). -/
def execMul (d a b : BitVec 6) (s : State) : Out := .next (retS s d (aluMul (sreg s a) (sreg s b)))

/-- The result of MULH (R154). -/
def aluMulh (a b : W64) : W64 := mulHigh a b
/-- MULH (R154). -/
def execMulh (d a b : BitVec 6) (s : State) : Out := .next (retS s d (aluMulh (sreg s a) (sreg s b)))

/-- The result of MULHN (R154). -/
def aluMulhn (a b : W64) : W64 := mulHighN a b
/-- MULHN (R154). -/
def execMulhn (d a b : BitVec 6) (s : State) : Out := .next (retS s d (aluMulhn (sreg s a) (sreg s b)))

/-- The result of DIV (R155). -/
def aluDiv (a b : W64) : W64 := divS a b
/-- DIV (R155). -/
def execDiv (d a b : BitVec 6) (s : State) : Out := .next (retS s d (aluDiv (sreg s a) (sreg s b)))

/-- The result of DIVN (R155). -/
def aluDivn (a b : W64) : W64 := divU a b
/-- DIVN (R155). -/
def execDivn (d a b : BitVec 6) (s : State) : Out := .next (retS s d (aluDivn (sreg s a) (sreg s b)))

/-- The result of REM (R155). -/
def aluRem (a b : W64) : W64 := remS a b
/-- REM (R155). -/
def execRem (d a b : BitVec 6) (s : State) : Out := .next (retS s d (aluRem (sreg s a) (sreg s b)))

/-- The result of REMN (R155). -/
def aluRemn (a b : W64) : W64 := remU a b
/-- REMN (R155). -/
def execRemn (d a b : BitVec 6) (s : State) : Out := .next (retS s d (aluRemn (sreg s a) (sreg s b)))

/-- The result of AND (R154). -/
def aluAnd (a b : W64) : W64 := a &&& b
/-- AND (R154). -/
def execAnd (d a b : BitVec 6) (s : State) : Out := .next (retS s d (aluAnd (sreg s a) (sreg s b)))

/-- The result of OR (R154). -/
def aluOr (a b : W64) : W64 := a ||| b
/-- OR (R154). -/
def execOr (d a b : BitVec 6) (s : State) : Out := .next (retS s d (aluOr (sreg s a) (sreg s b)))

/-- The result of XOR (R154). -/
def aluXor (a b : W64) : W64 := a ^^^ b
/-- XOR (R154). -/
def execXor (d a b : BitVec 6) (s : State) : Out := .next (retS s d (aluXor (sreg s a) (sreg s b)))

/-- The result of SHL (R154). -/
def aluShl (a b : W64) : W64 := a <<< shAmt b
/-- SHL (R154). -/
def execShl (d a b : BitVec 6) (s : State) : Out := .next (retS s d (aluShl (sreg s a) (sreg s b)))

/-- The result of SHR (R154). -/
def aluShr (a b : W64) : W64 := a >>> shAmt b
/-- SHR (R154). -/
def execShr (d a b : BitVec 6) (s : State) : Out := .next (retS s d (aluShr (sreg s a) (sreg s b)))

/-- The result of SHA (R154). -/
def aluSha (a b : W64) : W64 := a.sshiftRight (shAmt b)
/-- SHA (R154). -/
def execSha (d a b : BitVec 6) (s : State) : Out := .next (retS s d (aluSha (sreg s a) (sreg s b)))

/-- The result of MIN (R154). -/
def aluMin (a b : W64) : W64 := if a.slt b then a else b
/-- MIN (R154). -/
def execMin (d a b : BitVec 6) (s : State) : Out := .next (retS s d (aluMin (sreg s a) (sreg s b)))

/-- The result of MAX (R154). -/
def aluMax (a b : W64) : W64 := if a.slt b then b else a
/-- MAX (R154). -/
def execMax (d a b : BitVec 6) (s : State) : Out := .next (retS s d (aluMax (sreg s a) (sreg s b)))

/-- The result of MINN (R154). -/
def aluMinn (a b : W64) : W64 := if a.ult b then a else b
/-- MINN (R154). -/
def execMinn (d a b : BitVec 6) (s : State) : Out := .next (retS s d (aluMinn (sreg s a) (sreg s b)))

/-- The result of MAXN (R154). -/
def aluMaxn (a b : W64) : W64 := if a.ult b then b else a
/-- MAXN (R154). -/
def execMaxn (d a b : BitVec 6) (s : State) : Out := .next (retS s d (aluMaxn (sreg s a) (sreg s b)))

/-- The result of CMP.EQ (R154). -/
def aluCmpEq (a b : W64) : W64 := boolW (a = b)
/-- CMP.EQ (R154). -/
def execCmpEq (d a b : BitVec 6) (s : State) : Out := .next (retS s d (aluCmpEq (sreg s a) (sreg s b)))

/-- The result of CMP.NE (R154). -/
def aluCmpNe (a b : W64) : W64 := boolW (a ≠ b)
/-- CMP.NE (R154). -/
def execCmpNe (d a b : BitVec 6) (s : State) : Out := .next (retS s d (aluCmpNe (sreg s a) (sreg s b)))

/-- The result of CMP.LT (R154). -/
def aluCmpLt (a b : W64) : W64 := boolW (a.slt b)
/-- CMP.LT (R154). -/
def execCmpLt (d a b : BitVec 6) (s : State) : Out := .next (retS s d (aluCmpLt (sreg s a) (sreg s b)))

/-- The result of CMP.LE (R154). -/
def aluCmpLe (a b : W64) : W64 := boolW (a.sle b)
/-- CMP.LE (R154). -/
def execCmpLe (d a b : BitVec 6) (s : State) : Out := .next (retS s d (aluCmpLe (sreg s a) (sreg s b)))

/-- The result of CMP.LTN (R154). -/
def aluCmpLtn (a b : W64) : W64 := boolW (a.ult b)
/-- CMP.LTN (R154). -/
def execCmpLtn (d a b : BitVec 6) (s : State) : Out := .next (retS s d (aluCmpLtn (sreg s a) (sreg s b)))

/-- The result of CMP.LEN (R154). -/
def aluCmpLen (a b : W64) : W64 := boolW (a.ule b)
/-- CMP.LEN (R154). -/
def execCmpLen (d a b : BitVec 6) (s : State) : Out := .next (retS s d (aluCmpLen (sreg s a) (sreg s b)))

/-- CLZ (R154). -/
def execClz (d a : BitVec 6) (s : State) : Out := .next (retS s d (BitVec.ofNat 64 (clzFrom (sreg s a).toNat 64)))
/-- POPC (R154). -/
def execPopc (d a : BitVec 6) (s : State) : Out := .next (retS s d (BitVec.ofNat 64 (popFrom (sreg s a).toNat 64)))

/-- ADDI (R156). -/
def execAddi (d a : BitVec 6) (imm : BitVec 14) (s : State) : Out := .next (retS s d (sreg s a + sext64 imm))
/-- ANDI (R156). -/
def execAndi (d a : BitVec 6) (imm : BitVec 14) (s : State) : Out := .next (retS s d (sreg s a &&& sext64 imm))
/-- ORI (R156). -/
def execOri (d a : BitVec 6) (imm : BitVec 14) (s : State) : Out := .next (retS s d (sreg s a ||| sext64 imm))
/-- XORI (R156). -/
def execXori (d a : BitVec 6) (imm : BitVec 14) (s : State) : Out := .next (retS s d (sreg s a ^^^ sext64 imm))
/-- SHI.SHL (R157). -/
def execShiShl (d a n : BitVec 6) (s : State) : Out := .next (retS s d (sreg s a <<< n.toNat))
/-- SHI.SHR (R157). -/
def execShiShr (d a n : BitVec 6) (s : State) : Out := .next (retS s d (sreg s a >>> n.toNat))
/-- SHI.SHA (R157). -/
def execShiSha (d a n : BitVec 6) (s : State) : Out := .next (retS s d ((sreg s a).sshiftRight n.toNat))
/-- CMPI.EQ (R157). -/
def execCmpiEq (d a : BitVec 6) (v : BitVec 11) (s : State) : Out := .next (retS s d (aluCmpEq (sreg s a) (sext64 v)))
/-- CMPI.NE (R157). -/
def execCmpiNe (d a : BitVec 6) (v : BitVec 11) (s : State) : Out := .next (retS s d (aluCmpNe (sreg s a) (sext64 v)))
/-- CMPI.LT (R157). -/
def execCmpiLt (d a : BitVec 6) (v : BitVec 11) (s : State) : Out := .next (retS s d (aluCmpLt (sreg s a) (sext64 v)))
/-- CMPI.LE (R157). -/
def execCmpiLe (d a : BitVec 6) (v : BitVec 11) (s : State) : Out := .next (retS s d (aluCmpLe (sreg s a) (sext64 v)))
/-- CMPI.LTN (R157). -/
def execCmpiLtn (d a : BitVec 6) (v : BitVec 11) (s : State) : Out := .next (retS s d (aluCmpLtn (sreg s a) (sext64 v)))
/-- CMPI.LEN (R157). -/
def execCmpiLen (d a : BitVec 6) (v : BitVec 11) (s : State) : Out := .next (retS s d (aluCmpLen (sreg s a) (sext64 v)))

/-- LHI: the immediate in bits 31:12, sign-extended from bit 31 (R158). -/
def execLhi (d : BitVec 6) (imm : BitVec 20) (s : State) : Out := .next (retS s d (sext64 (imm ++ 0#12)))

/-- An address a number of signed words away (R123). -/
def pcRel {w : Nat} (pc : W64) (disp : BitVec w) : W64 := pc + (sext64 disp <<< 2)

/-- ADDPC (R158). -/
def execAddpc (d : BitVec 6) (imm : BitVec 20) (s : State) : Out := .next (retS s d (pcRel s.cur.pc imm))

/-- The field of `len` bits at `pos` (R159). -/
def bfGet (x : W64) (pos len : Nat) : Nat := (x.toNat >>> pos) % 2 ^ len

/-- x with its field of `len` bits at `pos` replaced by the low bits of v (R159). -/
def bfPut (x : W64) (pos len : Nat) (v : Nat) : W64 :=
  (x &&& ~~~(BitVec.ofNat 64 ((2 ^ len - 1) <<< pos))) ||| BitVec.ofNat 64 ((v % 2 ^ len) <<< pos)

/-- A number of `len` bits sign-extended to 64 (R150). -/
def sextNat (v len : Nat) : W64 := if v.testBit (len - 1) then BitVec.ofInt 64 ((v : Int) - 2 ^ len) else BitVec.ofNat 64 v

/-- BFX: a field that passes bit 63 is unassigned (R159). -/
def execBfx (d a p l : BitVec 6) (s : State) : Out :=
  if legalAt staticFmt (.bfx d a p l) then .next (retS s d (BitVec.ofNat 64 (bfGet (sreg s a) p.toNat (l.toNat + 1))))
  else .next (illegalScalar (.bfx d a p l) s)

/-- BFXN (R159). -/
def execBfxn (d a p l : BitVec 6) (s : State) : Out :=
  if legalAt staticFmt (.bfxn d a p l) then
    .next (retS s d (sextNat (bfGet (sreg s a) p.toNat (l.toNat + 1)) (l.toNat + 1)))
  else .next (illegalScalar (.bfxn d a p l) s)

/-- BFI reads sd as a source (R159). -/
def execBfi (d a p l : BitVec 6) (s : State) : Out :=
  if legalAt staticFmt (.bfi d a p l) then
    .next (retS s d (bfPut (sreg s d) p.toNat (l.toNat + 1) (sreg s a).toNat))
  else .next (illegalScalar (.bfi d a p l) s)

/-- MADD (R160). -/
def execMadd (d a b c : BitVec 6) (s : State) : Out := .next (retS s d (sreg s a * sreg s b + sreg s c))
/-- MSUB (R160). -/
def execMsub (d a b c : BitVec 6) (s : State) : Out := .next (retS s d (sreg s c - sreg s a * sreg s b))

/-- TADDR: base, row, pitch in sc<63:32> and column in sc<31:0> (R161). -/
def execTaddr (d a b c : BitVec 6) (w : BitVec 2) (s : State) : Out :=
  let x := sreg s c
  .next (retS s d (sreg s a + ((sreg s b * zext64 (x.extractLsb' 32 32) + zext64 (x.extractLsb' 0 32)) <<< w.toNat)))

/-- SEL (R162). -/
def execSel (d a b c : BitVec 6) (s : State) : Out := .next (retS s d (if sreg s c ≠ 0 then sreg s a else sreg s b))

/-! ### Branches and jumps (R163, R164) -/

/-- Continue at an address. -/
def jumpTo (s : State) (target : W64) : State := modCur s fun g => { g with pc := target }

/-- J (R163). -/
def execJ (disp : BitVec 26) (s : State) : Out := .next (jumpTo s (pcRel s.cur.pc disp))
/-- JAL: links pc + 4 in s62 (R163). -/
def execJal (disp : BitVec 26) (s : State) : Out := .next (jumpTo (retS s 62 (s.cur.pc + 4)) (pcRel s.cur.pc disp))

/-- JR: a target with bits 1:0 nonzero is misaligned (R119, R164). -/
def execJr (a : BitVec 6) (s : State) : Out :=
  let t := sreg s a
  if t.extractLsb' 0 2 ≠ 0 then .next (scalarTrap s 0x0D t) else .next (jumpTo s t)

/-- JALR: the link is written after sa is read, and not when the target is misaligned (R164). -/
def execJalr (d a : BitVec 6) (s : State) : Out :=
  let t := sreg s a
  if t.extractLsb' 0 2 ≠ 0 then .next (scalarTrap s 0x0D t) else .next (jumpTo (retS s d (s.cur.pc + 4)) t)

/-- BZ (R163). -/
def execBz (a : BitVec 6) (disp : BitVec 20) (s : State) : Out :=
  .next (if sreg s a = 0 then jumpTo s (pcRel s.cur.pc disp) else advance s)
/-- BNZ (R163). -/
def execBnz (a : BitVec 6) (disp : BitVec 20) (s : State) : Out :=
  .next (if sreg s a ≠ 0 then jumpTo s (pcRel s.cur.pc disp) else advance s)

end Sys2Proof.Machine
end

