-- ==== Sys2Proof/Machine/Codec.lean ====
section
/-!
DEFINITION. Codec.lean: the bytes of a slot on a plane and of a flit's check: CRC-32C, the header, the payload of each kind, and the
frame a reader works out for a re-sent slot (R337, R341, R346, R367, R407).
-/
namespace Sys2Proof.Machine

/-! ### CRC-32C (R337, R407) -/

/-- One bit of the division by the Castagnoli polynomial, reflected. -/
def crcBit (c : W32) : W32 := if c.getLsbD 0 then (c >>> 1) ^^^ 0x82F63B78 else c >>> 1

/-- One byte of the division. -/
def crcByte (c : W32) (b : Byte) : W32 := (List.range 8).foldl (fun c _ => crcBit c) (c ^^^ b.setWidth 32)

/-- CRC-32C of some bytes (R337). -/
def crc32c (bs : List Byte) : W32 := ~~~(bs.foldl crcByte 0xFFFFFFFF)

/-! ### Slots (R337) -/

/-- The KIND of a message (R337). -/
def msgKind : Msg → Nat
  | .gets _ _ _ _ => 1
  | .getm _ _ _ _ => 2
  | .upgrade _ _ _ _ => 3
  | .putm _ _ _ => 4
  | .inv _ _ => 5
  | .poison _ _ => 6
  | .bcast _ _ _ => 7
  | .tileDesc _ _ _ _ | .tileChunk _ _ _ => 8
  | .tlbinv _ => 9
  | .ack _ => 10
  | .nack _ _ => 11
  | .hold _ => 12
  | .replay _ _ => 13
  | .other k => k

/-- A kind every reader drops and counts as a CRC error (R337). -/
def reservedKind (m : Msg) : Bool := decide (14 ≤ msgKind m % 16)

/-- The LINE field: the line's address bits 51:10, its plane giving bits 9:7; a delivery number and a chunk of a tile (R337, R367). -/
def msgLine : Msg → Nat
  | .gets l _ _ _ | .getm l _ _ _ | .upgrade l _ _ _ | .putm l _ _ | .inv l _ | .poison l _ | .bcast l _ _ => l / 8
  | .tileDesc n _ _ _ => n * 2 ^ 32
  | .tileChunk n i _ => n * 2 ^ 32 + i
  | _ => 0

/-- The MASK field; all ones where the whole payload is meant, 0 for kinds that name no words (R337, R367, log 102). -/
def msgMask : Msg → W32
  | .gets _ m _ _ | .getm _ m _ _ | .upgrade _ m _ _ | .putm _ m _ | .inv _ m | .poison _ m => m
  | .bcast _ _ _ | .tileDesc _ _ _ _ | .tileChunk _ _ _ => 0xFFFFFFFF
  | _ => 0

/-- The VER field (R337, R367). -/
def msgVer : Msg → Nat
  | .putm _ _ v => v % 256
  | .tileDesc _ _ _ _ => 1
  | _ => 0

/-- FRAME8: the low bits of the frame of a slot's first sending (R337). -/
def frame8 (x : Slot) : Nat := x.frame % 256

/-- Header bits 95:0 as bytes (R337). -/
def headerBytes (x : Slot) : List Byte :=
  leBytes (msgLine x.msg % 2 ^ 42 + 2 ^ 44 * msgVer x.msg + 2 ^ 52 * frame8 x + 2 ^ 60 * (msgMask x.msg).toNat
    + 2 ^ 92 * (msgKind x.msg % 16)) 12

/-- Some bytes, and zeros up to the end of the payload. -/
def padded (bs : List Byte) : List Byte := bs ++ .replicate (128 - bs.length) 0

/-- The bytes that carry a request: core and agent number (R337). -/
def requestBytes (core agent : Nat) : List Byte := leBytes (core % 8 + 8 * agent) 2

/-- The stamp of a TLBINV that its writer still keeps, as an ACK names it (R337, log 102). -/
def stampBytes (s : State) (id : Nat) : List Byte :=
  match s.invals.find? fun i => i.id = id with
  | some i => leBytes (Config.stampWord i.frame i.writer 0).toNat 8
  | none => leBytes 0 8

/-- The payload of a message (R337, R346, R367). A PutM carries the words the holder has, which are the latest (log 9). -/
def msgPayload (s : State) (m : Msg) : List Byte :=
  padded <| match m with
    | .gets _ _ c a | .getm _ _ c a | .upgrade _ _ c a => requestBytes c a
    | .putm l m _ => (List.range 32).flatMap fun i => if m.getLsbD i then memRead s (l * 128 + 4 * i) 4 else leBytes 0 4
    | .bcast _ bs _ | .tileChunk _ _ bs => bs
    | .tileDesc _ pn mask n => leBytes pn.toNat 8 ++ leBytes mask.toNat 8 ++ leBytes n 2
    | .tlbinv id =>
      match s.invals.find? fun i => i.id = id with
      | some i =>
        match i.asid with
        | none => leBytes 0 2 ++ [1]
        | some a => leBytes a.toNat 2 ++ leBytes 0 6 ++ leBytes (i.lo % 2 ^ 36) 8 ++ leBytes i.len 8
      | none => []
    | .ack id => stampBytes s id
    | .nack w f => leBytes w 8 ++ leBytes f 8
    | .hold on => [if on then 1 else 0]
    | .replay a b => leBytes a 8 ++ leBytes b 8
    | .inv _ _ | .poison _ _ | .other _ => []

/-- A slot as its writer sends it: header, check, payload (R337). -/
def slotBytes (s : State) (x : Slot) : List Byte :=
  let c := crc32c (headerBytes x ++ msgPayload s x.msg)
  headerBytes x ++ leBytes c.toNat 4 ++ msgPayload s x.msg

/-- A reader can read the bytes of a slot: the check holds (R337). -/
def slotReadable (bs : List Byte) : Bool :=
  bs.length = 144 && leValue ((bs.drop 12).take 4) = (crc32c (bs.take 12 ++ bs.drop 16)).toNat

/-! ### Stamps of re-sent slots (R341) -/

/-- The frame a reader works out for a re-sent slot: the first from the start of the REPLAY range whose low bits are FRAME8 (R341). -/
def recoverFrame (first f8 : Nat) : Nat := first + (f8 + 256 - first % 256) % 256

/-! ### Flits (R407) -/

/-- The header of a flit (R407). -/
def flitHeader (x : SentFlit) : List Byte :=
  leBytes (x.seq % 2 ^ 24 + 2 ^ 24 * (x.ack % 2 ^ 24) + 2 ^ 48 * (x.sack % 2 ^ 16) + 2 ^ 64 * (x.epoch % 2 ^ 8) + 2 ^ 72 * (x.kind % 16)
    + 2 ^ 76 * (x.lane % 32)) 12

/-- The 256 bytes of a flit: header, payload, CRC-32C (R407). -/
def flitBytes (x : SentFlit) : List Byte :=
  let b := flitHeader x ++ (x.payload ++ List.replicate (240 - x.payload.length) 0).take 240
  b ++ leBytes (crc32c b).toNat 4

end Sys2Proof.Machine
end

