-- ==== Sys2Proof/Machine/FMathFn.lean ====
section
/-!
DEFINITION. FMathFn.lean: the functions of FMATH as exact values for one rounding (R206). A quotient or a root carries an
exact floor and an odd last bit where it is inexact; a transcendental value is taken to 640 binary places with an odd last
bit (log 19: no result of a type of at most 24 bits lies that near a rounding boundary).
-/
namespace Sys2Proof.Machine

/-- Fraction bits of the working precision. -/
def wp : Nat := 640

/-- A magnitude q / 2^k, with an odd last bit where something was dropped. -/
def sticky (neg : Bool) (q : Nat) (exact : Bool) (e : Int) : Num := .fin neg (2 * q + (if exact then 0 else 1)) (e - 1)

/-- The quotient of two magnitudes, n / d * 2^e. -/
def quotNum (neg : Bool) (n d : Nat) (e : Int) : Num :=
  let q := (n <<< wp) / d
  sticky neg q ((n <<< wp) % d = 0) (e - wp)

/-- Integer square root, one bit at a time from bit k - 1 down. -/
def isqrtBits (n : Nat) : Nat → Nat → Nat
  | 0, r => r
  | k + 1, r => isqrtBits n k (if (r + 2 ^ k) * (r + 2 ^ k) ≤ n then r + 2 ^ k else r)

/-- Floor of the square root. -/
def isqrt (n : Nat) : Nat := isqrtBits n (n.log2 / 2 + 1) 0

/-- m * 2^e with an even exponent. -/
def evenExp (m : Nat) (e : Int) : Nat × Int := if e % 2 = 0 then (m, e) else (2 * m, e - 1)

/-- The square root of m * 2^e. -/
def sqrtNum (m : Nat) (e : Int) : Num :=
  let (m, e) := evenExp m e
  let n := m <<< (2 * wp)
  let r := isqrt n
  sticky false r (r * r = n) (e / 2 - wp)

/-- The reciprocal square root of m * 2^e. -/
def rsqrtNum (m : Nat) (e : Int) : Num :=
  let (m, e) := evenExp m e
  let n := 1 <<< (2 * wp)
  let r := isqrt (n / m)
  sticky false r (r * r * m = n) (-(e / 2) - wp)

/-- The series z + z^3/3 + z^5/5 + ... in fixed point, alternating where `alt`: `p` is the power, `z2` the square. -/
def oddSeries (alt : Bool) (z2 : Nat) : Nat → Nat → Nat → Int
  | 0, _, _ => 0
  | k + 1, n, p => (p / n : Nat) + (if alt then -1 else 1) * oddSeries alt z2 k (n + 2) ((p * z2) >>> wp)

/-- atanh(a / b) and atan(a / b) in fixed point, a / b at most 1/3. -/
def atanhFix (a b : Nat) : Int := let z := (a <<< wp) / b; oddSeries false ((z * z) >>> wp) 210 1 z
def atanFix (a b : Nat) : Int := let z := (a <<< wp) / b; oddSeries true ((z * z) >>> wp) 210 1 z

/-- ln 2 and pi in fixed point. -/
def ln2Fix : Nat := (2 * atanhFix 1 3).toNat
def piFix : Nat := (16 * atanFix 1 5 - 4 * atanFix 1 239).toNat

/-- The exponential series of a fixed-point x at most 1: `t` is the term. -/
def expSeries (x : Nat) : Nat → Nat → Nat → Nat
  | 0, _, _ => 0
  | k + 1, n, t => t + expSeries x k (n + 1) (((t * x) >>> wp) / n)

/-- 2^f for a fixed-point f in [0, 1). -/
def exp2Fix (f : Nat) : Nat := expSeries ((f * ln2Fix) >>> wp) 130 1 (1 <<< wp)

/-- The sine series of a fixed-point x: terms x^n / n!, alternating. -/
def sinSeries (x2 : Nat) : Nat → Nat → Nat → Int
  | 0, _, _ => 0
  | k + 1, n, t => (t : Int) - sinSeries x2 k (n + 2) (((t * x2) >>> wp) / ((n + 1) * (n + 2)))

/-- sin(pi * f) for a fixed-point f in [0, 1/2]. -/
def sinpiFix (f : Nat) : Nat :=
  let x := (f * piFix) >>> wp
  (sinSeries ((x * x) >>> wp) 70 1 x).toNat

/-- A finite value in fixed point, exact for exponents from -640 up. -/
def fixOf (m : Nat) (e : Int) : Nat := if 0 ≤ e + wp then m <<< (e + wp).toNat else m >>> (-(e + wp)).toNat

/-- Whether m * 2^e is an integer. -/
def isInteger (m : Nat) (e : Int) : Bool := 0 ≤ e || m % 2 ^ (-e).toNat = 0

/-- 2^a of a finite a: exact where a is an integer; beyond 2^12 only overflow or underflow is left. -/
def exp2Num (neg : Bool) (m : Nat) (e : Int) : Num :=
  if m = 0 then .fin false 1 0
  else if expOf m e ≥ 12 then (if neg then sticky false 1 false (-4096) else .fin false 1 4096)
  else
    let f := fixOf m e
    let whole : Int := if neg then -((f >>> wp : Nat) : Int) else (f >>> wp : Nat)
    let frac := f % 2 ^ wp
    if frac = 0 then .fin false 1 whole
    else if neg then sticky false (exp2Fix (2 ^ wp - frac)) false (whole - 1 - wp)
    else sticky false (exp2Fix frac) false (whole - wp)

/-- log2 of a positive m * 2^e. -/
def log2Num (m : Nat) (e : Int) : Num :=
  let k := expOf m e
  if m = 2 ^ m.log2 then .fin (k < 0) k.natAbs 0
  else
    let one := 2 ^ m.log2
    let y := (2 * atanhFix (m - one) (m + one)).toNat * 2 ^ wp / ln2Fix
    let v : Int := k * 2 ^ wp + y
    sticky (v < 0) (if v < 0 then v.natAbs - 1 else v.natAbs) false (-(wp : Int))

/-- sin(pi * x) of a finite x given as fixed point modulo 2: its sign and magnitude; exact at multiples of 1/2. -/
def sinTurn (f : Nat) : Num :=
  let f := f % 2 ^ (wp + 1)
  let neg := decide (2 ^ wp ≤ f)
  let g := f % 2 ^ wp
  let h := if 2 ^ (wp - 1) < g then 2 ^ wp - g else g
  if h = 0 then .fin false 0 0
  else if h = 2 ^ (wp - 1) then .fin neg 1 0
  else sticky neg (sinpiFix h) false (-(wp : Int))

/-- tanh of a positive m * 2^e. -/
def tanhNum (neg : Bool) (m : Nat) (e : Int) : Num :=
  if expOf m e ≥ 9 then sticky neg (2 ^ wp - 1) false (-(wp : Int))
  else
    let y := ((fixOf m e * 2) <<< wp) / ln2Fix
    let frac := y % 2 ^ wp
    let t := max 1 (if frac = 0 then (1 <<< wp) >>> (y >>> wp) else (exp2Fix (2 ^ wp - frac)) >>> ((y >>> wp) + 1))
    sticky neg (((2 ^ wp - t) <<< wp) / (2 ^ wp + t)) false (-(wp : Int))

/-- a / b (R63, R206). -/
def divNum (a b : Num) : Num × Nat :=
  match a, b with
  | .nan, _ => (.nan, 0)
  | _, .nan => (.nan, 0)
  | .inf _, .inf _ => (.nan, fNV)
  | .inf n, .fin k _ _ => (.inf (n != k), 0)
  | .fin n _ _, .inf k => (.fin (n != k) 0 0, 0)
  | .fin n m e, .fin k d h =>
    if d = 0 then (if m = 0 then (.nan, fNV) else (.inf (n != k), fDZ))
    else (quotNum (n != k) m d (e - h), 0)

/-- The functions 0 to 8 with their special cases (R206). -/
def fmathVal (fn : Nat) (a b : Num) : Num × Nat :=
  match fn, a with
  | 8, a => divNum a b
  | _, .nan => (.nan, 0)
  | 0, .inf n => (.fin n 0 0, 0)
  | 0, .fin n m e => if m = 0 then (.inf n, fDZ) else (quotNum n 1 m (-e), 0)
  | 1, .inf n => if n then (.nan, fNV) else (.fin false 0 0, 0)
  | 1, .fin n m e => if m = 0 then (.inf n, fDZ) else if n then (.nan, fNV) else (rsqrtNum m e, 0)
  | 2, .inf n => if n then (.nan, fNV) else (.inf false, 0)
  | 2, .fin n m e => if m = 0 then (.fin n 0 0, 0) else if n then (.nan, fNV) else (sqrtNum m e, 0)
  | 3, .inf n => if n then (.fin false 0 0, 0) else (.inf false, 0)
  | 3, .fin n m e => (exp2Num n m e, 0)
  | 4, .inf n => if n then (.nan, fNV) else (.inf false, 0)
  | 4, .fin n m e => if m = 0 then (.inf true, fDZ) else if n then (.nan, fNV) else (log2Num m e, 0)
  | 5, .inf _ => (.nan, fNV)
  | 5, .fin n m e =>
    if m = 0 || isInteger m e then (.fin n 0 0, 0)
    else
      match sinTurn (fixOf m e) with
      | .fin k q h => (.fin (n != k) q h, 0)
      | x => (x, 0)
  | 6, .inf _ => (.nan, fNV)
  | 6, .fin _ m e => if m = 0 then (.fin false 1 0, 0) else (sinTurn (fixOf m (min e 4) + 2 ^ (wp - 1)), 0)
  | 7, .inf n => (.fin n 1 0, 0)
  | _, .inf n => (.fin n 1 0, 0)
  | _, .fin n m e => if m = 0 then (.fin n 0 0, 0) else (tanhNum n m e, 0)

end Sys2Proof.Machine
end

