-- ==== Sys2Proof/Machine/ScalarSys.lean ====
section
/-!
DEFINITION. ScalarSys.lean: scalar instructions that act on the group's own state: SYS0, clauses, the mask stack, flags,
lane slots, fmt and fstat, special registers, fences, crew barriers and time (R172 to R191).
-/
namespace Sys2Proof.Machine

/-! ### SYS0 (R188 to R191) -/

/-- NOP (R188). -/
def execNop (s : State) : Out := .next (advance s)

/-- YIELD only lets other groups go first; it changes nothing else (R188). -/
def execYield (s : State) : Out := .next (advance s)

/-- ISYNC waits for earlier clauses, then discards what the group has fetched (R116). -/
def execIsync (s : State) : Out :=
  if laneEnded s.cur then .next (modCur (advance s) fun g => { g with isyncMark := s.hist.length }) else .next (stall s)

/-- The budget of a group's region has run out, and the region is not overrun yet (R324). -/
def overrunDue (s : State) (g : Group) : Bool :=
  match g.region with
  | some t => !g.regionOver && decide (t + 200000 ≤ s.time)
  | none => false

/-- The event of an overrun region, of the tick in which its budget ran out (R324, R430). -/
def postOverrun (s : State) (g : Group) : State :=
  { postEvent { s with time := g.region.getD 0 + 200000 }
      { typ := 0x83, status := 0x16, launch := g.key.launch, band := g.key.band, crew := g.key.crew, group := g.key.group,
        d1 := g.pc.toNat, d2 := 1 } with time := s.time }

/-- The region of a group becomes overrun where that is due: before whatever the group does next (R324). -/
def settleOverrun (s : State) (g : Group) : State :=
  if overrunDue s g then postOverrun (onGroupData s g.key fun g => { g with regionOver := true }) g else s

/-- NPBEGIN: a region inside a region is illegal (R191). -/
def execNpbegin (s : State) : Out :=
  match s.cur.region with
  | some _ => .next (illegalScalar .npbegin s)
  | none => .next (modCur (advance s) fun g => { g with region := some s.time, regionOver := false })

/-- NPEND: outside a region it is illegal (R191, R324). -/
def execNpend (s : State) : Out :=
  match s.cur.region with
  | none => .next (illegalScalar .npend s)
  | some _ => .next (modCur (advance (settleOverrun s s.cur)) fun g => { g with region := none, regionOver := false })

/-- Values of the main slots of a granule range (R39). -/
def granuleVals (m : Sparse 32) (first count : Nat) : Sparse 32 :=
  m.filter fun p => laneKey (8 * first) 0 ≤ p.1 && p.1 < laneKey (8 * (first + count)) 0

/-- Where a group's granule lies in the save area it fills from (R320). -/
def granuleBase (g : Group) (j : Nat) : W64 := BitVec.ofNat 64 (g.fillFrom + 1024 * j)

/-- The actor of a group's fills: the hardware, under the translation of the launch whose area it is (R38, R315). -/
def fillActor (g : Group) : Actor := { groupActor g with asid := g.fillAsid, ptbase := g.fillPt, priv := true }

/-- Fill an absent granule: 8 slots of 32 lanes from the save area; poison or a failed access gives its cause and its `tval`: the
address of the page that fails, and 0 for poison, for which no rule names one (R38, R78, R83, R86, R326, R351). -/
def fillGranule (s : State) (j : Nat) : Except (Nat × W64) State :=
  let a := fillActor s.cur
  match checkPages loadErr s a .load (granuleBase s.cur j) 1024 with
  | .error (c, va) => .error (c, if c = 0x0C then 0 else va)
  | .ok rs =>
    let s1 := touchRuns s a .load (granuleBase s.cur j) rs
    let bs := readRuns s1 rs
    let ws := (List.range 256).map fun i =>
      (laneKey (8 * j + i / 32) (i % 32), (BitVec.ofNat 32 (areaNat bs (4 * i) 4) : W32))
    .ok (modCur s1 fun g =>
      { laneSetAll g ws with absent := g.absent.filter (· ≠ j), lzfill := g.lzfill + 1 })

/-- Fill every absent granule among those named (R38). -/
def fillGranules (s : State) : List Nat → Except (Nat × W64) State
  | [] => .ok s
  | j :: r =>
    if s.cur.absent.contains j then
      match fillGranule s j with
      | .error e => .error e
      | .ok s1 => fillGranules s1 r
    else fillGranules s r

/-- A group ends; of its lane registers only a kept granule range stays (R189, R190). -/
def finishGroup (kept : Option (Nat × Nat)) (g : Group) : Group :=
  { g with
    status := .ended, region := none, regionOver := false, scOpen := g.scOpen.filter (·.use.later), mstack := [], flags := .replicate 12 0, wait := .none,
    lanes := (match kept with
      | none => []
      | some k => granuleVals g.lanes k.1 k.2),
    kept := kept }

/-- The group with its open matrix operations closed into a batch, once (R189). -/
def endBatch (g : Group) : Group := if g.wait = .ending then g else { closeBatch g with wait := .ending }

/-- END and ENDK have no more to wait for: every lane instruction and every batch has completed (R153, R189). -/
def endsNow (g : Group) : Bool := laneEnded g && laneComplete (endBatch g) && batchesDone (endBatch g)

/-- END and ENDK: close a batch once, wait until lane instructions and batches have completed, end (R189). -/
def endWith (kept : Option (Nat × Nat)) (s : State) : State :=
  if endsNow s.cur then modCur (settleOverrun s s.cur) fun g => finishGroup kept (endBatch g)
  else if laneEnded s.cur then modCur s endBatch
  else stall s

/-- END (R189). -/
def execEndGroup (s : State) : Out := .next (endWith none s)

/-- ENDK: the kept range must lie in the group's granules (R190); once the group may end those of it that are still absent are filled, and
a fill that fails traps here (R38, R153, DEDUCED, log 99). -/
def execEndk (a b : BitVec 6) (s : State) : Out :=
  let first := sreg s a
  let count := sreg s b
  if first.toNat ≥ 32 || count.toNat ≥ 64 then .next (illegalScalar (.endk a b) s)
  else if count = 0 then .next (endWith none s)
  else if first.toNat + count.toNat > s.cur.nslots / 8 then .next (scalarTrap s 0x06 first)
  else if !endsNow s.cur then .next (endWith none s)
  else
    match fillGranules s ((List.range count.toNat).map (first.toNat + ·)) with
    | .error c => .next (takeTrap s false 0 c.1 c.2 s.cur.pc)
    | .ok s1 => .next (endWith (some (first.toNat, count.toNat)) s1)

/-! ### Clauses (R172, R173) -/

/-- Append an entry to the lane queue, or wait while it holds four (R18). -/
def enqueue (s : State) (e : QEntry) : State :=
  if s.cur.queue.length < 4 then modCur (advance s) fun g => { g with queue := g.queue ++ [e] } else stall s

/-- A clause entry with the mask, `fmt` and translation in force (R18, R172). -/
def clauseEntry (g : Group) (index : Nat) : QEntry :=
  { kind := .clause, addr := g.lcb + BitVec.ofNat 64 (12 * index), mask := g.amask, fmt := g.fmt, asid := g.asid,
    ptbase := g.ptbase }

/-- CLAUSE (R172). -/
def execClause (imm : BitVec 20) (s : State) : Out := .next (enqueue s (clauseEntry s.cur imm.toNat))

/-- CLAUSER: an index beyond 20 bits is a bad clause (R173). -/
def execClauser (a : BitVec 6) (s : State) : Out :=
  let i := sreg s a
  if i.toNat ≥ 2 ^ 20 then .next (scalarTrap s 0x03 i) else .next (enqueue s (clauseEntry s.cur i.toNat))

/-! ### The mask stack (R25, R175, R176) -/

/-- The 32-bit mask of a predicate specifier (R175). -/
def specMask (g : Group) (n : BitVec 1) (p : BitVec 3) : W32 :=
  if n = 1 then ~~~(predMask g p.toNat) else predMask g p.toNat

/-- mpush(p) (R25). -/
def mpush (p : W32) (s : State) : State :=
  if s.cur.mstack.length ≥ 32 then scalarTrap s 0x05 0
  else modCur (advance s) fun g =>
    { g with mstack := { mask := g.amask, fmt := g.fmt, taken := g.amask &&& p } :: g.mstack, amask := g.amask &&& p }

/-- MPUSH of a predicate waits until earlier clauses have ended (R153, R176). -/
def execMpush (n : BitVec 1) (p : BitVec 3) (s : State) : Out :=
  if !legalAt staticFmt (.mpush n p) then .next (illegalScalar (.mpush n p) s)
  else if laneEnded s.cur then .next (mpush (specMask s.cur n p) s) else .next (stall s)

/-- MPUSH of a register: no wait (R176). -/
def execMpushRegister (a : BitVec 6) (s : State) : Out := .next (mpush ((sreg s a).setWidth 32) s)

/-- MELSE (R25). -/
def execMelse (s : State) : Out :=
  match s.cur.mstack with
  | [] => .next (scalarTrap s 0x05 0)
  | e :: _ => .next (modCur (advance s) fun g => { g with amask := e.mask &&& ~~~e.taken, fmt := e.fmt })

/-- MPOP (R25). -/
def execMpop (s : State) : Out :=
  match s.cur.mstack with
  | [] => .next (scalarTrap s 0x05 0)
  | e :: r => .next (modCur (advance s) fun g => { g with amask := e.mask, fmt := e.fmt, mstack := r })

/-- SETP: positioned in the lane stream; p0 may not be named (R176). -/
def execSetp (k : BitVec 3) (a : BitVec 6) (s : State) : Out :=
  if k = 0 then .next (illegalScalar (.setp k a) s)
  else .next (enqueue s { kind := .setp, addr := sreg s a, target := k.setWidth 16 })

/-- PMOV (R176). -/
def execPmov (d : BitVec 6) (n : BitVec 1) (p : BitVec 3) (s : State) : Out :=
  if !legalAt staticFmt (.pmov d n p) then .next (illegalScalar (.pmov d n p) s)
  else if laneEnded s.cur then .next (retS s d (zext64 (specMask s.cur n p))) else .next (stall s)

/-! ### Flags and lane slots (R177, R178) -/

/-- WFLAG: earlier clauses have started and the masked flags are clear (R153, R177). -/
def execWflag (m : BitVec 12) (s : State) : Out :=
  if laneStarted s.cur && flagsWord s.cur &&& m = 0 then .next (advance s) else .next (stall s)

/-- VGET (R24, R178). -/
def execVget (d : BitVec 6) (slot : BitVec 8) (lane : BitVec 5) (s : State) : Out :=
  let key := laneKey slot.toNat lane.toNat
  if slot.toNat ≥ s.cur.nslots then .next (scalarTrap s 0x06 (zext64 slot))
  else if !laneEnded s.cur || isPending s.cur key then .next (stall s)
  else
    match fillGranules s [slot.toNat / 8] with
    | .error c => .next (scalarTrap s c.1 c.2)
    | .ok s1 => .next (retS s1 d (zext64 (laneGet s1.cur key)))

/-- VPUT: positioned in the lane stream (R178). -/
def execVput (d : BitVec 6) (slot : BitVec 8) (lane : BitVec 5) (s : State) : Out :=
  if slot.toNat ≥ s.cur.nslots then .next (scalarTrap s 0x06 (zext64 slot))
  else .next (enqueue s
    { kind := .vput, addr := zext64 ((sreg s d).setWidth 32), target := BitVec.ofNat 16 (slot.toNat * 32 + lane.toNat) })

/-! ### fmt and fstat (R179) -/

/-- Write the masked bits of `fmt`; reserved bits stay zero (R179, R6). -/
def setFmt (g : Group) (v m : W64) : Group :=
  { g with fmt := (g.fmt &&& ~~~(m &&& fmtMask)) ||| (v &&& m &&& fmtMask) }

/-- SETFMT (R179). -/
def execSetfmt (a b : BitVec 6) (s : State) : Out :=
  .next (modCur (advance s) fun g => setFmt g (sreg s a) (sreg s b))

/-- GETFMT (R179). -/
def execGetfmt (d : BitVec 6) (s : State) : Out := .next (retS s d s.cur.fmt)

/-- SETPREC: naming s0 leaves a field unchanged (R179). -/
def execSetprec (a b : BitVec 6) (s : State) : Out :=
  .next (modCur (advance s) fun g =>
    let g := if a = 0 then g else setFmt g ((sreg s a &&& 0x7F) <<< 16) (0x7F <<< 16)
    if b = 0 then g else setFmt g ((sreg s b &&& 0x7F) <<< 23) (0x7F <<< 23))

/-- GETSTAT waits until earlier clauses have ended and completed (R153, R179). -/
def execGetstat (d : BitVec 6) (s : State) : Out :=
  if laneComplete s.cur then .next (retS s d (zext64 s.cur.fstat)) else .next (stall s)

/-- CLRSTAT (R179). -/
def execClrstat (a : BitVec 6) (s : State) : Out :=
  if laneComplete s.cur then
    .next (modCur (advance s) fun g => { g with fstat := g.fstat &&& ~~~((sreg s a).setWidth 7) })
  else .next (stall s)

/-! ### Special registers (R43, R180, R181) -/

/-- Bit t: tag t of the crew is ready (R43, R268). -/
def tagBits (c : Crew) : W64 :=
  BitVec.ofNat 64 ((List.range c.tags.length).foldl (fun acc t =>
    match nth c.tags t .idle with
    | .ready _ => acc + 2 ^ t
    | _ => acc) 0)

/-- A special register as MFS reads it; none for a number not in the table (R43). -/
def specialGet (s : State) (n : Nat) : Option W64 :=
  let g := s.cur
  match n with
  | 0x000 => some (BitVec.ofNat 64 s.time)
  | 0x001 => some g.fmt
  | 0x002 => some (zext64 g.fstat)
  | 0x003 => some (tagBits s.crew)
  | 0x004 => some (zext64 (flagsWord g))
  | 0x005 => some (BitVec.ofNat 64 g.mstack.length)
  | 0x006 => some (zext64 g.amask)
  | 0x007 => some (zext64 g.mbdone)
  | 0x008 => some g.lzfill
  | 0x010 => some (BitVec.ofNat 64 g.key.crew)
  | 0x011 => some (BitVec.ofNat 64 g.key.group)
  | 0x012 => some (BitVec.ofNat 64 g.key.band)
  | 0x013 => some (BitVec.ofNat 64 g.key.launch)
  | 0x014 => some (BitVec.ofNat 64 g.core)
  | 0x015 => some (BitVec.ofNat 64 g.cluster)
  | 0x016 => some (BitVec.ofNat 64 g.nslots)
  | 0x017 => some (BitVec.ofNat 64 g.tiles.length)
  | 0x018 => some (BitVec.ofNat 64 s.crew.spbase)
  | 0x019 => some (BitVec.ofNat 64 s.crew.splen)
  | 0x020 => some g.lcb
  | 0x030 => some g.prng
  | 0x040 => some g.fewait
  | 0x100 => some g.tsave
  | 0x101 => some g.tcause
  | 0x102 => some g.tpc
  | 0x103 => some g.tval
  | 0x104 => some g.tvec
  | 0x108 => some (zext64 g.asid)
  | 0x109 => some g.ptbase
  | _ => none

/-- A special register written at once; read-only registers ignore the write (R43, R181). -/
def specialSet (g : Group) (n : Nat) (v : W64) : Group :=
  match n with
  | 0x001 => setFmt g v (-1)
  | 0x002 => { g with fstat := v.setWidth 7 }
  | 0x020 => { g with lcb := v &&& ~~~0xF }
  | 0x100 => { g with tsave := v }
  | 0x102 => { g with tpc := v }
  | 0x104 => { g with tvec := v }
  | 0x108 => { g with asid := v.setWidth 16 }
  | 0x109 => { g with ptbase := v }
  | _ => g

/-- MFS: numbers from 0x100 need privilege; `fstat` waits as GETSTAT (R43, R180). -/
def execMfs (d : BitVec 6) (n : BitVec 13) (s : State) : Out :=
  match specialGet s n.toNat with
  | none => .next (illegalScalar (.mfs d n) s)
  | some v =>
    if n.toNat ≥ 0x100 && !s.cur.priv then .next (scalarTrap s 0x17 0)
    else if n = 0x002 && !laneComplete s.cur then .next (stall s)
    else .next (retS s d v)

/-- MTS: `prng` and `fewait` are positioned in the lane stream, the others are written at once (R181). -/
def execMts (a : BitVec 6) (n : BitVec 13) (s : State) : Out :=
  match specialGet s n.toNat with
  | none => .next (illegalScalar (.mts a n) s)
  | some _ =>
    if n.toNat ≥ 0x100 && !s.cur.priv then .next (scalarTrap s 0x17 0)
    else if n = 0x030 then .next (enqueue s { kind := .prng, addr := sreg s a })
    else if n = 0x040 then .next (enqueue s { kind := .fewait, addr := sreg s a })
    else if n = 0x002 && !laneComplete s.cur then .next (stall s)
    else .next (modCur (advance s) fun g => specialSet g n.toNat (sreg s a))

/-! ### Fences (R110, R111) -/

/-- A fence completes once earlier clauses have ended and their accesses are performed at the scope, and, with
engines = 1, once the group's engine operations have completed (R110, R111, R115); `place` takes its place in the SC order. -/
def fence (i : Instr) (e : BitVec 1) (sc : BitVec 3) (place : State → State) (s : State) : State :=
  if !legalAt staticFmt i then illegalScalar i s
  else if laneComplete s.cur && storesDone s sc.toNat && (e = 0 || (groupOps s).isEmpty) then advance (place s) else stall s

/-- FENCE of kind full (R110). -/
def execFenceFull (e : BitVec 1) (sc : BitVec 3) (s : State) : Out := .next (fence (.fenceFull e sc) e sc id s)
/-- FENCE of kind acquire (R110). -/
def execFenceAcquire (e : BitVec 1) (sc : BitVec 3) (s : State) : Out := .next (fence (.fenceAcquire e sc) e sc id s)
/-- FENCE of kind release (R110). -/
def execFenceRelease (e : BitVec 1) (sc : BitVec 3) (s : State) : Out := .next (fence (.fenceRelease e sc) e sc id s)
/-- FENCE of kind SC: at device or system scope it waits for its turn in the SC order and takes its place there (R109, R110). -/
def execFenceSc (e : BitVec 1) (sc : BitVec 3) (s : State) : Out :=
  if legalAt staticFmt (.fenceSc e sc) && !scMay s .scalar 4 sc.toNat 0 then .next (stall s)
  else .next (fence (.fenceSc e sc) e sc (fun s => scTake s .scalar 4 sc.toNat 0) s)

/-! ### Crew barriers (R183, R184) -/

/-- One arrival at a crew barrier; none where the count differs from that of the phase in progress (R184). -/
def barArrive (b : CrewBar) (n : Nat) : Option CrewBar :=
  if b.count ≠ 0 && b.count ≠ n then none
  else
    let arrived := if b.count = 0 then 1 else b.arrived + 1
    if arrived = n then some { count := 0, arrived := 0, phase := b.phase + 1 }
    else some { count := n, arrived := arrived, phase := b.phase }

/-- The barrier t of the current crew. -/
def crewBar (s : State) (t : Nat) : CrewBar := nth s.crew.cbars t { count := 0, arrived := 0, phase := 0 }

/-- Checks and arrival shared by BAR.SYNC and BAR.ARV: an arrival is a release at crew scope (R184); `k` continues after it. Bits of
s[sa] above 4 that are not zero make a count above every G: the manual says that they must be zero and not what happens, and the trap
is 0x01 with the whole register (DEDUCED, log 107). -/
def barrier (i : Instr) (a t : BitVec 6) (k : State → Nat → State) (s : State) : State :=
  let n := sreg s a
  if !legalAt staticFmt i then illegalScalar i s
  else if t.toNat ≥ s.crew.cbars.length then scalarTrap s 0x01 (zext64 t)
  else if n = 0 || n.toNat > s.crew.groups then scalarTrap s 0x01 n
  else if !laneEnded s.cur || !storesDone s 1 then stall s
  else
    match barArrive (crewBar s t.toNat) n.toNat with
    | none => scalarTrap s 0x0F 0
    | some b =>
      k (modCrew s fun c => { c with cbars := c.cbars.set t.toNat b }) (crewBar s t.toNat).phase

/-- BAR.ARV: arrives and continues (R184). -/
def execBarArv (a t : BitVec 6) (s : State) : Out := .next (barrier (.barArv a t) a t (fun s _ => advance s) s)

/-- BAR.SYNC: arrives once, then waits until the phase it joined has completed (R184). -/
def execBarSync (a t : BitVec 6) (s : State) : Out :=
  match s.cur.wait with
  | .bar p =>
    if (crewBar s t.toNat).phase > p then .next (modCur (advance s) fun g => { g with wait := .none })
    else .next (stall s)
  | _ =>
    .next (barrier (.barSync a t) a t
      (fun s p => if (crewBar s t.toNat).phase > p then advance s else modCur s fun g => { g with wait := .bar p }) s)

/-! ### Device time (R186) -/

/-- RDTIME (R186). -/
def execRdtime (d : BitVec 6) (s : State) : Out := .next (retS s d (BitVec.ofNat 64 s.time))

/-- The tick has come (R186). -/
def tickReached (s : State) (t : W64) : Bool := t.toNat ≤ s.time

/-- WAITUNTIL (R186). -/
def execWaituntil (a : BitVec 6) (s : State) : Out :=
  if tickReached s (sreg s a) then .next (modCur (advance s) fun g => { g with wait := .none })
  else .next (modCur s fun g => { g with wait := .tick (sreg s a) })

/-- The awaited tick is reached and the waiting group continues after its WAITUNTIL (R186). -/
def execWaituntilReached (k : GKey) (s : State) : Out :=
  .next (onGroup k (fun s =>
    match s.cur.wait with
    | .tick t => if tickReached s t then modCur (advance s) fun g => { g with wait := .none } else s
    | _ => s) s)

/-- Executing a pool guard raises the pool-entry trap with the guard word (R139). -/
def execPoolGuard (n : BitVec 26) (s : State) : Out :=
  .next (scalarTrap s 0x04 (zext64 ((0x3F#6 ++ n : W32))))

end Sys2Proof.Machine
end

