-- ==== Sys2Proof/Machine/Operands.lean ====
section
/-!
DEFINITION. Operands.lean: how a lane instruction reads its operands and writes its results: acting lanes, ranges,
interlocks, absent granules, immediates, y and the end of a clause (R19 to R34, R38, R129, R132, R133, R192 to R196).
-/
namespace Sys2Proof.Machine

/-! ### The clause an instruction belongs to -/

/-- What a lane instruction of the running clause works with: the entry, its acting lanes, those of them that are active
and those that are helpers (R26, R27). -/
structure LaneEnv where
  e : QEntry
  active : W32
  helpers : W32
  deriving DecidableEq, Repr

/-- Lanes of a mask, ascending. -/
def lanesOf (m : W32) : List Nat := (List.range 32).filter fun l => m.getLsbD l

/-- The lanes whose quad has a lane of the mask. -/
def quadSpread (m : W32) : W32 :=
  BitVec.ofNat 32 ((List.range 32).foldl (fun acc l =>
    if (List.range 4).any fun j => m.getLsbD (4 * (l / 4) + j) then acc + 2 ^ l else acc) 0)

/-- Helper lanes of a clause: outside the recorded mask, in a quad with a lane inside it (R27). -/
def helperLanes (e : QEntry) : W32 := if e.helper then ~~~e.mask &&& quadSpread e.mask else 0

/-- The mask a predicate field selects (R26). -/
def predSelMask (g : Group) (p : PredSel) : W32 := if p.neg then ~~~(predMask g p.num.toNat) else predMask g p.num.toNat

/-- The environment of an instruction with predicate field p in clause e. -/
def laneEnv (g : Group) (e : QEntry) (p : PredSel) : LaneEnv :=
  { e := e, active := e.mask &&& predSelMask g p, helpers := helperLanes e &&& predSelMask g p }

/-- The acting lanes, ascending (R192). -/
def actLanes (v : LaneEnv) : List Nat := lanesOf (v.active ||| v.helpers)

/-- Whether a lane is an executing helper. -/
def isHelper (v : LaneEnv) (l : Nat) : Bool := v.helpers.getLsbD l

/-! ### Ranges (R33) -/

/-- The first main slot an operand names in a lane: none for other modes. -/
def mainSlot (g : Group) (o : Opnd) (lane : Nat) : Option Int :=
  match o with
  | .v n => some n.toNat
  | .vx k off => some (ixValue g lane k.toNat + off.toNat)
  | _ => none

/-- An operand of n slots is in range in a lane (R33). -/
def slotInRange (g : Group) (o : Opnd) (n lane : Nat) : Bool :=
  match o with
  | .v b => b.toNat + n ≤ g.nslots
  | .vx k off =>
    let e := ixValue g lane k.toNat + off.toNat
    (ixBase g lane k.toNat : Int) ≤ e && e + n - 1 ≤ ixLimit g lane k.toNat && e + n ≤ g.nslots
  | _ => true

/-- A position, how it is used, and its operand. -/
abbrev OpPos := Nat × Use × Opnd

/-- The lowest position out of range in an acting lane (R33). -/
def badPosition (g : Group) (lanes : List Nat) (ps : List OpPos) : Option Nat :=
  (ps.find? fun p => useSlots p.2.1 ≠ 0 && lanes.any fun l => !slotInRange g p.2.2 (useSlots p.2.1) l).map (·.1)

/-! ### Keys of an operand -/

/-- The lane register keys an operand of n slots names in a lane; empty for the modes without registers. -/
def opndKeys (g : Group) (o : Opnd) (n lane : Nat) : List Nat :=
  match o with
  | .c i => (List.range n).map fun j => cKey (i.toNat + j) lane
  | .y i => [yKey i.toNat lane]
  | o =>
    match mainSlot g o lane with
    | some b => (List.range n).map fun j => laneKey (b.toNat + j) lane
    | none => []

/-- Whether a use writes. -/
def useWrites : Use → Bool
  | .dst _ | .upd _ => true
  | _ => false

/-- Keys an instruction writes in its acting lanes. -/
def destKeys (g : Group) (lanes : List Nat) (ps : List OpPos) : List Nat :=
  ps.flatMap fun p => if useWrites p.2.1 then lanes.flatMap fun l => opndKeys g p.2.2 (useSlots p.2.1) l else []

/-- Absent granules an instruction reads or writes in some lanes (R38). -/
def neededGranules (g : Group) (lanes : List Nat) (ps : List OpPos) : List Nat :=
  if g.absent.isEmpty then []
  else
    (ps.flatMap fun p => lanes.flatMap fun l =>
      if slotInRange g p.2.2 (useSlots p.2.1) l then
        (opndKeys g p.2.2 (useSlots p.2.1) l).filterMap fun k => if k / 32 < 256 then some (k / 32 / 8) else none
      else []).eraseDups

/-! ### Reading (R22, R132, R133) -/

/-- The value a pending operation will write to a key, if it is known. -/
def pendingValue (g : Group) (key : Nat) : Option W32 :=
  (g.outs.flatMap fun o => o.writes).reverse.find? (fun p => p.1 = key) |>.map (·.2)

/-- The tile element a pending ACCRD will write to a key, once every earlier operation on the tile has completed (R22, R259).
While one is pending there is none, and a reader takes the old value: to see the new one, those operations complete first, as
hardware's turn may have them do at any moment. -/
def pendingTile (s : State) (key : Nat) : Option W32 :=
  s.cur.outs.reverse.findSome? fun o =>
    match o.act with
    | .accrd t src =>
      if s.cur.outs.any fun q => q.seq < o.seq && q.tiles.contains t then none
      else (src.find? fun p => p.1 = key).map fun p => tileElem (tileAt s (physTile s.cur t)) p.2
    | _ => none

/-- Read a lane register: with a write pending, the value before it or the value it writes (R22). -/
def laneRead (s : State) (key : Nat) : W32 :=
  match pendingValue s.cur key, pendingTile s key with
  | some v, _ | none, some v => if Config.choice s.ctr key then v else laneGet s.cur key
  | none, none => laneGet s.cur key

/-- Little-endian join of slots. -/
def joinSlots (ws : List W32) : Nat := ws.foldr (fun w acc => w.toNat + 2 ^ 32 * acc) 0

/-- The n slots of a value. -/
def splitSlots (v n : Nat) : List W32 := (List.range n).map fun i => BitVec.ofNat 32 (v >>> (32 * i))

/-- The bits a mode-101 immediate gives an operand of a type: the integer, or the code of the float (R133). -/
def immBits (t : Option Ty) (n : BitVec 9) : Nat :=
  match t with
  | some ty =>
    if tyIsFloat ty then intCode ty n.toInt
    else if tyWidth ty = 64 then (n.signExtend 64).toNat
    else (n.signExtend 32).toNat
  | none => (n.signExtend 32).toNat

/-- A lane special (R132). -/
def specValue (v : LaneEnv) (k lane : Nat) : Nat :=
  match k with
  | 0 => lane
  | 1 => lane / 4
  | 2 => if (helperLanes v.e).getLsbD lane then 1 else 0
  | _ => 0

/-- An operand as its n slots joined, in one lane. -/
def readSlots (s : State) (v : LaneEnv) (o : Opnd) (n : Nat) (t : Option Ty) (lane : Nat) : Nat :=
  match o with
  | .s r => if n = 1 then (sreg s r).toNat % 2 ^ 32 else (sreg s r).toNat
  | .imm i => immBits t i
  | .spec k => specValue v k.toNat lane
  | .p _ _ => 0
  | o => joinSlots ((opndKeys s.cur o n lane).map (laneRead s))

/-- An operand of a type, its bits w-1:0 (R193). -/
def readTy (s : State) (v : LaneEnv) (o : Opnd) (t : Ty) (lane : Nat) : Nat :=
  readSlots s v o (slotsOf v.e.fmt t) (some t) lane % 2 ^ (if tyIsVpf t then 128 else tyWidth t)

/-- A predicate operand in a lane, complemented when negated (R195). -/
def readPred (s : State) (o : Opnd) (lane : Nat) : Bool :=
  match o with
  | .p neg k => predGet s.cur k.toNat lane != neg
  | _ => false

/-! ### Results -/

/-- What an instruction does to registers: lane registers, predicates (number, lane, value), index registers (lane,
number, word), random words, fstat bits, and the single results for y (R23, R32, R192). -/
structure LaneRes where
  regs : List (Nat × W32) := []
  preds : List (Nat × Nat × Bool) := []
  ixs : List (Nat × W32) := []
  rnd : List (Nat × BitVec 16) := []
  stat : Nat := 0
  single : List (Nat × W32) := []
  deriving DecidableEq, Repr

def LaneRes.join (a b : LaneRes) : LaneRes :=
  { regs := a.regs ++ b.regs, preds := a.preds ++ b.preds, ixs := a.ixs ++ b.ixs, rnd := a.rnd ++ b.rnd,
    stat := a.stat ||| b.stat, single := a.single ++ b.single }

/-- The results of all acting lanes together. -/
def joinRes (rs : List LaneRes) : LaneRes := rs.foldl LaneRes.join {}

/-- Set one lane of a predicate. -/
def setPredLane (g : Group) (k lane : Nat) (b : Bool) : Group :=
  let m := predMask g k
  let bit : W32 := 1 <<< lane
  predSetMask g k (if b then m ||| bit else m &&& ~~~bit)

/-- The y shift of a lane: old y0 to y1, the result to y0 (R23). -/
def shiftY (g : Group) (lane : Nat) (v : W32) : Group :=
  laneSet (laneSet g (yKey 1 lane) (laneGet g (yKey 0 lane))) (yKey 0 lane) v

/-- Apply results to the group. -/
def applyRes (g : Group) (r : LaneRes) (yw : Bool) : Group :=
  let g := laneSetAll g r.regs
  let g := r.preds.foldl (fun g p => setPredLane g p.1 p.2.1 p.2.2) g
  let g := { g with
    ixs := r.ixs.foldl (fun l p => vset l p.1 p.2) g.ixs
    lfsr := r.rnd.foldl (fun l p => vset l p.1 p.2) g.lfsr
    fstat := stickFlags g.fstat r.stat }
  if yw then r.single.foldl (fun g p => shiftY g p.1 p.2) g else g

/-- The clause's next instruction, or its end: its set-flags are released and its entry leaves (R19, R20). -/
def stepClause (g : Group) : Group :=
  match g.queue with
  | e :: r =>
    if e.pos + 1 < e.count then { g with queue := { e with pos := e.pos + 1 } :: r }
    else (setFlags e).foldl (fun g i => flagSub g i 1) { g with queue := r }
  | [] => g

/-- Results applied and the instruction issued. -/
def commitLane (s : State) (r : LaneRes) (yw : Bool) : State := modCur s fun g => stepClause (applyRes g r yw)

/-- The granules an instruction's own lanes need. -/
def fillOwn (ps : List OpPos) (g : Group) (v : LaneEnv) : List Nat := neededGranules g (actLanes v) ps

/-- The frame of every lane instruction in an environment: legality at the recorded `fmt`, ranges, pending writes to its
destinations, a trap that comes before those of its operands' granules (`early`), absent granules given by `fill`, then the body (R31,
R33, R38, R137, R138, R196). -/
def withEarly (early : LaneEnv → State → Option (Nat × W64)) (fill : Group → LaneEnv → List Nat) (i : Instr) (v : LaneEnv)
    (ps : List OpPos) (body : LaneEnv → State → State) (s : State) : State :=
  if !legalAt v.e.fmt i then illegalLane i s
  else
    match badPosition s.cur (actLanes v) ps with
    | some pos => laneTrap s 0x06 (BitVec.ofNat 64 pos)
    | none =>
      if (destKeys s.cur (actLanes v) ps).any (isPending s.cur) then stall s
      else
        match early v s with
        | some t => laneTrap s t.1 t.2
        | none =>
          match fillGranules s (fill s.cur v) with
          | .error c => laneTrap s c.1 c.2
          | .ok s1 => body v s1

/-- The frame of an instruction without such a trap. -/
def withEnv (fill : Group → LaneEnv → List Nat) (i : Instr) (v : LaneEnv) (ps : List OpPos)
    (body : LaneEnv → State → State) (s : State) : State := withEarly (fun _ _ => none) fill i v ps body s

/-- The frame of a lane instruction of the running clause whose own lanes' granules fill, with an early trap. -/
def withLaneEarly (early : LaneEnv → State → Option (Nat × W64)) (i : Instr) (p : PredSel) (ps : List OpPos)
    (body : LaneEnv → State → State) (s : State) : State :=
  match running s.cur with
  | none => s
  | some e => withEarly early (fillOwn ps) i (laneEnv s.cur e p) ps body s

/-- The frame of a lane instruction of the running clause. -/
def withLane (fill : Group → LaneEnv → List Nat) (i : Instr) (p : PredSel) (ps : List OpPos)
    (body : LaneEnv → State → State) (s : State) : State :=
  match running s.cur with
  | none => s
  | some e => withEnv fill i (laneEnv s.cur e p) ps body s

/-- An environment without its helpers. -/
def noHelp (v : LaneEnv) : LaneEnv := { v with helpers := 0 }

/-- The frame of an instruction that a helper does not perform (R27); the operands of an executing helper are in range all the
same (R33). -/
def withLaneNoHelp (early : LaneEnv → State → Option (Nat × W64)) (i : Instr) (p : PredSel) (ps : List OpPos)
    (body : LaneEnv → State → State) (s : State) : State :=
  match running s.cur with
  | none => s
  | some e =>
    let v := laneEnv s.cur e p
    match (if legalAt v.e.fmt i then badPosition s.cur (actLanes v) ps else none) with
    | some pos => laneTrap s 0x06 (BitVec.ofNat 64 pos)
    | none => withEarly early (fillOwn ps) i (noHelp v) ps body s

/-! ### Writing one result per lane -/

/-- Bits 31:w of a narrow result: copies of bit w-1 for i8 and i16, else zero (R193). -/
def extTyBits (t : Ty) (x : Nat) : Nat :=
  let w := tyWidth t
  if w < 32 && tySigned t && x.testBit (w - 1) then x % 2 ^ w + (2 ^ 32 - 2 ^ w) else x % 2 ^ max w 32

/-- A value written to a destination of n slots in a lane. -/
def putSlots (g : Group) (d : Opnd) (n lane val : Nat) : LaneRes :=
  { regs := (opndKeys g d n lane).zip (splitSlots val n),
    single := if n = 1 then [(lane, BitVec.ofNat 32 val)] else [] }

/-- A typed value written to a destination. -/
def putTy (g : Group) (d : Opnd) (t : Ty) (n lane val : Nat) : LaneRes := putSlots g d n lane (extTyBits t val)

/-- A predicate or register result of a test: all ones in w bits, or 0 (R205). -/
def putTest (g : Group) (d : Opnd) (n w lane : Nat) (b : Bool) : LaneRes :=
  match d with
  | .p _ k => { preds := [(k.toNat, lane, b)] }
  | d => putSlots g d n lane (if b then 2 ^ w - 1 else 0)

/-- fstat bits of a lane: none from a helper (R27). -/
def statOf (v : LaneEnv) (lane st : Nat) : LaneRes := { stat := if isHelper v lane then 0 else st }

/-- One result per acting lane. -/
def perLane (yw : Bool) (f : LaneEnv → State → Nat → LaneRes) (v : LaneEnv) (s : State) : State :=
  commitLane s (joinRes ((actLanes v).map (f v s))) yw

/-! ### Format LA and LI operands in one view -/

/-- The operands of an LA or LI instruction: third source c (LI: the destination), second source b (LI: the immediate). -/
structure Srcs where
  d : Opnd
  a : Opnd
  b : Opnd
  c : Opnd
  /-- LI: the immediate's value in the instruction's type (R129). -/
  imm : Option Nat
  ty : Ty
  md : BitVec 10
  ext : BitVec 14
  yw : Bool
  deriving DecidableEq, Repr

def srcsLa (x : LaForm) : Srcs :=
  { d := x.d, a := x.a, b := x.b, c := x.c, imm := none, ty := x.ty, md := x.md, ext := x.ext, yw := x.yw }

/-- The immediate of an LI form in its type (R129). -/
def liImm (x : LiForm) : Nat := if x.ty = .i64 then (x.imm.signExtend 64).toNat else x.imm.toNat

def srcsLi (x : LiForm) : Srcs :=
  { d := x.d, a := x.a, b := .v 0, c := x.d, imm := some (liImm x), ty := x.ty, md := x.md, ext := 0, yw := false }

/-- Operand b in a type: the LI immediate or the operand. -/
def readB (s : State) (v : LaneEnv) (x : Srcs) (t : Ty) (lane : Nat) : Nat :=
  match x.imm with
  | some i => i % 2 ^ tyWidth t
  | none => readTy s v x.b t lane

/-- Operand b as one raw 32-bit slot. -/
def readB32 (s : State) (v : LaneEnv) (x : Srcs) (lane : Nat) : Nat :=
  match x.imm with
  | some i => i % 2 ^ 32
  | none => readSlots s v x.b 1 none lane % 2 ^ 32

/-- The positions of an LA form under its shape (R33). -/
def posLa (x : LaForm) (sh : Shape) : List OpPos := [(0, sh.d, x.d), (1, sh.a, x.a), (2, sh.b, x.b), (3, sh.c, x.c)]

/-- The positions of an LI form under the shape of its LA form. -/
def posLi (x : LiForm) (sh : Shape) : List OpPos := [(0, liDst sh.d sh.c, x.d), (1, sh.a, x.a)]

/-- The `fmt` of the running clause. -/
def clauseFmt (s : State) : W64 := ((running s.cur).map (·.fmt)).getD 0

/-- An LA instruction with a body of its own. -/
def runLaBody (i : Instr) (x : LaForm) (sh : W64 → Shape) (body : LaneEnv → State → State) (s : State) : Out :=
  let ps := posLa x (sh (clauseFmt s))
  .next (withLane (fillOwn ps) i x.pr ps body s)

/-- An LA instruction: its shape at the recorded `fmt`, and one result per lane. -/
def runLa (i : Instr) (x : LaForm) (sh : W64 → Shape) (f : Srcs → LaneEnv → State → Nat → LaneRes) (s : State) : Out :=
  runLaBody i x sh (perLane x.yw (f (srcsLa x))) s

/-- An LI instruction. -/
def runLi (i : Instr) (x : LiForm) (sh : W64 → Shape) (f : Srcs → LaneEnv → State → Nat → LaneRes) (s : State) : Out :=
  let ps := posLi x (sh (clauseFmt s))
  .next (withLane (fillOwn ps) i x.pr ps (perLane false (f (srcsLi x))) s)

end Sys2Proof.Machine
end

