-- ==== Sys2Proof/Machine/LaneInt.lean ====
section
/-!
DEFINITION. LaneInt.lean: lane integer instructions, moves and lane state (R198 to R202, R226 to R229).
-/
namespace Sys2Proof.Machine

/-- A w-bit number read as an integer of a type (R198). -/
def tyInt (t : Ty) (x : Nat) : Int :=
  if tySigned t && x.testBit (tyWidth t - 1) then (x : Int) - 2 ^ tyWidth t else x

/-- An exact result wrapped modulo 2^w, or clamped to the type's range (R198). -/
def wrapOrClamp (t : Ty) (sat : Bool) (r : Int) : Nat :=
  let r := if sat then max (intMin t) (min (intMax t) r) else r
  (r % (2 ^ tyWidth t : Int)).toNat

/-- One integer result per lane from the integers a, b, c (R198). -/
def intLane (third : Bool) (f : Ty → BitVec 10 → Int → Int → Int → Int) (x : Srcs) (v : LaneEnv) (s : State)
    (l : Nat) : LaneRes :=
  let t := x.ty
  let a := tyInt t (readTy s v x.a t l)
  let b := tyInt t (readB s v x t l)
  let c := if third then tyInt t (readTy s v x.c t l) else 0
  putTy s.cur x.d t (slotsOf v.e.fmt t) l (wrapOrClamp t (bitAt x.md 0) (f t x.md a b c))

def intAdd (_ : Ty) (_ : BitVec 10) (a b _ : Int) : Int := a + b
def intSub (_ : Ty) (_ : BitVec 10) (a b _ : Int) : Int := a - b
def intMul (_ : Ty) (_ : BitVec 10) (a b _ : Int) : Int := a * b
/-- The high half of the exact product (R198). -/
def intMulh (t : Ty) (_ : BitVec 10) (a b _ : Int) : Int := (a * b) / 2 ^ tyWidth t
def intMad (_ : Ty) (_ : BitVec 10) (a b c : Int) : Int := a * b + c
def intMinOp (_ : Ty) (_ : BitVec 10) (a b _ : Int) : Int := min a b
def intMaxOp (_ : Ty) (_ : BitVec 10) (a b _ : Int) : Int := max a b

/-- Byte i of a 32-bit word, signed on demand (R199). -/
def byteInt (x i : Nat) (signed : Bool) : Int :=
  let b := (x >>> (8 * i)) % 256
  if signed && b ≥ 128 then (b : Int) - 256 else b

/-- IDOT4's lane result (R199). -/
def idot4Lane (x : Srcs) (v : LaneEnv) (s : State) (l : Nat) : LaneRes :=
  let a := readTy s v x.a x.ty l
  let b := readB s v x x.ty l
  let c := tyInt x.ty (readTy s v x.c x.ty l)
  let r := (List.range 4).foldl (fun acc i => acc + byteInt a i (bitAt x.md 0) * byteInt b i (bitAt x.md 1)) c
  putTy s.cur x.d x.ty 1 l (wrapOrClamp x.ty (bitAt x.md 2) r)

/-- A three-input bit function at each of w positions (R200). -/
def bitFunction (f : Nat) (w a b c : Nat) : Nat :=
  (List.range w).foldl (fun acc j =>
    let i := (if a.testBit j then 1 else 0) + (if b.testBit j then 2 else 0) + (if c.testBit j then 4 else 0)
    if f.testBit i then acc + 2 ^ j else acc) 0

/-- BFN3's lane result: the table is in ext in LA and in mod in LI (R200). -/
def bfn3Lane (x : Srcs) (v : LaneEnv) (s : State) (l : Nat) : LaneRes :=
  let f := if x.imm.isSome then (x.md.extractLsb' 0 8).toNat else (extByte x.ext).toNat
  putTy s.cur x.d x.ty (slotsOf v.e.fmt x.ty) l
    (bitFunction f (tyWidth x.ty) (readTy s v x.a x.ty l) (readB s v x x.ty l) (readTy s v x.c x.ty l))

/-- The four shifts of R200. -/
def shiftVal (w kind a n c : Nat) : Nat :=
  match kind with
  | 0 => (a <<< n) % 2 ^ w
  | 1 => a >>> n
  | 2 => if a.testBit (w - 1) then (a >>> n) + (2 ^ w - 2 ^ (w - n)) else a >>> n
  | _ => ((c * 2 ^ w + a) >>> n) % 2 ^ w

/-- SHF's lane result (R200). -/
def shfLane (x : Srcs) (v : LaneEnv) (s : State) (l : Nat) : LaneRes :=
  let w := tyWidth x.ty
  let kind := (x.md.extractLsb' 0 2).toNat
  putTy s.cur x.d x.ty (slotsOf v.e.fmt x.ty) l
    (shiftVal w kind (readTy s v x.a x.ty l) (readB s v x x.ty l % w)
      (if kind = 3 then readTy s v x.c x.ty l else 0))

/-- BFX's lane result: position and length from the raw 32 bits of b (R201). -/
def bfxLane (x : Srcs) (v : LaneEnv) (s : State) (l : Nat) : LaneRes :=
  let w := tyWidth x.ty
  let b := readB32 s v x l
  let pos := b % 256
  let len := min (natBits b 15 8) w
  let f := (readTy s v x.a x.ty l >>> pos) % 2 ^ len
  let r := if bitAt x.md 0 && len > 0 && f.testBit (len - 1) then f + (2 ^ w - 2 ^ len) else f
  putTy s.cur x.d x.ty (slotsOf v.e.fmt x.ty) l (r % 2 ^ w)

/-- BFI's lane result (R201). -/
def bfiLane (x : Srcs) (v : LaneEnv) (s : State) (l : Nat) : LaneRes :=
  let w := tyWidth x.ty
  let b := readB32 s v x l
  let pos := b % 256
  let len := min (natBits b 15 8) w
  let a := readTy s v x.a x.ty l
  let c := readTy s v x.c x.ty l
  let m := (2 ^ len - 1) <<< pos
  let r := (List.range w).foldl (fun acc j =>
    let bit := if m.testBit j then a.testBit (j - pos) else c.testBit j
    if bit then acc + 2 ^ j else acc) 0
  putTy s.cur x.d x.ty (slotsOf v.e.fmt x.ty) l r

/-- Trailing zeros within w bits (R201). -/
def ctzFrom (a w : Nat) : Nat → Nat
  | 0 => w
  | n + 1 => if a.testBit (w - (n + 1)) then w - (n + 1) else ctzFrom a w n

/-- a with bit j moved to bit w-1-j (R201). -/
def bitReverse (a w : Nat) : Nat := (List.range w).foldl (fun acc j => if a.testBit j then acc + 2 ^ (w - 1 - j) else acc) 0

/-- BITC's functions (R201). -/
def bitcVal (fn w a : Nat) : Nat :=
  match fn with
  | 0 => popFrom a w
  | 1 => clzFrom a w
  | 2 => ctzFrom a w w
  | _ => bitReverse a w

def bitcLane (x : Srcs) (v : LaneEnv) (s : State) (l : Nat) : LaneRes :=
  putTy s.cur x.d x.ty (slotsOf v.e.fmt x.ty) l
    (bitcVal (x.md.extractLsb' 0 2).toNat (tyWidth x.ty) (readTy s v x.a x.ty l))

/-- The integer conditions of R202. -/
def intCond (c : Nat) (a b : Int) : Bool :=
  match c with
  | 0 => a = b
  | 1 => a ≠ b
  | 2 => a < b
  | 3 => a ≤ b
  | 4 => a > b
  | _ => a ≥ b

/-- A test combined with the predicate source (R202). -/
def combine (k : Nat) (t p : Bool) : Bool :=
  match k with
  | 0 => t
  | 1 => t && p
  | 2 => t || p
  | _ => t != p

def icmpLane (x : Srcs) (v : LaneEnv) (s : State) (l : Nat) : LaneRes :=
  let t := intCond (x.md.extractLsb' 0 3).toNat (tyInt x.ty (readTy s v x.a x.ty l)) (tyInt x.ty (readB s v x x.ty l))
  let k := (x.md.extractLsb' 3 2).toNat
  let r := combine k t (readPred s x.c l)
  match x.d with
  | .p _ n => { preds := [(n.toNat, l, r)] }
  | d => putTy s.cur d x.ty (slotsOf v.e.fmt x.ty) l (if r then 2 ^ tyWidth x.ty - 1 else 0)

/-! ### Moves and lane state (R226 to R229) -/

/-- MOV's source: slots uninterpreted; an immediate is sign-extended to the operand's width (R226). -/
def movSlots (s : State) (v : LaneEnv) (o : Opnd) (t : Ty) (l : Nat) : Nat :=
  match o with
  | .imm n => extTyBits t ((n.signExtend 64).toNat % 2 ^ (if tyWidth t = 64 then 64 else min (tyWidth t) 32))
  | o => readSlots s v o (slotsOf v.e.fmt t) (some t) l

def movLane (x : Srcs) (v : LaneEnv) (s : State) (l : Nat) : LaneRes :=
  putSlots s.cur x.d (slotsOf v.e.fmt x.ty) l (movSlots s v x.a x.ty l)

def moviLane (x : Srcs) (v : LaneEnv) (s : State) (l : Nat) : LaneRes :=
  putTy s.cur x.d x.ty (slotsOf v.e.fmt x.ty) l (x.imm.getD 0)

/-- SEL's source: slots as they stand; an immediate in the operand's type and width, bits 31:w as the type has them (R133, R193,
R227). -/
def selSlots (s : State) (v : LaneEnv) (o : Opnd) (t : Ty) (l : Nat) : Nat :=
  match o with
  | .imm i => extTyBits t (immBits (some t) i % 2 ^ tyWidth t)
  | o => readSlots s v o (slotsOf v.e.fmt t) (some t) l

/-- SEL's lane result: whole slots of a or b (R227). -/
def selLane (x : Srcs) (v : LaneEnv) (s : State) (l : Nat) : LaneRes :=
  putSlots s.cur x.d (slotsOf v.e.fmt x.ty) l (selSlots s v (if readPred s x.c l then x.a else x.b) x.ty l)

/-- PFN3's lane result (R227). -/
def pfn3Lane (x : Srcs) (_ : LaneEnv) (s : State) (l : Nat) : LaneRes :=
  let i := (if readPred s x.a l then 1 else 0) + (if readPred s x.b l then 2 else 0) + (if readPred s x.c l then 4 else 0)
  putTest s.cur x.d 1 1 l ((extByte x.ext).toNat.testBit i)

/-- SPEC's values (R228). -/
def specLane (x : Srcs) (v : LaneEnv) (s : State) (l : Nat) : LaneRes :=
  let k := (extByte x.ext).toNat
  let r : Nat := match (x.md.extractLsb' 0 4).toNat with
    | 0 => l
    | 1 => l / 4
    | 2 => specValue v 2 l
    | 3 => 0
    | 4 => v.e.mask.toNat
    | 5 => (lfsrGet s.cur l).toNat
    | 6 => (BitVec.ofInt 32 (ixValue s.cur l k)).toNat
    | 7 => ixBase s.cur l k
    | 8 => ixLimit s.cur l k
    | _ => s.time % 2 ^ 32
  putSlots s.cur x.d 1 l r

/-- IXSET's lane result: the enabled fields of x(k) (R229). -/
def ixsetLane (x : Srcs) (v : LaneEnv) (s : State) (l : Nat) : LaneRes :=
  let k := (x.md.extractLsb' 0 2).toNat
  let old := ixGet s.cur l k
  let val : BitVec 16 := if bitAt x.md 2 then BitVec.ofNat 16 (readTy s v x.a .i32 l) else old.extractLsb' 0 16
  let base : BitVec 8 := if bitAt x.md 3 then BitVec.ofNat 8 (readTy s v x.b .i32 l) else old.extractLsb' 16 8
  let limit : BitVec 8 := if bitAt x.md 4 then BitVec.ofNat 8 (readTy s v x.c .i32 l) else old.extractLsb' 24 8
  { ixs := [(l * 4 + k, (limit ++ base ++ val : W32))] }

/-! ### The instructions -/

/-- IADD (R198). -/
def execIadd (f : LaForm) (s : State) : Out :=
  runLa (.iadd f) f (fun fm => shArith fm true false f.ty f.md f.ext) (intLane false intAdd) s

/-- IADD, immediate form (R194, R198). -/
def execIaddLi (f : LiForm) (s : State) : Out :=
  runLi (.iaddLi f) f (fun fm => shArith fm true false f.ty f.md 0) (intLane false intAdd) s

/-- ISUB (R198). -/
def execIsub (f : LaForm) (s : State) : Out :=
  runLa (.isub f) f (fun fm => shArith fm true false f.ty f.md f.ext) (intLane false intSub) s

/-- ISUB, immediate form (R194, R198). -/
def execIsubLi (f : LiForm) (s : State) : Out :=
  runLi (.isubLi f) f (fun fm => shArith fm true false f.ty f.md 0) (intLane false intSub) s

/-- IMUL (R198). -/
def execImul (f : LaForm) (s : State) : Out :=
  runLa (.imul f) f (fun fm => shArith fm false false f.ty f.md f.ext) (intLane false intMul) s

/-- IMUL, immediate form (R194, R198). -/
def execImulLi (f : LiForm) (s : State) : Out :=
  runLi (.imulLi f) f (fun fm => shArith fm false false f.ty f.md 0) (intLane false intMul) s

/-- IMULH (R198). -/
def execImulh (f : LaForm) (s : State) : Out :=
  runLa (.imulh f) f (fun fm => shArith fm false false f.ty f.md f.ext) (intLane false intMulh) s

/-- IMULH, immediate form (R194, R198). -/
def execImulhLi (f : LiForm) (s : State) : Out :=
  runLi (.imulhLi f) f (fun fm => shArith fm false false f.ty f.md 0) (intLane false intMulh) s

/-- IMAD (R198). -/
def execImad (f : LaForm) (s : State) : Out :=
  runLa (.imad f) f (fun fm => shArith fm true true f.ty f.md f.ext) (intLane true intMad) s

/-- IMAD, immediate form (R194, R198). -/
def execImadLi (f : LiForm) (s : State) : Out :=
  runLi (.imadLi f) f (fun fm => shArith fm true true f.ty f.md 0) (intLane true intMad) s

/-- IMIN (R198). -/
def execImin (f : LaForm) (s : State) : Out :=
  runLa (.imin f) f (fun fm => shArith fm false false f.ty f.md f.ext) (intLane false intMinOp) s

/-- IMIN, immediate form (R194, R198). -/
def execIminLi (f : LiForm) (s : State) : Out :=
  runLi (.iminLi f) f (fun fm => shArith fm false false f.ty f.md 0) (intLane false intMinOp) s

/-- IMAX (R198). -/
def execImax (f : LaForm) (s : State) : Out :=
  runLa (.imax f) f (fun fm => shArith fm false false f.ty f.md f.ext) (intLane false intMaxOp) s

/-- IMAX, immediate form (R194, R198). -/
def execImaxLi (f : LiForm) (s : State) : Out :=
  runLi (.imaxLi f) f (fun fm => shArith fm false false f.ty f.md 0) (intLane false intMaxOp) s

/-- IDOT4 (R199). -/
def execIdot4 (f : LaForm) (s : State) : Out :=
  runLa (.idot4 f) f (fun _ => shIdot4 f.ty f.md f.ext) (idot4Lane) s

/-- IDOT4, immediate form (R194, R199). -/
def execIdot4Li (f : LiForm) (s : State) : Out :=
  runLi (.idot4Li f) f (fun _ => shIdot4 f.ty f.md 0) (idot4Lane) s

/-- BFN3 (R200). -/
def execBfn3 (f : LaForm) (s : State) : Out :=
  runLa (.bfn3 f) f (fun fm => shBfn3 fm false f.ty f.md f.ext) (bfn3Lane) s

/-- BFN3, immediate form (R200). -/
def execBfn3Li (f : LiForm) (s : State) : Out :=
  runLi (.bfn3Li f) f (fun fm => shBfn3 fm true f.ty f.md 0) (bfn3Lane) s

/-- SHF (R200). -/
def execShf (f : LaForm) (s : State) : Out :=
  runLa (.shf f) f (fun fm => shShf fm f.ty f.md f.ext) (shfLane) s

/-- SHF, immediate form (R194, R200). -/
def execShfLi (f : LiForm) (s : State) : Out :=
  runLi (.shfLi f) f (fun fm => shShf fm f.ty f.md 0) (shfLane) s

/-- Lane BFX (R201). -/
def execLaneBfx (f : LaForm) (s : State) : Out :=
  runLa (.laneBfx f) f (fun fm => shBf fm false f.ty f.md f.ext) (bfxLane) s

/-- Lane BFX, immediate form (R201). -/
def execLaneBfxLi (f : LiForm) (s : State) : Out :=
  runLi (.laneBfxLi f) f (fun fm => shBf fm false f.ty f.md 0) (bfxLane) s

/-- Lane BFI (R201). -/
def execLaneBfi (f : LaForm) (s : State) : Out :=
  runLa (.laneBfi f) f (fun fm => shBf fm true f.ty f.md f.ext) (bfiLane) s

/-- Lane BFI, immediate form (R201). -/
def execLaneBfiLi (f : LiForm) (s : State) : Out :=
  runLi (.laneBfiLi f) f (fun fm => shBf fm true f.ty f.md 0) (bfiLane) s

/-- BITC (R201). -/
def execBitc (f : LaForm) (s : State) : Out :=
  runLa (.bitc f) f (fun fm => shBitc fm f.ty f.md f.ext) (bitcLane) s

/-- ICMP (R202). -/
def execIcmp (f : LaForm) (s : State) : Out :=
  runLa (.icmp f) f (fun fm => shCmp fm (tyIsInt f.ty) 6 false f.d f.ty f.md f.ext) (icmpLane) s

/-- ICMP, immediate form (R194, R202). -/
def execIcmpLi (f : LiForm) (s : State) : Out :=
  runLi (.icmpLi f) f (fun fm => shCmp fm (tyIsInt f.ty) 6 false f.d f.ty f.md 0) (icmpLane) s

/-- MOV (R226). -/
def execMov (f : LaForm) (s : State) : Out :=
  runLa (.mov f) f (fun fm => shMov fm f.ty f.md f.ext) (movLane) s

/-- MOVI (R129, R226). -/
def execMovi (f : LiForm) (s : State) : Out :=
  runLi (.movi f) f (fun g => { d := .dst (slotsOf g f.ty) }) (moviLane) s

/-- Lane SEL (R227). -/
def execLaneSel (f : LaForm) (s : State) : Out :=
  runLa (.laneSel f) f (fun fm => shSel fm f.ty f.md f.ext) (selLane) s

/-- PFN3 (R227). -/
def execPfn3 (f : LaForm) (s : State) : Out :=
  runLa (.pfn3 f) f (fun _ => shPfn3 f.ty f.md f.ext) (pfn3Lane) s

/-- SPEC (R228). -/
def execSpec (f : LaForm) (s : State) : Out :=
  runLa (.spec f) f (fun _ => shSpec f.ty f.md f.ext) (specLane) s

/-- IXSET (R229). -/
def execIxset (f : LaForm) (s : State) : Out :=
  runLa (.ixset f) f (fun _ => shIxset f.ty f.md f.ext) (ixsetLane) s

end Sys2Proof.Machine
end

