-- ==== Sys2Proof/Machine/LaneFp.lean ====
section
/-!
DEFINITION. LaneFp.lean: lane float, conversion and variable-precision instructions (R203 to R212, R219 to R225).
-/
namespace Sys2Proof.Machine

/-! ### Codes of operands -/

/-- Slots of a window, slot b most significant (R50). -/
def windowBig (v n : Nat) : Nat := (splitSlots v n).foldl (fun acc w => acc * 2 ^ 32 + w.toNat) 0

/-- The code of a variable-precision window: its first 15 + p bits (R50, R51). -/
def windowCode (p v : Nat) : Nat := windowBig v (windowLen p) >>> (32 * windowLen p - (15 + p))

/-- The slots of a window that holds a code, the bits after it zero (R51). -/
def codeWindow (p code : Nat) : Nat :=
  let n := windowLen p
  let big := code <<< (32 * n - (15 + p))
  (List.range n).foldl (fun acc i => acc + ((big >>> (32 * (n - 1 - i))) % 2 ^ 32) <<< (32 * i)) 0

/-- An operand's code in a float type. -/
def readCode (s : State) (v : LaneEnv) (o : Opnd) (t : Ty) (l : Nat) : Nat :=
  if tyIsVpf t then windowCode (vpfPrec v.e.fmt t) (readTy s v o t l) else readTy s v o t l

/-- Operand b's code: the LI immediate or the operand. -/
def readCodeB (s : State) (v : LaneEnv) (x : Srcs) (t : Ty) (l : Nat) : Nat :=
  match x.imm with
  | some i => i
  | none => readCode s v x.b t l

/-- Write a code of a float type. -/
def putCode (s : State) (v : LaneEnv) (d : Opnd) (t : Ty) (l code : Nat) : LaneRes :=
  if tyIsVpf t then putSlots s.cur d (slotsOf v.e.fmt t) l (codeWindow (vpfPrec v.e.fmt t) code)
  else putTy s.cur d t 1 l code

/-- Element i of a packed word (R47). -/
def elemAt (t : Ty) (x i : Nat) : Nat :=
  let w := tyWidth t / tyCount t
  (x >>> (w * i)) % 2 ^ w

/-- Packed word of elements (R47). -/
def packElems (t : Ty) (es : List Nat) : Nat :=
  let w := tyWidth t / tyCount t
  es.foldr (fun e acc => e + acc <<< w) 0

/-- The rounding mode of an instruction (R55). -/
def rmIn (v : LaneEnv) (md : BitVec 10) : Rm := rmMode ((rmCode v.e.fmt (mdRnd md)).getD 0)

/-- n results in order, a random word drawn for each under SR (R59): codes, flags, the word after. -/
def drawEach (rm : Rm) (f : Nat → BitVec 16 → Nat × Nat) : List Nat → BitVec 16 → List Nat × Nat × BitVec 16
  | [], r => ([], 0, r)
  | i :: is, r =>
    let r := if rm = .sr then lfsrStep r else r
    let (c, fl) := f i r
    let (cs, fls, r') := drawEach rm f is r
    (c :: cs, fl ||| fls, r')

/-- A rounded elementwise result of a type: value, flags, random word (R47, R59). -/
def roundedElems (x : Srcs) (v : LaneEnv) (s : State) (l : Nat) (f : Nat → BitVec 16 → Nat × Nat) : LaneRes :=
  let rm := rmIn v x.md
  let (cs, fl, r) := drawEach rm f (List.range (tyCount x.ty)) (lfsrGet s.cur l)
  ((putTy s.cur x.d x.ty 1 l (packElems x.ty cs)).join (statOf v l fl)).join { rnd := [(l, r)] }

/-- Abs and then negate, exact (R203). -/
def applySigns (neg abs : Bool) (n : Num) : Num :=
  let n := if abs then numAbs n else n
  if neg then numNeg n else n

/-- Sources of element i: flushed, then signs applied (R203). -/
def srcNum (v : LaneEnv) (x : Srcs) (code i : Nat) (neg abs : Bool) : Num :=
  applySigns neg abs (readNum v.e.fmt (fmtOf v.e.fmt (tyElem x.ty)) (elemAt x.ty code i))

/-- FADD, FMUL and FFMA: `op` of the mode and the three sources (R203). -/
def arithLane (third : Bool) (op : Rm → Num → Num → Num → Num × Nat) (x : Srcs) (v : LaneEnv) (s : State) (l : Nat) :
    LaneRes :=
  let a := readTy s v x.a x.ty l
  let b := readB s v x x.ty l
  let c := if third then readTy s v x.c x.ty l else 0
  let F := fmtOf v.e.fmt (tyElem x.ty)
  let rm := rmIn v x.md
  roundedElems x v s l fun i r =>
    let (n, f1) := op rm (srcNum v x a i (bitAt x.md 0) (bitAt x.md 2)) (srcNum v x b i (bitAt x.md 1) (bitAt x.md 3))
      (srcNum v x c i (bitAt x.md 4) false)
    let (code, f2) := roundTo v.e.fmt F rm r n
    (code, f1 ||| f2)

def opFadd (rm : Rm) (a b _ : Num) : Num × Nat := numAdd rm a b
def opFmul (_ : Rm) (a b _ : Num) : Num × Nat := numMul a b
def opFfma (rm : Rm) (a b c : Num) : Num × Nat := numFma rm a b c

/-- The lesser or greater of two values, -0 below +0; NaN ignored or propagated (R204). -/
def pickNum (greater nanProp : Bool) (a b : Num) : Num :=
  match isNan a, isNan b with
  | true, true => .nan
  | true, false => if nanProp then .nan else b
  | false, true => if nanProp then .nan else a
  | false, false => if greater then (if numLessZ a b then b else a) else (if numLessZ b a then b else a)

/-- FMIN and FMAX do not round; a subnormal result is flushed on output (R204). -/
def minmaxLane (greater : Bool) (x : Srcs) (v : LaneEnv) (s : State) (l : Nat) : LaneRes :=
  let a := readTy s v x.a x.ty l
  let b := readB s v x x.ty l
  let F := fmtOf v.e.fmt (tyElem x.ty)
  let rs := (List.range (tyCount x.ty)).map fun i =>
    roundTo v.e.fmt F .rne 0 (pickNum greater (bitAt x.md 0) (srcNum v x a i false false) (srcNum v x b i false false))
  (putTy s.cur x.d x.ty 1 l (packElems x.ty (rs.map (·.1)))).join (statOf v l (rs.foldl (fun acc p => acc ||| p.2) 0))

/-- The conditions of R205, and the flags they set. -/
def floatCond (c : Nat) (a b : Num) : Bool × Nat :=
  let un := isNan a || isNan b
  let nv := if un then fNV else 0
  match c with
  | 0 => (!un && numEq a b, 0)
  | 1 => (un || !numEq a b, 0)
  | 2 => (!un && numLess a b, nv)
  | 3 => (!un && !numLess b a, nv)
  | 4 => (!un && numLess b a, nv)
  | 5 => (!un && !numLess a b, nv)
  | 6 => (un, 0)
  | _ => (!un, 0)

/-- FCMP and XCMP (R205, R223). -/
def fcmpLane (x : Srcs) (v : LaneEnv) (s : State) (l : Nat) : LaneRes :=
  let F := fmtOf v.e.fmt x.ty
  let (t, fl) := floatCond (x.md.extractLsb' 0 3).toNat (readNum v.e.fmt F (readCode s v x.a x.ty l))
    (readNum v.e.fmt F (readCodeB s v x x.ty l))
  let w := if tyIsVpf x.ty then 32 else tyWidth x.ty
  (putTest s.cur x.d 1 w l (combine (x.md.extractLsb' 3 2).toNat t (readPred s x.c l))).join (statOf v l fl)

/-- FMATH: the function of mod 3:0, correctly rounded (R206). -/
def fmathLane (x : Srcs) (v : LaneEnv) (s : State) (l : Nat) : LaneRes :=
  let fn := (x.md.extractLsb' 0 4).toNat
  let a := readTy s v x.a x.ty l
  let b := if fn = 8 then readB s v x x.ty l else 0
  let F := fmtOf v.e.fmt (tyElem x.ty)
  let rm := rmIn v x.md
  roundedElems x v s l fun i r =>
    let (n, f1) := fmathVal fn (srcNum v x a i false false) (srcNum v x b i false false)
    let (code, f2) := roundTo v.e.fmt F rm r n
    (code, f1 ||| f2)

/-- An e8m0 code as a value (R46). -/
def e8m0Num (c : Nat) : Num := if c % 256 = 0xFF then .nan else .fin false 1 ((c % 256 : Nat) - 127)

/-- FSCA: a times the scale plus c, rounded once (R207). -/
def fscaLane (x : Srcs) (v : LaneEnv) (s : State) (l : Nat) : LaneRes :=
  let f := v.e.fmt
  let rm := rmIn v x.md
  let b := readB32 s v { x with b := x.b } l
  let scale : Num := match (x.md.extractLsb' 0 2).toNat with
    | 0 => readNum f fmtF32 (readB s v x .f32 l)
    | 1 => e8m0Num b
    | _ => (numMul (e8m0Num b) (e8m0Num (b / 256))).1
  roundedElems x v s l fun _ r =>
    let (n, f1) := numFma rm (readNum f fmtF32 (readTy s v x.a .f32 l)) scale (readNum f fmtF32 (readTy s v x.c .f32 l))
    let (code, f2) := roundTo f fmtF32 rm r n
    (code, f1 ||| f2)

/-- The class mask of a code (R208). -/
def classMask (F : FFmt) (code : Nat) : Nat :=
  match decodeNum F code with
  | .nan => 256
  | .inf neg => if neg then 1 else 128
  | .fin neg m _ =>
    if m = 0 then (if neg then 8 else 16)
    else if isSubnormal F code then (if neg then 4 else 32)
    else if neg then 2 else 64

/-- FCLASS reads without flushing and sets no flag (R208). -/
def fclassLane (x : Srcs) (v : LaneEnv) (s : State) (l : Nat) : LaneRes :=
  let k := classMask (fmtOf v.e.fmt x.ty) (readCode s v x.a x.ty l)
  if isPred x.d then putTest s.cur x.d 1 1 l (k &&& (x.md.extractLsb' 0 9).toNat ≠ 0)
  else putSlots s.cur x.d 1 l k

/-! ### Conversions (R209 to R212, R222) -/

/-- The value of a source operand of any convertible type. -/
def srcValue (s : State) (v : LaneEnv) (o : Opnd) (t : Ty) (l : Nat) : Num :=
  if tyIsInt t then numOfInt (tyInt t (readTy s v o t l))
  else if t = .e8m0 then e8m0Num (readTy s v o t l)
  else readNum v.e.fmt (fmtOf v.e.fmt t) (readCode s v o t l)

/-- CVT and XCVT: integer to integer wraps or clamps; otherwise one rounding, one random word under SR (R209, R222). -/
def cvtLane (x : Srcs) (v : LaneEnv) (s : State) (l : Nat) : LaneRes :=
  let ts := (extTy x.ext).getD .f32
  let n := slotsOf v.e.fmt x.ty
  if tyIsInt x.ty && tyIsInt ts then
    putTy s.cur x.d x.ty n l (wrapOrClamp x.ty (bitAt x.md 0) (tyInt ts (readTy s v x.a ts l)))
  else
    let rm := rmIn v x.md
    let r0 := lfsrGet s.cur l
    let r := if rm = .sr then lfsrStep r0 else r0
    let a := srcValue s v x.a ts l
    if tyIsInt x.ty then
      let (k, fl) := convertInt x.ty rm r a
      ((putTy s.cur x.d x.ty n l (wrapOrClamp x.ty false k)).join (statOf v l fl)).join { rnd := [(l, r)] }
    else
      let (code, fl) := convertNum v.e.fmt (fmtOf v.e.fmt x.ty) rm r a
      ((putCode s v x.d x.ty l code).join (statOf v l fl)).join { rnd := [(l, r)] }

/-- Slot i of a window operand in a lane. -/
def windowSlot (s : State) (v : LaneEnv) (o : Opnd) (n i l : Nat) : Nat :=
  (readSlots s v o n none l >>> (32 * i)) % 2 ^ 32

/-- PACK (R210). -/
def packLane (x : Srcs) (v : LaneEnv) (s : State) (l : Nat) : LaneRes :=
  let f := v.e.fmt
  let n := tyCount x.ty
  let F := fmtOf f (tyElem x.ty)
  let rm := rmIn v x.md
  let b := readB32 s v x l % 256
  roundedElems x v s l fun i r =>
    let a := readNum f fmtF32 (windowSlot s v x.a n i l)
    let a := if bitAt x.md 0 then (if b = 0xFF then .nan else (numMul a (.fin false 1 (127 - (b : Int)))).1) else a
    convertNum f F rm r a

/-- UNPACK: exact, with no random word, or scaled and rounded once; results flushed by class A (R211, log 91). -/
def unpackLane (x : Srcs) (v : LaneEnv) (s : State) (l : Nat) : LaneRes :=
  let f := v.e.fmt
  let ts := (extTy x.ext).getD .bf16x2
  let n := tyCount ts
  let F := fmtOf f (tyElem ts)
  let a := readTy s v x.a ts l
  let b := readB32 s v x l % 256
  let scaled := bitAt x.md 0
  let rm := if scaled then rmIn v x.md else .rne
  let (cs, fl, r) := drawEach rm (fun i r =>
    let e := readNum f F (elemAt ts a i)
    let e := if scaled then (if b = 0xFF then .nan else (numMul e (.fin false 1 ((b : Int) - 127))).1) else e
    roundTo f fmtF32 rm r e) (List.range n) (lfsrGet s.cur l)
  ((putSlots s.cur x.d n l (cs.foldr (fun c acc => c + acc <<< 32) 0)).join (statOf v l fl)).join
    { rnd := if scaled then [(l, r)] else [] }

/-- floor(log2) of a format's largest finite value (R49, R70). -/
def emaxOf (F : FFmt) : Int := expOf (magValue F (maxCode F)).1 (magValue F (maxCode F)).2

/-- SCALEX's code and flags for a value (R70). -/
def scalexVal (F : FFmt) (a : Num) : Nat × Nat :=
  match a with
  | .nan => (0xFF, 0)
  | .inf _ => (0xFE, fOF)
  | .fin _ m e =>
    if m = 0 then (0, 0)
    else
      let k := expOf m e - emaxOf F
      if k < -127 then (0, fSU) else if k ≤ 126 then ((k + 127).toNat, 0) else (0xFD, fOF)

def scalexLane (x : Srcs) (v : LaneEnv) (s : State) (l : Nat) : LaneRes :=
  let F := fmtOf v.e.fmt ((extTy x.ext).getD .e4m3)
  let (c, fl) := scalexVal F (readNum v.e.fmt fmtF32 (readTy s v x.a .f32 l))
  (putSlots s.cur x.d 1 l c).join (statOf v l fl)

/-! ### Variable precision (R219 to R225) -/

/-- A source window read at its precision and flushed (R51, R61). -/
def vpfSrc (s : State) (v : LaneEnv) (x : Srcs) (o : Opnd) (l : Nat) : Num :=
  let ts := (extTy x.ext).getD .vpf
  readNum v.e.fmt (fmtOf v.e.fmt ts) (readCode s v o ts l)

/-- One rounded variable-precision result (R220). -/
def vpfRound (x : Srcs) (v : LaneEnv) (s : State) (l : Nat) (n : Num × Nat) : LaneRes :=
  let rm := rmIn v x.md
  let r0 := lfsrGet s.cur l
  let r := if rm = .sr then lfsrStep r0 else r0
  let (code, fl) := roundTo v.e.fmt (fmtOf v.e.fmt x.ty) rm r n.1
  ((putCode s v x.d x.ty l code).join (statOf v l (n.2 ||| fl))).join { rnd := [(l, r)] }

def xaddLane (x : Srcs) (v : LaneEnv) (s : State) (l : Nat) : LaneRes :=
  vpfRound x v s l (numAdd (rmIn v x.md) (vpfSrc s v x x.a l) (vpfSrc s v x x.b l))
def xmulLane (x : Srcs) (v : LaneEnv) (s : State) (l : Nat) : LaneRes :=
  vpfRound x v s l (numMul (vpfSrc s v x x.a l) (vpfSrc s v x x.b l))
def xfmaLane (x : Srcs) (v : LaneEnv) (s : State) (l : Nat) : LaneRes :=
  vpfRound x v s l (numFma (rmIn v x.md) (vpfSrc s v x x.a l) (vpfSrc s v x x.b l) (vpfSrc s v x x.c l))

/-- The exact result of XADDE or XMULE in a lane. -/
def exactOf (mul : Bool) (x : Srcs) (v : LaneEnv) (s : State) (l : Nat) : Num × Nat :=
  if mul then numMul (vpfSrc s v x x.a l) (vpfSrc s v x x.b l)
  else numAdd (rmIn v x.md) (vpfSrc s v x x.a l) (vpfSrc s v x x.b l)

/-- An exact result is representable in a format, or exceeds its largest finite value M (R71 steps 1 and 2). One beyond M that
rounds to M is not an overflow of R58: it gives M with NX alone, neither trapping nor setting OF or PX (DEDUCED, log 92). -/
def exactFits (F : FFmt) : Num → Bool
  | .fin neg m e =>
    if m = 0 then true
    else
      let q := quantum F m e
      let (k, rem, _) := splitAt m e q
      rem = 0 || magCode F k q ≥ maxCode F && (match Num.fin neg m e with
        | .fin _ m e => numLess (.fin false (magValue F (maxCode F)).1 (magValue F (maxCode F)).2) (.fin false m e)
        | _ => false)
  | _ => true

/-- The environment without output flushing of class A: a representable result is written exactly, subnormals included (R71). -/
def noFlushOut (v : LaneEnv) : LaneEnv := { v with e := { v.e with fmt := v.e.fmt &&& ~~~0x40 } }

/-- XADDE and XMULE where the result may be written (R71): PX beside NX when an inexact result was rounded to CPREC. -/
def exactLane (mul : Bool) (x : Srcs) (v : LaneEnv) (s : State) (l : Nat) : LaneRes :=
  let n := exactOf mul x v s l
  let F := fmtOf v.e.fmt x.ty
  if exactFits F n.1 then vpfRound x (noFlushOut v) s l n
  else (vpfRound x v s l n).join (statOf v l (fPX ||| fNX))

/-- The precision-exhausted trap wherever some acting lane's exact result is not representable and PXT is 1 (R71, R221). -/
def exactBody (mul : Bool) (x : Srcs) (v : LaneEnv) (s : State) : State :=
  if fmtPxt v.e.fmt && (actLanes v).any fun l => !exactFits (fmtOf v.e.fmt x.ty) (exactOf mul x v s l).1 then
    laneTrap s 0x11 0
  else perLane x.yw (exactLane mul x) v s

/-- XRND: to an integer or a precision, then to the destination's precision (R224). -/
def xrndLane (x : Srcs) (v : LaneEnv) (s : State) (l : Nat) : LaneRes :=
  let f := v.e.fmt
  let q := (extByte x.ext).toNat
  let F := fmtOf f x.ty
  let rm := rmIn v x.md
  let r0 := lfsrGet s.cur l
  let r := if rm = .sr then lfsrStep r0 else r0
  let a := vpfSrc s v x x.a l
  let (y, f1) : Num × Nat := match a with
    | .fin neg m e =>
      if q = 0 then
        let (k, rem, sh) := splitAt m e 0
        (.fin neg (if roundsUp rm neg (k.testBit 0) rem sh r then k + 1 else k) 0, if rem = 0 then 0 else fNX)
      else
        let G := fmtVpf (min q F.prec)
        let (c, fl) := roundTo f G rm r a
        (decodeNum G c, fl)
    | n => (n, 0)
  let (code, f2) := roundTo f F rm r y
  ((putCode s v x.d x.ty l code).join (statOf v l (f1 ||| f2))).join { rnd := [(l, r)] }

/-- XERR: the rounding error of a sum or product; s uses the word the lane holds, d draws one (R225). -/
def xerrLane (x : Srcs) (v : LaneEnv) (s : State) (l : Nat) : LaneRes :=
  let f := v.e.fmt
  let F := fmtOf f x.ty
  let rm := rmIn v x.md
  let r0 := lfsrGet s.cur l
  let r := if rm = .sr then lfsrStep r0 else r0
  let a := vpfSrc s v x x.a l
  let b := vpfSrc s v x x.b l
  let n := (if bitAt x.md 0 then numMul a b else numAdd rm a b).1
  let sum := roundTo f F rm r0 n
  let bad : Option Nat :=
    if isNan a || isNan b then some 0
    else if isInf a || isInf b || sum.2 &&& fOF ≠ 0 then some fNV
    else none
  let (code, fl) := match bad with
    | some fl => (nanCode F, fl)
    | none => roundTo f F rm r (numAdd rm n (numNeg (decodeNum F sum.1))).1
  ((putCode s v x.d x.ty l code).join (statOf v l fl)).join { rnd := [(l, r)] }

/-! ### The instructions -/

/-- FADD (R203). -/
def execFadd (f : LaForm) (s : State) : Out :=
  runLa (.fadd f) f (fun _ => shFloat 0xF false f.ty f.md f.ext) (arithLane false opFadd) s

/-- FADD, immediate form (R194, R203). -/
def execFaddLi (f : LiForm) (s : State) : Out :=
  runLi (.faddLi f) f (fun _ => shFloat 0xF false f.ty f.md 0) (arithLane false opFadd) s

/-- FMUL (R203). -/
def execFmul (f : LaForm) (s : State) : Out :=
  runLa (.fmul f) f (fun _ => shFloat 0xF false f.ty f.md f.ext) (arithLane false opFmul) s

/-- FMUL, immediate form (R194, R203). -/
def execFmulLi (f : LiForm) (s : State) : Out :=
  runLi (.fmulLi f) f (fun _ => shFloat 0xF false f.ty f.md 0) (arithLane false opFmul) s

/-- FFMA (R203). -/
def execFfma (f : LaForm) (s : State) : Out :=
  runLa (.ffma f) f (fun _ => shFloat 0x1F true f.ty f.md f.ext) (arithLane true opFfma) s

/-- FFMA, immediate form (R194, R203). -/
def execFfmaLi (f : LiForm) (s : State) : Out :=
  runLi (.ffmaLi f) f (fun _ => shFloat 0x1F true f.ty f.md 0) (arithLane true opFfma) s

/-- FMIN (R204). -/
def execFmin (f : LaForm) (s : State) : Out :=
  runLa (.fmin f) f (fun _ => shFminmax f.ty f.md f.ext) (minmaxLane false) s

/-- FMIN, immediate form (R194, R204). -/
def execFminLi (f : LiForm) (s : State) : Out :=
  runLi (.fminLi f) f (fun _ => shFminmax f.ty f.md 0) (minmaxLane false) s

/-- FMAX (R204). -/
def execFmax (f : LaForm) (s : State) : Out :=
  runLa (.fmax f) f (fun _ => shFminmax f.ty f.md f.ext) (minmaxLane true) s

/-- FMAX, immediate form (R194, R204). -/
def execFmaxLi (f : LiForm) (s : State) : Out :=
  runLi (.fmaxLi f) f (fun _ => shFminmax f.ty f.md 0) (minmaxLane true) s

/-- FCMP (R205). -/
def execFcmp (f : LaForm) (s : State) : Out :=
  runLa (.fcmp f) f (fun fm => shCmp fm (tyIsFloat f.ty) 8 false f.d f.ty f.md f.ext) (fcmpLane) s

/-- FCMP, immediate form (R194, R205). -/
def execFcmpLi (f : LiForm) (s : State) : Out :=
  runLi (.fcmpLi f) f (fun fm => shCmp fm (tyIsFloat f.ty) 8 false f.d f.ty f.md 0) (fcmpLane) s

/-- FMATH (R206). -/
def execFmath (f : LaForm) (s : State) : Out :=
  runLa (.fmath f) f (fun _ => shFmath f.ty f.md f.ext) (fmathLane) s

/-- FMATH.div, immediate form (R194, R206). -/
def execFmathDivLi (f : LiForm) (s : State) : Out :=
  runLi (.fmathDivLi f) f (fun _ => shFmath f.ty f.md 0) (fmathLane) s

/-- FSCA (R207). -/
def execFsca (f : LaForm) (s : State) : Out :=
  runLa (.fsca f) f (fun _ => shFsca f.ty f.md f.ext) (fscaLane) s

/-- FSCA, immediate form (R207). -/
def execFscaLi (f : LiForm) (s : State) : Out :=
  runLi (.fscaLi f) f (fun _ => shFsca f.ty f.md 0) (fscaLane) s

/-- FCLASS (R208). -/
def execFclass (f : LaForm) (s : State) : Out :=
  runLa (.fclass f) f (fun fm => shFclass fm f.d f.ty f.md f.ext) (fclassLane) s

/-- CVT (R209). -/
def execCvt (f : LaForm) (s : State) : Out :=
  runLa (.cvt f) f (fun fm => shCvt fm f.ty f.md f.ext) (cvtLane) s

/-- PACK (R210). -/
def execPack (f : LaForm) (s : State) : Out :=
  runLa (.pack f) f (fun _ => shPack f.ty f.md f.ext) (packLane) s

/-- UNPACK (R211). -/
def execUnpack (f : LaForm) (s : State) : Out :=
  runLa (.unpack f) f (fun _ => shUnpack f.ty f.md f.ext) (unpackLane) s

/-- SCALEX (R212). -/
def execScalex (f : LaForm) (s : State) : Out :=
  runLa (.scalex f) f (fun _ => shScalex f.ty f.md f.ext) (scalexLane) s

/-- XADD (R220). -/
def execXadd (f : LaForm) (s : State) : Out :=
  runLa (.xadd f) f (fun fm => shVpf fm false false f.md 0 f.ty f.ext true (extByte f.ext = 0)) (xaddLane) s

/-- XMUL (R220). -/
def execXmul (f : LaForm) (s : State) : Out :=
  runLa (.xmul f) f (fun fm => shVpf fm false false f.md 0 f.ty f.ext true (extByte f.ext = 0)) (xmulLane) s

/-- XFMA (R220). -/
def execXfma (f : LaForm) (s : State) : Out :=
  runLa (.xfma f) f (fun fm => shVpf fm true false f.md 0 f.ty f.ext true (extByte f.ext = 0)) (xfmaLane) s

/-- XADDE (R71, R221). -/
def execXadde (f : LaForm) (s : State) : Out :=
  runLaBody (.xadde f) f (fun fm => shVpf fm false true f.md 0 f.ty f.ext true (extByte f.ext = 0))
    (exactBody false (srcsLa f)) s

/-- XMULE (R71, R221). -/
def execXmule (f : LaForm) (s : State) : Out :=
  runLaBody (.xmule f) f (fun fm => shVpf fm false true f.md 0 f.ty f.ext true (extByte f.ext = 0))
    (exactBody true (srcsLa f)) s

/-- XCVT (R222). -/
def execXcvt (f : LaForm) (s : State) : Out :=
  runLa (.xcvt f) f (fun fm => shXcvt fm f.ty f.md f.ext) (cvtLane) s

/-- XCMP (R223). -/
def execXcmp (f : LaForm) (s : State) : Out :=
  runLa (.xcmp f) f (fun fm => shCmp fm (tyIsVpf f.ty) 8 true f.d f.ty f.md f.ext) (fcmpLane) s

/-- XRND (R224). -/
def execXrnd (f : LaForm) (s : State) : Out :=
  runLa (.xrnd f) f (fun fm => shVpf fm false false f.md 0 f.ty f.ext false (xrndTarget (extByte f.ext).toNat)) (xrndLane) s

/-- XERR (R225). -/
def execXerr (f : LaForm) (s : State) : Out :=
  runLa (.xerr f) f (fun fm => shVpf fm false false f.md 1 f.ty f.ext true (extByte f.ext = 0)) (xerrLane) s

end Sys2Proof.Machine
end

