-- ==== Sys2Proof/Machine/LaneCross.lean ====
section
/-!
DEFINITION. LaneCross.lean: the cross-lane instructions (R213 to R218).
-/
namespace Sys2Proof.Machine

/-! ### Reading another lane (R213) -/

/-- The width of a segment code. -/
def segWidth (code : Nat) : Nat := 32 / 2 ^ code

/-- Operand a of another lane: 0 where that lane does not act and its slot is out of range (R213). -/
def readOther (s : State) (v : LaneEnv) (x : Srcs) (l : Nat) : Nat :=
  if slotInRange s.cur x.a (slotsOf v.e.fmt x.ty) l then readTy s v x.a x.ty l else 0

/-- Each acting lane receives a of the lane `src` gives; the granules of those lanes are filled first (R38, R213). -/
def permBody (x : Srcs) (src : LaneEnv → State → Nat → Nat) (v : LaneEnv) (s : State) : State :=
  let n := slotsOf v.e.fmt x.ty
  match fillGranules s (neededGranules s.cur ((actLanes v).map (src v s)) [(1, .src n (some x.ty), x.a)]) with
  | .error c => laneTrap s c.1 c.2
  | .ok s1 => perLane x.yw (fun v s l => putTy s.cur x.d x.ty n l (readOther s v x (src v s l))) v s1

/-- The frame of LPERM, QXCH and QBC. -/
def runPerm (i : Instr) (x : LaForm) (sh : W64 → Shape) (src : LaneEnv → State → Nat → Nat) (s : State) : Out :=
  let h := sh (clauseFmt s)
  .next (withLane (fillOwn [(0, h.d, x.d), (2, h.b, x.b)]) i x.pr (posLa x h) (permBody (srcsLa x) src) s)

/-- The lane LPERM reads: mode in mod 1:0, segment in mod 4:2 (R214). -/
def lpermSource (x : Srcs) (v : LaneEnv) (s : State) (l : Nat) : Nat :=
  let g := segWidth (x.md.extractLsb' 2 3).toNat
  let i := l % g
  let n := readB32 s v x l
  let j := match (x.md.extractLsb' 0 2).toNat with
    | 0 => n % g
    | 1 => if n ≤ i then i - n else i
    | 2 => if i + n < g then i + n else i
    | _ => i ^^^ (n % g)
  l - i + j

/-- LPERM (R214). -/
def execLperm (f : LaForm) (s : State) : Out :=
  runPerm (.lperm f) f (fun fm => shLperm fm f.ty f.md f.ext) (lpermSource (srcsLa f)) s

/-- QXCH: the partner in the quad (R215). -/
def execQxch (f : LaForm) (s : State) : Out :=
  runPerm (.qxch f) f (fun fm => shQuad fm 3 f.ty f.md f.ext) (fun _ _ l => l ^^^ ((f.md.extractLsb' 0 2).toNat + 1)) s

/-- QBC: lane 4q + m (R215). -/
def execQbc (f : LaForm) (s : State) : Out :=
  runPerm (.qbc f) f (fun fm => shQuad fm 4 f.ty f.md f.ext) (fun _ _ l => 4 * (l / 4) + (f.md.extractLsb' 0 2).toNat) s

/-! ### Reductions (R216, R217) -/

/-- Combine two positions, either of which may be absent. -/
def combOpt {α : Type} (f : α → α → α × Nat) : Option α → Option α → Option α × Nat
  | none, y => (y, 0)
  | x, none => (x, 0)
  | some x, some y => let r := f x y; (some r.1, r.2)

/-- One level of the pairwise tree. -/
def treeLevel {α : Type} (f : α → α → α × Nat) : List (Option α) → List (Option α) × Nat
  | x :: y :: r =>
    let c := combOpt f x y
    let t := treeLevel f r
    (c.1 :: t.1, c.2 ||| t.2)
  | l => (l, 0)

/-- The tree to one value: at most five levels. -/
def treeReduce {α : Type} (f : α → α → α × Nat) : Nat → List (Option α) → Option α × Nat
  | 0, l => ((l.head?).getD none, 0)
  | n + 1, l =>
    if l.length ≤ 1 then ((l.head?).getD none, 0)
    else
      let t := treeLevel f l
      let r := treeReduce f n t.1
      (r.1, t.2 ||| r.2)

/-- Running combinations: what each lane of a list receives. An exclusive scan combines nothing after its last participant,
whose own value no lane receives (R217). -/
def scanList {α : Type} (f : α → α → α × Nat) (ex : Bool) (ident : α) : Option α → List (Nat × α) → List (Nat × α) × Nat
  | _, [] => ([], 0)
  | acc, [(l, x)] =>
    let c := combOpt f acc (some x)
    if ex then ([(l, acc.getD ident)], 0) else ([(l, c.1.getD x)], c.2)
  | acc, (l, x) :: r =>
    let c := combOpt f acc (some x)
    let t := scanList f ex ident c.1 r
    ((l, if ex then acc.getD ident else c.1.getD x) :: t.1, c.2 ||| t.2)

/-- The integer operations on w-bit numbers of a type. -/
def redInt (t : Ty) (op : Nat) (a b : Nat) : Nat × Nat :=
  (match op with
   | 0 => (a + b) % 2 ^ tyWidth t
   | 1 => if tyInt t a ≤ tyInt t b then a else b
   | 2 => if tyInt t a ≤ tyInt t b then b else a
   | 3 => a &&& b
   | 4 => a ||| b
   | _ => a ^^^ b, 0)

/-- The identities of the integer operations (R217). -/
def identInt (t : Ty) (op : Nat) : Nat :=
  match op with
  | 1 => (intMax t).toNat
  | 2 => (intMin t % 2 ^ tyWidth t).toNat
  | 3 => 2 ^ tyWidth t - 1
  | _ => 0

/-- The float operations: a rounded sum, the lesser, the greater, the greatest magnitude (R216). Each rounded sum takes the
output flush of R61 at once, and so does a value that no sum rounded (DEDUCED, log 89). -/
def redNum (f : W64) (F : FFmt) (rm : Rm) (op : Nat) (a b : Num) : Num × Nat :=
  match op with
  | 0 =>
    let n := numAdd rm a b
    let c := roundTo f F rm 0 n.1
    (decodeNum F c.1, n.2 ||| c.2)
  | 1 => (pickNum false false a b, 0)
  | 2 => (pickNum true false a b, 0)
  | _ => (pickNum true true a b, 0)

/-- The identities of the float operations (R217). -/
def identNum (op : Nat) : Num :=
  match op with
  | 0 => .fin false 0 0
  | 1 => .inf false
  | _ => .inf true

/-- The rounding mode of a reduction: SR is replaced by RNE (R216). -/
def redRm (v : LaneEnv) (md : BitVec 10) : Rm := if rmIn v md = .sr then .rne else rmIn v md

/-- The lanes of segment k. -/
def segLanes (g k : Nat) : List Nat := (List.range g).map fun i => k * g + i

/-- What the participants of one segment receive, and the flags: by tree or by scan. -/
def segResult {α : Type} (scan ex : Bool) (comb : α → α → α × Nat) (ident : α) (read : Nat → α) (parts : Nat → Bool)
    (lanes : List Nat) : List (Nat × α) × Nat :=
  if scan then scanList comb ex ident none ((lanes.filter parts).map fun l => (l, read l))
  else
    let t := treeReduce comb 5 (lanes.map fun l => if parts l then some (read l) else none)
    match t.1 with
    | none => ([], t.2)
    | some r => ((lanes.filter parts).map fun l => (l, r), t.2)

/-- Results of every segment. -/
def allSegs {α : Type} (g : Nat) (seg : List Nat → List (Nat × α) × Nat) : List (Nat × α) × Nat :=
  (List.range (32 / g)).foldl (fun acc k => let r := seg (segLanes g k); (acc.1 ++ r.1, acc.2 ||| r.2)) ([], 0)

/-- The body of RED and SCAN. -/
def redBody (scan : Bool) (x : Srcs) (v : LaneEnv) (s : State) : State :=
  let f := v.e.fmt
  let op := (x.md.extractLsb' 0 3).toNat
  let ex := scan && bitAt x.md 3
  let g := segWidth (if scan then x.md.extractLsb' 4 3 else x.md.extractLsb' 3 3).toNat
  let parts (l : Nat) : Bool := v.active.getLsbD l
  let n := slotsOf f x.ty
  let res : List LaneRes × Nat :=
    if tyIsInt x.ty then
      let r := allSegs g (segResult scan ex (redInt x.ty op) (identInt x.ty op) (fun l => readTy s v x.a x.ty l) parts)
      (r.1.map fun p => putTy s.cur x.d x.ty n p.1 p.2, r.2)
    else
      let F := fmtOf f x.ty
      let src (l : Nat) : Num :=
        let a := readNum f F (readTy s v x.a x.ty l)
        if op = 6 then numAbs a else a
      let r := allSegs g (segResult scan ex (redNum f F (redRm v x.md) op) (identNum op) src parts)
      let codes := r.1.map fun p => (p.1, roundTo f F .rne 0 p.2)
      (codes.map fun p => putTy s.cur x.d x.ty n p.1 p.2.1, codes.foldl (fun acc p => acc ||| p.2.2) r.2)
  commitLane s ((joinRes res.1).join { stat := res.2 }) x.yw

/-- Granules of the participants only. -/
def fillActive (ps : List OpPos) (g : Group) (v : LaneEnv) : List Nat := neededGranules g (lanesOf v.active) ps

/-- The frame of RED, SCAN and PPOLL. -/
def runActive (i : Instr) (x : LaForm) (sh : W64 → Shape) (body : LaneEnv → State → State) (s : State) : Out :=
  let ps := posLa x (sh (clauseFmt s))
  .next (withLane (fillActive ps) i x.pr ps body s)

/-- RED (R216). -/
def execRed (f : LaForm) (s : State) : Out :=
  runActive (.red f) f (fun fm => shRed fm false f.ty f.md f.ext) (redBody false (srcsLa f)) s

/-- SCAN (R217). -/
def execScan (f : LaForm) (s : State) : Out :=
  runActive (.scan f) f (fun fm => shRed fm true f.ty f.md f.ext) (redBody true (srcsLa f)) s

/-- PPOLL's result from the participants' values (R218). -/
def pollLane (x : Srcs) (v : LaneEnv) (s : State) (l : Nat) : LaneRes :=
  let on (k : Nat) : Bool := readPred s x.a k
  let parts := lanesOf v.active
  let pred (b : Bool) : LaneRes := putTest s.cur x.d 1 1 l b
  if isHelper v l then {}
  else
    match (x.md.extractLsb' 0 2).toNat with
    | 0 => pred (parts.all on)
    | 1 => pred (parts.any on)
    | 2 => putSlots s.cur x.d 1 l (parts.foldl (fun acc k => if on k then acc + 2 ^ k else acc) 0)
    | _ => pred (parts.all on || !(parts.any on))

/-- PPOLL (R218). -/
def execPpoll (f : LaForm) (s : State) : Out :=
  runActive (.ppoll f) f (fun _ => shPpoll f.d f.ty f.md f.ext) (perLane f.yw (pollLane (srcsLa f))) s

end Sys2Proof.Machine
end

