-- ==== Sys2Proof/Machine/LaneMem.lean ====
section
/-!
DEFINITION. LaneMem.lean: lane loads, stores, prefetch, atomics and full/empty operations (R230 to R247).
-/
namespace Sys2Proof.Machine

/-! ### Addresses and checks (R230 to R232) -/

/-- The effective address of a lane (R230). -/
def lmEa (x : LmForm) (v : LaneEnv) (s : State) (l : Nat) : W64 :=
  sreg s x.sbase + sext64 (BitVec.ofNat 32 (readSlots s v x.addr 1 none l)) + sext64 x.off

/-- The operand positions of a format LM instruction: data, then addr. -/
def lmPos (x : LmForm) (data : Use) : List OpPos := [(0, data, x.data), (1, .src 1 none, x.addr)]

/-- A lane's access: its lane, its address, what its check answers. -/
structure LaneAcc where
  lane : Nat
  ea : W64
  res : Except Nat (List Run)

/-- The causes a lane access can meet, in the order of R138. -/
def causeOrder : List Nat := [0x0D, 0x08, 0x09, 0x0B, 0x0C, 0x12]

/-- The cause a check failed with. -/
def failedWith : Except Nat (List Run) → Nat
  | .error c => c
  | .ok _ => 0

/-- The trap of an instruction: the first cause in order that any lane meets, at the lowest lane that meets it (R232). -/
def lanesTrap (xs : List LaneAcc) : Option (Nat × W64) :=
  causeOrder.findSome? fun c => (xs.find? fun a => failedWith a.res = c).map fun a => (c, a.ea)

/-- The runs of a checked access. -/
def accRuns (a : LaneAcc) : List Run :=
  match a.res with
  | .ok rs => rs
  | .error _ => []

/-- A window address of space 3 has bits 63:44 zero (R231). -/
def windowEaOk (space : Nat) (ea : W64) : Bool := space ≠ 3 || ea.toNat < 2 ^ 44

/-- Check one lane's access of n bytes aligned to `al` (R231, R235). -/
def laneCheck (f : State → Run → Option XErr) (k : Access) (s : State) (space : Nat) (al n : Nat) (ea : W64) :
    Except Nat (List Run) :=
  if ea.toNat % al ≠ 0 then .error 0x0D
  else if !windowEaOk space ea then .error (faultCause k)
  else checkedRuns f s space k ea n

/-- A misaligned access of an active lane comes before a failing fill of the data operand (R138): the lowest such lane's address, once
the granules of the address operand are there. -/
def lmEarly (x : LmForm) (al : Nat) (v : LaneEnv) (s : State) : Option (Nat × W64) :=
  match fillGranules s (neededGranules s.cur (lanesOf v.active) [(1, .src 1 none, x.addr)]) with
  | .ok s1 => ((lanesOf v.active).map (lmEa x v s1)).find? (fun ea => ea.toNat % al ≠ 0) |>.map fun ea => (0x0D, ea)
  | .error _ => none

/-- The accesses of some lanes. -/
def laneAccs (x : LmForm) (v : LaneEnv) (s : State) (lanes : List Nat) (chk : W64 → Except Nat (List Run)) : List LaneAcc :=
  lanes.map fun l => { lane := l, ea := lmEa x v s l, res := chk (lmEa x v s l) }

/-- Whether a lane instruction may issue: fewer than 64 outstanding (R21), for a release or SC order the group's earlier stores
performed at the scope (R105), and for SC its turn in the SC order (R109). -/
def lmMayIssue (x : LmForm) (s : State) : Bool :=
  (longOuts s.cur).length < 64 && (!isRelease x.order.toNat || storesDone s x.scope.toNat)
    && scMay s .lane x.order.toNat x.scope.toNat 0

/-- Whether a tile store may issue: it takes its place in the SC order when it is performed (R109, R259). -/
def tileMayIssue (x : LmForm) (s : State) : Bool :=
  (longOuts s.cur).length < 64 && (!isRelease x.order.toNat || storesDone s x.scope.toNat)

/-- The instruction issues as a long-latency operation: it attaches to its flag and the clause goes on (R20). -/
def issueLong (returning : Bool) (tiles : List Nat) (writes : List (Nat × W32)) (act : OutAct) (s : State) : State :=
  match running s.cur with
  | none => s
  | some e =>
    let f := attachFlag e returning
    modCur s fun g =>
      let g := match f with
        | some i => flagAdd g i 1
        | none => g
      let o : OutOp := { seq := g.nextSeq, matrix := false, flag := f, tiles, writes, act, band := none }
      stepClause { g with outs := g.outs ++ [o], nextSeq := g.nextSeq + 1 }

/-- What lanes' accesses ask for while they wait. -/
def askLanes (write : Bool) (s : State) (accs : List LaneAcc) : State := accs.foldl (fun t a => askRuns t write (accRuns a)) s

/-- The frame of an access by lanes: wait, check every lane, wait for what is held or not granted, then go on (R232, R343). -/
def accessLanes (may : Bool) (x : LmForm) (write : Bool) (accs : List LaneAcc) (k : State → State) (s : State) : State :=
  if !may then stall s
  else
    match lanesTrap accs with
    | some (c, ea) => laneTrap s c ea
    | none =>
      if accs.any fun a => runsBusy s write (accRuns a) then
        stall (scAsk s .lane x.order.toNat x.scope.toNat (askLanes write s accs))
      else k s

/-- The access of an instruction that is performed when it issues. -/
def laneAccess (x : LmForm) (write : Bool) (accs : List LaneAcc) (k : State → State) (s : State) : State :=
  accessLanes (lmMayIssue x s) x write accs (fun s => k (scTake s .lane x.order.toNat x.scope.toNat 31)) s

/-- The walks of lanes' accesses: every page is marked before any access is performed (R88). -/
def touchLanes (k : Access) (s : State) (accs : List LaneAcc) : State :=
  accs.foldl (fun t a => touchRuns t (accActor t a.ea) k a.ea (accRuns a)) s

/-! ### LD (R234, R235) -/

/-- The slots of one element as LD extends it (R193, R234). -/
def elemSlots (t : Ty) (bs : List Byte) : List W32 :=
  if bs.length = 8 then splitSlots (leValue bs) 2 else [BitVec.ofNat 32 (extTyBits t (leValue bs))]

/-- Bytes cut into elements. -/
def cutElems (size : Nat) : Nat → List Byte → List (List Byte)
  | 0, _ => []
  | n + 1, bs => bs.take size :: cutElems size n (bs.drop size)

/-- Slots of the data operand of LD and ST. -/
def lmSlots (x : LmForm) : Nat := vecCount x.vec * (if tyWidth x.ty = 64 then 2 else 1)

/-- Bytes a lane of LD or ST accesses. -/
def lmBytes (x : LmForm) : Nat := vecCount x.vec * elemBytes x.ty

/-- The loads of some lanes in ascending order: register writes and the state after. -/
def loadLanes (x : LmForm) (s : State) : List LaneAcc → List (Nat × W32) × State
  | [] => ([], s)
  | a :: r =>
    let b := loadRuns s a.ea (accRuns a)
    let ws := (cutElems (elemBytes x.ty) (vecCount x.vec) b.1).flatMap (elemSlots x.ty)
    let t := loadLanes x b.2 r
    ((opndKeys s.cur x.data (lmSlots x) a.lane).zip ws ++ t.1, t.2)

/-- Zeros for a helper whose access would trap (R27, R232). -/
def zeroLanes (g : Group) (d : Opnd) (n : Nat) (lanes : List Nat) : List (Nat × W32) :=
  lanes.flatMap fun l => (opndKeys g d n l).map fun k => (k, 0)

/-- Whether an access failed. -/
def accFailed (a : LaneAcc) : Bool := failedWith a.res ≠ 0

/-- The body of LD: a load in space 3 faults in every lane, since the window answers none (R236). -/
def ldBody (x : LmForm) (v : LaneEnv) (s : State) : State :=
  let chk := laneCheck loadErr .load s x.space.toNat (elemBytes x.ty) (lmBytes x)
  let helps := laneAccs x v s (lanesOf v.helpers) chk
  let accs := laneAccs x v s (lanesOf v.active) chk
  laneAccess x false accs (fun s =>
    let r := loadLanes x s ((accs ++ helps).filter fun a => !accFailed a)
    let z := zeroLanes s.cur x.data (lmSlots x) ((helps.filter accFailed).map (·.lane))
    issueLong true [] (r.1 ++ z) .plain r.2) s

/-- LD (R234). -/
def execLaneLd (f : LmForm) (s : State) : Out :=
  let ps := lmPos f (.dst (lmSlots f))
  .next (withLaneEarly (lmEarly f (elemBytes f.ty)) (.laneLd f) f.pr ps (ldBody f) s)

/-! ### ST and the broadcast-window store (R234 to R236) -/

/-- The bytes of a lane's elements: the low bytes of their slots. -/
def storeBytes (x : LmForm) (v : LaneEnv) (s : State) (l : Nat) : List Byte :=
  let spe := if tyWidth x.ty = 64 then 2 else 1
  let val := readSlots s v x.data (lmSlots x) (some x.ty) l
  (List.range (vecCount x.vec)).flatMap fun i => leBytes (val >>> (32 * spe * i)) (elemBytes x.ty)

/-- The writes of some lanes in ascending order (R100). -/
def writeLanes (s : State) : List (LaneAcc × List Byte) → State
  | [] => s
  | p :: r => writeLanes (writePlaces s (accRuns p.1) p.2) r

/-- Stores of some lanes. A lane's vec elements are stored by one write: R101 makes each element atomic by itself and does not say
whether two elements of 1 or 2 bytes that fill a poisoned word together replace its poison (DEDUCED, log 100). -/
def storeLanes (s : State) (l : List (LaneAcc × List Byte)) : State := writeLanes (touchLanes .store s (l.map (·.1))) l

/-- The window address a lane's store names, in space 3 or through a window page in space 0 (R231). -/
def windowAddr (x : LmForm) (s : State) (ea : W64) : Option Nat :=
  if x.space = 3 then (if ea.toNat < 2 ^ 44 then some ea.toNat else none)
  else if x.space = 0 then
    match runs s (accActor s ea) .store ea 4 with
    | .ok [r] => (match r.place with
      | .window off => some off
      | _ => none)
    | _ => none
  else none

/-- The line a qualifying store sends, if the store qualifies (R236). -/
def bcastLine (x : LmForm) (v : LaneEnv) (s : State) : Option Nat :=
  let ea (l : Nat) : W64 := lmEa x v s l
  if (x.ty = .i32 || x.ty = .n32 || x.ty = .f32) && x.vec = 0 && v.e.mask = 0xFFFFFFFF && !x.pr.neg && x.pr.num = 0
      && (ea 0).toNat % 128 = 0 && (List.range 32).all fun l => ea l = ea 0 + BitVec.ofNat 64 (4 * l) then
    (windowAddr x s (ea 0)).map (· / 128)
  else none

/-- The slot of a window store: it waits to be sent, and BSYNC counts it; one with SC takes its place in the SC order by that slot (R109,
R236, R282). -/
def sendBcast (x : LmForm) (v : LaneEnv) (line : Nat) (s : State) : State :=
  let bytes := (List.range 32).flatMap (storeBytes x v s)
  let s1 := modCur s fun g => { g with bslots := g.bslots ++ [{ id := s.nextId, resent := 0, done := false }] }
  let s2 := if takesPlace x.order.toNat x.scope.toNat then modCur s1 (scAdd (.window s.nextId) [s.nextId]) else s1
  queueSlot s2 (planeOf line) s.cur.cluster (.bcast line bytes s.cur.key)

/-- The body of ST: a store to the window that does not qualify faults (R236). -/
def stBody (x : LmForm) (v : LaneEnv) (s : State) : State :=
  match bcastLine x v s with
  | some line =>
    let ea := lmEa x v s 0
    let s1 := match spaceRuns s x.space.toNat .store ea 128 with
      | .ok rs => touchRuns s (accActor s ea) .store ea rs
      | .error _ => s
    if tileMayIssue x s then issueLong false [] [] .plain (sendBcast x v line s1) else stall s
  | none =>
    let accs := laneAccs x v s (lanesOf v.active)
      (laneCheck storeErr .store s x.space.toNat (elemBytes x.ty) (lmBytes x))
    laneAccess x true accs (fun s =>
      issueLong false [] [] .plain (storeLanes s (accs.map fun a => (a, storeBytes x v s a.lane)))) s

/-- ST (R234). -/
def execLaneSt (f : LmForm) (s : State) : Out :=
  .next (withLaneNoHelp (lmEarly f (elemBytes f.ty)) (.laneSt f) f.pr (lmPos f (.src (lmSlots f) (some f.ty))) (stBody f) s)

/-! ### LDV and STV (R52, R237, R238) -/

/-- Big-endian value of bytes (R52). -/
def beValue (bs : List Byte) : Nat := bs.foldl (fun acc b => acc * 256 + b.toNat) 0

/-- Bytes of the element a header announces. -/
def vpfSize (h : Nat) : Nat := h / 16 + 2

/-- A header's bits 7:4 are at least 2 and bit 3 is zero (R52). -/
def vpfHeaderOk (h : Nat) : Bool := 2 ≤ h / 16 && !h.testBit 3

/-- The check of one lane of LDV: its header byte, the header, then all its bytes (R237). -/
def ldvCheck (s : State) (space : Nat) (ea : W64) : Except Nat (List Run) :=
  match laneCheck loadErr .load s space 1 1 ea with
  | .error c => .error c
  | .ok rs =>
    let h := leValue (rs.flatMap (readPlace s))
    if !vpfHeaderOk h then .error 0x12 else laneCheck loadErr .load s space 1 (vpfSize h) ea

/-- The precision and the code of an element of memory, its pad bits dropped (R52). -/
def vpfElement (bs : List Byte) : Nat × Nat :=
  let h := (nth bs 0 0).toNat
  let t := h % 8
  (8 * vpfSize h - 23 - t, beValue (bs.drop 1) >>> t)

/-- The window of one lane of LDV, with its flags and random word (R237). -/
def ldvLane (x : LmForm) (v : LaneEnv) (s : State) (l : Nat) (bs : List Byte) : LaneRes :=
  let f := v.e.fmt
  let (p, code) := vpfElement bs
  let (cs, fl, r) := drawEach (rmIn v 0)
    (fun _ r => roundTo f (fmtOf f x.ty) (rmIn v 0) r (readNum f (fmtVpf p) code)) [0] (lfsrGet s.cur l)
  ((putSlots s.cur x.data (slotsOf f x.ty) l (codeWindow (vpfPrec f x.ty) (nth cs 0 0))).join (statOf v l fl)).join
    { rnd := [(l, r)] }

/-- The loads of LDV's lanes in ascending order. -/
def ldvLanes (x : LmForm) (v : LaneEnv) (s : State) : List LaneAcc → List LaneRes × State
  | [] => ([], s)
  | a :: r =>
    let b := loadRuns s a.ea (accRuns a)
    let t := ldvLanes x v b.2 r
    (ldvLane x v s a.lane b.1 :: t.1, t.2)

/-- The body of LDV. -/
def ldvBody (x : LmForm) (v : LaneEnv) (s : State) : State :=
  let helps := laneAccs x v s (lanesOf v.helpers) (ldvCheck s x.space.toNat)
  let accs := laneAccs x v s (lanesOf v.active) (ldvCheck s x.space.toNat)
  laneAccess x false accs (fun s =>
    let r := ldvLanes x v s ((accs ++ helps).filter fun a => !accFailed a)
    let j := joinRes r.1
    let z := zeroLanes s.cur x.data (slotsOf v.e.fmt x.ty) ((helps.filter accFailed).map (·.lane))
    issueLong true [] (j.regs ++ z) .plain (modCur r.2 fun g => applyRes g { j with regs := [], single := [] } false)) s

/-- LDV (R237). -/
def execLdv (f : LmForm) (s : State) : Out :=
  let ps := lmPos f (.dst (slotsOf (clauseFmt s) f.ty))
  .next (withLane (fillOwn ps) (.ldv f) f.pr ps (ldvBody f) s)

/-- The bytes of an element of a precision (R238). -/
def vpfBytes (p code : Nat) : List Byte :=
  let n := (p + 30) / 8
  let t := 8 * n - 23 - p
  BitVec.ofNat 8 ((n - 2) * 16 + t) :: (leBytes (code <<< t) (n - 1)).reverse

/-- The body of STV. -/
def stvBody (x : LmForm) (v : LaneEnv) (s : State) : State :=
  let p := vpfPrec v.e.fmt x.ty
  let accs := laneAccs x v s (lanesOf v.active) (laneCheck storeErr .store s x.space.toNat 1 ((p + 30) / 8))
  laneAccess x true accs (fun s =>
    issueLong false [] [] .plain
      (storeLanes s (accs.map fun a => (a, vpfBytes p (readCode s v x.data x.ty a.lane))))) s

/-- STV (R238). -/
def execStv (f : LmForm) (s : State) : Out :=
  .next (withLaneNoHelp (fun _ _ => none) (.stv f) f.pr (lmPos f (.src (slotsOf (clauseFmt s) f.ty) (some f.ty))) (stvBody f) s)

/-! ### PREF (R239) -/

/-- The plain stacked or far lines a lane's prefetch touches; a lane whose access would fail is dropped (R83, R239). -/
def prefLines (x : LmForm) (s : State) (ea : W64) : List Nat :=
  match checkedRuns loadErr s 0 .load ea (lmBytes x) with
  | .error _ => []
  | .ok rs => (rs.filter fun r => cacheable r.pa && polCached r.pol).flatMap fun r => (linePieces r.pa r.len).map (·.1)

/-- The identities of the requests for the words of some lines that the cluster has outstanding. -/
def openSlots (s : State) (lines : List Nat) : List Nat :=
  (s.reqs.filter fun r => r.cluster = s.cur.cluster && lines.contains r.line).map (·.slot)

/-- The body of PREF: the words of its lines that the cluster does not hold are requested with GetS (R343); it never traps for its
access, and completes when what it asked for has arrived (R239). -/
def prefBody (x : LmForm) (v : LaneEnv) (s : State) : State :=
  if (longOuts s.cur).length ≥ 64 then stall s
  else
    let lines := ((lanesOf v.active).flatMap fun l => prefLines x s (lmEa x v s l)).eraseDups
    let s1 := lines.foldl (fun t l => askLine t s.cur.cluster l 0xFFFFFFFF false s.cur.core s.cur.key.group) s
    issueLong false [] [] (.pref (openSlots s1 lines)) s1

/-- PREF (R239). -/
def execPref (f : LmForm) (s : State) : Out :=
  .next (withLaneNoHelp (fun _ _ => none) (.pref f) f.pr (lmPos f .unused) (prefBody f) s)

/-! ### Atomics (R245 to R247) -/

/-- Bytes of an atomic's element. -/
def atomSize (t : Ty) : Nat := if tyWidth t = 64 then 8 else 4

/-- The sum of ATOM.add: integers wrap, floats round once to nearest even, never flushed; the 16-bit sums saturate under the
recorded `fmt` (R58, R245). -/
def atomAdd (f : W64) (t : Ty) (a b : Nat) : Nat :=
  let pair (F : FFmt) : Nat :=
    halfSum f F (a % 65536) (b % 65536) + halfSum f F (a / 65536 % 65536) (b / 65536 % 65536) <<< 16
  match t with
  | .f32 => f32Sum a b
  | .bf16x2 => pair fmtBf16
  | .f16x2 => pair fmtF16
  | _ => a + b

/-- The lesser or the greater: integers signed by type, f32 as FMIN and FMAX without `.nan` (R204, R245). -/
def atomPick (greater : Bool) (t : Ty) (a b : Nat) : Nat :=
  if t = .f32 then (roundTo 0 fmtF32 .rne 0 (pickNum greater false (decodeNum fmtF32 a) (decodeNum fmtF32 b))).1
  else if greater then (if tyInt t a ≤ tyInt t b then b else a)
  else if tyInt t a ≤ tyInt t b then a else b

/-- The new value of an ATOM (R245). -/
def atomNew (f : W64) (op : BitVec 2) (t : Ty) (old b : Nat) : Option Nat :=
  match op.toNat with
  | 0 => some (atomAdd f t old b)
  | 1 => some b
  | 2 => some (atomPick false t old b)
  | _ => some (atomPick true t old b)

/-- The new value of an ATOMC; a failing compare stores nothing (R245, R246). -/
def atomcNew (op : BitVec 2) (t : Ty) (old b : Nat) : Option Nat :=
  let w := 8 * atomSize t
  match op.toNat with
  | 0 => if old = b % 2 ^ w then some (b >>> w) else none
  | 1 => some (old &&& b)
  | 2 => some (old ||| b)
  | _ => some (old ^^^ b)

/-- Slots of an atomic's data operand. -/
def atomSlots (cas : Bool) (x : LmForm) : Nat := atomSize x.ty / 4 * (if cas && x.fe = 0 then 2 else 1)

/-- The operations of some lanes in ascending order: register writes and the state after (R100). -/
def atomLanes (x : LmForm) (v : LaneEnv) (s0 : State) (cas : Bool) (f : Nat → Nat → Option Nat) (s : State) :
    List LaneAcc → List (Nat × W32) × State
  | [] => ([], s)
  | a :: r =>
    let n := atomSize x.ty
    let b := readSlots s0 v x.data (atomSlots cas x) (some x.ty) a.lane
    let o := atomicDo s (accRuns a) fun old => (f (leValue old) b).map fun y => leBytes y n
    let t := atomLanes x v s0 cas f o.2 r
    (if atomReturns x.data then (opndKeys s0.cur x.data (n / 4) a.lane).zip (splitSlots (leValue o.1) (n / 4)) ++ t.1 else t.1,
     t.2)

/-- The body of ATOM and ATOMC. -/
def atomBody (x : LmForm) (cas : Bool) (f : Nat → Nat → Option Nat) (v : LaneEnv) (s : State) : State :=
  let n := atomSize x.ty
  let accs := laneAccs x v s (lanesOf v.active) (laneCheck atomErr .store s x.space.toNat n n)
  laneAccess x true accs (fun s =>
    let r := atomLanes x v s cas f (touchLanes .store s accs) accs
    issueLong (atomReturns x.data) [] r.1 .plain r.2) s

/-- ATOM (R245). -/
def execAtom (f : LmForm) (s : State) : Out :=
  .next (withLaneNoHelp (lmEarly f (atomSize f.ty)) (.atom f) f.pr (lmPos f (atomUse false f)) (atomBody f false (atomNew (clauseFmt s) f.fe f.ty)) s)

/-- ATOMC (R245). -/
def execAtomc (f : LmForm) (s : State) : Out :=
  .next (withLaneNoHelp (lmEarly f (atomSize f.ty)) (.atomc f) f.pr (lmPos f (atomUse true f)) (atomBody f true (atomcNew f.fe f.ty)) s)

/-! ### Full/empty (R112, R241 to R244) -/

/-- The word is full. -/
def feFull (s : State) (pa : Nat) : Bool := setHas s.fe pa

/-- Set or clear a full/empty bit. -/
def feSet (s : State) (pa : Nat) (full : Bool) : State :=
  { s with fe := if full then setAdd s.fe pa else setDel s.fe pa }

/-- The word's physical address of a checked one-word access. -/
def accWord (a : LaneAcc) : Nat :=
  match accRuns a with
  | r :: _ => r.pa
  | [] => 0

/-- The lanes that remain of a split instruction (R244). -/
def feActive (v : LaneEnv) (s : State) : List Nat := lanesOf (v.active &&& ~~~s.cur.feDone)

/-- The checked accesses of a full/empty operation (R241). -/
def feAccs (x : LmForm) (load : Bool) (v : LaneEnv) (s : State) : List LaneAcc :=
  laneAccs x v s (feActive v s)
    (laneCheck (if load then loadErr else storeErr) (if load then .load else .store) s x.space.toNat 4 4)

/-- FESET and the stores that do not wait: the bit, and the word where it is stored (R242, R243). -/
def feStoreLanes (s : State) (full : Bool) : List (LaneAcc × List Byte) → State
  | [] => s
  | p :: r => feStoreLanes (feSet (storeRuns s p.1.ea (accRuns p.1) p.2) (accWord p.1) full) full r

/-- The body of FESET, ST.fill and ST.empty: a release at band scope, whatever the scope field holds, unless SC is named (R112, R242,
R243); `data` gives the bytes stored. -/
def feNoWait (x : LmForm) (full : Bool) (data : State → LaneEnv → Nat → List Byte) (v : LaneEnv) (s : State) : State :=
  let accs := feAccs x false v s
  if !storesDone s (if x.order = 4 then x.scope.toNat else 3) then stall s
  else laneAccess { x with order := if x.order = 4 then 4 else 0 } true accs (fun s =>
    issueLong false [] [] .plain (feStoreLanes s full (accs.map fun a => (a, data s v a.lane)))) s

/-- Another waiter that arrived earlier at the word and waits for the same state goes first (R112). -/
def feBlocked (s : State) (w : FeWait) (pa : Nat) : Bool :=
  (allGroups s).any fun g =>
    match g.feWait with
    | some u => u.ticket < w.ticket && u.load = w.load && u.left.any fun x => x.word = pa
    | none => false

/-- One waiting lane tries its operation: test, access and bit change are one; while a lower lane still waits for the word it goes on
waiting (R242). -/
def feTry (w : FeWait) (x : FeLane) (s : State) : State × FeWait :=
  if feFull s x.word != w.load || feBlocked s w x.word || ownedByEngine s x.word 4 || !scMay s .lane w.order w.scope x.lane
      || w.left.any (fun y => y.word = x.word) then
    (s, { w with left := w.left ++ [x] })
  else
    let s := scTake s .lane w.order w.scope x.lane
    if w.load then
      let v : W32 := BitVec.ofNat 32 (leValue (memRead s x.word 4))
      (if w.keep then s else feSet s x.word false, { w with writes := w.writes ++ [(x.key, v)] })
    else (feSet (memWrite s x.word (leBytes x.data.toNat 4)) x.word true, w)

/-- Every waiting lane tries, in ascending order. -/
def feTryAll (s : State) (w : FeWait) : State × FeWait :=
  w.left.foldl (fun acc x => feTry acc.2 x acc.1) (s, { w with left := [] })

/-- The mask of the lanes still waiting. -/
def feLeftMask (w : FeWait) : W32 := BitVec.ofNat 32 (w.left.foldl (fun acc x => acc + 2 ^ x.lane) 0)

/-- The wait limit of the running clause, in ticks; 0 for none (R244). -/
def feLimit (g : Group) : Nat := ((running g).map (·.fewait.toNat)).getD 0

/-- The wait has reached its limit (R244). -/
def feExpired (s : State) (w : FeWait) : Bool := feLimit s.cur ≠ 0 && w.issued + feLimit s.cur ≤ s.time

/-- The wait ends with some lanes not performed: what the others read is written, and the trap names the rest (R244). -/
def feExpire (s : State) (w : FeWait) : State :=
  let s1 := modCur s fun g => { laneSetAll g w.writes with feWait := some { w with writes := [] } }
  laneTrap s1 0x0E (zext64 (feLeftMask w))

/-- A wait goes on: lanes that can perform do; with none left the instruction issues (R242, R244). -/
def feGoOn (s : State) (w : FeWait) : State :=
  let r := feTryAll s w
  if r.2.left.isEmpty then
    issueLong r.2.load [] r.2.writes .plain (modCur r.1 fun g => { g with feWait := none, feDone := 0 })
  else modCur r.1 fun g => { g with feWait := some r.2 }

/-- The body of LDFE, STFE and LD.wf. -/
def feWaitBody (x : LmForm) (load keep : Bool) (v : LaneEnv) (s : State) : State :=
  match s.cur.feWait with
  | some w => if feExpired s w then feExpire s w else feGoOn s w
  | none =>
    let accs := feAccs x load v s
    if !load && !storesDone s (if x.order = 4 then x.scope.toNat else 3) then stall s
    else laneAccess { x with order := 0 } (!load) accs (fun s =>
      feGoOn { s with nextId := s.nextId + 1 }
        { load := load, keep := keep, writes := [], issued := s.time, ticket := s.nextId, order := x.order.toNat,
          scope := x.scope.toNat,
          left := accs.map fun a =>
            { lane := a.lane, word := accWord a, key := (opndKeys s.cur x.data 1 a.lane).headD 0,
              data := if load then 0 else BitVec.ofNat 32 (readSlots s v x.data 1 (some x.ty) a.lane) } }) s

/-- The bytes a lane of a full/empty store stores. -/
def feData (x : LmForm) (s : State) (v : LaneEnv) (l : Nat) : List Byte :=
  leBytes (readSlots s v x.data 1 (some x.ty) l) 4

/-- The frame of a full/empty instruction. -/
def runFe (i : Instr) (x : LmForm) (data : Use) (body : LaneEnv → State → State) (s : State) : Out :=
  .next (withLaneNoHelp (lmEarly x 4) i x.pr (lmPos x data) body s)

/-- LDFE (R242). -/
def execLdfe (f : LmForm) (s : State) : Out := runFe (.ldfe f) f (.dst 1) (feWaitBody f true false) s
/-- STFE (R242). -/
def execStfe (f : LmForm) (s : State) : Out := runFe (.stfe f) f (.src 1 (some f.ty)) (feWaitBody f false false) s
/-- FESET.full: the word is unchanged (R242). -/
def execFesetFull (f : LmForm) (s : State) : Out := runFe (.fesetFull f) f .unused (feNoWait f true fun _ _ _ => []) s
/-- FESET.empty (R242). -/
def execFesetEmpty (f : LmForm) (s : State) : Out := runFe (.fesetEmpty f) f .unused (feNoWait f false fun _ _ _ => []) s
/-- LD.wf (R243). -/
def execLdWf (f : LmForm) (s : State) : Out := runFe (.ldWf f) f (.dst 1) (feWaitBody f true true) s
/-- ST.fill (R243). -/
def execStFill (f : LmForm) (s : State) : Out := runFe (.stFill f) f (.src 1 (some f.ty)) (feNoWait f true (feData f)) s
/-- ST.empty (R243). -/
def execStEmpty (f : LmForm) (s : State) : Out := runFe (.stEmpty f) f (.src 1 (some f.ty)) (feNoWait f false (feData f)) s

/-- A waiting lane performs once its word's bit allows it (R242). -/
def execFullEmptyPerform (s : State) : Out :=
  match s.cur.feWait with
  | some w => .next (if feExpired s w then s else feGoOn s w)
  | none => .next s

/-- The wait limit is reached with lanes still waiting (R244). -/
def execFullEmptyWaitExpired (s : State) : Out :=
  match s.cur.feWait with
  | some w => .next (if feExpired s w then feExpire s w else s)
  | none => .next s

end Sys2Proof.Machine
end

