-- ==== Sys2Proof/Machine/Matrix.lean ====
section
/-!
DEFINITION. Matrix.lean: matrix instructions, batches and tiles (R28, R68, R69, R248 to R262).
-/
namespace Sys2Proof.Machine

/-! ### The frame of a matrix instruction (R28, R295) -/

/-- The predicate is p0 and the recorded mask is full (R28). -/
def matrixConverged (p : PredSel) (e : QEntry) : Bool := !p.neg && p.num = 0 && e.mask = 0xFFFFFFFF

/-- The frame of the matrix instructions: legality, the checks `pre` gives as 0x01 with a `tval`, convergence (R28), the
handler rule (R295), then as any lane instruction, with its early trap. Helpers never take part (R27, R28). -/
def withMatrixEarly (early : LaneEnv → State → Option (Nat × W64)) (i : Instr) (p : PredSel) (pre : State → Option W64)
    (ps : List OpPos) (body : LaneEnv → State → State) (s : State) : State :=
  match running s.cur with
  | none => s
  | some e =>
    if !legalAt e.fmt i then illegalLane i s
    else
      match pre s with
      | some tv => laneTrap s 0x01 tv
      | none =>
        if !matrixConverged p e then laneTrap s 0x02 0
        else if s.cur.handler && !s.cur.msaved then laneTrap s 0x13 0
        else withEarly early (fillOwn ps) i (noHelp (laneEnv s.cur e p)) ps body s

/-- The frame of a matrix instruction without an early trap. -/
def withMatrix (i : Instr) (p : PredSel) (pre : State → Option W64) (ps : List OpPos) (body : LaneEnv → State → State)
    (s : State) : State := withMatrixEarly (fun _ _ => none) i p pre ps body s

/-- Tiles t to t + q - 1 must be below T; `tval` is the first number at or beyond it (R15, R252). -/
def tilesPre (t q : Nat) (s : State) : Option W64 :=
  if t + q ≤ s.cur.tiles.length then none else some (BitVec.ofNat 64 (max t s.cur.tiles.length))

/-- Matrix operations open or pending (R257). -/
def matrixOuts (g : Group) : List OutOp := g.outs.filter (·.matrix)

/-- The instruction issues as an open matrix operation (R254, R257). -/
def issueMatrix (tiles : List Nat) (act : OutAct) (band : Bool) (s : State) : State :=
  modCur s fun g =>
    let o : OutOp := { seq := g.nextSeq, matrix := true, flag := none, tiles, writes := [], act,
                       band := if band then some g.bandOps else none }
    stepClause { g with
      outs := g.outs ++ [o], nextSeq := g.nextSeq + 1, openOps := g.openOps ++ [g.nextSeq]
      bandOps := if band then g.bandOps + 1 else g.bandOps }

/-! ### MMA and MMAS (R248 to R256) -/

/-- Row blocks and column blocks of a result (R252). -/
def mmaRowBlocks (x : LxForm) : Nat := mmaM x / 32
def mmaColBlocks (x : LxForm) : Nat := max 1 (mmaN x / 128)

/-- The tiles of the result (R252). -/
def mmaTiles (x : LxForm) : List Nat := (List.range (mmaRowBlocks x * mmaColBlocks x)).map fun i => x.tile.toNat + i

/-- Chunk depth, elements per slot, k-group (R248). -/
def mmaDims (x : LxForm) : Nat × Nat × Nat := (mmaPair x.tA x.tB).getD (32, 2, 16)

/-- K (R248). -/
def mmaK (x : LxForm) : Nat := mmaChunks x * (mmaDims x).1

/-- Columns of B in its scratchpad (R250). -/
def mmaW (x : LxForm) : Nat := if x.band then 2 * mmaN x else mmaN x

/-- Bytes of B. -/
def mmaBBytes (x : LxForm) : Nat := mmaK x * mmaW x * tyWidth x.tB / 8

/-- Bytes of the B-scales (R251). -/
def mmaSBytes (x : LxForm) : Nat := mmaK x / 32 * mmaW x

/-- Bands of a launch have at least four crews, and this crew is one of the first four (R255). -/
def bandModeOk (s : State) : Bool := s.cur.key.crew < 4 && 4 ≤ s.crew.crews

/-- The crew whose scratchpad holds B (R250, R255). -/
def mmaCrew (x : LxForm) (s : State) : Crew :=
  if x.band then (findCrew s { s.cur.key with crew := 0 }).getD s.crew else s.crew

/-- The checks on a band-mode instruction and on the result's tiles (R252, R255). -/
def mmaPre (i : Instr) (x : LxForm) (s : State) : Option W64 :=
  if x.band && !bandModeOk s then some (illegalTval i)
  else tilesPre x.tile.toNat (mmaRowBlocks x * mmaColBlocks x) s

/-- The operand positions: A is 1, the A-scale run is 3 (R33, R249, R251). -/
def mmaPos (x : LxForm) (scaled : Bool) : List OpPos :=
  (1, .src (mmaASlots x) none, x.a) :: (if scaled then [(3, .src (mmaScaleSlots x) none, .v x.aScale)] else [])

/-- The first main slot of a mode-000 operand. -/
def slotOf : Opnd → Nat
  | .v n => n.toNat
  | _ => 0

/-- A run of slots in every lane, captured (R254). -/
def captureSlots (s : State) (first n : Nat) : Sparse 32 :=
  (List.range (n * 32)).filterMap fun i =>
    let v := laneRead s (laneKey first 0 + i)
    if v = 0 then none else some (i, v)

/-- The faults of B and its scales, in order: alignment, then place; each with its offset (R250, R251). -/
def mmaFault (x : LxForm) (scaled : Bool) (len : Nat) (boff soff : W64) : Option (Nat × W64) :=
  if boff.toNat % 128 ≠ 0 then some (0x0D, boff)
  else if scaled && soff.toNat % 4 ≠ 0 then some (0x0D, soff)
  else if len < boff.toNat + mmaBBytes x then some (0x08, boff)
  else if scaled && len < soff.toNat + mmaSBytes x then some (0x08, soff)
  else none

/-- The body of MMA and MMAS: checks, capture, issue (R254). -/
def mmaBody (x : LxForm) (scaled : Bool) (v : LaneEnv) (s : State) : State :=
  let c := mmaCrew x s
  let boff := sreg s x.bBase
  let soff := if scaled then sreg s x.bScale else 0
  match mmaFault x scaled c.splen boff soff with
  | some (cause, tv) => laneTrap s cause tv
  | none =>
    if (matrixOuts s.cur).length ≥ 64 then stall s
    else
      issueMatrix (mmaTiles x)
        (.mma { form := x, scaled := scaled, fmt := v.e.fmt,
                aData := captureSlots s (slotOf x.a) (mmaASlots x),
                aScale := if scaled then captureSlots s x.aScale.toNat (mmaScaleSlots x) else [],
                bBase := scratchPa c.cluster c.core (c.spbase + boff.toNat),
                bScaleBase := scratchPa c.cluster c.core (c.spbase + soff.toNat),
                boff := boff, soff := soff, mark := s.hist.length }) x.band s

/-- A misaligned B base or B-scale base comes before a failing fill of operand A (R138). -/
def mmaEarly (x : LxForm) (scaled : Bool) (_ : LaneEnv) (s : State) : Option (Nat × W64) :=
  if (sreg s x.bBase).toNat % 128 ≠ 0 then some (0x0D, sreg s x.bBase)
  else if scaled && (sreg s x.bScale).toNat % 4 ≠ 0 then some (0x0D, sreg s x.bScale)
  else none

/-- MMA (R253). -/
def execMma (f : LxForm) (s : State) : Out :=
  .next (withMatrixEarly (mmaEarly f false) (.mma f) f.pr (mmaPre (.mma f) f) (mmaPos f false) (mmaBody f false) s)

/-- MMAS (R253). -/
def execMmas (f : LxForm) (s : State) : Out :=
  .next (withMatrixEarly (mmaEarly f true) (.mmas f) f.pr (mmaPre (.mmas f) f) (mmaPos f true) (mmaBody f true) s)

/-! ### What a matrix operation computes (R68, R249 to R253) -/

/-- The 4-byte word of B or its scales that holds a bit offset: a value it held since issue (R254). -/
def bWord (s : State) (mark base bit : Nat) : Nat := leValue (someValueSince s mark (base + bit / 32 * 4) 4)

/-- Element a(r, k) (R249). -/
def mmaA (o : MmaOp) (r k : Nat) : Num :=
  let x := o.form
  let (kc, e, _) := mmaDims x
  let c := k / kc * mmaRowBlocks x + r / 32
  let w := tyWidth x.tA
  let word := spGet o.aData ((16 * c + k % kc / e) * 32 + r % 32)
  readNum o.fmt (fmtOf o.fmt x.tA) ((word.toNat >>> (w * (k % kc % e))) % 2 ^ w)

/-- Element b(k, j), j counted over the columns of B (R250). -/
def mmaB (s : State) (o : MmaOp) (k j : Nat) : Num :=
  let w := tyWidth o.form.tB
  let bit := (k * mmaW o.form + j) * w
  readNum o.fmt (fmtOf o.fmt o.form.tB) ((bWord s o.mark o.bBase bit >>> (bit % 32)) % 2 ^ w)

/-- The scale of A for row r and block m (R251). -/
def mmaEa (o : MmaOp) (r m : Nat) : Num :=
  let (kc, _, _) := mmaDims o.form
  let c := 32 * m / kc * mmaRowBlocks o.form + r / 32
  e8m0Num (((spGet o.aScale (c * 32 + r % 32)).toNat >>> (8 * (32 * m % kc / 32))) % 256)

/-- The scale of B for block m and column j (R251). -/
def mmaEb (s : State) (o : MmaOp) (m j : Nat) : Num :=
  let bit := 8 * (m * mmaW o.form + j)
  e8m0Num ((bWord s o.mark o.bScaleBase bit >>> (bit % 32)) % 256)

/-- The exact sum of numbers (R68). A sum of nothing but negative zeros is +0, since it starts from +0 (DEDUCED, log 93). -/
def exactSum (xs : List Num) : Num := xs.foldl (fun acc x => (numAdd .rne acc x).1) (.fin false 0 0)

/-- The exact sum of the products over n values of k from lo (R68). -/
def dotSum (s : State) (o : MmaOp) (r j lo n : Nat) : Num :=
  exactSum ((List.range n).map fun i => (numMul (mmaA o r (lo + i)) (mmaB s o (lo + i) j)).1)

/-- The exact sum of one k-group, scaled per block in MMAS (R68). -/
def groupSum (s : State) (o : MmaOp) (r j lo kg : Nat) : Num :=
  if o.scaled then
    exactSum ((List.range (kg / 32)).map fun i =>
      let m := lo / 32 + i
      (numMul (dotSum s o r j (32 * m) 32) (numMul (mmaEa o r m) (mmaEb s o m j)).1).1)
  else dotSum s o r j lo kg

/-- One rounding of the accumulator, with its output flush (R68). -/
def accRound (f : W64) (n : Num) : Nat :=
  let c := (roundTo 0 fmtF32 .rne 0 n).1
  if fmtFoa f && isSubnormal fmtF32 c then c / 2 ^ 31 * 2 ^ 31 else c

/-- A result element from the element it starts from (R68, R253). -/
def mmaElem (s : State) (o : MmaOp) (r j : Nat) (start : W32) : W32 :=
  let kg := (mmaDims o.form).2.2
  let acc0 := if o.form.mode = 0 then start.toNat else 0
  BitVec.ofNat 32 ((List.range (mmaK o.form / kg)).foldl (fun acc g =>
    accRound o.fmt (numAdd .rne (decodeNum fmtF32 acc) (groupSum s o r j (g * kg) kg)).1) acc0)

/-- The first column of B that a crew receives (R255). -/
def mmaFirstCol (k : GKey) (o : MmaOp) : Nat := if o.form.band then k.crew % 2 * mmaN o.form else 0

/-- The elements tile i of the result receives; with N = 64, columns 64 to 127 keep theirs (R252). -/
def mmaTileWords (s : State) (g : Group) (o : MmaOp) (i : Nat) : List (Nat × W32) :=
  let x := o.form
  let rb := i / mmaColBlocks x
  let cb := i % mmaColBlocks x
  let t := tileAt s (physTile g (x.tile.toNat + i))
  (List.range 32).flatMap fun r => (List.range (min 128 (mmaN x))).map fun c =>
    (r * 128 + c,
     mmaElem s o (32 * rb + r) (mmaFirstCol g.key o + 128 * cb + c) (tileElem t (r * 128 + c)))

/-- Write every tile of the result. -/
def mmaWrite (s : State) (g : Group) (o : MmaOp) : State :=
  let ws := (List.range (mmaRowBlocks o.form * mmaColBlocks o.form)).map fun i =>
    (physTile g (o.form.tile.toNat + i), mmaTileWords s g o i)
  ws.foldl (fun s w => tileWrite s w.1 w.2) s

/-! ### ACCZ, ACCLD, ACCST, ACCRD, ACCWR (R259 to R262) -/

/-- ACCZ (R260). -/
def execAccz (f : LxForm) (s : State) : Out :=
  let t := f.tile.toNat
  .next (withMatrix (.accz f) f.pr (tilesPre t 1) [] (fun _ s =>
    if (matrixOuts s.cur).length ≥ 64 then stall s else issueMatrix [t] (.accz t) false s) s)

/-- The tile number in a format LM data field (R261). -/
def accTile (x : LmForm) : Nat := slotOf x.data

/-- The words of a row, from 512 bytes. -/
def rowWords (row : Nat) (bs : List Byte) : List (Nat × W32) :=
  (List.range 128).map fun j => (row * 128 + j, BitVec.ofNat 32 (areaNat bs (4 * j) 4))

/-- The rows that ACCLD loads. -/
def accLoads (s : State) : List LaneAcc → List (Nat × W32) × State
  | [] => ([], s)
  | a :: r =>
    let b := loadRuns s a.ea (accRuns a)
    let t := accLoads b.2 r
    (rowWords a.lane b.1 ++ t.1, t.2)

/-- The elements of a row with the physical addresses and the policies of their words (R261). -/
def rowDst (a : LaneAcc) : List (Nat × Nat × Nat) :=
  let pas := (accRuns a).flatMap fun r => (List.range (r.len / 4)).map fun i => (r.pa + 4 * i, r.pol)
  (List.range 128).map fun j => (a.lane * 128 + j, nth pas j (0, 0))

/-- The body of ACCLD: memory is read at issue, the tile is written at completion. -/
def accldBody (x : LmForm) (v : LaneEnv) (s : State) : State :=
  let accs := laneAccs x v s (lanesOf v.active) (laneCheck loadErr .load s x.space.toNat 4 512)
  laneAccess x false accs (fun s =>
    let r := accLoads s accs
    issueLong false [accTile x] [] (.accld (accTile x) r.1) r.2) s

/-- ACCLD (R261). -/
def execAccld (f : LmForm) (s : State) : Out :=
  .next (withMatrixEarly (lmEarly f 4) (.accld f) f.pr (tilesPre (accTile f) 1) [(1, .src 1 none, f.addr)] (accldBody f) s)

/-- A tile store with SC is under way: what it has asked for at issue are its messages (R109). -/
def scTile (x : LmForm) (s : State) : State :=
  if takesPlace x.order.toNat x.scope.toNat then
    let e := (scFind s.cur .lane).getD { use := .lane, slots := [], place := scNone s.cur }
    modCur s fun g => { scDrop .lane g with scOpen := (scDrop .lane g).scOpen ++ [{ e with use := .tile g.nextSeq }] }
  else s

/-- The body of ACCST: the addresses are translated at issue, the words are stored at completion (R259, R261). -/
def accstBody (x : LmForm) (v : LaneEnv) (s : State) : State :=
  let accs := laneAccs x v s (lanesOf v.active) (laneCheck storeErr .store s x.space.toNat 4 512)
  accessLanes (tileMayIssue x s) x true accs (fun s =>
    issueLong false [accTile x] [] (.accst (accTile x) (accs.flatMap rowDst)) (scTile x (touchLanes .store s accs))) s

/-- ACCST (R261). -/
def execAccst (f : LmForm) (s : State) : Out :=
  .next (withMatrixEarly (lmEarly f 4) (.accst f) f.pr (tilesPre (accTile f) 1) [(1, .src 1 none, f.addr)] (accstBody f) s)

/-- The tile number in mod 3:0 (R262). -/
def modTile (x : LaForm) : Nat := (x.md.extractLsb' 0 4).toNat

/-- The element of lane l and step i of a row (R262). -/
def accElem (row l i : Nat) : Nat := row * 128 + l + 32 * i

/-- The row a lane names (R262). -/
def accRow (s : State) (v : LaneEnv) (o : Opnd) (l : Nat) : Nat := readSlots s v o 1 none l % 32

/-- The body of ACCRD. -/
def accrdBody (x : LaForm) (v : LaneEnv) (s : State) : State :=
  if (longOuts s.cur).length ≥ 64 then stall s
  else
    let src := (lanesOf v.active).flatMap fun l =>
      (opndKeys s.cur x.d 4 l).zip ((List.range 4).map (accElem (accRow s v x.a l) l))
    issueLong true [modTile x] [] (.accrd (modTile x) src) s

/-- ACCRD (R262). -/
def execAccrd (f : LaForm) (s : State) : Out :=
  .next (withMatrix (.accrd f) f.pr (tilesPre (modTile f) 1) (posLa f (shAccrd f.ty f.md f.ext)) (accrdBody f) s)

/-- The body of ACCWR. -/
def accwrBody (x : LaForm) (v : LaneEnv) (s : State) : State :=
  if (longOuts s.cur).length ≥ 64 then stall s
  else
    let ws := (lanesOf v.active).flatMap fun l =>
      ((List.range 4).map (accElem (accRow s v x.b l) l)).zip (splitSlots (readSlots s v x.a 4 (some .f32) l) 4)
    issueLong false [modTile x] [] (.accwr (modTile x) ws) s

/-- ACCWR (R262). -/
def execAccwr (f : LaForm) (s : State) : Out :=
  .next (withMatrix (.accwr f) f.pr (tilesPre (modTile f) 1) (posLa f (shAccwr f.ty f.md f.ext)) (accwrBody f) s)

/-! ### MBFEN and MBWAIT (R257, R258) -/

/-- MBFEN: it waits while 64 closed batches have not completed (R257). -/
def execMbfen (f : LiForm) (s : State) : Out :=
  .next (withMatrix (.mbfen f) f.pr (fun _ => none) [] (fun _ s =>
    if s.cur.batches.length ≥ 64 then stall s else modCur s fun g => stepClause (closeBatch g)) s)

/-- The batch named was closed, and not more than 64 batches ago (R258). -/
def mbNamed (g : Group) (b : BitVec 16) : Bool := 1 ≤ (g.bctr - b).toNat && (g.bctr - b).toNat ≤ 64

/-- The batch has completed (R258). -/
def mbDone (g : Group) (b : BitVec 16) : Bool := (g.mbdone - b).toNat < 32768

/-- MBWAIT's wait: a batch with error status raises 0x14, once (R256, R295). -/
def mbwaitBody (b : BitVec 16) (s : State) : State :=
  if !mbDone s.cur b then stall s
  else if s.cur.merr.contains b then
    trapAfter (fun s => modCur s fun g => { g with merr := g.merr.erase b }) s true fun s => laneTrap s 0x14 (zext64 b)
  else modCur s stepClause

/-- MBWAIT (R258). -/
def execMbwait (f : LiForm) (s : State) : Out :=
  let b : BitVec 16 := f.imm.setWidth 16
  .next (withMatrix (.mbwait f) f.pr (fun s => if mbNamed s.cur b then none else some (zext64 b)) []
    (fun _ s => mbwaitBody b s) s)

/-! ### Completion (R20, R256, R257, R259) -/

/-- Every earlier operation on its tiles has completed (R259). -/
def tilesFree (g : Group) (o : OutOp) : Bool :=
  g.outs.all fun q => !(q.seq < o.seq && q.tiles.any fun t => o.tiles.contains t)

/-- The word a pending tile store goes to. -/
def dstRun (d : Nat × Nat × Nat) : Option Run :=
  (placeOf d.2.1 4).map fun p => { pa := d.2.1, len := 4, place := p, leaf := none, pol := d.2.2 }

/-- A word of a pending tile store may be stored: its cluster may write it, no engine owns it, and, where it lies in accumulator memory,
no MMA or MMAS of any group on that tile is pending (R80, R114, R343). -/
def dstReady (s : State) (d : Nat × Nat × Nat) : Bool :=
  !ownedByEngine s d.2.1 4 && !requestOpen s s.cur.cluster d.2.1 4
    && (match dstRun d with
        | some r =>
          (match r.place with
          | .accum cl co off => !(allGroups s).any fun g => (busyTiles g (·.matrix)).contains ((cl * 8 + co) * 16 + off / 0x4000)
          | _ => true) && granted s s.cur.cluster true r
        | none => true)

/-- A pending tile store asks for the words it may not store yet, line by line. -/
def askDst (s : State) (dst : List (Nat × Nat × Nat)) : State :=
  let need := dst.filter fun d => cacheable d.2.1 && !dstReady s d
  (need.map fun d => (d.2.1 / 128, d.2.2)).eraseDups.foldl (fun t l =>
    askWords t true l.2 l.1 (wordMask fun i => need.any fun d => d.2.1 = l.1 * 128 + 4 * i)) s

/-- What an operation of the current group writes when it completes, registers left out. -/
def performAct (s : State) (o : OutOp) : State :=
  match o.act with
  | .plain | .pref _ => s
  | .accz t => tilePut s { id := physTile s.cur t, zeroed := true, nonce := 0, elems := [] }
  | .accld t ws | .accwr t ws => tileWrite s (physTile s.cur t) ws
  | .accst t dst =>
    let tile := tileAt s (physTile s.cur t)
    dst.foldl (fun s d =>
      match dstRun d with
      | some r => writePlace s r (leBytes (tileElem tile d.1).toNat 4)
      | none => s) s
  | .accrd t src =>
    let tile := tileAt s (physTile s.cur t)
    modCur s fun g => laneSetAll g (src.map fun p => (p.1, tileElem tile p.2))
  | .mma op => mmaWrite s s.cur op

/-- Remove a completed operation; batches that are now complete advance `mbdone` (R257). -/
def retireOut (o : OutOp) (g : Group) : Group :=
  let g := { g with outs := g.outs.filter fun q => q.seq ≠ o.seq }
  settleBatches g g.batches

/-- One long-latency operation of the current group completes: results, flag, removal (R20, R22). -/
def completeLong (o : OutOp) (s : State) : State :=
  let s1 := performAct s o
  modCur s1 fun g =>
    let g := laneSetAll g o.writes
    let g := match o.flag with
      | some i => flagSub g i 1
      | none => g
    retireOut o g

/-- A long-latency operation of the current group completes if it may: a prefetch when its lines have been installed or dropped (R239),
a tile store when every word may be stored, asking for those that may not. -/
def tryLong (o : OutOp) (s : State) : State :=
  if !tilesFree s.cur o then s
  else
    match o.act with
    | .pref slots => if s.reqs.any (fun r => slots.contains r.slot) then s else completeLong o s
    | .accst _ dst =>
      let order := if (scFind s.cur (.tile o.seq)).isSome then 4 else 0
      if !(dst.all (dstReady s)) then scAsk s (.tile o.seq) order 4 (askDst s dst)
      else if scMay s (.tile o.seq) order 4 31 then completeLong o (scTake s (.tile o.seq) order 4 31)
      else s
    | _ => completeLong o s

/-- LONG_LATENCY_COMPLETION: operation q of group k completes (R20). -/
def execLongLatencyCompletion (k : GKey) (q : Nat) (s : State) : Out :=
  .next (onGroup k (fun s =>
    match s.cur.outs.find? fun o => o.seq = q && !o.matrix with
    | some o => tryLong o s
    | none => s) s)

/-- The members of a band-mode set: group g of crews 0 to 3 (R256). -/
def bandSet (k : GKey) : List GKey := (List.range 4).map fun c => { k with crew := c }

/-- The j-th band-mode operation of a group, if it has issued and not completed. -/
def bandOp (s : State) (j : Nat) (k : GKey) : Option OutOp :=
  match findGroup s k with
  | some g => g.outs.find? fun o => o.band = some j
  | none => none

/-- A partner that will never issue its j-th band-mode instruction (R256). -/
def bandGone (s : State) (j : Nat) (k : GKey) : Bool :=
  match findGroup s k with
  | some g => g.bandOps ≤ j && (g.status = .ended || g.wait = .ending)
  | none => true

/-- What the members of a set must agree on (R256). -/
def bandAgree (a b : MmaOp) : Bool :=
  a.form.mCode = b.form.mCode && a.form.nCode = b.form.nCode && a.form.kCode = b.form.kCode && a.form.tA = b.form.tA
    && a.form.tB = b.form.tB && a.form.mode = b.form.mode && a.scaled = b.scaled && a.boff = b.boff && a.soff = b.soff

/-- The matrix operation of an outstanding one. -/
def mmaOf (o : OutOp) : Option MmaOp :=
  match o.act with
  | .mma op => some op
  | _ => none

/-- A matrix operation of the current group completes, with or without its effect. -/
def completeMatrix (good : Bool) (o : OutOp) (s : State) : State :=
  let s1 := if good then performAct s o else modCur s fun g => { g with errOps := g.errOps ++ [o.seq] }
  modCur s1 (retireOut o)

/-- A whole set completes together; B is read once, since the latest issue (R254 to R256). -/
def completeSet (s : State) (ms : List (GKey × OutOp)) : State :=
  let ops := ms.filterMap fun m => mmaOf m.2
  let good := match ops with
    | a :: r => r.all (bandAgree a)
    | [] => false
  let mark := ops.foldl (fun m o => max m o.mark) 0
  ms.foldl (fun s m =>
    let o := match mmaOf m.2 with
      | some op => { m.2 with act := .mma { op with mark := mark } }
      | none => m.2
    onGroup m.1 (completeMatrix good o) s) s

/-- A band-mode operation may complete: its set, once all have issued and their tiles are free; alone, with an error, where
a partner has gone (R256). -/
def tryBand (k : GKey) (j : Nat) (o : OutOp) (s : State) : State :=
  let ms := (bandSet k).filterMap fun m => (bandOp s j m).map fun o => (m, o)
  if ms.length = 4 then
    if ms.all fun m => ((findGroup s m.1).map fun g => tilesFree g m.2).getD false then completeSet s ms else s
  else if (bandSet k).any (bandGone s j) then onGroup k (completeMatrix false o) s
  else s

/-- MATRIX_OPERATION_COMPLETE: matrix operation q of group k finishes (R257). -/
def execMatrixOperationComplete (k : GKey) (q : Nat) (s : State) : Out :=
  match (findGroup s k).bind fun g => (g.outs.find? fun o => o.seq = q && o.matrix).map fun o => (g, o) with
  | none => .next s
  | some (g, o) =>
    match o.band with
    | some j => .next (tryBand k j o s)
    | none => .next (if tilesFree g o then onGroup k (completeMatrix true o) s else s)

end Sys2Proof.Machine
end

