-- ==== Sys2Proof/Machine/Fill.lean ====
section
/-!
DEFINITION. Fill.lean: the operands of each lane instruction in one view, and the absent granules a group's next instruction reads or
writes (R27, R38, R127, R129, R194).
-/
namespace Sys2Proof.Machine

/-! ### Operands of an instruction -/

/-- The predicate field, the operand positions and uses, and the y-write bit of an LA or LI instruction (R127, R129, R194). -/
structure LaneParts where
  pr : PredSel
  ps : List OpPos
  yw : Bool
  d : Opnd

/-- An LA form under its shape. -/
def ofLa (x : LaForm) (sh : Shape) : LaneParts :=
  ⟨x.pr, [(0, sh.d, x.d), (1, sh.a, x.a), (2, sh.b, x.b), (3, sh.c, x.c)], x.yw, x.d⟩

/-- An LI form under its shape; a third source is the destination (R194). -/
def ofLi (x : LiForm) (sh : Shape) : LaneParts := ⟨x.pr, [(0, liDst sh.d sh.c, x.d), (1, sh.a, x.a)], false, x.d⟩

/-- The operand positions of every LA and LI instruction that computes in the lanes, at the clause's recorded `fmt`. -/
def laneParts (f : W64) : Instr → Option LaneParts
  | .iadd x => some (ofLa x (shArith f true false x.ty x.md x.ext))
  | .isub x => some (ofLa x (shArith f true false x.ty x.md x.ext))
  | .imul x => some (ofLa x (shArith f false false x.ty x.md x.ext))
  | .imulh x => some (ofLa x (shArith f false false x.ty x.md x.ext))
  | .imad x => some (ofLa x (shArith f true true x.ty x.md x.ext))
  | .idot4 x => some (ofLa x (shIdot4 x.ty x.md x.ext))
  | .imin x => some (ofLa x (shArith f false false x.ty x.md x.ext))
  | .imax x => some (ofLa x (shArith f false false x.ty x.md x.ext))
  | .bfn3 x => some (ofLa x (shBfn3 f false x.ty x.md x.ext))
  | .shf x => some (ofLa x (shShf f x.ty x.md x.ext))
  | .laneBfx x => some (ofLa x (shBf f false x.ty x.md x.ext))
  | .laneBfi x => some (ofLa x (shBf f true x.ty x.md x.ext))
  | .bitc x => some (ofLa x (shBitc f x.ty x.md x.ext))
  | .icmp x => some (ofLa x (shCmp f (tyIsInt x.ty) 6 false x.d x.ty x.md x.ext))
  | .fadd x => some (ofLa x (shFloat 0xF false x.ty x.md x.ext))
  | .fmul x => some (ofLa x (shFloat 0xF false x.ty x.md x.ext))
  | .ffma x => some (ofLa x (shFloat 0x1F true x.ty x.md x.ext))
  | .fmin x => some (ofLa x (shFminmax x.ty x.md x.ext))
  | .fmax x => some (ofLa x (shFminmax x.ty x.md x.ext))
  | .fcmp x => some (ofLa x (shCmp f (tyIsFloat x.ty) 8 false x.d x.ty x.md x.ext))
  | .fmath x => some (ofLa x (shFmath x.ty x.md x.ext))
  | .fsca x => some (ofLa x (shFsca x.ty x.md x.ext))
  | .fclass x => some (ofLa x (shFclass f x.d x.ty x.md x.ext))
  | .cvt x => some (ofLa x (shCvt f x.ty x.md x.ext))
  | .pack x => some (ofLa x (shPack x.ty x.md x.ext))
  | .unpack x => some (ofLa x (shUnpack x.ty x.md x.ext))
  | .scalex x => some (ofLa x (shScalex x.ty x.md x.ext))
  | .lperm x => some (ofLa x (shLperm f x.ty x.md x.ext))
  | .qxch x => some (ofLa x (shQuad f 3 x.ty x.md x.ext))
  | .qbc x => some (ofLa x (shQuad f 4 x.ty x.md x.ext))
  | .red x => some (ofLa x (shRed f false x.ty x.md x.ext))
  | .scan x => some (ofLa x (shRed f true x.ty x.md x.ext))
  | .ppoll x => some (ofLa x (shPpoll x.d x.ty x.md x.ext))
  | .xadd x => some (ofLa x (shVpf f false false x.md 0 x.ty x.ext true (extByte x.ext = 0)))
  | .xmul x => some (ofLa x (shVpf f false false x.md 0 x.ty x.ext true (extByte x.ext = 0)))
  | .xfma x => some (ofLa x (shVpf f true false x.md 0 x.ty x.ext true (extByte x.ext = 0)))
  | .xadde x => some (ofLa x (shVpf f false true x.md 0 x.ty x.ext true (extByte x.ext = 0)))
  | .xmule x => some (ofLa x (shVpf f false true x.md 0 x.ty x.ext true (extByte x.ext = 0)))
  | .xcvt x => some (ofLa x (shXcvt f x.ty x.md x.ext))
  | .xcmp x => some (ofLa x (shCmp f (tyIsVpf x.ty) 8 true x.d x.ty x.md x.ext))
  | .xrnd x => some (ofLa x (shVpf f false false x.md 0 x.ty x.ext false (xrndTarget (extByte x.ext).toNat)))
  | .xerr x => some (ofLa x (shVpf f false false x.md 1 x.ty x.ext true (extByte x.ext = 0)))
  | .mov x => some (ofLa x (shMov f x.ty x.md x.ext))
  | .laneSel x => some (ofLa x (shSel f x.ty x.md x.ext))
  | .pfn3 x => some (ofLa x (shPfn3 x.ty x.md x.ext))
  | .spec x => some (ofLa x (shSpec x.ty x.md x.ext))
  | .ixset x => some (ofLa x (shIxset x.ty x.md x.ext))
  | .iaddLi x => some (ofLi x (shArith f true false x.ty x.md 0))
  | .isubLi x => some (ofLi x (shArith f true false x.ty x.md 0))
  | .imulLi x => some (ofLi x (shArith f false false x.ty x.md 0))
  | .imulhLi x => some (ofLi x (shArith f false false x.ty x.md 0))
  | .imadLi x => some (ofLi x (shArith f true true x.ty x.md 0))
  | .idot4Li x => some (ofLi x (shIdot4 x.ty x.md 0))
  | .iminLi x => some (ofLi x (shArith f false false x.ty x.md 0))
  | .imaxLi x => some (ofLi x (shArith f false false x.ty x.md 0))
  | .bfn3Li x => some (ofLi x (shBfn3 f true x.ty x.md 0))
  | .shfLi x => some (ofLi x (shShf f x.ty x.md 0))
  | .laneBfxLi x => some (ofLi x (shBf f false x.ty x.md 0))
  | .laneBfiLi x => some (ofLi x (shBf f true x.ty x.md 0))
  | .icmpLi x => some (ofLi x (shCmp f (tyIsInt x.ty) 6 false x.d x.ty x.md 0))
  | .faddLi x => some (ofLi x (shFloat 0xF false x.ty x.md 0))
  | .fmulLi x => some (ofLi x (shFloat 0xF false x.ty x.md 0))
  | .ffmaLi x => some (ofLi x (shFloat 0x1F true x.ty x.md 0))
  | .fminLi x => some (ofLi x (shFminmax x.ty x.md 0))
  | .fmaxLi x => some (ofLi x (shFminmax x.ty x.md 0))
  | .fcmpLi x => some (ofLi x (shCmp f (tyIsFloat x.ty) 8 false x.d x.ty x.md 0))
  | .fmathDivLi x => some (ofLi x (shFmath x.ty x.md 0))
  | .fscaLi x => some (ofLi x (shFsca x.ty x.md 0))
  | .movi x => some (ofLi x { d := .dst (slotsOf f x.ty) })
  | _ => none

/-! ### The granules an instruction touches (R38) -/

/-- The granules filled before the instruction acts: those its acting lanes name; RED, SCAN and PPOLL touch those of the active lanes
only, and LPERM, QXCH and QBC read operand a in other lanes (R38, R213, R216, R218). -/
def firstGranules (i : Instr) (p : LaneParts) (g : Group) (v : LaneEnv) : List Nat :=
  match i with
  | .red _ | .scan _ | .ppoll _ => neededGranules g (lanesOf v.active) p.ps
  | .lperm _ | .qxch _ | .qbc _ => neededGranules g (actLanes v) (p.ps.filter fun q => q.1 = 0 ∨ q.1 = 2)
  | _ => neededGranules g (actLanes v) p.ps

/-- The lane that LPERM, QXCH and QBC read operand a in, for a lane (R214, R215). -/
def sourceLane (s : State) (v : LaneEnv) (l : Nat) : Instr → Nat
  | .lperm x => lpermSource (srcsLa x) v s l
  | .qxch x => 4 * (l / 4) + Nat.xor (l % 4) ((x.md.extractLsb' 0 2).toNat + 1)
  | .qbc x => 4 * (l / 4) + (x.md.extractLsb' 0 2).toNat
  | _ => l

/-- The granules of operand a in the lanes LPERM, QXCH and QBC read. -/
def secondGranules (i : Instr) (p : LaneParts) (s : State) (v : LaneEnv) : List Nat :=
  match i with
  | .lperm _ | .qxch _ | .qbc _ =>
    neededGranules s.cur ((actLanes v).map fun l => sourceLane s v l i) (p.ps.filter fun q => q.1 = 1)
  | _ => []

/-! ### Lane memory and matrix instructions -/

/-- The fields of a format LM instruction, how it uses its data operand, and whether helpers take part (R27, R194). -/
structure MemParts where
  x : LmForm
  use : Use
  helps : Bool

/-- The lane memory instructions, at the clause's recorded `fmt`. -/
def memParts (f : W64) : Instr → Option MemParts
  | .laneLd x => some ⟨x, .dst (lmSlots x), true⟩
  | .laneSt x => some ⟨x, .src (lmSlots x) (some x.ty), false⟩
  | .ldv x => some ⟨x, .dst (slotsOf f x.ty), true⟩
  | .stv x => some ⟨x, .src (slotsOf f x.ty) (some x.ty), false⟩
  | .pref x => some ⟨x, .unused, false⟩
  | .atom x => some ⟨x, atomUse false x, false⟩
  | .atomc x => some ⟨x, atomUse true x, false⟩
  | .ldfe x => some ⟨x, .dst 1, false⟩
  | .stfe x => some ⟨x, .src 1 (some x.ty), false⟩
  | .fesetFull x => some ⟨x, .unused, false⟩
  | .fesetEmpty x => some ⟨x, .unused, false⟩
  | .ldWf x => some ⟨x, .dst 1, false⟩
  | .stFill x => some ⟨x, .src 1 (some x.ty), false⟩
  | .stEmpty x => some ⟨x, .src 1 (some x.ty), false⟩
  | _ => none

/-- The fields the matrix instructions share: their predicate, the operand positions, and the tiles they name (R252, R260 to R262). -/
structure MatParts where
  pr : PredSel
  ps : List OpPos
  tile : Nat
  tiles : Nat

/-- The matrix instructions. -/
def matParts : Instr → Option MatParts
  | .mma x => some ⟨x.pr, mmaPos x false, x.tile.toNat, mmaRowBlocks x * mmaColBlocks x⟩
  | .mmas x => some ⟨x.pr, mmaPos x true, x.tile.toNat, mmaRowBlocks x * mmaColBlocks x⟩
  | .accz x => some ⟨x.pr, [], x.tile.toNat, 1⟩
  | .accld x => some ⟨x.pr, [(1, .src 1 none, x.addr)], accTile x, 1⟩
  | .accst x => some ⟨x.pr, [(1, .src 1 none, x.addr)], accTile x, 1⟩
  | .accrd x => some ⟨x.pr, posLa x (shAccrd x.ty x.md x.ext), modTile x, 1⟩
  | .accwr x => some ⟨x.pr, posLa x (shAccwr x.ty x.md x.ext), modTile x, 1⟩
  | .mbfen x => some ⟨x.pr, [], 0, 0⟩
  | .mbwait x => some ⟨x.pr, [], 0, 0⟩
  | _ => none

/-! ### Wanted granules (R38) -/

/-- A frame that lets an instruction act: its operands in range in every acting lane, no pending write to its destinations. -/
def framed (g : Group) (v : LaneEnv) (ps : List OpPos) : Bool :=
  (badPosition g (actLanes v) ps).isNone && !(destKeys g (actLanes v) ps).any (isPending g)

/-- The granules instruction i of the running clause e reads or writes once it issues. -/
def laneWants (s : State) (e : QEntry) (i : Instr) : List Nat :=
  let g := s.cur
  if !legalAt e.fmt i then []
  else
    match laneParts e.fmt i, memParts e.fmt i, matParts i with
    | some p, _, _ =>
      let v := laneEnv g e p.pr
      if framed g v p.ps then firstGranules i p g v ++ secondGranules i p s v else []
    | _, some m, _ =>
      let v := laneEnv g e m.x.pr
      let w := if m.helps then v else noHelp v
      if framed g v (lmPos m.x m.use) then fillOwn (lmPos m.x m.use) g w else []
    | _, _, some m =>
      let v := noHelp (laneEnv g e m.pr)
      if matrixConverged m.pr e && (!g.handler || g.msaved) && m.tile + m.tiles ≤ g.tiles.length && framed g v m.ps
      then fillOwn m.ps g v else []
    | none, none, none => []

/-- The granules the lane engine's next work reads or writes: a VPUT at the head of the queue, or the running clause's instruction. -/
def engineWants (s : State) : List Nat :=
  match s.cur.queue with
  | [] => []
  | e :: _ =>
    if e.kind = .vput then [bitsOf e.target 12 5 / 8]
    else if !(e.kind = .clause && e.started && s.cur.feWait.isNone) then []
    else
      match fetchWords s .laneFetch (e.addr + BitVec.ofNat 64 (12 * (e.pos + 1))) 3 with
      | .error _ => []
      | .ok (bs, _) =>
        match decodeLane (laneWordOf bs) with
        | some i => laneWants s e i
        | none => []

/-- The granules the scalar thread's next instruction reads or keeps: VGET's slot, ENDK's range (R178, R190). -/
def scalarWants (s : State) : List Nat :=
  let g := s.cur
  match fetchWord s .scalarFetch g.pc with
  | .error _ => []
  | .ok (bs, _) =>
    match decodeScalar (scalarWordOf bs) with
    | some (.vget _ slot lane) =>
      if slot.toNat < g.nslots && laneEnded g && !isPending g (laneKey slot.toNat lane.toNat) then [slot.toNat / 8] else []
    | some (.endk a b) =>
      let first := (sreg s a).toNat
      let count := (sreg s b).toNat
      if first + count ≤ g.nslots / 8 && endsNow g then (List.range count).map (first + ·) else []
    | _ => []

/-- The absent granules that the next instruction of group g, or its next lane work, reads or writes (R38). -/
def granulesWanted (s : State) (g : Group) : List Nat :=
  if g.absent.isEmpty then []
  else
    let t := focus s g.key
    ((engineWants t ++ scalarWants t).eraseDups).filter g.absent.contains

end Sys2Proof.Machine
end

