-- ==== Sys2Proof/Machine/Clause.lean ====
section
/-!
DEFINITION. Clause.lean: the lane engine: clause start, positioned effects, fills and trap entry as steps of their own
(R19, R20, R38, R41, R153, R327).
-/
namespace Sys2Proof.Machine

/-- A trap on a clause header: IDX 15, the clause address in `tval`, the clause saved unstarted (R19, R136). -/
def headerTrap (s : State) (cause : Nat) (e : QEntry) : State := takeTrap s true 15 cause e.addr s.cur.pc

/-- Clear y0 and y1 in every lane (R19). -/
def clearY (g : Group) : Group := { g with lanes := spClear g.lanes (yKey 0 0) 64 }

/-- The clause at the head starts: y cleared, set-flags counted, the `fewait` in force taken (R19, R20, R244). -/
def startClause (e : QEntry) (r : List QEntry) (h : ClauseHeader) (g : Group) : Group :=
  let e := { e with started := true, pos := 0, count := h.count, setA := h.setA, setB := h.setB, helper := h.helper,
                    fewait := g.fewait }
  (setFlags e).foldl (fun g i => flagAdd g i 1) { clearY g with queue := e :: r }

/-- The header at the head of the queue is fetched and checked; the clause starts once its wait flags are clear (R19). -/
def clauseStart (s : State) : State :=
  match s.cur.queue with
  | e :: r =>
    if e.kind ≠ .clause || e.started then s
    else
      match fetchWords s .laneFetch e.addr 3 with
      | .error x => headerTrap s (errCause .laneFetch x) e
      | .ok (bs, s1) =>
        match decodeHeader (laneWordOf bs) with
        | none => headerTrap s1 0x03 e
        | some h => if flagsWord s.cur &&& h.wait = 0 then modCur s1 (startClause e r h) else s
  | [] => s

/-- CLAUSE_START in group k (R19). -/
def execClauseStart (k : GKey) (s : State) : Out := .next (onGroup k clauseStart s)

/-- A positioned VPUT waits for a pending write to its slot, fills an absent granule and writes (R22, R38, R178). -/
def applyVput (e : QEntry) (r : List QEntry) (s : State) : State :=
  let slot := bitsOf e.target 12 5
  let key := laneKey slot (bitsOf e.target 4 0)
  if isPending s.cur key then s
  else
    match fillGranules s [slot / 8] with
    | .error c => headerTrap s c.1 { e with addr := c.2 }
    | .ok s1 => modCur s1 fun g => laneSet { g with queue := r } key (e.addr.setWidth 32)

/-- The effect at the head of the queue is applied: every earlier clause has ended (R153). -/
def positionedEffect (s : State) : State :=
  match s.cur.queue with
  | e :: r =>
    match e.kind with
    | .clause => s
    | .vput => applyVput e r s
    | .setp => modCur s fun g => predSetMask { g with queue := r } e.target.toNat (e.addr.setWidth 32)
    | .prng => modCur s fun g => setPrng { g with queue := r } e.addr
    | .fewait => modCur s fun g => { g with queue := r, fewait := e.addr }
  | [] => s

/-- POSITIONED_EFFECT in group k (R153). -/
def execPositionedEffect (k : GKey) (s : State) : Out := .next (onGroup k positionedEffect s)

/-- Granule j of the group in focus is filled before the access that reads or writes it; a failing fill is left to the instruction that
caused it (R38). -/
def fillWanted (j : Nat) (s : State) : State :=
  if (granulesWanted s s.cur).contains j then
    match fillGranules s [j] with
    | .ok s1 => s1
    | .error _ => s
  else s

/-- GRANULE_FILL: absent granule j of group k, which its next instruction reads or writes, is filled; one that nothing reads or writes is
not (R38). -/
def execGranuleFill (k : GKey) (j : Nat) (s : State) : Out := .next (onGroup k (fillWanted j) s)

/-- The causes the rules deliver to a group; 0x16 is not one (R138, R293, R333). -/
def groupCause (c : Nat) : Bool :=
  decide (1 ≤ c) && decide (c ≤ 0x18) && c ≠ 0x07 && c ≠ 0x16

/-- TRAP_ENTRY: group k takes a trap (R327); a cause that no rule delivers to a group changes nothing (R333). -/
def execTrapEntry (k : GKey) (lane : Bool) (idx cause : Nat) (tval : W64) (s : State) : Out :=
  .next (if groupCause (cause % 256) then onGroup k (fun s => takeTrap s lane (idx % 16) (cause % 256) tval s.cur.pc) s else s)

end Sys2Proof.Machine
end

