-- ==== Sys2Proof/Machine/Engine.lean ====
section
/-!
DEFINITION. Engine.lean: tags, byte barriers, the issue of engine operations, copies, and what an operation does when it
ends (R113, R114, R263 to R278).
-/
namespace Sys2Proof.Machine

/-! ### Statuses (R265) -/

/-- The cause a wait raises for a status; none for success and for a cancelled interest. -/
def statusTrap (st : Byte) : Option Nat :=
  if st = 0 || st = 7 then none else if st = 6 then some 0x15 else some 0x14

/-! ### Tags (R268, R269) -/

/-- A tag of the current crew. -/
def tagAt (c : Crew) (t : Nat) : TagState := nth c.tags t .idle

/-- Set a tag. -/
def setTag (t : Nat) (x : TagState) (c : Crew) : Crew := { c with tags := c.tags.set t x }

/-- The tag is pending. -/
def tagPending (c : Crew) (t : Nat) : Bool := tagAt c t = .pending

/-- The tag's status, if it is ready. -/
def tagStatus (c : Crew) (t : Nat) : Option Byte :=
  match tagAt c t with
  | .ready st => some st
  | _ => none

/-- The numbers in a 64-bit mask, ascending. -/
def maskNums (m : W64) : List Nat := (List.range 64).filter fun t => m.getLsbD t

/-- The mask of some tags. -/
def numsMask (l : List Nat) : W64 := BitVec.ofNat 64 (l.foldl (fun acc t => acc + 2 ^ t) 0)

/-- A mask may not name a tag beyond the allocation: the lowest such number (R269). -/
def badTag (c : Crew) (m : W64) : Option Nat := (maskNums m).find? fun t => c.tags.length ≤ t

/-- The tags of a mask that are ready. -/
def readyTags (c : Crew) (m : W64) : List Nat := (maskNums m).filter fun t => (tagStatus c t).isSome

/-- The result of a TWAIT: the trap of the lowest failed tag, or the mask (R269). -/
def twaitResult (s : State) (d : BitVec 6) (m : W64) : State :=
  let r := readyTags s.crew m
  match r.find? fun t => ((tagStatus s.crew t).bind statusTrap).isSome with
  | some t =>
    let st := (tagStatus s.crew t).getD 0
    scalarTrap s ((statusTrap st).getD 0x14) (BitVec.ofNat 64 (st.toNat * 256 + t))
  | none => retS s d (numsMask r)

/-- TWAIT.ALL (R269). -/
def execTwaitAll (d a : BitVec 6) (s : State) : Out :=
  let m := sreg s a
  match badTag s.crew m with
  | some t => .next (scalarTrap s 0x01 (BitVec.ofNat 64 t))
  | none => if (maskNums m).any (tagPending s.crew) then .next (stall s) else .next (twaitResult s d m)

/-- TWAIT.ANY (R269). -/
def execTwaitAny (d a : BitVec 6) (s : State) : Out :=
  let m := sreg s a
  match badTag s.crew m with
  | some t => .next (scalarTrap s 0x01 (BitVec.ofNat 64 t))
  | none =>
    if (readyTags s.crew m).isEmpty && (maskNums m).any (tagPending s.crew) then .next (stall s)
    else .next (twaitResult s d m)

/-- TFIRST (R269). -/
def execTfirst (d a : BitVec 6) (s : State) : Out :=
  let m := sreg s a
  match badTag s.crew m with
  | some t => .next (scalarTrap s 0x01 (BitVec.ofNat 64 t))
  | none =>
    match readyTags s.crew m with
    | [] => .next (retS s d (-1))
    | t :: _ => .next (retS s d (BitVec.ofNat 64 (((tagStatus s.crew t).getD 0).toNat * 256 + t)))

/-- TACK (R269). -/
def execTack (a : BitVec 6) (s : State) : Out :=
  let m := sreg s a
  match badTag s.crew m with
  | some t => .next (scalarTrap s 0x01 (BitVec.ofNat 64 t))
  | none => .next (advance (modCrew s fun c => (readyTags c m).foldl (fun c t => setTag t .idle c) c))

/-! ### Byte barriers (R270 to R276) -/

/-- A barrier before its first BBINIT. -/
def blankBar : ByteBar :=
  { inited := false, phase := 0, cur := 0, next := 0, expect := 0, posted := false, overrun := false, status := 0 }

/-- A barrier of a crew. -/
def barAt (c : Crew) (t : Nat) : ByteBar := nth c.bbs t blankBar

/-- Change a barrier. -/
def onBar (t : Nat) (f : ByteBar → ByteBar) (c : Crew) : Crew := { c with bbs := c.bbs.set t (f (barAt c t)) }

/-- evaluate of R271. -/
def evalBar (b : ByteBar) : ByteBar :=
  if b.posted && b.expect < b.cur then { b with overrun := true }
  else if b.posted && b.cur = b.expect then
    { b with phase := b.phase + 1, cur := b.next, next := 0, expect := 0, posted := false }
  else b

/-- The phase bit (R270). -/
def phaseBit (b : ByteBar) : Bool := b.phase.getLsbD 0

/-- A counter of 40 bits that stops at its top (R271). -/
def addBytes (x n : Nat) : Nat := min (x + n) (2 ^ 40 - 1)

/-- arrive of R271. -/
def arriveBar (n : Nat) (q : Bool) (st : Byte) (b : ByteBar) : ByteBar :=
  let now := q = phaseBit b
  let full := decide ((if now then b.cur else b.next) + n ≥ 2 ^ 40)
  evalBar { b with
    cur := if now then addBytes b.cur n else b.cur
    next := if now then b.next else addBytes b.next n
    overrun := b.overrun || full
    status := if b.status = 0 && (statusTrap st).isSome then st else b.status }

/-- A barrier number beyond the allocation, or not initialised (R15, R270). -/
def badBar (c : Crew) (t : Nat) : Bool := c.bbs.length ≤ t || !(barAt c t).inited

/-- BBINIT (R273). -/
def execBbinit (t : BitVec 6) (s : State) : Out :=
  if s.crew.bbs.length ≤ t.toNat then .next (scalarTrap s 0x01 (zext64 t))
  else .next (advance (modCrew s (onBar t.toNat fun _ => { blankBar with inited := true })))

/-- BBEXP (R274). -/
def execBbexp (a t : BitVec 6) (s : State) : Out :=
  let e := sreg s a
  if badBar s.crew t.toNat then .next (scalarTrap s 0x01 (zext64 t))
  else if bitsOf e 63 40 ≠ 0 then .next (scalarTrap s 0x01 e)
  else if (barAt s.crew t.toNat).posted then .next (scalarTrap s 0x10 (zext64 t))
  else .next (advance (modCrew s (onBar t.toNat fun b => evalBar { b with expect := e.toNat, posted := true })))

/-- Phase k has passed (R275). -/
def phasePassed (b : ByteBar) (k : BitVec 16) : Bool := 1 ≤ (b.phase - k).toNat && (b.phase - k).toNat ≤ 32767

/-- BBWAIT (R275). -/
def execBbwait (d a t : BitVec 6) (s : State) : Out :=
  let k := sreg s a
  let b := barAt s.crew t.toNat
  if badBar s.crew t.toNat then .next (scalarTrap s 0x01 (zext64 t))
  else if bitsOf k 63 16 ≠ 0 then .next (scalarTrap s 0x01 k)
  else if phasePassed b (k.setWidth 16) then
    match statusTrap b.status with
    | some c => .next (scalarTrap s c (BitVec.ofNat 64 (b.status.toNat * 256 + t.toNat)))
    | none => .next (retS s d (zext64 b.phase))
  else if b.overrun then .next (scalarTrap s 0x10 (zext64 t))
  else .next (stall s)

/-- BBARV (R276). -/
def execBbarv (a b t : BitVec 6) (s : State) : Out :=
  let n := sreg s a
  let sel := sreg s b
  if badBar s.crew t.toNat then .next (scalarTrap s 0x01 (zext64 t))
  else if bitsOf n 63 40 ≠ 0 then .next (scalarTrap s 0x01 n)
  else if bitsOf sel 63 1 ≠ 0 then .next (scalarTrap s 0x01 sel)
  else if !laneEnded s.cur || !storesDone s 2 then .next (stall s)
  else .next (advance (modCrew s (onBar t.toNat fun x => arriveBar n.toNat (phaseBit x != bitAt sel 0) 0 x)))

/-! ### Issue (R113, R264, R268) -/

/-- Engine operations of the current crew in flight. -/
def crewOps (s : State) (k : GKey) : List EngOp := s.ops.filter fun o => crewKey o.grp = crewKey k

/-- A target number that raises 0x01 (R15, R270). -/
def badTarget (c : Crew) (bar : Bool) (t : Nat) : Bool := if bar then badBar c t else c.tags.length ≤ t

/-- The instruction may issue: earlier clauses have ended, their stores are performed with respect to the engine, the crew
has fewer than 256 operations, its tag is not pending (R113, R264, R268). -/
def engineReady (s : State) (tag : Option Nat) : Bool :=
  laneEnded s.cur && storesDone s 4 && (crewOps s s.cur.key).length < 256
    && (match tag with
        | some t => !tagPending s.crew t
        | none => true)

/-- An operation of the current group, as issued. -/
def newOp (s : State) (kind : OpKind) (target : OpTarget) : EngOp :=
  { id := s.nextId, grp := s.cur.key, cluster := s.cur.cluster, core := s.cur.core, asid := s.cur.asid,
    ptbase := s.cur.ptbase, priv := s.cur.priv, kind := kind, target := target, stage := .issued, issued := s.time,
    mark := s.hist.length, count := 0, expiry := 0, after := [], owned := [], lost := [], port := none, move := none }

/-- The target of an instruction: a tag, or a barrier with the parity its phase select gives (R271). -/
def opTarget (c : Crew) (bar : Bool) (t : Nat) (sel : Bool) : OpTarget :=
  if bar then .bar t (phaseBit (barAt c t) != sel) else .tag t

/-- Issue an operation: its tag becomes pending and it joins those in flight. -/
def issueOp (s : State) (o : EngOp) : State :=
  let s1 := { s with ops := s.ops ++ [o], nextId := s.nextId + 1 }
  match o.target with
  | .tag t => modCrew s1 (setTag t .pending)
  | _ => s1

/-! ### Completion (R265, R267, R268, R272) -/

/-- The status reaches its tag or its barrier (R265). -/
def deliverStatus (s : State) (o : EngOp) (st : Byte) : State :=
  match o.target with
  | .tag t => onCrewData s o.grp (setTag t (.ready st))
  | .bar t q => onCrewData s o.grp (onBar t (arriveBar o.count q st))
  | .word => s

/-- An operation waits for one less; when it waits for none it may begin to read (R376). -/
def waitLess (id mark : Nat) (x : EngOp) : EngOp :=
  if x.after.contains id then { x with after := x.after.filter (· ≠ id), mark := mark } else x

/-- An operation ends: its status is delivered, it is in flight no longer, its ownership is released, and an ordered command waits for it
no longer (R114, R376). -/
def finishOp (s : State) (o : EngOp) (st : Byte) : State :=
  { deliverStatus s o st with
    ops := ((deliverStatus s o st).ops.filter fun x => x.id ≠ o.id).map (waitLess o.id s.hist.length) }

/-- Replace an operation. -/
def putOp (s : State) (o : EngOp) : State := { s with ops := replaceFirst (fun x => x.id = o.id) (fun _ => o) s.ops }

/-- The operation with an identity. -/
def findOp (s : State) (id : Nat) : Option EngOp := s.ops.find? fun o => o.id = id

/-- The holder of an operation's translations: the Loam unit that runs it, its cluster's named-tile engine, its core's copy engine
(R89). -/
def opHolder (o : EngOp) : Nat :=
  match opUnit o, o.kind with
  | some u, _ => 512 + u
  | none, .npub _ _ _ | none, .nreq _ _ _ => 4096 + o.cluster
  | none, _ => 2048 + coreHolder o.cluster o.core

/-- An operation as an actor. -/
def opActor (o : EngOp) : Actor :=
  { asid := o.asid, ptbase := o.ptbase, priv := o.priv, holder := opHolder o, band := some (o.grp.launch, o.grp.band) }

/-! ### Copies (R266, R277, R278, R306) -/

/-- One row of a copy. -/
structure CopyRow where
  src : W64
  dst : W64
  len : Nat
  deriving DecidableEq, Repr

/-- Two virtual ranges share an address. -/
def rangesMeet (a : W64) (n : Nat) (b : W64) (m : Nat) : Bool :=
  n ≠ 0 && m ≠ 0 && ((b - a).toNat < n || (a - b).toNat < m)

/-- A byte is written twice, or read and written (R277, R278). -/
def rowsClash : List CopyRow → Bool
  | [] => false
  | r :: rs =>
    rangesMeet r.src r.len r.dst r.len
      || rs.any (fun q => rangesMeet r.dst r.len q.dst q.len || rangesMeet r.src r.len q.dst q.len
          || rangesMeet r.dst r.len q.src q.len)
      || rowsClash rs

/-- The classes an engine reaches: stacked and far memory, the host, scratchpads (R277). -/
def enginePlace : Place → Bool
  | .stacked _ _ | .far | .host | .scratch _ _ _ => true
  | _ => false

/-- The runs of an engine's range, or the status that refuses it (R266). -/
def engineRuns (s : State) (a : Actor) (k : Access) (va : W64) (n : Nat) : Except Byte (List Run) :=
  match runs s a k va n with
  | .error e => .error (errStatus e)
  | .ok rs => if rs.all fun r => enginePlace r.place then .ok rs else .error 0x02

/-- The first page check that fails over all rows, loads before stores in each: which of several failing pages gives the status is not fixed
(R266; DESIGN CHOICE, log 114). -/
def rowsRefused (s : State) (a : Actor) (rows : List CopyRow) : Option Byte :=
  rows.findSome? fun r =>
    match engineRuns s a .load r.src r.len with
    | .error st => some st
    | .ok _ =>
      match engineRuns s a .store r.dst r.len with
      | .error st => some st
      | .ok _ => none

/-- A row cut at the 128-byte lines of its destination: source, destination, length (R114). -/
def cutRow : Nat → W64 → W64 → Nat → List CopyRow
  | 0, _, _, _ => []
  | fuel + 1, src, dst, n =>
    if n = 0 then []
    else
      let h := min n (128 - dst.toNat % 128)
      { src := src, dst := dst, len := h } :: cutRow fuel (src + BitVec.ofNat 64 h) (dst + BitVec.ofNat 64 h) (n - h)

/-- A copy cut at destination lines, in the order of its pseudocode. -/
def cutRows (rows : List CopyRow) : List CopyRow := rows.flatMap fun r => cutRow (r.len / 128 + 2) r.src r.dst r.len

/-- The A bits of the pages that hold some ranges, as the walks of an engine's reads set them (R88). -/
def readMarks (s : State) (a : Actor) (l : List (W64 × Nat)) : State :=
  l.foldl (fun s r => match engineRuns s a .load r.1 r.2 with
    | .ok rs => touchRuns s a .load r.1 rs
    | .error _ => s) s

/-- A failure at a line: a link that is down, or poison at the source or a dead home (R266, R351, R398). -/
def chunkFails (s : State) (a : Actor) (c : CopyRow) : Option Byte :=
  let hostDown (rs : List Run) : Bool := !s.linkUp && rs.any fun r => r.place = .host
  match engineRuns s a .load c.src c.len, engineRuns s a .store c.dst c.len with
  | .ok rs, .ok ds =>
    if hostDown rs || hostDown ds then some 0x08
    else if (firstErr (loadErr s) rs).isSome || (firstErr (storeErr s) ds).isSome then some 0x04
    else none
  | .error st, _ | _, .error st => some st

/-- A byte an engine reads: a value its word has held since the operation was issued (R113). -/
def engineByte (s : State) (mark pa : Nat) : Byte := nth (someValueSince s mark (pa / 4 * 4) 4) (pa % 4) 0

/-- The bytes an engine reads at checked runs. -/
def engineRead (s : State) (mark : Nat) (rs : List Run) : List Byte :=
  rs.flatMap fun r => (List.range r.len).map fun i => engineByte s mark (r.pa + i)

/-- Store bytes as an engine: for an operation, into lines it has taken over; for hardware that has no operation, at once (R114, R346,
log 9). -/
def engineWrite (s : State) (o : Option EngOp) : List Run → List Byte → State
  | [], _ => s
  | r :: rs, bs =>
    engineWrite (match o with
      | some op => ownedWrite s op r.pa (bs.take r.len)
      | none => memWrite s r.pa (bs.take r.len)) o rs (bs.drop r.len)

/-- Write one chunk with the bytes read for it. -/
def writeChunk (a : Actor) (o : Option EngOp) (s : State) (c : CopyRow × List Byte) : State :=
  match engineRuns s a .store c.1.dst c.1.len with
  | .ok ds => engineWrite (touchRuns s a .store c.1.dst ds) o ds c.2
  | .error _ => s

/-- A whole copy: its status and the state after. Every source byte is read before any destination byte is written, where an aliased source
byte might also give what the copy wrote (R277; DESIGN CHOICE, log 120); the lines before the one that fails stand (R266, R278). -/
def copyRows (s : State) (a : Actor) (o : Option EngOp) (mark : Nat) (rows : List CopyRow) : Byte × State :=
  if rowsClash rows then (0x05, s)
  else
    match rowsRefused s a rows with
    | some st => (st, s)
    | none =>
      let cs := cutRows rows
      let order := (cs.map fun c => c.dst.toNat / 128).eraseDups
      let bad := order.findSome? fun l =>
        (cs.findSome? fun c => if c.dst.toNat / 128 = l then chunkFails s a c else none).map fun st => (l, st)
      let keep (c : CopyRow) : Bool :=
        match bad with
        | none => true
        | some (l, _) => order.idxOf (c.dst.toNat / 128) < order.idxOf l
      let data := (cs.filter keep).map fun c =>
        (c, match engineRuns s a .load c.src c.len with
          | .ok rs => engineRead s mark rs
          | .error _ => [])
      (((bad.map (·.2)).getD 0), data.foldl (writeChunk a o) (readMarks s a ((cs.filter keep).map fun c => (c.src, c.len))))

/-- The rows of CPY2D (R278). -/
def rows2d (src dst : W64) (rowbytes rows spitch dpitch : Nat) : List CopyRow :=
  (List.range rows).map fun r =>
    { src := src + BitVec.ofNat 64 (r * spitch), dst := dst + BitVec.ofNat 64 (r * dpitch), len := rowbytes }

/-- A range cut at page boundaries; `fuel` bounds the pages. -/
def pagePieces : Nat → W64 → Nat → List (W64 × Nat)
  | 0, _, _ => []
  | fuel + 1, va, n =>
    if n = 0 then []
    else
      let here := min n (4096 - va.toNat % 4096)
      (va, here) :: pagePieces fuel (va + BitVec.ofNat 64 here) (n - here)

/-- The physical ranges a copy owns from issue, where its destination translates (R114). -/
def ownedBy (s : State) (a : Actor) (rows : List CopyRow) : List (Nat × Nat) :=
  rows.flatMap fun r => (pagePieces (r.len / 4096 + 2) r.dst r.len).flatMap fun p =>
    match engineRuns s a .store p.1 p.2 with
    | .ok rs => rs.map fun x => (x.pa, x.len)
    | .error _ => []

/-- Issue an operation that takes its destination over (R114). -/
def claimOp (s : State) (w : Nat) (own : List (Nat × Nat)) (f : State → EngOp) : State :=
  let c := claimRuns s w s.cur.core s.cur.key.group own
  issueOp c.2 { f c.2 with owned := c.1 }

/-- Issue a copy (R277, R278). A copy of no bytes completes at once. -/
def issueCopy (s : State) (kind : OpKind) (rows : List CopyRow) (n : Nat) (bar : Bool) (t : Nat) (sel : Bool) : State :=
  let o (s : State) : EngOp := { newOp s kind (opTarget s.crew bar t sel) with count := n }
  if n = 0 then advance (finishOp (issueOp s (o s)) (o s) 0)
  else
    let own := ownedBy s (groupActor s.cur) rows
    if claimBlocked s s.cur.cluster own then stall s else advance (claimOp s s.cur.cluster own o)

/-- CPY (R277). -/
def execCpy (d a b t : BitVec 6) (s : State) : Out :=
  let c := sreg s b
  let n := bitsOf c 32 0
  let bar := bitAt c 63
  if bitsOf c 61 33 ≠ 0 || n > 2 ^ 32 then .next (scalarTrap s 0x01 c)
  else if badTarget s.crew bar t.toNat then .next (scalarTrap s 0x01 (zext64 t))
  else if !engineReady s (if bar then none else some t.toNat) then .next (stall s)
  else
    .next (issueCopy s (.cpy (sreg s a) (sreg s d) n) [{ src := sreg s a, dst := sreg s d, len := n }] n bar t.toNat
      (bitAt c 62))

/-- CPY2D (R278): b names the even register of the pair. -/
def execCpy2d (d a : BitVec 6) (b : BitVec 5) (t : BitVec 6) (s : State) : Out :=
  let c := sreg s (b ++ 0#1)
  let pitch := sreg s (b ++ 1#1)
  let rowbytes := bitsOf c 19 0 + 1
  let rows := bitsOf c 39 20 + 1
  let bar := bitAt c 63
  let sp := bitsOf pitch 31 0
  let dp := bitsOf pitch 63 32
  if !legalAt staticFmt (.cpy2d d a b t) then .next (illegalScalar (.cpy2d d a b t) s)
  else if bitsOf c 61 40 ≠ 0 then .next (scalarTrap s 0x01 c)
  else if badTarget s.crew bar t.toNat then .next (scalarTrap s 0x01 (zext64 t))
  else if !engineReady s (if bar then none else some t.toNat) then .next (stall s)
  else
    .next (issueCopy s (.cpy2d (sreg s a) (sreg s d) rowbytes rows sp dp)
      (rows2d (sreg s a) (sreg s d) rowbytes rows sp dp) (rowbytes * rows) bar t.toNat (bitAt c 62))

end Sys2Proof.Machine
end

