-- ==== Sys2Proof/Machine/ScalarMem.lean ====
section
/-!
DEFINITION. ScalarMem.lean: scalar loads, stores, literals, atomics and queue locks (R166 to R171, R187).
-/
namespace Sys2Proof.Machine

/-! ### Order with earlier clauses (R99, R105, R106, R153)

A scalar access runs ahead of the lane stream unless a queued lane access may touch its bytes or is an acquire, or both go to host
memory. Where the address of a queued access depends on what the clauses before it write, it is not settled yet: the scalar access waits
until it is, for without it no agent can tell whether the two overlap (DEDUCED, log 109). -/

/-- The form of a lane access, and the most bytes a lane of it touches; none for an instruction that accesses no memory of its own
or, as PREF, changes and returns none of it. -/
def aheadForm : Instr → Option (LmForm × Nat)
  | .laneLd f | .laneSt f => some (f, lmBytes f)
  | .ldv f | .stv f => some (f, 17)
  | .atom f | .atomc f => some (f, 8)
  | .ldfe f | .stfe f | .fesetFull f | .fesetEmpty f | .ldWf f | .stFill f | .stEmpty f => some (f, 4)
  | .accld f | .accst f => some (f, 512)
  | _ => none

/-- A lane access that acts as an acquire (R105, R109, R112, R243). -/
def acquires : Instr → Bool
  | .laneLd f | .ldv f | .accld f => f.order = 1 || f.order = 4
  | .atom f | .atomc f => f.order = 1 || f.order = 3 || f.order = 4
  | .ldfe _ | .ldWf _ => true
  | _ => false

/-- A lane instruction whose data field is a source or is not used. -/
def dataRead : Instr → Bool
  | .laneSt _ | .stv _ | .stfe _ | .stFill _ | .stEmpty _ | .fesetFull _ | .fesetEmpty _ | .pref _ | .accld _ | .accst _ | .accwr _ => true
  | _ => false

/-- The slots a lane word may change, numbered as lane register keys number them (256 up: c; 264 and 265: y), and 266 for the index
registers: those from its destination field on, y0 and y1 with the y-write bit. -/
def changesSlot (w : W96) (k : Nat) : Bool :=
  !(((decodeLane w).map dataRead).getD true) &&
  ((match decodeOpnd (w.extractLsb' 68 12) with
    | some (.v n) => n.toNat ≤ k && k < n.toNat + 16
    | some (.vx _ _) => decide (k < 256)
    | some (.c i) => 256 + i.toNat ≤ k && k < 264
    | some (.y i) => decide (k = 264 + i.toNat)
    | _ => false)
    || (match decodeLane w with
        | some (.ixset _) => decide (k = 266)
        | _ => w.getLsbD 1 && (k = 264 || k = 265)))

/-- No lane of slot k, present, waits for a value, and nothing before changes it. -/
def slotKnown (g : Group) (changed : Nat → Bool) (k : Nat) : Bool :=
  !changed k && !(k < 256 && g.absent.contains (k / 8)) && (List.range 32).all fun l => !isPending g (laneKey k l)

/-- The address of a queued access is settled: its operand is no register, or registers that nothing before it may change. -/
def addrKnown (g : Group) (changed : Nat → Bool) : Opnd → Bool
  | .v k => slotKnown g changed k.toNat
  | .vx i o => !changed 266 && (List.range 32).all fun l => slotKnown g changed (ixValue g l i.toNat + o.toNat).toNat
  | .c i => slotKnown g changed (256 + i.toNat)
  | .y i => slotKnown g changed (264 + i.toNat)
  | .s _ | .imm _ | .spec _ => true
  | _ => false

/-- The translations a queued clause's accesses may take: that of now, and that of when it was enqueued (R181). -/
def aheadActors (s : State) (e : QEntry) : List Actor :=
  let a := groupActor s.cur
  if e.asid = s.cur.asid && e.ptbase = s.cur.ptbase then [a] else [a, { a with asid := e.asid, ptbase := e.ptbase }]

/-- Two runs share a byte, or both lie in host memory, which takes a group's accesses in program order (R79, R99). -/
def runsMeet (x r : Run) : Bool := (x.pa < r.pa + r.len && r.pa < x.pa + x.len) || (x.place = .host && r.place = .host)

/-- A lane's access of n bytes may touch bytes of some runs; one that will trap touches none (R232). -/
def laneMeets (s : State) (rs : List Run) (as : List Actor) (space n : Nat) (ea : W64) : Bool :=
  (if space = 0 then as.map fun a => (runs s a .load ea n).toOption.getD [] else [(spaceRuns s space .load ea n).toOption.getD []]).any
    fun xs => xs.any fun x => rs.any (runsMeet x)

/-- A queued instruction must be performed before a scalar access to some runs. -/
def aheadHolds (s : State) (rs : List Run) (e : QEntry) (changed : Nat → Bool) (i : Instr) : Bool :=
  match aheadForm i with
  | none => false
  | some (f, n) =>
    acquires i || (f.space ≠ 3 && (!addrKnown s.cur changed f.addr
      || (lanesOf (e.mask ||| helperLanes e)).any fun l =>
          laneMeets s rs (aheadActors s e) f.space.toNat n (lmEa f { e := e, active := e.mask, helpers := helperLanes e } s l)))

/-- A queued clause with what its header says; none where that cannot be fetched. -/
def clauseHead (s : State) (e : QEntry) : Option QEntry :=
  if e.started then some e else (headerAt s e.addr).map fun h => { e with count := h.count, helper := h.helper }

/-- The words a queued clause has still to issue; none where they cannot be fetched. -/
def wordsLeft (s : State) (e : QEntry) : Option (List W96) :=
  ((List.range e.count).filter fun i => !e.started || e.pos ≤ i).mapM fun i =>
    match fetchWords s .laneFetch (e.addr + BitVec.ofNat 64 (12 * (i + 1))) 3 with
    | .ok (bs, _) => some (laneWordOf bs)
    | .error _ => none

/-- Whether one of a clause's words holds a scalar access back, and the slots changed after them. -/
def wordsHold (s : State) (rs : List Run) (e : QEntry) (acc : Bool × (Nat → Bool)) (w : W96) : Bool × (Nat → Bool) :=
  (acc.1 || (match decodeLane w with
    | some i => aheadHolds s rs e acc.2 i
    | none => false),
   fun k => acc.2 k || changesSlot w k)

/-- Whether a queue entry holds a scalar access back, and the slots changed after it: a clause that cannot be read may access any
byte. -/
def entryHolds (s : State) (rs : List Run) (acc : Bool × (Nat → Bool)) (e : QEntry) : Bool × (Nat → Bool) :=
  match e.kind with
  | .clause =>
    (match (clauseHead s e).bind fun h => (wordsLeft s h).map fun ws => (h, ws) with
    | some (h, ws) => ws.foldl (wordsHold s rs h) (acc.1, fun k => acc.2 k || (!e.started && (k = 264 || k = 265)))
    | none => (true, acc.2))
  | .vput => (acc.1, fun k => acc.2 k || k = bitsOf e.target 12 5)
  | _ => acc

/-- A scalar access to some runs waits for a queued lane access: one that may touch the same bytes (R99), or an acquire (R106). -/
def scalarHeld (s : State) (rs : List Run) : Bool := (s.cur.queue.foldl (entryHolds s rs) (false, fun _ => false)).1

/-- A release of the scalar thread may be performed: every earlier access has been, at the scope (R106). -/
def releaseMay (s : State) (scope : Nat) : Bool := laneEnded s.cur && storesDone s scope

/-- An ordered scalar access may be performed: what a release waits for, and its turn in the SC order (R105, R109). -/
def orderMay (s : State) (order scope : Nat) : Bool := (!isRelease order || releaseMay s scope) && scMay s .scalar order scope 0

/-- Continue a scalar access: trap, wait or go on with what it answers. -/
def scalarAcc {α : Type} (s : State) (ea : W64) (rs : Except Nat (List Run)) (r : Acc α) (k : α → State) : State :=
  match rs with
  | .error c => scalarTrap s c ea
  | .ok l =>
    if scalarHeld s l then stall s
    else
      match r with
      | .err c => scalarTrap s c ea
      | .busy t => stall t
      | .ok a => k a

/-! ### LD, ST, LDK (R166, R167) -/

/-- The address of LD and ST (R166). -/
def scalarEa (s : State) (a : BitVec 6) (w : BitVec 2) (o : BitVec 11) : W64 := sreg s a + (sext64 o <<< w.toNat)

/-- The value of loaded bytes, zero- or sign-extended (R166). -/
def loadedValue (x : BitVec 1) (bs : List Byte) : W64 :=
  let n := 8 * bs.length
  let v := leValue bs
  if x = 1 && v.testBit (n - 1) then BitVec.ofNat 64 (v + (2 ^ 64 - 2 ^ n)) else BitVec.ofNat 64 v

/-- LD (R166). -/
def execLd (d a : BitVec 6) (w : BitVec 2) (x : BitVec 1) (o : BitVec 11) (s : State) : Out :=
  let ea := scalarEa s a w o
  let n := 2 ^ w.toNat
  if !legalAt staticFmt (.ld d a w x o) then .next (illegalScalar (.ld d a w x o) s)
  else if ea.toNat % n ≠ 0 then .next (scalarTrap s 0x0D ea)
  else .next (scalarAcc s ea (checkedRuns loadErr s 0 .load ea n) (loadAt s 0 ea n) fun r => retS r.2 d (loadedValue x r.1))

/-- ST: the sd field names the data (R166). -/
def execSt (d a : BitVec 6) (w : BitVec 2) (o : BitVec 11) (s : State) : Out :=
  let ea := scalarEa s a w o
  let n := 2 ^ w.toNat
  if ea.toNat % n ≠ 0 then .next (scalarTrap s 0x0D ea)
  else
    .next (scalarAcc s ea (checkedRuns storeErr s 0 .store ea n) (storeAt s 0 ea (leBytes (sreg s d).toNat n)) advance)

/-- LDK: the literal comes through the scalar fetch path (R167), as two code words: after a store without ISYNC each half may be old or
new by itself, as R116 says of code words; R101 says of an aligned 8-byte scalar access that it is one (DEDUCED, log 98). -/
def execLdk (d : BitVec 6) (imm : BitVec 20) (s : State) : Out :=
  let la := s.cur.pc + (sext64 imm <<< 2)
  if la.toNat % 8 ≠ 0 then .next (scalarTrap s 0x0D la)
  else
    match fetchWords s .scalarFetch la 2 with
    | .error e => .next (scalarTrap s (errCause .scalarFetch e) la)
    | .ok (bs, s1) => .next (retS s1 d (BitVec.ofNat 64 (leValue bs)))

/-! ### AMO and CAS (R168 to R171) -/

/-- An AMO: legality, alignment, one atomic access, the old value to sd (R168, R169). -/
def amo (i : Instr) (d a : BitVec 6) (o sc : BitVec 3) (n : Nat) (f : Nat → Nat → Nat) (s : State) : Out :=
  let ea := sreg s a
  let b := (sreg s d).toNat % 2 ^ (8 * n)
  let new (old : List Byte) : Option (List Byte) := some (leBytes (f (leValue old) b) n)
  if !legalAt staticFmt i then .next (illegalScalar i s)
  else if ea.toNat % n ≠ 0 then .next (scalarTrap s 0x0D ea)
  else if !orderMay s o.toNat sc.toNat then .next (stall s)
  else
    .next (scalarAcc s ea (checkedRuns atomErr s 0 .store ea n)
      ((atomicAt s 0 ea n new).onBusy (scAsk s .scalar o.toNat sc.toNat)) fun r =>
        retS (scTake r.2 .scalar o.toNat sc.toNat 0) d (BitVec.ofNat 64 (leValue r.1)))

/-- Bytes of an AMO (R168). -/
def amoBytes (w : BitVec 1) : Nat := if w = 1 then 8 else 4

/-- A number of n bytes read as signed. -/
def signedOf (n x : Nat) : Int := if x.testBit (8 * n - 1) then (x : Int) - 2 ^ (8 * n) else x

/-- AMO.swap (R169). -/
def execAmoSwap (d a : BitVec 6) (o sc : BitVec 3) (w : BitVec 1) (s : State) : Out :=
  amo (.amoSwap d a o sc w) d a o sc (amoBytes w) (fun _ b => b) s
/-- AMO.add: wraps in its size, by the bytes stored (R169). -/
def execAmoAdd (d a : BitVec 6) (o sc : BitVec 3) (w : BitVec 1) (s : State) : Out :=
  amo (.amoAdd d a o sc w) d a o sc (amoBytes w) (fun x b => x + b) s
/-- AMO.and (R169). -/
def execAmoAnd (d a : BitVec 6) (o sc : BitVec 3) (w : BitVec 1) (s : State) : Out :=
  amo (.amoAnd d a o sc w) d a o sc (amoBytes w) (fun x b => x &&& b) s
/-- AMO.or (R169). -/
def execAmoOr (d a : BitVec 6) (o sc : BitVec 3) (w : BitVec 1) (s : State) : Out :=
  amo (.amoOr d a o sc w) d a o sc (amoBytes w) (fun x b => x ||| b) s
/-- AMO.xor (R169). -/
def execAmoXor (d a : BitVec 6) (o sc : BitVec 3) (w : BitVec 1) (s : State) : Out :=
  amo (.amoXor d a o sc w) d a o sc (amoBytes w) (fun x b => x ^^^ b) s
/-- AMO.min, signed (R169). -/
def execAmoMin (d a : BitVec 6) (o sc : BitVec 3) (w : BitVec 1) (s : State) : Out :=
  amo (.amoMin d a o sc w) d a o sc (amoBytes w)
    (fun x b => if signedOf (amoBytes w) x ≤ signedOf (amoBytes w) b then x else b) s
/-- AMO.max, signed (R169). -/
def execAmoMax (d a : BitVec 6) (o sc : BitVec 3) (w : BitVec 1) (s : State) : Out :=
  amo (.amoMax d a o sc w) d a o sc (amoBytes w)
    (fun x b => if signedOf (amoBytes w) x ≤ signedOf (amoBytes w) b then b else x) s
/-- AMO.minn, unsigned (R169). -/
def execAmoMinn (d a : BitVec 6) (o sc : BitVec 3) (w : BitVec 1) (s : State) : Out :=
  amo (.amoMinn d a o sc w) d a o sc (amoBytes w) (fun x b => min x b) s
/-- AMO.maxn, unsigned (R169). -/
def execAmoMaxn (d a : BitVec 6) (o sc : BitVec 3) (w : BitVec 1) (s : State) : Out :=
  amo (.amoMaxn d a o sc w) d a o sc (amoBytes w) (fun x b => max x b) s
/-- AMO.fadd: FP32, 4 bytes (R169). -/
def execAmoFadd (d a : BitVec 6) (o sc : BitVec 3) (s : State) : Out :=
  amo (.amoFadd d a o sc) d a o sc 4 f32Sum s

/-- CAS: a failing comparison writes nothing, and its release orders nothing (R170). -/
def execCas (d a b : BitVec 6) (o sc : BitVec 3) (w : BitVec 1) (s : State) : Out :=
  let ea := sreg s a
  let n := amoBytes w
  let i : Instr := .cas d a b o sc w
  let new (old : List Byte) : Option (List Byte) :=
    if leValue old = (sreg s d).toNat % 2 ^ (8 * n) then some (leBytes (sreg s b).toNat n) else none
  if !legalAt staticFmt i then .next (illegalScalar i s)
  else if ea.toNat % n ≠ 0 then .next (scalarTrap s 0x0D ea)
  else if !orderMay s o.toNat sc.toNat then .next (stall s)
  else
    .next (scalarAcc s ea (checkedRuns atomErr s 0 .store ea n)
      ((atomicAt s 0 ea n new).onBusy (scAsk s .scalar o.toNat sc.toNat)) fun r =>
        retS (scTake r.2 .scalar o.toNat sc.toNat 0) d (BitVec.ofNat 64 (leValue r.1)))

/-! ### Queue locks (R187) -/

/-- Wait for a ticket: the lock is watched until it serves the ticket (R187). The manual names no cause for a watch that fails: it traps as
a load does, and the ticket is kept for the retry (DEDUCED, log 108). -/
def lockWait (t : W32) (ea : W64) (s : State) : State :=
  let waits (s : State) : State := { s with cur := { s.cur with wait := .lock t ea } }
  match loadAt s 0 ea 8 with
  | .err c => takeTrap (waits s) false 0 c ea s.cur.pc
  | .busy u => stall (waits u)
  | .ok r =>
    if leValue r.1 / 2 ^ 32 = t.toNat then modCur (advance r.2) fun g => { g with wait := .none } else waits s

/-- QLOCK: take a ticket once, write it to sd, then wait for it (R187). -/
def execQlock (d a : BitVec 6) (s : State) : Out :=
  match s.cur.wait with
  | .lock t ea => .next (lockWait t ea s)
  | _ =>
    let ea := sreg s a
    let new (old : List Byte) : Option (List Byte) := some (leBytes (leValue (old.take 4) + 1) 4 ++ old.drop 4)
    if ea.toNat % 8 ≠ 0 then .next (scalarTrap s 0x0D ea)
    else
      .next (scalarAcc s ea (checkedRuns atomErr s 0 .store ea 8) (atomicAt s 0 ea 8 new) fun r =>
        let t : W32 := BitVec.ofNat 32 (leValue (r.1.take 4))
        lockWait t ea (modCur r.2 fun g => sset g d (zext64 t)))

/-- QUNLOCK: a release at device scope, then the served count rises (R187). -/
def execQunlock (a : BitVec 6) (s : State) : Out :=
  let ea := sreg s a
  let new (old : List Byte) : Option (List Byte) := some (old.take 4 ++ leBytes (leValue (old.drop 4) + 1) 4)
  if ea.toNat % 8 ≠ 0 then .next (scalarTrap s 0x0D ea)
  else if !releaseMay s 4 then .next (stall s)
  else .next (scalarAcc s ea (checkedRuns atomErr s 0 .store ea 8) (atomicAt s 0 ea 8 new) fun r => advance r.2)

end Sys2Proof.Machine
end

