-- ==== Sys2Proof/Machine/System.lean ====
section
/-!
DEFINITION. System.lean: broadcast subscriptions, remote windows, queue pushes, traps and matrix state in handlers, TLB
instructions (R279 to R282, R290 to R297).
-/
namespace Sys2Proof.Machine

/-! ### Subscriptions (R279 to R282) -/

/-- A field of a block read little-endian. -/
def blockField (bs : List Byte) (hi lo : Nat) : Nat := natBits (leValue bs) hi lo

/-- The block of BSUB is malformed (R279). -/
def subMalformed (bs : List Byte) : Bool :=
  let wbase := blockField bs 63 0
  let lines := blockField bs 95 64
  blockField bs 255 224 ≠ 0 || lines = 0 || lines > 6144 || wbase ≥ 2 ^ 44 || wbase % 128 ≠ 0
    || blockField bs 127 96 % 128 ≠ 0

/-- The lowest free subscription of the core (R279). -/
def freeSub (s : State) : Option Nat :=
  let used := ((allCrews s).filter fun c => c.cluster = s.cur.cluster && c.core = s.cur.core).flatMap fun c => c.subs.map (·.num)
  (List.range 16).find? fun i => !used.contains i

/-- Install the subscription of a block (R279, R280). -/
def installSub (s : State) (d : BitVec 6) (t : Nat) (addr : W64) (bs : List Byte) : State :=
  if subMalformed bs then scalarTrap s 0x01 addr
  else if s.crew.splen < blockField bs 127 96 + 128 * blockField bs 95 64 then scalarTrap s 0x09 addr
  else
    match freeSub s with
    | none => retS s d (-1)
    | some n =>
      let x : Sub := { num := n, wbase := blockField bs 63 0, lines := blockField bs 95 64,
                       writers := BitVec.ofNat 96 (blockField bs 223 128), spoff := blockField bs 127 96, bar := t,
                       frame := frameOf s, since := frameOf s, missed := 0 }
      retS (modCrew s fun c => { c with subs := c.subs ++ [x] }) d (BitVec.ofNat 64 n)

/-- BSUB (R279). -/
def execBsub (d a t : BitVec 6) (s : State) : Out :=
  let addr := sreg s a
  if badBar s.crew t.toNat then .next (scalarTrap s 0x01 (zext64 t))
  else if addr.toNat % 32 ≠ 0 then .next (scalarTrap s 0x0D addr)
  else
    .next (scalarAcc s addr (checkedRuns loadErr s 0 .load addr 32) (loadAt s 0 addr 32) fun r =>
      installSub r.2 d t.toNat addr r.1)

/-- BUNSUB. A slot stamped in or before the frame of removal and not yet applied is not delivered: the rule speaks only of later ones (R281;
DESIGN CHOICE, log 121). -/
def execBunsub (d a : BitVec 6) (s : State) : Out :=
  let x := sreg s a
  if bitsOf x 63 4 ≠ 0 then .next (scalarTrap s 0x01 x)
  else
    match s.crew.subs.find? fun u => u.num = bitsOf x 3 0 with
    | none => .next (scalarTrap s 0x01 x)
    | some u =>
      .next (retS (modCrew s fun c => { c with subs := c.subs.filter fun v => v.num ≠ u.num }) d (BitVec.ofNat 64 u.missed))

/-- BSYNC (R282). -/
def execBsync (d : BitVec 6) (s : State) : Out :=
  if !laneEnded s.cur || !(s.cur.bslots.all (·.done)) then .next (stall s)
  else
    let n := s.cur.bslots.foldl (fun acc b => acc + b.resent) 0
    let s1 := modCur s fun g => { g with bslots := [], bfenced := false }
    .next (retS s1 d (BitVec.ofNat 64 (n % 2 ^ 63 + if s.cur.bfenced then 2 ^ 63 else 0)))

/-! ### Remote windows (R290, R291) -/

/-- A length of PUT and GET outside 1 to 2^32 (R290). -/
def badRemoteLen (n : W64) : Bool := n = 0 || n.toNat > 2 ^ 32

/-- PUT (R290). -/
def execPut (d a b t : BitVec 6) (s : State) : Out :=
  let n := sreg s b
  if badRemoteLen n then .next (scalarTrap s 0x01 n)
  else if badTarget s.crew false t.toNat then .next (scalarTrap s 0x01 (zext64 t))
  else if !engineReady s (some t.toNat) then .next (stall s)
  else
    let o := newOp s (.put (sreg s d) (sreg s a) n.toNat) (.tag t.toNat)
    .next (advance (wakePeer (issueOp s o) (bitsOf (sreg s d) 63 48)))

/-- GET (R290). -/
def execGet (d a b t : BitVec 6) (s : State) : Out :=
  let n := sreg s b
  if badRemoteLen n then .next (scalarTrap s 0x01 n)
  else if badTarget s.crew false t.toNat then .next (scalarTrap s 0x01 (zext64 t))
  else if !engineReady s (some t.toNat) then .next (stall s)
  else
    let own := ownedBy s (groupActor s.cur) [{ src := 0, dst := sreg s d, len := n.toNat }]
    if claimBlocked s s.cur.cluster own then .next (stall s)
    else
      let o (s : State) : EngOp := newOp s (.get (sreg s d) (sreg s a) n.toNat) (.tag t.toNat)
      .next (advance (wakePeer (claimOp s s.cur.cluster own o) (bitsOf (sreg s a) 63 48)))

/-- The counter a WINWAIT or WINCNT names: arrived, or sent-complete; none where it is not registered (R291). -/
def winCounter (s : State) (ref : W64) (k : Nat) : Option W64 :=
  if k = 0 then (windowEntry s (bitsOf ref 47 32)).map fun pa => BitVec.ofNat 64 (physNat s (pa + 24) 8)
  else (sentEntry s (bitsOf ref 63 48) (bitsOf ref 47 32)).map fun pa => BitVec.ofNat 64 (physNat s (pa + 8) 8)

/-- WINWAIT (R291). -/
def execWinwait (a b k : BitVec 6) (s : State) : Out :=
  if !legalAt staticFmt (.winwait a b k) then .next (illegalScalar (.winwait a b k) s)
  else
    match winCounter s (sreg s a) k.toNat with
    | none => .next (scalarTrap s 0x14 9)
    | some c => if (c - sreg s b).toNat < 2 ^ 63 then .next (advance s) else .next (stall s)

/-- WINCNT (R291). -/
def execWincnt (d a k : BitVec 6) (s : State) : Out :=
  if !legalAt staticFmt (.wincnt d a k) then .next (illegalScalar (.wincnt d a k) s)
  else
    match winCounter s (sreg s a) k.toNat with
    | none => .next (scalarTrap s 0x14 9)
    | some c => .next (retS s d c)

/-! ### QPUSH (R292) -/

/-- A group trap whose instruction's wait is over. -/
def waitTrap (s : State) (cause : Nat) (tval : W64) : State := takeTrap s false 0 cause tval s.cur.pc

/-- The slot at a physical address that nothing backs, that lies in an off domain or whose home is dead faults as a store would
(DEDUCED, log 34). -/
def slotFault (s : State) (slot : Nat) : Option Nat :=
  match placeOf slot 64 with
  | some (.stacked st d) => if !domainOn s st d then some 0x0B else if homeDead s slot then some 0x0C else none
  | some .far => if homeDead s slot then some 0x0C else none
  | some .host | some (.scratch _ _ _) => none
  | _ => some 0x09

/-- Bytes o to o + n - 1 of a slot as a run of a store. -/
def slotRun (slot o n : Nat) : List Run :=
  match placeOf slot 64 with
  | some p => [{ pa := slot + o, len := n, place := p, leaf := none }]
  | none => []

/-- Write a packet to its slot, the sequence last (R292, R299). -/
def putPacket (s : State) (slot : Nat) (pkt : List Byte) (w : W64) : State :=
  writePlaces (writePlaces s (slotRun slot 8 56) (pkt.drop 8)) (slotRun slot 0 8) (leBytes w.toNat 8)

/-- QPUSH goes on waiting with the index it has claimed. -/
def pushStays (w : W64) (pkt : List Byte) (s : State) : State := stall (modCur s fun g => { g with wait := .push w pkt })

/-- A slot with room is filled, once the stores to it may be performed. -/
def pushFill (d : BitVec 6) (w : W64) (pkt : List Byte) (slot : Nat) (s : State) : State :=
  match slotFault s slot with
  | some c => waitTrap s c (BitVec.ofNat 64 slot)
  | none =>
    if runsBusy s true (slotRun slot 0 64) then pushStays w pkt (askRuns s true (slotRun slot 0 64))
    else modCur (retS (putPacket s slot pkt w) d w) fun g => { g with wait := .none }

/-- Wait for room, then fill the slot (R292). -/
def pushWait (d a : BitVec 6) (w : W64) (pkt : List Byte) (s : State) : State :=
  match checkedRuns loadErr s 0 .load (sreg s a) 256 with
  | .error c => waitTrap s c (sreg s a)
  | .ok rs =>
    if runsBusy s false rs then pushStays w pkt (askRuns s false rs)
    else
      let h := readHdr s ((rs.head?.map (·.pa)).getD 0)
      let t := (loadRuns s (sreg s a) rs).2
      if (w - h.rdidx).toNat < h.cap then pushFill d w pkt (h.base + 64 * (w.toNat % h.cap)) t
      else pushStays w pkt t

/-- Claim an index, then wait for room (R292). -/
def pushClaim (d a b : BitVec 6) (s : State) : State :=
  let ha := sreg s a
  scalarAcc s (sreg s b) (checkedRuns loadErr s 0 .load (sreg s b) 64) (loadAt s 0 (sreg s b) 64) fun p =>
    scalarAcc s ha (checkedRuns atomErr s 0 .store ha 8)
      (atomicAt p.2 0 ha 8 fun old => some (leBytes (leValue old + 1) 8)) fun r =>
        let w := BitVec.ofNat 64 (leValue r.1)
        pushWait d a w p.1 (modCur r.2 fun g => { g with wait := .push w p.1 })

/-- The queue lies in host memory: its header or its slots do (R292, R298). -/
def queueInHost (s : State) (a : W64) : Bool :=
  match spaceRuns s 0 .store a 256 with
  | .ok [r] => r.place = .host || natBits (readHdr s r.pa).base 51 50 = 2
  | _ => false

/-- QPUSH (R292). Both addresses are checked for alignment before either is accessed (R138). -/
def execQpush (d a b : BitVec 6) (s : State) : Out :=
  match s.cur.wait with
  | .push w pkt => .next (pushWait d a w pkt s)
  | _ =>
    if (sreg s b).toNat % 64 ≠ 0 then .next (scalarTrap s 0x0D (sreg s b))
    else if (sreg s a).toNat % 256 ≠ 0 then .next (scalarTrap s 0x0D (sreg s a))
    else if !releaseMay s (if queueInHost s (sreg s a) then 5 else 4) then .next (stall s)
    else .next (pushClaim d a b s)

/-! ### Traps (R293, R294, R327, R330) -/

/-- TRAP: `tpc` is the next instruction (R293). -/
def execTrap (a t : BitVec 6) (s : State) : Out :=
  .next (takeTrap s false 0 0x18 ((sreg s a <<< 6) ||| zext64 t) (s.cur.pc + 4))

/-- TRET (R294, R330). -/
def execTret (s : State) : Out :=
  if !s.cur.handler then .next (illegalScalar .tret s)
  else if s.cur.msaved then .next (scalarTrap s 0x13 1)
  else if !laneComplete s.cur then .next (stall s)
  else .next (returnTrap s)

/-! ### MSAVE and MREST (R295, R328) -/

/-- The bytes of a tile, element by element (R320). -/
def tileBytes (t : Tile) : List Byte := (List.range 4096).flatMap fun i => leBytes (tileElem t i).toNat 4

/-- MERR: bit i for batch MCTR - 1 - i (R328). -/
def merrWord (g : Group) : Nat :=
  (List.range 64).foldl (fun acc i => if g.merr.contains (g.bctr - 1 - BitVec.ofNat 16 i) then acc + 2 ^ i else acc) 0

/-- The batch fields of the save area, from 0x300; the last byte is 1 after MSAVE (R328). -/
def batchBytes (saved : Bool) (g : Group) : List Byte :=
  leBytes g.bctr.toNat 2 ++ leBytes g.mbdone.toNat 2 ++ leBytes 0 4 ++ leBytes (merrWord g) 8 ++ [if saved then 1 else 0]

/-- MSAVE's stores; a page that fails is named by its own address (R86, R295). -/
def matrixSave (s : State) : State :=
  let g := s.cur
  let a1 := g.tsave + 0x300
  let a2 := g.tsave + 0x1000
  if g.tsave.toNat % 4096 ≠ 0 then scalarTrap s 0x0D g.tsave
  else
    match checkPages storeErr s (accActor s a1) .store a1 0x11,
      checkPages storeErr s (accActor s a2) .store a2 (g.tiles.length * 0x4000) with
    | .error c, _ => scalarTrap s c.1 c.2
    | _, .error c => scalarTrap s c.1 c.2
    | .ok r1, .ok r2 =>
      if runsBusy s true (r1 ++ r2) then stall (askRuns s true (r1 ++ r2))
      else
        let tiles := (List.range g.tiles.length).flatMap fun t => tileBytes (tileAt s (physTile g t))
        modCur (advance (storeRuns (storeRuns s a2 r2 tiles) a1 r1 (batchBytes true g))) fun g => { g with msaved := true }

/-- MSAVE (R295). -/
def execMsave (s : State) : Out :=
  if !s.cur.handler || s.cur.msaved then .next (illegalScalar .msave s)
  else if !laneComplete s.cur || !batchesDone s.cur || !storesDone s 4 then .next (stall s)
  else .next (matrixSave s)

/-- The tile with the elements of 16 KiB (R320). -/
def tileOf (id : Nat) (bs : List Byte) : Tile :=
  { id := id, zeroed := true, nonce := 0,
    elems := (List.range 4096).map fun i => (i, BitVec.ofNat 32 (areaNat bs (4 * i) 4)) }

/-- The batch state of a save area (R295, R328). -/
def restoreBatch (bs : List Byte) (g : Group) : Group :=
  let n : BitVec 16 := BitVec.ofNat 16 (areaNat bs 0 2)
  { g with
    bctr := n, mbdone := BitVec.ofNat 16 (areaNat bs 2 2), openOps := [], msaved := false
    merr := ((List.range 64).filter fun i => (areaNat bs 8 8).testBit i).map fun i => n - 1 - BitVec.ofNat 16 i }

/-- MREST's loads (R295). -/
def matrixRestore (s : State) : State :=
  let g := s.cur
  let a1 := g.tsave + 0x300
  let a2 := g.tsave + 0x1000
  if g.tsave.toNat % 4096 ≠ 0 then scalarTrap s 0x0D g.tsave
  else
    match checkPages loadErr s (accActor s a1) .load a1 0x11,
      checkPages loadErr s (accActor s a2) .load a2 (g.tiles.length * 0x4000) with
    | .error c, _ => scalarTrap s c.1 c.2
    | _, .error c => scalarTrap s c.1 c.2
    | .ok r1, .ok r2 =>
      if runsBusy s false (r1 ++ r2) then stall (askRuns s false (r1 ++ r2))
      else
        let b1 := loadRuns s a1 r1
        let b2 := loadRuns b1.2 a2 r2
        let s1 := (List.range g.tiles.length).foldl (fun s t =>
          tilePut s (tileOf (physTile g t) ((b2.1.drop (0x4000 * t)).take 0x4000))) b2.2
        modCur (advance s1) (restoreBatch b1.1)

/-- MREST (R295). -/
def execMrest (s : State) : Out :=
  if !s.cur.handler || !s.cur.msaved then .next (illegalScalar .mrest s)
  else if !laneComplete s.cur || !s.cur.outs.isEmpty || !s.cur.batches.isEmpty then .next (stall s)
  else .next (matrixRestore s)

/-! ### Translation (R90, R91, R296, R297) -/

/-- Writers a configuration record names: clusters present, and the stacks (R346, R419). -/
def presentWriters (s : State) : List Nat :=
  (List.range 80).filter fun w => (w ≥ 64 || (mgmtRaw s 0x10).getLsbD w) && !(s.dead.any fun d => d = (w, 0))

/-- Writer w sends an invalidation as one message on plane 0 (R90, R337). -/
def postInval (s : State) (w : Nat) (grp : GKey) (asid : Option (BitVec 16)) (lo len : Nat) : State :=
  let id := s.nextId
  let s1 := queueSlot { s with nextId := id + 1 } 0 w (.tlbinv id)
  { s1 with invals := s1.invals ++
      [{ id := id, grp := grp, asid := asid, lo := lo, len := len, waiting := presentWriters s, frame := 0, writer := w }] }

/-- The group in focus sends an invalidation. -/
def sendInval (s : State) (asid : Option (BitVec 16)) (lo len : Nat) : State :=
  modCur (postInval s s.cur.cluster s.cur.key asid lo len) fun g => { g with invs := g.invs ++ [s.nextId] }

/-- TLBINV: page numbers taken outward, of address bits 47:0 (R296). -/
def execTlbinv (d a b : BitVec 6) (s : State) : Out :=
  let base := bitsOf (sreg s a) 47 0
  let n := (sreg s b).toNat
  if bitsOf (sreg s d) 63 16 ≠ 0 then .next (scalarTrap s 0x01 (sreg s d))
  else if !s.cur.priv then .next (scalarTrap s 0x17 0)
  else if !laneEnded s.cur || !storesDone s 4 then .next (stall s)
  else if n = 0 then .next (advance s)
  else
    .next (advance (sendInval s (some ((sreg s d).setWidth 16)) (base / 4096) ((base % 4096 + n + 4095) / 4096)))

/-- TLBINV.ALL (R296). -/
def execTlbinvAll (s : State) : Out :=
  if !s.cur.priv then .next (scalarTrap s 0x17 0)
  else if !laneEnded s.cur || !storesDone s 4 then .next (stall s)
  else .next (advance (sendInval s none 0 (2 ^ 36)))

/-- TLBSYNC: every invalidation of the group has been acknowledged by every writer (R91, R297, R346). -/
def execTlbsync (s : State) : Out :=
  if !s.cur.priv then .next (scalarTrap s 0x17 0)
  else if s.invals.any fun i => s.cur.invs.contains i.id && !i.waiting.isEmpty then .next (stall s)
  else .next (modCur (advance s) fun g => { g with invs := [] })

end Sys2Proof.Machine
end

