-- ==== Sys2Proof/Machine/Named.lean ====
section
/-!
DEFINITION. Named.lean: named tiles: declarations, publications, interests and their records, routers' tables and tile
stores (R283 to R287, R354 to R374).
-/
namespace Sys2Proof.Machine

/-! ### Pennants and declarations (R354, R355) -/

/-- TNUM of a pennant. -/
def pnTensor (pn : W64) : Nat := bitsOf pn 63 40
/-- The tile index of a pennant. -/
def pnTile (pn : W64) : Nat := bitsOf pn 39 12
/-- The iteration of a pennant. -/
def pnIter (pn : W64) : Nat := bitsOf pn 11 0

/-- The declaration the device holds of a tensor. -/
def declOf (s : State) (t : Nat) : Option Decl := s.decls.find? fun d => d.tnum = t

/-- Tile bytes (R355). -/
def declBytes (b : List Byte) : Nat := (blockField b 104 96 + 1) * 128
/-- LIFE in ticks (R355). -/
def declLife (b : List Byte) : Nat := blockField b 95 64 * 1000
/-- LASTIT (R355). -/
def declLast (b : List Byte) : Nat := blockField b 139 128
/-- NPROD (R355). -/
def declProd (b : List Byte) : Nat := blockField b 159 144
/-- HOME (R355). -/
def declHome (b : List Byte) : Nat := blockField b 175 160

/-- DEVNO (R399). -/
def devNo (s : State) : Nat := mgmtField s 0xF700 15 0

/-- A HOME value names this device (R355). -/
def homeHere (s : State) (h : Nat) : Bool := h = 0xFFFF || h = devNo s

/-- HOME of a pennant's tensor; this device where the tensor is not declared. -/
def pnHome (s : State) (pn : W64) : Nat :=
  match declOf s (pnTensor pn) with
  | some d => declHome d.block
  | none => 0xFFFF

/-- A block is refused whatever the device holds (R356). -/
def declMalformed (b : List Byte) : Bool :=
  blockField b 511 176 ≠ 0 || blockField b 143 140 ≠ 0 || blockField b 127 118 ≠ 0 || blockField b 111 105 ≠ 0
    || blockField b 39 0 ≠ 0 || blockField b 63 40 = 0 || blockField b 95 64 = 0
    || (tyOfCode (BitVec.ofNat 6 (blockField b 117 112))).isNone

/-! ### Routers and paths (R80, R358, R359) -/

/-- The router that serves a cluster (R80). -/
def clusterRouter (c : Nat) : Nat := 20 * (c / 16) + c % 16

/-- The writer index of the unit a router serves: a cluster, or 64 + a stack (R80, R335). -/
def routerWriter (r : Nat) : Nat := if r % 20 < 16 then 16 * (r / 20) + r % 20 else 64 + 4 * (r / 20) + (r % 20 - 16)

/-- The enabled list (R358). -/
def enabledRouters : List Nat := (List.range 80).filter Config.routerEnabled

/-- The rendezvous router of a pennant (R358). -/
def rdvRouter (pn : W64) : Nat :=
  nth enabledRouters ((pnTile pn + 131 * pnTensor pn) % 2 ^ 32 % max 1 enabledRouters.length) 0

/-- The quadrant of a router (R2). -/
def quadOf (r : Nat) : Nat := r / 20

/-- The router of quadrant q that holds its long link to quadrant q' (R2, log 21). -/
def longRouter (q q' : Nat) : Nat := 20 * q + Config.longEnd q q' % 20

/-- A link of the dragonfly: any two routers of a quadrant, and one long link per pair of quadrants (R2). -/
def linked (a b : Nat) : Bool :=
  a ≠ b && (quadOf a = quadOf b
    || (a = longRouter (quadOf a) (quadOf b) && b = longRouter (quadOf b) (quadOf a)))

/-- Each router of a list is linked to the next. -/
def linkedAll : List Nat → Bool
  | a :: b :: r => linked a b && linkedAll (b :: r)
  | _ => true

/-- The shortest way between two routers, both included: over the long link between their quadrants (R2). -/
def shortWay (a b : Nat) : List Nat :=
  if quadOf a = quadOf b then [a, b].eraseDups
  else [a, longRouter (quadOf a) (quadOf b), longRouter (quadOf b) (quadOf a), b].eraseDups

/-- The way over a third quadrant (R2). -/
def longWay (a b q : Nat) : List Nat :=
  [a, longRouter (quadOf a) q, longRouter q (quadOf a), longRouter q (quadOf b), longRouter (quadOf b) q, b].eraseDups

/-- A router's unit is a stack that has been fenced: its links are disabled, and what meets at it is served no longer; a cluster's router
outlives its cluster (R350, R373, R419). -/
def routerDead (s : State) (r : Nat) : Bool := 64 ≤ routerWriter r && s.dead.any fun d => d = (routerWriter r, 0)

/-- The network can take a way: along links, through no router twice and between its ends through none whose unit is fenced
(R2, R350). -/
def wayOpen (s : State) (way : List Nat) : Bool :=
  linkedAll way && way.eraseDups = way && way.all (fun r => decide (r < 80)) && !(way.drop 1).dropLast.any (routerDead s)

/-- The hops from one router to another, the last included: the way the network chooses among those open, else the shortest open one
(R2, R359, log 21). -/
def hopsTo (s : State) (a b : Nat) : List Nat :=
  if a = b then []
  else
    let ways := (a :: (Config.route a b ++ [b])) :: shortWay a b :: (List.range 4).map (longWay a b)
    ((ways.find? (wayOpen s)).getD (shortWay a b)).drop 1

/-- The router a core port joins (R359, log 21). -/
def portRouter (p : Nat) : Nat := Config.portRouter p % 80

/-- A core port that leads to a device and can carry traffic: up or training, or down in L3 and woken by it; an open light path carries
none (R402, R408, R412, R415). -/
def portTo (s : State) (d : Nat) : Option Nat :=
  match peerPort s d with
  | none => none
  | some p =>
    let l := mgmtField s (portOff p 0) 63 62
    if l ≤ 1 || (l = 2 && laserOf s p = 3 && mgmtField s (portOff p 0) 57 57 = 1) then some p else none

/-- The path of a request for a pennant from a router: to the rendezvous router where HOME is this device, or to the port towards HOME,
named 144 + p as a site beyond the routers; none where no port leads there (R359, R402). -/
def pnPath (s : State) (r : Nat) (pn : W64) (home : Nat) : Option (List Nat) :=
  if homeHere s home then some (hopsTo s r (rdvRouter pn))
  else (portTo s home).map fun p => hopsTo s r (portRouter p) ++ [144 + p]

/-- HOME as a message names it: 0xFFFF for this device. -/
def destOf (s : State) (home : Nat) : Nat := if homeHere s home then 0xFFFF else home

/-! ### Messages -/

/-- A message is on its way. -/
def sendNet (s : State) (m : NetMsg) : State := { s with net := s.net ++ [m] }

/-- Where a message sent to a face of a router arrives, and the face it then comes from. -/
def faceSite (r : Nat) : Face → Nat
  | .loc => 80 + routerWriter r
  | .router x => x
  | .port p => 144 + p

/-- A message that carries only what its kind needs. -/
def plainMsg (k : NetKind) (site : Nat) (frm : Face) (pn : W64) : NetMsg :=
  { kind := k, site := site, frm := frm, pennant := pn, mask := 0, expiry := 0, path := [], bytes := [],
    dev := 0xFFFF, crew := noGroupKey, op := 0, dest := 0xFFFF, hops := 0 }

/-- A message that started on another device goes on from the router of the core port it came by; the site its answer goes to stands in
`path` (R359). -/
def onward (m : NetMsg) (site : Nat) : NetMsg :=
  { m with site := site, frm := .router m.site,
           path := (match m.frm with
             | .port p => [144 + p]
             | _ => m.path) }

/-- Send an answer to each of some faces of a router. -/
def answerFaces (k : NetKind) (r : Nat) (pn : W64) (bytes : List Byte) (fs : List Face) (s : State) : State :=
  fs.foldl (fun s f => sendNet s { plainMsg k (faceSite r f) (.router r) pn with bytes := bytes }) s

/-- An arrival is due: the message is on its way, or it comes over a core port from another device. -/
def arrives (s : State) (m : NetMsg) : Bool :=
  s.net.contains m || (match m.frm with
    | .port p => decide (p < 16) && mgmtField s (portOff p 0) 63 62 = 0 && m.site = portRouter p && m.dev ≠ 0xFFFF
    | _ => false)

/-- A message that came by a port and is for another device goes on by this device's own table; one that would pass an eighth link, or finds
no valid entry, ends with 0x08 at its origin (R402). -/
def transit (s : State) (p : Nat) (m : NetMsg) : State :=
  match (if 7 ≤ m.hops then none else portTo s m.dest) with
  | some q => sendNet (wakePeer s m.dest) { m with site := 144 + q, frm := .router (portRouter q), hops := m.hops + 1 }
  | none =>
    let back (k : NetKind) : State :=
      sendNet s { plainMsg k (144 + p) (.router m.site) m.pennant with bytes := [0x08], dev := m.dev, op := m.op, dest := m.dev, hops := 1 }
    match m.kind with
    | .publication => back .stored
    | .declare => back .declared
    | _ => s

/-- A message for another device that came by a port. -/
def inTransit (s : State) (m : NetMsg) : Option Nat :=
  match m.frm with
  | .port p => if homeHere s m.dest then none else some p
  | _ => none

/-- The message has arrived. -/
def takeMsg (s : State) (m : NetMsg) : State := { s with net := s.net.erase m }

/-! ### Router tables (R361, R365, R374) -/

/-- Change a router's tables. -/
def onRouter (s : State) (r : Nat) (f : Router → Router) : State :=
  { s with routers := (r, f (routerAt s r)) :: s.routers.filter fun p => p.1 ≠ r }

/-- Add n to a counter of a router (R374). -/
def routerCount (s : State) (r f lo n : Nat) : State :=
  mgmtPut s (routerOff r f) (lo + 31) lo ((mgmtField s (routerOff r f) (lo + 31) lo + n) % 2 ^ 32)

/-- The entry of a pennant; tombstones apart. -/
def pitFind (r : Router) (pn : W64) : Option PitEntry := r.pit.find? fun e => e.pennant = pn && !e.tomb
/-- A tombstone is held. -/
def hasTomb (r : Router) (pn : W64) : Bool := r.pit.any fun e => e.pennant = pn && e.tomb
/-- The tile is stored. -/
def storedAt (r : Router) (pn : W64) : Option Stored := r.store.find? fun t => t.pennant = pn

/-- Free the entry of a pennant. -/
def pitFree (pn : W64) (r : Router) : Router := { r with pit := r.pit.filter fun e => e.pennant ≠ pn || e.tomb }

/-- Change the entry of a pennant. -/
def pitChange (pn : W64) (f : PitEntry → PitEntry) (r : Router) : Router :=
  { r with pit := replaceFirst (fun e => e.pennant = pn && !e.tomb) f r.pit }

/-- Messages that waited at a router are tried again. -/
def retryWaiting (s : State) (r : Nat) (p : NetMsg → Bool) : State :=
  let w := (routerAt s r).waiting
  onRouter { s with net := s.net ++ w.filter p } r fun x => { x with waiting := w.filter fun m => !p m }

/-- Units in the backing area (R365, R427). -/
def backingUnits (s : State) : Nat := mgmtField s 0x408 31 0 * 8192

/-- Units of spilled tiles, all routers. -/
def spilledUnits (s : State) : Nat :=
  s.routers.foldl (fun acc p => acc + (p.2.store.filter (·.spilled)).foldl (fun a t => a + t.bytes.length / 128) 0) 0

/-- Spill the oldest tiles until n units fit; none where the backing area has no room (R365). -/
def makeRoom (s : State) (r n : Nat) : Nat → Option State
  | 0 => none
  | fuel + 1 =>
    let x := routerAt s r
    if storeUse x + n ≤ 32768 then some s
    else
      match x.store.find? fun t => !t.spilled with
      | none => none
      | some t =>
        if spilledUnits s + t.bytes.length / 128 ≤ backingUnits s then
          makeRoom (routerCount (onRouter s r fun x =>
            { x with store := replaceFirst (fun u => u.pennant = t.pennant) (fun u => { u with spilled := true }) x.store })
            r 3 32 1) r n fuel
        else none

/-! ### NDECL (R283, R356) -/

/-- The declaration under way ends its wait: the handle, or the engine-error trap (R283). -/
def declDone (d : BitVec 6) (id : Nat) (s : State) : State :=
  match s.declOps.find? fun o => o.id = id with
  | none => stall s
  | some o =>
    match o.result with
    | none => stall s
    | some st =>
      let done := fun s : State => modCur { s with declOps := s.declOps.filter fun x => x.id ≠ id } fun g => { g with wait := .none }
      if st = 0 then retS (done s) d (BitVec.ofNat 64 (blockField o.block 63 40) <<< 40)
      else trapAfter done s false fun t => waitTrap t 0x14 (zext64 st)

/-- NDECL (R283). -/
def execNdecl (d a : BitVec 6) (s : State) : Out :=
  match s.cur.wait with
  | .decl id => .next (declDone d id s)
  | _ =>
    let addr := sreg s a
    if addr.toNat % 64 ≠ 0 then .next (scalarTrap s 0x0D addr)
    else
      .next (scalarAcc s addr (checkedRuns loadErr s 0 .load addr 64) (loadAt s 0 addr 64) fun r =>
        let o : DeclOp := { id := r.2.nextId, cluster := r.2.cur.cluster, block := r.1, asked := false, port := none, result := none }
        let m : NetMsg := { plainMsg .declare (clusterRouter o.cluster) .loc 0 with bytes := r.1, op := o.id }
        modCur (sendNet { r.2 with declOps := r.2.declOps ++ [o], nextId := r.2.nextId + 1 } m) fun g => { g with wait := .decl o.id })

/-- The tensor a block declares. -/
def blockTensor (b : List Byte) : Nat := blockField b 63 40

/-- Declarations that wait for the answer of their HOME. -/
def declsAsked (s : State) : List DeclOp := s.declOps.filter fun o => o.asked && o.result.isNone

/-- The status this device gives a declaration where its routers hold n: it refuses a malformed block, one that differs from what it holds,
and one more than 1,024 (R356). -/
def declStatus (s : State) (n : Nat) (b : List Byte) : Byte :=
  if declMalformed b then 0x05
  else
    match declOf s (blockTensor b) with
    | some d => if d.block = b then 0 else 0x05
    | none => if n ≥ 1024 then 0x05 else 0

/-- The device records a declaration at every enabled router, unless it holds it (R356, R374). -/
def recordDecl (b : List Byte) (s : State) : State :=
  if (declOf s (blockTensor b)).isSome then s
  else { s with decls := s.decls ++ [{ tnum := blockTensor b, block := b, producers := [] }] }

/-- Change an NDECL under way. -/
def onDecl (id : Nat) (f : DeclOp → DeclOp) (s : State) : State :=
  { s with declOps := replaceFirst (fun x => x.id = id) f s.declOps }

/-- An NDECL is settled: recorded, or refused and counted at its cluster's router (R356, R374). -/
def settleDecl (o : DeclOp) (st : Byte) (s : State) : State :=
  let s1 := onDecl o.id (fun x => { x with asked := false, result := some st }) s
  if st = 0 then recordDecl o.block s1 else routerCount s1 (clusterRouter o.cluster) 3 0 1

/-- A declaration of the tensor waits for HOME. -/
def declPending (s : State) (b : List Byte) : Bool := (declsAsked s).any fun o => blockTensor o.block = blockTensor b

/-- The routers are full once the declarations that wait for HOME have been recorded. -/
def declsFull (s : State) : Bool := s.decls.length < 1024 && s.decls.length + (declsAsked s).length ≥ 1024

/-- This device's own declaration: settled here, or, where HOME is another device, once HOME has answered; one that finds another of its
tensor waiting for HOME, or the last places promised to such, waits in turn (R356). -/
def declareOwn (m : NetMsg) (o : DeclOp) (s : State) : State :=
  let st := declStatus s s.decls.length o.block
  if declPending s o.block || declsFull s then s
  else if st ≠ 0 || (declOf s (blockTensor o.block)).isSome || homeHere s (declHome o.block) then settleDecl o st (takeMsg s m)
  else
    match portTo s (declHome o.block) with
    | none => settleDecl o 0x08 (takeMsg s m)
    | some p =>
      sendNet (onDecl o.id (fun x => { x with asked := true, port := some p }) (wakePeer (takeMsg s m) (declHome o.block)))
        { m with site := 144 + p, frm := .router (portRouter p), dev := devNo s, dest := declHome o.block, hops := 1 }

/-- A declaration that names this device as its HOME is recorded or refused, and answered; one of this device that waits for another HOME
counts as held (R356; DEDUCED, log 112). -/
def declareHere (m : NetMsg) (p : Nat) (s : State) : State :=
  let st : Byte := if declPending s m.bytes then 0x05 else declStatus s (s.decls.length + (declsAsked s).length) m.bytes
  let s1 := if st = 0 then recordDecl m.bytes s else s
  sendNet s1 { plainMsg .declared (144 + p) (.router m.site) 0 with bytes := [st], dev := m.dev, op := m.op, dest := m.dev, hops := 1 }

/-- HOME's answer settles the declaration that asked (R356). -/
def declAnswered (id : Nat) (st : Byte) (s : State) : State :=
  match s.declOps.find? fun o => o.id = id && o.asked && o.result.isNone with
  | some o => if st = 0 || st = 5 || st = 8 then settleDecl o st s else s
  | none => s

/-- HOME of a declaration that waits for its answer can be reached no longer: it is refused with 0x08 (R356). -/
def declLost (id : Nat) (s : State) : State :=
  match s.declOps.find? fun o => o.id = id with
  | some o => if (portTo s (declHome o.block)).isNone then declAnswered id 0x08 s else s
  | none => s

/-- DECLARATION: an NDECL's declaration is recorded or refused, another device's arrives, HOME's answer does; `lost`: HOME is found to be
out of reach (R356). -/
def execDeclaration (m : NetMsg) (lost : Bool) (s : State) : Out :=
  if lost then .next (declLost m.op s)
  else if !arrives s m then .next s
  else
    match m.kind, m.frm with
    | .declare, .loc =>
      .next (match s.declOps.find? fun o => o.id = m.op && !o.asked && o.result.isNone with
        | some o => declareOwn m o s
        | none => takeMsg s m)
    | .declare, .port p => .next (if (inTransit s m).isSome then transit (takeMsg s m) p m else declareHere m p (takeMsg s m))
    | .declared, .port p =>
      .next (if (inTransit s m).isSome then transit (takeMsg s m) p m else declAnswered m.op (nth m.bytes 0 0) (takeMsg s m))
    | _, _ => .next s

/-! ### Interests (R285, R360) -/

/-- The local records of a cluster for a pennant, in record order (R360). -/
def localRecords (s : State) (c : Nat) (pn : W64) : List EngOp :=
  s.ops.filter fun o => o.cluster = c && o.stage = .sent
    && (match o.kind with
        | .nreq _ _ p => decide (p = pn)
        | _ => false)

/-- The cluster has an interest in flight. -/
def wantOf (s : State) (c : Nat) (pn : W64) : Option Want := s.wants.find? fun w => w.cluster = c && w.pennant = pn

/-- Change an interest in flight. -/
def onWant (s : State) (c : Nat) (pn : W64) (f : Want → Want) : State :=
  { s with wants := replaceFirst (fun w => w.cluster = c && w.pennant = pn) f s.wants }

/-- An interest without local records ends. -/
def dropWant (s : State) (c : Nat) (pn : W64) : State :=
  if (localRecords s c pn).isEmpty then { s with wants := s.wants.filter fun w => !(w.cluster = c && w.pennant = pn) } else s

/-- An operation ends with a status, still to be delivered (R265). -/
def endOp (s : State) (o : EngOp) (st : Byte) : State := putOp s { o with stage := .ended st }

/-- Every local record of a cluster for a pennant ends with a status, and its interest with them. -/
def endRecords (s : State) (c : Nat) (pn : W64) (st : Byte) : State :=
  dropWant ((localRecords s c pn).foldl (fun s o => endOp s o st) s) c pn

/-- The engine of a cluster sends an interest (R360); where no port leads to HOME any more, the records end with 0x08 (R402), and where the
declaration has ended, with 0x06, as every tile of it has been dropped (R357, R371; DEDUCED, log 112). -/
def sendInterest (s : State) (c : Nat) (pn : W64) : State :=
  let r := clusterRouter c
  let ex := (localRecords s c pn).foldl (fun m o => max m o.expiry) 0
  match declOf s (pnTensor pn), pnPath s r pn (pnHome s pn) with
  | none, _ => endRecords s c pn 0x06
  | some _, some path =>
    sendNet s { plainMsg .interest r .loc pn with mask := BitVec.ofNat 64 (2 ^ c), expiry := ex, path := path
                                                  dest := destOf s (pnHome s pn) }
  | some _, none => endRecords s c pn 0x08

/-- One interest per pennant (R360). -/
def wantTile (s : State) (c : Nat) (pn : W64) : State :=
  match wantOf s c pn with
  | some _ => s
  | none => sendInterest { s with wants := s.wants ++ [{ cluster := c, pennant := pn, retries := 0, resend := none }] } c pn

/-- The status an interest ends with at issue, if it does: not declared, never produced, HOME out of reach, its rendezvous router's stack
dead (R350, R357, R363, R373, R402). -/
def nreqRefused (s : State) (pn : W64) (d : Decl) : Option Byte :=
  if pnIter pn > declLast d.block then some 0x06
  else if homeHere s (declHome d.block) then (if routerDead s (rdvRouter pn) then some 0x0C else none)
  else if (portTo s (declHome d.block)).isNone then some 0x08 else none

/-- The ranges of memory an interest's destination takes over at issue; one in the crew's own run needs no slot (R114, R285). -/
def nreqOwned (s : State) (dst : W64) (own : Bool) (n : Nat) : List (Nat × Nat) :=
  if own then [] else ownedBy s (groupActor s.cur) [{ src := 0, dst := dst, len := n }]

/-- Issue an interest: ended at once, or recorded with its expiry, its destination taken over (R114, R357, R360, R363). -/
def issueNreq (s : State) (dst : W64) (own : Bool) (pn : W64) (tgt : OpTarget) : State :=
  let o (s : State) : EngOp := newOp s (.nreq dst own pn) tgt
  match declOf s (pnTensor pn) with
  | none => advance (issueOp s { o s with stage := .ended 0x05 })
  | some d =>
    let n := declBytes d.block
    match nreqRefused s pn d with
    | some st => advance (issueOp s { o s with count := n, stage := .ended st })
    | none =>
      let lines := nreqOwned s dst own n
      if claimBlocked s s.cur.cluster lines then stall s
      else
        let s1 := if homeHere s (declHome d.block) then s else wakePeer s (declHome d.block)
        advance (wantTile (claimOp s1 s.cur.cluster lines fun s =>
          { o s with count := n, stage := .sent, expiry := s.time + declLife d.block }) s.cur.cluster pn)

/-- NREQ (R285). -/
def nreq (d a b t : BitVec 6) (bar : Bool) (s : State) : State :=
  let c := sreg s b
  if bitsOf c 63 (if bar then 2 else 1) ≠ 0 then scalarTrap s 0x01 c
  else if badTarget s.crew bar t.toNat then scalarTrap s 0x01 (zext64 t)
  else if (sreg s d).toNat % 128 ≠ 0 then scalarTrap s 0x0D (sreg s d)
  else if !engineReady s (if bar then none else some t.toNat) then stall s
  else issueNreq s (sreg s d) (bitAt c 0) (sreg s a) (opTarget s.crew bar t.toNat (bitAt c 1))

/-- NREQ to a tag (R285). -/
def execNreqTag (d a b t : BitVec 6) (s : State) : Out := .next (nreq d a b t false s)
/-- NREQ to a byte barrier (R285). -/
def execNreqBb (d a b t : BitVec 6) (s : State) : Out := .next (nreq d a b t true s)

/-! ### An interest at a router (R361) -/

/-- The rest of an interest's way: one from a port starts anew at that port's router; none where it would pass an eighth link, or no port
leads to its HOME (R359, R402). -/
def interestPath (s : State) (m : NetMsg) : Option (List Nat) :=
  match m.frm with
  | .port _ => if !homeHere s m.dest && 7 ≤ m.hops then none else pnPath s m.site m.pennant m.dest
  | _ => some m.path

/-- Send the interest of an entry of router r on to the next site of its path. -/
def forwardInterest (s : State) (r : Nat) (e : PitEntry) : State :=
  match e.path with
  | [] => s
  | x :: rest =>
    sendNet s { plainMsg .interest x (.router r) e.pennant with
      mask := e.mask, expiry := e.expiry, path := rest, dest := e.dest, hops := if 144 ≤ x then e.hops + 1 else e.hops }

/-- The interest joins an entry, or makes one, or is turned away (R361). -/
def interestEntry (s : State) (m : NetMsg) (path : List Nat) : State :=
  let r := m.site
  let x := routerAt s r
  match pitFind x m.pennant with
  | some e =>
    let e' := { e with faces := if e.faces.contains m.frm then e.faces else e.faces ++ [m.frm],
                       mask := e.mask ||| m.mask, expiry := max e.expiry m.expiry }
    routerCount (onRouter s r (pitChange m.pennant fun _ => e')) r 1 32 1
  | none =>
    if x.pit.length < 4096 then
      let e : PitEntry := { pennant := m.pennant, faces := [m.frm], mask := m.mask, expiry := m.expiry,
                            path := path, tomb := false, dest := m.dest, hops := m.hops }
      forwardInterest (onRouter s r fun x => { x with pit := x.pit ++ [e] }) r e
    else routerCount (answerFaces .nack r m.pennant [] [m.frm] s) r 1 0 1

/-- An interest with its path arrives at a router (R361). At the rendezvous router a spilled tile is refilled first (R365); one whose stack
is dead serves nothing (R373). -/
def interestOn (s : State) (m : NetMsg) (path : List Nat) : State :=
  let r := m.site
  let x := routerAt s r
  if path.isEmpty && routerDead s r then answerFaces .unserved r m.pennant [0x0C] [m.frm] s
  else if path.isEmpty then
    match storedAt x m.pennant with
    | some t =>
      if t.spilled then onRouter s r fun x => { x with waiting := x.waiting ++ [m] }
      else answerFaces .delivery r m.pennant t.bytes [m.frm] s
    | none =>
      if hasTomb x m.pennant then routerCount (answerFaces .never r m.pennant [] [m.frm] s) r 2 0 1
      else interestEntry s m path
  else interestEntry s m path

/-- An interest arrives at a router; one that can go no further ends with 0x08 at its origin (R361, R402). -/
def interestAt (s : State) (m : NetMsg) : State :=
  match interestPath s m with
  | some path => interestOn (match m.frm with
      | .port _ => if homeHere s m.dest then s else wakePeer s m.dest
      | _ => s) m path
  | none => answerFaces .unserved m.site m.pennant [0x08] [m.frm] s

/-- INTEREST (R361). -/
def execInterest (m : NetMsg) (s : State) : Out :=
  if m.kind = .interest && m.site < 80 && arrives s m then .next (interestAt (takeMsg s m) m) else .next s

/-! ### NACK and retry (R362) -/

/-- The wait before retry k (R362). -/
def retryDelay (k : Nat) : Nat := 64 * 2 ^ min (k - 1) 10

/-- A NACK at a router goes to every face of the entry, which is freed; at an engine it sets the next retry (R362). -/
def nackAt (s : State) (m : NetMsg) : State :=
  if m.site < 80 then
    match pitFind (routerAt s m.site) m.pennant with
    | none => s
    | some e =>
      routerCount (answerFaces .nack m.site m.pennant [] e.faces (onRouter s m.site (pitFree m.pennant))) m.site 1 0
        e.faces.length
  else
    onWant s (m.site - 80) m.pennant fun w =>
      { w with retries := w.retries + 1, resend := some (s.time + retryDelay (w.retries + 1)) }

/-- INTEREST_NACK (R362). -/
def execInterestNack (m : NetMsg) (s : State) : Out :=
  if m.kind = .nack && m.site < 144 && arrives s m then .next (nackAt (takeMsg s m) m) else .next s

/-- INTEREST_RETRY: the delay is over and the interest is sent again, while a record waits (R362). -/
def execInterestRetry (c : Nat) (pn : W64) (s : State) : Out :=
  match wantOf s c pn with
  | some w =>
    if (match w.resend with
        | some t => decide (t ≤ s.time)
        | none => false) then
      let s1 := onWant s c pn fun w => { w with resend := none }
      if (localRecords s1 c pn).isEmpty then .next (dropWant s1 c pn) else .next (sendInterest s1 c pn)
    else .next s
  | none => .next s

/-! ### Delivery (R366 to R370) -/

/-- The runs of n bytes of a record's destination from byte i, or the status that refuses it (R266, R285). -/
def recordRuns (s : State) (o : EngOp) (i n : Nat) : Except Byte (List Run) :=
  match o.kind with
  | .nreq dst own _ =>
    if own then
      match findCrew s o.grp with
      | some c => if dst.toNat + i + n ≤ c.splen then .ok [crewRun c (dst.toNat + i) n] else .error 0x02
      | none => .error 0x02
    else engineRuns s (opActor o) .store (dst + BitVec.ofNat 64 i) n
  | _ => .error 0x02

/-- Write the tile's line from byte i, unless an earlier line has failed: a link that is down, or a dead home (R266, R351, R398). -/
def deliverLine (bytes : List Byte) (o : EngOp) (acc : Byte × State) (i : Nat) : Byte × State :=
  if acc.1 ≠ 0 then acc
  else
    match recordRuns acc.2 o i 128 with
    | .error st => (st, acc.2)
    | .ok rs =>
      if !acc.2.linkUp && rs.any (fun r => r.place = .host) then (0x08, acc.2)
      else if (firstErr (storeErr acc.2) rs).isSome then (0x04, acc.2)
      else
        let s1 := match o.kind with
          | .nreq dst false _ => touchRuns acc.2 (opActor o) .store (dst + BitVec.ofNat 64 i) rs
          | _ => acc.2
        (0, engineWrite s1 (some o) rs ((bytes.drop i).take 128))

/-- A record takes the tile: its pages are checked, its lines are written in ascending order, and it ends (R266, R366). -/
def deliverRecord (bytes : List Byte) (s : State) (o : EngOp) : State :=
  match recordRuns s o 0 bytes.length with
  | .error st => endOp s o st
  | .ok _ =>
    let r := ((List.range (bytes.length / 128)).map (128 * ·)).foldl (deliverLine bytes o) (0, s)
    endOp r.2 o r.1

/-- The record's crew is on a core: a delivery to a crew set aside waits (R373, R331). -/
def crewThere (s : State) (k : GKey) : Bool :=
  match findCrew s k with
  | some c => !crewAway c
  | none => false

/-- The record can take a tile now: its crew is there, and its destination lines have been taken over (R114, R373). -/
def recordReady (s : State) (o : EngOp) : Bool := crewThere s o.grp && ownsAll o

/-- A tile at the engine of a cluster: every record that can takes it, in record order; for the others the tile stays (R366, R373). -/
def deliverCluster (s : State) (c : Nat) (pn : W64) (bytes : List Byte) : State :=
  let rs := localRecords s c pn
  let s1 := (rs.filter (recordReady s)).foldl (deliverRecord bytes) s
  if rs.all (recordReady s) then dropWant s1 c pn
  else sendNet s1 { plainMsg .delivery (80 + c) .loc pn with bytes := bytes }

/-- Bits set in a mask. -/
def maskCount (m : W64) : Nat := (maskNums m).length

/-- The lowest delivery number of a writer not in use by a slot still kept or a delivery still collected, if any (R367). -/
def deliveryNum (s : State) (w : Nat) : Option Nat :=
  let used := s.planes.flatMap fun p => (p.pend ++ p.sent ++ p.kept).filterMap fun x =>
    if x.writer = w then
      match x.msg with
      | .tileDesc n _ _ _ => some n
      | .tileChunk n _ _ => some n
      | _ => none
    else none
  (List.range 1024).find? fun n => !used.contains n && !s.collects.any fun c => c.writer = w && c.num = n

/-- A delivery over Bunting under a number: a descriptor on each plane, then the chunks (R367). -/
def broadcastTile (s : State) (r num : Nat) (pn mask : W64) (bytes : List Byte) : State :=
  let w := routerWriter r
  let chunks := bytes.length / 128
  let s1 := (List.range 8).foldl (fun s p => queueSlot s p w (.tileDesc num pn mask (chunks - 1))) s
  routerCount ((List.range chunks).foldl (fun s c =>
    queueSlot s (c % 8) w (.tileChunk num c ((bytes.drop (128 * c)).take 128))) s1) r 2 32 1

/-- The faces of an entry that lead to other devices. -/
def portFaces (e : PitEntry) : List Face := e.faces.filter fun f => match f with | .port _ => true | _ => false

/-- A router delivers a tile to its entry and frees it: by Bunting from 8 clusters on, else face by face (R366, R367). With every
delivery number of its writer in use the delivery waits. -/
def deliverEntry (s : State) (r : Nat) (pn : W64) (bytes : List Byte) : State :=
  match pitFind (routerAt s r) pn with
  | none => s
  | some e =>
    let s1 := onRouter s r (pitFree pn)
    if maskCount e.mask ≥ 8 then
      match deliveryNum s (routerWriter r) with
      | some n => answerFaces .delivery r pn bytes (portFaces e) (broadcastTile s1 r n pn e.mask bytes)
      | none => sendNet s { plainMsg .delivery r (.router r) pn with bytes := bytes }
    else answerFaces .delivery r pn bytes e.faces s1

/-- TILE_DELIVERY (R366). -/
def execTileDelivery (m : NetMsg) (s : State) : Out :=
  if m.kind = .delivery && m.site < 144 && arrives s m then
    if m.site < 80 then .next (deliverEntry (takeMsg s m) m.site m.pennant m.bytes)
    else .next (deliverCluster (takeMsg s m) (m.site - 80) m.pennant m.bytes)
  else .next s

/-- An entry whose clusters a broadcast serves: the part covered is freed; for the rest a new interest goes out (R368).
Faces that lead to other devices stay (DEDUCED, log 26). -/
def coverEntry (pn mask : W64) (s : State) (r : Nat) : State :=
  match pitFind (routerAt s r) pn with
  | none => s
  | some e =>
    let left := e.mask &&& ~~~mask
    let own := routerWriter r
    let faces := if left = 0 then portFaces e
      else e.faces.filter fun f => !(f = .loc && own < 64 && mask.getLsbD own)
    if faces.isEmpty then onRouter s r (pitFree pn)
    else
      let s1 := onRouter s r (pitChange pn fun y => { y with faces := faces, mask := left })
      forwardInterest s1 r { e with mask := left }

/-- A collect is over: all eight descriptor slots have been applied, and the clusters served. -/
def collectOver (c : Collect) : Bool := c.done && 8 ≤ c.descs

/-- Change the collect of a delivery; one that is over goes. -/
def onCollect (s : State) (w num : Nat) (f : Collect → Collect) : State :=
  { s with collects := (replaceFirst (fun x => x.writer = w && x.num = num) f s.collects).filter fun c => !collectOver c }

/-- A descriptor slot of a broadcast: with the first of the eight it takes effect at every router (R368). -/
def applyDesc (s : State) (w num : Nat) (pn mask : W64) (chunks : Nat) : State :=
  if s.collects.any fun c => c.writer = w && c.num = num then onCollect s w num fun c => { c with descs := c.descs + 1 }
  else
    let s1 := { s with collects := s.collects ++
      [{ writer := w, num := num, pennant := pn, mask := mask, chunks := chunks + 1, descs := 1, done := false, got := [] }] }
    (List.range 80).foldl (coverEntry pn mask) s1

/-- A chunk of a broadcast; with the last one the clusters of the mask complete their records (R368). -/
def applyChunk (s : State) (w num idx : Nat) (bytes : List Byte) : State :=
  match s.collects.find? fun c => c.writer = w && c.num = num && !c.done with
  | none => s
  | some c =>
    let got := (idx, bytes) :: c.got.filter fun g => g.1 ≠ idx
    if got.length < c.chunks then onCollect s w num fun x => { x with got := got }
    else
      let tile := (List.range c.chunks).flatMap fun i => ((got.find? fun g => g.1 = i).map (·.2)).getD []
      (maskNums c.mask).foldl (fun s k => deliverCluster s k c.pennant tile)
        (onCollect s w num fun x => { x with done := true, got := [] })

/-! ### Publication (R284, R364, R365) -/

/-- The engine reads its snapshot: the bytes, or the status of a failure (R113, R266, R284). -/
def snapshot (s : State) (o : EngOp) (n : Nat) : Except Byte (List Byte) :=
  match o.kind with
  | .npub src _ _ =>
    match engineRuns s (opActor o) .load src n with
    | .error st => .error st
    | .ok rs =>
      if !s.linkUp && rs.any (fun r => r.place = .host) then .error 0x08
      else if (firstErr (loadErr s) rs).isSome then .error 0x04
      else .ok (engineRead s o.mark rs)
  | _ => .error 0x05

/-- The state with the marks of the snapshot's walk (R88). -/
def snapMarks (s : State) (o : EngOp) (n : Nat) : State :=
  match o.kind with
  | .npub src _ _ => readMarks s (opActor o) [(src, n)]
  | _ => s

/-- The publication of a pennant travels to its rendezvous router, or by a port towards HOME (R359). -/
def publishMsg (s : State) (o : EngOp) (site : Nat) (pn : W64) (bytes : List Byte) : NetMsg :=
  { plainMsg .publication site (.router (clusterRouter o.cluster)) pn with
    bytes := bytes, crew := crewKey o.grp, op := o.id, dev := if site < 144 then 0xFFFF else devNo s
    dest := destOf s (pnHome s pn), hops := if site < 144 then 0 else 1 }

/-- The operation takes its snapshot and the publication leaves; no HOME to reach ends it with 0x08. -/
def publishNow (s : State) (o : EngOp) (pn : W64) (d : Decl) : State :=
  let send (s : State) (site : Nat) (port : Option Nat) : State :=
    match snapshot s o (declBytes d.block) with
    | .error st => endOp s o st
    | .ok bs => sendNet (putOp (snapMarks s o (declBytes d.block)) { o with stage := .sent, port := port }) (publishMsg s o site pn bs)
  if homeHere s (declHome d.block) then send s (rdvRouter pn) none
  else
    match portTo s (declHome d.block) with
    | none => endOp s o 0x08
    | some p => send (wakePeer s (declHome d.block)) (144 + p) (some p)

/-- Issue a publication. The snapshot is taken at once or later, by a free choice; then the message stands, still empty, at the router
of the publisher's cluster (R284, R359). -/
def issueNpub (s : State) (o : EngOp) (pn : W64) : State :=
  match declOf s (pnTensor pn) with
  | none => issueOp s { o with stage := .ended 0x05 }
  | some d =>
    let s1 := issueOp s o
    if Config.choice s.ctr 0 then publishNow s1 o pn d
    else sendNet s1 { publishMsg s o (clusterRouter o.cluster) pn [] with frm := .loc }

/-- NPUB (R284). -/
def npub (d a t : BitVec 6) (rel : Bool) (s : State) : State :=
  if badTarget s.crew false t.toNat then scalarTrap s 0x01 (zext64 t)
  else if (sreg s d).toNat % 128 ≠ 0 then scalarTrap s 0x0D (sreg s d)
  else if !engineReady s (some t.toNat) then stall s
  else
    let o := newOp s (.npub (sreg s d) (sreg s a) rel) (.tag t.toNat)
    modCur (advance (issueNpub s o (sreg s a))) fun g => { g with pubs := g.pubs ++ [o.id] }

/-- NPUB (R284). -/
def execNpub (d a t : BitVec 6) (s : State) : Out := .next (npub d a t false s)
/-- NPUB.REL: also a release of the group's earlier writes, which are performed when it issues (R284, log 9). -/
def execNpubRel (d a t : BitVec 6) (s : State) : Out := .next (npub d a t true s)

/-- The crew that publishes, with its device (R364). -/
def producer (m : NetMsg) : Nat × GKey := (m.dev, m.crew)

/-- The publication is refused (R364). -/
def pubRefused (s : State) (r : Nat) (m : NetMsg) (d : Decl) : Bool :=
  let x := routerAt s r
  pnIter m.pennant > declLast d.block || (storedAt x m.pennant).isSome || hasTomb x m.pennant
    || (declProd d.block ≠ 0 && !d.producers.contains (producer m) && d.producers.length ≥ declProd d.block)

/-- The operation a publication serves; one of another device serves none here. -/
def pubOp (s : State) (m : NetMsg) : Option EngOp := if m.dev = 0xFFFF then findOp s m.op else none

/-- The publication's outcome: its operation ends, or the status goes back by the port it came from (R359, R364). -/
def endPub (s : State) (m : NetMsg) (st : Byte) : State :=
  if m.dev = 0xFFFF then
    match findOp s m.op with
    | some o => endOp s o st
    | none => s
  else
    match m.path with
    | x :: _ => sendNet s { plainMsg .stored x (.router m.site) m.pennant with bytes := [st], dev := m.dev, op := m.op, dest := m.dev, hops := 1 }
    | [] => s

/-- A crew admitted is recorded with the declaration (R364). -/
def recordProducer (d : Decl) (k : Nat × GKey) (s : State) : State :=
  if declProd d.block = 0 || d.producers.contains k then s
  else { s with decls := replaceFirst (fun x => x.tnum = d.tnum) (fun x => { x with producers := x.producers ++ [k] }) s.decls }

/-- A publication reaches its rendezvous router with its bytes: refused, held for want of room, or stored and delivered
(R364 to R366). -/
def storePub (s : State) (m : NetMsg) (d : Decl) : State :=
  let r := m.site
  if routerDead s r then endPub s m 0x0C
  else if pubRefused s r m d then routerCount (endPub s m 0x0A) r 3 0 1
  else
    match makeRoom s r (m.bytes.length / 128) 40000 with
    | none => onRouter s r fun x => { x with waiting := x.waiting ++ [m] }
    | some s1 =>
      let t : Stored := { pennant := m.pennant, bytes := m.bytes, till := s.time + declLife d.block, spilled := false }
      deliverEntry (endPub (recordProducer d (producer m) (onRouter s1 r fun x => { x with store := x.store ++ [t] })) m 0) r
        m.pennant m.bytes

/-- A publication arrives. One whose snapshot has not been taken takes it now (R284); one from a port goes on to the rendezvous router, or,
for another device, to the next one (R359, R402). -/
def publicationAt (s : State) (m : NetMsg) : State :=
  match inTransit s m, declOf s (pnTensor m.pennant) with
  | some p, _ => transit s p m
  | none, none => endPub s (onward m m.site) 0x05
  | none, some d =>
    if m.bytes.isEmpty then
      match pubOp s m with
      | none => s
      | some o => if o.stage = .issued then publishNow s o m.pennant d else s
    else if m.site ≠ rdvRouter m.pennant then sendNet s (onward m (rdvRouter m.pennant))
    else storePub s (onward m m.site) d

/-- PUBLICATION (R364). -/
def execPublication (m : NetMsg) (s : State) : Out :=
  if m.kind = .publication && m.site < 80 && arrives s m then .next (publicationAt (takeMsg s m) m) else .next s

/-- The interests in a tile that wait at its router are served from the backing area. -/
def serveSpilled (s : State) (r : Nat) (t : Stored) : State :=
  let w := (routerAt s r).waiting
  let mine (m : NetMsg) : Bool := m.kind = .interest && m.pennant = t.pennant
  (w.filter mine).foldl (fun s m => answerFaces .delivery r t.pennant t.bytes [m.frm] s)
    (onRouter s r fun x => { x with waiting := w.filter fun m => !mine m })

/-- REFILL: a spilled tile comes back and the interests that wait for it are served; with no room left in store and backing area they are
served all the same (R365). -/
def execRefill (r : Nat) (pn : W64) (s : State) : Out :=
  match storedAt (routerAt s r) pn with
  | none => .next s
  | some t =>
    if !t.spilled then .next s
    else
      match makeRoom s r (t.bytes.length / 128) 40000 with
      | none => .next (serveSpilled s r t)
      | some s1 =>
        .next (retryWaiting (onRouter s1 r fun x =>
          { x with store := replaceFirst (fun u => u.pennant = pn) (fun u => { u with spilled := false }) x.store }) r
          fun m => m.kind = .interest && m.pennant = pn)

/-! ### Ends (R363, R371, R372) -/

/-- LOCAL_RECORD_EXPIRY; a record whose tile was coming when NCAN named it completes with it (R286, R363). -/
def execLocalRecordExpiry (id : Nat) (s : State) : Out :=
  match findOp s id with
  | some o =>
    match o.kind with
    | .nreq _ _ pn =>
      if o.stage = .sent && o.expiry ≠ 0 && o.expiry ≤ s.time then .next (dropWant (endOp s o 0x06) o.cluster pn) else .next s
    | _ => .next s
  | none => .next s

/-- PIT_ENTRY_EXPIRY (R363, R374). -/
def execPitEntryExpiry (r : Nat) (pn : W64) (s : State) : Out :=
  match pitFind (routerAt s r) pn with
  | some e => if e.expiry < s.time then .next (routerCount (onRouter s r (pitFree pn)) r 2 0 1) else .next s
  | none => .next s

/-- The end of a tile: it is removed, its entry answered, a tombstone held for LIFE from now (R371). -/
def endTile (s : State) (r : Nat) (pn : W64) : State :=
  let life := match declOf s (pnTensor pn) with
    | some d => declLife d.block
    | none => 0
  let s1 := onRouter s r fun x => { x with store := x.store.filter fun t => t.pennant ≠ pn }
  let s2 := match pitFind (routerAt s1 r) pn with
    | none => s1
    | some e => routerCount (answerFaces .never r pn [] e.faces (onRouter s1 r (pitFree pn))) r 2 0 1
  let tomb : PitEntry := { pennant := pn, faces := [], mask := 0, expiry := s.time + life, path := [], tomb := true, dest := 0xFFFF, hops := 0 }
  let s3 := if hasTomb (routerAt s2 r) pn then
      onRouter s2 r fun x => { x with pit := replaceFirst (fun e => e.pennant = pn && e.tomb) (fun _ => tomb) x.pit }
    else if (routerAt s2 r).pit.length < 4096 then onRouter s2 r fun x => { x with pit := x.pit ++ [tomb] }
    else s2
  retryWaiting s3 r fun m => m.kind = .publication || m.pennant = pn

/-- The pennants of a tensor with a tile stored or an entry at a router. -/
def tensorTiles (s : State) (t r : Nat) : List W64 :=
  (((routerAt s r).store.map (·.pennant)) ++ (((routerAt s r).pit.filter fun e => !e.tomb && e.path.isEmpty).map (·.pennant))
    |>.filter fun pn => pnTensor pn = t).eraseDups

/-- A declaration ends: every tile of the tensor is dropped, then the declaration is freed (R357). -/
def endDecl (s : State) (t : Nat) : State :=
  let s1 := (List.range 80).foldl (fun s r => (tensorTiles s t r).foldl (fun s pn => endTile s r pn) s) s
  { s1 with decls := s1.decls.filter fun d => d.tnum ≠ t }

/-- The pennant names a declaration's end (R357). -/
def endsDecl (pn : W64) : Bool := bitsOf pn 39 0 = 2 ^ 40 - 1

/-- A drop at a router: HOME here, the tile ends at its rendezvous router, or the whole declaration does; HOME elsewhere, the drop leaves
by the port towards it, and a drop that ends the declaration ends this device's too (R357, R359, R371). -/
def dropHere (s : State) (m : NetMsg) : State :=
  let pn := m.pennant
  if homeHere s (pnHome s pn) then
    if endsDecl pn then endDecl s (pnTensor pn)
    else if m.site ≠ rdvRouter pn then sendNet s (onward m (rdvRouter pn))
    else endTile s m.site pn
  else
    let s1 := match portTo s (pnHome s pn) with
      | some p => sendNet (wakePeer s (pnHome s pn)) { m with site := 144 + p, frm := .router (portRouter p), dev := devNo s, dest := pnHome s pn, hops := 1 }
      | none => s
    if endsDecl pn then { s1 with decls := s1.decls.filter fun d => d.tnum ≠ pnTensor pn } else s1

/-- A drop arrives; one for another device goes on (R402). -/
def dropAt (s : State) (m : NetMsg) : State :=
  match inTransit s m with
  | some p => transit s p m
  | none => dropHere s m

/-- DROP (R371). -/
def execDrop (m : NetMsg) (s : State) : Out :=
  if m.kind = .drop && m.site < 80 && arrives s m then .next (dropAt (takeMsg s m) m) else .next s

/-- The status that ends the records an answer reaches: never produced, or what the message carries. -/
def neverStatus (m : NetMsg) : Byte := if m.kind = .never then 0x06 else nth m.bytes 0 0x0C

/-- A never-produced answer, and one that an interest cannot be served, travels as a delivery does; every record it reaches ends (R371,
R373, R402). -/
def neverAt (s : State) (m : NetMsg) : State :=
  if m.site < 80 then
    match pitFind (routerAt s m.site) m.pennant with
    | none => s
    | some e => answerFaces m.kind m.site m.pennant m.bytes e.faces (onRouter s m.site (pitFree m.pennant))
  else
    endRecords s (m.site - 80) m.pennant (neverStatus m)

/-- What an answer that ends records carries: nothing, or the status of an interest out of reach or at a dead stack. -/
def neverKind (m : NetMsg) : Bool := (m.kind = .never && m.bytes = []) || (m.kind = .unserved && (m.bytes = [0x08] || m.bytes = [0x0C]))

/-- NEVER_PRODUCED (R371). -/
def execNeverProduced (m : NetMsg) (s : State) : Out :=
  if neverKind m && m.site < 144 && arrives s m then .next (neverAt (takeMsg s m) m) else .next s

/-- TILE_LIFETIME_END (R371). -/
def execTileLifetimeEnd (r : Nat) (pn : W64) (s : State) : Out :=
  match storedAt (routerAt s r) pn with
  | some t => if t.till ≤ s.time then .next (endTile s r pn) else .next s
  | none => .next s

/-- TOMBSTONE_END (R371, R374). -/
def execTombstoneEnd (r : Nat) (pn : W64) (s : State) : Out :=
  match (routerAt s r).pit.find? fun e => e.pennant = pn && e.tomb with
  | some e =>
    if e.expiry ≤ s.time then
      .next (routerCount (onRouter s r fun x => { x with pit := x.pit.filter fun e => !(e.pennant = pn && e.tomb) }) r 2 0 1)
    else .next s
  | none => .next s

/-- A cancel at a router: the face it came from leaves the entry; an entry left with no face is freed and the cancel goes
on (R372; that it stops at an entry still in use: DEDUCED, log 26). -/
def cancelAt (s : State) (m : NetMsg) : State :=
  match pitFind (routerAt s m.site) m.pennant with
  | none => s
  | some e =>
    let faces := e.faces.filter fun f => f ≠ m.frm
    if faces.isEmpty then
      let s1 := onRouter s m.site (pitFree m.pennant)
      match e.path with
      | [] => s1
      | x :: _ => sendNet s1 (plainMsg .cancel x (.router m.site) m.pennant)
    else onRouter s m.site (pitChange m.pennant fun y => { y with faces := faces })

/-- CANCEL (R372). -/
def execCancel (m : NetMsg) (s : State) : Out :=
  if m.kind = .cancel && m.site < 80 && arrives s m then .next (cancelAt (takeMsg s m) m) else .next s

/-! ### NCAN and NDROP (R286, R287) -/

/-- The record of the current crew with a pennant and a target (R286). -/
def cancelled (s : State) (pn : W64) (bar : Bool) (t : Nat) : List EngOp :=
  (localRecords s s.cur.cluster pn).filter fun o => crewKey o.grp = crewKey s.cur.key
    && (match o.target with
        | .tag x => !bar && decide (x = t)
        | .bar x _ => bar && decide (x = t)
        | .word => false)

/-- A tile for the pennant is on its way to the cluster's engine. -/
def tileComing (s : State) (c : Nat) (pn : W64) : Bool :=
  s.net.any fun m => m.kind = .delivery && m.site = 80 + c && m.pennant = pn

/-- Withdraw records: each ends with 0x07, unless its tile is coming and reaches it first, by a free choice: it then waits for the tile and
does not expire (R286); the last record of the cluster to go sends a cancel (R372). -/
def withdraw (s : State) (pn : W64) (os : List EngOp) : State :=
  let c := s.cur.cluster
  if os.isEmpty then s
  else if tileComing s c pn && Config.choice s.ctr 1 then os.foldl (fun s o => putOp s { o with expiry := 0 }) s
  else
    let s1 := os.foldl (fun s o => endOp s o 0x07) s
    if (localRecords s1 c pn).isEmpty then
      sendNet (dropWant s1 c pn) (plainMsg .cancel (clusterRouter c) .loc pn)
    else s1

/-- NCAN; of several interests of the crew in one pennant with one target it withdraws the one issued first: the manual does not say which
(DESIGN CHOICE, log 113; R286). -/
def execNcan (a b t : BitVec 6) (s : State) : Out :=
  let c := sreg s b
  let bar := bitAt c 0
  if bitsOf c 63 1 ≠ 0 then .next (scalarTrap s 0x01 c)
  else if badTarget s.crew bar t.toNat then .next (scalarTrap s 0x01 (zext64 t))
  else .next (advance (withdraw s (sreg s a) ((cancelled s (sreg s a) bar t.toNat).take 1)))

/-- NDROP: waits until the group's earlier publications have taken their snapshots, then sends the drop (R287, R357). -/
def execNdrop (a : BitVec 6) (s : State) : Out :=
  let pn := sreg s a
  if s.ops.any fun o => s.cur.pubs.contains o.id && o.stage = .issued then .next (stall s)
  else
    let r := clusterRouter s.cur.cluster
    let site := if homeHere s (pnHome s pn) then rdvRouter pn else r
    .next (modCur (advance (sendNet s (plainMsg .drop site (.router r) pn))) fun g => { g with pubs := [] })

end Sys2Proof.Machine
end

