-- ==== Sys2Proof/Machine/Loam.lean ====
section
/-!
DEFINITION. Loam.lean: Loam commands, collectives, page migration and the switching of DRAM domains (R93, R94, R288, R289,
R375 to R393).
-/
namespace Sys2Proof.Machine

/-! ### The command block (R377, R378) -/

def blkOp (b : List Byte) : Nat := blockField b 7 0
def blkUnit (b : List Byte) : Nat := blockField b 15 8
def blkOrder (b : List Byte) : Bool := blockField b 16 16 = 1
def blkAcc (b : List Byte) : Bool := blockField b 17 17 = 1
def blkType (b : List Byte) : Nat := blockField b 23 18
/-- Rows per bag. -/
def blkBag (b : List Byte) : Nat := blockField b 31 24 + 1
def blkCount (b : List Byte) : Nat := blockField b 63 32
def blkA (b : List Byte) : Nat := blockField b 127 64
def blkB (b : List Byte) : Nat := blockField b 191 128
def blkC (b : List Byte) : Nat := blockField b 255 192
def blkD (b : List Byte) : Nat := blockField b 287 256
def blkE (b : List Byte) : Nat := blockField b 319 288

/-- A unit in the range the block may name (R377). -/
def unitOk (b : List Byte) : Bool := blkUnit b < 16 || (blkUnit b = 0xFF && blkOp b ≠ 5)

/-- DTYPE is one of the three where the OP uses it, else zero (R377). -/
def typeOk (b : List Byte) : Bool :=
  if blkOp b = 3 || blkOp b = 4 || blkOp b = 5 then blkType b = 8 || blkType b = 9 || blkType b = 4 else blkType b = 0

/-- COUNT and the operands of an OP lie in their ranges (R378, R386). -/
def operandsOk (b : List Byte) : Bool :=
  let rows := decide (1 ≤ blkCount b && blkCount b ≤ 65536 && 4 ≤ blkD b && blkD b ≤ 65536 && blkD b % 4 = 0
    && blkA b % 4 = 0 && blkB b % 4 = 0 && blkC b % 4 = 0)
  let tail := blkC b = 0 && blkD b = 0 && blkE b = 0
  match blkOp b with
  | 1 => blkCount b ≠ 0 && blkA b % 4 = 0 && blkB b = 0 && tail
  | 2 => blkCount b ≠ 0 && blkA b % 4 = 0 && blkB b % 4 = 0 && tail
  | 3 => rows
  | 4 => rows
  | 5 => 4 ≤ blkCount b && blkCount b % 4 = 0 && blkB b < 2 ^ 26 && natBits (blkB b) 25 24 ≠ 3 && tail
  | 6 => blkCount b = 0 && blkB b ≤ 1 && tail
  | _ => false

/-- The unit rejects the block with status 0x05 (R377). -/
def blockRejected (b : List Byte) : Bool :=
  !(unitOk b && typeOk b && operandsOk b) || blockField b 447 320 ≠ 0
    || (blkOp b ≠ 3 && (blkBag b ≠ 1 || blkAcc b))

/-- The bytes a block arrives with (R378, R386); `m`: members of the collective's group. -/
def blockBytes (m : Nat) (b : List Byte) : Nat :=
  match blkOp b with
  | 1 => blkCount b
  | 2 => blkCount b
  | 3 => blkCount b * blkD b
  | 4 => blkCount b * blkD b
  | 5 => if natBits (blkB b) 25 24 = 1 then (m - 1) * blkCount b else blkCount b
  | _ => 0

/-- The register of the group a COLL names (R391). -/
def groupReg (s : State) (u : Nat) (b : List Byte) : W64 := loamRaw s u (0x1000 + 0x100 * (blkB b % 16))

/-- The byte whose home 0xFF names: the first destination byte, the table base, or the start of the page's frame (R377). -/
def unitByte (s : State) (a : Actor) (b : List Byte) : Option Nat :=
  let va : W64 := BitVec.ofNat 64 (blkA b)
  if blkOp b = 6 then (walk s a.ptbase va).toOption.map fun l => bitsOf l.entry 51 12 * 4096
  else (translate s a .store va).toOption.map (·.pa)

/-- The unit that 0xFF names: the home of that byte; where it has none, one the device chooses (R377). -/
def settleUnit (s : State) (a : Actor) (b : List Byte) : Nat :=
  if blkUnit b < 16 then blkUnit b
  else ((unitByte s a b).bind homeStack).getD (Config.pick s.ctr 16 % 16)

/-- The kept block with its unit settled. -/
def withUnit (b : List Byte) (u : Nat) : List Byte := b.set 1 (BitVec.ofNat 8 u)

/-- The virtual ranges a command writes (R378, R387). -/
def blockDests (s : State) (b : List Byte) : List CopyRow :=
  let row (a n : Nat) : List CopyRow := [{ src := 0, dst := BitVec.ofNat 64 a, len := n }]
  match blkOp b with
  | 1 => row (blkA b) (blkCount b)
  | 2 => row (blkA b) (blkCount b)
  | 3 => row (blkA b) (blkCount b * blkD b)
  | 4 => row (blkA b) (blkE b * blkD b)
  | 5 =>
    let buf := natBits (blkB b) 23 8
    if buf < 64 then
      row (loamRaw s (blkUnit b) (0x4000 + 16 * buf)).toNat (bitsOf (loamRaw s (blkUnit b) (0x4008 + 16 * buf)) 31 0)
    else []
  | _ => []

/-! ### SKCMD (R288) -/

/-- The target of the three forms. -/
inductive SkForm where
  | tag
  | bb
  | cw
  deriving DecidableEq, Repr

/-- Earlier commands of the current group that have not ended (R376). -/
def earlierCmds (s : State) : List Nat :=
  ((groupOps s).filter fun o => match o.kind with | .skcmd _ _ _ => true | _ => false).map (·.id)

/-- Collectives of the same unit and group that have not ended: a COLL starts after them (R385). -/
def earlierColls (s : State) (b : List Byte) : List Nat :=
  if blkOp b ≠ 5 then []
  else (s.ops.filter fun x => match x.stage, x.kind with
    | .ended _, _ => false
    | _, .skcmd c _ _ => blkOp c = 5 && blkUnit c = blkUnit b && natBits (blkB c) 7 0 = natBits (blkB b) 7 0
    | _, _ => false).map (·.id)

/-- Issue a command read at issue: one for the unit of a fenced stack ends with 0x0C; one that comes after others takes its destination over
when it starts (R288, R350, R375 to R377). -/
def issueSkcmd (s : State) (addr ctl : W64) (target : OpTarget) (b : List Byte) : State :=
  let a := groupActor s.cur
  let mk (s : State) (b : List Byte) : EngOp :=
    { newOp s (.skcmd b (addr + 56) (ctl.setWidth 32)) target with
      count := blockBytes (bitsOf (groupReg s (blkUnit b % 16) b) 6 0) b }
  if blockRejected b then advance (issueOp s { mk s b with stage := .ended 0x05 })
  else
    let k := withUnit b (settleUnit s a b)
    let after := if blkOrder k then earlierCmds s else []
    if s.dead.any fun d => d = (64 + blkUnit k, 0) then advance (issueOp s { mk s k with stage := .ended 0x0C })
    else if (unitOps s (blkUnit k)).length ≥ 64 then stall s
    else if !after.isEmpty then advance (issueOp s { mk s k with stage := .sent, after := after ++ earlierColls s k })
    else advance (claimOp s (64 + blkUnit k) (ownedBy s a (blockDests s k)) fun t => { mk t k with after := earlierColls s k })

/-- SKCMD (R288). -/
def skcmd (f : SkForm) (a b t : BitVec 6) (s : State) : State :=
  let ctl := sreg s b
  let addr := sreg s a
  let bar := f = .bb
  if bitsOf ctl 63 (if bar then 33 else 32) ≠ 0 then scalarTrap s 0x01 ctl
  else if f ≠ .cw && badTarget s.crew bar t.toNat then scalarTrap s 0x01 (zext64 t)
  else if addr.toNat % 64 ≠ 0 then scalarTrap s 0x0D addr
  else if !engineReady s (if f = .tag then some t.toNat else none) then stall s
  else
    scalarAcc s addr (checkedRuns loadErr s 0 .load addr 64) (loadAt s 0 addr 64) fun r =>
      issueSkcmd r.2 addr ctl (if f = .cw then .word else opTarget s.crew bar t.toNat (bitAt ctl 32)) r.1

/-- SKCMD to a tag (R288). -/
def execSkcmdTag (a b t : BitVec 6) (s : State) : Out := .next (skcmd .tag a b t s)
/-- SKCMD to a byte barrier (R288). -/
def execSkcmdBb (a b t : BitVec 6) (s : State) : Out := .next (skcmd .bb a b t s)
/-- SKCMD with only the completion word (R288, R289). -/
def execSkcmdCw (a b : BitVec 6) (s : State) : Out := .next (skcmd .cw a b 0 s)

/-! ### A command's accesses -/

/-- A command that waited for others takes its destination over (R114, R376). -/
def startOrdered (s : State) (o : EngOp) (b : List Byte) : State :=
  let c := claimRuns s (64 + blkUnit b) o.core o.grp.group (ownedBy s (opActor o) (blockDests s b))
  putOp c.2 { o with stage := .issued, owned := c.1 }

/-- Some bytes are among those an operation has lost, or added to already. -/
def pieceGone (o : EngOp) (pa n : Nat) : Bool := o.lost.any fun l => l.1 ≤ pa && pa + n ≤ l.1 + l.2

/-- A command that adds to its destination: SADD, and GRED with ACC = 1 (R393). -/
def addsTo (b : List Byte) : Bool := blkOp b = 4 || blkAcc b

/-- A piece of the destination has its turn: every operation in flight that took the piece over before has written it, or has lost it
to a later one (R102, R393). -/
def pieceTurn (s : State) (o : EngOp) (z : Own) : Bool :=
  s.ops.all fun y => y.id = o.id || y.owned.all fun x =>
    !(x.slot.isNone && x.pa < z.pa + z.len && z.pa < x.pa + x.len && x.seq < z.seq) || pieceGone y x.pa x.len

/-- The pieces of the destination that the operation has still to write, and whose turn has come. -/
def piecesDue (s : State) (o : EngOp) : List Own := o.owned.filter fun z => !pieceGone o z.pa z.len && pieceTurn s o z

/-- The command may start: it waits for nothing, and its destination has been taken over (R114, R346, R376). -/
def cmdReady (o : EngOp) (op : Nat) (b : List Byte) : Bool := o.stage = .issued && blkOp b = op && o.after.isEmpty && ownsAll o

/-- Run f for a command that adds: on the pieces whose turn has come; the command ends when it has added to every piece, or with an error
(R393, log 101). -/
def addInTurn (s : State) (o : EngOp) (b : List Byte) (f : State → EngOp → List Byte → Byte × State) : State :=
  let due := piecesDue s o
  let rest := o.owned.filter fun z => !pieceGone o z.pa z.len && !due.contains z
  let r := f s { o with lost := o.lost ++ rest.map fun z => (z.pa, z.len) } b
  if r.1 ≠ 0 || rest.isEmpty then endOp r.2 o r.1
  else if due.isEmpty then s
  else { r.2 with ops := r.2.ops.map fun x => if x.id = o.id then { x with lost := x.lost ++ due.map fun z => (z.pa, z.len) } else x }

/-- Run a command of an OP, if that is what the operation is and it may start; it ends with the status it answers. -/
def runCmd (id op : Nat) (f : State → EngOp → List Byte → Byte × State) (s : State) : Out :=
  match findOp s id with
  | some o =>
    match o.kind with
    | .skcmd b _ _ =>
      if o.stage = .sent && blkOp b = op && o.after.isEmpty then .next (startOrdered s o b)
      else if !cmdReady o op b then .next s
      else if addsTo b then .next (addInTurn s o b f)
      else .next (endOp (f s o b).2 o (f s o b).1)
    | _ => .next s
  | none => .next s

/-- A source that cannot be read: the host's link is down, or poison (R265, R398). -/
def sourceBad (s : State) (rs : List Run) : Option Byte :=
  if !s.linkUp && rs.any fun r => r.place = .host then some 0x08
  else if (firstErr (loadErr s) rs).isSome then some 0x04
  else none

/-- A whole source range: its bytes, each a value held since issue, or the status that refuses it. -/
def cmdSource (s : State) (o : EngOp) (va n : Nat) : Except Byte (List Byte) :=
  match engineRuns s (opActor o) .load (BitVec.ofNat 64 va) n with
  | .error st => .error st
  | .ok rs =>
    match sourceBad s rs with
    | some st => .error st
    | none => .ok (engineRead s o.mark rs)

/-- The page checks of a range: the status that refuses it (R266). -/
def pagesBad (s : State) (o : EngOp) (k : Access) (va n : Nat) : Option Byte :=
  match engineRuns s (opActor o) k (BitVec.ofNat 64 va) n with
  | .error st => some st
  | .ok _ => none

/-- Write one destination line, for an operation or for hardware that has none, or the status of a failure at it. -/
def cmdLine (a : Actor) (o : Option EngOp) (s : State) (dst : W64) (bs : List Byte) : Except Byte State :=
  match engineRuns s a .store dst bs.length with
  | .error st => .error st
  | .ok ds =>
    if !s.linkUp && ds.any (fun r => r.place = .host) then .error 0x08
    else if (firstErr (storeErr s) ds).isSome then .error 0x04
    else .ok (engineWrite (touchRuns s a .store dst ds) o ds bs)

/-- Write lines in order; at a failure that line and those after it are not written (R266). -/
def cmdLines (a : Actor) (o : Option EngOp) (s : State) : List CopyRow → List Byte → Byte × State
  | [], _ => (0, s)
  | c :: cs, bs =>
    match cmdLine a o s c.dst (bs.take c.len) with
    | .error st => (st, s)
    | .ok s1 => cmdLines a o s1 cs (bs.drop c.len)

/-- Write bytes at an address line by line. -/
def actorWrite (s : State) (a : Actor) (o : Option EngOp) (va : Nat) (bs : List Byte) : Byte × State :=
  cmdLines a o s (cutRow (bs.length / 128 + 2) 0 (BitVec.ofNat 64 va) bs.length) bs

/-- Write bytes at an address as a command. -/
def cmdWrite (s : State) (o : EngOp) (va : Nat) (bs : List Byte) : Byte × State := actorWrite s (opActor o) (some o) va bs

/-! ### ZERO and COPY (R380) -/

/-- ZERO. -/
def runZero (s : State) (o : EngOp) (b : List Byte) : Byte × State :=
  match pagesBad s o .store (blkA b) (blkCount b) with
  | some st => (st, s)
  | none => cmdWrite s o (blkA b) (List.replicate (blkCount b) 0)

/-- LOAM_ZERO (R380). -/
def execLoamZero (id : Nat) (s : State) : Out := runCmd id 1 runZero s

/-- COPY: the effect of CPY. -/
def runCopy (s : State) (o : EngOp) (b : List Byte) : Byte × State :=
  copyRows s (opActor o) (some o) o.mark
    [{ src := BitVec.ofNat 64 (blkB b), dst := BitVec.ofNat 64 (blkA b), len := blkCount b }]

/-- LOAM_COPY (R380). -/
def execLoamCopy (id : Nat) (s : State) : Out := runCmd id 2 runCopy s

/-! ### GRED and SADD (R379, R381, R382) -/

/-- Element bytes of a DTYPE. -/
def dtypeBytes (t : Nat) : Nat := if t = 9 then 2 else 4

/-- The elements of a row as numbers. -/
def rowElems (t : Nat) (bs : List Byte) : List Nat :=
  (List.range (bs.length / dtypeBytes t)).map fun i => areaNat bs (dtypeBytes t * i) (dtypeBytes t)

/-- An element as the accumulation holds it: bf16 widened to FP32 (R381). -/
def widenElem (t x : Nat) : Nat := if t = 9 then x * 65536 else x

/-- add of R381. -/
def redAdd (t x y : Nat) : Nat := if t = 4 then (x + y) % 2 ^ 32 else f32Sum x y

/-- final of R381. -/
def redFinal (t x : Nat) : Nat := if t = 9 then (roundTo 0 fmtBf16 .rne 0 (decodeNum fmtF32 x)).1 else x

/-- Elements as bytes. -/
def elemsBytes (t : Nat) (l : List Nat) : List Byte := l.flatMap fun x => leBytes x (dtypeBytes t)

/-- The index array (R378). -/
def indexList (bs : List Byte) : List Nat := (List.range (bs.length / 4)).map fun i => areaNat bs (4 * i) 4

/-- The index array read and checked before any destination byte is written; `pages`: the status of a failing page. When an
index and a page both fail either status is allowed (R266, R379). -/
def checkedIndexes (s : State) (o : EngOp) (b : List Byte) (n : Nat) (pages : List Nat → Option Byte) :
    Except Byte (List Nat) :=
  match cmdSource s o (blkC b) (4 * n) with
  | .error st => .error st
  | .ok bs =>
    let idx := indexList bs
    let page := pages (idx.filter fun i => decide (i < blkE b))
    if idx.any fun i => blkE b ≤ i then
      .error (match page with
        | some st => if Config.choice s.ctr 2 then st else 0x05
        | none => 0x05)
    else
      match page with
      | some st => .error st
      | none => .ok idx

/-- Virtual ranges given by numbers share an address. -/
def spansMeet (a n b m : Nat) : Bool := rangesMeet (BitVec.ofNat 64 a) n (BitVec.ofNat 64 b) m

/-- One output row of GRED (R381). -/
def gredRow (t : Nat) (acc : List Nat) (rows : List (List Nat)) : List Nat :=
  (rows.foldl (fun acc r => acc.zipWith (redAdd t) (r.map (widenElem t))) acc).map (redFinal t)

/-- The bytes now at a range a command adds to, or the status that refuses them. -/
def ownedSource (s : State) (o : EngOp) (va n : Nat) : Except Byte (List Byte) :=
  match engineRuns s (opActor o) .load (BitVec.ofNat 64 va) n with
  | .error st => .error st
  | .ok rs =>
    match sourceBad s rs with
    | some st => .error st
    | none => .ok (readRuns s rs)

/-- Read the sources of output row i of GRED and sum: the bytes written, or a status. A row it adds to is its own (R114, R381, R393). -/
def gredData (s : State) (o : EngOp) (b : List Byte) (idx : List Nat) (i : Nat) : Except Byte (List Byte) := do
  let t := blkType b
  let start ← if blkAcc b then
      (ownedSource s o (blkA b + i * blkD b) (blkD b)).map fun bs => (rowElems t bs).map (widenElem t)
    else .ok (List.replicate (blkD b / dtypeBytes t) 0)
  let rows ← ((idx.drop (i * blkBag b)).take (blkBag b)).mapM fun j =>
    (cmdSource s o (blkB b + j * blkD b) (blkD b)).map (rowElems t)
  .ok (elemsBytes t (gredRow t start rows))

/-- GRED's output rows, one after another; those before a row that fails stand (R266, R381). -/
def gredRows (s : State) (o : EngOp) (b : List Byte) (idx : List Nat) : List Nat → Byte × State
  | [] => (0, s)
  | i :: rest =>
    match gredData s o b idx i with
    | .error st => (st, s)
    | .ok bs =>
      match cmdWrite s o (blkA b + i * blkD b) bs with
      | (0, s1) => gredRows s1 o b idx rest
      | r => r

/-- A state with the walks of an index array, and of what else the command reads (R88). -/
def readIndexes (s : State) (o : EngOp) (b : List Byte) (n : Nat) : State := readMarks s (opActor o) [(BitVec.ofNat 64 (blkC b), 4 * n)]

/-- GRED. -/
def runGred (s : State) (o : EngOp) (b : List Byte) : Byte × State :=
  let n := blkCount b * blkD b
  if spansMeet (blkA b) n (blkB b) (blkE b * blkD b) || spansMeet (blkA b) n (blkC b) (4 * blkCount b * blkBag b) then (5, s)
  else
    let pages (idx : List Nat) : Option Byte :=
      (pagesBad s o .store (blkA b) n).or ((if blkAcc b then pagesBad s o .load (blkA b) n else none).or
        (idx.findSome? fun i => pagesBad s o .load (blkB b + i * blkD b) (blkD b)))
    let s1 := readIndexes s o b (blkCount b * blkBag b)
    match checkedIndexes s o b (blkCount b * blkBag b) pages with
    | .error st => (st, s1)
    | .ok idx =>
      gredRows (readMarks s1 (opActor o) (idx.map fun i => (BitVec.ofNat 64 (blkB b + i * blkD b), blkD b))) o b idx
        (List.range (blkCount b))

/-- GRED (R381). -/
def execGred (id : Nat) (s : State) : Out := runCmd id 3 runGred s

/-- One order of a list, by free choices. -/
def someOrder {α : Type} (seed : Nat) : Nat → List α → List α
  | 0, _ => []
  | n + 1, l =>
    match l[Config.pick (seed + n) l.length % l.length]? with
    | none => []
    | some x => x :: someOrder seed n (l.eraseIdx (Config.pick (seed + n) l.length % l.length))

/-- One element update of SADD (R382). -/
def saddElem (t x y : Nat) : Nat := if t = 9 then halfSum 0 fmtBf16 x y else redAdd t x y

/-- A table row after its updates, in the order given (R382). -/
def saddRow (t : Nat) (row : List Nat) (ups : List (List Nat)) : List Nat := ups.foldl (fun r u => r.zipWith (saddElem t) u) row

/-- Update the table rows one after another; `order` is the order of the source rows. -/
def saddRows (s : State) (o : EngOp) (b : List Byte) (src : List Byte) (idx order : List Nat) : List Nat → Byte × State
  | [] => (0, s)
  | i :: rest =>
    let t := blkType b
    match engineRuns s (opActor o) .store (BitVec.ofNat 64 (blkA b + i * blkD b)) (blkD b) with
    | .error st => (st, s)
    | .ok rs =>
      match sourceBad s rs with
      | some st => (st, s)
      | none =>
        let ups := (order.filter fun j => nth idx j 0 = i).map fun j => rowElems t ((src.drop (j * blkD b)).take (blkD b))
        let new := elemsBytes t (saddRow t (rowElems t (readRuns s rs)) ups)
        match cmdWrite s o (blkA b + i * blkD b) new with
        | (0, s1) => saddRows s1 o b src idx order rest
        | r => r

/-- SADD. -/
def runSadd (s : State) (o : EngOp) (b : List Byte) : Byte × State :=
  let tbl := blkE b * blkD b
  let n := blkCount b * blkD b
  if spansMeet (blkA b) tbl (blkB b) n || spansMeet (blkA b) tbl (blkC b) (4 * blkCount b) then (5, s)
  else
    let pages (idx : List Nat) : Option Byte :=
      (pagesBad s o .load (blkB b) n).or (idx.findSome? fun i =>
        (pagesBad s o .load (blkA b + i * blkD b) (blkD b)).or (pagesBad s o .store (blkA b + i * blkD b) (blkD b)))
    let s1 := readIndexes s o b (blkCount b)
    match checkedIndexes s o b (blkCount b) pages with
    | .error st => (st, s1)
    | .ok idx =>
      match cmdSource s o (blkB b) n with
      | .error st => (st, s1)
      | .ok src =>
        saddRows (readMarks s1 (opActor o) [(BitVec.ofNat 64 (blkB b), n)]) o b src idx
          (someOrder o.id (blkCount b) (List.range (blkCount b))) idx.eraseDups

/-- SADD (R382). -/
def execSadd (id : Nat) (s : State) : Out := runCmd id 4 runSadd s

/-! ### Collectives (R384 to R387) -/

/-- The kind of a COLL. -/
def collKind (b : List Byte) : Nat := natBits (blkB b) 25 24
/-- A register that a COLL uses: number i of those kept behind the block of one that runs, else the unit's (R391). -/
def collReg (s : State) (b : List Byte) (i off : Nat) : W64 :=
  if 64 < b.length then BitVec.ofNat 64 (blockField b (575 + 64 * i) (512 + 64 * i)) else loamRaw s (blkUnit b) off

/-- The group's register. -/
def collGroup (s : State) (b : List Byte) : W64 := collReg s b 0 (0x1000 + 0x100 * (blkB b % 16))
/-- The buffer's base. -/
def collBase (s : State) (b : List Byte) : Nat := (collReg s b 1 (0x4000 + 16 * natBits (blkB b) 23 8)).toNat
/-- The buffer's control register. -/
def collBuf (s : State) (b : List Byte) : W64 := collReg s b 2 (0x4008 + 16 * natBits (blkB b) 23 8)
/-- Members. -/
def collM (s : State) (b : List Byte) : Nat := bitsOf (collGroup s b) 6 0
/-- This device's rank. -/
def collRank (s : State) (b : List Byte) : Nat := bitsOf (collGroup s b) 13 8
/-- The bytes the buffer must hold (R386). -/
def collNeed (s : State) (b : List Byte) : Nat := if collKind b = 0 then blkCount b else collM s b * blkCount b

/-- The command ends with 0x05: its target, group, buffer or length (R384, R386). -/
def collBad (s : State) (o : EngOp) (b : List Byte) : Bool :=
  (match o.target with | .bar _ _ => false | _ => true)
    || natBits (blkB b) 7 0 ≥ 16 || natBits (blkB b) 23 8 ≥ 64 || !bitAt (collGroup s b) 63
    || !bitAt (collBuf s b) 63 || bitsOf (collBuf s b) 47 32 ≠ o.asid.toNat || collM s b < 2 || collM s b > 64
    || collM s b ≤ collRank s b || bitsOf (collBuf s b) 31 0 < collNeed s b

/-- The block of a COLL with the registrations it uses behind it: changing them is for the next collective (R391). -/
def keepRegs (s : State) (b : List Byte) : List Byte :=
  b ++ leBytes (collGroup s b).toNat 8 ++ leBytes (collBase s b) 8 ++ leBytes (collBuf s b).toNat 8

/-- The pieces an operation has claimed are those of some ranges. -/
def claimedAs (o : EngOp) (l : List (Nat × Nat)) : Bool := o.owned.map (fun x => (x.pa, x.len)) = (claimRuns State.reset 0 0 0 l).1.map fun x => (x.pa, x.len)

/-- The unit accepts a COLL, which then waits for its set; its timeout starts and its registrations are fixed. It keeps the buffer's lines
it took over at issue, unless the buffer has been registered anew since (R385, R387, R391). -/
def acceptColl (s : State) (o : EngOp) (b : List Byte) (cw : W64) (q : W32) : State :=
  let us := bitsOf (collGroup s b) 62 32
  let own := ownedBy s (opActor o) (blockDests s b)
  let c := if claimedAs o own then (o.owned, s) else claimRuns s (64 + blkUnit b) o.core o.grp.group own
  putOp c.2 { o with
    stage := .running, kind := .skcmd (keepRegs s b) cw q, count := blockBytes (collM s b) b, owned := c.1
    expiry := if us = 0 then 0 else s.time + us * 1000 }

/-- COLL (R385). -/
def execColl (id : Nat) (s : State) : Out :=
  match findOp s id with
  | some o =>
    match o.kind with
    | .skcmd b cw q =>
      if o.stage = .sent && blkOp b = 5 && o.after.isEmpty then .next (startOrdered s o b)
      else if !cmdReady o 5 b then .next s
      else if collBad s o b then .next (endOp s o 0x05)
      else .next (acceptColl s o b cw q)
    | _ => .next s
  | none => .next s

/-- The sum of some values in some grouping, by free choices (R386). -/
def someSum (add : Nat → Nat → Nat) (seed : Nat) : Nat → List Nat → Nat
  | 0, l => l.headD 0
  | n + 1, l =>
    match someOrder (seed + 64 * n) 2 l with
    | [x, y] => someSum add seed n (add x y :: (l.erase x).erase y)
    | _ => l.headD 0

/-- The element-wise sum of the members' sections (R386). -/
def collSum (seed t : Nat) (ms : List (List Byte)) : List Byte :=
  let rows := ms.map fun m => (rowElems t m).map (widenElem t)
  elemsBytes t ((List.range ((rows.headD []).length)).map fun e =>
    redFinal t (someSum (redAdd t) (seed + 8192 * e) (ms.length - 1) (rows.map fun r => nth r e 0)))

/-- The sections of the buffer that a collective writes: place and length (R386). -/
def collPieces (s : State) (b : List Byte) : List (Nat × Nat) :=
  let n := blkCount b
  let r := collRank s b
  match collKind b with
  | 0 => [(0, n)]
  | 1 => [(0, r * n), ((r + 1) * n, (collM s b - 1 - r) * n)]
  | _ => [(r * n, n)]

/-- The part of the buffer that a collective reads. -/
def collInput (s : State) (b : List Byte) : Nat × Nat :=
  match collKind b with
  | 0 => (0, blkCount b)
  | 1 => (collRank s b * blkCount b, blkCount b)
  | _ => (0, collM s b * blkCount b)

/-- What a collective writes, section by section, from what the members hand in (R386). -/
def collResult (s : State) (b : List Byte) (ms : List (List Byte)) : List (List Byte) :=
  let n := blkCount b
  let r := collRank s b
  match collKind b with
  | 0 => [collSum s.ctr (blkType b) ms]
  | 1 => [(ms.take r).flatten, (ms.drop (r + 1)).flatten]
  | _ => [collSum s.ctr (blkType b) (ms.map fun m => (m.drop (r * n)).take n)]

/-- A member's command belongs to the set of this one: the same EPOCH, with the bytes that its own kind and count call for (R385). -/
def inSet (s : State) (b : List Byte) (m : CollIn) : Bool :=
  m.epoch = blkA b && m.data.length = (if m.kind = 2 then collM s b * m.count else m.count)

/-- Every other member of the set has issued: what other devices hand in is the event's argument (R385). -/
def setThere (s : State) (b : List Byte) (inp : List CollIn) : Bool :=
  inp.length = collM s b && (List.range inp.length).all fun q =>
    q = collRank s b || (match inp[q]? with
      | some m => inSet s b m
      | none => false)

/-- The members agree in KIND, COUNT and DTYPE (R385). -/
def setAgrees (s : State) (b : List Byte) (inp : List CollIn) : Bool :=
  (List.range inp.length).all fun q => q = collRank s b || (match inp[q]? with
    | some m => m.kind = collKind b && m.count = blkCount b && m.dtype = blkType b
    | none => false)

/-- The unit's stack port carries nothing: its link is down or its light path open (R385, R408, R415). -/
def collCut (s : State) (b : List Byte) : Bool := 2 ≤ mgmtField s (portOff (16 + blkUnit b) 0) 63 62

/-- Write sections one after another. -/
def collWrite (o : EngOp) (base : Nat) : State → List ((Nat × Nat) × List Byte) → Byte × State
  | s, [] => (0, s)
  | s, x :: r =>
    match cmdWrite s o (base + x.1.1) x.2 with
    | (0, s1) => collWrite o base s1 r
    | e => e

/-- A run that fails on its way: each destination line has been written or not, by a free choice (R385). -/
def collSome (o : EngOp) (base : Nat) (s : State) (l : List ((Nat × Nat) × List Byte)) : State :=
  l.foldl (fun s x =>
    (cutRow (x.2.length / 128 + 2) 0 (BitVec.ofNat 64 (base + x.1.1)) x.2.length).foldl (fun t c =>
      let i := c.dst.toNat - (base + x.1.1)
      if Config.choice s.ctr c.dst.toNat then
        match cmdLine (opActor o) (some o) t c.dst ((x.2.drop i).take c.len) with
        | .ok u => u
        | .error _ => t
      else t) s) s

/-- A matched set runs, to its end or to a failure on the way (R385, R386). -/
def runColl (s : State) (o : EngOp) (b : List Byte) (run : CollRun) : Byte × State :=
  let base := collBase s b
  let src := collInput s b
  if collCut s b || !setThere s b run.inp || !setAgrees s b run.inp then (0x0B, s)
  else
    match (collPieces s b).findSome? fun p => pagesBad s o .store (base + p.1) p.2 with
    | some st => (st, s)
    | none =>
      match cmdSource s o (base + src.1) src.2 with
      | .error st => (st, s)
      | .ok mine =>
        let parts := (collPieces s b).zip (collResult s b ((run.inp.map (·.data)).set (collRank s b) mine))
        let s1 := readMarks s (opActor o) [(BitVec.ofNat 64 (base + src.1), src.2)]
        if run.fails then (0x0B, collSome o base s1 parts) else collWrite o base s1 parts

/-- COLLECTIVE_RUN: the set is there, or the unit's link is lost, or a member is lost before it has issued; the set runs, or fails on its
way (R385). -/
def execCollectiveRun (id : Nat) (run : CollRun) (s : State) : Out :=
  match findOp s id with
  | some o =>
    match o.kind with
    | .skcmd b _ _ =>
      if o.stage = .running && ownsAll o && (collCut s b || (mgmtField s (portOff (16 + blkUnit b) 0) 63 62 = 0 && (run.fails || setThere s b run.inp))) then
        .next (endOp (runColl s o b run).2 o (runColl s o b run).1)
      else .next s
    | _ => .next s
  | none => .next s

/-- COLLECTIVE_TIMEOUT (R385). -/
def execCollectiveTimeout (id : Nat) (s : State) : Out :=
  match findOp s id with
  | some o =>
    if o.stage = .running && o.expiry ≠ 0 && o.expiry ≤ s.time then .next (endOp s o 0x0B) else .next s
  | none => .next s

/-! ### Migration (R93, R94, R388 to R390) -/

/-- The frame ring is empty (R389). -/
def ringEmpty (s : State) (st k : Nat) : Bool := ringReg s st k 2 = ringReg s st k 3

/-- The frame at TAKE (R389). -/
def ringFrame (s : State) (st k : Nat) : Nat :=
  physNat s ((ringReg s st k 0).toNat + 8 * ((ringReg s st k 3).toNat % max 1 (ringReg s st k 1).toNat)) 8

/-- A frame goes back to a ring, or is kept while the ring is full (R389). -/
def giveFrame (s : State) (st k frame : Nat) : State :=
  if ringFull s st k then { s with ringKept := s.ringKept ++ [(st, k, frame)] } else ringPush s st k frame

/-- The entry of a ring at PUT. -/
def ringPlace (s : State) (st k : Nat) : Nat × Nat :=
  ((ringReg s st k 0).toNat + 8 * ((ringReg s st k 2).toNat % max 1 (ringReg s st k 1).toNat), 8)

/-- A unit has a move under way (one at a time: DESIGN CHOICE, log 111). -/
def moving (s : State) (st : Nat) : Bool := s.ops.any fun o => o.move.isSome && opUnit o = some st

/-- The unit starts no move: its log is full or off, it keeps a frame, or one is under way (R389 to R391). -/
def moveBlocked (s : State) (st : Nat) : Bool :=
  loamRaw s st 0x110 = 0 || (loamRaw s st 0x118 - loamRaw s st 0x120 = loamRaw s st 0x110) || (s.ringKept.any fun r => r.1 = st)
    || moving s st

/-- The place of the next record (R390). -/
def logPlace (s : State) (st : Nat) : Nat :=
  (loamRaw s st 0x108).toNat + 64 * ((loamRaw s st 0x118).toNat % max 1 (loamRaw s st 0x110).toNat)

/-- Append a record, its SEQ last (R390). -/
def logMove (s : State) (st dir cause : Nat) (status : Byte) (new old : Nat) (asid : BitVec 16) (va : W64) : State :=
  let seq := loamRaw s st 0x118
  let body := new <<< 192 + old <<< 128 + asid.toNat <<< 112 + bitsOf va 47 12 <<< 64 + (s.time % 2 ^ 64) <<< 256
    + status.toNat <<< 320 + cause <<< 328 + dir <<< 329
  let pa := logPlace s st
  let s1 := memWrite s (pa + 8) ((leBytes body 64).drop 8)
  loamPut (memWrite s1 pa (leBytes seq.toNat 8)) st 0x118 (seq + 1)

/-- Why a frame cannot be moved from or to; the frame of a far page has four homes, one for each of its KiB (R79, R94). -/
def frameBad (s : State) (pa : Nat) : Option Byte :=
  let lost := poisoned s pa 4096 || (List.range 4).any fun i => homeDead s (pa + 1024 * i)
  match placeOf pa 4096 with
  | some (.stacked st d) => if !domainOn s st d then some 0x03 else if lost then some 0x04 else none
  | some .far => if lost then some 0x04 else none
  | _ => some 0x02

/-- Cached translations of a page are used no longer: until the invalidation is acknowledged the words of both frames are owned, so that no
access could go by one (R89, R90, R93). -/
def dropPage (s : State) (asid : BitVec 16) (va : W64) : State :=
  { s with tlb := s.tlb.filter fun t =>
      !((t.asid = asid || bitAt t.entry 6) && t.vbase ≤ natBits va.toNat 47 0 && natBits va.toNat 47 0 < t.vbase + t.size) }

/-- The leaf with its new frame and tier (R93 step 3). -/
def movedLeaf (e : W64) (frame tier : Nat) : W64 := setBits (setBits e 51 12 (frame / 4096)) 10 9 tier

/-- An address of the old frame in the new one. -/
def movedPa (old new pa : Nat) : Nat := if pa / 4096 = old / 4096 then new + pa % 4096 else pa

/-- The history of a frame goes with its page; what the new frame held before is no value of the page. -/
def movedHist (old new : Nat) (h : Nat × List Byte) : Nat × List Byte :=
  if h.1 / 4096 = new / 4096 then (h.1, []) else (movedPa old new h.1, h.2)

/-- The lines of another operation in the page are its own in the new frame, taken over when they were in the old one (R93, R114). -/
def movedOwn (old new : Nat) (x : Own) : Own := { x with pa := movedPa old new x.pa }

/-- The lines of an operation follow the page, but for those of the move itself. -/
def movedOp (id old new : Nat) (o : EngOp) : EngOp :=
  if o.id = id then o
  else { o with owned := o.owned.map (movedOwn old new), lost := o.lost.map fun l => (movedPa old new l.1, l.2) }

/-- A waiting full/empty operation waits for the word in the new frame. -/
def movedWait (old new : Nat) (g : Group) : Group :=
  { g with feWait := g.feWait.map fun w => { w with left := w.left.map fun x => { x with word := movedPa old new x.word } } }

/-- The contents of a page in a new frame: its bytes and their history, its full/empty bits, the lines operations own in it (R93 step
2). -/
def copyPage (s : State) (id old new : Nat) : State :=
  { s with
    mem := memPut s.revived s.mem new (memRead s old 4096)
    hist := s.hist.map (movedHist old new)
    fe := (List.range 1024).foldl (fun l i => if setHas s.fe (old + 4 * i) then setAdd (setDel l (old + 4 * i)) (new + 4 * i)
      else setDel l (new + 4 * i)) s.fe
    ops := s.ops.map (movedOp id old new)
    cur := movedWait old new s.cur
    groups := s.groups.map (movedWait old new) }

/-- The leaf is a 4 KiB page in stacked or far memory with M = 1 (R388). -/
def movable (l : Leaf) : Bool := l.level = 0 && bitAt l.entry 11 && bitsOf l.entry 10 9 ≤ 1

/-- Something has still to reach the old frame: a tile store through the translation that the move removes, or an operation that took a
line of it over before the move did, or has asked for one (R91, R93, R393). -/
def pageBusy (s : State) (o : EngOp) (old : Nat) : Bool :=
  ((allGroups s).any fun g => g.outs.any fun x =>
    match x.act with
    | .accst _ dst => dst.any fun d => d.2.1 / 4096 = old / 4096
    | _ => false)
  || s.ops.any fun y => y.id ≠ o.id && y.owned.any fun x =>
      x.pa / 4096 = old / 4096 && (x.slot.isSome || decide (x.seq < ownSeq o x.pa))

/-- The address, tier and cause of the page a move is asked for. -/
def moveVa (b : List Byte) : W64 := BitVec.ofNat 64 (blkA b)
def moveTier (b : List Byte) : Nat := blkB b % 2
def moveCause (o : EngOp) : Nat :=
  match o.kind with
  | .heat _ => 1
  | _ => 0

/-- What MIG does before it moves anything: it ends with a status, or it waits, or the move begins with the leaf (R86, R91, R264, R388,
R390). -/
inductive MoveStart where
  | ends (st : Byte)
  | waits
  | begins (l : Leaf)
  deriving DecidableEq, Repr

/-- MIG's checks; a page that the issuing group may not reach moves nothing. -/
def moveStart (s : State) (o : EngOp) (b : List Byte) : MoveStart :=
  match walk s o.ptbase (moveVa b) with
  | .error e => .ends (errStatus e)
  | .ok l =>
    if !o.priv && !bitAt l.entry 5 then .ends 0x01
    else if !movable l then .ends 0x05
    else if bitsOf l.entry 10 9 = moveTier b then .ends 0
    else if ringEmpty s (blkUnit b) (moveTier b) then .ends 0x05
    else if moveBlocked s (blkUnit b) then .waits
    else .begins l

/-- A move begins: the frame at TAKE is taken, and the unit takes the words of both frames over, line by line, by INV; a frame that cannot
be used abandons the move (R93 step 1, R94, R346, R389). -/
def beginMove (s : State) (o : EngOp) (b : List Byte) (l : Leaf) : State :=
  let st := blkUnit b
  let old := bitsOf l.entry 51 12 * 4096
  let new := ringFrame s st (moveTier b)
  let s1 := loamPut s st (0x140 + 32 * moveTier b + 24) (ringReg s st (moveTier b) 3 + 1)
  let m : Move := { tier := moveTier b, old := old, new := new, at_ := l.at_, phase := .claims }
  match (frameBad s old).or (frameBad s new) with
  | some e => putOp s1 { o with stage := .running, move := some { m with phase := .logs e } }
  | none =>
    let c := claimRuns s1 (64 + st) 0 0 [(old, 4096), (new, 4096)]
    putOp c.2 { o with stage := .running, owned := c.1, move := some m }

/-- The leaf in memory is still one of the page in its old frame. -/
def leafStands (s : State) (m : Move) : Bool :=
  let e : W64 := BitVec.ofNat 64 (leValue (memRead s m.at_ 8))
  leafValid e 0 && bitAt e 11 && bitsOf e 51 12 * 4096 = m.old

/-- The frames are the unit's: the page is copied, its leaf rewritten, and the old translation invalidated; where a frame has failed since,
or the leaf is another's by now, the move is abandoned (R93 steps 2 to 4, R94, log 111). -/
def commitMove (s : State) (o : EngOp) (b : List Byte) (m : Move) : State :=
  let abandon (e : Byte) : State := putOp s { o with owned := [], move := some { m with phase := .logs e } }
  match (frameBad s m.old).or (frameBad s m.new) with
  | some e => abandon e
  | none =>
    if !leafStands s m then abandon 0x05
    else if pageBusy s o m.old then s
    else
      let e : W64 := BitVec.ofNat 64 (leValue (memRead s m.at_ 8))
      let s1 := copyPage s o.id m.old m.new
      let s2 := dropPage (memWrite s1 m.at_ (leBytes (movedLeaf e m.new m.tier).toNat 8)) o.asid (moveVa b)
      let s3 := postInval s2 (64 + blkUnit b) o.grp (some o.asid) (natBits (blkA b) 47 12) 1
      whenReady s [(m.at_, 8)] (putOp s3 { o with move := some { m with phase := .invalidates s2.nextId } })

/-- Every holder has acknowledged: ownership is released, and the old frame goes to the ring of the tier it leaves (R93 step 5, R389). -/
def releaseMove (s : State) (o : EngOp) (b : List Byte) (m : Move) (id : Nat) : State :=
  if s.invals.any fun i => i.id = id && !i.waiting.isEmpty then s
  else
    let s1 := { s with invals := s.invals.filter fun i => i.id ≠ id }
    whenReady s [ringPlace s (blkUnit b) (1 - m.tier)] (giveFrame
      (putOp s1 { o with owned := [], move := some { m with phase := .logs 0 } }) (blkUnit b) (1 - m.tier) m.old)

/-- The record is appended, and the operation ends; an abandoned move gives its frame back (R93 step 6, R94, R389, R390). -/
def recordMove (s : State) (o : EngOp) (b : List Byte) (m : Move) (e : Byte) : State :=
  let st := blkUnit b
  let places := if e = 0 then [(logPlace s st, 64)] else [(logPlace s st, 64), ringPlace s st m.tier]
  let s1 := if e = 0 then s else giveFrame s st m.tier m.new
  let s2 := logMove s1 st m.tier (moveCause o) e (if e = 0 then m.new else 0) m.old o.asid (moveVa b)
  whenReady s places (endOp s2 o e)

/-- The next step of a move. -/
def stepMove (s : State) (o : EngOp) (b : List Byte) (m : Move) : State :=
  match m.phase with
  | .claims => if ownsAll o then commitMove s o b m else s
  | .invalidates id => releaseMove s o b m id
  | .logs e => recordMove s o b m e

/-- MIG, or a move of the unit's own, goes on (R93, R388). -/
def migrate (s : State) (o : EngOp) (b : List Byte) : State :=
  match o.move with
  | some m => if o.stage = .running then stepMove s o b m else s
  | none =>
    if o.stage = .sent && blkOp b = 6 && o.after.isEmpty then startOrdered s o b
    else if !cmdReady o 6 b then s
    else
      match moveStart s o b with
      | .ends st => endOp s o st
      | .waits => s
      | .begins l => beginMove s o b l

/-- MIG (R388). -/
def execMig (id : Nat) (s : State) : Out :=
  match findOp s id with
  | some o =>
    match o.kind with
    | .skcmd b _ _ | .heat b => .next (migrate s o b)
    | _ => .next s
  | none => .next s

/-- HEAT (R391). -/
def heatLimit (s : State) (st : Nat) : Nat := bitsOf (loamRaw s st 0x100) 47 16

/-- The device's own agent: no group's (R95). -/
def deviceKey : GKey := { noGroupKey with crew := 1 }

/-- The MIG block that would ask for a page. -/
def heatBlock (st tier : Nat) (va : W64) : List Byte :=
  leBytes (6 + 256 * st) 8 ++ leBytes va.toNat 8 ++ leBytes tier 8 ++ leBytes 0 40

/-- One page homed at the stack whose accesses have reached HEAT is to move to the other tier: a move of the unit's own (R388). -/
def heatPage (st : Nat) (s : State) (p : HeatPage) : State :=
  match walk s p.ptbase p.va with
  | .error _ => s
  | .ok l =>
    if movable l && homeStack (bitsOf l.entry 51 12 * 4096) = some st && heatLimit s st ≤ heatOf s (bitsOf l.entry 51 12) then
      { s with
        nextId := s.nextId + 1
        ops := s.ops ++ [{ newOp s (.heat (heatBlock st (1 - bitsOf l.entry 10 9) p.va)) .word with
          grp := deviceKey, asid := p.asid, ptbase := p.ptbase, priv := true }] }
    else s

/-- A new window of a unit begins: its counts are 0 (R388). -/
def newWindow (st : Nat) (s : State) : State :=
  { s with heatFrom := (st, s.time) :: s.heatFrom.filter fun h => h.1 ≠ st,
           heat := s.heat.filter fun h => homeStack (h.1 * 4096) ≠ some st }

/-- HEAT_WINDOW: a window of 100 µs is over; with AUTO = 1, the pages whose accesses in it reached HEAT are to move; under which addresses
the unit knows them is the event's argument (R388, log 24). -/
def execHeatWindow (st : Nat) (pages : List HeatPage) (s : State) : Out :=
  if st < 16 && bitAt (loamRaw s st 0x100) 0 && windowFrom s st + 100000 ≤ s.time then
    .next (newWindow st (pages.foldl (heatPage st) s))
  else .next s

/-! ### Domains (R83, R392) -/

/-- The addresses of a domain. -/
def inDomain (st d pa : Nat) : Bool := pa < 2 ^ 50 && natBits pa 49 46 = st && natBits pa 36 34 = d

/-- An access whose check passed has still to be performed in the domain: a tile store under way, or a command that runs. -/
def domainBusy (s : State) (st d : Nat) : Bool :=
  (allGroups s).any (fun g => g.outs.any fun o => match o.act with
    | .accst _ dst => dst.any fun x => inDomain st d x.2.1
    | _ => false)
  || s.ops.any fun o => o.stage = .running && o.owned.any fun r => inDomain st d r.pa

/-- DOMAIN_SWITCH_OFF (R392). -/
def execDomainSwitchOff (st d : Nat) (s : State) : Out := if st < 16 && d < 5 then .next (domainOff s st d) else .next s

/-- A checkpoint has still to copy the domain (R429). -/
def ckptHolds (s : State) (st d : Nat) : Bool :=
  match s.ckpt with
  | some c => c.left.contains (5 * st + d)
  | none => false

/-- DOMAIN_POWER_OFF: cached words are recalled, READY falls, and what the domain held is gone (R83, R392). -/
def execDomainPowerOff (st d : Nat) (s : State) : Out :=
  if st < 16 && d < 5 && !bitAt (domainReg s st) d && bitAt (domainReg s st) (5 + d) && !domainBusy s st d
      && !ckptHolds s st d then
    let s1 := { s with
      mem := s.mem.filter fun c => !inDomain st d c.1
      poison := s.poison.filter fun w => !inDomain st d w
      dir := s.dir.filter fun w => !inDomain st d w.addr
      filter := s.filter.filter fun e => !inDomain st d (e.line * 128) }
    .next (loamPut s1 st 0x10 (domainReg s st &&& ~~~maskBits (5 + d) (5 + d)))
  else .next s

/-- DOMAIN_SWITCH_ON (R392). -/
def execDomainSwitchOn (st d : Nat) (s : State) : Out := if st < 16 && d < 5 then .next (domainOnReq s st d) else .next s

/-- DOMAIN_READY: the domain is usable, its contents undefined (R83, R392, log 11). -/
def execDomainReady (st d : Nat) (s : State) : Out :=
  if st < 16 && d < 5 && bitAt (domainReg s st) d && !bitAt (domainReg s st) (5 + d) then
    .next (loamPut { s with revived := (st, d, s.ctr) :: s.revived } st 0x10 (domainReg s st ||| maskBits (5 + d) (5 + d)))
  else .next s

end Sys2Proof.Machine
end

