-- ==== Sys2Proof/Machine/Bunting.lean ====
section
/-!
DEFINITION. Bunting.lean: the broadcast layer: frames, slots and their effects, damaged slots, wavelengths, heartbeats
(R91, R280, R335 to R349).
-/
namespace Sys2Proof.Machine

/-! ### Slots (R336 to R338) -/

/-- A control kind: sent first, and heeded while the plane is held (R336, R339). -/
def isControl : Msg → Bool
  | .nack _ _ | .hold _ | .replay _ _ => true
  | _ => false

/-- A slot no reader accepts: its writer is dead and it is stamped at or after the frame fencing starts in, or it is stamped before the
frame from which the spare that carries its writer's number is heard (R350, R352). -/
def refused (s : State) (x : Slot) : Bool :=
  (s.dead.any fun d => d.1 = x.writer && d.2 ≠ 0 && decide (d.2 ≤ x.frame)) || s.joined.any fun j => j.1 = x.writer && decide (x.frame < j.2)

/-- Stamps compare by frame, then writer, then plane (R338). -/
def stampBefore (x : Slot) (p : Nat) (y : Slot) (q : Nat) : Bool :=
  decide (x.frame < y.frame)
    || (x.frame = y.frame && (decide (x.writer < y.writer) || (x.writer = y.writer && decide (p < q))))

/-- The earliest slot of a plane that is still to be applied in stamp order. -/
def firstSlot (s : State) (p : Nat) : Option Slot :=
  (nth s.planes p idlePlane).sent.find? fun x => !isControl x.msg && !refused s x

/-- No other plane has an earlier slot to apply: every agent sees the effects of one stamp order (R102, R109, R338, R346). -/
def noneEarlier (s : State) (p : Nat) (x : Slot) : Bool :=
  (List.range 8).all fun q =>
    match firstSlot s q with
    | some y => q = p || stampBefore x p y q
    | none => true

/-- A plane is held: a slot of it is unreadable, or its readers retune (R339, R348). -/
def isHeld (q : Plane) : Bool := q.bad.isSome || q.retuning

/-- The slot a plane applies next: the earliest stamp of all planes, unless the plane is held (R338, R339). -/
def headSlot (s : State) (p : Nat) : Option Slot :=
  if isHeld (nth s.planes p idlePlane) then none
  else match firstSlot s p with
    | some x => if noneEarlier s p x then some x else none
    | none => none

/-- The earliest control slot of a plane that its readers can read; heeded also while the plane is held (R336, R339). -/
def headControl (s : State) (p : Nat) : Option Slot :=
  let q := nth s.planes p idlePlane
  q.sent.find? fun x => isControl x.msg && !refused s x && q.bad ≠ some (x.writer, x.frame)

/-- A slot is applied. -/
def takeSlot (s : State) (p : Nat) (x : Slot) : State := onPlane s p fun q => { q with sent := q.sent.filter fun y => y.id ≠ x.id }

/-- A slot is taken and has the effect f gives it, if it is of a kind f names. -/
def applySlot (p : Nat) (f : State → Slot → Option State) (s : State) (x : Option Slot) : Out :=
  .next (((x.bind fun x => f (takeSlot s p x) x)).getD s)

/-- Apply the next slot of a plane, if it is of a kind that f names. -/
def applyHead (p : Nat) (f : State → Slot → Option State) (s : State) : Out := applySlot p f s (headSlot s p)

/-- Heed the next control slot of a plane, if it is of a kind that f names. -/
def applyControl (p : Nat) (f : State → Slot → Option State) (s : State) : Out := applySlot p f s (headControl s p)

/-! ### A frame (R336) -/

/-- Wavelengths of a plane that carry a writer's slots: offsets of their registers (R347). -/
def wavesOf (s : State) (p w : Nat) : List Nat :=
  (List.range 384).filterMap fun i =>
    let off := buntingOff p (i / 4) (i % 4)
    let st := mgmtField s off 63 62
    if mgmtField s off 60 54 = w && (st = 0 || st = 2) then some off else none

/-- A writer may send in a frame: it is not dead, its logical number is not absent, a spare's record has taken effect, and with fewer than
four wavelengths the frame is even (R348, R350, R352, R419). -/
def maySend (s : State) (p w f : Nat) : Bool :=
  (decide (64 ≤ w) || clusterPresent s w) && !(s.dead.any fun d => d.1 = w && decide (d.2 ≤ f)) && !(s.joined.any fun j => j.1 = w && decide (f < j.2))
    && (f % 2 = 0 || decide (4 ≤ (wavesOf s p w).length))

/-- A writer sends no new slot of a non-control kind on a plane: a reader holds it back, or it is replaying (R339, R340). -/
def stoppedOn (q : Plane) (w : Nat) : Bool := !q.holds.isEmpty || q.replays.any fun r => r.1 = w

/-- The slot of a writer that goes on a plane again in a frame: none while a control slot goes first (R336, R340). -/
def nextAgain (q : Plane) (w : Nat) : Option Nat :=
  if q.pend.any fun x => x.writer = w && isControl x.msg then none else (q.again.find? fun a => a.1 = w).map (·.2)

/-- The new slot a writer has for a frame: control kinds first, else the oldest, unless new slots are stopped or one goes again; no PutM
while the plane is held (R336, R339, R340, R345). -/
def nextSend (q : Plane) (w : Nat) : Option Slot :=
  match q.pend.find? fun x => x.writer = w && isControl x.msg with
  | some x => some x
  | none =>
    if stoppedOn q w || (nextAgain q w).isSome then none
    else (q.pend.find? fun x => x.writer = w).filter fun x => !(isPutM x.msg && isHeld q)

/-- An earlier line of the same destination has still to be claimed: lines are claimed in ascending order (R114). -/
def claimWaits (s : State) (id : Nat) : Bool :=
  s.ops.any fun o =>
    match o.owned.findIdx? fun x => x.slot = some id with
    | some i => (o.owned.take i).any fun x => s.planes.any fun q => q.pend.any fun y => y.id ≠ id && x.slot = some y.id
    | none => false

/-- What a writer could send on a plane in a frame. -/
def offered (s : State) (p w f : Nat) : Option Slot :=
  if maySend s p w f then (nextSend (nth s.planes p idlePlane) w).filter fun x => !claimWaits s x.id else none

/-- The eight descriptor slots of a broadcast delivery go in one frame: one waits until every plane can take its own (R367). -/
def descReady (s : State) (f : Nat) (x : Slot) : Bool :=
  match x.msg with
  | .tileDesc _ _ _ _ => (List.range 8).all fun q => ((offered s q x.writer f).map (·.msg)) = some x.msg
  | _ => true

/-- The slots a plane carries in a frame, by writer (R338). -/
def frameSlots (s : State) (p f : Nat) : List Slot :=
  (List.range 80).filterMap fun w =>
    (offered s p w f).bind fun x => if descReady s f x then some { x with frame := f, last := f } else none

/-- The slots a plane carries again in a frame. -/
def frameAgain (s : State) (p f : Nat) : List Nat :=
  (List.range 80).filterMap fun w => if maySend s p w f then nextAgain (nth s.planes p idlePlane) w else none

/-- A group's broadcast slots count their re-sendings (R282, R340). -/
def countResent (ids : List Nat) (g : Group) : Group :=
  { g with bslots := g.bslots.map fun b => if ids.contains b.id then { b with resent := b.resent + 1 } else b }

/-- The later of two places of the SC order. -/
def laterPlace (a b : ScPlace) : ScPlace := if scNum a < scNum b then b else a

/-- Slots sent in a frame give the SC operations they belong to their stamp (R109). -/
def stampOpen (f p : Nat) (xs : List Slot) (g : Group) : Group :=
  { g with scOpen := g.scOpen.map fun e =>
      xs.foldl (fun e x => if e.slots.contains x.id then
        { e with place := laterPlace e.place { e.place with frame := f, writer := x.writer, plane := p } } else e) e }

/-- An invalidation keeps the stamp of its message (R337, R346). -/
def stampInval (f : Nat) (xs : List Slot) (i : Inval) : Inval :=
  match xs.find? fun x => x.msg = .tlbinv i.id with
  | some x => { i with frame := f, writer := x.writer }
  | none => i

/-- A slot that goes again in a frame. -/
def sentAgain (f : Nat) (ids : List Nat) (x : Slot) : Slot :=
  if ids.contains x.id then { x with resent := x.resent + 1, last := f } else x

/-- Send a frame on a plane: new slots, and slots that go again with their first stamp; each is kept by its writer until its window has
passed (R336, R340). -/
def sendFrame (f : Nat) (t s : State) (p : Nat) : State :=
  let xs := frameSlots t p f
  let ids := frameAgain t p f
  let s1 := onPlane s p fun q =>
    { q with
      pend := q.pend.filter fun x => !xs.any fun y => y.id = x.id
      sent := q.sent.map (sentAgain f ids) ++ xs
      kept := q.kept.map (sentAgain f ids) ++ xs
      again := q.again.filter fun a => !ids.contains a.2 }
  let up := fun g : Group => countResent ids (stampOpen f p xs g)
  { s1 with cur := up s1.cur, groups := s1.groups.map up, invals := s1.invals.map (stampInval f xs) }

/-! ### Damaged slots (R339 to R341, R348) -/

/-- A failure is counted on the wavelength that carried it; CRCERR stops at its top (R339, R347). -/
def countCrc (s : State) (off : Nat) : State := mgmtPut s off 12 0 (min 8191 (mgmtField s off 12 0 + 1))

/-- The wavelength, among those that carry the writer's slots, on which a slot failed. -/
def failedWave (s : State) (p w : Nat) : Option Nat :=
  (wavesOf s p w)[Config.pick s.ctr (wavesOf s p w).length % max 1 (wavesOf s p w).length]?

/-- Every reader drops a slot of a reserved kind and counts it as a CRC error (R337). -/
def dropReserved (s : State) (p : Nat) : State :=
  let l := (nth s.planes p idlePlane).sent.filter fun x => reservedKind x.msg
  let s1 := onPlane s p fun q => { q with sent := q.sent.filter fun x => !reservedKind x.msg }
  l.foldl (fun s x => match failedWave s p x.writer with
    | some off => (presentWriters s).foldl (fun s _ => countCrc s off) s
    | none => s) s1

/-- NACKs against a wavelength in the last 1,024 frames, the new one included; the fourth makes it degraded (R348). -/
def noteNack (s : State) (off : Nat) : State :=
  let l := (off, frameOf s) :: s.badNacks.filter fun n => frameOf s < n.2 + 1024
  let s1 := { s with badNacks := l }
  if 4 ≤ (l.filter fun n => n.1 = off).length && mgmtField s off 63 62 = 0 then mgmtPut s1 off 63 62 2 else s1

/-- The spares of a plane (R348). -/
def spareWaves (s : State) (p : Nat) : List Nat :=
  (List.range 384).filterMap fun i =>
    let off := buntingOff p (i / 4) (i % 4)
    if mgmtField s off 63 62 = 1 then some off else none

/-- A wavelength dies and a spare of its plane, whichever the controller picks, takes its place; the plane is held until both ends have
retuned to it (R348). -/
def killWave (s : State) (p w off : Nat) : State :=
  let s1 := mgmtPut (mgmtPut s off 63 62 3) off 61 61 0
  let l := spareWaves s1 p
  match l[Config.pick s.ctr l.length % max 1 l.length]? with
  | none => s1
  | some sp =>
    onPlane (mgmtPut (mgmtPut (mgmtPut (mgmtPut s1 sp 60 54 w) sp 53 52 (mgmtField s off 53 52)) sp 63 62 0) sp 61 61 0) p
      fun q => { q with takeover := some (frameOf s), retuning := true }

/-- The management controller's firmware writes STATE, SERVES and LANE of a Bunting wavelength; one it declares dead is replaced where it
carried a writer's slots (R347, R348). -/
def firmBunting (s : State) (p off : Nat) (v : W64) : State :=
  let s1 := { s with mgmt := rfSet s.mgmt off ((mgmtRaw s off &&& ~~~healthFromRecord) ||| (v &&& healthFromRecord)) }
  let st := mgmtField s off 63 62
  if bitsOf v 63 62 = 3 && (st = 0 || st = 2) && mgmtField s off 60 54 < 80 then killWave s1 p (mgmtField s off 60 54) off else s1

/-- Reader r sends its NACK, which counts against the wavelength that failed; its first for the slot also counts the failure (R339,
R348). -/
def nackFrom (s : State) (p r w f : Nat) (first : Bool) (wave : Option Nat) : State :=
  let s1 := onPlane (queueSlot s p r (.nack w f)) p
    fun q => { q with readers := (r, frameOf s) :: q.readers.filter fun x => x.1 ≠ r }
  match wave with
  | none => s1
  | some off => noteNack (if first then countCrc s1 off else s1) off

/-- A reader's message of a kind is on its way on a plane. -/
def underWay (q : Plane) (r : Nat) (m : Msg) : Bool := (q.pend ++ q.sent).any fun x => x.writer = r && x.msg = m

/-- The reader has sent HOLD (1) and not HOLD (0). -/
def holdSent (q : Plane) (r : Nat) : Bool := (q.holds.contains r && !underWay q r (.hold false)) || underWay q r (.hold true)

/-- HOLD once a reader has held 16 frames (R339). -/
def holdFrom (s : State) (p r f : Nat) : State :=
  if f + 16 ≤ frameOf s && !holdSent (nth s.planes p idlePlane) r then queueSlot s p r (.hold true) else s

/-- What a reader of a plane may find unreadable: the slot it would apply next, or a control slot; by a free choice (R339). -/
def mayFail (s : State) (p : Nat) : Option Slot :=
  match firstSlot s p, headControl s p with
  | some x, some y => some (if Config.choice s.ctr 6 then x else y)
  | some x, none => some x
  | none, y => y

/-- A slot of a plane is found unreadable and holds the plane; one that fails again after a replay kills its wavelength (R339, R348). -/
def markBad (s : State) (p : Nat) (x : Slot) : State :=
  let wave := failedWave s p x.writer
  let s1 := onPlane s p fun q => { q with bad := some (x.writer, x.frame), failed := wave, readers := [] }
  match wave with
  | some off => if x.resent = 0 then s1 else killWave s1 p x.writer off
  | none => s1

/-- NACK_SEND: reader r finds a slot of a plane unreadable, or repeats its NACK 16 frames after the last while no REPLAY has come
(R339). -/
def execNackSend (p r : Nat) (s : State) : Out :=
  if p ≥ 8 || !(presentWriters s).contains r then .next s
  else
    let q := nth s.planes p idlePlane
    match q.bad with
    | some (w, f) =>
      let due := match q.readers.find? fun x => x.1 = r with
        | some x => decide (x.2 + 16 ≤ frameOf s)
        | none => true
      let s1 := if due && !q.replays.any (fun x => x.1 = w) then
          nackFrom s p r w f (!q.readers.any fun x => x.1 = r) q.failed else s
      .next (holdFrom s1 p r f)
    | none =>
      match mayFail s p with
      | some x => .next (holdFrom (nackFrom (markBad s p x) p r x.writer x.frame true (failedWave s p x.writer)) p r x.frame)
      | none => .next s

/-- A slot of a writer from a frame on is sent again. -/
def resends (w f : Nat) (x : Slot) : Bool := x.writer = w && f ≤ x.frame

/-- The kept slots of a writer that f names are to be sent again, in their first order, one a frame after the REPLAY (R336, R340). -/
def sendAgain (s : State) (p : Nat) (f : Slot → Bool) : State :=
  onPlane s p fun q =>
    let l := (q.kept.filter f).map fun x => (x.writer, x.id)
    { q with again := l ++ q.again.filter fun a => !l.contains a }

/-- The writer heeds a NACK: new slots stop, REPLAY names the range from f to its latest slot, the kept slots from f go again (R340). -/
def replayFrom (s : State) (p w f : Nat) : State :=
  let last := ((nth s.planes p idlePlane).kept.filter (resends w f)).foldl (fun m x => max m x.frame) f
  let s1 := sendAgain (onPlane s p fun q => { q with replays := (w, f, last) :: q.replays.filter fun r => r.1 ≠ w }) p (resends w f)
  queueSlot s1 p w (.replay f last)

/-- A NACK during a replay extends it: the range then reaches back to f, the slots before its old start go again too, and those in it
already may go again (R340). -/
def extendReplay (s : State) (p w f first last : Nat) : State :=
  if f < first then
    let s1 := sendAgain (onPlane s p fun q =>
      { q with replays := (w, f, last) :: q.replays.filter fun r => r.1 ≠ w
               pend := q.pend.filter fun x => !(x.writer = w && x.msg = .replay first last)
               sent := q.sent.filter fun x => !(x.writer = w && x.msg = .replay first last) })
      p fun x => resends w f x && decide (x.frame < first)
    queueSlot s1 p w (.replay f last)
  else if Config.choice s.ctr 7 then sendAgain s p (resends w f)
  else s

/-- A slot that failed again waits until a spare has replaced its wavelength (R348). -/
def awaitsRetune (s : State) (p w f : Nat) : Bool :=
  (nth s.planes p idlePlane).takeover.isSome
    && (nth s.planes p idlePlane).sent.any fun x => x.writer = w && x.frame = f && x.resent ≠ 0

/-- NACK: heeded by the writer it names; one that arrives during a replay extends the same replay (R340). -/
def execNack (p : Nat) (s : State) : Out :=
  applyControl p (fun s x => match x.msg with
    | .nack w f =>
      match (nth s.planes p idlePlane).replays.find? fun r => r.1 = w with
      | some (_, first, last) => some (extendReplay s p w f first last)
      | none => some (if awaitsRetune s p w f || !((nth s.planes p idlePlane).kept.any (resends w f)) then s else replayFrom s p w f)
    | _ => none) s

/-- HOLD (R339). -/
def execHold (p : Nat) (s : State) : Out :=
  applyControl p (fun s x => match x.msg with
    | .hold on => some (onPlane s p fun q => { q with holds := if on then setAdd q.holds x.writer else q.holds.erase x.writer })
    | _ => none) s

/-- The plane goes on: every reader that sent HOLD (1) sends HOLD (0); one still to be sent is not (R341). -/
def resumePlane (s : State) (p : Nat) : State :=
  let q := nth s.planes p idlePlane
  let s1 := onPlane s p fun q =>
    { q with bad := none, failed := none, readers := [], takeover := none, retuning := false, pend := q.pend.filter fun x => x.msg ≠ .hold true }
  ((List.range 80).filter fun r => holdSent (nth s1.planes p idlePlane) r && !underWay q r (.hold false)).foldl
    (fun s r => queueSlot s p r (.hold false)) s1

/-- The frame of a re-sent slot as a reader works it out: FRAME8 names it in a range of up to 256 frames; in a longer one the order of the
slots, which is their first one, tells the frames apart as well (R340, R341, log 110). -/
def stampIn (first last : Nat) (x : Slot) : Nat := if last < first + 256 then recoverFrame first (frame8 x) else x.frame

/-- The stamps of the slots a writer sent again (R341). -/
def recoverStamps (w first last : Nat) (q : Plane) : Plane :=
  { q with sent := q.sent.map fun x =>
      if x.writer = w && decide (first ≤ x.frame) && decide (x.frame ≤ last) then { x with frame := stampIn first last x } else x }

/-- REPLAY: once the slots of its range have come again, the writer goes on and the plane goes on in stamp order (R340, R341). -/
def execReplay (p : Nat) (s : State) : Out :=
  applyControl p (fun s x => match x.msg with
    | .replay first last =>
      if !(nth s.planes p idlePlane).again.any fun a => a.1 = x.writer then
        let s1 := onPlane s p fun q => { recoverStamps x.writer first last q with
          replays := q.replays.filter fun r => r ≠ (x.writer, first, last) }
        match (nth s.planes p idlePlane).bad with
        | some (w, f) => some (if w = x.writer && decide (first ≤ f) && decide (f ≤ last) then resumePlane s1 p else s1)
        | none => some s1
      else none
    | _ => none) s

/-- RETRANSMISSION_WINDOW_EXPIRY: slots last sent 64 frames ago are kept no longer (R282, R340). -/
def execRetransmissionWindowExpiry (p : Nat) (s : State) : Out :=
  let q := nth s.planes p idlePlane
  let gone (x : Slot) : Bool := x.last + 64 ≤ frameOf s && !(q.sent.any fun y => y.id = x.id) && !(q.again.any fun a => a.2 = x.id)
  let ids := (q.kept.filter gone).map (·.id)
  let done (g : Group) : Group :=
    { g with bslots := g.bslots.map fun b => if ids.contains b.id then { b with done := true } else b }
  let s1 := onPlane s p fun q => { q with kept := q.kept.filter fun x => !gone x }
  .next { s1 with cur := done s1.cur, groups := s1.groups.map done }

/-! ### What hardware does of its own accord (R83, R87, R89, R342 to R345, R347) -/

/-- A cluster writes words of one grant back with one PutM: none for a word it has a message about under way, none while the plane is
held (R343, R345). -/
def writeBack (s : State) (c : Nat) (d : WordDir) : State :=
  let line := d.addr / 128
  let m := wordMask fun i =>
    let e := wordDir s (line * 128 + 4 * i)
    (match stateOf e c with
      | some x => isOwner x
      | none => false) && e.grantee = some c && e.version = d.version
      && !requestOpen s c e.addr 4 && !slotOpen s c e.addr (fun _ => true)
  if m = 0 || isHeld (nth s.planes (planeOf line) idlePlane) then s
  else queueSlot s (planeOf line) c (.putm line m (d.version % 256))

/-- A cluster drops clean S words silently, and an L1 drops what its cluster cache still holds (R342, R343). -/
def dropCopies (s : State) (c : Nat) (d : WordDir) : State :=
  if Config.choice s.ctr 8 then putWord s { d with holders := d.holders.filter fun h => h ≠ (c, .shared) }
  else putWord s { d with l1 := d.l1.filter fun h => h.1 / 8 ≠ c }

/-- A TLB caches what a walk that no access has asked for meets: pointer entries, and a leaf as it stands (R89). -/
def speculate (s : State) (g : Group) : State :=
  let hs := [coreHolder g.cluster g.core, 2048 + coreHolder g.cluster g.core, 4096 + g.cluster]
    ++ (List.range 16).map fun u => 512 + u
  let a : Actor := { groupActor g with holder := nth hs (Config.pick s.ctr hs.length % hs.length) 0 }
  let va : W64 := BitVec.ofNat 64 (Config.pick s.ctr (2 ^ 52) * 4096)
  let base (size : Nat) : Nat := natBits va.toNat 47 0 / size * size
  let entry (leaf : Bool) (x : Nat × W64) : TlbEntry :=
    { holder := a.holder, asid := a.asid, vbase := base (pageSize x.1), size := pageSize x.1, entry := x.2, leaf := leaf }
  let ptrs := if canonical va then (walkPointers s va.toNat 3 g.ptbase.toNat).map (entry false) else []
  let leaf := match walkVia s a va with
    | .ok l => [entry true (l.level, l.entry)]
    | .error _ => []
  (ptrs ++ leaf).foldl cacheEntry s

/-- A cluster knows a line under a page whose lines its cache keeps: a leaf that one of its TLBs holds (R87). -/
def lineKnown (s : State) (c line : Nat) : Bool :=
  s.tlb.any fun t => t.leaf && (t.holder / 8 = c || t.holder = 1024 + c) && polCached (bitsOf t.entry 54 52)
    && decide (bitsOf t.entry 51 12 * 4096 / t.size = line * 128 / t.size)

/-- The sensors of one wavelength read anew (R347, log 95). -/
def senseWave (s : State) : State :=
  let k := Config.pick s.ctr (3072 + 180) % (3072 + 180)
  let off := if k < 3072 then buntingOff (k / 384) (k % 384 / 4) (k % 4) else waveOff ((k - 3072) / 18) ((k - 3072) % 18)
  mgmtPut s off 51 13 (bitsOf (Config.waveSense s.ctr off) 51 13)

/-- What hardware does of its own accord, by free choices: a cluster writes words back, fetches words early or drops copies, the home
recalls a line, a TLB caches a translation, a wavelength's sensors change. -/
def spontaneous (s : State) : State :=
  let c := Config.pick s.ctr 64 % 64
  let line := Config.pick s.ctr (2 ^ 44) % 2 ^ 44
  let m : W32 := BitVec.ofNat 32 (Config.pick s.ctr (2 ^ 32))
  match Config.pick s.ctr 7 % 7, s.dir[Config.pick s.ctr s.dir.length % max 1 s.dir.length]? with
  | 0, some d => writeBack s c d
  | 1, some d => dropCopies s c d
  | 2, some d => if ownedWords s (d.addr / 128) = 0 then s else recallLine s (d.addr / 128)
  | 3, _ => if (presentWriters s).contains c && lineKnown s c line then askLine s c line m (Config.choice s.ctr 9) 0 0 else s
  | 4, _ => speculate s s.cur
  | 5, _ => senseWave s
  | _, _ => s

/-- BUNTING_FRAME: each writer sends at most one slot on each plane (R336). -/
def execBuntingFrame (s : State) : Out :=
  let f := frameOf s
  if f ≤ s.lastFrame then .next s
  else
    let s1 := { (if Config.choice s.ctr 3 then spontaneous s else s) with lastFrame := f }
    .next ((List.range 8).foldl dropReserved ((List.range 8).foldl (sendFrame f s1) s1))

/-! ### Coherence messages (R343 to R346, R351) -/

/-- The message with an identity has been applied. -/
def slotApplied (s : State) (line id : Nat) : Bool :=
  let q := nth s.planes (planeOf line) idlePlane
  !((q.pend ++ q.sent).any fun x => x.id = id)

/-- Words have come for the requests that f names; one that has all its words is over (R343). -/
def wordsCome (s : State) (m : W32) (f : Request → Bool) : State :=
  { s with reqs := (s.reqs.map fun r => if f r then { r with got := r.got ||| m } else r).filter fun r => r.mask &&& ~~~r.got ≠ 0 }

/-- The data of a request that has been applied come (R343). -/
def closeRequest (s : State) (c line : Nat) (m : W32) : State :=
  wordsCome s m fun r => r.cluster = c && r.line = line && slotApplied s line r.slot

/-- A GetM or Upgrade: from a home it is a recall, after which no copy is left; from a cluster the words are granted to it; and an
operation whose destination it claims has taken its line over (R114, R343, R344). -/
def applyOwn (s : State) (x : Slot) (line : Nat) (m : W32) : State :=
  ownLine (if x.writer < 64 then applyGetM s x.writer line m else recallDone (applyInv s line m) line) x.id

/-- The words of a mask that a cluster holds. -/
def heldMask (s : State) (c line : Nat) (m : W32) : W32 :=
  wordMask fun i => m.getLsbD i && (stateOf (wordDir s (line * 128 + 4 * i)) c).isSome

/-- An Upgrade: words its cluster still holds need no data, once the line has its entry (R343, R344). -/
def applyUpgrade (s : State) (x : Slot) (line : Nat) (m : W32) : State :=
  let s1 := applyOwn s x line m
  if filterRoom s1 line then wordsCome s1 (heldMask s x.writer line m) fun r => r.slot = x.id else s1

/-- GETS (R343). -/
def execGets (p : Nat) (s : State) : Out :=
  applyHead p (fun s x => match x.msg with
    | .gets line m _ _ => some (if x.writer < 64 then applyGetS s x.writer line m else s)
    | _ => none) s

/-- GETM (R343, R344). -/
def execGetm (p : Nat) (s : State) : Out :=
  applyHead p (fun s x => match x.msg with
    | .getm line m _ _ => some (applyOwn s x line m)
    | _ => none) s

/-- UPGRADE: granted as GetM; the data it needs if S was lost are those of memory (R343). -/
def execUpgrade (p : Nat) (s : State) : Out :=
  applyHead p (fun s x => match x.msg with
    | .upgrade line m _ _ => some (applyUpgrade s x line m)
    | _ => none) s

/-- PUTM (R345). -/
def execPutm (p : Nat) (s : State) : Out :=
  applyHead p (fun s x => match x.msg with
    | .putm line m ver => some (applyPutM s x.writer line m ver)
    | _ => none) s

/-- A write of the host is performed once the home's INV has been applied (R346, R396). -/
def settleHost (s : State) (id : Nat) : State :=
  match s.hostWrites.find? fun w => w.slot = id with
  | some w => memWrite { s with hostWrites := s.hostWrites.filter fun w => w.slot ≠ id } w.pa w.bytes
  | none => s

/-- INV: a claim of a Loam unit that sent it is then fulfilled, a write of the host performed (R114, R343, R346, R396). -/
def execInv (p : Nat) (s : State) : Out :=
  applyHead p (fun s x => match x.msg with
    | .inv line m => some (settleHost (ownLine (applyInv s line m) x.id) x.id)
    | _ => none) s

/-- Poison a word whose latest exclusive grant a fenced cluster still holds, and take every copy of it back (R351). -/
def poisonDead (s : State) (a : Nat) : State :=
  match (wordDir s a).grantee with
  | some c => if s.dead.any fun x => x = (c, 0) then poisonWord (putWord s (wordInv (wordDir s a))) a else s
  | none => s

/-- POISON, sent by the home of a line that a fenced cluster owned words of (R351). -/
def execPoison (p : Nat) (s : State) : Out :=
  applyHead p (fun s x => match x.msg with
    | .poison line m => some (refreshFilter ((maskWords line m).foldl poisonDead s) line)
    | _ => none) s

/-- DATA_RESPONSE: the words of a request that has been applied arrive at its cluster, once the home has room for their line
(R343, R344). -/
def execDataResponse (c line : Nat) (m : W32) (s : State) : Out :=
  .next (if filterRoom s line then closeRequest s c line m else s)

/-! ### The broadcast window (R280, R282) -/

/-- A subscription takes a slot (R280). -/
def subTakes (u : Sub) (x : Slot) (line : Nat) : Bool :=
  u.frame < x.frame && u.writers.getLsbD x.writer && u.wbase ≤ line * 128 && line * 128 < u.wbase + 128 * u.lines

/-- Deliver a slot to one subscription of a crew: the line, then the arrival; a slot of a frame that is not after the one in which the
crew's state was restored is missed (R280). -/
def deliverSub (c : Crew) (x : Slot) (line : Nat) (bytes : List Byte) (s : State) (u : Sub) : State :=
  if crewAway c || decide (x.frame ≤ u.since) then
    onCrewData s c.key fun c => { c with subs := replaceFirst (fun v => v.num = u.num) (fun v => { v with missed := v.missed + 1 }) c.subs }
  else
    let s1 := memWrite s (scratchPa c.cluster c.core (c.spbase + u.spoff + (line * 128 - u.wbase))) bytes
    onCrewData s1 c.key (onBar u.bar fun b => arriveBar 128 (phaseBit b) 0 b)

/-- A broadcast-window slot takes effect (R280). -/
def deliverBcast (s : State) (x : Slot) (line : Nat) (bytes : List Byte) (k : GKey) : State :=
  let s1 := (allCrews s).foldl (fun s c => (c.subs.filter fun u => subTakes u x line).foldl (deliverSub c x line bytes) s) s
  let s2 := onGroupData s1 k fun g => { g with
    bslots := g.bslots.map fun b => if b.id = x.id then { b with done := true } else b
    scOpen := g.scOpen.filter fun e => e.use ≠ .window x.id }
  match (findGroup s k).bind fun g => scFind g (.window x.id) with
  | some e => { s2 with scLast := laterPlace s2.scLast e.place }
  | none => s2

/-- BCAST (R280). -/
def execBcast (p : Nat) (s : State) : Out :=
  applyHead p (fun s x => match x.msg with
    | .bcast line bytes k => some (deliverBcast s x line bytes k)
    | _ => none) s

/-- TILE (R367, R368). -/
def execTile (p : Nat) (s : State) : Out :=
  applyHead p (fun s x => match x.msg with
    | .tileDesc num pn mask chunks => some (applyDesc s x.writer num pn mask chunks)
    | .tileChunk num idx bytes => some (applyChunk s x.writer num idx bytes)
    | _ => none) s

/-! ### TLB invalidation (R90, R91, R346) -/

/-- An invalidation names a cached translation: its range overlaps and the ASID matches or G = 1 (R90). -/
def invalHits (i : Inval) (t : TlbEntry) : Bool :=
  match i.asid with
  | none => true
  | some a =>
    let lo := i.lo * 4096
    (t.asid = a || bitAt t.entry 6)
      && ((lo < t.vbase + t.size && t.vbase < lo + i.len * 4096) || t.vbase + 2 ^ 48 < lo + i.len * 4096)

/-- TLBINV_MESSAGE: every holder removes the matching entries (R91 step 1). -/
def execTlbinvMessage (p : Nat) (s : State) : Out :=
  applyHead p (fun s x => match x.msg with
    | .tlbinv id =>
      match s.invals.find? fun i => i.id = id with
      | some i => some { s with tlb := s.tlb.filter fun t => !invalHits i t }
      | none => some s
    | _ => none) s

/-- The message of an invalidation has not been applied yet. -/
def invalPending (s : State) (id : Nat) : Bool :=
  s.planes.any fun q => (q.pend ++ q.sent).any fun x => x.msg = .tlbinv id

/-- An access through translations made earlier is still to be performed by a holder the writer serves: a tile store, or a store to the
broadcast window (R91 step 2). -/
def holderBusy (s : State) (w : Nat) : Bool :=
  (allGroups s).any fun g => g.cluster = w && (g.bslots.any (fun b => !b.done) || g.outs.any fun o =>
    match o.act with
    | .accst _ _ => true
    | _ => false)

/-- TLB_ACKNOWLEDGE: once every holder that writer h serves has acknowledged, h sends its ACK (R91, R346). -/
def execTlbAcknowledge (id h : Nat) (s : State) : Out :=
  match s.invals.find? fun i => i.id = id with
  | some i =>
    let sent := s.planes.any fun q => (q.pend ++ q.sent).any fun x => x.writer = h && x.msg = .ack id
    if i.waiting.contains h && !sent && !invalPending s id && !holderBusy s h then .next (queueSlot s 0 h (.ack id))
    else .next s
  | none => .next s

/-- A writer's ACK is applied or counted (R346). -/
def countAck (w : Nat) (i : Inval) : Inval := { i with waiting := i.waiting.erase w }

/-- ACK (R346). -/
def execAck (p : Nat) (s : State) : Out :=
  applyHead p (fun s x => match x.msg with
    | .ack id => some { s with invals := s.invals.map fun i => if i.id = id then countAck x.writer i else i }
    | _ => none) s

/-! ### Wavelengths and heartbeats (R348, R349) -/

/-- WAVELENGTH_DEGRADED: LOCK falls (R347, R348). -/
def execWavelengthDegraded (p g w : Nat) (s : State) : Out :=
  if p < 8 && g < 96 && w < 4 && mgmtField s (buntingOff p g w) 63 62 = 0 then
    .next (mgmtPut (mgmtPut s (buntingOff p g w) 61 61 0) (buntingOff p g w) 63 62 2)
  else .next s

/-- Readers and writer wr have retuned on a plane: its unreadable slot is replayed; with none, the plane goes on (R348). -/
def afterRetune (s : State) (p wr : Nat) : State :=
  let s1 := onPlane s p fun q => { q with retuning := false }
  if !(nth s.planes p idlePlane).retuning then s
  else
    match (nth s.planes p idlePlane).bad with
    | some (w, f) => if w = wr then replayFrom s1 p w f else s1
    | none => resumePlane s1 p

/-- RETUNE_COMPLETE: readers and writer have retuned to an active wavelength, which locks (R347, R348). -/
def execRetuneComplete (p g w : Nat) (s : State) : Out :=
  let off := buntingOff p g w
  if p < 8 && g < 96 && w < 4 && mgmtField s off 60 54 < 80 && mgmtField s off 63 62 = 0 && mgmtField s off 61 61 = 0 then
    .next (afterRetune (mgmtPut s off 61 61 1) p (mgmtField s off 60 54))
  else .next s

/-- The unit is dead or silent. -/
def isDead (s : State) (w : Nat) : Bool := s.dead.any fun d => d.1 = w

/-- The tick of a unit's latest heartbeat. -/
def lastBeat (s : State) (w : Nat) : Nat := ((s.beats.find? fun b => b.1 = w).map (·.2)).getD 0

/-- HEARTBEAT (R349). -/
def execHeartbeat (w : Nat) (s : State) : Out :=
  if w < 80 && !isDead s w && !s.mute.contains w then
    .next { s with beats := (w, s.time) :: s.beats.filter fun b => b.1 ≠ w }
  else .next s

/-- UNIT_DEAD: the third heartbeat in a row is missed; fencing starts at the next frame (R349). -/
def execUnitDead (w : Nat) (s : State) : Out :=
  if w < 80 && (presentWriters s).contains w && lastBeat s w + 30000 ≤ s.time then
    .next { s with dead := s.dead ++ [(w, frameOf s + 1)] }
  else .next s

/-- PLANE_READ_TIMEOUT: a reader that still cannot read a plane 1,250 frames after a spare took over sends no heartbeat any more
(R349). -/
def execPlaneReadTimeout (w : Nat) (s : State) : Out :=
  if w < 80 && s.planes.any fun q => isHeld q && (q.bad.isNone || q.readers.any (fun r => r.1 = w))
      && (match q.takeover with
          | some f => decide (f + 1250 ≤ frameOf s)
          | none => false) then
    .next { s with mute := setAdd s.mute w }
  else .next s

end Sys2Proof.Machine
end

