-- ==== Sys2Proof/Machine/Place.lean ====
section
/-!
DEFINITION. Place.lean: the context area, fitting and placing bands, pre-emption, saving and resuming, and the end of crews
and launches (R12 to R15, R38 to R40, R304 to R324).
-/
namespace Sys2Proof.Machine

/-! ### Launches, records and graph nodes (R305, R307, R309, R310) -/

/-- The launch with an identity. -/
def findLaunch (s : State) (id : Nat) : Option Launch := s.launches.find? fun l => l.id = id

/-- Change a launch. -/
def onLaunch (s : State) (id : Nat) (f : Launch → Launch) : State :=
  { s with launches := replaceFirst (fun l => l.id = id) f s.launches }

/-- A completion record is due: it is held until the scheduler writes it. BAND and CREW of a record that stands for a whole launch have no
stated value: DESIGN CHOICE, 0 (R307, log 115). -/
def postRecord (s : State) (src : Source) (status : Byte) (launch : Nat) : State :=
  if src.cq = 0 then s
  else
    let r := packRecord s.time { typ := 0x81, status := status.toNat, queue := src.queue, node := src.node,
                                 srcseq := src.seq, launch := launch }
    { s with posts := s.posts ++ [{ cq := src.cq, record := r, sup := false, claim := none }] }

def nodePkt (n : BitVec 256) : Nat := bitsOf n 255 192
def nodeCount (n : BitVec 256) : Nat := bitsOf n 191 176
def nodeInit (n : BitVec 256) : Nat := bitsOf n 175 160
def nodeNsucc (n : BitVec 256) : Nat := bitsOf n 95 93
def nodePrio (n : BitVec 256) : Nat := bitsOf n 92 90
def nodeCqe (n : BitVec 256) : Bool := bitAt n 89
/-- Successor i of a node (R308). -/
def nodeSucc (n : BitVec 256) (i : Nat) : Nat := bitsOf n (111 + 16 * i) (96 + 16 * i)

/-- Set a node's COUNT. -/
def setCount (n : BitVec 256) (v : Nat) : BitVec 256 :=
  (n &&& ~~~((0xFFFF : BitVec 256) <<< 176)) ||| (BitVec.ofNat 256 (v % 65536) <<< 176)

/-- The arming GRAPH packet of a node: the latest still in flight; none for a node no packet armed (R305). -/
def armOf (s : State) (n : Nat) : Nat × Nat :=
  match s.jobs.reverse.find? fun j => j.nodes.contains n with
  | some j => (j.src.queue, j.src.seq)
  | none => (0, 0)

/-- A node is ready (R309). -/
def readyNode (s : State) (n : Nat) : State :=
  { s with ready := s.ready ++ [{ node := n, armQueue := (armOf s n).1, armSeq := (armOf s n).2 }] }

/-- Decrement a node for a completion (R309, R430). -/
def decrement (s : State) (src : Source) (launch n : Nat) : State :=
  let x := spGet s.nodes n
  if nodeCount x = 0 then
    postEvent s { typ := 0x83, status := 5, queue := src.queue, node := n, srcseq := src.seq, launch := launch, d2 := 2 }
  else
    let s1 := { s with nodes := spSet s.nodes n (setCount x (nodeCount x - 1)) }
    if nodeCount x = 1 then readyNode s1 n else s1

/-- Work from a queue completes: its record, then its node (R301, R307, R309). -/
def completePlain (s : State) (src : Source) (status : Byte) (launch : Nat) : State :=
  let s1 := if src.cqe then postRecord s src status launch else s
  match src.nv with
  | some n => decrement s1 src launch n
  | none => s1

/-- A GRAPH packet whose nodes have all completed completes (R310). -/
def settleJobs (s : State) : State :=
  let done (j : Job) : Bool := !j.waiting && j.nodes.isEmpty
  (s.jobs.filter done).foldl (fun s j => completePlain s j.src 0 0) { s with jobs := s.jobs.filter fun j => !done j }

/-- A completed node is struck from the GRAPH packets that had armed it when its work became ready: the latest of them and every earlier
one that still waits for it; work an older packet started completes nothing for a packet that armed the node later (R310). -/
def strikeNode (js : List Job) (arm : Nat × Nat) (n : Nat) : List Job :=
  match js.findIdx? fun j => (j.src.queue, j.src.seq) = arm && j.nodes.contains n with
  | none => js
  | some i => js.zipIdx.map fun p => if p.2 ≤ i then { p.1 with nodes := p.1.nodes.erase n } else p.1

/-- A node's work has completed: its successors are decremented in order (R309). -/
def completeNode (s : State) (src : Source) (launch n : Nat) : State :=
  let x := spGet s.nodes n
  let s1 := (List.range (min 4 (nodeNsucc x))).foldl (fun s i => decrement s src launch (nodeSucc x i)) s
  settleJobs { s1 with jobs := strikeNode s1.jobs src.arm n }

/-- Work completes with a status (R302, R307, R309). -/
def completeWork (s : State) (src : Source) (status : Byte) (launch : Nat) : State :=
  let s1 := completePlain s src status launch
  match src.gnode with
  | some n => completeNode s1 src launch n
  | none => s1

/-! ### The context area (R315) -/

/-- x rounded up to a multiple of 4,096. -/
def up4k (x : Nat) : Nat := (x + 4095) / 4096 * 4096

/-- Bytes of a trap save area. -/
def areaSize (d : KDesc) : Nat := 0x1000 + d.ntiles * 0x4000

/-- Bytes of the three parts of a group. -/
def groupSize (d : KDesc) : Nat := up4k d.stksz + areaSize d + up4k (areaSize d + d.nslots * 128)

/-- Bytes of a scratchpad image with its full/empty bits. -/
def imageSize (d : KDesc) : Nat := d.units * 4096 + d.units * 128

/-- K: the bytes of a crew's block. -/
def crewSize (d : KDesc) : Nat := 0x4000 + up4k (imageSize d) + d.groups * groupSize d

/-- The block of crew c of band b. -/
def crewArea (l : Launch) (b c : Nat) : Nat := l.ctx.toNat + (b * l.desc.crews + c) * crewSize l.desc

/-- The scratchpad image of a crew. -/
def imageArea (l : Launch) (b c : Nat) : Nat := crewArea l b c + 0x4000

/-- The stack of group g. -/
def stackArea (l : Launch) (b c g : Nat) : Nat := imageArea l b c + up4k (imageSize l.desc) + g * groupSize l.desc

/-- The trap save area of group g: `tsave` at group start. -/
def trapArea (l : Launch) (b c g : Nat) : Nat := stackArea l b c g + up4k l.desc.stksz

/-- The pre-emption block of group g. -/
def preBlock (l : Launch) (b c g : Nat) : Nat := trapArea l b c g + areaSize l.desc

/-- The granules in a pre-emption block (R320). -/
def preGranules (l : Launch) (b c g : Nat) : Nat := preBlock l b c g + areaSize l.desc

/-- The scheduler as an actor under a launch's translation. -/
def ctxActor (l : Launch) (b : Nat) : Actor :=
  { asid := l.asid, ptbase := l.ptbase, priv := true, holder := 640, band := some (l.id, b) }

/-- Host stores that the link's state does not let through: HOSTDROP counts each aligned piece of up to 64 bytes (R398). -/
def dropHostStores (s : State) (r : Run) : State :=
  (List.range ((r.pa + r.len + 63) / 64 - r.pa / 64)).foldl (fun s _ => mgmtCount s 0xF760 0) s

/-- Hardware stores the bytes of one run; to host memory only while the link is up (R398). -/
def hwRun (s : State) (r : Run) (bs : List Byte) : State :=
  if r.place = .host && !s.linkUp then dropHostStores s r else memWrite s r.pa bs

/-- Hardware stores bytes at some runs. -/
def hwRuns (s : State) : List Run → List Byte → State
  | [], _ => s
  | r :: rs, bs => hwRuns (hwRun s r (bs.take r.len)) rs (bs.drop r.len)

/-- Hardware writes through a translation; where it is no writable memory nothing is written (the supervisor's duty, R315). -/
def hwWrite (s : State) (a : Actor) (va : W64) (bs : List Byte) : State :=
  match engineRuns s a .store va bs.length with
  | .ok rs => hwRuns (touchRuns s a .store va rs) rs bs
  | .error _ => s

/-- Hardware writes to the context area. -/
def ctxWrite (s : State) (l : Launch) (b va : Nat) (bs : List Byte) : State := hwWrite s (ctxActor l b) (BitVec.ofNat 64 va) bs

/-- Write fields of a block. -/
def ctxFields (l : Launch) (b base : Nat) (s : State) (fs : List (Nat × List Byte)) : State :=
  fs.foldl (fun s f => ctxWrite s l b (base + f.1) f.2) s

/-- What hardware reads of an area: the bytes, the offsets of the words that read as poison, and the state its walks leave. -/
structure AreaRead where
  bytes : List Byte
  lost : List Nat
  after : State

/-- The offsets of the words of some runs that read as poison (R118, R398). -/
def lostWords (s : State) : Nat → List Run → List Nat
  | _, [] => []
  | off, r :: rs =>
    ((List.range (r.len / 4)).filter fun i => (loadErr s { r with pa := r.pa + 4 * i, len := 4 }).isSome).map (off + 4 * ·)
      ++ lostWords s (off + r.len) rs

/-- Hardware reads through a translation: where it reaches nothing every word is lost (R88, R315). -/
def hwRead (s : State) (a : Actor) (va : W64) (n : Nat) : AreaRead :=
  match engineRuns s a .load va n with
  | .ok rs => { bytes := readRuns s rs, lost := lostWords s 0 rs, after := touchRuns s a .load va rs }
  | .error _ => { bytes := List.replicate n 0, lost := (List.range (n / 4)).map (4 * ·), after := s }

/-- Hardware reads the context area. -/
def ctxRead (s : State) (l : Launch) (b va n : Nat) : AreaRead := hwRead s (ctxActor l b) (BitVec.ofNat 64 va) n

/-- Words at a place become poison. -/
def poisonAt (s : State) (pa : Nat) (offs : List Nat) : State := offs.foldl (fun s o => poisonWord s (pa + o)) s

/-! ### Fitting (R14, R39, R314) -/

/-- The bands left out of a count: as if pre-empted. -/
abbrev Skip := List (Nat × Nat)

/-- Crews that hold resources of a core. -/
def crewsOn (s : State) (cl co : Nat) (skip : Skip) : List Crew :=
  (allCrews s).filter fun c => c.cluster = cl && c.core = co && !crewAway c && !skip.contains (c.key.launch, c.key.band)

/-- The shape of a crew's launch. -/
def crewDesc (s : State) (c : Crew) : Nat × Nat :=
  match findLaunch s c.key.launch with
  | some l => (l.desc.nslots, l.desc.ntiles)
  | none => (0, 0)

/-- Kept ranges charged against a core, those of one crew left out, those spilled, and those of crews whose own charge still covers them
(R39, R40, R319). -/
def keptOn (s : State) (cl co : Nat) (skip : Skip) (out : Option GKey) : Nat :=
  (s.keptRanges.filter fun k => k.cluster = cl && k.core = co && !k.spilled && some (crewKey k.key) ≠ out
    && !(crewsOn s cl co skip).any fun c => c.key = crewKey k.key).foldl (fun n k => n + k.count) 0

/-- Sum over crews. -/
def sumOver (cs : List Crew) (f : Crew → Nat) : Nat := cs.foldl (fun n c => n + f c) 0

/-- Scratchpad units where a run of n free units starts (R14). -/
def freeUnits (cs : List Crew) (n : Nat) : List Nat :=
  (List.range 193).filter fun u => u + n ≤ 192
    && cs.all fun c => c.splen = 0 || n = 0 || u * 4096 + n * 4096 ≤ c.spbase || c.spbase + c.splen ≤ u * 4096

/-- A crew of a launch's shape fits on a core beside those there (R14). -/
def crewFits (s : State) (d : KDesc) (cl co : Nat) (skip : Skip) (out : Option GKey) : Bool :=
  let cs := crewsOn s cl co skip
  sumOver cs (·.groups) + d.groups ≤ 16
    && sumOver cs (fun c => c.groups * (crewDesc s c).1) + 8 * keptOn s cl co skip out + d.groups * d.nslots ≤ 4096
    && sumOver cs (fun c => c.groups * (crewDesc s c).2) + d.groups * d.ntiles ≤ 16
    && sumOver cs (·.tags.length) + d.ntags ≤ 64 && sumOver cs (·.bbs.length) + d.nbbs ≤ 64
    && sumOver cs (·.cbars.length) + d.ncbs ≤ 16 && !(freeUnits cs d.units).isEmpty

/-- The counterpart of crew c of a launch's band (R40). -/
def counterpart (l : Launch) (b c : Nat) : Option GKey :=
  if l.inh then some { launch := l.pred, band := b, crew := c, group := 0 } else none

/-- The core that holds the counterpart's kept ranges on a cluster. -/
def keptCore (s : State) (l : Launch) (b c cl : Nat) : Option Nat :=
  (s.keptRanges.find? fun k => some (crewKey k.key) = counterpart l b c && k.cluster = cl && !k.spilled).map (·.core)

/-- Crew c of a band fits on a core; its counterpart's kept ranges are not charged against it there. -/
def memberFits (s : State) (l : Launch) (b c cl co : Nat) (skip : Skip) : Bool :=
  crewFits s l.desc cl co skip (if keptCore s l b c cl = some co then counterpart l b c else none)

/-- Cores for the crews of a band on a cluster: each on its counterpart's core where it fits there, the others on any core
left (R13, R314). -/
def assignCores (s : State) (l : Launch) (b cl : Nat) (skip : Skip) : Option (List Nat) :=
  let pins := (List.range l.desc.crews).map fun c =>
    match keptCore s l b c cl with
    | some co => if memberFits s l b c cl co skip then some co else none
    | none => none
  let pinned := pins.filterMap id
  pins.zipIdx.foldlM (fun acc p =>
    match p.1 with
    | some co => if acc.contains co then none else some (acc ++ [co])
    | none =>
      match (List.range 8).find? fun co => !acc.contains co && !pinned.contains co && memberFits s l b p.2 cl co skip with
      | some co => some (acc ++ [co])
      | none => none) []

/-- A cluster takes placements: present and not dead (R419). -/
def clusterLive (s : State) (cl : Nat) : Bool := cl < 64 && clusterPresent s cl && !isDead s cl

/-- How many crews of a band stand on their counterparts' cores. -/
def pinScore (s : State) (l : Launch) (b cl : Nat) (cores : List Nat) : Nat :=
  (cores.zipIdx.filter fun p => keptCore s l b p.2 cl = some p.1).length

/-- The band fits on some cluster. -/
def fitsSomewhere (s : State) (l : Launch) (b : Nat) : Bool :=
  (List.range 64).any fun cl => clusterLive s cl && (assignCores s l b cl []).isSome

/-- The band a launch places next: one to be placed again, else the next in order (R311, R333). -/
def nextBand (l : Launch) : Nat := l.redo.headD l.placed

/-- Some band of the launch is still to be placed. -/
def bandsLeft (l : Launch) : Bool := !l.redo.isEmpty || l.placed < l.bands

/-- A placement the distributor may choose: distinct cores of a live cluster that fit, as many as possible on counterparts'
cores (R13, R314). -/
def choiceOk (s : State) (l : Launch) (b cl : Nat) (cores : List Nat) : Bool :=
  clusterLive s cl && cores.length = l.desc.crews && decide cores.Nodup && cores.all (· < 8)
    && cores.zipIdx.all (fun p => memberFits s l b p.2 cl p.1 [])
    && (List.range 64).all fun k =>
        match assignCores s l b k [] with
        | some cs => !clusterLive s k || pinScore s l b k cs ≤ pinScore s l b cl cores
        | none => true

/-! ### Search order (R313) -/

/-- The entry of a launch. -/
def entryOf (s : State) (id : Nat) : Option Entry := s.entries.find? fun e => e.launch = id

/-- Entries in search order: level 7 down, oldest first. -/
def searchOrder (s : State) : List Entry :=
  (List.range 8).flatMap fun i => s.entries.filter fun e => e.level = 7 - i

/-- A blocking entry other than this one stands at a level or above. -/
def blockedAt (s : State) (level : Nat) (id : Nat) : Bool :=
  s.entries.any fun e => e.blocking && level ≤ e.level && e.launch ≠ id

/-- AGE of a level in µs; 0 for none (R311). -/
def ageOf (s : State) (level : Nat) : Nat := if level < 7 then mgmtField s (0x300 + 8 * level) 31 0 else 0

/-- The entry has waited AGE: it moves up before the search looks at it again (R311, R313). -/
def dueToAge (s : State) (e : Entry) : Bool := ageOf s e.level ≠ 0 && decide (e.waitFrom + ageOf s e.level * 1000 ≤ s.time)

/-- The entry has waited 100 µs unplaced at a level that does not age: where its band does not fit the search marks it blocking
(R313). -/
def dueToBlock (s : State) (e : Entry) : Bool := ageOf s e.level = 0 && decide (e.waitFrom + 100000 ≤ s.time)

/-- The next band of an entry fits somewhere. -/
def entryFits (s : State) (e : Entry) : Bool :=
  match findLaunch s e.launch with
  | some l => fitsSomewhere s l (nextBand l)
  | none => false

/-- The search reaches an entry: nothing blocks it; of the entries before it none fits, none is to move up first, and none is marked
blocking as the search passes it. A blocking entry is reached past older entries of its level that do not fit: the pseudocode would stop at
them, the rule's words let the next band of a blocking entry be placed (R313; DESIGN CHOICE, log 116). -/
def searchReaches (s : State) (e : Entry) : Bool :=
  !blockedAt s e.level e.launch && !dueToAge s e
    && ((searchOrder s).takeWhile fun x => x.launch ≠ e.launch).all fun x =>
        !entryFits s x && !dueToAge s x && !dueToBlock s x

/-! ### Placing a band (R29, R40, R75, R314) -/

/-- Physical tiles of a core that no crew there uses. -/
def freeTiles (s : State) (cl co : Nat) : List Nat :=
  let used := (allGroups s).filter (fun g => g.cluster = cl && g.core = co
    && ((findCrew s g.key).map fun c => !crewAway c).getD false) |>.flatMap (·.tiles)
  (List.range 16).filter fun p => !used.contains p

/-- Tiles given to a group: their contents are undefined (R29). -/
def freshTiles (s : State) (cl co : Nat) (ps : List Nat) : State :=
  ps.foldl (fun s p =>
    tilePut { s with nextId := s.nextId + 1 } { id := (cl * 8 + co) * 16 + p, zeroed := false, nonce := 2 ^ 20 + s.nextId, elems := [] }) s

/-- A crew at placement: tags ready with success, barriers idle, no subscription (R29). -/
def newCrew (l : Launch) (b c cl co base : Nat) : Crew :=
  { key := { launch := l.id, band := b, crew := c, group := 0 }, cluster := cl, core := co, groups := l.desc.groups,
    crews := l.desc.crews, tags := List.replicate l.desc.ntags (.ready 0), bbs := List.replicate l.desc.nbbs blankBar,
    cbars := List.replicate l.desc.ncbs { count := 0, arrived := 0, phase := 0 }, spbase := base,
    splen := l.desc.units * 4096, subs := [], halt := .running }

/-- A group at its start (R29, R43, R314, R315). -/
def newGroup (l : Launch) (b c g cl co : Nat) (tiles : List Nat) : Group :=
  let k : GKey := { launch := l.id, band := b, crew := c, group := g }
  let sp := BitVec.ofNat 64 (stackArea l b c g + l.desc.stksz)
  setPrng { blankGroup k with
    status := .resident, cluster := cl, core := co, pc := l.desc.entry,
    sregs := spSet (spSet [] 1 l.param) 63 sp
    ixs := .replicate 128 (BitVec.ofNat 32 ((l.desc.nslots - 1) * 2 ^ 24))
    lcb := l.desc.lcb, tvec := l.desc.tvec, tsave := BitVec.ofNat 64 (trapArea l b c g), asid := l.asid, ptbase := l.ptbase,
    priv := l.priv, nslots := l.desc.nslots, tiles := tiles, fillFrom := preGranules l b c g, fillAsid := l.asid,
    fillPt := l.ptbase } 0x5A17

/-- The kept range of the counterpart group (R40). A successor placed while its counterpart still runs finds none and starts with all
slots zero: the rule speaks only of a counterpart that does not exist or has ended (DESIGN CHOICE, log 103). -/
def keptFor (s : State) (l : Launch) (b c g : Nat) : Option KeptRange :=
  s.keptRanges.find? fun k => l.inh && k.key = { launch := l.pred, band := b, crew := c, group := g }

/-- The bytes of a granule of main slots (R320). -/
def granuleBytes (m : Sparse 32) (j : Nat) : List Byte :=
  (List.range 256).flatMap fun i => leBytes (spGet m (laneKey (8 * j + i / 32) (i % 32))).toNat 4

/-- A kept range is spilled to its group's pre-emption block (R40, R319). -/
def spillKept (s : State) (k : KeptRange) : State :=
  let a : Actor := { asid := k.asid, ptbase := k.ptbase, priv := true, holder := 640, band := none }
  if k.spilled then s
  else (List.range k.count).foldl (fun s i =>
    hwWrite s a (BitVec.ofNat 64 (k.area + 1024 * (k.first + i))) (granuleBytes k.vals (k.first + i))) s

/-- The distributor spills the kept ranges of a core to free capacity (R40, R319). -/
def spillCore (cl : Nat) (s : State) (co : Nat) : State :=
  let mine (k : KeptRange) : Bool := k.cluster = cl && k.core = co
  { (s.keptRanges.filter mine).foldl spillKept s with
    keptRanges := s.keptRanges.map fun k => if mine k then { k with spilled := true } else k }

/-- The kept range stands in the registers of a core. -/
def keptHere (k : KeptRange) (cl co : Nat) : Bool := k.cluster = cl && k.core = co && !k.spilled

/-- A group takes the kept range: present on the core that holds it, else absent and filled from its spill (R40). -/
def inherit (k : KeptRange) (g : Group) : Group :=
  let n := g.nslots / 8
  if keptHere k g.cluster g.core then
    { g with lanes := granuleVals k.vals k.first (min k.count (n - k.first)) }
  else
    { g with absent := ((List.range k.count).map (k.first + ·)).filter (· < n), fillFrom := k.area, fillAsid := k.asid,
             fillPt := k.ptbase }

/-- Place one group: its tiles are the lowest free ones of its core. -/
def placeGroup (l : Launch) (b c cl co : Nat) (s : State) (g : Nat) : State :=
  let ps := (freeTiles s cl co).take l.desc.ntiles
  let s1 := freshTiles s cl co ps
  match keptFor s l b c g with
  | none => { s1 with groups := s1.groups ++ [newGroup l b c g cl co ps] }
  | some k =>
    let s2 := if keptHere k cl co then s1 else spillKept s1 k
    { s2 with groups := s2.groups ++ [inherit k (newGroup l b c g cl co ps)] }

/-- The scratchpad run at placement: zero, every word empty (R75). -/
def clearRun (s : State) (cl co base len : Nat) : State :=
  let pa := scratchPa cl co base
  { fillZero s pa len with fe := s.fe.filter fun w => !(pa ≤ w && w < pa + len) }

/-- Where a crew's run starts, among the places that are free (R14). -/
def pickRun (s : State) (d : KDesc) (cl co : Nat) : Nat :=
  let us := freeUnits (crewsOn s cl co []) d.units
  4096 * nth us (Config.pick (s.ctr + co) us.length % max 1 us.length) 0

/-- Place one crew with its groups; the counterpart's kept ranges are used up (R13, R40). -/
def placeCrew (l : Launch) (b cl : Nat) (s : State) (p : Nat × Nat) : State :=
  let base := pickRun s l.desc cl p.1
  let s1 := clearRun { s with crews := s.crews ++ [newCrew l b p.2 cl p.1 base] } cl p.1 base (l.desc.units * 4096)
  let s2 := (List.range l.desc.groups).foldl (placeGroup l b p.2 cl p.1) s1
  match counterpart l b p.2 with
  | some k => { s2 with keptRanges := s2.keptRanges.filter fun x => crewKey x.key ≠ k }
  | none => s2

/-- The launch's entry after a band is placed: it stays until every band is (R311, R313). -/
def bandPlaced (s : State) (l : Launch) : State :=
  let l' := { l with redo := l.redo.tail, placed := if l.redo.isEmpty then l.placed + 1 else l.placed }
  let s1 := onLaunch s l.id fun _ => l'
  if bandsLeft l' then
    { s1 with entries := s1.entries.map fun e => if e.launch = l.id then { e with waitFrom := s.time, blocking := false } else e }
  else
    { s1 with
      entries := s1.entries.filter fun e => e.launch ≠ l.id
      keptRanges := if l.inh then s1.keptRanges.filter fun k => k.key.launch ≠ l.pred else s1.keptRanges }

/-- Place the next band of a launch on a cluster and its cores. -/
def placeBand (s : State) (l : Launch) (level cl : Nat) (cores : List Nat) : State :=
  let b := nextBand l
  let s1 := cores.zipIdx.foldl (placeCrew l b cl) s
  let bases := cores.zipIdx.map fun p => ((findCrew s1 { launch := l.id, band := b, crew := p.2, group := 0 }).map (·.spbase)).getD 0
  bandPlaced { s1 with bands := s1.bands ++ [{ launch := l.id, band := b, cluster := cl, cores := cores, spbases := bases,
                                               level := level, placedAt := s.time, phase := .resident, reloc := false }] } l

/-- What the distributor may do before it places a band: spill kept ranges of the cores it means to use, by a free choice (R40, R319). -/
def makeWay (s : State) (cl : Nat) (cores : List Nat) : State :=
  if (s.keptRanges.any fun k => k.cluster = cl && cores.contains k.core && !k.spilled) && Config.choice s.ctr 10 then
    cores.foldl (spillCore cl) s
  else s

/-- BAND_PLACEMENT: the search reaches the launch and its next band fits as chosen (R313, R314). -/
def execBandPlacement (id c : Nat) (cores : List Nat) (s0 : State) : Out :=
  let s := makeWay s0 c cores
  match entryOf s id, findLaunch s id with
  | some e, some l =>
    if bandsLeft l && searchReaches s e && choiceOk s l (nextBand l) c cores then .next (placeBand s l e.level c cores)
    else .next s0
  | _, _ => .next s0

/-! ### Pre-emption (R318, R319, R323) -/

/-- The crews of a band. -/
def bandCrews (s : State) (l b : Nat) : List Crew := (allCrews s).filter fun c => c.key.launch = l && c.key.band = b
/-- The groups of a band. -/
def bandGroups (s : State) (l b : Nat) : List Group := (allGroups s).filter fun g => g.key.launch = l && g.key.band = b

/-- Some group of the band is in a region that is not overrun (R323). -/
def inRegion (s : State) (l b : Nat) : Bool := (bandGroups s l b).any fun g => g.region.isSome && !g.regionOver

/-- Change a placed band. -/
def onBand (s : State) (l b : Nat) (f : Band → Band) : State :=
  { s with bands := replaceFirst (fun x => x.launch = l && x.band = b) f s.bands }

/-- The placed band. -/
def findBand (s : State) (l b : Nat) : Option Band := s.bands.find? fun x => x.launch = l && x.band = b

/-- Pre-empt a band: it leaves once its regions allow (R318, R323). -/
def preemptBand (s : State) (l b : Nat) : State :=
  onBand s l b fun x => if x.phase = .resident then { x with phase := .leaving } else x

/-- The bands a cluster can give up for a level, lowest level first, then youngest placement (R318). -/
def victims (s : State) (cl level : Nat) : List Band :=
  (List.range level).flatMap fun v =>
    (s.bands.filter fun x => x.level = v && x.cluster = cl && x.phase = .resident && !inRegion s x.launch x.band).reverse

/-- The bands whose removal makes a band fit on a cluster: one alone where one is enough, else as many as it takes (R318). -/
def chosenVictims (s : State) (l : Launch) (level cl : Nat) : List Band :=
  let vs := victims s cl level
  let fits (ws : List Band) : Bool := (assignCores s l (nextBand l) cl (ws.map fun w => (w.launch, w.band))).isSome
  match vs.find? fun v => fits [v] with
  | some v => [v]
  | none =>
    match (List.range (vs.length + 1)).find? fun n => fits (vs.take n) with
    | some n => vs.take n
    | none => []

/-- PREWAIT_EXPIRY: a blocking entry has waited PREWAIT; bands below its level make room on cluster c. While any band is still leaving
the distributor waits: whether it might start then is left open (R318; DESIGN CHOICE, log 117). -/
def execPrewaitExpiry (id c : Nat) (s : State) : Out :=
  match entryOf s id, findLaunch s id with
  | some e, some l =>
    if e.blocking && e.waitFrom + mgmtField s 0x338 31 0 * 1000 ≤ s.time && clusterLive s c
        && !(s.bands.any fun b => b.phase = .leaving) && !fitsSomewhere s l (nextBand l) then
      .next ((chosenVictims s l e.level c).foldl (fun s b => preemptBand s b.launch b.band) s)
    else .next s
  | _, _ => .next s

/-- PREEMPT_COMMAND: a supervisor command names a band, and may set its relocation bit (R318, R321). -/
def execPreemptCommand (l b : Nat) (reloc : Bool) (s : State) : Out :=
  .next (onBand (preemptBand s l b) l b fun x => { x with reloc := x.reloc || reloc })

/-- A full/empty wait splits: lanes that performed keep their effects, the others are issued again later (R244). -/
def splitWait (g : Group) : Group :=
  match g.feWait with
  | none => g
  | some w => { laneSetAll g w.writes with feWait := none, feDone := ~~~feLeftMask w }

/-- A group stops for pre-emption: open matrix operations close into a batch, its region closes; an instruction that waits for its place
in the SC order is issued again later (R109, R319, R324). -/
def stopGroup (g : Group) : Group :=
  let g := splitWait g
  let g := if g.openOps.isEmpty then g else closeBatch g
  { g with region := none, regionOver := false, scOpen := g.scOpen.filter fun e => e.use.later }

/-- Change every group of a crew. -/
def onCrewGroups (s : State) (k : GKey) (f : Group → Group) : State :=
  let h (g : Group) : Group := if g.status = .resident && crewKey g.key = crewKey k then f g else g
  { s with cur := h s.cur, groups := s.groups.map h }

/-- The streams of a crew stop (R319 steps 1 to 3). -/
def stopCrew (dbl : Bool) (s : State) (k : GKey) : State :=
  onCrewData (onCrewGroups s k stopGroup) k fun c => { c with halt := .draining dbl }

/-- An engine operation a pre-emption waits for: every one but a record that waits for its tile (R319, R373). -/
def opHolds (o : EngOp) : Bool :=
  match o.kind with
  | .nreq _ _ _ => false
  | _ => true

/-- A crew that drains has drained: lane instructions, batches, broadcast-window stores and, unless a double trap stopped it, engine
operations: pre-emption is a full fence (R117, R319, R331). -/
def drained (s : State) (c : Crew) (dbl : Bool) : Bool :=
  (groupsOfCrew s c.key).all (fun g => g.outs.isEmpty && g.batches.isEmpty && g.openOps.isEmpty && g.bslots.all (·.done))
    && (dbl || (crewOps s c.key).all fun o => !opHolds o)

/-! ### Saving (R319, R320) -/

/-- The index registers of a lane, 16 bytes (R320). -/
def ixBytes (g : Group) (l : Nat) : List Byte := (List.range 4).flatMap fun k => leBytes (ixGet g l k).toNat 4

/-- The fields of a pre-emption block below 0x1000 (R320). Bytes 0 to 3 of the handler state: in handler, MSAVE done,
region, unused; then the budget, 0 since the region is closed (DESIGN CHOICE, log 28). -/
def blockFields (g : Group) : List (Nat × List Byte) :=
  [(0, List.replicate 0x1000 0)] ++ saveFields g g.tcause g.tpc g.tval ++ [(0x300, batchBytes g.msaved g)]
    ++ [(0x600, (List.range 64).flatMap fun r => leBytes (sget g (BitVec.ofNat 6 r)).toNat 8)]
    ++ [(0x800, (List.range 32).flatMap fun l => (List.range 8).flatMap fun i => leBytes (laneGet g (cKey i l)).toNat 4)]
    ++ [(0xC00, (List.range 32).flatMap (ixBytes g))]
    ++ [(0xE00, (List.range 7).flatMap fun k => leBytes (predMask g (k + 1)).toNat 4)]
    ++ [(0xE20, (List.range 32).flatMap fun l => leBytes (lfsrGet g l).toNat 2)]
    ++ [(0xE60, leBytes (if g.handler then 1 else 0) 1 ++ leBytes (if g.msaved then 1 else 0) 1)]
    ++ [(0xE80, [g.tcause, g.tpc, g.tval, g.tvec, g.tsave, g.lcb, g.prng, g.fewait].flatMap fun v => leBytes v.toNat 8)]
    ++ [(0xEC0, leBytes g.fstat.toNat 8)]

/-- The tiles of a block. -/
def tileFields (s : State) (g : Group) : List (Nat × List Byte) :=
  (List.range g.tiles.length).map fun t => (0x1000 + 0x4000 * t, tileBytes (tileAt s (physTile g t)))

/-- The granules that are present; those still absent stand in the block already. -/
def granuleFields (g : Group) : List (Nat × List Byte) :=
  ((List.range (g.nslots / 8)).filter fun j => !g.absent.contains j).map fun j => (1024 * j, granuleBytes g.lanes j)

/-- A group set aside: every granule is absent, to fill from its block (R320, R321). -/
def parkGroup (l : Launch) (g : Group) : Group :=
  { g with
    lanes := g.lanes.filter fun p => laneKey 256 0 ≤ p.1
    absent := List.range (g.nslots / 8), fillFrom := preGranules l g.key.band g.key.crew g.key.group, fillAsid := l.asid,
    fillPt := l.ptbase }

/-- Absent granules that fill from another block: those of an inherited range. -/
def foreignGranules (l : Launch) (g : Group) : List Nat :=
  if g.fillFrom = preGranules l g.key.band g.key.crew g.key.group then [] else g.absent

/-- A word of the context area becomes poison. -/
def poisonCtx (l : Launch) (b va : Nat) (s : State) (o : Nat) : State :=
  match engineRuns s (ctxActor l b) .store (BitVec.ofNat 64 (va + o)) 4 with
  | .ok rs => rs.foldl (fun s r => poisonWord s r.pa) s
  | .error _ => s

/-- A granule inherited and not yet filled moves to the group's own block, its poison with it; nothing reads or writes it, so no fill is
counted (R38, R40). -/
def moveGranule (l : Launch) (g : Group) (s : State) (j : Nat) : State :=
  let a : Actor := { asid := g.fillAsid, ptbase := g.fillPt, priv := true, holder := 640, band := none }
  let va := preGranules l g.key.band g.key.crew g.key.group + 1024 * j
  let x := hwRead s a (BitVec.ofNat 64 (g.fillFrom + 1024 * j)) 1024
  x.lost.foldl (poisonCtx l g.key.band va) (ctxWrite x.after l g.key.band va x.bytes)

/-- Write a group's pre-emption block. -/
def saveGroup (l : Launch) (s : State) (k : GKey) : State :=
  match findGroup s k with
  | none => s
  | some g =>
    let base := preBlock l k.band k.crew k.group
    let s1 := ctxFields l k.band base s (blockFields g ++ tileFields s g)
    let s2 := ctxFields l k.band (preGranules l k.band k.crew k.group) s1 (granuleFields g)
    onGroupData ((foreignGranules l g).foldl (moveGranule l g) s2) k (parkGroup l)

/-- The full/empty bits of a run, one per word (R315). -/
def feImage (s : State) (pa len : Nat) : List Byte :=
  (List.range (len / 32)).map fun i =>
    BitVec.ofNat 8 ((List.range 8).foldl (fun n j => if setHas s.fe (pa + 32 * i + 4 * j) then n + 2 ^ j else n) 0)

/-- Write a crew's scratchpad image. -/
def saveImage (l : Launch) (s : State) (c : Crew) : State :=
  let pa := scratchPa c.cluster c.core c.spbase
  let va := imageArea l c.key.band c.key.crew
  ctxWrite (ctxWrite s l c.key.band va (memRead s pa c.splen)) l c.key.band (va + c.splen) (feImage s pa c.splen)

/-- Write the crew-state part of a crew's block: its layout is not stated, so its bytes are free; what it holds stays with the crew
(R315, log 28). -/
def saveCrewPart (l : Launch) (s : State) (c : Crew) : State :=
  ctxWrite s l c.key.band (crewArea l c.key.band c.key.crew) ((List.range 0x4000).map (Config.crewByte s.ctr))

/-- A drained crew is saved (R319 steps 5 and 6, R331). -/
def saveCrew (dbl : Bool) (s : State) (c : Crew) : State :=
  match findLaunch s c.key.launch with
  | none => s
  | some l =>
    let ks := ((groupsOfCrew s c.key).filter fun g => g.status = .resident).map (·.key)
    let s1 := saveCrewPart l (saveImage l (ks.foldl (saveGroup l) s) c) c
    onCrewData s1 c.key fun c => { c with halt := if dbl then .stopped else .saved }

/-! ### Resuming (R280, R320 to R322) -/

/-- Set the full/empty bits of a run from an image; those of a word that is lost are free values (log 118). -/
def loadFe (s : State) (pa : Nat) (x : AreaRead) : State :=
  let v := leValue x.bytes
  let bit (i : Nat) : Bool := if x.lost.contains (i / 32 * 4) then Config.choice s.ctr (pa + 4 * i) else v.testBit i
  { s with fe := (List.range (8 * x.bytes.length)).foldl (fun l i => if bit i then setAdd l (pa + 4 * i) else l) s.fe }

/-- A crew's scratchpad run comes back; what cannot be read is poison there (R118, R398, log 118). -/
def loadImage (l : Launch) (s : State) (c : Crew) : State :=
  let pa := scratchPa c.cluster c.core c.spbase
  let va := imageArea l c.key.band c.key.crew
  let x := ctxRead (clearRun s c.cluster c.core c.spbase c.splen) l c.key.band va c.splen
  let y := ctxRead x.after l c.key.band (va + c.splen) (c.splen / 32)
  poisonAt (loadFe (memWrite y.after pa x.bytes) pa y) pa x.lost

/-- A tile from what was read of its image; the elements lost are free values (log 118). -/
def tileRead (id : Nat) (x : AreaRead) : Tile :=
  let t := tileOf id x.bytes
  { t with elems := t.elems.map fun e => if x.lost.contains (4 * e.1) then (e.1, Config.tileBits (2 ^ 21 + x.after.ctr) e.1) else e }

/-- A group's tiles come back on the tiles it is given. -/
def loadTiles (l : Launch) (s : State) (g : Group) : State :=
  (List.range g.tiles.length).foldl (fun s t =>
    let x := ctxRead s l g.key.band (preBlock l g.key.band g.key.crew g.key.group + 0x1000 + 0x4000 * t) 0x4000
    tilePut x.after (tileRead (physTile g t) x)) s

/-- A group resumes on a core (R321). -/
def resumeGroup (l : Launch) (cl co : Nat) (s : State) (k : GKey) : State :=
  let ps := (freeTiles s cl co).take l.desc.ntiles
  let s1 := onGroupData s k fun g => { g with cluster := cl, core := co, tiles := ps }
  match findGroup s1 k with
  | some g => loadTiles l s1 g
  | none => s1

/-- A crew resumes on a core at a scratchpad run; deliveries to its subscriptions go on with later frames (R280, R321). One that stands
stopped after a double trap, or is over, only takes the place over (R331, R332). -/
def resumeCrew (l : Launch) (cl : Nat) (s : State) (p : Nat × Nat × Crew) : State :=
  let c := p.2.2
  let ks := ((groupsOfCrew s c.key).filter fun g => g.status = .resident).map (·.key)
  let s0 := onCrewGroups s c.key fun g => { g with cluster := cl, core := p.1, tiles := [] }
  let s1 := onCrewData s0 c.key fun c => { c with cluster := cl, core := p.1, spbase := p.2.1 }
  if c.halt = .stopped || c.halt = .over then s1
  else
    let s2 := onCrewData s1 c.key fun c => { c with halt := .running, subs := c.subs.map fun u => { u with since := frameOf s } }
    let s3 := match findCrew s2 c.key with
      | some c => loadImage l s2 c
      | none => s2
    ks.foldl (resumeGroup l cl p.1) s3

/-- The run a saved crew gets back: its own unless it is relocated (R321). -/
def resumeRun (s : State) (x : Band) (d : KDesc) (cl co i : Nat) : Option Nat :=
  let own := nth x.spbases i 0
  let us := freeUnits (crewsOn s cl co []) d.units
  if x.reloc then some (4096 * nth us (Config.pick (s.ctr + co) us.length % max 1 us.length) 0)
  else if us.contains (own / 4096) then some own else none

/-- Member i of a band needs nothing of its core: it stands stopped after a double trap until the supervisor resumes it, or it is over
(R189, R331, R332). -/
def memberStopped (s : State) (x : Band) (i : Nat) : Bool :=
  ((findCrew s { launch := x.launch, band := x.band, crew := i, group := 0 }).map fun c =>
    decide (c.halt = .stopped) || decide (c.halt = .over)).getD false

/-- The cores a saved band resumes on: its own, or with the relocation bit any that fit. While a blocking entry stands at its level or
above it waits, as a placement would: the rule is silent on this (R313, R321; DESIGN CHOICE, log 119). -/
def resumeOk (s : State) (x : Band) (l : Launch) (cl : Nat) (cores : List Nat) : Bool :=
  (x.reloc || (cl = x.cluster && cores = x.cores)) && clusterLive s cl && cores.length = l.desc.crews && decide cores.Nodup
    && cores.zipIdx.all (fun p => p.1 < 8
        && (memberStopped s x p.2 || (crewFits s l.desc cl p.1 [] none && (resumeRun s x l.desc cl p.1 p.2).isSome)))
    && !(s.entries.any fun e => e.blocking && x.level ≤ e.level)

/-- Resume a band as a gang. -/
def resumeBand (s : State) (x : Band) (l : Launch) (cl : Nat) (cores : List Nat) : State :=
  let ps := cores.zipIdx.filterMap fun p =>
    (findCrew s { launch := x.launch, band := x.band, crew := p.2, group := 0 }).map fun c =>
      (p.1, (resumeRun s x l.desc cl p.1 p.2).getD c.spbase, c)
  let s1 := ps.foldl (resumeCrew l cl) s
  onBand s1 x.launch x.band fun y =>
    { y with cluster := cl, cores := cores, spbases := ps.map (·.2.1), phase := .resident, reloc := false }

/-- BAND_RESUME (R321). -/
def execBandResume (l b c : Nat) (cores : List Nat) (s : State) : Out :=
  match findBand s l b, findLaunch s l with
  | some x, some y => if x.phase = .saved && resumeOk s x y c cores then .next (resumeBand s x y c cores) else .next s
  | _, _ => .next s

/-- A stopped crew can be given back what its core had given it (R14, R321, R331). -/
def placeFree (s : State) (l : Launch) (c : Crew) : Bool :=
  clusterLive s c.cluster && crewFits s l.desc c.cluster c.core [] none
    && (freeUnits (crewsOn s c.cluster c.core []) l.desc.units).contains (c.spbase / 4096)

/-- RESUME_STOPPED_CREW: the supervisor resumes a crew stopped after a double trap, on its own core and run once they are free
(R321, R331). -/
def execResumeStoppedCrew (k : GKey) (s : State) : Out :=
  match findCrew s k, findLaunch s k.launch, findBand s k.launch k.band with
  | some c, some l, some b =>
    if c.halt = .stopped && b.phase = .resident && placeFree s l c then
      .next (resumeCrew l c.cluster s (c.core, c.spbase, { c with halt := .running }))
    else .next s
  | _, _, _ => .next s

/-- END_STOPPED_CREW: the supervisor ends it: it holds nothing any more, and its launch completes with 0x0C (R332). -/
def execEndStoppedCrew (k : GKey) (s : State) : Out :=
  match findCrew s k with
  | some c =>
    if c.halt = .stopped then
      .next (onLaunch (onCrewData (onCrewGroups s k (finishGroup none)) k fun c => { c with halt := .over }) k.launch
        fun l => { l with status := 0x0C })
    else .next s
  | none => .next s

/-- KEPT_RANGE_RELEASE: the supervisor releases the kept ranges of a crew (R39). -/
def execKeptRangeRelease (k : GKey) (s : State) : Out :=
  .next { s with keptRanges := s.keptRanges.filter fun x => crewKey x.key ≠ crewKey k }

/-! ### Ends (R39, R42, R189, R305) -/

/-- Every group of the band has ended and every engine operation of its crews has completed. -/
def bandOver (s : State) (l b : Nat) : Bool :=
  (bandGroups s l b).all (fun g => g.status = .ended) && s.ops.all fun o => !(o.grp.launch = l && o.grp.band = b)

/-- The kept range of a group that ended with ENDK. -/
def keptOf (l : Launch) (g : Group) : Option KeptRange :=
  g.kept.map fun k =>
    { key := g.key, cluster := g.cluster, core := g.core, first := k.1, count := k.2, vals := g.lanes
      area := preGranules l g.key.band g.key.crew g.key.group, asid := l.asid, ptbase := l.ptbase, spilled := false }

/-- A band's groups, crews and operations leave the machine. -/
def dropBand (s : State) (l b : Nat) : State :=
  let mine (k : GKey) : Bool := k.launch = l && k.band = b
  { s with
    groups := s.groups.filter fun g => !mine g.key
    crews := s.crews.filter fun c => !mine c.key
    cur := if mine s.cur.key then blankGroup noGroupKey else s.cur
    crew := if mine s.crew.key then blankCrew noGroupKey else s.crew
    bands := s.bands.filter fun x => !(x.launch = l && x.band = b)
    ops := s.ops.filter fun o => !mine o.grp }

/-- A launch with every band ended completes (R305). -/
def settleLaunch (s : State) (id : Nat) : State :=
  match findLaunch s id with
  | some l =>
    if l.ended = l.bands && !bandsLeft l then
      completeWork { s with launches := s.launches.filter fun x => x.id ≠ id } l.src l.status id
    else s
  | none => s

/-- A band that is over leaves the machine, and may complete its launch (R42, R189). -/
def endBand (s : State) (x : Band) : State :=
  settleLaunch (onLaunch (dropBand s x.launch x.band) x.launch fun l => { l with ended := l.ended + 1 }) x.launch

/-- Every group of a crew has ended. -/
def crewEnded (s : State) (c : Crew) : Bool :=
  !(groupsOfCrew s c.key).isEmpty && (groupsOfCrew s c.key).all fun g => g.status = .ended

/-- A crew whose groups have all ended: its kept ranges stay attached to its core, its subscriptions go, and once its engine operations have
completed it holds nothing any more (R39, R189, R281). -/
def endCrew (s : State) (c : Crew) : State :=
  if !crewEnded s c then s
  else
    let kept := match findLaunch s c.key.launch with
      | some l => (groupsOfCrew s c.key).filterMap (keptOf l)
      | none => []
    let clear (g : Group) : Group := if crewKey g.key = c.key then { g with kept := none } else g
    onCrewData { s with keptRanges := s.keptRanges ++ kept, cur := clear s.cur, groups := s.groups.map clear } c.key
      fun c => { c with subs := [], halt := if (crewOps s c.key).isEmpty then .over else c.halt }

/-- A crew of a leaving band has come to its stop. -/
def readyToLeave (s : State) (c : Crew) : Bool := crewAway c || (c.halt = .draining false && drained s c false)

/-- The crews of a band are saved together, once all have come to their stop: until then each keeps its run, which the others may reach
(R77, R318, R319). -/
def saveBand (s : State) (x : Band) : State :=
  let s1 := (bandCrews s x.launch x.band).foldl (fun s c => if crewAway c then s else saveCrew false s c) s
  onBand s1 x.launch x.band fun y => { y with phase := .saved }

/-- What the scheduler does whenever it can: pre-emptions proceed, and drained crews are saved (R319, R323, R331). -/
def sweepDrain (s : State) : State :=
  let s1 := (s.bands.filter fun x => x.phase = .leaving && !inRegion s x.launch x.band).foldl (fun s x =>
    ((bandCrews s x.launch x.band).filter fun c => c.halt = .running).foldl (fun s c => stopCrew false s c.key) s) s
  let s2 := ((allCrews s1).filter fun c => c.halt = .draining true).foldl (fun s c => onCrewGroups s c.key stopGroup) s1
  let s3 := (allCrews s2).foldl (fun s c => if c.halt = .draining true && drained s c true then saveCrew true s c else s) s2
  (s3.bands.filter fun x => x.phase = .leaving && (bandCrews s3 x.launch x.band).all (readyToLeave s3)).foldl saveBand s3

/-- The scheduler's housekeeping, done at the end of every step: crews that have ended, pre-emptions, bands that are over (R189, R305). -/
def sweep (s : State) : State :=
  let s2 := sweepDrain ((allCrews s).foldl endCrew s)
  (s2.bands.filter fun x => bandOver s2 x.launch x.band).foldl endBand s2

end Sys2Proof.Machine
end

