-- ==== Sys2Proof/Machine/Sched.lean ====
section
/-!
DEFINITION. Sched.lean: packets, graphs, start ticks, ageing, completion queues, overruns, and the fencing of dead units
(R298 to R313, R317, R324, R333, R350 to R352).
-/
namespace Sys2Proof.Machine

/-! ### Packets (R301, R303, R306, R310) -/

/-- A packet: 64 bytes (R301). -/
abbrev Packet := BitVec 512

def pktType (p : Packet) : Nat := bitsOf p 71 64
def pktPrio (p : Packet) : Nat := bitsOf p 74 72
def pktCqe (p : Packet) : Bool := bitAt p 75
def pktNode (p : Packet) : Nat := bitsOf p 111 96
def pktNv (p : Packet) : Bool := bitAt p 127
def pktStart (p : Packet) : Nat := bitsOf p 191 128

/-- The reserved bits that every packet has. -/
def commonOk (p : Packet) : Bool := bitsOf p 126 112 = 0 && bitsOf p 95 76 = 0

/-- Reserved bits and ranges of a packet's type (R302, R303, R306, R310). -/
def typeFieldsOk (p : Packet) : Bool :=
  match pktType p with
  | 0 => true
  | 1 => bitsOf p 511 506 = 0 && bitsOf p 415 404 = 0 && bitsOf p 331 320 = 0 && bitsOf p 197 192 = 0
      && (bitAt p 504 || bitsOf p 447 416 = 0)
  | 2 => bitsOf p 511 225 = 0 && 1 ≤ bitsOf p 224 208 && bitsOf p 224 208 ≤ 65536
  | 3 => bitsOf p 511 408 = 0 && 1 ≤ bitsOf p 351 320
  | 4 => bitsOf p 511 392 = 0 && bitsOf p 194 192 = 0 && bitsOf p 327 320 ≤ 1
      && (bitsOf p 335 328 = 4 || bitsOf p 335 328 = 5)
  | 5 => bitsOf p 511 192 = 0
  | _ => false

/-- A packet that its own fields do not reject (R302). -/
def packetOk (p : Packet) : Bool := commonOk p && typeFieldsOk p

/-- A packet taken: none where a node is a relay or its packet cannot be read (R309); where it came from, its level, the arming
packet of its node (R305). -/
structure Taken where
  pkt : Option Packet
  relay : Bool
  src : Source
  level : Nat
  arm : Nat × Nat
  deriving DecidableEq, Repr

/-- Work taken from queue q is not complete (R298). -/
def queueInFlight (s : State) (q : Nat) : Bool :=
  (s.launches.any fun l => l.src.gnode.isNone && l.src.queue = q) || s.jobs.any fun j => j.src.gnode.isNone && j.src.queue = q

/-- The header address of work queue q. -/
def queueHdr (s : State) (q : Nat) : Nat := mgmtField s (0x100 + 8 * q) 51 8 * 256

/-- The address of slot i of a queue (R299). -/
def slotAt (h : QHdr) (i : Nat) : Nat := h.base + 64 * (i % h.cap)

/-- A packet at a physical address. -/
def packetAt (s : State) (pa : Nat) : Packet := BitVec.ofNat 512 (leValue (memRead s pa 64))

/-- Queue q holds a filled slot that may be taken: registered, its header readable, in order, alone if SERIAL (R298, R300). -/
def queueReady (s : State) (q : Nat) : Bool :=
  let h := readHdr s (queueHdr s q)
  q < 64 && mgmtField s (0x100 + 8 * q) 0 0 = 1 && physOk s (queueHdr s q) 256 && hdrPlaceOk h
    && physOk s (slotAt h h.rdidx.toNat) 64 && physNat s (slotAt h h.rdidx.toNat) 8 = h.rdidx.toNat
    && !(h.serial && queueInFlight s q)

/-- Take the next packet of queue q: RDIDX advances (R300). -/
def takeQueue (s : State) (q : Nat) : Option (Taken × State) :=
  if queueReady s q then
    let h := readHdr s (queueHdr s q)
    let p := packetAt s (slotAt h h.rdidx.toNat)
    some ({ pkt := some p, relay := false, level := pktPrio p, arm := (0, 0),
            src := { queue := q, cq := h.cq, seq := h.rdidx.toNat, nv := if pktNv p then some (pktNode p) else none,
                     cqe := pktCqe p, gnode := none, node := pktNode p, arm := (0, 0) } },
          memWrite s (queueHdr s q + 128) (leBytes (h.rdidx.toNat + 1) 8))
  else none

/-- Take the packet of ready node n (R309). -/
def takeNode (s : State) (n : Nat) : Option (Taken × State) :=
  match s.ready.find? fun r => r.node = n with
  | none => none
  | some r =>
    let x := spGet s.nodes n
    let pa := nodePkt x
    let p := if pa ≠ 0 && physOk s pa 64 then some (packetAt s pa) else none
    some ({ pkt := p, relay := pa = 0, level := nodePrio x, arm := (r.armQueue, r.armSeq),
            src := { queue := 0xFF, cq := mgmtField s 0x348 51 8 * 256, seq := n, nv := none, cqe := nodeCqe x,
                     gnode := some n, node := (p.map pktNode).getD 0, arm := (r.armQueue, r.armSeq) } },
          { s with ready := s.ready.erase r })

/-- What taking a packet writes: RDIDX of its queue (R300). -/
def takePlaces (s : State) : PktSrc → List (Nat × Nat)
  | .queue q => [(queueHdr s q + 128, 8)]
  | .node _ => []

/-- Take a packet from a source. -/
def takePacket (s : State) : PktSrc → Option (Taken × State)
  | .queue q => takeQueue s q
  | .node n => takeNode s n

/-- A rejected packet completes at once with 0x05, and its record is posted whatever CQE holds. LAUNCHID of the record of a rejected LAUNCH
is 0: whether that is launch work is not stated (R302, R307, R309; DESIGN CHOICE, log 115). -/
def reject (s : State) (t : Taken) : State := completeWork s { t.src with cqe := true } 5 0

/-- The translation of a COPY or SIGNAL packet, with user permission. -/
def userActor (asid ptbase : Nat) : Actor :=
  { asid := BitVec.ofNat 16 asid, ptbase := BitVec.ofNat 64 (ptbase * 4096), priv := false, holder := 640, band := none }

/-- The translation of a COPY packet, and its row (R306). -/
def copyActor (p : Packet) : Actor := userActor (bitsOf p 367 352) (bitsOf p 407 368)
def copyRow (p : Packet) : CopyRow :=
  { src := BitVec.ofNat 64 (bitsOf p 319 256), dst := BitVec.ofNat 64 (bitsOf p 255 192), len := bitsOf p 351 320 }

/-- The translation of a SIGNAL packet, and its address (R306). -/
def signalActor (p : Packet) : Actor := userActor (bitsOf p 351 336) (bitsOf p 391 352)
def signalVa (p : Packet) : W64 := BitVec.ofNat 64 (bitsOf p 255 192)

/-- What the work of a COPY or SIGNAL packet writes. -/
def packetPlaces (s : State) (p : Packet) : List (Nat × Nat) :=
  if pktType p = 3 then ownedBy s (copyActor p) [copyRow p]
  else if pktType p = 4 then ownedBy s (signalActor p) [{ src := 0, dst := signalVa p, len := 8 }]
  else []

/-- A packet waits for START, or until no cluster holds a word of what it writes (R114, R346, log 9), or its work is done now (R301,
R306). -/
def startOrWait (s : State) (t : Taken) (p : Packet) (launch : Nat) (now : State → Source → State) : State :=
  if s.time < pktStart p || !devReady s (packetPlaces s p) then
    { s with
      nextId := s.nextId + 1
      jobs := s.jobs ++ [{ id := s.nextId, pkt := p, src := t.src, level := t.level, start := pktStart p, waiting := true,
                           nodes := [], launch := launch }] }
  else now s t.src

/-- Take a packet if it has a type: a rejected one completes, another is given to `act` (R302). -/
def onPacket (typ : Nat) (src : PktSrc) (act : State → Taken → Packet → State) (s : State) : Out :=
  match takePacket s src with
  | some (t, s1) =>
    match t.pkt with
    | some p =>
      if pktType p = typ then .next (whenReady s (takePlaces s src) (if packetOk p then act s1 t p else reject s1 t)) else .next s
    | none => .next s
  | none => .next s

/-- NOP_PACKET: a NOP completes at once; a packet of no type and one that cannot be read are rejected; a relay node
completes at once (R302, R309). -/
def execNopPacket (src : PktSrc) (s : State) : Out :=
  match takePacket s src with
  | some (t, s1) =>
    match t.pkt with
    | some p =>
      if pktType p = 0 && commonOk p then .next (whenReady s (takePlaces s src) (completeWork s1 t.src 0 0))
      else if pktType p = 0 || 6 ≤ pktType p then .next (whenReady s (takePlaces s src) (reject s1 t))
      else .next s
    | none => .next (if t.relay then completeWork s1 t.src 0 0 else reject s1 t)
  | none => .next s

/-! ### LAUNCH (R303 to R305, R311) -/

/-- A launch's translation (R304). -/
def launchActor (p : Packet) : Actor :=
  { asid := BitVec.ofNat 16 (bitsOf p 463 448), ptbase := BitVec.ofNat 64 (bitsOf p 503 464 * 4096), priv := bitAt p 505,
    holder := 640, band := none }

/-- A kernel descriptor, if its fields are valid (R304). -/
def parseDesc (d : BitVec 512) : Option KDesc :=
  if bitsOf d 511 269 = 0 && bitsOf d 268 264 ≤ 16 && bitsOf d 263 257 ≤ 64 && bitsOf d 256 250 ≤ 64 && bitsOf d 249 242 ≤ 192
      && bitsOf d 241 237 ≤ 16 && bitsOf d 195 192 = 0 && bitsOf d 129 128 = 0 && bitsOf d 67 64 = 0 && bitsOf d 1 0 = 0 then
    some { entry := BitVec.ofNat 64 (bitsOf d 63 0), lcb := BitVec.ofNat 64 (bitsOf d 127 64)
           tvec := BitVec.ofNat 64 (bitsOf d 191 128), stksz := bitsOf d 223 192, groups := bitsOf d 227 224 + 1
           crews := bitsOf d 230 228 + 1, nslots := 8 * (bitsOf d 236 232 + 1), ntiles := bitsOf d 241 237
           units := bitsOf d 249 242, ntags := bitsOf d 256 250, nbbs := bitsOf d 263 257, ncbs := bitsOf d 268 264
           restart := bitAt d 231 }
  else none

/-- Bytes read through a translation by the scheduler, or the status that refuses them. -/
def schedRead (s : State) (a : Actor) (va : W64) (n : Nat) : Except Byte (List Byte) :=
  match engineRuns s a .load va n with
  | .error st => .error st
  | .ok rs =>
    match sourceBad s rs with
    | some st => .error st
    | none => .ok (readRuns s rs)

/-- The kernel descriptor of a LAUNCH packet; none where it cannot be read or is invalid (R302, R304). -/
def launchDesc (s : State) (p : Packet) : Option KDesc :=
  match schedRead s (launchActor p) (BitVec.ofNat 64 (bitsOf p 255 192)) 64 with
  | .ok bs => parseDesc (BitVec.ofNat 512 (leValue bs))
  | .error _ => none

/-- A launch's identity (R305). -/
def launchIdent (t : Taken) : Nat :=
  match t.src.gnode with
  | none => t.src.queue * 2 ^ 25 + t.src.seq % 2 ^ 25
  | some n => 2 ^ 31 + (t.arm.1 * 512 + t.arm.2 % 512) * 65536 + n

/-- A launch as accepted. -/
def newLaunch (t : Taken) (p : Packet) (d : KDesc) : Launch :=
  { id := launchIdent t, desc := d, bands := bitsOf p 403 384 + 1, priv := bitAt p 505, inh := bitAt p 504
    pred := bitsOf p 447 416, ptbase := (launchActor p).ptbase, asid := (launchActor p).asid
    ctx := BitVec.ofNat 64 (bitsOf p 383 320), param := BitVec.ofNat 64 (bitsOf p 319 256), src := t.src, placed := 0
    redo := [], ended := 0, status := 0 }

/-- A launch enters the tail of its level (R311). -/
def enterLevel (level id : Nat) (s : State) : State :=
  { s with entries := s.entries ++ [{ launch := id, level := level, waitFrom := s.time, blocking := false }] }

/-- LAUNCH. -/
def launchPacket (s : State) (t : Taken) (p : Packet) : State :=
  match launchDesc s p with
  | none => reject s t
  | some d =>
    let l := newLaunch t p d
    let s := readMarks s (launchActor p) [(BitVec.ofNat 64 (bitsOf p 255 192), 64)]
    startOrWait { s with launches := s.launches ++ [l] } t p l.id fun s _ => enterLevel t.level l.id s

/-- LAUNCH (R303). -/
def execLaunch (src : PktSrc) (s : State) : Out := onPacket 1 src launchPacket s

/-! ### COPY, SIGNAL, TIME (R306) -/

/-- COPY's effect, as CPY (R277). -/
def runCopyPacket (p : Packet) (s : State) (src : Source) : State :=
  let r := copyRows s (copyActor p) none s.hist.length [copyRow p]
  completeWork r.2 src r.1 0

/-- COPY (R306). -/
def execCopy (src : PktSrc) (s : State) : Out :=
  onPacket 3 src (fun s t p => startOrWait s t p 0 (runCopyPacket p)) s

/-- SIGNAL's store or atomic add of 8 bytes: its status and the state after (R306). -/
def signalEffect (p : Packet) (s : State) : Byte × State :=
  let a := signalActor p
  let va := signalVa p
  let add := bitsOf p 327 320 = 1
  match engineRuns s a .store va 8 with
  | .error st => (st, s)
  | .ok rs =>
    if !s.linkUp && rs.any (fun r => r.place = .host) then (0x08, s)
    else
      match firstErr (if add then atomErr s else storeErr s) rs with
      | some e => (errStatus e, s)
      | none =>
        let old := if add then leValue (readRuns s rs) else 0
        (0, engineWrite (touchRuns s a .store va rs) none rs (leBytes (old + bitsOf p 319 256) 8))

/-- SIGNAL's effect and completion. -/
def runSignal (p : Packet) (s : State) (src : Source) : State :=
  completeWork (signalEffect p s).2 src (signalEffect p s).1 0

/-- SIGNAL (R306). -/
def execSignal (src : PktSrc) (s : State) : Out := onPacket 4 src (fun s t p => startOrWait s t p 0 (runSignal p)) s

/-- TIME: completes at START (R306). -/
def execTime (src : PktSrc) (s : State) : Out :=
  onPacket 5 src (fun s t p => startOrWait s t p 0 fun s src => completeWork s src 0 0) s

/-! ### GRAPH (R310) -/

/-- The nodes a GRAPH packet arms. -/
def graphNodes (p : Packet) : List Nat := (List.range (bitsOf p 224 208)).map fun i => (bitsOf p 207 192 + i) % 65536

/-- COUNT := INIT. -/
def armNode (m : Sparse 256) (n : Nat) : Sparse 256 := spSet m n (setCount (spGet m n) (nodeInit (spGet m n)))

/-- Arm the nodes; those with INIT 0 are ready; the packet completes when all have completed. -/
def runGraph (p : Packet) (s : State) (src : Source) : State :=
  let ns := graphNodes p
  let j : Job := { id := s.nextId, pkt := p, src := src, level := 0, start := 0, waiting := false, nodes := ns, launch := 0 }
  let s1 := { s with nextId := s.nextId + 1, jobs := s.jobs ++ [j], nodes := ns.foldl armNode s.nodes }
  (ns.filter fun n => nodeInit (spGet s.nodes n) = 0).foldl readyNode s1

/-- GRAPH: rejected where a node dispatches it (R309, R310). -/
def execGraph (src : PktSrc) (s : State) : Out :=
  onPacket 2 src (fun s t p => if t.src.gnode.isSome then reject s t else startOrWait s t p 0 (runGraph p)) s

/-! ### START, ageing, blocking (R311 to R313) -/

/-- What a packet that waited for START does. -/
def startJob (j : Job) (s : State) : State :=
  match pktType j.pkt with
  | 1 => enterLevel j.level j.launch s
  | 2 => runGraph j.pkt s j.src
  | 3 => runCopyPacket j.pkt s j.src
  | 4 => runSignal j.pkt s j.src
  | _ => completeWork s j.src 0 0

/-- START_REACHED (R312). -/
def execStartReached (id : Nat) (s : State) : Out :=
  match s.jobs.find? fun j => j.id = id with
  | some j =>
    if j.waiting && j.start ≤ s.time then
      .next (whenReady s (packetPlaces s j.pkt) (startJob j { s with jobs := s.jobs.filter fun x => x.id ≠ id }))
    else .next s
  | none => .next s

/-- AGEING: an entry that waited AGE moves to the tail of the next level (R311). -/
def execAgeing (id : Nat) (s : State) : Out :=
  match entryOf s id with
  | some e =>
    if dueToAge s e then
      .next (enterLevel (e.level + 1) id { s with entries := s.entries.erase e })
    else .next s
  | none => .next s

/-- BLOCKING: an entry that waited 100 µs unplaced at a level that does not age (R313). -/
def execBlocking (id : Nat) (s : State) : Out :=
  match entryOf s id, findLaunch s id with
  | some e, some l =>
    if !e.blocking && dueToBlock s e && searchReaches s e && !fitsSomewhere s l (nextBand l) then
      .next { s with entries := replaceFirst (fun x => x.launch = id) (fun x => { x with blocking := true, waitFrom := s.time }) s.entries }
    else .next s
  | _, _ => .next s

/-! ### Completion queues (R299, R307, R395) -/

/-- A valid completion-queue header; IRQ bit 6 counts as a field that must be zero (R6, R298, R307, log 23). -/
def cqHdrOk (s : State) (cq : Nat) : Bool :=
  let h := readHdr s cq
  physOk s cq 256 && !h.reserved && h.kind = 1 && hdrPlaceOk h && !h.irq.testBit 6

/-- The event that names an unusable completion queue (R307, R430). -/
def cqEvent (s : State) (x : Post) : State :=
  let r := x.record
  postEvent s { typ := 0x83, status := 5, queue := bitsOf r 87 80, node := bitsOf r 127 96, srcseq := bitsOf r 191 128,
                launch := bitsOf r 287 256, band := bitsOf r 307 288, crew := bitsOf r 310 308, group := bitsOf r 314 311,
                d0 := x.cq, d2 := 3 }

/-- A queue whose header is found invalid: one event, none about the event queue itself (R307). -/
def cqUnusable (s : State) (x : Post) : State :=
  if s.badQueues.contains x.cq then s
  else
    let s1 := { s with badQueues := s.badQueues ++ [x.cq] }
    if x.sup then s1 else cqEvent s1 x

/-- Raise vector v, or leave it pending where the table masks it (R395). -/
def raiseVector (s : State) (v : Nat) : State :=
  if s.vecMask.contains v then { s with vecPend := setAdd s.vecPend v } else { s with vecRaised := s.vecRaised ++ [v] }

/-- The vector of a posted record (R395). -/
def postIrq (s : State) (irq : Nat) : State :=
  if irq.testBit 7 && bitAt (mgmtRaw s 0x350) (irq % 64) then raiseVector s (irq % 64) else s

/-- Write a record at the index claimed for it, SEQ last (R299, R307). -/
def writeRecord (s : State) (h : QHdr) (w : Nat) (r : BitVec 512) : State :=
  let s1 := memWrite s (slotAt h w + 8) ((leBytes r.toNat 64).drop 8)
  postIrq (memWrite s1 (slotAt h w) (leBytes w 8)) h.irq

/-- The first held record of a queue moves on: it claims an index by WRIDX, and is written once there is room (R307). -/
def postNext (s : State) (x : Post) : State :=
  let h := readHdr s x.cq
  let w := x.claim.getD h.wridx.toNat
  let s1 := if x.claim.isNone then memWrite s x.cq (leBytes (w + 1) 8) else s
  let s2 := { s1 with badQueues := s1.badQueues.filter (· ≠ x.cq) }
  if (BitVec.ofNat 64 w - h.rdidx).toNat < h.cap && physOk s (slotAt h w) 64 then
    writeRecord { s2 with posts := s2.posts.erase x } h w x.record
  else { s2 with posts := replaceFirst (fun y => y = x) (fun y => { y with claim := some w }) s2.posts }

/-- What posting the first held record of a queue writes. -/
def postPlaces (s : State) (x : Post) : List (Nat × Nat) :=
  let h := readHdr s x.cq
  [(x.cq, 8), (slotAt h (x.claim.getD h.wridx.toNat), 64)]

/-- CQ_HEADER_RECHECK: the scheduler reads a completion queue's header and posts its first held record if it can (R307). -/
def execCqHeaderRecheck (cq : Nat) (s : State) : Out :=
  match s.posts.find? fun x => x.cq = cq with
  | some x => .next (if cqHdrOk s cq then whenReady s (postPlaces s x) (postNext s x) else cqUnusable s x)
  | none => .next s

/-! ### Regions and the throttle (R317, R324) -/

/-- REGION_OVERRUN (R324). -/
def execRegionOverrun (k : GKey) (s : State) : Out :=
  match findGroup s k with
  | some g => .next (settleOverrun s g)
  | none => .next s

/-- THROTTLE_WINDOW: M for the next window; it changes only which groups may issue, which is time (R317). -/
def execThrottleWindow (c co h : Nat) (s : State) : Out :=
  let id := c * 8 + co
  if c < 64 && co < 8 then
    .next { s with throttle := (id, max 2 (16 - h / 64)) :: s.throttle.filter fun t => t.1 ≠ id }
  else .next s

/-! ### Fencing (R333, R350, R351) -/

/-- Slots the dead unit stamped before F are still to be applied. -/
def earlierSlots (s : State) (w f : Nat) : Bool := s.planes.any fun q => q.sent.any fun x => x.writer = w && decide (x.frame < f)

/-- An unreadable slot of the dead unit holds a plane. -/
def holdsPlane (s : State) (w p : Nat) : Bool :=
  match (nth s.planes p idlePlane).bad with
  | some (x, _) => x = w
  | none => false

/-- An unreadable slot of a dead unit will never be replayed: its plane goes on, with the slot where it was stamped before F, for every
reader applies those (R350, R353, log 9). -/
def dropBad (w : Nat) (s : State) (p : Nat) : State :=
  if holdsPlane s w p then
    resumePlane (onPlane s p fun q => { q with replays := q.replays.filter fun r => r.1 ≠ w, again := q.again.filter fun a => a.1 ≠ w }) p
  else s

/-- The plane forgets the unit, as a writer and as a reader; one that it alone could not read goes on (R350). -/
def planeWithout (w : Nat) (q : Plane) : Plane :=
  let keep (x : Slot) : Bool := x.writer ≠ w
  let readers := q.readers.filter fun r => r.1 ≠ w
  let gone := readers.isEmpty && !q.readers.isEmpty
  { pend := q.pend.filter keep, sent := q.sent.filter keep, kept := q.kept.filter keep
    bad := if gone then none else q.bad, failed := if gone then none else q.failed, readers := readers, holds := q.holds.erase w
    replays := q.replays.filter fun r => r.1 ≠ w, again := q.again.filter fun a => a.1 ≠ w
    takeover := if gone then none else q.takeover, retuning := q.retuning && !gone }

/-- An operation carried out in the dead stack's unit, targeting it, or served by its router (R350, R373). -/
def opFenced (s : State) (w : Nat) (o : EngOp) : Bool :=
  64 ≤ w && (opUnit o = some (w - 64) || (o.owned.any fun r => homeStack r.pa = some (w - 64))
    || (match o.kind with
        | .nreq _ _ pn => homeHere s (pnHome s pn) && routerWriter (rdvRouter pn) = w && o.stage ≠ .issued
        | .npub _ pn _ => o.stage = .sent && o.port.isNone && routerWriter (rdvRouter pn) = w
        | _ => false))

/-- The lines whose filter entry includes the dead cluster (R351). -/
def filedLines (s : State) (w : Nat) : List Nat := (s.filter.filter fun e => e.clusters.getLsbD w).map (·.line)

/-- The words of a line whose latest exclusive grant the dead cluster holds (R351). -/
def grantedMask (s : State) (w line : Nat) : W32 := wordMask fun i => (wordDir s (line * 128 + 4 * i)).grantee = some w

/-- The home of a line sends POISON for such words (R351). -/
def sendPoison (w : Nat) (s : State) (line : Nat) : State :=
  match homeStack (line * 128) with
  | some st => if grantedMask s w line = 0 then s else queueSlot s (planeOf line) (64 + st) (.poison line (grantedMask s w line))
  | none => s

/-- A TLB holder of a unit: the cores, the cluster TLB, the copy engines and the named-tile engine of a cluster, the Loam unit of a
stack (R89). -/
def unitHolder (w h : Nat) : Bool :=
  if w < 64 then (h < 512 && h / 8 = w) || h = 1024 + w || (decide (2048 ≤ h) && h < 2560 && (h - 2048) / 8 = w) || h = 4096 + w
  else h = 448 + w

/-- The words of the dead cluster are no one's copies any more, and the owner filter follows (R350, R351). -/
def dropHolder (s : State) (w : Nat) : State :=
  let without (d : WordDir) : WordDir := fitL1 { d with holders := d.holders.filter fun h => h.1 ≠ w }
  let s1 := { s with dir := s.dir.map without }
  s1.filter.foldl (fun s e => refreshFilter s e.line) s1

/-- What meets at a dead stack's router is served no longer: each face of an entry is told, and a publication on its way or waiting ends
with 0x0C (R350, R373). -/
def endMeeting (s : State) (r : Nat) : State :=
  let x := routerAt s r
  let s1 := (x.pit.filter fun e => !e.tomb).foldl (fun s e => answerFaces .unserved r e.pennant [0x0C] e.faces s) s
  (x.waiting ++ s.net.filter fun m => m.site = r).foldl (fun s m =>
    match m.kind, m.frm with
    | .interest, f => answerFaces .unserved r m.pennant [0x0C] [f] s
    | .publication, _ => endPub s (onward m r) 0x0C
    | _, _ => s) s1

/-- The dead unit's links are disabled: what was on its way to its engine is lost, and so is what a dead stack's router holds; a cluster's
router stays as it is (R350, R419). -/
def dropLinks (s : State) (w : Nat) : State :=
  let s1 := ((List.range 80).filter fun r => routerDead s r && routerWriter r = w).foldl endMeeting s
  { s1 with
    net := s1.net.filter fun m => m.site ≠ 80 + w && !(m.site < 80 && routerDead s m.site)
    routers := s1.routers.filter fun r => !routerDead s r.1 }

/-- The coherence layer without the unit (R346, R350, R351). -/
def fenceLayer (s : State) (w : Nat) : State :=
  let s1 := { s with
    planes := s.planes.map (planeWithout w)
    reqs := s.reqs.filter fun r => r.cluster ≠ w
    invals := s.invals.map (countAck w)
    tlb := s.tlb.filter fun t => !unitHolder w t.holder
    collects := s.collects.filter fun c => c.writer ≠ w
    cur := { s.cur with bfenced := true }
    hostWrites := s.hostWrites.filter fun x => homeStack x.pa ≠ some (w - 64) || decide (w < 64)
    groups := s.groups.map fun g => { g with bfenced := true } }
  dropHolder ((filedLines s1 w).foldl (sendPoison w) s1) w

/-- Operations the fence ends, but for those whose end is still to be delivered (R350); an interest with no record left is in flight no
longer (R360, R373). -/
def fenceOps (s : State) (w : Nat) : State :=
  let ended (o : EngOp) : Bool := match o.stage with
    | .ended _ => true
    | _ => false
  let s1 := { s with ops := s.ops.map fun o => if opFenced s w o && !ended o then { o with stage := .ended 0x0C } else o }
  { s1 with wants := s1.wants.filter fun x => x.cluster ≠ w && !(localRecords s1 x.cluster x.pennant).isEmpty }

/-- A band of the fenced cluster is placed again from its start (R333). -/
def redoBand (s : State) (x : Band) : State :=
  let s1 := onLaunch (dropBand s x.launch x.band) x.launch fun l => { l with redo := l.redo ++ [x.band] }
  if (entryOf s1 x.launch).isSome then s1 else enterLevel x.level x.launch s1

/-- A band of the fenced cluster is lost: an event for each of its crews (R333, R430). -/
def loseBand (w : Nat) (s : State) (x : Band) : State :=
  let s1 := (bandCrews s x.launch x.band).foldl (fun s c =>
    postEvent s { typ := 0x83, status := 0x0C, launch := c.key.launch, band := c.key.band, crew := c.key.crew, d0 := w, d2 := 5 }) s
  settleLaunch (onLaunch (dropBand s1 x.launch x.band) x.launch fun l => { l with ended := l.ended + 1, status := 0x0C }) x.launch

/-- A band of the fenced cluster. -/
def fenceBand (w : Nat) (s : State) (x : Band) : State :=
  match findLaunch s x.launch with
  | some l => if l.desc.restart then redoBand s x else loseBand w s x
  | none => dropBand s x.launch x.band

/-- FENCING: every effect of a dead unit's fence, once its earlier slots have been applied, but for one that no one will ever read
(R333, R350, R351). -/
def execFencing (w : Nat) (s : State) : Out :=
  match s.dead.find? fun d => d.1 = w && d.2 ≠ 0 with
  | some d =>
    if frameOf s < d.2 then .next s
    else if (List.range 8).any (holdsPlane s w) then .next ((List.range 8).foldl (dropBad w) s)
    else if earlierSlots s w d.2 then .next s
    else
      let s1 := fenceOps (fenceLayer s w) w
      let s2 := (s1.bands.filter fun x => x.cluster = w && x.phase ≠ .saved).foldl (fenceBand w) s1
      .next (dropLinks { s2 with
        dead := replaceFirst (fun y => y = d) (fun _ => (w, 0)) s2.dead
        keptRanges := s2.keptRanges.filter fun k => k.cluster ≠ w } w)
  | none => .next s

/-! ### The record is rewritten (R352, R419) -/

/-- The quadrant whose spare takes a logical number: its own first. -/
def spareQuadrant (s : State) (c : Nat) : Option Nat :=
  let sp := mgmtField s 0x18 3 0
  if sp.testBit (c / 16) then some (c / 16) else (List.range 4).find? fun q => sp.testBit q

/-- The scrub after a fence has not finished: a POISON slot has not been applied (R351, R352). -/
def scrubbing (s : State) : Bool :=
  s.planes.any fun q => (q.pend ++ q.sent).any fun x =>
    match x.msg with
    | .poison _ _ => true
    | _ => false

/-- The registers that show the record in force: RECSEQ and RECDIGEST (R418, R425, R427). -/
def showRecord (s : State) : State :=
  let r := recordNow s
  (List.range 8).foldl (fun s i => mgmtPut s (0x1048 + 8 * i) 63 0 (Config.recordDigest r.seq r.test r.map r.spares i).toNat)
    (mgmtPut s 0x08 47 16 r.seq.toNat)

/-- A new record is signed and written over the copy not in force, with RECSEQ one higher (R418). -/
def writeRecordCopy (s : State) (test : Nat) (map : List (Option Nat)) (spares : W64) : State :=
  let r : Record := { seq := (recordNow s).seq + 1, test := test, map := map, spares := spares, signed := true }
  showRecord { s with flash := s.flash.set (1 - recordPlace s) r }

/-- The record in force with physical cluster x, or none, as the carrier of a logical number, and some spares (R352, R419). -/
def rewriteRecord (s : State) (c : Nat) (x : Option Nat) (spares : W64) : State :=
  writeRecordCopy s (recordNow s).test ((recordNow s).map.set c x) spares

/-- RECORD_REWRITE, once the scrub has finished: a spare, physical cluster 64 + q of quadrant q, carries the dead number and its slots are
accepted from the next frame on, or the number becomes absent (R352, R419). -/
def execRecordRewrite (c : Nat) (s : State) : Out :=
  if c < 64 && s.dead.contains (c, 0) && clusterPresent s c && !scrubbing s then
    match spareQuadrant s c with
    | some q =>
      let s1 := mgmtPut s 0x18 q q 0
      .next { rewriteRecord s1 c (some (64 + q)) (mgmtRaw s1 0x18) with
        dead := s.dead.filter fun d => d.1 ≠ c
        mute := setDel s.mute c
        joined := (c, frameOf s + 1) :: s.joined.filter fun j => j.1 ≠ c
        beats := (c, s.time) :: s.beats.filter fun b => b.1 ≠ c }
    | none => .next (rewriteRecord (mgmtPut s 0x10 c c 0) c none (mgmtRaw s 0x18))
  else .next s

end Sys2Proof.Machine
end

