-- ==== Sys2Proof/Machine/Attach.lean ====
section
/-!
DEFINITION. Attach.lean: the ends of engine operations, windows and peers, the host window, the CXL link, management commands
and attestation (R265, R289, R290, R394 to R405, R425).
-/
namespace Sys2Proof.Machine

/-! ### An engine operation ends (R265, R289, R290) -/

/-- The completion word: SEQ, DONE, STATUS (R289). -/
def completionWord (seq : W32) (st : Byte) : Nat := seq.toNat * 2 ^ 32 + 2 ^ 31 + st.toNat

/-- The event for a completion word that could not be written (R289, R430). -/
def wordEvent (s : State) (o : EngOp) (cword : W64) (seq : W32) (st : Byte) : State :=
  postEvent s { typ := 0x83, status := st.toNat, launch := o.grp.launch, band := o.grp.band, crew := o.grp.crew
                group := o.grp.group, d0 := cword.toNat, d1 := seq.toNat, d2 := 4 }

/-- The unit writes the completion word with release, or reports that its page does not let it (R289, R430). -/
def writeWord (s : State) (o : EngOp) (cword : W64) (seq : W32) (st : Byte) : State :=
  match cmdLine (opActor o) none s cword (leBytes (completionWord seq st) 8) with
  | .ok s1 => s1
  | .error e => if e = 1 || e = 2 || e = 3 then wordEvent s o cword seq e else s

/-- An operation whose work is over delivers its status; a completion word is written once no cluster holds it (R265, R289, R346). -/
def deliverEnd (s : State) (o : EngOp) (st : Byte) : State :=
  match o.kind with
  | .skcmd _ cword seq =>
    whenReady s (ownedBy s (opActor o) [{ src := 0, dst := cword, len := 8 }]) (finishOp (writeWord s o cword seq st) o st)
  | _ => finishOp s o st

/-- A copy runs and ends, once every line of its destination is its own (R114, R277, R278). -/
def finishCopy (s : State) (o : EngOp) (rows : List CopyRow) : State :=
  if ownsAll o then
    let r := copyRows s (opActor o) (some o) o.mark rows
    finishOp r.2 o r.1
  else s

/-- A window reference (R290): peer, window, offset. -/
def refPeer (r : W64) : Nat := bitsOf r 63 48
def refWin (r : W64) : Nat := bitsOf r 47 32

/-- A status the link or the peer may give a request (R290, R350, R404). -/
def remoteStatus (st : Byte) : Bool := st = 1 || st = 2 || st = 3 || st = 4 || st = 8 || st = 9 || st = 0x0C

/-- Traffic for a device cannot leave (R402, R408); 0xFFFF names no device. -/
def peerAway (s : State) (d : Nat) : Bool := d = 0xFFFF || (portTo s d).isNone

/-- The port by which traffic for a device leaves now, if its link is up: until it is, an operation waits (R402, R408, R412). -/
def linkOut (s : State) (d : Nat) : Option Nat := (portTo s d).filter fun p => lstate s p = 0

/-- The operation's request is on its way (R408). -/
def opAway (o : EngOp) : Bool := o.port.isSome

/-- The request of an operation leaves by the port that leads to a device, once the link is up (R402, R408). -/
def sendOff (s : State) (o : EngOp) (d : Nat) : State :=
  match linkOut s d with
  | some p => putOp s { o with port := some p }
  | none => s

/-- Why a PUT ends at its origin, if it does: its source, its sent-complete entry, the link (R266, R290, R402, R405). -/
def putFailure (s : State) (o : EngOp) (ref src : W64) (n : Nat) : Option Byte :=
  match cmdSource s o src.toNat n with
  | .error st => some st
  | .ok _ =>
    if (sentEntry s (refPeer ref) (refWin ref)).isNone then some 0x09
    else if peerAway s (refPeer ref) then some 0x08
    else none

/-- A PUT that fails before it leaves, leaves, or is answered with a failure. -/
def endPut (s : State) (o : EngOp) (ref src : W64) (n : Nat) (st : Byte) : State :=
  if opAway o then (if remoteStatus st then finishOp s o st else s)
  else
    match putFailure s o ref src n with
    | some x => finishOp s o x
    | none => sendOff s o (refPeer ref)

/-- A GET that fails before it leaves, leaves, is answered with a failure, or whose bytes have come and whose destination is its own
(R114, R290). -/
def endGet (s : State) (o : EngOp) (dst ref : W64) (n : Nat) (st : Byte) (data : List Byte) : State :=
  match pagesBad s o .store dst.toNat n with
  | some x => finishOp s o x
  | none =>
    if !opAway o then (if peerAway s (refPeer ref) then finishOp s o 0x08 else sendOff s o (refPeer ref))
    else if remoteStatus st then finishOp s o st
    else if st = 0 && data.length = n && ownsAll o then
      let r := cmdWrite s o dst.toNat data
      finishOp r.2 o r.1
    else s

/-- A publication that has gone to another device ends with the status that device gives (R350, R359, R364). -/
def endRemotePub (s : State) (o : EngOp) (st : Byte) : State :=
  if opAway o && (st = 0 || st = 5 || st = 8 || st = 0x0A || st = 0x0C) then finishOp s o st else s

/-- ENGINE_OPERATION_COMPLETE of an operation. -/
def completeOp (s : State) (o : EngOp) (st : Byte) (data : List Byte) : State :=
  match o.stage, o.kind with
  | .ended x, _ => deliverEnd s o x
  | .issued, .cpy src dst n => finishCopy s o [{ src := src, dst := dst, len := n }]
  | .issued, .cpy2d src dst rb rows sp dp => finishCopy s o (rows2d src dst rb rows sp dp)
  | .issued, .put ref src n => endPut s o ref src n st
  | .issued, .get dst ref n => endGet s o dst ref n st data
  | .sent, .npub _ _ _ => endRemotePub s o st
  | _, _ => s

/-- ENGINE_OPERATION_COMPLETE: `st` and `data` are what a peer answers (R265). -/
def execEngineOperationComplete (id : Nat) (st : Byte) (data : List Byte) (s : State) : Out :=
  match findOp s id with
  | some o => .next (completeOp s o st data)
  | none => .next s

/-- The target has performed a PUT: SENT rises, and the PUT ends; until no cluster holds the counter the PUT keeps waiting (R290, R346,
R405). -/
def raiseSent (s : State) (o : EngOp) (ref src : W64) (n : Nat) : State :=
  match putFailure s o ref src n, sentEntry s (refPeer ref) (refWin ref) with
  | none, some pa =>
    let t := putOp s { o with stage := .sent }
    whenReady t [(pa + 8, 8)]
      (endOp (memWrite (readMarks t (opActor o) [(src, n)]) (pa + 8) (leBytes (physNat s (pa + 8) 8 + n) 8)) o 0)
  | some st, _ => endOp s o st
  | none, none => s

/-- SENT_COMPLETE: the target has performed a PUT that is on its way (R290, R405). -/
def execSentComplete (id : Nat) (s : State) : Out :=
  match findOp s id with
  | some o =>
    match o.stage, o.kind with
    | .issued, .put ref src n => .next (if opAway o then raiseSent s o ref src n else s)
    | .sent, .put ref src n => .next (raiseSent s o ref src n)
    | _, _ => .next s
  | none => .next s

/-! ### Requests of peers (R290, R403, R404) -/

/-- A registered window (R403, R404). -/
structure Window where
  at_ : Nat
  put : Bool
  get : Bool
  len : Nat
  base : W64
  actor : Actor
  deriving DecidableEq, Repr

/-- Window w of this device; none where it is not registered. -/
def windowOf (s : State) (w : Nat) : Option Window :=
  (windowEntry s w).map fun pa =>
    let e : BitVec 256 := BitVec.ofNat 256 (physNat s pa 32)
    { at_ := pa, put := bitAt e 65, get := bitAt e 66, len := bitsOf e 63 32
      base := BitVec.ofNat 64 (physNat s (mgmtField s 0xF718 51 12 * 4096 + 32 * mgmtField s 0xF720 16 0 + 8 * w) 8)
      actor := { asid := BitVec.ofNat 16 (bitsOf e 95 80), ptbase := BitVec.ofNat 64 (bitsOf e 179 140 * 4096), priv := false
                 holder := 641, band := none } }

/-- A request that the window's checks admit; else its status (R404). -/
def windowFor (s : State) (w off n : Nat) (put : Bool) : Except Byte Window :=
  match windowOf s w with
  | some x => if (if put then x.put else x.get) && off + n ≤ x.len then .ok x else .error 0x09
  | none => .error 0x09

/-- Answer the peer. -/
def answer (s : State) (st : Byte) (bs : List Byte) : State := { s with reply := (st, bs) }

/-- The bytes of a PUT are performed, then ARRIVED rises (R115, R290). -/
def putArrives (s : State) (x : Window) (off : Nat) (data : List Byte) : State :=
  let va := x.base.toNat + off
  match engineRuns s x.actor .store (BitVec.ofNat 64 va) data.length with
  | .error st => answer s st []
  | .ok _ =>
    let r := actorWrite s x.actor none va data
    if r.1 = 0 then answer (memWrite r.2 (x.at_ + 24) (leBytes (physNat r.2 (x.at_ + 24) 8 + data.length) 8)) 0 []
    else answer r.2 r.1 []

/-- What a PUT writes: its bytes, and ARRIVED. -/
def putPlaces (s : State) (x : Window) (off n : Nat) : List (Nat × Nat) :=
  (x.at_ + 24, 8) :: ownedBy s x.actor [{ src := 0, dst := x.base + BitVec.ofNat 64 off, len := n }]

/-- REMOTE_PUT_ARRIVAL: it is performed once no cluster holds a word that it writes (R290, R346). -/
def execRemotePutArrival (w off : Nat) (data : List Byte) (s : State) : Out :=
  match windowFor s w off data.length true with
  | .ok x =>
    if devReady s (putPlaces s x off data.length) then .next (putArrives s x off data)
    else .next (devAsk { s with arrivals := s.arrivals ++ [{ win := w, off := off, data := data }] } (putPlaces s x off data.length))
  | .error st => .next (answer s st [])

/-- A PUT that waits is tried again. -/
def retryArrival (s : State) : Out :=
  match s.arrivals with
  | [] => .next s
  | x :: r => execRemotePutArrival x.win x.off x.data { s with arrivals := r }

/-- REMOTE_GET (R290). -/
def execRemoteGet (w off len : Nat) (s : State) : Out :=
  match windowFor s w off len false with
  | .error st => .next (answer s st [])
  | .ok x =>
    let va := x.base + BitVec.ofNat 64 off
    match engineRuns s x.actor .load va len with
    | .error st => .next (answer s st [])
    | .ok rs =>
      match sourceBad s rs with
      | some st => .next (answer s st [])
      | none => .next (answer (touchRuns s x.actor .load va rs) 0 (readRuns s rs))

/-! ### The host window and the CXL link (R396 to R398) -/

/-- BOOT.STAGE (R427). -/
def bootStage (s : State) : Nat := mgmtField s 0x08 3 0

/-- Stage n of the boot has succeeded (R420). -/
def bootDone (s : State) (n : Nat) : Bool := decide (n < bootStage s) || (bootStage s = n && mgmtField s 0x08 8 8 = 0)

/-- The physical address of n bytes of the host window, within one 64-byte piece; none outside it (R396). -/
def hostWindow (s : State) (off n : Nat) : Option Nat :=
  let size := mgmtField s 0xF708 6 0
  let pa := mgmtField s 0xF708 51 30 * 2 ^ 30 + off
  if s.linkUp && bootDone s 8 && 1 ≤ size && size ≤ 64 && off + n ≤ size * 2 ^ 30 && 1 ≤ n && off % 64 + n ≤ 64 then
    match placeOf pa n with
    | some (.stacked st d) => if domainOn s st d && !homeDead s pa then some pa else none
    | _ => none
  else none

/-- Vector v is unmasked: raised if it was pending (R395). -/
def unmaskVector (s : State) (v : Nat) : State :=
  let s1 := { s with vecMask := setDel s.vecMask v }
  if s.vecPend.contains v then { s1 with vecPend := setDel s.vecPend v, vecRaised := s.vecRaised ++ [v] } else s1

/-- The MSI-X table as the host reads it: 16 bytes a vector, the last four its control, whose bit 0 masks it (R395; the layout is PCI
Express's, PRESUMED, log 104). -/
def msixRead (s : State) (off : Nat) : W64 :=
  let v := rfGet s.msix off 0
  if off % 16 = 8 then setBits v 32 32 (if s.vecMask.contains (off / 16) then 1 else 0) else v

/-- A write of 8 bytes of the table. -/
def msixWrite (s : State) (off : Nat) (v : W64) : State :=
  let s1 := { s with msix := rfSet s.msix off v }
  if off % 16 ≠ 8 || 64 ≤ off / 16 then s1
  else if bitAt v 32 then { s1 with vecMask := setAdd s1.vecMask (off / 16) } else unmaskVector s1 (off / 16)

/-- Where the host's accesses outside the window begin, beside the offsets in it: BAR0, then BAR2, configuration space and CDAT, each at a
multiple of 64 KiB (the model's own numbering, log 104). -/
def hostIoBase : Nat := 2 ^ 40

/-- BAR0 as the host reads it: before stage 9 only IDENT and BOOT (R395, R420). -/
def barRead (s : State) (off : Nat) : W64 := if bootDone s 9 || off = 0 || off = 8 then mgmtRead s off else 0

/-- An access of 1, 2, 4 or 8 aligned bytes (R427). -/
def narrowOk (off n : Nat) : Bool := (n = 1 || n = 2 || n = 4 || n = 8) && off % n = 0

/-- A host write outside the window: a register of BAR0 or part of one, or the MSI-X table; what configuration space takes is not modelled
(R394, R395, R427, log 104). -/
def hostIoWrite (s : State) (off : Nat) (bs : List Byte) : State :=
  if !narrowOk off bs.length then s
  else if off < 0x10000 then (if bootDone s 9 then mgmtStore s off bs else s)
  else if off < 0x10400 then
    let b := (off - 0x10000) / 8 * 8
    msixWrite s b (mergeReg (msixRead s b) b (off - 0x10000) bs)
  else s

/-- 64 bytes that a host read outside the window answers (R394, R395). -/
def hostIoRead (s : State) (off : Nat) : List Byte :=
  if off < 0x10000 then regBytes (barRead s) off 64
  else if off < 0x20000 then regBytes (msixRead s) (off - 0x10000) 64
  else if off < 0x30000 then (List.range 64).map fun i => Config.cfgByte (off - 0x20000 + i)
  else (List.range 64).map fun i => Config.cdatByte (off - 0x30000 + i)

/-- A host write to the window: its home sends INV for the words, and performs the write when that has been applied (R346, R396). -/
def hostWrite (s : State) (pa : Nat) (bs : List Byte) : State :=
  match homeStack pa with
  | some st =>
    queueSlot { s with hostWrites := s.hostWrites ++ [{ slot := s.nextId, pa := pa, bytes := bs }] } (planeOf (pa / 128)) (64 + st)
      (.inv (pa / 128) (overlapMask pa bs.length (pa / 128)))
  | none => s

/-- HOST_WINDOW_WRITE: the home invalidates the words, then performs the write whole (R346, R396); from `hostIoBase` on, a write of BAR0 or
of the MSI-X table (R395). -/
def execHostWindowWrite (off : Nat) (data : List Byte) (s : State) : Out :=
  if hostIoBase ≤ off then .next (hostIoWrite s (off - hostIoBase) data)
  else
    match hostWindow s off data.length with
    | some pa => .next (hostWrite s pa data)
    | none => .next s

/-- HOST_WINDOW_READ: 64 bytes; poison answers none (R118, R396); from `hostIoBase` on, of BAR0, the MSI-X table, configuration space or CDAT
(R394, R395). -/
def execHostWindowRead (off : Nat) (s : State) : Out :=
  if hostIoBase ≤ off then .next { s with hostRead := hostIoRead s (off - hostIoBase) }
  else
    match hostWindow s (off / 64 * 64) 64 with
    | some pa => .next { s with hostRead := if poisoned s pa 64 then [] else memRead s pa 64 }
    | none => .next s

/-- CXL_LINK_DOWN (R398). -/
def execCxlLinkDown (s : State) : Out := .next { s with linkUp := false }

/-- CXL_LINK_UP (R398). -/
def execCxlLinkUp (s : State) : Out := .next { s with linkUp := true }

/-- HOST_MEMORY_COMPLETION: the host accepts the group's oldest store (R106, R398). -/
def execHostMemoryCompletion (k : GKey) (s : State) : Out :=
  .next (if s.linkUp then { s with hostPend := s.hostPend.erase k } else s)

/-- MSI_X_VECTOR_UNMASK (R395). -/
def execMsiXVectorUnmask (v : Nat) (s : State) : Out := .next (unmaskVector s v)

/-! ### Management commands and attestation (R401, R425) -/

/-- Commands submitted and not done. -/
def commandDue (s : State) : Bool :=
  let n := (mgmtField s 0xF748 31 0 + 2 ^ 32 - mgmtField s 0xF750 31 0) % 2 ^ 32
  1 ≤ n && n < 2 ^ 31

/-- FWSLOT: the firmware slot in use (R425, R427). -/
def fwSlot (s : State) : Nat := mgmtField s 0x08 9 9

/-- What a command does beside its response: it may write an image to the firmware slot not in use, which takes effect at the next reset
(R425, R429); nothing else of it is stated (log 22). -/
def commandEffect (s : State) (block : List Byte) : State :=
  match Config.cmdImage (leValue block) with
  | some x => { s with images := s.images.set (1 - fwSlot s) x }
  | none => s

/-- MANAGEMENT_COMMAND: the next command is executed, its block receives its response bytes, then DONESEQ (R401). Which bytes answer is not
stated (log 22). -/
def execManagementCommand (s : State) : Out :=
  if commandDue s then
    let n := (mgmtField s 0xF750 31 0 + 1) % 2 ^ 32
    let pa := mgmtField s 0xF758 51 6 * 64 + 64 * (n % 256)
    if physOk s pa 64 then
      .next (whenReady s [(pa, 64)]
        (mgmtPut (memWrite (commandEffect s (memRead s pa 64)) pa ((List.range 64).map (Config.cmdByte s.ctr))) 0xF750 31 0 n))
    else .next (mgmtPut s 0xF750 31 0 n)
  else .next s

/-- CONTROLLER_RESET: DONESEQ and every limit stay, so the next command is DONESEQ + 1 (R401, R426). -/
def execControllerReset (s : State) : Out := .next s

/-- The digests the controller measures: the boot ROM, the running image, the record in force (R425). -/
def measurements (s : State) : List Byte :=
  (List.range 64).map Config.romDigest ++ regBytes (mgmtRead s) 0x1008 128

/-- SPDM_REQUEST: signed measurements over DOE, once DOE is enabled (R394, R420, R425). -/
def execSpdmRequest (s : State) : Out :=
  if bootDone s 8 then .next { s with doe := measurements s ++ (List.range 64).map Config.signature } else .next s

/-! ### Writes over BAR0 (R395, R420, R427) -/

/-- A write of a whole register: before stage 9 it is ignored (R420). -/
def barWrite (s : State) (off : Nat) (v : W64) : State := if bootDone s 9 then mgmtWrite s off v else s

/-- QUEUE_REGISTRATION (R298). -/
def execQueueRegistration (q : Nat) (v : W64) (s : State) : Out :=
  if q < 64 then .next (barWrite s (0x100 + 8 * q) v) else .next s

/-- NODE_ACCESS (R428). -/
def execNodeAccess (v : W64) (s : State) : Out := .next (barWrite s 0x360 v)

/-! ### Links that fail (R402, R408 to R410, R415, R417) -/

/-- The link of a port goes down: LSTATE 2, unless the path is open; nothing stays in flight (R408, R415). -/
def dropLink (s : State) (p : Nat) : State :=
  onPort (if lstate s p = 3 then s else mgmtPut s (portOff p 0) 63 62 2) p fun q =>
    { q with unacked := [], outbox := [], switching := none, training := none, kept := false }

/-- The operation is on its way over a port: a PUT that its target has not confirmed, a GET, a publication (R408). -/
def opOver (o : EngOp) (p : Nat) : Bool :=
  o.port = some p && (match o.stage, o.kind with
    | .issued, .put _ _ _ | .issued, .get _ _ _ | .sent, .npub _ _ _ => true
    | _, _ => false)

/-- An entry whose interest has gone to another device by a port. -/
def entryOver (e : PitEntry) (p : Nat) : Bool := !e.tomb && e.path.getLast? = some (144 + p)

/-- Interests that went by a port can be served no longer: each face is told, and their entries are freed (R402, R408). -/
def endInterests (p : Nat) (s : State) (r : Nat × Router) : State :=
  let l := r.2.pit.filter fun e => entryOver e p
  let s1 := l.foldl (fun s e => answerFaces .unserved r.1 e.pennant [0x08] e.faces s) s
  onRouter s1 r.1 fun x => { x with pit := x.pit.filter fun e => !entryOver e p }

/-- The operations over a link that has gone down end with 0x08: PUTs, GETs and publications on their way, declarations that wait for
HOME's answer, and the records whose interests went by it (R290, R356, R402, R408). -/
def endOver (s : State) (p : Nat) : State :=
  let s1 := { s with ops := s.ops.map (fun o => if opOver o p then { o with stage := .ended 0x08 } else o),
                     net := s.net.filter fun m => m.site ≠ 144 + p }
  let s2 := (s1.declOps.filter fun o => o.asked && o.port = some p).foldl (fun s o => declAnswered o.id 0x08 s) s1
  s2.routers.foldl (endInterests p) s2

/-- A port's link is lost (R408, R417). -/
def linkLost (s : State) (p : Nat) : State := endOver (dropLink s p) p

/-- The wavelengths of a mask that are not degraded. -/
def healthy (s : State) (p m : Nat) : Nat := (maskLanes m).foldl (fun n w => if waveState s p w = 2 then n else n + 2 ^ w) 0

/-- The receiver proposes its mask without wavelength w, and without the others that are degraded; with none left the link goes down
(R410). -/
def proposeWithout (s : State) (p w : Nat) : State :=
  let q := portAt s p
  if q.rxMask.testBit w then
    let m := maskLess (healthy s p q.rxMask) (2 ^ w)
    if m = 0 then linkLost s p
    else sendWidth (onPort s p fun q => { q with rxEpoch := (q.rxEpoch + 1) % 256 }) p ((q.rxEpoch + 1) % 256) (widthPayload m 0 0)
  else s

/-- A wavelength of a port becomes degraded (R409, R410). -/
def degradeWave (s : State) (p w : Nat) : State := proposeWithout (mgmtPut s (waveOff p w) 63 62 2) p w

/-! ### The controller's own writes (R347, R348, R410, R423) -/

/-- The management controller's firmware writes STATE and SERVES of a port wavelength, whose LANE is zero: a change to degraded starts
narrowing (R347, R410). -/
def firmWave (s : State) (p w : Nat) (v : W64) : State :=
  let off := waveOff p w
  let f := healthFromRecord &&& ~~~maskBits 53 52
  let s1 := { s with mgmt := rfSet s.mgmt off ((mgmtRaw s off &&& ~~~healthFromRecord) ||| (v &&& f)) }
  if bitsOf v 63 62 = 2 && mgmtField s off 63 62 ≠ 2 then proposeWithout s1 p w else s1

/-- Firmware lowers a region's TWARN; it cannot raise it (R423, R426). -/
def lowerWarn (s : State) (r v : Nat) : State := onRegion s r fun x => { x with warn := min x.warn v }

/-- The management controller's own write of a wavelength's STATE, SERVES and LANE, or of a region's TWARN, which no map lists and which the
model puts at +40 of the region's registers (R347, R348, R410, R423, log 79). -/
def firmWrite (s : State) (off : Nat) (v : W64) : State :=
  match mregOf off with
  | some (.bunting p _ _) => firmBunting s p off v
  | some (.wave p w) => firmWave s p w v
  | _ => if 0x800 ≤ off && off < 0xC00 && off % 64 = 40 then lowerWarn s ((off - 0x800) / 64) (bitsOf v 11 0) else s

/-- REGISTER_WRITE: a write of any register of class 0x03; from 0x10000 on, of the Loam unit of stack (off / 0x10000) - 1, as the
supervisor makes it; from 0x110000 on, of a wavelength's health register by the management controller's firmware (R347, R391, R427). -/
def execRegisterWrite (off : Nat) (v : W64) (s : State) : Out :=
  if off < 0x10000 then .next (barWrite s off v)
  else if off / 0x10000 ≤ 16 then .next (loamWrite s (off / 0x10000 - 1) (off % 0x10000) v)
  else if off / 0x10000 = 17 then .next (firmWrite s (off % 0x10000) v)
  else .next s

end Sys2Proof.Machine
end

