-- ==== Sys2Proof/Machine/Ports.lean ====
section
/-!
DEFINITION. Ports.lean: the optical link layer, width control, laser states and cross-device time (R407 to R416).
-/
namespace Sys2Proof.Machine

/-! ### Transmitting (R407 to R409) -/

/-- Kinds that take a sequence number and are kept until acknowledged. -/
def sequenced (kind : Nat) : Bool := kind = 1 || kind = 3 || kind = 4

/-- The payload as it is sent: an accept names the flit after it as the first under its mask (R409, log 31). -/
def sentPayload (q : Port) (kind : Nat) (b : List Byte) : List Byte :=
  if kind = 3 && widthAction b = 1 then widthPayload (widthMask b) 1 ((q.nextTx + 1) % 2 ^ 24) else b

/-- The next queued flit as it goes out now, in turn over the active wavelengths (R408). -/
def flitNow (s : State) (p : Nat) (q : Port) (x : Nat × Nat × List Byte) : SentFlit :=
  headed q { seq := if sequenced x.1 then q.nextTx else 0, lane := turnLane (activeMask s p) q.nextTx, kind := x.1, epoch := x.2.1, ack := 0
             sack := 0, payload := sentPayload q x.1 x.2.2, sends := 1, last := s.time, missed := 0 }

/-- A training flit, on one of the wavelengths that are lit for training, in turn (R411). -/
def trainFlit (s : State) (q : Port) : SentFlit :=
  headed q { seq := 0, lane := turnLane q.lit s.time, kind := 0, epoch := 0, ack := 0, sack := 0, payload := List.replicate 240 0, sends := 1
             last := s.time, missed := 0 }

/-- A port that has nothing else to send goes on with training flits while a wavelength is lit for training (R411). -/
def sendTraining (s : State) (p : Nat) : State :=
  let q := portAt s p
  if q.outbox.isEmpty && q.lit ≠ 0 then onPort s p fun q => { q with latest := some (trainFlit s q), ackDue := false } else s

/-- Send one queued flit, if it may go. -/
def sendOne (s : State) (p : Nat) : State :=
  let q := portAt s p
  match q.outbox with
  | [] => s
  | x :: r =>
    let f := flitNow s p q x
    if !sequenced x.1 then onPort s p fun q => { q with outbox := r, latest := some f, ackDue := false }
    else if q.unacked.length ≥ 4096 then s
    else
      onPort s p fun q => { q with outbox := r, nextTx := (q.nextTx + 1) % 2 ^ 24, unacked := q.unacked ++ [f], latest := some f
                                   ackDue := false }

/-- Send what is queued on a port that is up. -/
def pumpFrom (p : Nat) : Nat → State → State
  | 0, s => s
  | n + 1, s => pumpFrom p n (sendOne s p)

/-- Send what is queued on a port, and training flits; a port that has sent the accept of L2 and had it acknowledged goes to L3 (R411,
R412). -/
def pump (s : State) (p : Nat) : State :=
  sleepNow (if lstate s p = 0 && activeMask s p ≠ 0 then sendTraining (pumpFrom p (portAt s p).outbox.length s) p else s) p

/-! ### Acknowledgements (R407, R408) -/

/-- ACK or SACK covers a flit. -/
def covered (f : Flit) (x : SentFlit) : Bool :=
  let d := seqAhead f.ack.toNat x.seq
  2 ^ 23 ≤ d || (1 ≤ d && d ≤ 16 && f.sack.getLsbD (d - 1))

/-- A header shows a later flit received. -/
def laterSeen (f : Flit) (x : SentFlit) : Bool := f.sack.toNat >>> seqAhead f.ack.toNat x.seq ≠ 0

/-- Take the acknowledgements of a header: covered flits go; one missing in two successive acknowledgements is re-sent. -/
def takeAck (s : State) (p : Nat) (f : Flit) : State :=
  let left := ((portAt s p).unacked.filter fun x => !covered f x).map fun x =>
    { x with missed := if laterSeen f x then x.missed + 1 else 0 }
  let s1 := onPort s p fun q => { q with unacked := left }
  pump (resendAll p s1 ((left.filter fun x => 2 ≤ x.missed).map (·.seq))) p

/-! ### Width control (R409 to R411) -/

/-- Epoch e is newer than the current one. -/
def newerEpoch (cur e : Nat) : Bool := 1 ≤ (e + 256 - cur) % 256 && (e + 256 - cur) % 256 < 128

/-- A proposal reaches the transmitter: the mask changes, as far as the laser state lets it (R410, R411, R412, log 84). -/
def heedPropose (s : State) (p : Nat) (f : Flit) : State :=
  let m := keptBy (laserOf s p) (widthMask f.payload)
  if m = 0 || !newerEpoch (portAt s p).txEpoch f.epoch.toNat then s else adoptMask s p f.epoch.toNat m

/-- A train proposal: the transmitter lights the wavelength that the proposal names, where its laser state has room for one more; training
flits go on it from then on (R411, R412). -/
def heedTrain (s : State) (p : Nat) (f : Flit) : State :=
  let more := maskLess (widthMask f.payload) (activeMask s p)
  if more ≠ 0 && newerEpoch (portAt s p).txEpoch f.epoch.toNat && keptBy (laserOf s p) (widthMask f.payload) = widthMask f.payload then
    onPort s p fun q => { q with lit := q.lit ||| more, litAt := s.time, shed := maskLess q.shed more }
  else s

/-- The spare wavelengths of a new mask are active. -/
def lightLanes (s : State) (p m : Nat) : State :=
  (maskLanes m).foldl (fun s w => if waveState s p w = 1 then mgmtPut s (waveOff p w) 63 62 0 else s) s

/-- The receiver proposes its mask again where it holds a degraded wavelength (R410). -/
def proposeAgain (s : State) (p : Nat) : State :=
  match (maskLanes (portAt s p).rxMask).find? fun w => waveState s p w = 2 with
  | some w => proposeWithout s p w
  | none => s

/-- An accept reaches the receiver: it adopts the epoch it proposed, or a newer one with which the transmitter sheds wavelengths
(R410, R412, log 84). The wavelengths of every mask not yet settled are left together. -/
def heedAccept (s : State) (p : Nat) (f : Flit) : State :=
  if f.epoch.toNat = (portAt s p).rxEpoch || newerEpoch (portAt s p).rxEpoch f.epoch.toNat then
    let m := widthMask f.payload
    let old (q : Port) : Nat := q.rxMask ||| ((q.switching.map (·.2)).getD 0)
    let s1 := onPort s p fun q => { q with rxMask := m, rxEpoch := f.epoch.toNat, switching := some (widthSwitch f.payload, old q) }
    proposeAgain (mgmtCount (lightLanes s1 p m) (portOff p 1) 0) p
  else s

/-- A wavelength left behind: a degraded one is dead, another spare (R410, R412). -/
def retireLane (p : Nat) (s : State) (w : Nat) : State :=
  mgmtPut s (waveOff p w) 63 62 (if waveState s p w = 2 then 3 else if waveState s p w = 0 then 1 else waveState s p w)

/-- The receiver offers a spare wavelength that w names: a train proposal, with the epoch the proposal after it will have (R411). -/
def offerSpare (s : State) (p : Nat) (w : Nat → Bool) : State :=
  let q := portAt s p
  if q.training.isSome || lstate s p ≠ 0 || 16 ≤ (maskLanes q.rxMask).length then s
  else
    match (List.range 18).find? fun x => waveState s p x = 1 && w x with
    | none => s
    | some x =>
      sendWidth (onPort s p fun q => { q with training := some (x, s.time) }) p ((q.rxEpoch + 1) % 256)
        (widthPayload (q.rxMask ||| 2 ^ x) 2 0)

/-- Every flit below SWITCH is delivered: the wavelengths left are retired; where one died, or the mask has grown, a spare is offered
(R410, R411). -/
def settleSwitch (s : State) (p : Nat) : State :=
  let q := portAt s p
  match q.switching with
  | none => s
  | some (sw, old) =>
    if seqAhead sw q.nextRx < 2 ^ 23 then
      let left := maskLanes (maskLess old q.rxMask)
      let died := left.any fun w => waveState s p w = 2
      let s1 := onPort (left.foldl (retireLane p) s) p fun q => { q with switching := none }
      if died || maskLess q.rxMask old ≠ 0 then offerSpare s1 p fun w => !left.contains w else s1
    else s

/-! ### Cross-device time (R416) -/

/-- SYNCED after a measurement: set by sixteen within 2 ticks, cleared by one beyond 3. -/
def syncedAfter (was : Nat) (l : List Int) : Nat :=
  if l.length = 16 && l.all (fun m => m.natAbs ≤ 2) then 1 else if 3 < (l.headD 0).natAbs then 0 else was

/-- A time flit updates the offset measurement on REFPORT of a device that is not MASTER. The slewing of the tick rate is a
matter of the clock (log 30). -/
def measureTime (s : State) (p : Nat) (f : Flit) : State :=
  if p = mgmtField s 0xF738 3 0 && mgmtField s 0xF738 8 8 = 0 then
    let m : Int := (leValue (f.payload.take 8) : Int) + Config.linkDelay s.ctr - s.time
    let l := (m :: s.sync).take 16
    mgmtPut { s with sync := l } 0xF738 63 63 (syncedAfter (mgmtField s 0xF738 63 63) l)
  else s

/-! ### Forwarding (R402) -/

/-- A data flit for another device goes on by this device's own table, a stack port's traffic by that port; one that would pass an eighth
link, or meets no valid entry, is answered to its origin with 0x08 (R402). What a payload says and how it is changed on the way is not stated
(log 32). -/
def forwardFlit (s : State) (p : Nat) (b : List Byte) : State :=
  let n := leValue b
  let via (d : Nat) : Option Nat := if 16 ≤ p then some p else portTo s d
  let send (q : Nat) (f : Nat → Nat → Byte) : State :=
    autoWake (onPort s q fun x => { x with outbox := x.outbox ++ [(1, 0, (List.range 240).map (f n))] }) q
  match if 7 ≤ Config.flitHops n then none else via (Config.flitDest n) with
  | some q => send q Config.flitOnward
  | none =>
    match via (Config.flitOrigin n) with
    | some q => send q Config.flitRefused
    | none => s

/-- The payload of a data flit is for this device (R402, log 32). -/
def flitHere (s : State) (b : List Byte) : Bool := Config.flitDest (leValue b) = devNo s

/-! ### Receiving (R407, R408) -/

/-- A flit reaches the upper layer. Data for this device are kept in order; what they mean is not stated (log 32). -/
def deliverFlit (s : State) (p : Nat) (f : Flit) : State :=
  match f.kind.toNat with
  | 1 => if flitHere s f.payload then onPort s p fun q => { q with delivered := q.delivered ++ [f.payload] } else forwardFlit s p f.payload
  | 3 =>
    match widthAction f.payload with
    | 0 => heedPropose s p f
    | 1 => heedAccept s p f
    | 2 => heedTrain s p f
    | _ => s
  | 4 => measureTime s p f
  | _ => s

/-- Deliver a flit that is next and those kept that follow it. -/
def deliverFrom (p : Nat) : Nat → State → Flit → State
  | 0, s, _ => s
  | n + 1, s, f =>
    let s1 := deliverFlit (onPort s p fun q => { q with nextRx := (q.nextRx + 1) % 2 ^ 24 }) p f
    match (portAt s1 p).early.find? fun g => g.seq.toNat = (portAt s1 p).nextRx with
    | some g => deliverFrom p n (onPort s1 p fun q => { q with early := q.early.erase g }) g
    | none => s1

/-- A sequenced flit arrives: next, early, or a duplicate. -/
def takeSequenced (s : State) (p : Nat) (f : Flit) : State :=
  let q := portAt s p
  let d := seqAhead q.nextRx f.seq.toNat
  let s1 := onPort s p fun q => { q with ackDue := true }
  if d = 0 then deliverFrom p (q.early.length + 1) s1 f
  else if d < 2 ^ 23 && !(q.early.any fun g => g.seq = f.seq) then onPort s1 p fun q => { q with early := q.early ++ [f] }
  else s1

/-- The wavelength carries flits: active, or degraded until it is retired (R409, R410). -/
def carries (s : State) (p w : Nat) : Bool := waveState s p w = 0 || waveState s p w = 2

/-- A flit dropped for its CRC, LANE or KIND is counted on the wavelength it came by: the one its header names, or, where it names none,
one of them by a free choice (R347, R407, log 56). -/
def dropFlit (s : State) (p : Nat) (f : Flit) : State :=
  countCrc s (waveOff p (if f.lane.toNat < 18 then f.lane.toNat else Config.pick s.ctr 18 % 18))

/-- A flit arrives on a port that is up. -/
def receiveFlit (s : State) (p : Nat) (f : Flit) : State :=
  if !f.good || 18 ≤ f.lane.toNat || 5 ≤ f.kind.toNat then dropFlit s p f
  else if carries s p f.lane.toNat then
    let s1 := takeAck (onPort s p fun q => { q with lastHeard := s.time }) p f
    pump (settleSwitch (if sequenced f.kind.toNat then takeSequenced s1 p f else s1) p) p
  else s

/-- A flit event on a port: the flit is of the event's kind. -/
def flitEvent (is : Bool) (p : Nat) (f : Flit) (s : State) : Out :=
  if is && p < 32 && lstate s p = 0 then .next (receiveFlit s p f) else .next s

/-- DATA_FLIT; also flits of a kind that has no name, which are dropped (R407, R408). -/
def execDataFlit (p : Nat) (f : Flit) (s : State) : Out := flitEvent (f.kind = 1 || 5 ≤ f.kind.toNat) p f s

/-- ACKNOWLEDGEMENT_FLIT (R408). -/
def execAcknowledgementFlit (p : Nat) (f : Flit) (s : State) : Out := flitEvent (f.kind = 2) p f s

/-- IDLE_FLIT (R407). -/
def execIdleFlit (p : Nat) (f : Flit) (s : State) : Out := flitEvent (f.kind = 0) p f s

/-- PROPOSE (R410); a width flit with an action that has no name is delivered and changes nothing. -/
def execPropose (p : Nat) (f : Flit) (s : State) : Out :=
  flitEvent (f.kind = 3 && widthAction f.payload ≠ 1 && widthAction f.payload ≠ 2) p f s

/-- ACCEPT (R410). -/
def execAccept (p : Nat) (f : Flit) (s : State) : Out := flitEvent (f.kind = 3 && widthAction f.payload = 1) p f s

/-- TRAIN (R411). -/
def execTrain (p : Nat) (f : Flit) (s : State) : Out := flitEvent (f.kind = 3 && widthAction f.payload = 2) p f s

/-- TIME_FLIT (R416). -/
def execTimeFlit (p : Nat) (f : Flit) (s : State) : Out := flitEvent (f.kind = 4) p f s

/-! ### Sendings of their own (R408, R416) -/

/-- A port sends a time flit with the transmit tick, if it is up. -/
def sendTime (s : State) (p : Nat) : State :=
  if lstate s p = 0 then
    pump (onPort s p fun q => { q with outbox := q.outbox ++ [(4, 0, leBytes s.time 8 ++ List.replicate 232 0)] }) p
  else s

/-- TIME_EXCHANGE: each up core port sends a time flit (R416). -/
def execTimeExchange (s : State) : Out := .next ((List.range 16).foldl sendTime s)

/-- FLIT_RESEND_TIMEOUT: flit q has been unacknowledged for 2 µs (R408). -/
def execFlitResendTimeout (p q : Nat) (s : State) : Out :=
  match (portAt s p).unacked.find? fun x => x.seq = q with
  | some x => if p < 32 && lstate s p = 0 && x.last + 2000 ≤ s.time then .next (resendFlit s p q) else .next s
  | none => .next s

/-- ACKNOWLEDGEMENT_SEND (R408). -/
def execAcknowledgementSend (p : Nat) (s : State) : Out :=
  if p < 32 && (portAt s p).ackDue && lstate s p = 0 then
    .next (pump (onPort s p fun q => { q with outbox := q.outbox ++ [(2, 0, List.replicate 240 0)] }) p)
  else .next s

/-- LINK_DOWN: sixteen sendings unacknowledged, or 100 µs of silence outside L3 (R408). -/
def execLinkDown (p : Nat) (s : State) : Out :=
  let q := portAt s p
  if p < 32 && lstate s p = 0 && (q.unacked.any (fun x => 16 ≤ x.sends) || (q.lastHeard + 100000 ≤ s.time && laserOf s p ≠ 3)) then
    .next (linkLost s p)
  else .next s

/-! ### Wavelengths of a port (R409 to R411) -/

/-- PORT_LOCK_LOSS: LOCK falls, and an active wavelength is degraded (R409, R410). -/
def execPortLockLoss (p w : Nat) (s : State) : Out :=
  if p < 32 && w < 18 then
    let s1 := mgmtPut s (waveOff p w) 61 61 0
    .next (if waveState s p w = 0 then pump (degradeWave s1 p w) p else s1)
  else .next s

/-- A port in training comes up on its first locked wavelength, the others spare until they join by training, those that its laser state
keeps being lit at once: one that went to L3 goes on with the flits it kept, another starts from sequence 0 (R407, R411 to R413, log 33). -/
def linkUpOn (s : State) (p w : Nat) : State :=
  let q := portAt s p
  let s1 := ((List.range 18).filter fun x => x ≠ w && waveState s p x = 0).foldl (fun s x => mgmtPut s (waveOff p x) 63 62 1) s
  let s2 := mgmtPut (mgmtPut (mgmtPut s1 (waveOff p w) 63 62 0) (portOff p 0) 63 62 0) (portOff p 0) 33 16 (2 ^ w)
  let up := onPort s2 p fun q =>
    { q with rxMask := 2 ^ w, lit := 0, shed := maskLess q.shed (2 ^ w), kept := false, sleeping := false, switching := none, training := none
             lastHeard := s.time }
  let s3 := mgmtPut (relight up p (laserOf up p)) (portOff p 0) 15 0 (Config.portPartner p).toNat
  let s4 := if q.kept then resendAll p s3 (q.unacked.map (·.seq))
    else onPort s3 p fun q => { q with nextTx := 0, nextRx := 0, unacked := [], early := [], rxEpoch := 0, txEpoch := 0 }
  offerSpare s4 p fun _ => true

/-- The receiver proposes the wider mask. -/
def proposeWith (s : State) (p w : Nat) : State :=
  let q := portAt s p
  let m := healthy s p q.rxMask ||| 2 ^ w
  sendWidth (onPort s p fun q => { q with training := none, rxEpoch := (q.rxEpoch + 1) % 256 }) p ((q.rxEpoch + 1) % 256) (widthPayload m 0 0)

/-- RECEIVER_LOCK: a wavelength has LOCK = 1 and BERX at least 40. In training, the port comes up on it or the receiver proposes it; a spare
that its transmitter has lit of its own accord, as a laser state gives it back, is offered (R411, R412). -/
def execReceiverLock (p w : Nat) (s : State) : Out :=
  if p < 32 && w < 18 && 40 ≤ mgmtField s (waveOff p w) 51 44 && waveState s p w ≠ 3 then
    let s1 := mgmtPut s (waveOff p w) 61 61 1
    if lstate s p = 1 then .next (pump (linkUpOn s1 p w) p)
    else
      match (portAt s p).training with
      | some (v, _) => .next (if v = w && lstate s p = 0 then pump (proposeWith s1 p w) p else s1)
      | none => .next (pump (offerSpare s1 p fun x => x = w) p)
  else .next s

/-- The transmitter's side of a training that has failed: after 50 µs it lights the wavelength no longer (R411). -/
def unlight (s : State) (p : Nat) : State :=
  if (portAt s p).lit ≠ 0 && (portAt s p).litAt + 50000 ≤ s.time then
    onPort s p fun q => { q with lit := 0, shed := q.shed ||| q.lit }
  else s

/-- TRAINING_TIMEOUT: after 50 µs the wavelength is left spare, at both ends (R411). -/
def execTrainingTimeout (p : Nat) (s : State) : Out :=
  if p < 32 then
    let s1 := unlight s p
    match (portAt s1 p).training with
    | some (w, t) =>
      .next (if t + 50000 ≤ s.time then mgmtPut (onPort s1 p fun q => { q with training := none }) (waveOff p w) 63 62 1 else s1)
    | none => .next s1
  else .next s

/-! ### Laser states and the interlock (R412 to R415) -/

/-- LTARGET: a write of the field alone (R412, R414). -/
def execLtarget (p v : Nat) (s : State) : Out :=
  if p < 32 && bootDone s 9 then .next (requestLaser s p (v % 4)) else .next s

/-- DWELL_EXPIRY (R414). -/
def execDwellExpiry (p : Nat) (s : State) : Out :=
  match (portAt s p).target with
  | some v =>
    if p < 32 && lstate s p ≠ 3 && (portAt s p).lastChange + dwellTicks s p ≤ s.time then .next (moveLaser s p v) else .next s
  | none => .next s

/-- INTERLOCK_TRIP: the laser is off, LSTATE 3, the link down (R415). -/
def execInterlockTrip (p : Nat) (s : State) : Out :=
  if p < 32 then
    let s1 := onPort (linkLost s p) p fun q =>
      { q with interlock := true, target := none, sleeping := false, lit := 0, shed := q.shed ||| q.lit ||| activeMask s p }
    .next (mgmtPut (mgmtPut (mgmtPut s1 (portOff p 0) 61 60 3) (portOff p 0) 33 16 0) (portOff p 0) 63 62 3)
  else .next s

/-- INTERLOCK_CLOSE (R415). -/
def execInterlockClose (p : Nat) (s : State) : Out :=
  if p < 32 && (portAt s p).interlock then .next (onPort s p fun q => { q with interlock := false, closedAt := s.time })
  else .next s

end Sys2Proof.Machine
end

