-- ==== Sys2Proof/Machine/Manage.lean ====
section
/-!
DEFINITION. Manage.lean: bring-up, regional clocks, the token budget, thermal limits and the checkpoint (R418 to R426).
-/
namespace Sys2Proof.Machine

/-! ### Bring-up (R420) -/

/-- What module reset leaves of the far tier and the host: memory, its poison and its unlisted regions. -/
def farCells (s : State) : List Host.Cell := s.mem.filter fun c => natBits c.1 51 50 = 1 || natBits c.1 51 50 = 2

/-- The machine in reset: what lies outside the module stays, and so does what flash holds; so do the counter of free values, the events
given and the clock's step (R418, R425, log 1, log 7). -/
def afterReset (s : State) : State :=
  { State.reset with
    flash := s.flash, images := s.images
    mem := farCells s, poison := s.poison.filter fun w => natBits w 51 50 = 1 || natBits w 51 50 = 2
    revived := s.revived.filter fun r => 16 ≤ r.1, ctr := s.ctr, inputs := s.inputs, rate := s.rate, linkUp := s.linkUp }

/-- Wavelengths of a port that the record makes active (R347). -/
def recordMask (s : State) (p : Nat) : Nat :=
  ((List.range 18).filter fun w => waveState s p w = 0).foldl (fun m w => m + 2 ^ w) 0

/-- A port trained at boot: up in the highest laser state that fits, its partner learned (R412, R413, R420, log 6). -/
def bootPort (s : State) (p : Nat) : State :=
  if Config.portUp p then
    let v := fittingLaser s p 0
    let m := keptBy v (recordMask s p)
    let s1 := mgmtPut (mgmtPut (mgmtPut s (portOff p 0) 61 60 v) (portOff p 0) 33 16 m) (portOff p 0) 15 0
      (Config.portPartner p).toNat
    let s2 := (maskLanes (recordMask s p)).foldl (fun s w => mgmtPut s (waveOff p w) 61 61 1) s1
    onPort (mgmtPut s2 (portOff p 0) 63 62 (if v = 3 then 2 else 0)) p fun q => { q with rxMask := recordMask s p, lastHeard := s.time }
  else s

/-- Bunting's wavelengths are trained: the readers of every working one are locked to it (R347, R420). -/
def lockWaves (s : State) : State :=
  (List.range 3072).foldl (fun s i =>
    let off := buntingOff (i / 384) (i % 384 / 4) (i % 4)
    if mgmtField s off 63 62 = 0 || mgmtField s off 63 62 = 2 then mgmtPut s off 61 61 1 else s) s

/-- The boot ROM accepts an image: its signature verifies, and its version is at least the record's MINVER (R425). -/
def imageOk (s : State) (x : Nat) : Bool := Config.imageSigned x && decide (mgmtField s 0x1000 31 0 ≤ Config.imageVersion x)

/-- The firmware slot that runs: A, then B, the first whose image is accepted (R420, R425). -/
def bootSlot (s : State) : Option Nat := [0, 1].find? fun i => imageOk s (nth s.images i 0)

/-- The image runs: FWSLOT and FWDIGEST name it (R425, R427). -/
def runImage (s : State) (i : Nat) : State :=
  (List.range 8).foldl (fun s k => mgmtPut s (0x1008 + 8 * k) 63 0 (Config.imageDigest (nth s.images i 0) k).toNat) (mgmtPut s 0x08 9 9 i)

/-- The record that the self-test's results give: as the one in force, or that of other results, by a free choice (R418, log 6). -/
def computed (s : State) : Record :=
  if Config.choice s.ctr 12 then recordNow s else recordOf (Config.pick s.ctr (2 ^ 32)) 0 true

/-- Stage 3: a computed record that differs from the copy in force is signed and written (R418, R420). -/
def buildRecord (s : State) : State :=
  let x := computed s
  let r := recordNow s
  if x.test = r.test && x.map = r.map && x.spares = r.spares && r.signed then s else writeRecordCopy s x.test x.map x.spares

/-- The bits of the logical clusters that a map carries (R419). -/
def mapBits (m : List (Option Nat)) : Nat := (List.range 64).foldl (fun n c => if (nth m c none).isSome then n + 2 ^ c else n) 0

/-- Stage 4: the record in force is applied, and LOCK is set (R414, R419, R420). -/
def applyRecord (s : State) : State :=
  let r := recordNow s
  mgmtPut (mgmtPut (mgmtPut (showRecord s) 0x10 63 0 (mapBits r.map)) 0x18 3 0 r.spares.toNat) 0xF700 63 63 1

/-- The work of a boot stage that leaves a trace (R420). Stages 5 and 6 find the clock at 0 and stacked memory zero, as reset
left them. -/
def bootWork (s : State) (stage : Nat) : State :=
  match stage with
  | 1 => runImage s ((bootSlot s).getD 0)
  | 3 => buildRecord s
  | 4 => applyRecord s
  | 5 => lockWaves { s with time := 0 }
  | 7 => (List.range 32).foldl bootPort s
  | _ => s

/-- A stage succeeds; the first needs an image that the boot ROM accepts (R420, R425, log 6). -/
def stagePasses (s : State) (i : Nat) : Bool := Config.stageOk s.ctr i && (i ≠ 1 || (bootSlot s).isSome)

/-- The stages in order; the one that fails stops the boot with ERR set. -/
def bootFrom : List Nat → State → State
  | [], s => s
  | i :: r, s =>
    let s1 := mgmtPut s 0x08 3 0 i
    if stagePasses s i then bootFrom r (bootWork s1 i) else mgmtPut s1 0x08 8 8 1

/-- MODULE_RESET: the boot stages run in order (R420). -/
def execModuleReset (s : State) : Out :=
  .next (bootFrom (List.range 10) (mgmtPut (afterReset s) 0x08 47 16 (recordNow s).seq.toNat))

/-! ### Regional clocks (R421) -/

/-- A region's data. -/
def regionAt (s : State) (r : Nat) : Region := nth s.regions r idleRegion

/-- The region's clock has stopped at TSTOP (R423). -/
def halted (s : State) (r : Nat) : Bool := mgmtField s (regionOff r 3) 1 0 = 2

/-- The region is clocked (R42, R421, R423). -/
def clocked (s : State) (r : Nat) : Bool := !(regionAt s r).changing && !halted s r

/-- The region of a cluster. -/
def clusterRegion (c : Nat) : Nat := Config.regionOf c % 16

/-- The region of a cluster is clocked. -/
def clusterClocked (s : State) (c : Nat) : Bool := (List.range 16).all (clocked s) || clocked s (clusterRegion c)

/-- The clock of a cluster's region has stopped: what was issued there does not complete either, as it does during a frequency change
(R421, R423, R429). -/
def clusterHalted (s : State) (c : Nat) : Bool := (List.range 16).any (halted s) && halted s (clusterRegion c)

/-- FTARGET (R421). -/
def execFtarget (r v : Nat) (s : State) : Out :=
  if r < 16 && bootDone s 9 then .next (setFreq s r (v % 4096)) else .next s

/-- FREQUENCY_CHANGE_END (R421). -/
def execFrequencyChangeEnd (r : Nat) (s : State) : Out :=
  if r < 16 then .next (onRegion s r fun x => { x with changing := false }) else .next s

/-- DROOP: the stretch is counted (R421, R427). -/
def execDroop (r : Nat) (s : State) : Out :=
  if r < 16 && !(regionAt s r).droop then .next (onRegion (mgmtCount s (regionOff r 4) 0) r fun x => { x with droop := true })
  else .next s

/-- DROOP_PASSED (R421). -/
def execDroopPassed (r : Nat) (s : State) : Out :=
  if r < 16 then .next (onRegion s r fun x => { x with droop := false }) else .next s

/-! ### Thermal limits (R423) -/

/-- TWARN of a region in 0.125 °C: the record's, at most 95 °C, as far as firmware has not lowered it. -/
def twarn (s : State) (r : Nat) : Nat := min (min 760 (Config.warnTemp r)) (regionAt s r).warn

/-- The state a temperature puts a region in: TSTOP is 105 °C. -/
def tstateOf (s : State) (r t : Nat) : Nat := if 840 ≤ t then 2 else if twarn s r ≤ t then 1 else 0

/-- A region's temperature is seen: TEMP and TSTATE follow it; from TWARN up the frequency is stepped down; at TTRIP, 110 °C, module power is
cut and every state is lost. -/
def seeTemp (s : State) (r t : Nat) : State :=
  if 880 ≤ t then { afterReset s with power := false }
  else
    onRegion (mgmtPut (mgmtPut s (regionOff r 2) 11 0 t) (regionOff r 3) 1 0 (tstateOf s r t)) r fun x =>
      { x with stepping := decide (tstateOf s r t ≠ 0) }

/-- TEMPERATURE_WARN: at or above TWARN the frequency is stepped down; TSTATE 1. -/
def execTemperatureWarn (r t : Nat) (s : State) : Out :=
  if r < 16 && twarn s r ≤ t && t < 840 then .next (seeTemp s r t) else .next s

/-- FREQUENCY_STEP: 100 MHz down, to 1,200 MHz, every 10 µs in TSTATE 1. -/
def execFrequencyStep (r : Nat) (s : State) : Out :=
  let f := mgmtField s (regionOff r 1) 11 0
  if r < 16 && (regionAt s r).stepping && mgmtField s (regionOff r 3) 1 0 = 1 && 1200 < f && (regionAt s r).steppedAt + 10000 ≤ s.time then
    .next (onRegion (mgmtPut s (regionOff r 1) 11 0 (max 1200 (f - 100))) r fun x => { x with changing := true, steppedAt := s.time })
  else .next s

/-- CLOCK_STOP: at or above TSTOP; TSTATE 2. -/
def execClockStop (r t : Nat) (s : State) : Out :=
  if r < 16 && 840 ≤ t && t < 4096 then .next (seeTemp s r t) else .next s

/-- CLOCK_RESTART: below TSTOP the region is clocked again. -/
def execClockRestart (r t : Nat) (s : State) : Out :=
  if r < 16 && t < 840 && halted s r then .next (seeTemp s r t) else .next s

/-- TEMPERATURE_BELOW_TWARN: stepping stops; TSTATE 0. -/
def execTemperatureBelowTwarn (r t : Nat) (s : State) : Out :=
  if r < 16 && t < twarn s r then .next (seeTemp s r t) else .next s

/-- The temperature of some region drifts within the limits it stands between, by a free choice (R423, R427, log 79). -/
def driftTemp (s : State) : State :=
  let r := Config.pick s.ctr 16 % 16
  let t := Config.pick s.ctr 840 % 840
  if tstateOf s r t = mgmtField s (regionOff r 3) 1 0 then mgmtPut s (regionOff r 2) 11 0 t else s

/-- THERMAL_TRIP: module power is cut and every state is lost. -/
def execThermalTrip (r : Nat) (s : State) : Out := if r < 16 then .next (seeTemp s r 880) else .next s

/-! ### The token budget (R422) -/

/-- TOKEN_WINDOW: a window in which injection was limited is counted. -/
def execTokenWindow (limited : Bool) (s : State) : Out := .next (if limited then mgmtCount s 0xC10 0 else s)

/-! ### Checkpoint (R424) -/

/-- CHECKPOINT_START (R424). -/
def execCheckpointStart (v : W64) (s : State) : Out := .next (barWrite s 0xD08 v)

/-- The stack's own offset at which a domain starts. -/
def domainBase (i : Nat) : Nat := (i / 5) * 2 ^ 46 + (i % 5) * 2 ^ 34

/-- Where domain i lies in the image at a GiB of the far tier. -/
def imageBase (dest i : Nat) : Nat := 2 ^ 50 + dest * 2 ^ 30 + i * 2 ^ 34

/-- Dirty words are written back and stay as copies (R424 step 1). -/
def cleanWord (d : WordDir) : WordDir :=
  { d with holders := d.holders.map fun h => (h.1, match h.2 with
      | .modified => CState.exclusive
      | .owned => .shared
      | x => x) }

/-- Some line of a domain's KiB k, or of those that follow at its place in its image, is homed at a fenced stack: the domain's own, or one
of the sixteen that a far image is spread over (R79, R351). -/
def deadKib (s : State) (dest i k : Nat) : Bool := homeDead s (domainBase i + 1024 * k) || homeDead s (imageBase dest i + 1024 * k)

/-- The first place of a domain, as an offset in it, that cannot be copied: its lowest poisoned word, or what is homed at a fenced stack
(R118, R351). -/
def firstBad (s : State) (dest i : Nat) : Option Nat :=
  (((s.poison.filter fun w => inDomain (i / 5) (i % 5) w).map (· - domainBase i))
    ++ ((List.range 16).filter (deadKib s dest i)).map (1024 * ·)).min?

/-- Lines of a domain written since the checkpoint began (R424). -/
def changedLines (s : State) (mark i n : Nat) : List Nat :=
  (((s.hist.take (s.hist.length - mark)).flatMap fun h =>
    (List.range ((h.1 + h.2.length + 127) / 128 - h.1 / 128)).map fun k => h.1 / 128 + k).eraseDups).filter fun l =>
      inDomain (i / 5) (i % 5) (l * 128) && l * 128 < domainBase i + n

/-- Bytes of the far tier become known or free: whole GiBs of an image of a domain with free bytes are free anew (log 36). -/
def imageRegions (s : State) (i dst gibs : Nat) : List (Nat × Nat × Nat) :=
  let ks := (List.range gibs).map fun k => (dst - 2 ^ 50) / 2 ^ 30 + k
  let rest := s.revived.filter fun r => !(r.1 = 16 && ks.contains r.2.1)
  if s.revived.any fun r => r.1 = i / 5 && r.2.1 = i % 5 then ks.map (fun k => (16, k, s.ctr)) ++ rest else rest

/-- Copy the first n bytes of domain i into its image: each line a value it held since START (R424). -/
def copyDomain (dest mark : Nat) (s : State) (i n : Nat) : State :=
  let src := domainBase i
  let dst := imageBase dest i
  let whole := n / 2 ^ 30 * 2 ^ 30
  let rv := imageRegions s i dst (n / 2 ^ 30)
  let kept := s.mem.filter fun c => !(dst ≤ c.1 && c.1 < dst + whole)
  let cells := s.mem.filter fun c => src ≤ c.1 && c.1 < src + whole
  let m1 := cells.foldl (fun m c => memPut rv m (c.1 - src + dst) [memGet s c.1]) kept
  let m2 := memPut rv m1 (dst + whole) (memRead s (src + whole) (n - whole))
  let s1 := { s with mem := m2, revived := rv, poison := s.poison.filter fun w => !(dst ≤ w && w < dst + n) }
  (changedLines s mark i n).foldl (fun t l =>
    { t with mem := memPut t.revived t.mem (l * 128 - src + dst) (someValueSince s mark (l * 128) 128) }) s1

/-- The image of domain i lies in the far tier. -/
def imageFits (dest i : Nat) : Bool := placeOf (imageBase dest i) (2 ^ 34) = some .far

/-- The ports selected at START can carry the image. -/
def portsUp (s : State) (ports : Nat) : Bool :=
  ports ≠ 0 && (List.range 16).all fun p => !ports.testBit p || lstate s p = 0

/-- Copy the domains in order; at poison, that line and all after it are not written (R118, R266, R351, R424). Answers the status and
the domains copied. -/
def copyDomains (dest mark : Nat) : List Nat → State → Byte × List Nat × State
  | [], s => (0, [], s)
  | i :: r, s =>
    match firstBad s dest i with
    | some o => (0x04, [], copyDomain dest mark s i (o / 128 * 128))
    | none =>
      let x := copyDomains dest mark r (copyDomain dest mark s i (2 ^ 34))
      (x.1, i :: x.2.1, x.2.2)

/-- The whole checkpoint: its status, the domains copied, the state after. -/
def runCheckpoint (s : State) (c : Checkpoint) : Byte × List Nat × State :=
  if !c.left.all (imageFits c.dest) then (0x02, [], s)
  else if !portsUp s c.ports then (0x08, [], s)
  else copyDomains c.dest c.mark c.left { s with dir := s.dir.map cleanWord }

/-- The ports of a checkpoint that are not up yet and will be: asleep with AUTOWAKE set, or training (R412). -/
def portsComing (s : State) (ports : Nat) : List Nat :=
  (List.range 16).filter fun p => ports.testBit p
    && (lstate s p = 1 || (lstate s p = 2 && laserOf s p = 3 && mgmtField s (portOff p 0) 57 57 = 1))

/-- CHECKPOINT_DONE: DONE, STATUS, CKMAP and CKEND are set; while a selected port is being woken the checkpoint waits (R412, R424, R427). -/
def execCheckpointDone (s : State) : Out :=
  match s.ckpt with
  | none => .next s
  | some c =>
    if !(portsComing s c.ports).isEmpty then .next ((portsComing s c.ports).foldl autoWake s)
    else
    let x := runCheckpoint s c
    let map := x.2.1.foldl (fun m i => m + 2 ^ i) 0
    let s1 := mgmtPut (mgmtPut { x.2.2 with ckpt := none } 0xD18 63 0 (map % 2 ^ 64)) 0xD20 15 0 (map / 2 ^ 64)
    let s2 := mgmtPut (mgmtPut (mgmtPut s1 0xD10 63 63 0) 0xD10 62 62 1) 0xD10 7 0 x.1.toNat
    .next (mgmtPut s2 0xD28 63 0 s.time)

end Sys2Proof.Machine
end

