-- ==== Sys2Proof/Machine/Dispatch.lean ====
section
/-! DEFINITION. Dispatch.lean: one arm per constructor of Instr, each a direct call of its meaning. -/
namespace Sys2Proof.Machine

/-- The meaning of an instruction or event. -/
def exec (i : Instr) (s : State) : Host.Outcome State Fault Refusal :=
  match i with
  | .nop => Sys2Proof.Machine.execNop s
  | .endGroup => Sys2Proof.Machine.execEndGroup s
  | .endk a b => Sys2Proof.Machine.execEndk a b s
  | .yield => Sys2Proof.Machine.execYield s
  | .isync => Sys2Proof.Machine.execIsync s
  | .npbegin => Sys2Proof.Machine.execNpbegin s
  | .npend => Sys2Proof.Machine.execNpend s
  | .add d a b => Sys2Proof.Machine.execAdd d a b s
  | .sub d a b => Sys2Proof.Machine.execSub d a b s
  | .mul d a b => Sys2Proof.Machine.execMul d a b s
  | .mulh d a b => Sys2Proof.Machine.execMulh d a b s
  | .mulhn d a b => Sys2Proof.Machine.execMulhn d a b s
  | .div d a b => Sys2Proof.Machine.execDiv d a b s
  | .divn d a b => Sys2Proof.Machine.execDivn d a b s
  | .rem d a b => Sys2Proof.Machine.execRem d a b s
  | .remn d a b => Sys2Proof.Machine.execRemn d a b s
  | .and d a b => Sys2Proof.Machine.execAnd d a b s
  | .or d a b => Sys2Proof.Machine.execOr d a b s
  | .xor d a b => Sys2Proof.Machine.execXor d a b s
  | .shl d a b => Sys2Proof.Machine.execShl d a b s
  | .shr d a b => Sys2Proof.Machine.execShr d a b s
  | .sha d a b => Sys2Proof.Machine.execSha d a b s
  | .min d a b => Sys2Proof.Machine.execMin d a b s
  | .max d a b => Sys2Proof.Machine.execMax d a b s
  | .minn d a b => Sys2Proof.Machine.execMinn d a b s
  | .maxn d a b => Sys2Proof.Machine.execMaxn d a b s
  | .clz d a => Sys2Proof.Machine.execClz d a s
  | .popc d a => Sys2Proof.Machine.execPopc d a s
  | .cmpEq d a b => Sys2Proof.Machine.execCmpEq d a b s
  | .cmpNe d a b => Sys2Proof.Machine.execCmpNe d a b s
  | .cmpLt d a b => Sys2Proof.Machine.execCmpLt d a b s
  | .cmpLe d a b => Sys2Proof.Machine.execCmpLe d a b s
  | .cmpLtn d a b => Sys2Proof.Machine.execCmpLtn d a b s
  | .cmpLen d a b => Sys2Proof.Machine.execCmpLen d a b s
  | .addi d a imm => Sys2Proof.Machine.execAddi d a imm s
  | .andi d a imm => Sys2Proof.Machine.execAndi d a imm s
  | .ori d a imm => Sys2Proof.Machine.execOri d a imm s
  | .xori d a imm => Sys2Proof.Machine.execXori d a imm s
  | .shiShl d a n => Sys2Proof.Machine.execShiShl d a n s
  | .shiShr d a n => Sys2Proof.Machine.execShiShr d a n s
  | .shiSha d a n => Sys2Proof.Machine.execShiSha d a n s
  | .cmpiEq d a v => Sys2Proof.Machine.execCmpiEq d a v s
  | .cmpiNe d a v => Sys2Proof.Machine.execCmpiNe d a v s
  | .cmpiLt d a v => Sys2Proof.Machine.execCmpiLt d a v s
  | .cmpiLe d a v => Sys2Proof.Machine.execCmpiLe d a v s
  | .cmpiLtn d a v => Sys2Proof.Machine.execCmpiLtn d a v s
  | .cmpiLen d a v => Sys2Proof.Machine.execCmpiLen d a v s
  | .lhi d imm => Sys2Proof.Machine.execLhi d imm s
  | .addpc d imm => Sys2Proof.Machine.execAddpc d imm s
  | .bfx d a p l => Sys2Proof.Machine.execBfx d a p l s
  | .bfxn d a p l => Sys2Proof.Machine.execBfxn d a p l s
  | .bfi d a p l => Sys2Proof.Machine.execBfi d a p l s
  | .madd d a b c => Sys2Proof.Machine.execMadd d a b c s
  | .msub d a b c => Sys2Proof.Machine.execMsub d a b c s
  | .taddr d a b c w => Sys2Proof.Machine.execTaddr d a b c w s
  | .sel d a b c => Sys2Proof.Machine.execSel d a b c s
  | .j disp => Sys2Proof.Machine.execJ disp s
  | .jal disp => Sys2Proof.Machine.execJal disp s
  | .jr a => Sys2Proof.Machine.execJr a s
  | .jalr d a => Sys2Proof.Machine.execJalr d a s
  | .bz a disp => Sys2Proof.Machine.execBz a disp s
  | .bnz a disp => Sys2Proof.Machine.execBnz a disp s
  | .ld d a w x o => Sys2Proof.Machine.execLd d a w x o s
  | .st d a w o => Sys2Proof.Machine.execSt d a w o s
  | .ldk d imm => Sys2Proof.Machine.execLdk d imm s
  | .amoSwap d a o sc w => Sys2Proof.Machine.execAmoSwap d a o sc w s
  | .amoAdd d a o sc w => Sys2Proof.Machine.execAmoAdd d a o sc w s
  | .amoAnd d a o sc w => Sys2Proof.Machine.execAmoAnd d a o sc w s
  | .amoOr d a o sc w => Sys2Proof.Machine.execAmoOr d a o sc w s
  | .amoXor d a o sc w => Sys2Proof.Machine.execAmoXor d a o sc w s
  | .amoMin d a o sc w => Sys2Proof.Machine.execAmoMin d a o sc w s
  | .amoMax d a o sc w => Sys2Proof.Machine.execAmoMax d a o sc w s
  | .amoMinn d a o sc w => Sys2Proof.Machine.execAmoMinn d a o sc w s
  | .amoMaxn d a o sc w => Sys2Proof.Machine.execAmoMaxn d a o sc w s
  | .amoFadd d a o sc => Sys2Proof.Machine.execAmoFadd d a o sc s
  | .cas d a b o sc w => Sys2Proof.Machine.execCas d a b o sc w s
  | .clause imm => Sys2Proof.Machine.execClause imm s
  | .clauser a => Sys2Proof.Machine.execClauser a s
  | .mpush n p => Sys2Proof.Machine.execMpush n p s
  | .mpushRegister a => Sys2Proof.Machine.execMpushRegister a s
  | .melse => Sys2Proof.Machine.execMelse s
  | .mpop => Sys2Proof.Machine.execMpop s
  | .setp k a => Sys2Proof.Machine.execSetp k a s
  | .pmov d n p => Sys2Proof.Machine.execPmov d n p s
  | .wflag m => Sys2Proof.Machine.execWflag m s
  | .vget d slot lane => Sys2Proof.Machine.execVget d slot lane s
  | .vput d slot lane => Sys2Proof.Machine.execVput d slot lane s
  | .setfmt a b => Sys2Proof.Machine.execSetfmt a b s
  | .getfmt d => Sys2Proof.Machine.execGetfmt d s
  | .setprec a b => Sys2Proof.Machine.execSetprec a b s
  | .getstat d => Sys2Proof.Machine.execGetstat d s
  | .clrstat a => Sys2Proof.Machine.execClrstat a s
  | .mfs d n => Sys2Proof.Machine.execMfs d n s
  | .mts a n => Sys2Proof.Machine.execMts a n s
  | .fenceFull e sc => Sys2Proof.Machine.execFenceFull e sc s
  | .fenceAcquire e sc => Sys2Proof.Machine.execFenceAcquire e sc s
  | .fenceRelease e sc => Sys2Proof.Machine.execFenceRelease e sc s
  | .fenceSc e sc => Sys2Proof.Machine.execFenceSc e sc s
  | .barSync a t => Sys2Proof.Machine.execBarSync a t s
  | .barArv a t => Sys2Proof.Machine.execBarArv a t s
  | .rdtime d => Sys2Proof.Machine.execRdtime d s
  | .waituntil a => Sys2Proof.Machine.execWaituntil a s
  | .waituntilReached k => Sys2Proof.Machine.execWaituntilReached k s
  | .qlock d a => Sys2Proof.Machine.execQlock d a s
  | .qunlock a => Sys2Proof.Machine.execQunlock a s
  | .cpy d a b t => Sys2Proof.Machine.execCpy d a b t s
  | .cpy2d d a b t => Sys2Proof.Machine.execCpy2d d a b t s
  | .twaitAll d a => Sys2Proof.Machine.execTwaitAll d a s
  | .twaitAny d a => Sys2Proof.Machine.execTwaitAny d a s
  | .tfirst d a => Sys2Proof.Machine.execTfirst d a s
  | .tack a => Sys2Proof.Machine.execTack a s
  | .bbinit t => Sys2Proof.Machine.execBbinit t s
  | .bbexp a t => Sys2Proof.Machine.execBbexp a t s
  | .bbwait d a t => Sys2Proof.Machine.execBbwait d a t s
  | .bbarv a b t => Sys2Proof.Machine.execBbarv a b t s
  | .bsub d a t => Sys2Proof.Machine.execBsub d a t s
  | .bunsub d a => Sys2Proof.Machine.execBunsub d a s
  | .bsync d => Sys2Proof.Machine.execBsync d s
  | .ndecl d a => Sys2Proof.Machine.execNdecl d a s
  | .ndrop a => Sys2Proof.Machine.execNdrop a s
  | .ncan a b t => Sys2Proof.Machine.execNcan a b t s
  | .skcmdTag a b t => Sys2Proof.Machine.execSkcmdTag a b t s
  | .skcmdBb a b t => Sys2Proof.Machine.execSkcmdBb a b t s
  | .skcmdCw a b => Sys2Proof.Machine.execSkcmdCw a b s
  | .put d a b t => Sys2Proof.Machine.execPut d a b t s
  | .get d a b t => Sys2Proof.Machine.execGet d a b t s
  | .winwait a b k => Sys2Proof.Machine.execWinwait a b k s
  | .wincnt d a k => Sys2Proof.Machine.execWincnt d a k s
  | .qpush d a b => Sys2Proof.Machine.execQpush d a b s
  | .trap a t => Sys2Proof.Machine.execTrap a t s
  | .tret => Sys2Proof.Machine.execTret s
  | .msave => Sys2Proof.Machine.execMsave s
  | .mrest => Sys2Proof.Machine.execMrest s
  | .tlbinv d a b => Sys2Proof.Machine.execTlbinv d a b s
  | .tlbsync => Sys2Proof.Machine.execTlbsync s
  | .tlbinvAll => Sys2Proof.Machine.execTlbinvAll s
  | .npub d a t => Sys2Proof.Machine.execNpub d a t s
  | .npubRel d a t => Sys2Proof.Machine.execNpubRel d a t s
  | .nreqTag d a b t => Sys2Proof.Machine.execNreqTag d a b t s
  | .nreqBb d a b t => Sys2Proof.Machine.execNreqBb d a b t s
  | .poolGuard n => Sys2Proof.Machine.execPoolGuard n s
  | .iadd f => Sys2Proof.Machine.execIadd f s
  | .isub f => Sys2Proof.Machine.execIsub f s
  | .imul f => Sys2Proof.Machine.execImul f s
  | .imulh f => Sys2Proof.Machine.execImulh f s
  | .imad f => Sys2Proof.Machine.execImad f s
  | .idot4 f => Sys2Proof.Machine.execIdot4 f s
  | .imin f => Sys2Proof.Machine.execImin f s
  | .imax f => Sys2Proof.Machine.execImax f s
  | .bfn3 f => Sys2Proof.Machine.execBfn3 f s
  | .shf f => Sys2Proof.Machine.execShf f s
  | .laneBfx f => Sys2Proof.Machine.execLaneBfx f s
  | .laneBfi f => Sys2Proof.Machine.execLaneBfi f s
  | .bitc f => Sys2Proof.Machine.execBitc f s
  | .icmp f => Sys2Proof.Machine.execIcmp f s
  | .iaddLi f => Sys2Proof.Machine.execIaddLi f s
  | .isubLi f => Sys2Proof.Machine.execIsubLi f s
  | .imulLi f => Sys2Proof.Machine.execImulLi f s
  | .imulhLi f => Sys2Proof.Machine.execImulhLi f s
  | .imadLi f => Sys2Proof.Machine.execImadLi f s
  | .idot4Li f => Sys2Proof.Machine.execIdot4Li f s
  | .iminLi f => Sys2Proof.Machine.execIminLi f s
  | .imaxLi f => Sys2Proof.Machine.execImaxLi f s
  | .bfn3Li f => Sys2Proof.Machine.execBfn3Li f s
  | .shfLi f => Sys2Proof.Machine.execShfLi f s
  | .laneBfxLi f => Sys2Proof.Machine.execLaneBfxLi f s
  | .laneBfiLi f => Sys2Proof.Machine.execLaneBfiLi f s
  | .icmpLi f => Sys2Proof.Machine.execIcmpLi f s
  | .fadd f => Sys2Proof.Machine.execFadd f s
  | .fmul f => Sys2Proof.Machine.execFmul f s
  | .ffma f => Sys2Proof.Machine.execFfma f s
  | .fmin f => Sys2Proof.Machine.execFmin f s
  | .fmax f => Sys2Proof.Machine.execFmax f s
  | .fcmp f => Sys2Proof.Machine.execFcmp f s
  | .fmath f => Sys2Proof.Machine.execFmath f s
  | .fsca f => Sys2Proof.Machine.execFsca f s
  | .fclass f => Sys2Proof.Machine.execFclass f s
  | .faddLi f => Sys2Proof.Machine.execFaddLi f s
  | .fmulLi f => Sys2Proof.Machine.execFmulLi f s
  | .ffmaLi f => Sys2Proof.Machine.execFfmaLi f s
  | .fminLi f => Sys2Proof.Machine.execFminLi f s
  | .fmaxLi f => Sys2Proof.Machine.execFmaxLi f s
  | .fcmpLi f => Sys2Proof.Machine.execFcmpLi f s
  | .fmathDivLi f => Sys2Proof.Machine.execFmathDivLi f s
  | .fscaLi f => Sys2Proof.Machine.execFscaLi f s
  | .cvt f => Sys2Proof.Machine.execCvt f s
  | .pack f => Sys2Proof.Machine.execPack f s
  | .unpack f => Sys2Proof.Machine.execUnpack f s
  | .scalex f => Sys2Proof.Machine.execScalex f s
  | .lperm f => Sys2Proof.Machine.execLperm f s
  | .qxch f => Sys2Proof.Machine.execQxch f s
  | .qbc f => Sys2Proof.Machine.execQbc f s
  | .red f => Sys2Proof.Machine.execRed f s
  | .scan f => Sys2Proof.Machine.execScan f s
  | .ppoll f => Sys2Proof.Machine.execPpoll f s
  | .xadd f => Sys2Proof.Machine.execXadd f s
  | .xmul f => Sys2Proof.Machine.execXmul f s
  | .xfma f => Sys2Proof.Machine.execXfma f s
  | .xadde f => Sys2Proof.Machine.execXadde f s
  | .xmule f => Sys2Proof.Machine.execXmule f s
  | .xcvt f => Sys2Proof.Machine.execXcvt f s
  | .xcmp f => Sys2Proof.Machine.execXcmp f s
  | .xrnd f => Sys2Proof.Machine.execXrnd f s
  | .xerr f => Sys2Proof.Machine.execXerr f s
  | .mov f => Sys2Proof.Machine.execMov f s
  | .movi f => Sys2Proof.Machine.execMovi f s
  | .laneSel f => Sys2Proof.Machine.execLaneSel f s
  | .pfn3 f => Sys2Proof.Machine.execPfn3 f s
  | .spec f => Sys2Proof.Machine.execSpec f s
  | .ixset f => Sys2Proof.Machine.execIxset f s
  | .laneLd f => Sys2Proof.Machine.execLaneLd f s
  | .laneSt f => Sys2Proof.Machine.execLaneSt f s
  | .ldv f => Sys2Proof.Machine.execLdv f s
  | .stv f => Sys2Proof.Machine.execStv f s
  | .pref f => Sys2Proof.Machine.execPref f s
  | .atom f => Sys2Proof.Machine.execAtom f s
  | .atomc f => Sys2Proof.Machine.execAtomc f s
  | .ldfe f => Sys2Proof.Machine.execLdfe f s
  | .stfe f => Sys2Proof.Machine.execStfe f s
  | .fesetFull f => Sys2Proof.Machine.execFesetFull f s
  | .fesetEmpty f => Sys2Proof.Machine.execFesetEmpty f s
  | .ldWf f => Sys2Proof.Machine.execLdWf f s
  | .stFill f => Sys2Proof.Machine.execStFill f s
  | .stEmpty f => Sys2Proof.Machine.execStEmpty f s
  | .fullEmptyPerform => Sys2Proof.Machine.execFullEmptyPerform s
  | .fullEmptyWaitExpired => Sys2Proof.Machine.execFullEmptyWaitExpired s
  | .mma f => Sys2Proof.Machine.execMma f s
  | .mmas f => Sys2Proof.Machine.execMmas f s
  | .accz f => Sys2Proof.Machine.execAccz f s
  | .accld f => Sys2Proof.Machine.execAccld f s
  | .accst f => Sys2Proof.Machine.execAccst f s
  | .accrd f => Sys2Proof.Machine.execAccrd f s
  | .accwr f => Sys2Proof.Machine.execAccwr f s
  | .mbfen f => Sys2Proof.Machine.execMbfen f s
  | .mbwait f => Sys2Proof.Machine.execMbwait f s
  | .matrixOperationComplete k q => Sys2Proof.Machine.execMatrixOperationComplete k q s
  | .clauseStart k => Sys2Proof.Machine.execClauseStart k s
  | .positionedEffect k => Sys2Proof.Machine.execPositionedEffect k s
  | .longLatencyCompletion k q => Sys2Proof.Machine.execLongLatencyCompletion k q s
  | .granuleFill k j => Sys2Proof.Machine.execGranuleFill k j s
  | .trapEntry k lane idx cause tval => Sys2Proof.Machine.execTrapEntry k lane idx cause tval s
  | .engineOperationComplete id st data => Sys2Proof.Machine.execEngineOperationComplete id st data s
  | .dataResponse c line m => Sys2Proof.Machine.execDataResponse c line m s
  | .tlbAcknowledge id h => Sys2Proof.Machine.execTlbAcknowledge id h s
  | .remotePutArrival w off data => Sys2Proof.Machine.execRemotePutArrival w off data s
  | .sentComplete id => Sys2Proof.Machine.execSentComplete id s
  | .remoteGet w off len => Sys2Proof.Machine.execRemoteGet w off len s
  | .gets p => Sys2Proof.Machine.execGets p s
  | .getm p => Sys2Proof.Machine.execGetm p s
  | .upgrade p => Sys2Proof.Machine.execUpgrade p s
  | .putm p => Sys2Proof.Machine.execPutm p s
  | .inv p => Sys2Proof.Machine.execInv p s
  | .poison p => Sys2Proof.Machine.execPoison p s
  | .bcast p => Sys2Proof.Machine.execBcast p s
  | .tile p => Sys2Proof.Machine.execTile p s
  | .tlbinvMessage p => Sys2Proof.Machine.execTlbinvMessage p s
  | .ack p => Sys2Proof.Machine.execAck p s
  | .nack p => Sys2Proof.Machine.execNack p s
  | .hold p => Sys2Proof.Machine.execHold p s
  | .replay p => Sys2Proof.Machine.execReplay p s
  | .nackSend p r => Sys2Proof.Machine.execNackSend p r s
  | .retransmissionWindowExpiry p => Sys2Proof.Machine.execRetransmissionWindowExpiry p s
  | .wavelengthDegraded p g w => Sys2Proof.Machine.execWavelengthDegraded p g w s
  | .retuneComplete p g w => Sys2Proof.Machine.execRetuneComplete p g w s
  | .heartbeat w => Sys2Proof.Machine.execHeartbeat w s
  | .unitDead w => Sys2Proof.Machine.execUnitDead w s
  | .planeReadTimeout w => Sys2Proof.Machine.execPlaneReadTimeout w s
  | .fencing w => Sys2Proof.Machine.execFencing w s
  | .recordRewrite c => Sys2Proof.Machine.execRecordRewrite c s
  | .declaration m lost => Sys2Proof.Machine.execDeclaration m lost s
  | .interest m => Sys2Proof.Machine.execInterest m s
  | .interestNack m => Sys2Proof.Machine.execInterestNack m s
  | .interestRetry c pn => Sys2Proof.Machine.execInterestRetry c pn s
  | .publication m => Sys2Proof.Machine.execPublication m s
  | .refill r pn => Sys2Proof.Machine.execRefill r pn s
  | .tileDelivery m => Sys2Proof.Machine.execTileDelivery m s
  | .localRecordExpiry id => Sys2Proof.Machine.execLocalRecordExpiry id s
  | .pitEntryExpiry r pn => Sys2Proof.Machine.execPitEntryExpiry r pn s
  | .drop m => Sys2Proof.Machine.execDrop m s
  | .neverProduced m => Sys2Proof.Machine.execNeverProduced m s
  | .tileLifetimeEnd r pn => Sys2Proof.Machine.execTileLifetimeEnd r pn s
  | .tombstoneEnd r pn => Sys2Proof.Machine.execTombstoneEnd r pn s
  | .cancel m => Sys2Proof.Machine.execCancel m s
  | .nopPacket src => Sys2Proof.Machine.execNopPacket src s
  | .launch src => Sys2Proof.Machine.execLaunch src s
  | .graph src => Sys2Proof.Machine.execGraph src s
  | .copy src => Sys2Proof.Machine.execCopy src s
  | .signal src => Sys2Proof.Machine.execSignal src s
  | .time src => Sys2Proof.Machine.execTime src s
  | .startReached id => Sys2Proof.Machine.execStartReached id s
  | .cqHeaderRecheck cq => Sys2Proof.Machine.execCqHeaderRecheck cq s
  | .ageing id => Sys2Proof.Machine.execAgeing id s
  | .blocking id => Sys2Proof.Machine.execBlocking id s
  | .bandPlacement id c cores => Sys2Proof.Machine.execBandPlacement id c cores s
  | .prewaitExpiry id c => Sys2Proof.Machine.execPrewaitExpiry id c s
  | .preemptCommand l b reloc => Sys2Proof.Machine.execPreemptCommand l b reloc s
  | .bandResume l b c cores => Sys2Proof.Machine.execBandResume l b c cores s
  | .regionOverrun k => Sys2Proof.Machine.execRegionOverrun k s
  | .throttleWindow c co h => Sys2Proof.Machine.execThrottleWindow c co h s
  | .loamZero id => Sys2Proof.Machine.execLoamZero id s
  | .loamCopy id => Sys2Proof.Machine.execLoamCopy id s
  | .gred id => Sys2Proof.Machine.execGred id s
  | .sadd id => Sys2Proof.Machine.execSadd id s
  | .coll id => Sys2Proof.Machine.execColl id s
  | .collectiveRun id run => Sys2Proof.Machine.execCollectiveRun id run s
  | .collectiveTimeout id => Sys2Proof.Machine.execCollectiveTimeout id s
  | .mig id => Sys2Proof.Machine.execMig id s
  | .heatWindow st pages => Sys2Proof.Machine.execHeatWindow st pages s
  | .domainSwitchOff st d => Sys2Proof.Machine.execDomainSwitchOff st d s
  | .domainPowerOff st d => Sys2Proof.Machine.execDomainPowerOff st d s
  | .domainSwitchOn st d => Sys2Proof.Machine.execDomainSwitchOn st d s
  | .domainReady st d => Sys2Proof.Machine.execDomainReady st d s
  | .hostWindowWrite off data => Sys2Proof.Machine.execHostWindowWrite off data s
  | .hostWindowRead off => Sys2Proof.Machine.execHostWindowRead off s
  | .cxlLinkDown => Sys2Proof.Machine.execCxlLinkDown s
  | .cxlLinkUp => Sys2Proof.Machine.execCxlLinkUp s
  | .queueRegistration q v => Sys2Proof.Machine.execQueueRegistration q v s
  | .managementCommand => Sys2Proof.Machine.execManagementCommand s
  | .controllerReset => Sys2Proof.Machine.execControllerReset s
  | .spdmRequest => Sys2Proof.Machine.execSpdmRequest s
  | .dataFlit p f => Sys2Proof.Machine.execDataFlit p f s
  | .acknowledgementFlit p f => Sys2Proof.Machine.execAcknowledgementFlit p f s
  | .idleFlit p f => Sys2Proof.Machine.execIdleFlit p f s
  | .propose p f => Sys2Proof.Machine.execPropose p f s
  | .accept p f => Sys2Proof.Machine.execAccept p f s
  | .train p f => Sys2Proof.Machine.execTrain p f s
  | .timeFlit p f => Sys2Proof.Machine.execTimeFlit p f s
  | .timeExchange => Sys2Proof.Machine.execTimeExchange s
  | .flitResendTimeout p q => Sys2Proof.Machine.execFlitResendTimeout p q s
  | .acknowledgementSend p => Sys2Proof.Machine.execAcknowledgementSend p s
  | .linkDown p => Sys2Proof.Machine.execLinkDown p s
  | .portLockLoss p w => Sys2Proof.Machine.execPortLockLoss p w s
  | .trainingTimeout p => Sys2Proof.Machine.execTrainingTimeout p s
  | .ltarget p v => Sys2Proof.Machine.execLtarget p v s
  | .dwellExpiry p => Sys2Proof.Machine.execDwellExpiry p s
  | .interlockTrip p => Sys2Proof.Machine.execInterlockTrip p s
  | .interlockClose p => Sys2Proof.Machine.execInterlockClose p s
  | .moduleReset => Sys2Proof.Machine.execModuleReset s
  | .ftarget r v => Sys2Proof.Machine.execFtarget r v s
  | .droop r => Sys2Proof.Machine.execDroop r s
  | .temperatureWarn r t => Sys2Proof.Machine.execTemperatureWarn r t s
  | .frequencyStep r => Sys2Proof.Machine.execFrequencyStep r s
  | .clockStop r t => Sys2Proof.Machine.execClockStop r t s
  | .clockRestart r t => Sys2Proof.Machine.execClockRestart r t s
  | .thermalTrip r => Sys2Proof.Machine.execThermalTrip r s
  | .tokenWindow limited => Sys2Proof.Machine.execTokenWindow limited s
  | .checkpointStart v => Sys2Proof.Machine.execCheckpointStart v s
  | .checkpointDone => Sys2Proof.Machine.execCheckpointDone s
  | .nodeAccess v => Sys2Proof.Machine.execNodeAccess v s
  | .registerWrite off v => Sys2Proof.Machine.execRegisterWrite off v s
  | .resumeStoppedCrew k => Sys2Proof.Machine.execResumeStoppedCrew k s
  | .endStoppedCrew k => Sys2Proof.Machine.execEndStoppedCrew k s
  | .keptRangeRelease k => Sys2Proof.Machine.execKeptRangeRelease k s
  | .buntingFrame => Sys2Proof.Machine.execBuntingFrame s
  | .receiverLock p w => Sys2Proof.Machine.execReceiverLock p w s
  | .frequencyChangeEnd r => Sys2Proof.Machine.execFrequencyChangeEnd r s
  | .droopPassed r => Sys2Proof.Machine.execDroopPassed r s
  | .temperatureBelowTwarn r t => Sys2Proof.Machine.execTemperatureBelowTwarn r t s
  | .msiXVectorUnmask v => Sys2Proof.Machine.execMsiXVectorUnmask v s
  | .hostMemoryCompletion k => Sys2Proof.Machine.execHostMemoryCompletion k s

end Sys2Proof.Machine
end

