-- ==== Sys2Proof/Machine/Run.lean ====
section
/-!
DEFINITION. Run.lean: what a step does: whose turn it is, fetching an instruction, the events hardware raises of its own
accord, and the end of a step (R17 to R19, R41, R42, R116, R119, R120, R136, R137; log 1, log 7, log 10).
-/
namespace Sys2Proof.Machine

/-- What a turn calls for: an instruction with the state its fetch leaves, the outcome of an event of hardware, or only a new
state. -/
inductive Work where
  | run (i : Instr) (s : State)
  | act (o : Out)
  | done (s : State)

/-! ### Fetch -/

/-- The scalar thread's next instruction: a fetch fault and an unassigned word trap (R120, R137). -/
def scalarWork (s : State) : Work :=
  match fetchWord s .scalarFetch s.cur.pc with
  | .error e => .done (scalarTrap s (errCause .scalarFetch e) s.cur.pc)
  | .ok (bs, s1) =>
    match decodeScalar (scalarWordOf bs) with
    | some i => .run i s1
    | none => .done (scalarTrap s1 0x01 (zext64 (scalarWordOf bs)))

/-- The address of the instruction at the head clause's position. -/
def laneAddr (e : QEntry) : W64 := e.addr + BitVec.ofNat 64 (12 * (e.pos + 1))

/-- The running clause's next instruction: a fetch fault, a header in the body and an unassigned word trap (R120, R136, R137). -/
def laneFetch (s : State) (e : QEntry) : Work :=
  match fetchWords s .laneFetch (laneAddr e) 3 with
  | .error x => .done (laneTrap s (errCause .laneFetch x) (laneAddr e))
  | .ok (bs, s1) =>
    match decodeLane (laneWordOf bs) with
    | some i => .run i s1
    | none =>
      .done (laneTrap s1 (if isHeaderWord (laneWordOf bs) then 0x03 else 0x01) ((laneWordOf bs).extractLsb' 32 64))

/-- The lane engine's next work: a full/empty wait, the running clause, a clause to start, an effect to apply. -/
def laneWork (s : State) : Work :=
  match s.cur.feWait with
  | some w => .run (if feExpired s w then .fullEmptyWaitExpired else .fullEmptyPerform) s
  | none =>
    match s.cur.queue with
    | [] => .done s
    | e :: _ =>
      if e.kind ≠ .clause then .run (.positionedEffect s.cur.key) s
      else if e.started then laneFetch s e
      else .run (.clauseStart s.cur.key) s

/-! ### Who may run (R42, R317, R421, R423) -/

/-- A group may issue: resident, its crew running, its region clocked. -/
def mayRun (s : State) (g : Group) : Bool :=
  g.status = .resident && clusterClocked s g.cluster
    && (match findCrew s g.key with | some c => c.halt = .running | none => false)

/-- The current group may issue. -/
def curRuns (s : State) : Bool := mayRun s s.cur && s.crew.key = crewKey s.cur.key

/-- The turns a step may take next: the scalar thread or the lane engine of a group that may run, or hardware. -/
def turns (s : State) : List (Turn × GKey) :=
  (.hardware, s.cur.key) :: ((allGroups s).filter (mayRun s)).flatMap fun g =>
    if g.queue.isEmpty then [(.scalar, g.key)] else [(.scalar, g.key), (.lane, g.key)]

/-- The next turn, by a free choice (log 1, log 10): a group is brought into focus and given its turn where it may run, else
hardware has it. -/
def chooseTurn (s : State) : State :=
  let l := turns s
  let x := nth l (Config.pick s.ctr l.length % l.length) (.hardware, s.cur.key)
  let t := focus s x.2
  { t with turn := if curRuns t then x.1 else .hardware }

/-! ### Events hardware raises of its own accord

Each is the meaning of its event. A meaning changes nothing unless its event is due. -/

/-- The meaning of an event. -/
abbrev Event := State → Out

/-- Events of a group: completions, waits, fills. -/
def groupEvents (s : State) (g : Group) : List Event :=
  (g.outs.map fun o => if o.matrix then execMatrixOperationComplete g.key o.seq else execLongLatencyCompletion g.key o.seq)
    ++ (match g.wait with | .tick _ => [execWaituntilReached g.key] | _ => [])
    ++ ((granulesWanted s g).map fun j => execGranuleFill g.key j)

/-- The groups whose work goes on: those of regions whose clock runs (R423, R429). -/
def clockedGroups (s : State) : List Group := (allGroups s).filter fun g => !clusterHalted s g.cluster

/-- The engine operations that go on: those of Loam units, and of clusters whose clock runs (R423, R429). -/
def clockedOps (s : State) : List EngOp := s.ops.filter fun o => (opUnit o).isSome || !clusterHalted s o.cluster

/-- A PUT that its target has confirmed raises SENT as soon as it can (R290). -/
def sentEvents (o : EngOp) : List Event :=
  match o.stage, o.kind with
  | .sent, .put _ _ _ => [execSentComplete o.id]
  | _, _ => []

/-- Events of an engine operation. -/
def opEvents (o : EngOp) : List Event :=
  sentEvents o ++
  [execEngineOperationComplete o.id 0 [], execLoamZero o.id, execLoamCopy o.id, execGred o.id, execSadd o.id, execColl o.id,
   execMig o.id, execCollectiveRun o.id ⟨[], true⟩, execCollectiveTimeout o.id, execLocalRecordExpiry o.id]

/-- Events of a plane: its head slot and its head control slot take effect (each of these acts only on a slot of its kind), a
NACK is repeated, kept slots go. -/
def planeEvents (s : State) (p : Nat) : List Event :=
  (if (nth s.planes p idlePlane).sent.isEmpty then []
    else [execGets p, execGetm p, execUpgrade p, execPutm p, execInv p, execPoison p, execBcast p, execTile p, execTlbinvMessage p,
          execAck p, execNack p, execHold p, execReplay p])
    ++ ((nth s.planes p idlePlane).readers.map fun r => execNackSend p r.1)
    ++ [execRetransmissionWindowExpiry p]

/-- Events of the broadcast layer. -/
def layerEvents (s : State) : List Event :=
  execBuntingFrame :: (List.range 8).flatMap (planeEvents s)
    ++ s.reqs.map (fun r => execDataResponse r.cluster r.line r.mask)
    ++ s.invals.flatMap (fun i => i.waiting.map fun h => execTlbAcknowledge i.id h)
    ++ ((presentWriters s).filter fun w => lastBeat s w + 10000 ≤ s.time).map (fun w => execHeartbeat w)
    ++ s.dead.map (fun d => if d.2 = 0 then execRecordRewrite d.1 else execFencing d.1)

/-- The event of a named-tile message. -/
def netEvent (m : NetMsg) : Event :=
  match m.kind with
  | .interest => execInterest m
  | .nack => execInterestNack m
  | .publication | .stored => execPublication m
  | .delivery => execTileDelivery m
  | .drop => execDrop m
  | .never | .unserved => execNeverProduced m
  | .cancel => execCancel m
  | .declare | .declared => execDeclaration m false

/-- Events of a router's tables. -/
def routerEvents (r : Nat × Router) : List Event :=
  (r.2.pit.map fun e => if e.tomb then execTombstoneEnd r.1 e.pennant else execPitEntryExpiry r.1 e.pennant)
    ++ r.2.store.flatMap fun t => if t.spilled then [execRefill r.1 t.pennant, execTileLifetimeEnd r.1 t.pennant]
      else [execTileLifetimeEnd r.1 t.pennant]

/-- Events of named tiles. -/
def tileEvents (s : State) : List Event :=
  s.net.map netEvent ++ s.routers.flatMap routerEvents ++ s.wants.map (fun w => execInterestRetry w.cluster w.pennant)
    ++ (s.declOps.filter (·.asked)).map fun o => execDeclaration { plainMsg .declared (clusterRouter o.cluster) .loc 0 with op := o.id } true

/-- The events that take a packet from a source. -/
def packetEvents (src : PktSrc) : List Event :=
  [execNopPacket src, execLaunch src, execGraph src, execCopy src, execSignal src, execTime src]

/-- Placements of an entry the distributor may try. -/
def placeEvents (s : State) (e : Entry) : List Event :=
  match findLaunch s e.launch with
  | none => []
  | some l => (List.range 64).flatMap fun c =>
      execPrewaitExpiry e.launch c :: (match assignCores s l (nextBand l) c [] with
        | some cs => [execBandPlacement e.launch c cs]
        | none => [])

/-- Events of the scheduler. -/
def schedEvents (s : State) : List Event :=
  ((List.range 64).filter fun q => mgmtField s (0x100 + 8 * q) 0 0 = 1).flatMap (fun q => packetEvents (.queue q))
    ++ s.ready.flatMap (fun r => packetEvents (.node r.node))
    ++ s.jobs.map (fun j => execStartReached j.id)
    ++ s.entries.flatMap (fun e => [execAgeing e.launch, execBlocking e.launch] ++ placeEvents s e)
    ++ (s.bands.filter fun b => b.phase = .saved).map (fun b => execBandResume b.launch b.band b.cluster b.cores)
    ++ ((s.posts.map (·.cq)).eraseDups).map (fun cq => execCqHeaderRecheck cq)
    ++ [execThrottleWindow (Config.pick s.ctr 64 % 64) (Config.pick s.ctr 8 % 8) (Config.pick s.ctr 4096 % 4096)]

/-- Events of the stacks' domains. -/
def domainEvents (s : State) : List Event :=
  (List.range 80).flatMap fun i =>
    let on := bitAt (domainReg s (i / 5)) (i % 5)
    if on = bitAt (domainReg s (i / 5)) (5 + i % 5) then []
    else if on then [execDomainReady (i / 5) (i % 5)] else [execDomainPowerOff (i / 5) (i % 5)]

/-- Events of a port. -/
def portEvents (s : State) (p : Nat) : List Event :=
  [execLinkDown p, execTrainingTimeout p, execDwellExpiry p, execAcknowledgementSend p]
    ++ (portAt s p).unacked.map fun x => execFlitResendTimeout p x.seq

/-- Events of the management controller, the regions and the ports. -/
def moduleEvents (s : State) : List Event :=
  [execTimeExchange, execManagementCommand, execCheckpointDone, retryArrival, fun s => .next (driftTemp s), execTokenWindow (Config.choice s.ctr 4)]
    ++ (List.range 32).flatMap (portEvents s)
    ++ (List.range 16).flatMap fun r =>
      (if (regionAt s r).changing then [execFrequencyChangeEnd r] else [])
        ++ (if (regionAt s r).stepping then [execFrequencyStep r] else [])

/-- The events hardware may raise. In reset it runs the boot (R420). -/
def ownEvents (s : State) : List Event :=
  if bootDone s 9 then
    (clockedGroups s).flatMap (groupEvents s) ++ (clockedOps s).flatMap opEvents ++ layerEvents s ++ tileEvents s ++ schedEvents s
      ++ domainEvents s ++ moduleEvents s
  else if mgmtField s 0x08 8 8 = 0 then [execModuleReset]
  else []

/-- Hardware's turn: one of its events, by a free choice (log 10). -/
def hardwareWork (s : State) : Work :=
  let l := ownEvents s
  match l[Config.pick s.ctr l.length % max 1 l.length]? with
  | some e => .act (e s)
  | none => .done s

/-! ### A step -/

/-- An event that the outside may give: every event of the table; an instruction of a stream is none. -/
def isEvent (i : Instr) : Bool := (encode i).isEmpty

/-- What the step does: an event given from outside first, else what the turn calls for. -/
def workOf (s : State) : Work :=
  match s.inputs with
  | i :: r => if isEvent i then .run i { s with inputs := r } else .done { s with inputs := r }
  | [] =>
    match s.turn with
    | .scalar => if curRuns s then scalarWork s else .done s
    | .lane => if curRuns s then laneWork s else .done s
    | .hardware => hardwareWork s

/-- The end of every step: the scheduler's housekeeping, the ports send what is queued, time and the counter move on, regions whose budget
has run out are overrun, the next turn is chosen (R324; log 1, log 7). -/
def settle (s : State) : State :=
  let s1 := (List.range 32).foldl pump (sweep s)
  let s2 := { s1 with ctr := s1.ctr + 1, time := s1.time + s1.rate, rate := Config.pick s1.ctr 0 }
  chooseTurn ((allGroups s2).foldl settleOverrun s2)

/-- The outcome of a step: a next state settles. -/
def endStep (o : Out) : Out :=
  match o with
  | .next s => .next (settle s)
  | .fault f => .fault f
  | .refused r => .refused r

/-! ### A program loaded from outside (log 35) -/

/-- The physical address at which a probed instruction's code begins. -/
def probeCode : Nat := 0x10000

/-- Page tables at 0x1000 and 0x2000 that map the first GiB to itself: a pointer, and a 1 GiB leaf with V, R, W, XS, XL, U, A and
D set (R85 to R88). -/
def probeCells : List (Nat × List Byte) := [(0x1000, leBytes 0x2001 8), (0x2000, leBytes 0x1BF 8)]

/-- Store bytes as a loader does: nothing of them is poisoned. -/
def loadBytes (s : State) (x : Nat × List Byte) : State :=
  { s with mem := memPut s.revived s.mem x.1 x.2
           poison := s.poison.filter fun w => !(w < x.1 + x.2.length && x.1 < w + 4) }

/-- The group that runs a probed instruction: resident, under the probe's tables, with the word at its `pc`, or in a running
clause of one instruction. -/
def probeGroup (lane : Bool) (mark : Nat) (g : Group) : Group :=
  let e : QEntry := { kind := .clause, addr := BitVec.ofNat 64 probeCode, mask := 0xFFFFFFFF, fmt := g.fmt, started := true, pos := 0,
                      count := 1, asid := g.asid, ptbase := 0x1000 }
  { g with status := .resident, ptbase := 0x1000, priv := false, isyncMark := mark, wait := .none, feWait := none
           pc := if lane then g.pc else BitVec.ofNat 64 probeCode, queue := if lane then [e] else g.queue }

/-- Its crew runs. -/
def probeCrew (k : GKey) (c : Crew) : Crew :=
  { (if c.key = crewKey k then c else blankCrew (crewKey k)) with groups := max 1 c.groups, halt := .running }

/-- No region's clock is stopped. -/
def clockAll (s : State) : State :=
  let s1 := { s with regions := s.regions.map fun x => { x with changing := false } }
  (List.range 16).foldl (fun s r => if clocked s r then s else mgmtPut s (regionOff r 3) 1 0 0) s1

/-- The machine with an instruction's words where its next step fetches them: a word of up to 32 bits as a scalar instruction at
0x10000, a longer one as the only instruction of a running clause there, the words little-endian (R5, R119, R121). Module power is
on, no event waits, and stack 0's first domain is powered. -/
def placeWord (s : State) (nbits w : Nat) : State :=
  let lane := decide (32 < nbits)
  let code := if lane then (probeCode + 12, leBytes w 12) else (probeCode, leBytes w 4)
  let s1 := (code :: probeCells).foldl loadBytes s
  let s2 := clockAll (loamPut s1 0 0x10 (loamRaw s1 0 0x10 ||| 0x21))
  { s2 with
    power := true, inputs := [], turn := if lane then .lane else .scalar
    tlb := s2.tlb.filter fun t => !(holdersOf (coreHolder s.cur.cluster s.cur.core)).contains t.holder
    cur := probeGroup lane s.hist.length s.cur, crew := probeCrew s.cur.key s.crew }

end Sys2Proof.Machine
end

