-- ==== Sys2Proof/Machine/Step.lean ====
section
/-! DEFINITION. Step.lean: one step of the machine, and an instruction placed for the next step to fetch. -/
namespace Sys2Proof.Machine

/-- One step (log 1): what is called for is done, then the step ends as `settle` says. With module power cut nothing moves
(R423). -/
def step (s : State) : Host.Outcome State Fault Refusal :=
  if s.power then
    match workOf s with
    | .run i s1 => endStep (exec i s1)
    | .act o => endStep o
    | .done s1 => .next (settle s1)
  else .fault .powerCut

/-- The state with an instruction's words where the next step fetches and runs them (log 35). -/
def State.withFetchWord (s : State) (nbits w : Nat) : State := placeWord s nbits w

end Sys2Proof.Machine
end

