-- ==== Sys2Proof/Claims/Scalar.lean ====
section
/-!
DEFINITION. Claims/Scalar.lean: the terms the statements about scalar instructions are made of: what a result leaves alone,
and the results of the rules written over exact integers (R150 to R164).
-/
namespace Sys2Proof.Claims

open Sys2Proof.Machine

/-! ### What a scalar instruction leaves alone -/

/-- The state t is s after a scalar instruction that writes v to sd and goes on to the next word: a write of s0 is discarded
(R150), every other register, every byte of memory and all the rest of the machine are as before. -/
structure ScalarResult (s t : State) (d : BitVec 6) (v : W64) : Prop where
  dest : sreg t d = if d = 0 then 0 else v
  others : ∀ r, r ≠ d → sreg t r = sreg s r
  next : t.cur.pc = s.cur.pc + 4
  memory : ∀ a, memGet t a = memGet s a
  rest : { t with cur := { t.cur with sregs := s.cur.sregs, pc := s.cur.pc } } = s

/-- The state s with its scalar thread at an address, and nothing else changed. -/
def atPc (s : State) (pc : W64) : State := { s with cur := { s.cur with pc := pc } }

/-- The state s with its scalar thread at the next word, and nothing else changed. -/
def nextPc (s : State) : State := atPc s (s.cur.pc + 4)

/-- A condition as a register value: 1 or 0. -/
def one (p : Prop) [Decidable p] : W64 := if p then 1 else 0

/-! ### The results of the rules, over integers -/

/-- The result of a major 0x01 instruction on operands a and b (R154, R155). -/
def arithResult (a b : W64) : Instr → Option (BitVec 6 × W64)
  | .add d _ _ => some (d, BitVec.ofNat 64 (a.toNat + b.toNat))
  | .sub d _ _ => some (d, BitVec.ofInt 64 ((a.toNat : Int) - b.toNat))
  | .mul d _ _ => some (d, BitVec.ofNat 64 (a.toNat * b.toNat))
  | .mulh d _ _ => some (d, BitVec.ofInt 64 (a.toInt * b.toInt / 2 ^ 64))
  | .mulhn d _ _ => some (d, BitVec.ofNat 64 (a.toNat * b.toNat / 2 ^ 64))
  | .div d _ _ => some (d, if b = 0 then BitVec.ofInt 64 (-1) else BitVec.ofInt 64 (a.toInt.tdiv b.toInt))
  | .divn d _ _ => some (d, if b = 0 then 0xFFFFFFFFFFFFFFFF else BitVec.ofNat 64 (a.toNat / b.toNat))
  | .rem d _ _ => some (d, if b = 0 then a else BitVec.ofInt 64 (a.toInt - b.toInt * a.toInt.tdiv b.toInt))
  | .remn d _ _ => some (d, if b = 0 then a else BitVec.ofNat 64 (a.toNat - b.toNat * (a.toNat / b.toNat)))
  | .and d _ _ => some (d, BitVec.ofNat 64 (a.toNat &&& b.toNat))
  | .or d _ _ => some (d, BitVec.ofNat 64 (a.toNat ||| b.toNat))
  | .xor d _ _ => some (d, BitVec.ofNat 64 (a.toNat ^^^ b.toNat))
  | .shl d _ _ => some (d, BitVec.ofNat 64 (a.toNat * 2 ^ (b.toNat % 64)))
  | .shr d _ _ => some (d, BitVec.ofNat 64 (a.toNat / 2 ^ (b.toNat % 64)))
  | .sha d _ _ => some (d, BitVec.ofInt 64 (a.toInt / 2 ^ (b.toNat % 64)))
  | .min d _ _ => some (d, BitVec.ofInt 64 (min a.toInt b.toInt))
  | .max d _ _ => some (d, BitVec.ofInt 64 (max a.toInt b.toInt))
  | .minn d _ _ => some (d, BitVec.ofNat 64 (min a.toNat b.toNat))
  | .maxn d _ _ => some (d, BitVec.ofNat 64 (max a.toNat b.toNat))
  | .clz d _ => some (d, BitVec.ofNat 64 (if a = 0 then 64 else 63 - a.toNat.log2))
  | .popc d _ => some (d, BitVec.ofNat 64 ((List.range 64).countP fun j => a.getLsbD j))
  | .cmpEq d _ _ => some (d, one (a.toNat = b.toNat))
  | .cmpNe d _ _ => some (d, one (a.toNat ≠ b.toNat))
  | .cmpLt d _ _ => some (d, one (a.toInt < b.toInt))
  | .cmpLe d _ _ => some (d, one (a.toInt ≤ b.toInt))
  | .cmpLtn d _ _ => some (d, one (a.toNat < b.toNat))
  | .cmpLen d _ _ => some (d, one (a.toNat ≤ b.toNat))
  | _ => none

/-- The source registers of a major 0x01 instruction; CLZ and POPC have one. -/
def arithSources : Instr → BitVec 6 × BitVec 6
  | .add _ a b | .sub _ a b | .mul _ a b | .mulh _ a b | .mulhn _ a b | .div _ a b | .divn _ a b | .rem _ a b | .remn _ a b
  | .and _ a b | .or _ a b | .xor _ a b | .shl _ a b | .shr _ a b | .sha _ a b | .min _ a b | .max _ a b | .minn _ a b
  | .maxn _ a b | .cmpEq _ a b | .cmpNe _ a b | .cmpLt _ a b | .cmpLe _ a b | .cmpLtn _ a b | .cmpLen _ a b => (a, b)
  | .clz _ a | .popc _ a => (a, 0)
  | _ => (0, 0)

/-- The result of ADDI, ANDI, ORI, XORI, SHI, CMPI, LHI and ADDPC: on source register values `r` and the address of the
instruction (R156, R157, R158). -/
def immediateResult (r : BitVec 6 → W64) (pc : W64) : Instr → Option (BitVec 6 × W64)
  | .addi d a i => some (d, BitVec.ofInt 64 ((r a).toInt + i.toInt))
  | .andi d a i => some (d, BitVec.ofNat 64 ((r a).toNat &&& (BitVec.ofInt 64 i.toInt).toNat))
  | .ori d a i => some (d, BitVec.ofNat 64 ((r a).toNat ||| (BitVec.ofInt 64 i.toInt).toNat))
  | .xori d a i => some (d, BitVec.ofNat 64 ((r a).toNat ^^^ (BitVec.ofInt 64 i.toInt).toNat))
  | .shiShl d a n => some (d, BitVec.ofNat 64 ((r a).toNat * 2 ^ n.toNat))
  | .shiShr d a n => some (d, BitVec.ofNat 64 ((r a).toNat / 2 ^ n.toNat))
  | .shiSha d a n => some (d, BitVec.ofInt 64 ((r a).toInt / 2 ^ n.toNat))
  | .cmpiEq d a v => some (d, one ((r a).toInt = v.toInt))
  | .cmpiNe d a v => some (d, one ((r a).toInt ≠ v.toInt))
  | .cmpiLt d a v => some (d, one ((r a).toInt < v.toInt))
  | .cmpiLe d a v => some (d, one ((r a).toInt ≤ v.toInt))
  | .cmpiLtn d a v => some (d, one ((r a).toNat < (BitVec.ofInt 64 v.toInt).toNat))
  | .cmpiLen d a v => some (d, one ((r a).toNat ≤ (BitVec.ofInt 64 v.toInt).toNat))
  | .lhi d i => some (d, BitVec.ofInt 64 (i.toInt * 2 ^ 12))
  | .addpc d i => some (d, BitVec.ofInt 64 ((pc.toNat : Int) + 4 * i.toInt))
  | _ => none

/-- The result of MADD, MSUB, TADDR and SEL on source register values (R160, R161, R162). -/
def fourResult (r : BitVec 6 → W64) : Instr → Option (BitVec 6 × W64)
  | .madd d a b c => some (d, BitVec.ofNat 64 ((r a).toNat * (r b).toNat + (r c).toNat))
  | .msub d a b c => some (d, BitVec.ofInt 64 (((r c).toNat : Int) - (r a).toNat * (r b).toNat))
  | .taddr d a b c w =>
    some (d, BitVec.ofNat 64 ((r a).toNat
      + ((r b).toNat * ((r c).toNat / 2 ^ 32) + (r c).toNat % 2 ^ 32) * 2 ^ w.toNat))
  | .sel d a b c => some (d, if (r c).toNat = 0 then r b else r a)
  | _ => none

/-- The result of BFX, BFXN and BFI where the field lies within 64 bits, on source register values: the field of len bits at
pos is taken out, or put in (R159). -/
def fieldResult (r : BitVec 6 → W64) : Instr → Option (BitVec 6 × W64)
  | .bfx d a p l =>
    if p.toNat + (l.toNat + 1) ≤ 64 then some (d, BitVec.ofNat 64 ((r a).toNat / 2 ^ p.toNat % 2 ^ (l.toNat + 1))) else none
  | .bfxn d a p l =>
    if p.toNat + (l.toNat + 1) ≤ 64 then
      some (d, BitVec.ofInt 64 (BitVec.ofNat (l.toNat + 1) ((r a).toNat / 2 ^ p.toNat)).toInt) else none
  | .bfi d a p l =>
    if p.toNat + (l.toNat + 1) ≤ 64 then
      some (d, BitVec.ofNat 64 ((r d).toNat - (r d).toNat / 2 ^ p.toNat % 2 ^ (l.toNat + 1) * 2 ^ p.toNat
        + (r a).toNat % 2 ^ (l.toNat + 1) * 2 ^ p.toNat))
    else none
  | _ => none

/-- A BFX, BFXN or BFI whose field passes bit 63: pos + len above 64 (R159). -/
def fieldTooLong : Instr → Prop
  | .bfx _ _ p l | .bfxn _ _ p l | .bfi _ _ p l => 64 < p.toNat + (l.toNat + 1)
  | _ => False

/-- Where J, JAL, BZ and BNZ go on, and the link of JAL (R163). -/
def branchTarget (r : BitVec 6 → W64) (pc : W64) : Instr → Option W64
  | .j disp | .jal disp => some (BitVec.ofInt 64 ((pc.toNat : Int) + 4 * disp.toInt))
  | .bz a disp => some (if (r a).toNat = 0 then BitVec.ofInt 64 ((pc.toNat : Int) + 4 * disp.toInt) else pc + 4)
  | .bnz a disp => some (if (r a).toNat ≠ 0 then BitVec.ofInt 64 ((pc.toNat : Int) + 4 * disp.toInt) else pc + 4)
  | _ => none

/-- The register a jump writes its link to: s62 for JAL, sd for JALR; 0 for the others (R163, R164). -/
def linkRegister : Instr → BitVec 6
  | .jal _ => 62
  | .jalr d _ => d
  | _ => 0

/-! ### The lane queue -/

/-- The lane-queue entry that CLAUSE, CLAUSER, SETP, VPUT and MTS of `prng` and `fewait` append, where the operands are in
range (R18, R153, R172, R173, R176, R178, R181). -/
def appended (s : State) : Instr → Option QEntry
  | .clause imm =>
    some { kind := .clause, addr := s.cur.lcb + BitVec.ofNat 64 (12 * imm.toNat), mask := s.cur.amask, fmt := s.cur.fmt,
           asid := s.cur.asid, ptbase := s.cur.ptbase }
  | .clauser a =>
    if (sreg s a).toNat < 2 ^ 20 then
      some { kind := .clause, addr := s.cur.lcb + BitVec.ofNat 64 (12 * (sreg s a).toNat), mask := s.cur.amask, fmt := s.cur.fmt,
             asid := s.cur.asid, ptbase := s.cur.ptbase }
    else none
  | .setp k a => if k = 0 then none else some { kind := .setp, addr := sreg s a, target := k.setWidth 16 }
  | .vput d slot lane =>
    if slot.toNat < s.cur.nslots then
      some { kind := .vput, addr := ((sreg s d).setWidth 32).setWidth 64, target := BitVec.ofNat 16 (slot.toNat * 32 + lane.toNat) }
    else none
  | .mts a n =>
    if n = 0x030 then some { kind := .prng, addr := sreg s a }
    else if n = 0x040 then some { kind := .fewait, addr := sreg s a }
    else none
  | _ => none

/-! ### The mask stack (R25) -/

/-- What MPUSH, MELSE and MPOP make of `amask`, `fmt` and the mask stack; none where the stack has no room or no entry
(R25, R175, R176). -/
def maskStep (g : Group) : Instr → Option (W32 × W64 × List MaskEntry)
  | .mpush n p =>
    let m := if n = 1 then ~~~predMask g p.toNat else predMask g p.toNat
    if g.mstack.length < 32 then some (g.amask &&& m, g.fmt, { mask := g.amask, fmt := g.fmt, taken := g.amask &&& m } :: g.mstack)
    else none
  | .mpushRegister a =>
    let m := (sget g a).setWidth 32
    if g.mstack.length < 32 then some (g.amask &&& m, g.fmt, { mask := g.amask, fmt := g.fmt, taken := g.amask &&& m } :: g.mstack)
    else none
  | .melse =>
    match g.mstack with
    | [] => none
    | e :: r => some (e.mask &&& ~~~e.taken, e.fmt, e :: r)
  | .mpop =>
    match g.mstack with
    | [] => none
    | e :: r => some (e.mask, e.fmt, r)
  | _ => none

/-- MPUSH, MELSE and MPOP may act: a predicate specifier is read once every earlier clause has ended, and that of !p0 does not
exist (R153, R175). -/
def maskReady (g : Group) : Instr → Prop
  | .mpush n p => g.queue = [] ∧ ¬ (n = 1 ∧ p = 0)
  | .mpushRegister _ | .melse | .mpop => True
  | _ => False

/-! ### The end of a group (R189, R190) -/

/-- The event of a region of the current group whose 200,000 ticks have passed and that is not overrun yet: of the tick at which they had
passed, with the scalar program counter; none where no such region is open or no supervisor queue is set up (R324, R430). -/
def overrunPosts (s : State) : List Post :=
  match s.cur.region with
  | none => []
  | some b =>
    if s.cur.regionOver = false ∧ b + 200000 ≤ s.time ∧ sevq s ≠ 0 then
      [{ cq := sevq s, sup := true, claim := none,
         record := packRecord (b + 200000)
           { typ := 0x83, status := 0x16, launch := s.cur.key.launch, band := s.cur.key.band, crew := s.cur.key.crew,
             group := s.cur.key.group, d1 := s.cur.pc.toNat, d2 := 1 } }]
    else []

/-- t is s with its group ended: the region closed, overrun first where its budget had run out, the mask stack, flags and lane registers
gone, but for a kept range of granules (its first, its count), whose slots stay; one more batch has closed; memory and every other part of
the machine are as before. -/
structure GroupEnded (s t : State) (range : Option (Nat × Nat)) : Prop where
  status : t.cur.status = .ended
  region : t.cur.region = none
  masks : t.cur.mstack = []
  flags : ∀ i : Fin 12, vget t.cur.flags i 0 = 0
  kept : t.cur.kept = range
  lanes : ∀ key, spGet t.cur.lanes key =
    match range with
    | none => 0
    | some k => if 8 * k.1 ≤ key / 32 ∧ key / 32 < 8 * (k.1 + k.2) then spGet s.cur.lanes key else 0
  memory : ∀ a, memGet t a = memGet s a
  posts : t.posts = s.posts ++ overrunPosts s
  rest : { t with cur := s.cur, posts := s.posts } = s

/-! ### Special registers (R43) -/

/-- The registers R43 numbers and the part of the state that each number reads; the two bit fields, 0x003 and 0x004, are in
`specialBit`. -/
def specialField (s : State) (n : Nat) : Option W64 :=
  match n with
  | 0x000 => some (BitVec.ofNat 64 s.time)
  | 0x001 => some s.cur.fmt
  | 0x002 => some (s.cur.fstat.setWidth 64)
  | 0x005 => some (BitVec.ofNat 64 s.cur.mstack.length)
  | 0x006 => some (s.cur.amask.setWidth 64)
  | 0x007 => some (s.cur.mbdone.setWidth 64)
  | 0x008 => some s.cur.lzfill
  | 0x010 => some (BitVec.ofNat 64 s.cur.key.crew)
  | 0x011 => some (BitVec.ofNat 64 s.cur.key.group)
  | 0x012 => some (BitVec.ofNat 64 s.cur.key.band)
  | 0x013 => some (BitVec.ofNat 64 s.cur.key.launch)
  | 0x014 => some (BitVec.ofNat 64 s.cur.core)
  | 0x015 => some (BitVec.ofNat 64 s.cur.cluster)
  | 0x016 => some (BitVec.ofNat 64 s.cur.nslots)
  | 0x017 => some (BitVec.ofNat 64 s.cur.tiles.length)
  | 0x018 => some (BitVec.ofNat 64 s.crew.spbase)
  | 0x019 => some (BitVec.ofNat 64 s.crew.splen)
  | 0x020 => some s.cur.lcb
  | 0x030 => some s.cur.prng
  | 0x040 => some s.cur.fewait
  | 0x100 => some s.cur.tsave
  | 0x101 => some s.cur.tcause
  | 0x102 => some s.cur.tpc
  | 0x103 => some s.cur.tval
  | 0x104 => some s.cur.tvec
  | 0x108 => some (s.cur.asid.setWidth 64)
  | 0x109 => some s.cur.ptbase
  | _ => none

/-- Bit t of `tagbits`: tag t of the crew is ready; bit f of `flags`: the count of flag f is not zero (R43). -/
def specialBit (s : State) (n i : Nat) : Bool :=
  if n = 0x003 then (match nth s.crew.tags i .idle with | .ready _ => true | _ => false)
  else decide (i < 12 ∧ vget s.cur.flags i 0 ≠ 0)

/-- What MFS reads after MTS of value x to register n, whose value was v: `fmt` and `fstat` keep their fields' bits, `lcb` has
bits 3:0 zero, `asid` 16 bits; a read-only register keeps its value (R43, R181). -/
def writtenValue (n : BitVec 13) (v x : W64) : W64 :=
  match n.toNat with
  | 0x001 => (v &&& ~~~fmtMask) ||| (x &&& fmtMask)
  | 0x002 => x &&& 0x7F
  | 0x020 => x &&& ~~~0xF
  | 0x100 | 0x102 | 0x104 | 0x109 => x
  | 0x108 => x &&& 0xFFFF
  | _ => v

/-- The numbers of the special registers (R43). -/
def specialNumbers : List Nat :=
  List.range 9 ++ (List.range 10).map (0x10 + ·) ++ [0x20, 0x30, 0x40] ++ (List.range 5).map (0x100 + ·) ++ [0x108, 0x109]

/-! ### Fences and crew barriers (R110, R111, R184) -/

/-- The group's earlier stores are performed at crew scope: no tile store is under way, and every broadcast-window store has been received
(R106, R282). -/
def crewStores (s : State) : Prop := (∀ o ∈ s.cur.outs, ∀ t dst, o.act ≠ .accst t dst) ∧ ∀ b ∈ s.cur.bslots, b.done = true

/-- What a FENCE waits for: every earlier clause ended and its long-latency instructions complete, no tile store under way, beyond the
group's own scope every broadcast-window store received, at system scope every store to host memory accepted and every PUT and GET complete,
and with engines = 1 no engine operation of the group in flight (R110, R111, R115, R282). -/
def FenceDone (s : State) (e : BitVec 1) (sc : BitVec 3) : Prop :=
  s.cur.queue = [] ∧ (∀ o ∈ s.cur.outs, o.matrix = true) ∧
    (∀ o ∈ s.cur.outs, ∀ t dst, o.act ≠ .accst t dst) ∧
    (sc ≠ 0 → ∀ b ∈ s.cur.bslots, b.done = true) ∧
    (sc = 5 → s.cur.key ∉ s.hostPend ∧
      ∀ o ∈ s.ops, o.grp = s.cur.key → (∀ r x n, o.kind ≠ .put r x n) ∧ ∀ x r n, o.kind ≠ .get x r n) ∧
    (e = 1 → ∀ o ∈ s.ops, o.grp ≠ s.cur.key)

/-- An SC operation of a use may be performed in a lane (0 for the scalar thread): its place comes after every place taken, no operation of an earlier place and no earlier store of
the group is under way, and no slot stamped before it is still to be applied (R109, DEDUCED, log 96). -/
def ScTurn (s : State) (u : ScUse) (lane : Nat) : Prop :=
  scNum s.scLast < scNum (scPlace s u lane) ∧ scBehind s u (scPlace s u lane) = false ∧ slotsBehind s (scPlace s u lane) = false

/-- The state s with the place of an SC operation of its scalar thread taken in the SC order. -/
def placeTaken (s : State) : State :=
  { s with scLast := scPlace s .scalar 0, cur := { s.cur with scOpen := s.cur.scOpen.filter fun e => e.use ≠ .scalar } }

/-- An arrival with count n at barrier t is the last of its phase. -/
def barrierLast (s : State) (t n : Nat) : Bool :=
  decide ((if (crewBar s t).count = 0 then 1 else (crewBar s t).arrived + 1) = n)

/-- u is s with one arrival of count n counted at barrier t of the crew (R184); no other barrier and nothing outside the crew's
barriers and the group changes. -/
structure BarrierArrived (s u : State) (t n : Nat) : Prop where
  bar : crewBar u t = if barrierLast s t n then { count := 0, arrived := 0, phase := (crewBar s t).phase + 1 }
    else { count := n, arrived := if (crewBar s t).count = 0 then 1 else (crewBar s t).arrived + 1, phase := (crewBar s t).phase }
  others : ∀ k, k ≠ t → crewBar u k = crewBar s k
  rest : { u with cur := s.cur, crew := { u.crew with cbars := s.crew.cbars } } = s

end Sys2Proof.Claims
end

