-- ==== Sys2Proof/Claims/Memory.lean ====
section
/-!
DEFINITION. Claims/Memory.lean: the terms the statements about loads, stores and atomics are made of: which bytes an access may
change, and the values the rules give (R88, R166 to R171, R187).
-/
namespace Sys2Proof.Claims

open Sys2Proof.Machine

/-- A byte of a page-table entry that the walk of an access went through last: its A and D bits may be set (R88). -/
def leafByte (rs : List Run) (a : Nat) : Prop := ∃ r ∈ rs, ∃ l, r.leaf = some l ∧ l.at_ ≤ a ∧ a < l.at_ + 8

/-- Memory proper: stacked, far, host and scratchpad bytes, but for host memory behind a link that is down (R398). -/
def plainMemory (s : State) (r : Run) : Prop :=
  (∃ st d, r.place = .stacked st d) ∨ r.place = .far ∨ (r.place = .host ∧ s.linkUp = true) ∨
    ∃ cl co off, r.place = .scratch cl co off

/-- What an access that is performed may change of the machine outside the group: memory, cached translations, the coherence records of
its words, the count of accesses a Loam unit keeps, and the SC order. -/
def sameButAccessed (s t : State) : Prop :=
  { t with mem := s.mem, poison := s.poison, hist := s.hist, tlb := s.tlb, dir := s.dir, hostPend := s.hostPend, heat := s.heat,
           scLast := s.scLast } = s

/-- What a scalar access may change outside memory proper: of the group its scalar registers and pc, and of its SC operations the one that
has been performed; every other part of the machine is as before. -/
def accessRest (s t : State) : Prop :=
  sameButAccessed s { t with cur := { t.cur with sregs := s.cur.sregs, pc := s.cur.pc, wait := s.cur.wait, scOpen := s.cur.scOpen } } ∧
    (t.cur.scOpen = s.cur.scOpen ∨ t.cur.scOpen = s.cur.scOpen.filter fun e => e.use ≠ .scalar)

/-- t follows s by a scalar access that writes v to sd and goes on; of memory only page-table entries it walked may differ, and
the n bytes at pa that `new` gives. -/
structure AccessResult (s t : State) (rs : List Run) (d : BitVec 6) (v : W64) (pa : Nat) (new : List Byte) : Prop where
  dest : sreg t d = if d = 0 then 0 else v
  others : ∀ r, r ≠ d → sreg t r = sreg s r
  next : t.cur.pc = s.cur.pc + 4
  stored : ∀ i (h : i < new.length), memGet t (pa + i) = new[i]
  memory : ∀ a, (a < pa ∨ pa + new.length ≤ a) → ¬ leafByte rs a → memGet t a = memGet s a
  rest : accessRest s t

/-- The n little-endian bytes of a number, byte i holding bits 8i+7 to 8i (R5). -/
def littleEndian (v n : Nat) : List Byte := (List.range n).map fun i => BitVec.ofNat 8 (v / 2 ^ (8 * i))

/-- A load's value: n bytes zero- or sign-extended to 64 bits (R166). -/
def extended (x : BitVec 1) (bs : List Byte) : W64 :=
  if x = 1 then BitVec.ofInt 64 (BitVec.ofNat (8 * bs.length) (leValue bs)).toInt else BitVec.ofNat 64 (leValue bs)

/-- The parts of an AMO: sd, sa, order, scope, its size in bytes, and the new word from the old one and the operand (R168,
R169). -/
structure AmoParts where
  d : BitVec 6
  a : BitVec 6
  order : BitVec 3
  scope : BitVec 3
  size : Nat
  f : Nat → Nat → Nat

/-- A word of n bytes read as signed. -/
def asSigned (n x : Nat) : Int := (BitVec.ofNat (8 * n) x).toInt

/-- The size the width bit of an AMO names (R168). -/
def amoSize (w : BitVec 1) : Nat := if w = 1 then 8 else 4

/-- The AMO instructions as R169 lists them; fadd is the model's FP32 sum, rounded RNE without flushing. -/
def amoParts : Instr → Option AmoParts
  | .amoSwap d a o sc w => some ⟨d, a, o, sc, amoSize w, fun _ b => b⟩
  | .amoAdd d a o sc w => some ⟨d, a, o, sc, amoSize w, fun x b => (x + b) % 2 ^ (8 * amoSize w)⟩
  | .amoAnd d a o sc w => some ⟨d, a, o, sc, amoSize w, fun x b => x &&& b⟩
  | .amoOr d a o sc w => some ⟨d, a, o, sc, amoSize w, fun x b => x ||| b⟩
  | .amoXor d a o sc w => some ⟨d, a, o, sc, amoSize w, fun x b => x ^^^ b⟩
  | .amoMin d a o sc w => some ⟨d, a, o, sc, amoSize w, fun x b => if asSigned (amoSize w) b < asSigned (amoSize w) x then b else x⟩
  | .amoMax d a o sc w => some ⟨d, a, o, sc, amoSize w, fun x b => if asSigned (amoSize w) x < asSigned (amoSize w) b then b else x⟩
  | .amoMinn d a o sc w => some ⟨d, a, o, sc, amoSize w, fun x b => if b < x then b else x⟩
  | .amoMaxn d a o sc w => some ⟨d, a, o, sc, amoSize w, fun x b => if x < b then b else x⟩
  | .amoFadd d a o sc => some ⟨d, a, o, sc, 4, f32Sum⟩
  | _ => none

/-- Order and scope codes that R168 and R170 assign: order 0 to 4, and a scope below 6 where the order is nonzero. -/
def orderAssigned (o sc : BitVec 3) : Prop := o.toNat ≤ 4 ∧ (o = 0 ∨ sc.toNat ≤ 5)

/-- A release order (release, acquire-release, SC) finds every earlier clause ended and the group's earlier stores performed at the scope
(R105, R106); SC at device or system scope its turn in the SC order (R109). -/
def releaseReady (s : State) (o sc : BitVec 3) : Prop :=
  ((o = 2 ∨ o = 3 ∨ o = 4) → s.cur.queue = [] ∧ storesDone s sc.toNat = true) ∧
    (o = 4 → sc = 4 ∨ sc = 5 → ScTurn s .scalar 0)

/-- A scalar access to checked runs may be performed now: no earlier clause orders it later (R99), no engine operation, tile store or
outstanding request holds its bytes (R114, R343), and its cluster holds the words strongly enough (R342). -/
def accessFree (s : State) (k : Access) (rs : List Run) : Prop := scalarHeld s rs = false ∧ runsBusy s (writes k) rs = false

/-- The state after the page walk of an access: A and D bits and cached translations (R88, R89). -/
def walked (s : State) (k : Access) (ea : W64) (rs : List Run) : State := touchRuns s (accActor s ea) k ea rs

/-- The address of LD and ST (R166). -/
def offsetAddress (s : State) (a : BitVec 6) (w : BitVec 2) (o : BitVec 11) : W64 :=
  sreg s a + BitVec.ofInt 64 (o.toInt * 2 ^ w.toNat)

/-- The size and the address of an access whose address must be a multiple of its size: LD, ST, AMO, CAS, QLOCK, QUNLOCK, with
the kind of access and the check of its place (R152, R166, R168, R170, R171, R187). -/
def scalarAccess (s : State) : Instr → Option (Nat × W64 × Access × (State → Run → Option XErr))
  | .ld _ a w x o => if w = 3 ∧ x = 1 then none else some (2 ^ w.toNat, offsetAddress s a w o, .load, loadErr)
  | .st _ a w o => some (2 ^ w.toNat, offsetAddress s a w o, .store, storeErr)
  | .cas _ a _ o sc w =>
    if o.toNat ≤ 4 ∧ (o = 0 ∨ sc.toNat ≤ 5) then some (amoSize w, sreg s a, .store, atomErr) else none
  | .qlock _ a => some (8, sreg s a, .store, atomErr)
  | .qunlock a => some (8, sreg s a, .store, atomErr)
  | i =>
    match amoParts i with
    | some p => if p.order.toNat ≤ 4 ∧ (p.order = 0 ∨ p.scope.toNat ≤ 5) then some (p.size, sreg s p.a, .store, atomErr) else none
    | none => none

end Sys2Proof.Claims
end

