-- ==== Sys2Proof/Claims/System.lean ====
section
/-!
DEFINITION. Claims/System.lean: the terms the statements about traps, tags, byte barriers, engine issue and TLB instructions are
made of (R264 to R297, R326 to R331).
-/
namespace Sys2Proof.Claims

open Sys2Proof.Machine

/-! ### Traps (R326 to R331) -/

/-- What an instruction or event that traps by its own effect raises: lane or scalar, IDX, cause, `tval` and `tpc` (R139, R293,
R326, R327). -/
structure TrapWords where
  lane : Bool
  idx : Nat
  cause : Nat
  tval : W64
  tpc : W64

/-- TRAP, a pool guard word, and trap entry as an event of the current group, of a cause a rule delivers to a group (R138, R139, R293,
R327, R333). -/
def ownTrap (s : State) : Instr → Option TrapWords
  | .trap a t => some ⟨false, 0, 0x18, BitVec.ofNat 64 ((sreg s a).toNat * 64 + t.toNat), s.cur.pc + 4⟩
  | .poolGuard n => some ⟨false, 0, 0x04, BitVec.ofNat 64 (0x3F * 2 ^ 26 + n.toNat), s.cur.pc⟩
  | .trapEntry k lane idx cause tval =>
    if k = s.cur.key ∧ idx < 16 ∧ 1 ≤ cause ∧ cause ≤ 0x18 ∧ cause ≠ 0x07 ∧ cause ≠ 0x16 then some ⟨lane, idx, cause, tval, s.cur.pc⟩
    else none
  | _ => none

/-- The number in n bytes of memory, little-endian (R5). -/
def numberAt (s : State) (pa n : Nat) : Nat := leValue ((List.range n).map fun i => memGet s (pa + i))

/-- The trap save area at pa holds the state of s, with the batch counter after the batch closed at entry (R328). -/
structure AreaHolds (s t : State) (pa : Nat) (w : TrapWords) : Prop where
  tcause : numberAt t pa 8 = w.idx * 512 + (if w.lane then 256 else 0) + w.cause
  tpc : numberAt t (pa + 0x008) 8 = w.tpc.toNat
  tval : numberAt t (pa + 0x010) 8 = w.tval.toNat
  flags : ∀ i : Fin 12, numberAt t (pa + 0x018 + i) 1 = vget s.cur.flags i 0 % 256
  amask : numberAt t (pa + 0x024) 4 = s.cur.amask.toNat
  depth : numberAt t (pa + 0x028) 1 = s.cur.mstack.length
  batches : numberAt t (pa + 0x02A) 2 = (s.cur.bctr + 1).toNat
  y : ∀ l : Fin 32, numberAt t (pa + 0x100 + 8 * l) 4 = (spGet s.cur.lanes (264 * 32 + l)).toNat ∧
    numberAt t (pa + 0x104 + 8 * l) 4 = (spGet s.cur.lanes (265 * 32 + l)).toNat
  fmt : numberAt t (pa + 0x200) 8 = s.cur.fmt.toNat
  queued : numberAt t (pa + 0x220) 4 = s.cur.queue.length
  entries : ∀ i (h : i < s.cur.queue.length), numberAt t (pa + 0x240 + 32 * i) 8 = s.cur.queue[i].addr.toNat ∧
    numberAt t (pa + 0x248 + 32 * i) 4 = s.cur.queue[i].mask.toNat ∧
    numberAt t (pa + 0x250 + 32 * i) 8 = s.cur.queue[i].fmt.toNat
  masks : ∀ j (h : j < s.cur.mstack.length), numberAt t (pa + 0x400 + 16 * j) 4 = (s.cur.mstack.reverse[j]'(by simpa using h)).mask.toNat ∧
    numberAt t (pa + 0x404 + 16 * j) 4 = (s.cur.mstack.reverse[j]'(by simpa using h)).taken.toNat ∧
    numberAt t (pa + 0x408 + 16 * j) 8 = (s.cur.mstack.reverse[j]'(by simpa using h)).fmt.toNat
  zeros : ∀ i, (0x2C0 ≤ i ∧ i < 0x400 ∨ 0x600 ≤ i ∧ i < 0x1000) → memGet t (pa + i) = 0

/-- t is s after trap entry, its save area at physical address pa: the trap registers are set, the group is in handler state with a
full `amask`, an empty mask stack, clear flags and an empty lane queue, and its scalar thread is at `tvec`; `fmt`, `fstat`, the
scalar, lane and index registers, predicates and tiles are as they were (R327). -/
structure TrapTaken (s t : State) (rs : List Run) (pa : Nat) (w : TrapWords) : Prop where
  tcause : t.cur.tcause = BitVec.ofNat 64 (w.idx * 512 + (if w.lane then 256 else 0) + w.cause)
  tpc : t.cur.tpc = w.tpc
  tval : t.cur.tval = w.tval
  handler : t.cur.handler = true
  pc : t.cur.pc = s.cur.tvec &&& ~~~3
  amask : t.cur.amask = 0xFFFFFFFF
  mstack : t.cur.mstack = []
  flags : ∀ i : Fin 12, vget t.cur.flags i 0 = 0
  queue : t.cur.queue = []
  batch : t.cur.bctr = s.cur.bctr + 1
  area : AreaHolds s t pa w
  memory : ∀ a, (a < pa ∨ pa + 0x1000 ≤ a) → ¬ leafByte rs a → memGet t a = memGet s a
  kept : t.cur.fmt = s.cur.fmt ∧ t.cur.fstat = s.cur.fstat ∧ t.cur.sregs = s.cur.sregs ∧ t.cur.lanes = s.cur.lanes ∧
    t.cur.ixs = s.cur.ixs ∧ t.cur.preds = s.cur.preds ∧ t.cur.tiles = s.cur.tiles ∧ t.cur.priv = s.cur.priv ∧
    t.cur.tvec = s.cur.tvec ∧ t.cur.tsave = s.cur.tsave ∧ t.cur.asid = s.cur.asid ∧ t.cur.ptbase = s.cur.ptbase
  rest : sameButAccessed s { t with cur := s.cur }

/-- The checked runs of n bytes of the group's save area, or of its batch fields and tiles, from an offset of `tsave` (R295, R328). -/
def areaPages (f : State → Run → Option XErr) (s : State) (k : Access) (off : W64) (n : Nat) : Except (Nat × W64) (List Run) :=
  checkPages f s (accActor s (s.cur.tsave + off)) k (s.cur.tsave + off) n

/-- The save area's page may be written now: it is memory, at a home that is not dead, and nothing holds its words (R80, R114, R343,
R351, R398). -/
def areaFree (s : State) (r : Run) : Prop := plainMemory s r ∧ storeErr s r = none ∧ runsBusy s true [r] = false

/-- Trap entry need not wait: no lane instruction is outstanding and, for a scalar trap, no clause is in execution (R327). -/
def entryReady (s : State) (lane : Bool) : Prop :=
  (∀ o ∈ s.cur.outs, o.matrix = true) ∧ (lane = false → running s.cur = none)

/-! ### Tags (R268, R269) -/

/-- Tag k of the crew is ready with a status. -/
def readyWith (c : Crew) (k : Nat) (st : Byte) : Prop := k < c.tags.length ∧ nth c.tags k .idle = .ready st

/-- Tag k of the crew is pending. -/
def pendingTag (c : Crew) (k : Nat) : Prop := k < c.tags.length ∧ nth c.tags k .idle = .pending

/-- The cause a wait raises for a status (R265). -/
def causeOf (st : Byte) : Option Nat := if st = 0x00 ∨ st = 0x07 then none else if st = 0x06 then some 0x15 else some 0x14

/-- Bit k of v is set exactly for the tags of mask m that are ready. -/
def readyMask (c : Crew) (m v : W64) : Prop := ∀ k, v.getLsbD k = true ↔ m.getLsbD k = true ∧ ∃ st, readyWith c k st

/-- Every tag of the mask lies in the crew's allocation (R269). -/
def tagsAllocated (c : Crew) (m : W64) : Prop := ∀ k, m.getLsbD k = true → k < c.tags.length

/-! ### Byte barriers (R270 to R276) -/

/-- evaluate of R271. -/
def evaluated (b : ByteBar) : ByteBar :=
  if b.posted = true ∧ b.cur > b.expect then { b with overrun := true }
  else if b.posted = true ∧ b.cur = b.expect then
    { b with phase := b.phase + 1, cur := b.next, next := 0, expect := 0, posted := false }
  else b

/-- arrive(n, q, status) of R271; a counter that would pass 2^40 - 1 stays there and sets overrun. -/
def arrived (n : Nat) (q : Bool) (st : Byte) (b : ByteBar) : ByteBar :=
  evaluated { b with
    cur := if q = b.phase.getLsbD 0 then min (b.cur + n) (2 ^ 40 - 1) else b.cur
    next := if q = b.phase.getLsbD 0 then b.next else min (b.next + n) (2 ^ 40 - 1)
    overrun := b.overrun || decide (2 ^ 40 - 1 < (if q = b.phase.getLsbD 0 then b.cur else b.next) + n)
    status := if b.status = 0 ∧ (causeOf st).isSome then st else b.status }

/-- Barrier k of the crew has been initialised within the allocation (R15, R270). -/
def liveBar (c : Crew) (k : Nat) : Prop := k < c.bbs.length ∧ (barAt c k).inited = true

/-- t is s with barrier k of the crew replaced, its scalar thread at the next word, and nothing else changed. -/
def barReplaced (s t : State) (k : Nat) (b : ByteBar) : Prop :=
  t = { s with cur := { s.cur with pc := s.cur.pc + 4 }, crew := { s.crew with bbs := s.crew.bbs.set k b } }

/-! ### Engine operations (R263, R264, R268, R271) -/

/-- Where the completion of an operation goes that names t, and a phase select where it names a barrier (R265, R271). -/
def namedTarget (c : Crew) (bar sel : Bool) (t : BitVec 6) : OpTarget :=
  if bar then .bar t.toNat ((barAt c t.toNat).phase.getLsbD 0 != sel) else .tag t.toNat

/-- An operation as its instruction issues it: its kind with the operands read, and its target (R264, R277, R278, R284, R285,
R290); none where a control value, an address or a length makes the instruction trap. -/
def issued (s : State) : Instr → Option (OpKind × OpTarget)
  | .cpy d a b t =>
    let c := sreg s b
    if c.extractLsb' 33 29 = 0 ∧ (c.extractLsb' 0 33).toNat ≤ 2 ^ 32 ∧ (c.extractLsb' 0 33).toNat ≠ 0 then
      some (.cpy (sreg s a) (sreg s d) (c.extractLsb' 0 33).toNat, namedTarget s.crew (c.getLsbD 63) (c.getLsbD 62) t)
    else none
  | .cpy2d d a b t =>
    let c := sreg s (b ++ 0#1)
    let p := sreg s (b ++ 1#1)
    if b ≠ 0 ∧ c.extractLsb' 40 22 = 0 then
      some (.cpy2d (sreg s a) (sreg s d) ((c.extractLsb' 0 20).toNat + 1) ((c.extractLsb' 20 20).toNat + 1)
        (p.extractLsb' 0 32).toNat (p.extractLsb' 32 32).toNat, namedTarget s.crew (c.getLsbD 63) (c.getLsbD 62) t)
    else none
  | .put d a b t =>
    if 0 < (sreg s b).toNat ∧ (sreg s b).toNat ≤ 2 ^ 32 then
      some (.put (sreg s d) (sreg s a) (sreg s b).toNat, .tag t.toNat) else none
  | .get d a b t =>
    if 0 < (sreg s b).toNat ∧ (sreg s b).toNat ≤ 2 ^ 32 then
      some (.get (sreg s d) (sreg s a) (sreg s b).toNat, .tag t.toNat) else none
  | .npub d a t => if (sreg s d).toNat % 128 = 0 then some (.npub (sreg s d) (sreg s a) false, .tag t.toNat) else none
  | .npubRel d a t => if (sreg s d).toNat % 128 = 0 then some (.npub (sreg s d) (sreg s a) true, .tag t.toNat) else none
  | .nreqTag d a b t =>
    if (sreg s b).toNat < 2 ∧ (sreg s d).toNat % 128 = 0 then
      some (.nreq (sreg s d) ((sreg s b).getLsbD 0) (sreg s a), .tag t.toNat) else none
  | .nreqBb d a b t =>
    if (sreg s b).toNat < 4 ∧ (sreg s d).toNat % 128 = 0 then
      some (.nreq (sreg s d) ((sreg s b).getLsbD 0) (sreg s a), namedTarget s.crew true ((sreg s b).getLsbD 1) t) else none
  | _ => none

/-- The target may be named: a tag of the crew's allocation, or an initialised barrier (R15, R270). -/
def targetNamed (c : Crew) : OpTarget → Prop
  | .tag t => t < c.tags.length
  | .bar t _ => liveBar c t
  | .word => True

/-- The physical ranges an operation takes over when it issues (R114). -/
def destination (s : State) : OpKind → List (Nat × Nat)
  | .cpy src dst n => ownedBy s (groupActor s.cur) [{ src := src, dst := dst, len := n }]
  | .cpy2d src dst rb n sp dp => ownedBy s (groupActor s.cur) (rows2d src dst rb n sp dp)
  | .get dst _ n => ownedBy s (groupActor s.cur) [{ src := 0, dst := dst, len := n }]
  | .nreq dst own pn =>
    match declOf s (pnTensor pn) with
    | none => []
    | some d => if (nreqRefused s pn d).isSome then [] else nreqOwned s dst own (declBytes d.block)
  | _ => []

/-- No PutM of the cluster for a word of the destination is still to be applied (R345). -/
def claimFree (s : State) (kind : OpKind) : Prop := claimBlocked s s.cur.cluster (destination s kind) = false

/-- An issue need not wait: every earlier clause has ended, the group's earlier stores are performed with respect to the engine, the
crew has fewer than 256 operations in flight, and the tag is not pending (R113, R264, R268). -/
def issueReady (s : State) (tg : OpTarget) : Prop :=
  s.cur.queue = [] ∧ storesDone s 4 = true ∧ (s.ops.filter fun o => crewKey o.grp = crewKey s.cur.key).length < 256 ∧
    ∀ k, tg = .tag k → nth s.crew.tags k .idle ≠ .pending

/-- t is s with an operation issued for the current group: the operation is in flight with the operands, the target, the translation
and the privilege of its issue; its tag is pending; no register but pc changes, and no byte of memory but of the page-table entries that the
snapshot of a publication walks (R88, R284). -/
structure Issued (s t : State) (kind : OpKind) (tg : OpTarget) : Prop where
  op : ∃ o ∈ t.ops, s.nextId ≤ o.id ∧ o.id < t.nextId ∧ o.kind = kind ∧ o.target = tg ∧ o.grp = s.cur.key ∧ o.asid = s.cur.asid ∧
    o.ptbase = s.cur.ptbase ∧ o.priv = s.cur.priv ∧ o.issued = s.time
  tag : ∀ k, tg = .tag k → nth t.crew.tags k .idle = .pending
  tags : ∀ k, tg ≠ .tag k → nth t.crew.tags k .idle = nth s.crew.tags k .idle
  group : { t.cur with pubs := s.cur.pubs } = { s.cur with pc := s.cur.pc + 4 }
  crew : { t.crew with tags := s.crew.tags } = s.crew
  memory : ∀ a, (∀ src pn rel n rs, kind = .npub src pn rel → engineRuns s (groupActor s.cur) .load src n = .ok rs → ¬ leafByte rs a) →
    memGet t a = memGet s a

/-- The operations of s and t are the same but for which bytes later owners of their lines have written (R102). -/
def opsKept (s t : State) : Prop := t.ops.map (fun x => { x with lost := [] }) = s.ops.map fun x => { x with lost := [] }

/-- No later owner of the line has written byte a of the operation's destination (R102). -/
def stillOwned (o : EngOp) (a : Nat) : Prop := ∀ l ∈ o.lost, ¬ (l.1 ≤ a ∧ a < l.1 + l.2)

/-- t is s with operation o ended under a status: it is in flight no longer, its tag is ready with the status or its barrier has
arrived with the operation's count (R265, R268, R271); a command that waited for it waits for it no longer (R376); no byte of memory, no group and nothing else changes. -/
structure OpEnded (s t : State) (o : EngOp) (st : Byte) : Prop where
  gone : t.ops = (s.ops.filter fun x => decide (x.id ≠ o.id)).map fun x =>
    if o.id ∈ x.after then { x with after := x.after.filter fun y => decide (y ≠ o.id), mark := s.hist.length } else x
  target : ∀ c, findCrew s o.grp = some c → findCrew t o.grp = some (match o.target with
    | .tag n => { c with tags := c.tags.set n (.ready st) }
    | .bar n q => { c with bbs := c.bbs.set n (arrived o.count q st (barAt c n)) }
    | .word => c)
  rest : { t with ops := s.ops, crew := s.crew, crews := s.crews } = s

/-- t is s with an operation replaced by o, which has its identity; nothing else changes. -/
def OpReplaced (s t : State) (o : EngOp) : Prop :=
  findOp t o.id = some o ∧ (∀ i, i ≠ o.id → findOp t i = findOp s i) ∧ { t with ops := s.ops } = s

/-- The physical address of byte k of checked runs. -/
def runByte : List Run → Nat → Option Nat
  | [], _ => none
  | r :: rs, k => if k < r.len then some (r.pa + k) else runByte rs (k - r.len)

end Sys2Proof.Claims
end

