-- ==== Sys2Proof/Claims/Lane.lean ====
section
/-!
DEFINITION. Claims/Lane.lean: the terms the statements about lane instructions of formats LA and LI are made of: when one issues,
what it leaves alone, and the results of the rules over exact integers and rationals (R19 to R34, R192 to R229).
-/
namespace Sys2Proof.Claims

open Sys2Proof.Machine

/-! ### When a lane instruction issues (R19, R22, R31, R33, R38, R196) -/

/-- XADDE and XMULE trap where PXT is 1 and an acting lane's exact result does not fit (R71, R221). -/
def exhausts (s : State) (v : LaneEnv) : Instr → Bool
  | .xadde x => fmtPxt v.e.fmt && (actLanes v).any fun l => !exactFits (fmtOf v.e.fmt x.ty) (exactOf false (srcsLa x) v s l).1
  | .xmule x => fmtPxt v.e.fmt && (actLanes v).any fun l => !exactFits (fmtOf v.e.fmt x.ty) (exactOf true (srcsLa x) v s l).1
  | _ => false

/-- The lane instruction i of the running clause may issue in state s: it is legal at the clause's `fmt`, every operand is in range in
every acting lane, no destination has a pending write, and filling the absent granules it names gives s1. -/
structure LaneReady (s : State) (i : Instr) (p : LaneParts) (v : LaneEnv) (s1 : State) : Prop where
  clause : running s.cur = some v.e
  legal : legalAt v.e.fmt i = true
  parts : laneParts v.e.fmt i = some p
  env : v = laneEnv s.cur v.e p.pr
  range : badPosition s.cur (actLanes v) p.ps = none
  free : ∀ k ∈ destKeys s.cur (actLanes v) p.ps, isPending s.cur k = false
  fill : ∃ s0, fillGranules s (firstGranules i p s.cur v) = .ok s0 ∧ fillGranules s0 (secondGranules i p s0 v) = .ok s1
  exact : exhausts s1 v i = false

/-! ### What it leaves alone -/

/-- The clause has moved on by one instruction: its position rises, or, after the last one, its entry leaves the queue and each flag it
sets is released once (R19, R20). -/
structure ClauseMoved (g h : Group) (e : QEntry) : Prop where
  inside : e.pos + 1 < e.count → h.queue = { e with pos := e.pos + 1 } :: g.queue.tail ∧ h.flags = g.flags
  last : e.count ≤ e.pos + 1 → h.queue = g.queue.tail ∧
    ∀ k : Fin 12, vget h.flags k 0 = vget g.flags k 0 - (if k.val ∈ setFlags e then 1 else 0)

/-- The state t is s after a lane instruction with parts p issued in environment v: of the lane registers only its destinations in the
acting lanes and, with the y-write bit, their y0 and y1 may differ; of the predicates only its predicate destination in the acting
lanes; of the index registers only those of acting lanes, for IXSET; random words only of acting lanes; the bits of `fstat` are sticky;
the clause moves on. No byte of memory and no other part of the machine changes. -/
structure LaneFrame (i : Instr) (p : LaneParts) (v : LaneEnv) (s t : State) : Prop where
  lanes : ∀ key, key ∉ destKeys s.cur (actLanes v) p.ps →
    (p.yw = false ∨ key < 264 * 32 ∨ 266 * 32 ≤ key ∨ key % 32 ∉ actLanes v) → laneGet t.cur key = laneGet s.cur key
  preds : ∀ k l, (∀ n m, p.d = .p n m → m.toNat ≠ k ∨ l ∉ actLanes v) → predGet t.cur k l = predGet s.cur k l
  ixs : ∀ l k, k < 4 → ((∀ x, i ≠ .ixset x) ∨ l ∉ actLanes v) → ixGet t.cur l k = ixGet s.cur l k
  random : ∀ l, l ∉ actLanes v → lfsrGet t.cur l = lfsrGet s.cur l
  sticky : s.cur.fstat &&& t.cur.fstat = s.cur.fstat
  clause : ClauseMoved s.cur t.cur v.e
  memory : ∀ a, memGet t a = memGet s a
  rest : { t with cur := { t.cur with lanes := s.cur.lanes, preds := s.cur.preds, ixs := s.cur.ixs, lfsr := s.cur.lfsr, fstat := s.cur.fstat,
                                      queue := s.cur.queue, flags := s.cur.flags } } = s

/-- Acting lane l of t holds the n slots of a value at destination d, a register (R193). -/
def holds (s t : State) (d : Opnd) (n l val : Nat) (yw : Bool) : Prop :=
  (∀ j key, (opndKeys s.cur d n l)[j]? = some key → (yw = false ∨ key < 264 * 32) → laneGet t.cur key = BitVec.ofNat 32 (val / 2 ^ (32 * j))) ∧
  (yw = true → n = 1 → laneGet t.cur (264 * 32 + l) = BitVec.ofNat 32 val ∧
    ((∀ k, d ≠ .y k) → laneGet t.cur (265 * 32 + l) = laneGet s.cur (264 * 32 + l)))

/-- Acting lane l of t holds a test's outcome at destination d: the predicate, or a register all ones in w bits or 0 (R205). -/
def holdsTest (s t : State) (d : Opnd) (n w l : Nat) (b yw : Bool) : Prop :=
  match d with
  | .p _ k => predGet t.cur k.toNat l = (b || decide (k = 0))
  | d => holds s t d n l (if b then 2 ^ w - 1 else 0) yw

/-! ### Integer results (R193, R198 to R202) -/

/-- A w-bit number as an integer of its type (R44). -/
def asInt (t : Ty) (x : Nat) : Int := if tySigned t then (BitVec.ofNat (tyWidth t) x).toInt else x

/-- The word an exact integer gives a destination of a type: wrapped modulo 2^w, a narrow signed result sign-extended to 32 bits
(R193, R198). -/
def intWord (t : Ty) (r : Int) : Nat :=
  if tyWidth t < 32 ∧ tySigned t then ((BitVec.ofInt (tyWidth t) r).signExtend 32).toNat else (BitVec.ofInt (tyWidth t) r).toNat

/-- The exact result clamped to the type where mod bit 0 asks for it (R198). -/
def clamped (t : Ty) (sat : Bool) (r : Int) : Int :=
  if sat = false then r
  else if tySigned t then (if r < -2 ^ (tyWidth t - 1) then -2 ^ (tyWidth t - 1) else if 2 ^ (tyWidth t - 1) - 1 < r then 2 ^ (tyWidth t - 1) - 1 else r)
  else (if r < 0 then 0 else if 2 ^ tyWidth t - 1 < r then 2 ^ tyWidth t - 1 else r)

/-- The exact integer operation of IADD, ISUB, IMUL, IMULH, IMAD, IMIN and IMAX in both forms, with its operands (R198). -/
def intOp : Instr → Option (Srcs × (Ty → Int → Int → Int → Int))
  | .iadd x => some (srcsLa x, fun _ a b _ => a + b)
  | .iaddLi x => some (srcsLi x, fun _ a b _ => a + b)
  | .isub x => some (srcsLa x, fun _ a b _ => a - b)
  | .isubLi x => some (srcsLi x, fun _ a b _ => a - b)
  | .imul x => some (srcsLa x, fun _ a b _ => a * b)
  | .imulLi x => some (srcsLi x, fun _ a b _ => a * b)
  | .imulh x => some (srcsLa x, fun t a b _ => a * b / 2 ^ tyWidth t)
  | .imulhLi x => some (srcsLi x, fun t a b _ => a * b / 2 ^ tyWidth t)
  | .imad x => some (srcsLa x, fun _ a b c => a * b + c)
  | .imadLi x => some (srcsLi x, fun _ a b c => a * b + c)
  | .imin x => some (srcsLa x, fun _ a b _ => if a < b then a else b)
  | .iminLi x => some (srcsLi x, fun _ a b _ => if a < b then a else b)
  | .imax x => some (srcsLa x, fun _ a b _ => if b < a then a else b)
  | .imaxLi x => some (srcsLi x, fun _ a b _ => if b < a then a else b)
  | _ => none

/-- Byte k of a word as a signed or unsigned integer (R199). -/
def byteOf (x k : Nat) (signed : Bool) : Int :=
  if signed then (BitVec.ofNat 8 (x / 2 ^ (8 * k))).toInt else (BitVec.ofNat 8 (x / 2 ^ (8 * k))).toNat

/-- The number whose bit j is f j, for j below w. -/
def fromBits (w : Nat) (f : Nat → Bool) : Nat := ((List.range w).map fun j => if f j then 2 ^ j else 0).sum

/-- The word IDOT4, BFN3, SHF, BFX, BFI and BITC give in a lane, in both forms (R199, R200, R201). `third` is the byte BFN3 takes its table
from. -/
def bitWord (s : State) (v : LaneEnv) (x : Srcs) (l : Nat) : Instr → Option Nat
  | .idot4 _ | .idot4Li _ =>
    let a := readTy s v x.a x.ty l
    let b := readB s v x x.ty l
    let sum := asInt x.ty (readTy s v x.c x.ty l)
      + ((List.range 4).map fun k => byteOf a k (x.md.getLsbD 0) * byteOf b k (x.md.getLsbD 1)).sum
    some (intWord x.ty (clamped x.ty (x.md.getLsbD 2) sum))
  | .bfn3 f =>
    let a := readTy s v x.a x.ty l
    let b := readB s v x x.ty l
    let c := readTy s v x.c x.ty l
    some (intWord x.ty (fromBits (tyWidth x.ty) fun j =>
      (extByte f.ext).toNat.testBit ((a.testBit j).toNat + 2 * (b.testBit j).toNat + 4 * (c.testBit j).toNat)))
  | .bfn3Li f =>
    let a := readTy s v x.a x.ty l
    let b := readB s v x x.ty l
    let c := readTy s v x.c x.ty l
    some (intWord x.ty (fromBits (tyWidth x.ty) fun j =>
      (f.md.extractLsb' 0 8).toNat.testBit ((a.testBit j).toNat + 2 * (b.testBit j).toNat + 4 * (c.testBit j).toNat)))
  | .shf _ | .shfLi _ =>
    let w := tyWidth x.ty
    let a := readTy s v x.a x.ty l
    let n := readB s v x x.ty l % w
    let c := readTy s v x.c x.ty l
    some (intWord x.ty (match (x.md.extractLsb' 0 2).toNat with
      | 0 => (a * 2 ^ n : Nat)
      | 1 => (a / 2 ^ n : Nat)
      | 2 => (BitVec.ofNat w a).toInt / 2 ^ n
      | _ => ((c * 2 ^ w + a) / 2 ^ n : Nat)))
  | .laneBfx _ | .laneBfxLi _ =>
    let w := tyWidth x.ty
    let pos := readB32 s v x l % 256
    let len := min (readB32 s v x l / 256 % 256) w
    let field := readTy s v x.a x.ty l / 2 ^ pos % 2 ^ len
    some (intWord x.ty (if x.md.getLsbD 0 then (BitVec.ofNat len field).toInt else field))
  | .laneBfi _ | .laneBfiLi _ =>
    let w := tyWidth x.ty
    let pos := readB32 s v x l % 256
    let len := min (readB32 s v x l / 256 % 256) w
    let a := readTy s v x.a x.ty l
    let c := readTy s v x.c x.ty l
    some (intWord x.ty (fromBits w fun j => if pos ≤ j ∧ j < pos + len then a.testBit (j - pos) else c.testBit j))
  | .bitc _ =>
    let w := tyWidth x.ty
    let a := readTy s v x.a x.ty l
    some (intWord x.ty (match (x.md.extractLsb' 0 2).toNat with
      | 0 => ((List.range w).countP fun j => a.testBit j : Nat)
      | 1 => (if a = 0 then w else w - 1 - a.log2 : Nat)
      | 2 => (((List.range w).find? fun j => a.testBit j).getD w : Nat)
      | _ => (fromBits w fun j => a.testBit (w - 1 - j) : Nat)))
  | _ => none

/-- The operands of an LA or LI instruction in one view. -/
def laneSrcs : Instr → Option Srcs
  | .idot4 x | .bfn3 x | .shf x | .laneBfx x | .laneBfi x | .bitc x => some (srcsLa x)
  | .idot4Li x | .bfn3Li x | .shfLi x | .laneBfxLi x | .laneBfiLi x => some (srcsLi x)
  | _ => none

/-! ### Floating point (R57, R63, R203, R220) -/

/-- The rational number a finite value is. -/
def rational : Machine.Num → Option ℚ
  | .fin neg m e => some ((if neg then -1 else 1) * (m : ℚ) * (2 : ℚ) ^ e)
  | _ => none

/-- FADD, FMUL and FFMA in both forms: their operands, whether there is a third source, and the exact result over the rationals
(R203). -/
def floatOp : Instr → Option (Srcs × Bool × (ℚ → ℚ → ℚ → ℚ))
  | .fadd x => some (srcsLa x, false, fun a b _ => a + b)
  | .faddLi x => some (srcsLi x, false, fun a b _ => a + b)
  | .fmul x => some (srcsLa x, false, fun a b _ => a * b)
  | .fmulLi x => some (srcsLi x, false, fun a b _ => a * b)
  | .ffma x => some (srcsLa x, true, fun a b c => a * b + c)
  | .ffmaLi x => some (srcsLi x, true, fun a b c => a * b + c)
  | _ => none

/-- XADD, XMUL and XFMA: as FADD, FMUL and FFMA on variable-precision values (R220). -/
def vpfOp : Instr → Option (LaForm × Bool × (ℚ → ℚ → ℚ → ℚ))
  | .xadd x => some (x, false, fun a b _ => a + b)
  | .xmul x => some (x, false, fun a b _ => a * b)
  | .xfma x => some (x, true, fun a b c => a * b + c)
  | _ => none

/-- The per-lane results of the instructions whose rules are the model's own functions over exact values: comparison, minimum and maximum,
classification, the elementary functions, scaling, conversion, packing, and the exact and error forms (R71, R204 to R212, R220 to
R225). -/
def laneFn : Instr → Option (Bool × (LaneEnv → State → Nat → LaneRes))
  | .fmin x => some (x.yw, minmaxLane false (srcsLa x))
  | .fminLi x => some (false, minmaxLane false (srcsLi x))
  | .fmax x => some (x.yw, minmaxLane true (srcsLa x))
  | .fmaxLi x => some (false, minmaxLane true (srcsLi x))
  | .fcmp x | .xcmp x => some (x.yw, fcmpLane (srcsLa x))
  | .fcmpLi x => some (false, fcmpLane (srcsLi x))
  | .fclass x => some (x.yw, fclassLane (srcsLa x))
  | .fmath x => some (x.yw, fmathLane (srcsLa x))
  | .fmathDivLi x => some (false, fmathLane (srcsLi x))
  | .fsca x => some (x.yw, fscaLane (srcsLa x))
  | .fscaLi x => some (false, fscaLane (srcsLi x))
  | .cvt x | .xcvt x => some (x.yw, cvtLane (srcsLa x))
  | .pack x => some (x.yw, packLane (srcsLa x))
  | .unpack x => some (x.yw, unpackLane (srcsLa x))
  | .scalex x => some (x.yw, scalexLane (srcsLa x))
  | .xadde x => some (x.yw, exactLane false (srcsLa x))
  | .xmule x => some (x.yw, exactLane true (srcsLa x))
  | .xrnd x => some (x.yw, xrndLane (srcsLa x))
  | .xerr x => some (x.yw, xerrLane (srcsLa x))
  | _ => none

/-! ### Moves, predicates, cross-lane values (R213 to R218, R226 to R229) -/

/-- The slots MOV, MOVI, SEL and SPEC give in a lane: the number of slots and their value (R226, R227, R228). -/
def moveValue (s : State) (v : LaneEnv) (l : Nat) : Instr → Option (Nat × Nat)
  | .mov x => some (slotsOf v.e.fmt x.ty, movSlots s v x.a x.ty l)
  | .movi x => some (slotsOf v.e.fmt x.ty, if x.ty = .i64 then (x.imm.signExtend 64).toNat
      else extTyBits x.ty x.imm.toNat)
  | .laneSel x => some (slotsOf v.e.fmt x.ty,
      selSlots s v (if readPred s x.c l then x.a else x.b) x.ty l)
  | .spec x => some (1, match (x.md.extractLsb' 0 4).toNat with
      | 0 => l
      | 1 => l / 4
      | 2 => if (helperLanes v.e).getLsbD l then 1 else 0
      | 3 => 0
      | 4 => v.e.mask.toNat
      | 5 => (lfsrGet s.cur l).toNat
      | 6 => (((ixGet s.cur l (extByte x.ext).toNat).extractLsb' 0 16).signExtend 32).toNat
      | 7 => ((ixGet s.cur l (extByte x.ext).toNat).extractLsb' 16 8).toNat
      | 8 => ((ixGet s.cur l (extByte x.ext).toNat).extractLsb' 24 8).toNat
      | _ => s.time % 2 ^ 32)
  | _ => none

end Sys2Proof.Claims
end

