-- ==== Sys2Proof/Claims/LaneMemory.lean ====
section
/-!
DEFINITION. Claims/LaneMemory.lean: the terms the statements about lane memory, full/empty and matrix instructions are made of (R20,
R28, R230 to R262).
-/
namespace Sys2Proof.Claims

open Sys2Proof.Machine

/-! ### Issue as a long-latency operation (R20, R22) -/

/-- The long-latency operation an instruction of the running clause becomes: it attaches to the flag R20 names. -/
def longOp (s : State) (v : LaneEnv) (returning : Bool) (tiles : List Nat) (writes : List (Nat × W32)) (act : OutAct) : OutOp :=
  { seq := s.cur.nextSeq, matrix := false, flag := attachFlag v.e returning, tiles, writes, act, band := none }

/-- t is s with the long-latency operation o issued: it is outstanding, its flag counts it, and the clause has moved on. -/
structure LongIssued (v : LaneEnv) (o : OutOp) (s t : State) : Prop where
  outs : t.cur.outs = s.cur.outs ++ [o]
  seq : t.cur.nextSeq = s.cur.nextSeq + 1
  clause : ClauseMoved (match o.flag with | some i => flagAdd s.cur i 1 | none => s.cur) t.cur v.e
  rest : { t with cur := { t.cur with outs := s.cur.outs, nextSeq := s.cur.nextSeq, queue := s.cur.queue, flags := s.cur.flags } } = s

/-! ### Lane memory instructions (R230 to R233) -/

/-- The lane memory instruction i is that of the running clause: it is legal, and its operands are in range and free of pending writes. -/
structure MemFrame (s : State) (i : Instr) (m : MemParts) (v : LaneEnv) : Prop where
  clause : running s.cur = some v.e
  legal : legalAt v.e.fmt i = true
  parts : memParts v.e.fmt i = some m
  env : v = if m.helps then laneEnv s.cur v.e m.x.pr else { laneEnv s.cur v.e m.x.pr with helpers := 0 }
  range : badPosition s.cur (actLanes (laneEnv s.cur v.e m.x.pr)) (lmPos m.x m.use) = none
  free : ∀ k ∈ destKeys s.cur (actLanes v) (lmPos m.x m.use), isPending s.cur k = false

/-- The alignment R231 and R241 ask of each lane's address: the element for LD, ST and the atomics, four bytes for full/empty accesses. -/
def laneAlign : Instr → Nat
  | .laneLd x | .laneSt x => elemBytes x.ty
  | .atom x | .atomc x => atomSize x.ty
  | .ldfe _ | .stfe _ | .fesetFull _ | .fesetEmpty _ | .ldWf _ | .stFill _ | .stEmpty _ => 4
  | _ => 1

/-- The state once the granules that the active lanes' address operands name are there; none where one cannot be filled. -/
def addressesKnown (s : State) (m : MemParts) (v : LaneEnv) : Option State :=
  (fillGranules s (neededGranules s.cur (lanesOf v.active) [(1, .src 1 none, m.x.addr)])).toOption

/-- The lane memory instruction i of the running clause may issue in s: its active lanes' addresses are aligned, filling its granules gives
s1, and fewer than 64 long-latency operations are outstanding (R21). -/
structure MemReady (s : State) (i : Instr) (m : MemParts) (v : LaneEnv) (s1 : State) : Prop extends MemFrame s i m v where
  aligned : ∀ u, addressesKnown s m v = some u → ∀ l ∈ lanesOf v.active, (lmEa m.x v u l).toNat % laneAlign i = 0
  fill : fillGranules s (neededGranules s.cur (actLanes v) (lmPos m.x m.use)) = .ok s1
  room : (longOuts s1.cur).length < 64

/-- A release or SC order code finds the group's earlier stores performed at the scope (R105). -/
def releaseDone (x : LmForm) (s : State) : Prop := (x.order = 2 ∨ x.order = 3 ∨ x.order = 4) → storesDone s x.scope.toNat = true

/-- The order code of an access lets it be performed: as a release, and SC at device or system scope in its turn in the SC order (R105, R109). -/
def orderReady (x : LmForm) (s : State) : Prop :=
  releaseDone x s ∧ (x.order = 4 → x.scope = 4 ∨ x.scope = 5 → ScTurn s .lane 0)

/-- The lane memory instructions that need their words for writing: stores and atomics (R171, R247, R343). -/
def laneWrites : Instr → Bool
  | .laneLd _ | .ldv _ | .ldfe _ | .ldWf _ | .accld _ => false
  | _ => true

/-- The physical byte k of an access to checked runs. -/
def byteAddress : List Run → Nat → Option Nat
  | [], _ => none
  | r :: rs, k => if k < r.len then some (r.pa + k) else byteAddress rs (k - r.len)

/-- The runs of a check that succeeded. -/
def runsOf : Except Nat (List Run) → List Run
  | .ok rs => rs
  | .error _ => []

/-- The active lanes' accesses succeed, wait for nothing and lie in memory proper; `write` says whether they need their words for writing,
`run` gives the runs of every lane that takes part. -/
structure LanesReach (s : State) (x : LmForm) (v : LaneEnv) (active : List Nat) (chk : W64 → Except Nat (List Run)) (write : Bool)
    (run : Nat → List Run) : Prop where
  good : ∀ l ∈ active, chk (lmEa x v s l) = .ok (run l)
  free : ∀ l ∈ active, runsBusy s write (run l) = false
  plain : ∀ l ∈ active, ∀ r ∈ run l, plainMemory s r
  all : ∀ l ∈ actLanes v, run l = runsOf (chk (lmEa x v s l))

/-- What the accesses of lanes may change outside the group's lane registers: what any access may, of the group's SC operations the one
that has been performed, and, for LDV, random words and sticky bits. -/
def touchedRest (s t : State) : Prop :=
  sameButAccessed s { t with cur := { t.cur with lfsr := s.cur.lfsr, fstat := s.cur.fstat, scOpen := s.cur.scOpen } } ∧
    (t.cur.scOpen = s.cur.scOpen ∨ t.cur.scOpen = s.cur.scOpen.filter fun e => e.use ≠ .lane)

/-- What the issue of a tile store may change outside the group's queue: page-table entries, and, with SC at device or system scope, the
group's SC operations, where the messages of its own stand for it until it is performed (R109, R261, log 96). -/
def storeIssued (x : LmForm) (s t : State) : Prop :=
  sameButAccessed s { t with cur := s.cur } ∧ t.cur = { s.cur with scOpen := t.cur.scOpen } ∧
    if x.order = 4 ∧ (x.scope = 4 ∨ x.scope = 5) then
      ∃ e, e.use = .tile s.cur.nextSeq ∧ t.cur.scOpen = (s.cur.scOpen.filter fun e => e.use ≠ .lane) ++ [e] ∧
        e.slots = (match scFind s.cur .lane with | some a => a.slots | none => [])
    else t.cur.scOpen = s.cur.scOpen

/-- The group is as before, but for its SC operations. -/
def groupKept (s t : State) : Prop := t.cur = { s.cur with scOpen := t.cur.scOpen }

/-- A list of register writes names no register twice, and none but those of an operand of n slots in some lanes. -/
def writesOnly {α : Type} (ws : List (Nat × α)) (g : Group) (o : Opnd) (n : Nat) (lanes : List Nat) : Prop :=
  (ws.map (·.1)).Nodup ∧ ∀ p ∈ ws, ∃ l ∈ lanes, p.1 ∈ opndKeys g o n l

/-- A prefetch touches a line: one of its lanes' accesses would succeed and has a byte in it, in memory whose policy a cluster cache
keeps (R87, R239). -/
def touchesLine (s : State) (x : LmForm) (v : LaneEnv) (line : Nat) : Prop :=
  ∃ l ∈ lanesOf v.active, ∃ rs, checkedRuns loadErr s 0 .load (lmEa x v s l) (lmBytes x) = .ok rs ∧
    ∃ r ∈ rs, cacheable r.pa = true ∧ r.pol ≤ 1 ∧ 0 < r.len ∧ r.pa / 128 ≤ line ∧ line ≤ (r.pa + r.len - 1) / 128

/-- Byte k of lane l's store is the last one stored to its address: no later byte of the lane, and no higher lane, stores there (R100). -/
def lastStored (lanes : List Nat) (run : Nat → List Run) (l k a : Nat) : Prop :=
  byteAddress (run l) k = some a ∧ (∀ j, k < j → byteAddress (run l) j ≠ some a) ∧
    ∀ m ∈ lanes, l < m → ∀ j, byteAddress (run m) j ≠ some a

/-- The bytes a lane stores: ST's elements, or STV's element of variable precision (R234, R238). -/
def laneBytes (i : Instr) (v : LaneEnv) (s : State) (l : Nat) : List Byte :=
  match i with
  | .laneSt x => storeBytes x v s l
  | .stv x => vpfBytes (vpfPrec v.e.fmt x.ty) (readCode s v x.data x.ty l)
  | _ => []

/-- The check of each lane's access. -/
def laneChk (f : W64) (s : State) : Instr → W64 → Except Nat (List Run)
  | .laneLd x => laneCheck loadErr .load s x.space.toNat (elemBytes x.ty) (lmBytes x)
  | .ldv x => ldvCheck s x.space.toNat
  | .laneSt x => laneCheck storeErr .store s x.space.toNat (elemBytes x.ty) (lmBytes x)
  | .stv x => laneCheck storeErr .store s x.space.toNat 1 ((vpfPrec f x.ty + 30) / 8)
  | .atom x => laneCheck atomErr .store s x.space.toNat (atomSize x.ty) (atomSize x.ty)
  | .atomc x => laneCheck atomErr .store s x.space.toNat (atomSize x.ty) (atomSize x.ty)
  | .ldfe x => laneCheck loadErr .load s x.space.toNat 4 4
  | .ldWf x => laneCheck loadErr .load s x.space.toNat 4 4
  | .stfe x => laneCheck storeErr .store s x.space.toNat 4 4
  | .fesetFull x => laneCheck storeErr .store s x.space.toNat 4 4
  | .fesetEmpty x => laneCheck storeErr .store s x.space.toNat 4 4
  | .stFill x => laneCheck storeErr .store s x.space.toNat 4 4
  | .stEmpty x => laneCheck storeErr .store s x.space.toNat 4 4
  | .accld x => laneCheck loadErr .load s x.space.toNat 4 512
  | .accst x => laneCheck storeErr .store s x.space.toNat 4 512
  | _ => fun _ => .error 0

/-- Whether an atomic compares, and what it makes of the old word and its data, at the clause's recorded `fmt` (R245). -/
def atomOp (f : W64) : Instr → Option (Bool × (Nat → Nat → Option Nat))
  | .atom x => some (false, atomNew f x.fe x.ty)
  | .atomc x => some (true, atomcNew x.fe x.ty)
  | _ => none

/-! ### Full/empty (R241 to R244) -/

/-- LDFE, STFE and LD.wf: whether it loads, and whether the word stays full (R242, R243). -/
def feWaits : Instr → Option (Bool × Bool)
  | .ldfe _ => some (true, false)
  | .stfe _ => some (false, false)
  | .ldWf _ => some (true, true)
  | _ => none

/-- FESET, ST.fill and ST.empty: the state the word is left in, and whether data is stored (R242, R243). -/
def feSets : Instr → Option (Bool × Bool)
  | .fesetFull _ => some (true, false)
  | .fesetEmpty _ => some (false, false)
  | .stFill _ => some (true, true)
  | .stEmpty _ => some (false, true)
  | _ => none

/-- A store, LDFE's apart, is a release at band scope, or SC at its own scope (R112, R243). -/
def feOrder (x : LmForm) (s : State) : Prop := storesDone s (if x.order = 4 then x.scope.toNat else 3) = true

/-- A full/empty operation that waits takes its place in the SC order lane by lane: every lane's turn has come, and none of its words has
sent a message (R109, log 96). -/
def feTurn (x : LmForm) (s : State) : Prop :=
  x.order = 4 → x.scope = 4 ∨ x.scope = 5 → scFind s.cur .lane = none ∧ ∀ l < 32, ScTurn s .lane l

/-! ### Matrix instructions (R28, R248 to R262) -/

/-- The matrix instruction i of the running clause may issue: p0 and the full mask (R28), not in a handler before MSAVE (R295), tiles
of the group (R252), operands in range and free, the addresses of a tile load or store aligned (R261). -/
structure MatReady (s : State) (i : Instr) (m : MatParts) (v : LaneEnv) (s1 : State) : Prop where
  clause : running s.cur = some v.e
  legal : legalAt v.e.fmt i = true
  parts : matParts i = some m
  pred : m.pr.neg = false ∧ m.pr.num = 0
  full : v.e.mask = 0xFFFFFFFF
  handler : s.cur.handler = true → s.cur.msaved = true
  tiles : m.tile + m.tiles ≤ s.cur.tiles.length
  env : v = { laneEnv s.cur v.e m.pr with helpers := 0 }
  range : badPosition s.cur (actLanes (laneEnv s.cur v.e m.pr)) m.ps = none
  free : ∀ k ∈ destKeys s.cur (actLanes v) m.ps, isPending s.cur k = false
  aligned : ∀ x, i = .accld x ∨ i = .accst x → ∀ u,
    fillGranules s (neededGranules s.cur (lanesOf v.active) [(1, .src 1 none, x.addr)]) = .ok u →
    ∀ l ∈ lanesOf v.active, (lmEa x v u l).toNat % 4 = 0
  fill : fillGranules s (neededGranules s.cur (actLanes v) m.ps) = .ok s1

/-- t is s with the matrix operation o issued into the group's open batch, and the clause moved on (R254, R257). -/
structure MatrixIssued (v : LaneEnv) (o : OutOp) (s t : State) : Prop where
  outs : t.cur.outs = s.cur.outs ++ [o]
  kind : o.matrix = true ∧ o.flag = none ∧ o.seq = s.cur.nextSeq ∧ o.writes = []
  opened : t.cur.openOps = s.cur.openOps ++ [s.cur.nextSeq] ∧ t.cur.nextSeq = s.cur.nextSeq + 1
  band : t.cur.bandOps = s.cur.bandOps + (if o.band.isSome then 1 else 0) ∧ (∀ j, o.band = some j → j = s.cur.bandOps)
  clause : ClauseMoved s.cur t.cur v.e
  rest : { t with cur := { t.cur with outs := s.cur.outs, nextSeq := s.cur.nextSeq, queue := s.cur.queue, flags := s.cur.flags,
                                      openOps := s.cur.openOps, bandOps := s.cur.bandOps } } = s

/-- Row r of a tile is 128 words; the element of row r and column c has number 128 r + c (R261, R262). -/
def tileWord (s : State) (g : Group) (t i : Nat) : W32 := tileElem (tileAt s (physTile g t)) i

/-- The operation q of the group in focus, its tiles free of earlier operations (R259). -/
def mayComplete (g : Group) (q : Nat) (o : OutOp) (matrix : Bool) : Prop :=
  g.outs.find? (fun o => decide (o.seq = q) && (o.matrix == matrix)) = some o ∧
    ∀ p ∈ g.outs, p.seq < o.seq → ∀ t ∈ p.tiles, t ∉ o.tiles

/-- A pending tile store has its turn in the SC order, where it is one of the group's SC operations (R109, log 96). -/
def tileTurn (s : State) (o : OutOp) : Prop := (∃ e ∈ s.cur.scOpen, e.use = .tile o.seq) → ScTurn s (.tile o.seq) 31

/-- The group after operation o has left it: no outstanding operation has its number, its flag counts it no more, its batch may have
completed, a tile store is no SC operation of the group any more; every other part of the group is as in g. -/
structure Retired (o : OutOp) (g h : Group) : Prop where
  outs : h.outs = g.outs.filter fun p => decide (p.seq ≠ o.seq)
  flags : ∀ k : Fin 12, vget h.flags k 0 = vget g.flags k 0 - (if o.flag = some k.val then 1 else 0)
  order : h.scOpen = match o.act with
    | .accst _ _ => g.scOpen.filter fun e => e.use ≠ .tile o.seq
    | _ => g.scOpen
  rest : { h with outs := g.outs, flags := g.flags, batches := g.batches, mbdone := g.mbdone, merr := g.merr, errOps := g.errOps,
                  lanes := g.lanes, scOpen := g.scOpen } = g

/-! ### Accumulation (R68, R248) -/

/-- The k-group of two element types (R248). -/
def groupSize (t : Ty) : Nat :=
  match t with
  | .bf16 | .f16 => 16
  | .e2m1 => 64
  | _ => 32

/-- `code` is the accumulator x with one k-group's sum y added: the exact sum rounded once, to nearest even, to FP32, a subnormal result a zero of its sign where
`fmt.FOA` is set; NaN of a NaN or of infinities of two signs, else an infinity of either (R68). -/
def accumulated (f : W64) (x y : Machine.Num) (code : Nat) : Prop :=
  (∀ a b, rational x = some a → rational y = some b → a + b = 0 → rational (decodeNum fmtF32 code) = some 0) ∧
  (∀ a b, rational x = some a → rational y = some b → a + b ≠ 0 →
    ∃ n c, rational n = some (a + b) ∧ c = (roundTo 0 fmtF32 .rne 0 n).1 ∧
      code = if fmtFoa f = true ∧ isSubnormal fmtF32 c = true then withSign fmtF32 (decide (a + b < 0)) 0 else c) ∧
  (x = .nan ∨ y = .nan ∨ (∃ neg, x = .inf neg ∧ y = .inf (!neg)) → code = nanCode fmtF32) ∧
  ∀ neg, (x = .inf neg ∧ y ≠ .nan ∧ y ≠ .inf (!neg)) ∨ (y = .inf neg ∧ x ≠ .nan ∧ x ≠ .inf (!neg)) →
    code = withSign fmtF32 neg (infCode fmtF32)

end Sys2Proof.Claims
end

