-- ==== Sys2Proof/Claims/LaneValues.lean ====
section
/-!
DEFINITION. Claims/LaneValues.lean: the values of the float, conversion, variable-precision and reduction instructions, over exact rational
numbers (R57, R64 to R66, R70, R71, R204 to R212, R216, R217, R221 to R225).
-/
namespace Sys2Proof.Claims

open Sys2Proof.Machine

/-! ### Order (R204, R205) -/

/-- The rational number of a sign, a significand and an exponent. -/
def exactly (neg : Bool) (m : Nat) (e : Int) : ℚ := (if neg then -1 else 1) * (m : ℚ) * (2 : ℚ) ^ e

/-- x is below y on the extended line; NaN is below nothing, and nothing is below it. -/
def below (x y : Machine.Num) : Bool :=
  match x, y with
  | .inf n, .inf k => n && !k
  | .inf n, .fin _ _ _ => n
  | .fin _ _ _, .inf k => !k
  | .fin n m e, .fin k p h => decide (exactly n m e < exactly k p h)
  | _, _ => false

/-- Two values are the same point of the extended line. -/
def samePoint (x y : Machine.Num) : Bool := decide (x ≠ .nan) && decide (y ≠ .nan) && !below x y && !below y x

/-- The conditions of R205 by number: EQ, NE, LT, LE, GT, GE, UN, OR. -/
def condHolds (c : Nat) (a b : Machine.Num) : Bool :=
  match c with
  | 0 => samePoint a b
  | 1 => !samePoint a b
  | 2 => below a b
  | 3 => below a b || samePoint a b
  | 4 => below b a
  | 5 => below b a || samePoint a b
  | 6 => decide (a = .nan ∨ b = .nan)
  | _ => decide (a ≠ .nan ∧ b ≠ .nan)

/-- As `below`, with −0 below +0 (R204). -/
def before (x y : Machine.Num) : Bool := below x y || (decide (rational x = some 0) && decide (rational y = some 0) && numSign x && !numSign y)

/-- What FMIN and FMAX choose of two values: a NaN is ignored, or with `.nan` chosen (R204). -/
def chosen (greater nan : Bool) (a b : Machine.Num) : Machine.Num :=
  if a = .nan then (if nan then .nan else b)
  else if b = .nan then (if nan then .nan else a)
  else if greater then (if before a b then b else a)
  else if before b a then b else a

/-! ### Classes (R208) -/

/-- The bit of R208's table for a code: by sign, and by size against the smallest normal number, 2^(1 - bias). -/
def classOf (F : FFmt) (code : Nat) : Nat :=
  match decodeNum F code with
  | .nan => 8
  | .inf neg => if neg then 0 else 7
  | .fin neg m e =>
    if exactly false m e = 0 then (if neg then 3 else 4)
    else if exactly false m e < (2 : ℚ) ^ (1 - F.bias) then (if neg then 2 else 5)
    else if neg then 1 else 6

/-! ### The functions of FMATH (R206) -/

/-- n is a / b: the special cases of R206's table; of finite nonzero operands a value within 2^-600 of the quotient, in proportion, and the
quotient itself where it is an integer times a power of 2. -/
def quotientIs (a b n : Machine.Num) : Prop :=
  match a, b with
  | .nan, _ | _, .nan => n = .nan
  | .inf _, .inf _ => n = .nan
  | .inf s, .fin k _ _ => n = .inf (s != k)
  | .fin s _ _, .inf k => n = .fin (s != k) 0 0
  | .fin s m e, .fin k p h =>
    if p = 0 then n = (if m = 0 then .nan else .inf (s != k))
    else
      ∃ r, rational n = some r ∧ |r - exactly s m e / exactly k p h| ≤ |exactly s m e / exactly k p h| / 2 ^ 600 ∧
        ∀ z i : Int, exactly s m e / exactly k p h = z * 2 ^ i → r = z * 2 ^ i

/-- n is 2^a, for an a that is an integer below 4,096 in size, or not finite. -/
def powerIs (a n : Machine.Num) : Prop :=
  match a with
  | .nan => n = .nan
  | .inf neg => n = if neg then .fin false 0 0 else .inf false
  | .fin s m e => ∀ z : Int, |z| < 4096 → exactly s m e = z → rational n = some (2 ^ z)

/-- n is the square root of a: exact where the root is rational, else within 2^-600 of the square, in proportion. -/
def rootIs (a n : Machine.Num) : Prop :=
  match a with
  | .nan => n = .nan
  | .inf neg => n = if neg then .nan else .inf false
  | .fin neg m e =>
    if m = 0 then n = .fin neg 0 0
    else if neg then n = .nan
    else ∃ r, rational n = some r ∧ 0 < r ∧ |r ^ 2 - exactly false m e| ≤ exactly false m e / 2 ^ 600 ∧
      ∀ x : ℚ, 0 < x → x ^ 2 = exactly false m e → r = x

/-- n is 1 over the square root of a. -/
def inverseRootIs (a n : Machine.Num) : Prop :=
  match a with
  | .nan => n = .nan
  | .inf neg => n = if neg then .nan else .fin false 0 0
  | .fin neg m e =>
    if m = 0 then n = .inf neg
    else if neg then n = .nan
    else ∃ r, rational n = some r ∧ 0 < r ∧ |r ^ 2 * exactly false m e - 1| ≤ 1 / 2 ^ 600

/-- n is log2 a, for an a that is a power of 2, not positive or not finite. -/
def logIs (a n : Machine.Num) : Prop :=
  match a with
  | .nan => n = .nan
  | .inf neg => n = if neg then .nan else .inf false
  | .fin neg m e =>
    if m = 0 then n = .inf true
    else if neg then n = .nan
    else ∀ z : Int, exactly false m e = 2 ^ z → rational n = some (z : ℚ)

/-- n is sin(pi a), for an a that is a multiple of one half, or not finite. -/
def sineIs (a n : Machine.Num) : Prop :=
  match a with
  | .nan | .inf _ => n = .nan
  | .fin neg m e => ∀ z : Int, (exactly neg m e = z → n = .fin neg 0 0) ∧ (exactly neg m e = z + 1 / 2 → rational n = some (if z % 2 = 0 then 1 else -1))

/-- n is cos(pi a), for an a that is a multiple of one half, or not finite. -/
def cosineIs (a n : Machine.Num) : Prop :=
  match a with
  | .nan | .inf _ => n = .nan
  | .fin neg m e => ∀ z : Int, (exactly neg m e = z → rational n = some (if z % 2 = 0 then 1 else -1)) ∧
      (exactly neg m e = z + 1 / 2 → n = .fin false 0 0)

/-- n is tanh a, for an a that is zero or not finite; of other arguments it has the sign and lies between −1 and 1. -/
def tanhIs (a n : Machine.Num) : Prop :=
  match a with
  | .nan => n = .nan
  | .inf neg => rational n = some (if neg then -1 else 1)
  | .fin neg m _ => if m = 0 then n = .fin neg 0 0 else ∃ r, rational n = some r ∧ |r| < 1 ∧ 0 ≤ (if neg then -r else r)

/-- n is the function of R206's table by number, on the arguments whose value is exact there, or near enough to round rightly. The
transcendental values between are the model's to 640 places (log 19). -/
def functionIs (fn : Nat) (a b n : Machine.Num) : Prop :=
  match fn with
  | 0 => quotientIs (.fin false 1 0) a n
  | 1 => inverseRootIs a n
  | 2 => rootIs a n
  | 3 => powerIs a n
  | 4 => logIs a n
  | 5 => sineIs a n
  | 6 => cosineIs a n
  | 7 => tanhIs a n
  | _ => quotientIs a b n

/-! ### Scales and conversions (R46, R64 to R66, R70) -/

/-- The scale an e8m0 code stands for; none for 0xFF, which is NaN (R46). -/
def scaleCode (c : Nat) : Option ℚ := if c % 256 = 0xFF then none else some ((2 : ℚ) ^ (((c % 256 : Nat) : Int) - 127))

/-- The scale of FSCA, by kind: a number, one code, two codes (R207). -/
def scaleOf (f : W64) (kind number codes : Nat) : Option ℚ :=
  match kind with
  | 0 => rational (readNum f fmtF32 number)
  | 1 => scaleCode codes
  | _ => (scaleCode codes).bind fun x => (scaleCode (codes / 256)).map fun y => x * y

/-- k is q rounded to an integer under a mode; under SR it is one of the two neighbours (R57, R66). -/
def roundedTo (rm : Rm) (q : ℚ) (k : Int) : Prop :=
  |q - k| < 1 ∧ match rm with
    | .rne => |q - k| ≤ 1 / 2 ∧ (|q - k| = 1 / 2 → k % 2 = 0)
    | .rtz => |(k : ℚ)| ≤ |q|
    | .rup => q ≤ k
    | .rdn => (k : ℚ) ≤ q
    | .rna => |q - k| ≤ 1 / 2 ∧ (|q - k| = 1 / 2 → |q| ≤ |(k : ℚ)|)
    | .sr => True

/-- The rational number a source of CVT or XCVT holds: an integer, an e8m0 scale, a float (R209, R222). -/
def sourceRational (s : State) (v : LaneEnv) (o : Opnd) (t : Ty) (l : Nat) : Option ℚ :=
  if tyIsInt t then some (asInt t (readTy s v o t l))
  else if t = .e8m0 then scaleCode (readTy s v o t l)
  else rational (readNum v.e.fmt (fmtOf v.e.fmt t) (readCode s v o t l))

/-- Acting lane l of t holds a code of a float type at destination d; a variable-precision code fills a window (R50, R193). -/
def holdsCode (s t : State) (v : LaneEnv) (d : Opnd) (ty : Ty) (l code : Nat) (yw : Bool) : Prop :=
  holds s t d (slotsOf v.e.fmt ty) l (if tyIsVpf ty then codeWindow (vpfPrec v.e.fmt ty) code else code) yw

/-- A negative value does not go into unsigned binary8 (R65). -/
def signOk (F : FFmt) (neg : Bool) : Prop := ¬ (F.kind = .b8u ∧ neg = true)

/-- `code` is what a value of sign `neg` and rational value q (none: an infinity) becomes in a format, rounded once: R58 and R64 for a value
the format has a sign for, R65 for a negative one in unsigned binary8. -/
def convertsTo (f : W64) (F : FFmt) (rm : Rm) (q : ℚ) (code : Nat) : Prop :=
  (q ≠ 0 → signOk F (decide (q < 0)) → ∃ n r, rational n = some q ∧ code = (roundTo f F rm r n).1) ∧
  (F.kind = .b8u → q < 0 → code = 0 ∨ code = nanCode F ∧ fmtSat f = false)

/-- `code` is what an infinity becomes in a format (R64). -/
def infinityTo (f : W64) (F : FFmt) (neg : Bool) (code : Nat) : Prop :=
  (signOk F neg → F.hasInf = true → code = withSign F neg (infCode F)) ∧
  (signOk F neg → F.hasInf = false →
    code = if fmtSat f = true ∨ F.kind = .e2m1 then withSign F neg (maxCode F) else nanCode F) ∧
  (¬ signOk F neg → code = if fmtSat f then 0 else nanCode F)

/-- The e8m0 code of SCALEX for a value read as FP32 (R70). -/
def scaleFor (F : FFmt) (a : Machine.Num) (code : Nat) : Prop :=
  match a with
  | .nan => code = 0xFF
  | .inf _ => code = 0xFE
  | .fin _ m e =>
    if m = 0 then code = 0
    else ∀ top, rational (decodeNum F (maxCode F)) = some top →
      ∀ k, k = Int.log 2 (exactly false m e) - Int.log 2 top →
        code = if k < -127 then 0 else if k ≤ 126 then (k + 127).toNat else 0xFD

/-! ### Reductions (R216, R217) -/

/-- One combination of a float reduction: a sum rounded to the type, the lesser, the greater, the greater with NaN kept (R216). -/
def combined (f : W64) (F : FFmt) (rm : Rm) (op : Nat) (x y : Machine.Num) : Machine.Num :=
  match op with
  | 0 => decodeNum F (roundTo f F rm 0 (numAdd rm x y).1).1
  | 1 => chosen false false x y
  | 2 => chosen true false x y
  | _ => chosen true true x y

/-- The pairwise tree over 2^n positions, from position 2^n × k on: an absent value leaves the other as it is (R216). -/
def pairTree (comb : Machine.Num → Machine.Num → Machine.Num) (leaf : Nat → Option Machine.Num) : Nat → Nat → Option Machine.Num
  | 0, k => leaf k
  | n + 1, k =>
    match pairTree comb leaf n (2 * k), pairTree comb leaf n (2 * k + 1) with
    | none, y => y
    | x, none => x
    | some x, some y => some (comb x y)

/-- The running combination of some values, the identity for none (R217). -/
def runningOf (comb : Machine.Num → Machine.Num → Machine.Num) (op : Nat) : List Machine.Num → Machine.Num
  | [] => match op with
    | 0 => .fin false 0 0
    | 1 => .inf false
    | _ => .inf true
  | x :: r => r.foldl comb x

/-- The value a lane brings to a float reduction: its magnitude for `.amax` (R216). -/
def reduced (s : State) (v : LaneEnv) (x : Srcs) (op l : Nat) : Machine.Num :=
  if op = 6 then numAbs (readNum v.e.fmt (fmtOf v.e.fmt x.ty) (readTy s v x.a x.ty l))
  else readNum v.e.fmt (fmtOf v.e.fmt x.ty) (readTy s v x.a x.ty l)

end Sys2Proof.Claims
end

