-- ==== Sys2Proof/Claims/Layer.lean ====
section
/-!
DEFINITION. Claims/Layer.lean: the terms the statements about hardware's own events are made of: registers of class 0x03, slots of the
broadcast layer, words as their home sees them (R335 to R351, R427).
-/
namespace Sys2Proof.Claims

open Sys2Proof.Machine

/-- The boot has ended well (R420). -/
def booted (s : State) : Prop := mgmtField s 0x08 3 0 = 9 ∧ mgmtField s 0x08 8 8 = 0

/-- Of the whole machine only the register of class 0x03 at an offset differs. -/
def onlyRegister (s t : State) (off : Nat) : Prop := { t with mgmt := s.mgmt } = s ∧ ∀ o, o ≠ off → mgmtRaw t o = mgmtRaw s o

/-- Only bits hi to lo of the register at an offset differ, and they hold v. -/
def fieldSet (s t : State) (off hi lo v : Nat) : Prop :=
  onlyRegister s t off ∧ mgmtField t off hi lo = v ∧
    ∀ k, k < 64 → (k < lo ∨ hi < k) → (mgmtRaw t off).getLsbD k = (mgmtRaw s off).getLsbD k

/-- A message stands at the end of what a writer has to send on a plane; the other planes are as before (R336). -/
def queuedLast (s t : State) (p w : Nat) (m : Msg) : Prop :=
  (∃ x, x.writer = w ∧ x.msg = m ∧ x.id = s.nextId ∧ (nth t.planes p idlePlane).pend = (nth s.planes p idlePlane).pend ++ [x]) ∧
    ∀ q, q ≠ p → nth t.planes q idlePlane = nth s.planes q idlePlane

/-- The state but for the owner filter of the stacks and the slots that recall its entries (R344). -/
def filterOff (t : State) : State := { t with filter := [], planes := [], nextId := 0 }

/-- The words a request changed are those of its mask; of the machine only their records, the line's grant count and the owner filter,
with the recalls it makes room by, may differ from u. -/
def wordsOnly (s u t : State) (line : Nat) (m : W32) : Prop :=
  (∀ a, a ∉ maskWords line m → wordDir t a = wordDir s a) ∧ filterOff { t with dir := u.dir, grants := u.grants } = filterOff u

/-- Poison is as in u, but that a request for words of a fenced cluster's, whose POISON is under way, has been answered with poison (R350, R351). -/
def servedDead (u t : State) (line : Nat) (m : W32) : Prop :=
  ∀ a, a ∈ t.poison ↔ a ∈ u.poison ∨ (a ∈ maskWords line m ∧ poisonDue u a = true)

/-- The claims that a slot asked for are fulfilled, later than every claim fulfilled before (R102, R114). -/
def lineTaken (s t : State) (slot : Nat) : Prop :=
  ∃ n, s.nextId ≤ n ∧ t.ops = s.ops.map fun o =>
    { o with owned := o.owned.map fun y => if y.slot = some slot then { y with slot := none, seq := n } else y }

/-- The NDECL under way with an identity has its result (R283, R356). -/
def declResult (t : State) (id : Nat) (st : Byte) : Prop := ∃ x ∈ t.declOps, x.id = id ∧ x.result = some st

/-- The declarations the device holds, those that wait for their HOME included (R356). -/
def declsHeld (s : State) : Nat := s.decls.length + (s.declOps.filter fun o => o.asked && o.result.isNone).length

/-- No cluster but c holds the word. -/
def heldAlone (s : State) (c a : Nat) : Prop := ∀ k, k ≠ c → stateOf (wordDir s a) k = none

end Sys2Proof.Claims
end

