-- ==== Sys2Proof/Claims/Ports.lean ====
section
/-!
DEFINITION. Claims/Ports.lean: the terms the statements about optical ports are made of (R407 to R415).
-/
namespace Sys2Proof.Claims

open Sys2Proof.Machine

/-- The event of a flit that arrives at port p, by KIND and, for width control, by its action (R407, R409). -/
def flitEventOf (p : Nat) (f : Flit) (i : Instr) : Prop :=
  (f.kind = 0 ∧ i = .idleFlit p f) ∨ ((f.kind = 1 ∨ 5 ≤ f.kind.toNat) ∧ i = .dataFlit p f) ∨ (f.kind = 2 ∧ i = .acknowledgementFlit p f) ∨
    (f.kind = 3 ∧ widthAction f.payload = 1 ∧ i = .accept p f) ∨ (f.kind = 3 ∧ widthAction f.payload = 2 ∧ i = .train p f) ∨
    (f.kind = 3 ∧ widthAction f.payload ≠ 1 ∧ widthAction f.payload ≠ 2 ∧ i = .propose p f) ∨ (f.kind = 4 ∧ i = .timeFlit p f)

/-- A port that is up: its registers and its link data are there. -/
def portUp (s : State) (p : Nat) : Prop := p < 32 ∧ p < s.ports.length ∧ mgmtField s (portOff p 0) 63 62 = 0

/-- A flit that is good, of a kind with a name, on a wavelength that carries flits (R407, R409). -/
def flitTaken (s : State) (p : Nat) (f : Flit) : Prop :=
  f.good = true ∧ f.lane.toNat < 18 ∧ f.kind.toNat < 5 ∧
    (mgmtField s (waveOff p f.lane.toNat) 63 62 = 0 ∨ mgmtField s (waveOff p f.lane.toNat) 63 62 = 2)

/-- ACK or SACK of a header covers sequence n (R407). -/
def acknowledges (f : Flit) (n : Nat) : Prop :=
  2 ^ 23 ≤ (n + 2 ^ 24 - f.ack.toNat) % 2 ^ 24 ∨
    ∃ i, i < 16 ∧ (n + 2 ^ 24 - f.ack.toNat) % 2 ^ 24 = i + 1 ∧ f.sack.getLsbD i = true

/-- The flit is the next in sequence, and none kept follows it (R408). -/
def flitNext (s : State) (p : Nat) (f : Flit) : Prop :=
  f.seq.toNat = (portAt s p).nextRx ∧ (portAt s p).nextRx < 2 ^ 24 ∧ (portAt s p).early = []

/-- Of a mask, at most n wavelengths are kept, the lowest ones (R412). -/
def keepsLowest (n m k : Nat) : Prop :=
  (∀ w, k.testBit w = true → m.testBit w = true ∧ ∀ u, u < w → m.testBit u = true → k.testBit u = true) ∧
    (List.range 18).countP (fun w => k.testBit w) = min n ((List.range 18).countP fun w => m.testBit w) ∧ k < 2 ^ 18

/-- A mask of the wavelengths that f names. -/
def maskOf (m : Nat) (f : Nat → Prop) : Prop := m < 2 ^ 18 ∧ ∀ w, w < 18 → (m.testBit w = true ↔ f w)

/-- The number of wavelengths of a laser state (R412). -/
def wavesOf (v : Nat) : Nat := if v = 0 then 16 else if v = 1 then 8 else if v = 2 then 1 else 0

/-- The flit leaves the port as awake as it was: the port is not on its way to L3, or waits for a width flit that the flit does not acknowledge
(R412). -/
def staysAwake (q : Port) (f : Flit) : Prop := q.sleeping = false ∨ ∃ x ∈ q.unacked, x.kind = 3 ∧ ¬ acknowledges f x.seq

/-- A port in L3 that was up: no wavelength is active, the link is down, and its flits are kept for when it trains again (R412). -/
def darkened (t : State) (p : Nat) : Prop :=
  mgmtField t (portOff p 0) 61 60 = 3 ∧ mgmtField t (portOff p 0) 33 16 = 0 ∧ mgmtField t (portOff p 0) 63 62 = 2 ∧ (portAt t p).kept = true

/-- t is s with laser state v in force on port p: a lower state keeps the lowest of its active wavelengths, on a link that is up by narrowing
under an epoch of its own; a higher one leaves them, to widen by training; a link that is up goes to L3 by way of L2, once that mask has been
accepted; another is dark at once (R410, R412). -/
structure LaserSet (s t : State) (p v : Nat) : Prop where
  laser : mgmtField t (portOff p 0) 61 60 = if v = 3 ∧ mgmtField s (portOff p 0) 63 62 = 0 then 2 else v
  sleeping : (portAt t p).sleeping = decide (v = 3 ∧ mgmtField s (portOff p 0) 63 62 = 0)
  fewer : mgmtField s (portOff p 0) 61 60 < v → v ≠ 3 ∨ mgmtField s (portOff p 0) 63 62 = 0 →
    keepsLowest (wavesOf (min v 2)) (mgmtField s (portOff p 0) 33 16) (mgmtField t (portOff p 0) 33 16)
  more : v ≤ mgmtField s (portOff p 0) 61 60 → v ≠ 3 → mgmtField t (portOff p 0) 33 16 = mgmtField s (portOff p 0) 33 16
  narrowed : mgmtField s (portOff p 0) 63 62 = 0 → mgmtField s (portOff p 0) 61 60 < 3 →
    mgmtField t (portOff p 0) 33 16 ≠ mgmtField s (portOff p 0) 33 16 → (portAt t p).txEpoch = ((portAt s p).txEpoch + 1) % 256 ∧
      (portAt t p).outbox = (3, (portAt t p).txEpoch, widthPayload (mgmtField t (portOff p 0) 33 16) 1 0) :: (portAt s p).outbox
  dark : v = 3 → mgmtField s (portOff p 0) 63 62 ≠ 0 → mgmtField t (portOff p 0) 33 16 = 0 ∧
    (mgmtField s (portOff p 0) 63 62 ≠ 3 → mgmtField t (portOff p 0) 63 62 = 2)
  train : v ≠ 3 → mgmtField s (portOff p 0) 61 60 = 3 → mgmtField t (portOff p 0) 63 62 = 1
  link : mgmtField s (portOff p 0) 63 62 = 0 → mgmtField s (portOff p 0) 61 60 ≠ 3 → mgmtField t (portOff p 0) 63 62 = 0
  flits : (portAt t p).unacked.map (·.seq) = (portAt s p).unacked.map (·.seq)
  changed : (portAt t p).lastChange = s.time ∧ (portAt t p).target = none
  others : ∀ q, q ≠ p → portAt t q = portAt s q
  rest : { t with mgmt := s.mgmt, ports := s.ports } = s

/-- The operation is on its way over a port: a PUT that its target has not confirmed, a GET, a publication (R290, R350, R408). -/
def overLink (o : EngOp) (p : Nat) : Prop :=
  o.port = some p ∧ ((o.stage = .issued ∧ ((∃ r a n, o.kind = .put r a n) ∨ ∃ a r n, o.kind = .get a r n)) ∨
    (o.stage = .sent ∧ ∃ a b c, o.kind = .npub a b c))

/-- What was on its way over a port whose link is lost has ended with 0x08: operations, declarations that wait for HOME's answer, and the
interests that went by it, of which each face is told; nothing stays in flight (R290, R356, R402, R408). -/
structure LinkLost (s t : State) (p : Nat) : Prop where
  flits : (portAt t p).unacked = [] ∧ (portAt t p).outbox = []
  ended : ∀ o ∈ s.ops, overLink o p → { o with stage := .ended 0x08 } ∈ t.ops
  others : ∀ o ∈ s.ops, ¬ overLink o p → o ∈ t.ops
  decls : (s.declOps.map (·.id)).Nodup → ∀ o ∈ s.declOps, o.asked = true → o.result = none → o.port = some p → declResult t o.id 0x08
  interests : ∀ r, ∀ e ∈ (routerAt s r).pit, e.tomb = false → e.path.getLast? = some (144 + p) → ∀ f ∈ e.faces,
    ∃ m ∈ t.net, m.kind = .unserved ∧ m.bytes = [0x08] ∧ m.pennant = e.pennant ∧ m.site = faceSite r f
  freed : ∀ r, ∀ e ∈ (routerAt t r).pit, ¬ (e.tomb = false ∧ e.path.getLast? = some (144 + p))

end Sys2Proof.Claims
end

