-- ==== Sys2Proof/Claims/Sched.lean ====
section
/-!
DEFINITION. Claims/Sched.lean: the terms the statements about the scheduler are made of: packets taken, records, work that ends, groups
and crews at placement (R29, R298 to R315).
-/
namespace Sys2Proof.Claims

open Sys2Proof.Machine

/-- A completion record as R307 lays it out, its SEQ aside. -/
structure CompletionRecord (r : BitVec 512) (c : Source) (st : Byte) (launch time : Nat) : Prop where
  kind : bitsOf r 71 64 = 0x81
  status : bitsOf r 79 72 = st.toNat
  queue : bitsOf r 87 80 = c.queue
  node : bitsOf r 127 96 = c.node
  srcseq : bitsOf r 191 128 = c.seq
  tick : bitsOf r 255 192 = time % 2 ^ 64
  launch : bitsOf r 287 256 = launch
  zeros : bitsOf r 95 88 = 0 ∧ bitsOf r 511 288 = 0

/-- A supervisor event as R430 lays it out: its status, the group it names, its details; the fields about a queue are given apart. -/
structure EventRecord (r : BitVec 512) (st : Nat) (k : GKey) (d0 d1 kind : Nat) : Prop where
  typ : bitsOf r 71 64 = 0x83
  status : bitsOf r 79 72 = st
  launch : bitsOf r 287 256 = k.launch
  band : bitsOf r 307 288 = k.band
  crew : bitsOf r 310 308 = k.crew
  group : bitsOf r 314 311 = k.group
  detail0 : bitsOf r 383 320 = d0
  detail1 : bitsOf r 447 384 = d1
  kind : bitsOf r 511 448 = kind

/-- Fields of a group's name fit their places in a record. -/
def keyFits (k : GKey) : Prop := k.launch < 2 ^ 32 ∧ k.band < 2 ^ 20 ∧ k.crew < 8 ∧ k.group < 16

/-- An event of the supervisor's queue is held for it, the last, where a queue is registered; no other record is new (R307). -/
def eventPosted (s t : State) (p : BitVec 512 → Prop) : Prop :=
  (sevq s = 0 → t.posts = s.posts) ∧
    (sevq s ≠ 0 → ∃ r, p r ∧ t.posts = s.posts ++ [{ cq := sevq s, record := r, sup := true, claim := none }])

/-- Node n has its COUNT set, and no other bit of any node changes. -/
def countSet (s t : State) (n v : Nat) : Prop :=
  nodeCount (spGet t.nodes n) = v ∧ (∀ k, k < 256 → (k < 176 ∨ 192 ≤ k) → (spGet t.nodes n).getLsbD k = (spGet s.nodes n).getLsbD k) ∧
    ∀ m, m ≠ n → spGet t.nodes m = spGet s.nodes m

/-- t is u after work taken from a queue ends with a status: its record is held where one is due, the node it names counts down, and
nothing else changes (R301, R307, R309). -/
structure WorkEnded (u t : State) (c : Source) (st : Byte) (launch : Nat) : Prop where
  unrecorded : (∀ n, c.nv = some n → nodeCount (spGet u.nodes n) ≠ 0) → (c.cqe = false ∨ c.cq = 0) → t.posts = u.posts
  recorded : (∀ n, c.nv = some n → nodeCount (spGet u.nodes n) ≠ 0) → c.cqe = true → c.cq ≠ 0 → ∃ r,
    CompletionRecord r c st launch u.time ∧ t.posts = u.posts ++ [{ cq := c.cq, record := r, sup := false, claim := none }]
  alone : c.nv = none → t.nodes = u.nodes ∧ t.ready = u.ready
  node : ∀ n, c.nv = some n → nodeCount (spGet u.nodes n) ≠ 0 → countSet u t n (nodeCount (spGet u.nodes n) - 1) ∧
    (nodeCount (spGet u.nodes n) = 1 → ∃ x, x.node = n ∧ t.ready = u.ready ++ [x]) ∧
    (nodeCount (spGet u.nodes n) ≠ 1 → t.ready = u.ready)
  zero : ∀ n, c.nv = some n → nodeCount (spGet u.nodes n) = 0 → t.nodes = u.nodes ∧ t.ready = u.ready ∧
    (c.cqe = false → c.queue < 256 → n < 65536 → c.seq < 2 ^ 64 → launch < 2 ^ 32 → eventPosted u t fun r =>
      EventRecord r 5 { launch := launch, band := 0, crew := 0, group := 0 } 0 0 2 ∧ bitsOf r 87 80 = c.queue ∧ bitsOf r 191 128 = c.seq ∧
        bitsOf r 127 96 = n)
  rest : { t with posts := u.posts, nodes := u.nodes, ready := u.ready } = u

/-- The packet in the slot that queue q's consumer takes next (R299, R300). -/
def nextPacket (s : State) (q : Nat) : BitVec 512 :=
  packetAt s (slotAt (readHdr s (queueHdr s q)) (readHdr s (queueHdr s q)).rdidx.toNat)

/-- The machine once queue q's consumer has taken that packet: RDIDX has advanced (R300). -/
def packetTaken (s : State) (q : Nat) : State :=
  memWrite s (queueHdr s q + 128) (leBytes ((readHdr s (queueHdr s q)).rdidx.toNat + 1) 8)

/-- What the packet's completion reports: the queue and its completion queue, SEQ, NODE if NV, CQE (R301, R307). -/
def packetSource (s : State) (q : Nat) : Source :=
  { queue := q, cq := (readHdr s (queueHdr s q)).cq, seq := (readHdr s (queueHdr s q)).rdidx.toNat
    nv := if bitAt (nextPacket s q) 127 then some (bitsOf (nextPacket s q) 111 96) else none
    cqe := bitAt (nextPacket s q) 75, gnode := none, arm := (0, 0), node := bitsOf (nextPacket s q) 111 96 }

/-- The event that takes a packet of a TYPE from queue q (R301). -/
def takesType (q typ : Nat) (i : Instr) : Prop :=
  (typ = 1 ∧ i = .launch (.queue q)) ∨ (typ = 2 ∧ i = .graph (.queue q)) ∨ (typ = 3 ∧ i = .copy (.queue q)) ∨
    (typ = 4 ∧ i = .signal (.queue q)) ∨ (typ = 5 ∧ i = .time (.queue q)) ∨ ((typ = 0 ∨ 6 ≤ typ) ∧ i = .nopPacket (.queue q))

/-- A new record is in force: it stands over the copy that was not, signed, with RECSEQ one higher and the carrier of logical cluster w and the spares
as given, and the registers show its number (R418, R419, R427). -/
structure RecordWritten (s t : State) (x : Option Nat) (w : Nat) (spares : W64) : Prop where
  now : recordNow t = { seq := (recordNow s).seq + 1, test := (recordNow s).test, map := (recordNow s).map.set w x, spares := spares, signed := true }
  place : recordPlace t = 1 - recordPlace s
  old : ∀ k, k ≠ 1 - recordPlace s → t.flash[k]? = s.flash[k]?
  shown : mgmtField t 0x08 47 16 = ((recordNow s).seq + 1).toNat
  stage : ∀ k, k < 64 → (k < 16 ∨ 47 < k) → (mgmtRaw t 0x08).getLsbD k = (mgmtRaw s 0x08).getLsbD k

/-- The boot ROM accepts the image in firmware slot k: its signature verifies, its version is at least MINVER (R420, R425). -/
def imageAccepted (s : State) (k : Nat) : Prop :=
  k < 2 ∧ Config.imageSigned (nth s.images k 0) = true ∧ mgmtField (afterReset s) 0x1000 31 0 ≤ Config.imageVersion (nth s.images k 0)

/-- Stage i of the boot succeeds (R420). -/
def stageGood (s : State) (i : Nat) : Prop := Config.stageOk s.ctr i = true ∧ (i = 1 → ∃ k, imageAccepted s k)

/-- The registers show the image that runs, the first accepted, and the record in force, which is the one the boot found or its successor over the other
copy of flash (R418, R419, R420, R425, R427). -/
structure BootShown (s t : State) : Prop where
  image : ∀ k, imageAccepted s k → (∀ j, j < k → ¬ imageAccepted s j) →
    mgmtField t 0x08 9 9 = k ∧ ∀ i, i < 8 → mgmtRaw t (0x1008 + 8 * i) = Config.imageDigest (nth s.images k 0) i
  record : recordNow t = recordNow s ∨ (recordNow t).seq = (recordNow s).seq + 1 ∧ (recordNow t).signed = true
  flash : ∀ k, k ≠ 1 - recordPlace s → t.flash[k]? = s.flash[k]?
  seq : mgmtField t 0x08 47 16 = (recordNow t).seq.toNat
  digest : ∀ i, i < 8 → mgmtRaw t (0x1048 + 8 * i) =
    Config.recordDigest (recordNow t).seq (recordNow t).test (recordNow t).map (recordNow t).spares i
  clusters : ∀ c, c < 64 → ((mgmtRaw t 0x10).getLsbD c = true ↔ (nth (recordNow t).map c none).isSome = true)
  spares : mgmtField t 0x18 3 0 = (recordNow t).spares.toNat % 16
  images : t.images = s.images

/-- A port that a checkpoint takes is in training, or asleep with AUTOWAKE set (R412, R424). -/
def portComing (s : State) (ports p : Nat) : Prop :=
  p < 16 ∧ ports.testBit p = true ∧ (mgmtField s (portOff p 0) 63 62 = 1 ∨
    mgmtField s (portOff p 0) 63 62 = 2 ∧ mgmtField s (portOff p 0) 61 60 = 3 ∧ mgmtField s (portOff p 0) 57 57 = 1)

/-- A crew as R29 has it at the start of its groups. -/
structure CrewStart (c : Crew) (d : KDesc) (cl co : Nat) : Prop where
  place : c.cluster = cl ∧ c.core = co
  shape : c.groups = d.groups ∧ c.crews = d.crews ∧ c.tags.length = d.ntags ∧ c.bbs.length = d.nbbs ∧ c.cbars.length = d.ncbs ∧
    c.splen = d.units * 4096
  tags : ∀ x ∈ c.tags, x = .ready 0
  barriers : ∀ x ∈ c.bbs, x.inited = false
  crewBarriers : ∀ x ∈ c.cbars, x.count = 0 ∧ x.arrived = 0
  subs : c.subs = []
  running : c.halt = .running

/-- A group as R29, R43 and R315 have it at its start; its lane registers and its tiles are told apart. -/
structure GroupStart (g : Group) (l : Launch) (b c k cl co : Nat) : Prop where
  place : g.status = .resident ∧ g.cluster = cl ∧ g.core = co
  pc : g.pc = l.desc.entry
  scalars : ∀ r, spGet g.sregs r = if r = 1 then l.param else if r = 63 then BitVec.ofNat 64 (stackArea l b c k + l.desc.stksz) else 0
  ix : ∀ i : Fin 128, vget g.ixs i 0 = BitVec.ofNat 32 ((l.desc.nslots - 1) * 2 ^ 24)
  preds : ∀ i : Fin 8, vget g.preds i 0 = 0
  fmt : g.fmt = 0x38980800 ∧ g.fstat = 0 ∧ g.amask = 0xFFFFFFFF ∧ g.mstack = [] ∧ g.queue = [] ∧ g.outs = []
  flags : ∀ i : Fin 12, vget g.flags i 0 = 0
  prng : g.prng = 0x5A17 ∧ ∀ i, i < 32 → lfsrGet g i = lfsrSeed 0x5A17 i
  counters : g.bctr = 0 ∧ g.mbdone = 0xFFFF ∧ g.merr = [] ∧ g.fewait = 1000000 ∧ g.lzfill = 0
  launch : g.lcb = l.desc.lcb ∧ g.tvec = l.desc.tvec ∧ g.tsave = BitVec.ofNat 64 (trapArea l b c k) ∧ g.asid = l.asid ∧
    g.ptbase = l.ptbase ∧ g.priv = l.priv ∧ g.nslots = l.desc.nslots
  outside : g.handler = false ∧ g.msaved = false ∧ g.region = none ∧ g.wait = .none ∧ g.feWait = none

end Sys2Proof.Claims
end

