-- ==== Sys2Proof/Certificates/Slice0/Obligations.lean ====
section
/-! DEFINITION. Obligations.lean: the statements for the provers. -/

open Sys2Proof Sys2Proof.Machine Sys2Proof.Claims

/-! ### Scalar arithmetic, moves of the program counter (R150, R154 to R164) -/

/-- R154, R155: every major 0x01 instruction writes its result, over exact integers, to sd and changes nothing else. R156,
R157, R158: the immediate forms, LHI and ADDPC. R160, R161, R162: MADD, MSUB, TADDR and SEL. R159: BFX, BFXN and BFI on a
field that lies within 64 bits; a field that passes bit 63 is an unassigned encoding, which raises the illegal-instruction
trap with the instruction's word (R137). -/
def Obligations.ScalarArithmetic : Prop :=
  (∀ (s : State) (i : Instr) (d : BitVec 6) (v : W64),
     arithResult (sreg s (arithSources i).1) (sreg s (arithSources i).2) i = some (d, v) →
       ∃ t, exec i s = .next t ∧ ScalarResult s t d v) ∧
  (∀ (s : State) (i : Instr) (d : BitVec 6) (v : W64), immediateResult (sreg s) s.cur.pc i = some (d, v) →
     ∃ t, exec i s = .next t ∧ ScalarResult s t d v) ∧
  (∀ (s : State) (i : Instr) (d : BitVec 6) (v : W64), fourResult (sreg s) i = some (d, v) →
     ∃ t, exec i s = .next t ∧ ScalarResult s t d v) ∧
  (∀ (s : State) (i : Instr),
     (∀ d v, fieldResult (sreg s) i = some (d, v) → ∃ t, exec i s = .next t ∧ ScalarResult s t d v) ∧
     (fieldTooLong i → exec i s = .next (scalarTrap s 0x01 (illegalTval i))))

/-- R163: J, JAL, BZ and BNZ go on where the rule says, JAL links the next word in s62, and nothing else changes. R164: JR and
JALR jump to s[sa], read before the link is written; a target with bits 1:0 nonzero raises the misaligned trap with the target
and links nothing. -/
def Obligations.Jumps : Prop :=
  (∀ (s : State) (i : Instr) (pc : W64), branchTarget (sreg s) s.cur.pc i = some pc →
     ∃ t, exec i s = .next t ∧ t.cur.pc = pc ∧
       (linkRegister i ≠ 0 → sreg t (linkRegister i) = s.cur.pc + 4) ∧
       (∀ r, r ≠ linkRegister i → sreg t r = sreg s r) ∧
       { t with cur := { t.cur with sregs := s.cur.sregs, pc := s.cur.pc } } = s) ∧
  (∀ (s : State) (i : Instr) (a : BitVec 6), (i = .jr a ∨ ∃ d, i = .jalr d a) →
     ((sreg s a).toNat % 4 = 0 →
       ∃ t, exec i s = .next t ∧ t.cur.pc = sreg s a ∧
         (linkRegister i ≠ 0 → sreg t (linkRegister i) = s.cur.pc + 4) ∧
         (∀ r, r ≠ linkRegister i → sreg t r = sreg s r) ∧
         { t with cur := { t.cur with sregs := s.cur.sregs, pc := s.cur.pc } } = s) ∧
     ((sreg s a).toNat % 4 ≠ 0 → exec i s = .next (scalarTrap s 0x0D (sreg s a))))

/-! ### SYS0 (R116, R188 to R191) -/

/-- R188, R191, R116: NOP and YIELD only go on; NPBEGIN opens a region whose budget starts now, NPEND closes it, and each
raises the illegal-instruction trap where R191 says; a region whose budget had run out before NPEND is overrun first, with its
event (R324); ISYNC goes on once every earlier clause has ended, and instructions fetched from then on are no older than the
store history of that moment. R189, R190: with its clauses ended, its lane instructions and batches complete, END ends the
group, closes its region and discards its mask stack, flags and lane registers; ENDK with a range inside the group's granules
keeps the slots of that range, once those still absent are filled, and no other lane register; a fill that fails traps with
the cause and the address of the page that failed (log 99), and ENDK of a range that passes the last granule does not end the
group. -/
def Obligations.SystemZero : Prop :=
  (∀ s : State,
     exec .nop s = .next (nextPc s) ∧ exec .yield s = .next (nextPc s) ∧
     (s.cur.queue = [] → exec .isync s =
       .next { s with cur := { s.cur with pc := s.cur.pc + 4, isyncMark := s.hist.length } }) ∧
     (s.cur.queue ≠ [] → exec .isync s = .next s) ∧
     (s.cur.region = none → exec .npbegin s =
       .next { s with cur := { s.cur with pc := s.cur.pc + 4, region := some s.time, regionOver := false } }) ∧
     (s.cur.region.isSome → exec .npbegin s = .next (scalarTrap s 0x01 (illegalTval .npbegin))) ∧
     (s.cur.region.isSome → s.cur.status = .resident → exec .npend s =
       .next { s with cur := { s.cur with pc := s.cur.pc + 4, region := none, regionOver := false },
                      posts := s.posts ++ overrunPosts s }) ∧
     (s.cur.region = none → exec .npend s = .next (scalarTrap s 0x01 (illegalTval .npend)))) ∧
  (∀ (s : State) (a b : BitVec 6),
     (s.cur.status = .resident ∧ s.cur.queue = [] ∧ s.cur.outs = [] ∧ s.cur.batches = [] ∧
         (s.cur.wait = .ending → s.cur.openOps = []) →
       (∃ t, exec .endGroup s = .next t ∧ GroupEnded s t none) ∧
       ((sreg s b) = 0 ∧ (sreg s a).toNat < 32 → ∃ t, exec (.endk a b) s = .next t ∧ GroupEnded s t none) ∧
       (0 < (sreg s b).toNat ∧ (sreg s b).toNat < 64 ∧ (sreg s a).toNat < 32 ∧
           (sreg s a).toNat + (sreg s b).toNat ≤ s.cur.nslots / 8 →
         (s.cur.absent = [] → ∃ t, exec (.endk a b) s = .next t ∧ GroupEnded s t (some ((sreg s a).toNat, (sreg s b).toNat))) ∧
         (∀ s1, fillGranules s ((List.range (sreg s b).toNat).map ((sreg s a).toNat + ·)) = .ok s1 →
           ∃ t, exec (.endk a b) s = .next t ∧ GroupEnded s1 t (some ((sreg s a).toNat, (sreg s b).toNat))) ∧
         (∀ c, fillGranules s ((List.range (sreg s b).toNat).map ((sreg s a).toNat + ·)) = .error c →
           exec (.endk a b) s = .next (takeTrap s false 0 c.1 c.2 s.cur.pc)))) ∧
     (0 < (sreg s b).toNat ∧ (sreg s b).toNat < 64 ∧ (sreg s a).toNat < 32 ∧
         s.cur.nslots / 8 < (sreg s a).toNat + (sreg s b).toNat →
       exec (.endk a b) s = .next (scalarTrap s 0x06 (sreg s a))) ∧
     (64 ≤ (sreg s b).toNat ∨ 32 ≤ (sreg s a).toNat →
       exec (.endk a b) s = .next (scalarTrap s 0x01 (illegalTval (.endk a b)))))

/-! ### Clauses, the mask stack, predicates, flags, `fmt` (R172 to R179) -/

/-- R18, R153, R172, R173, R176, R178, R181: CLAUSE, CLAUSER, SETP, VPUT and MTS of `prng` and `fewait` append their entry to
a lane queue of fewer than four entries and go on; while it holds four, nothing changes and the instruction is tried again.
R173, R176, R178: what is out of range traps, and nothing is appended. -/
def Obligations.LaneQueue : Prop :=
  (∀ (s : State) (i : Instr) (e : QEntry), appended s i = some e →
     (s.cur.queue.length < 4 →
       exec i s = .next { s with cur := { s.cur with pc := s.cur.pc + 4, queue := s.cur.queue ++ [e] } }) ∧
     (4 ≤ s.cur.queue.length → exec i s = .next s)) ∧
  (∀ (s : State) (a d : BitVec 6) (slot : BitVec 8) (lane : BitVec 5),
     (2 ^ 20 ≤ (sreg s a).toNat → exec (.clauser a) s = .next (scalarTrap s 0x03 (sreg s a))) ∧
     exec (.setp 0 a) s = .next (scalarTrap s 0x01 (illegalTval (.setp 0 a))) ∧
     (s.cur.nslots ≤ slot.toNat → exec (.vput d slot lane) s = .next (scalarTrap s 0x06 (slot.setWidth 64))) ∧
     (s.cur.nslots ≤ slot.toNat → exec (.vget d slot lane) s = .next (scalarTrap s 0x06 (slot.setWidth 64))))

/-- R25, R175, R176: MPUSH, MELSE and MPOP change `amask`, `fmt` and the mask stack as R25 writes them and nothing else; with
no room or no entry they trap with cause 0x05 and change none of the three. R176, R177, R178, R179: PMOV, VGET, WFLAG, GETSTAT
and CLRSTAT once their waits are over; SETFMT, SETPREC and GETFMT at once. -/
def Obligations.MaskStackAndPredicates : Prop :=
  (∀ (s : State) (i : Instr), maskReady s.cur i →
     (∀ m f st, maskStep s.cur i = some (m, f, st) →
       exec i s = .next { s with cur := { s.cur with pc := s.cur.pc + 4, amask := m, fmt := f, mstack := st } }) ∧
     (maskStep s.cur i = none → exec i s = .next (scalarTrap s 0x05 0))) ∧
  (∀ (s : State) (d a b : BitVec 6) (n : BitVec 1) (p : BitVec 3) (slot : BitVec 8) (lane : BitVec 5) (m : BitVec 12),
     (s.cur.queue = [] ∧ ¬ (n = 1 ∧ p = 0) → ∃ t, exec (.pmov d n p) s = .next t ∧
       ScalarResult s t d ((if n = 1 then ~~~predMask s.cur p.toNat else predMask s.cur p.toNat).setWidth 64)) ∧
     (s.cur.queue = [] ∧ slot.toNat < s.cur.nslots ∧ isPending s.cur (slot.toNat * 32 + lane.toNat) = false →
       (∀ s1, fillGranules s [slot.toNat / 8] = .ok s1 →
         ∃ t, exec (.vget d slot lane) s = .next t ∧
           ScalarResult s1 t d ((spGet s1.cur.lanes (slot.toNat * 32 + lane.toNat)).setWidth 64)) ∧
       (∀ c, fillGranules s [slot.toNat / 8] = .error c → exec (.vget d slot lane) s = .next (scalarTrap s c.1 c.2))) ∧
     ((∀ e ∈ s.cur.queue, e.kind = .clause → e.started = true) ∧
         (∀ i : Fin 12, m.getLsbD i = true → vget s.cur.flags i 0 = 0) → exec (.wflag m) s = .next (nextPc s)) ∧
     (s.cur.queue = [] ∧ (∀ o ∈ s.cur.outs, o.matrix = true) →
       (∃ t, exec (.getstat d) s = .next t ∧ ScalarResult s t d (s.cur.fstat.setWidth 64)) ∧
       exec (.clrstat a) s =
         .next { s with cur := { s.cur with pc := s.cur.pc + 4, fstat := s.cur.fstat &&& ~~~((sreg s a).setWidth 7) } }) ∧
     (∃ t, exec (.getfmt d) s = .next t ∧ ScalarResult s t d s.cur.fmt) ∧
     exec (.setfmt a b) s = .next { s with cur := { s.cur with
       pc := s.cur.pc + 4, fmt := (s.cur.fmt &&& ~~~(sreg s b &&& fmtMask)) ||| (sreg s a &&& sreg s b &&& fmtMask) } } ∧
     ∃ f, exec (.setprec a b) s = .next { s with cur := { s.cur with pc := s.cur.pc + 4, fmt := f } } ∧
       f.extractLsb' 16 7 = (if a = 0 then s.cur.fmt.extractLsb' 16 7 else (sreg s a).extractLsb' 0 7) ∧
       f.extractLsb' 23 7 = (if b = 0 then s.cur.fmt.extractLsb' 23 7 else (sreg s b).extractLsb' 0 7) ∧
       f.extractLsb' 0 16 = s.cur.fmt.extractLsb' 0 16 ∧ f.extractLsb' 30 34 = s.cur.fmt.extractLsb' 30 34)

/-! ### Special registers (R43, R180, R181) -/

/-- R43, R180, R181: MFS writes the register R43 numbers to sd; numbers from 0x100 need privilege and trap with 0x17 without it;
a number that is no register is an unassigned encoding. Each number reads the part of the state that R43 gives it: `tagbits` and `flags` bit
by bit, the others whole. MTS of a writable register is read back by MFS, and nothing else
changes. -/
def Obligations.SpecialRegisters : Prop :=
  ∀ (s : State) (d a : BitVec 6) (n : BitVec 13),
    (specialGet s n.toNat = none → exec (.mfs d n) s = .next (scalarTrap s 0x01 (illegalTval (.mfs d n))) ∧
      exec (.mts a n) s = .next (scalarTrap s 0x01 (illegalTval (.mts a n)))) ∧
    (n.toNat ∈ specialNumbers → (n.toNat < 0x100 ∨ s.cur.priv = true) →
      (n = 0x002 → s.cur.queue = [] ∧ ∀ o ∈ s.cur.outs, o.matrix = true) →
      ∃ t v, exec (.mfs d n) s = .next t ∧ specialGet s n.toNat = some v ∧ ScalarResult s t d v) ∧
    (n.toNat ∉ specialNumbers → specialGet s n.toNat = none) ∧
    (∀ v, specialField s n.toNat = some v → specialGet s n.toNat = some v) ∧
    (s.crew.tags.length ≤ 64 → n = 0x003 ∨ n = 0x004 →
      ∃ v, specialGet s n.toNat = some v ∧ ∀ i < 64, v.getLsbD i = specialBit s n.toNat i) ∧
    (∀ v, specialGet s n.toNat = some v → 0x100 ≤ n.toNat ∧ s.cur.priv = false →
      exec (.mfs d n) s = .next (scalarTrap s 0x17 0) ∧ exec (.mts a n) s = .next (scalarTrap s 0x17 0)) ∧
    (∀ v, specialGet s n.toNat = some v → (n.toNat < 0x100 ∨ s.cur.priv = true) → n ≠ 0x030 → n ≠ 0x040 →
      (n = 0x002 → s.cur.queue = [] ∧ ∀ o ∈ s.cur.outs, o.matrix = true) →
      ∃ t, exec (.mts a n) s = .next t ∧ t.cur.pc = s.cur.pc + 4 ∧ (∀ r, sreg t r = sreg s r) ∧
        specialGet t n.toNat = some (writtenValue n v (sreg s a)) ∧
        (∀ k, k ≠ n.toNat → specialGet t k = specialGet s k) ∧ (∀ x, memGet t x = memGet s x) ∧
        { t with cur := { t.cur with pc := s.cur.pc, fmt := s.cur.fmt, fstat := s.cur.fstat, lcb := s.cur.lcb,
                                     tsave := s.cur.tsave, tpc := s.cur.tpc, tvec := s.cur.tvec, asid := s.cur.asid,
                                     ptbase := s.cur.ptbase } } = s)

/-! ### Fences, crew barriers, device time (R110, R183, R184, R186) -/

/-- R109, R110: a FENCE with a scope R96 names goes on, and changes nothing else, once every earlier clause has ended and
completed, every earlier store of the group is performed at the scope, and, with engines = 1, every engine operation of the
group has completed; before that it waits; a scope code of 6 or 7 traps. The manual gives R110's waits to every kind in one
sentence, and the model lets a fence of each kind wait for all of them (log 25). An SC fence at device or system scope waits
for its turn in the SC order too, and takes its place there: R109 gives the place, and that nothing is performed before an
operation of an earlier place is the model's (log 96). R186: RDTIME writes the tick; WAITUNTIL of a tick that has come goes
on, of a later one waits for it, and the event that ends the wait lets the group go on after it. -/
def Obligations.FencesAndTime : Prop :=
  (∀ (s : State) (i : Instr) (e : BitVec 1) (sc : BitVec 3),
     (i = .fenceFull e sc ∨ i = .fenceAcquire e sc ∨ i = .fenceRelease e sc ∨ i = .fenceSc e sc) →
     (sc.toNat ≤ 5 ∧ FenceDone s e sc → (i = .fenceSc e sc → sc.toNat < 4) → exec i s = .next (nextPc s)) ∧
     (i = .fenceSc e sc → sc = 4 ∨ sc = 5 →
       (ScTurn s .scalar 0 ∧ FenceDone s e sc → exec i s = .next (nextPc (placeTaken s))) ∧
       (¬ ScTurn s .scalar 0 → exec i s = .next s)) ∧
     (sc.toNat ≤ 5 ∧ ¬ FenceDone s e sc → exec i s = .next s) ∧
     (5 < sc.toNat → exec i s = .next (scalarTrap s 0x01 (illegalTval i)))) ∧
  (∀ (s : State) (d a : BitVec 6),
     (∃ t, exec (.rdtime d) s = .next t ∧ ScalarResult s t d (BitVec.ofNat 64 s.time)) ∧
     ((sreg s a).toNat ≤ s.time →
       exec (.waituntil a) s = .next { s with cur := { s.cur with pc := s.cur.pc + 4, wait := .none } }) ∧
     (s.time < (sreg s a).toNat → exec (.waituntil a) s = .next { s with cur := { s.cur with wait := .tick (sreg s a) } }) ∧
     (∀ x, s.cur.status = .resident → s.crew.key = crewKey s.cur.key → s.cur.wait = .tick x → x.toNat ≤ s.time →
       exec (.waituntilReached s.cur.key) s = .next { s with cur := { s.cur with pc := s.cur.pc + 4, wait := .none } }))

/-- R183, R184: with the group's earlier stores performed at crew scope, an arrival at a crew barrier, the last of a phase or
an earlier one: BAR.ARV goes on; BAR.SYNC goes on with the last arrival, and otherwise waits for the phase it joined, which it
does not join twice. R183, R184: the traps of the crew barriers, in the order of the rules, and the wait of BAR.SYNC. -/
def Obligations.CrewBarriers : Prop :=
  (∀ (s : State) (a t : BitVec 6) (n : Nat), (sreg s a).toNat = n → 0 < n → n ≤ s.crew.groups → t.toNat < 16 →
     t.toNat < s.crew.cbars.length → s.cur.queue = [] → crewStores s → (∀ p, s.cur.wait ≠ .bar p) →
     (crewBar s t.toNat).count = 0 ∨ (crewBar s t.toNat).count = n →
     (∃ u, exec (.barArv a t) s = .next u ∧ u.cur = { s.cur with pc := s.cur.pc + 4 } ∧ BarrierArrived s u t.toNat n) ∧
     ∃ u, exec (.barSync a t) s = .next u ∧ BarrierArrived s u t.toNat n ∧
       u.cur = if barrierLast s t.toNat n then { s.cur with pc := s.cur.pc + 4 }
         else { s.cur with wait := .bar (crewBar s t.toNat).phase }) ∧
  (∀ (s : State) (i : Instr) (a t : BitVec 6), (i = .barArv a t ∨ i = .barSync a t ∧ ∀ p, s.cur.wait ≠ .bar p) → t.toNat < 16 →
     (s.crew.cbars.length ≤ t.toNat → exec i s = .next (scalarTrap s 0x01 (t.setWidth 64))) ∧
     (t.toNat < s.crew.cbars.length →
       ((sreg s a).toNat = 0 ∨ s.crew.groups < (sreg s a).toNat → exec i s = .next (scalarTrap s 0x01 (sreg s a))) ∧
       (0 < (sreg s a).toNat ∧ (sreg s a).toNat ≤ s.crew.groups →
         (s.cur.queue ≠ [] ∨ ¬ crewStores s → exec i s = .next s) ∧
         (s.cur.queue = [] ∧ crewStores s ∧ (crewBar s t.toNat).count ≠ 0 ∧ (crewBar s t.toNat).count ≠ (sreg s a).toNat →
           exec i s = .next (scalarTrap s 0x0F 0)))))

/-! ### Scalar loads, stores, literals and atomics (R88, R152, R166 to R171, R187) -/

/-- R88: an access ORs bit A, and a store bit D too, into the leaf entries its walk used, and leaves every other bit of
memory. R166: LD of an aligned, permitted address writes the bytes there, zero- or sign-extended, to sd; in memory proper
these are the bytes that memory holds. R166: ST of an aligned, permitted address stores the low bytes of sd, little-endian, in
memory proper, and changes no other byte but of page-table entries it walked. R167: LDK loads the 8-byte literal at pc + 4 ×
imm through the scalar fetch path; a literal address that is not a multiple of 8 raises the misaligned trap, a failing fetch
its own. -/
def Obligations.ScalarLoadsAndStores : Prop :=
  (∀ (s : State) (act : Actor) (k : Access) (va : W64) (r : Run),
     (∀ a, ¬ leafByte [r] a → memGet (touchRuns s act k va [r]) a = memGet s a) ∧
     (∀ l, r.leaf = some l → ∀ b,
       (BitVec.ofNat 64 (leValue (memRead (touchRuns s act k va [r]) l.at_ 8))).getLsbD b =
         ((BitVec.ofNat 64 (leValue (memRead s l.at_ 8)) : W64).getLsbD b || b = 7 || (k = .store && b = 8)))) ∧
  (∀ (s : State) (d a : BitVec 6) (w : BitVec 2) (x : BitVec 1) (o : BitVec 11) (r : Run),
     (w = 3 → x = 0) → (offsetAddress s a w o).toNat % 2 ^ w.toNat = 0 →
     checkedRuns loadErr s 0 .load (offsetAddress s a w o) (2 ^ w.toNat) = .ok [r] → accessFree s .load [r] →
     ∃ t, exec (.ld d a w x o) s = .next t ∧
       AccessResult s t [r] d (extended x (readPlace t r)) r.pa [] ∧
       (plainMemory s r → readPlace t r = (List.range (2 ^ w.toNat)).map fun i => memGet t (r.pa + i))) ∧
  (∀ (s : State) (d a : BitVec 6) (w : BitVec 2) (o : BitVec 11) (r : Run),
     (offsetAddress s a w o).toNat % 2 ^ w.toNat = 0 →
     checkedRuns storeErr s 0 .store (offsetAddress s a w o) (2 ^ w.toNat) = .ok [r] → accessFree s .store [r] →
     exec (.st d a w o) s =
       .next (nextPc (storeRuns s (offsetAddress s a w o) [r] (littleEndian (sreg s d).toNat (2 ^ w.toNat)))) ∧
     (plainMemory s r → ∃ t, exec (.st d a w o) s = .next t ∧
       AccessResult s t [r] 0 0 r.pa (littleEndian (sreg s d).toNat (2 ^ w.toNat)))) ∧
  (∀ (s : State) (d : BitVec 6) (imm : BitVec 20) (la : W64), la = BitVec.ofInt 64 ((s.cur.pc.toNat : Int) + 4 * imm.toInt) →
     (la.toNat % 8 = 0 →
       (∀ bs s1, fetchWords s .scalarFetch la 2 = .ok (bs, s1) →
         ∃ t, exec (.ldk d imm) s = .next t ∧ ScalarResult s1 t d (BitVec.ofNat 64 (leValue bs))) ∧
       (∀ e, fetchWords s .scalarFetch la 2 = .error e →
         exec (.ldk d imm) s = .next (scalarTrap s (errCause .scalarFetch e) la))) ∧
     (la.toNat % 8 ≠ 0 → exec (.ldk d imm) s = .next (scalarTrap s 0x0D la)))

/-- R168, R169, R171: every AMO reads the word, stores the new one and writes the old one, zero-extended, to sd. R170: CAS
writes the old word to sd in every case; it stores s[sb] where the old word equals the low bytes of sd, and writes nothing
where it does not. R187: QLOCK takes the ticket in bits 31:0, leaves the next one there and the ticket in sd, and goes on
where bits 63:32 serve it, else waits for them; QUNLOCK raises the count served. A watch of the lock that fails traps as a
load does, with the ticket kept: R187 names no cause (log 108). -/
def Obligations.AtomicMemoryOps : Prop :=
  (∀ (s : State) (i : Instr) (p : AmoParts) (r : Run), amoParts i = some p → orderAssigned p.order p.scope →
     (sreg s p.a).toNat % p.size = 0 → releaseReady s p.order p.scope →
     checkedRuns atomErr s 0 .store (sreg s p.a) p.size = .ok [r] → accessFree s .store [r] →
     ∀ old, old = leValue (memRead (walked s .store (sreg s p.a) [r]) r.pa p.size) →
       ∃ t, exec i s = .next t ∧
         AccessResult s t [r] p.d (BitVec.ofNat 64 old) r.pa
           (littleEndian (p.f old ((sreg s p.d).toNat % 2 ^ (8 * p.size))) p.size)) ∧
  (∀ (s : State) (d a b : BitVec 6) (o sc : BitVec 3) (w : BitVec 1) (r : Run), orderAssigned o sc →
     (sreg s a).toNat % amoSize w = 0 → releaseReady s o sc →
     checkedRuns atomErr s 0 .store (sreg s a) (amoSize w) = .ok [r] → accessFree s .store [r] →
     ∀ old, old = leValue (memRead (walked s .store (sreg s a) [r]) r.pa (amoSize w)) →
       ∃ t, exec (.cas d a b o sc w) s = .next t ∧
         AccessResult s t [r] d (BitVec.ofNat 64 old) r.pa
           (if old = (sreg s d).toNat % 2 ^ (8 * amoSize w) then littleEndian (sreg s b).toNat (amoSize w) else [])) ∧
  (∀ (s : State) (d a : BitVec 6) (r : Run), (sreg s a).toNat % 8 = 0 →
     checkedRuns atomErr s 0 .store (sreg s a) 8 = .ok [r] → accessFree s .store [r] →
     ∀ old, old = leValue (memRead (walked s .store (sreg s a) [r]) r.pa 8) →
       ((∀ k e, s.cur.wait ≠ .lock k e) →
         ∀ s1, s1 = (atomicRuns s (sreg s a) [r] fun _ => some (littleEndian ((old % 2 ^ 32 + 1) % 2 ^ 32 + old / 2 ^ 32 * 2 ^ 32) 8)).2 →
         ∀ s2, s2 = { s1 with cur := sset s1.cur d (BitVec.ofNat 64 (old % 2 ^ 32)) } →
         ∀ bs s3, loadAt s2 0 (sreg s a) 8 = .ok (bs, s3) →
           (leValue bs / 2 ^ 32 = old % 2 ^ 32 → ∃ t, exec (.qlock d a) s = .next t ∧
             sreg t d = (if d = 0 then 0 else BitVec.ofNat 64 (old % 2 ^ 32)) ∧ (∀ x, x ≠ d → sreg t x = sreg s x) ∧
             t.cur.pc = s.cur.pc + 4 ∧ t.cur.wait = .none ∧ ∀ x, memGet t x = memGet s3 x) ∧
           (leValue bs / 2 ^ 32 ≠ old % 2 ^ 32 →
             exec (.qlock d a) s = .next { s2 with cur := { s2.cur with wait := .lock (BitVec.ofNat 32 old) (sreg s a) } })) ∧
       (∀ k e c, s.cur.wait = .lock k e → loadAt s 0 e 8 = .err c →
         exec (.qlock d a) s = .next (takeTrap s false 0 c e s.cur.pc)) ∧
       (s.cur.queue = [] → storesDone s 4 = true → ∃ t, exec (.qunlock a) s = .next t ∧
         AccessResult s t [r] 0 0 r.pa (littleEndian (old % 2 ^ 32 + (old / 2 ^ 32 + 1) % 2 ^ 32 * 2 ^ 32) 8)))

/-- R152, R166, R168, R170, R187: a misaligned scalar access raises 0x0D, one whose translation or place fails raises its cause,
both with the virtual address in `tval`; neither access is performed. -/
def Obligations.ScalarAccessTraps : Prop :=
  ∀ (s : State) (i : Instr) (n : Nat) (ea : W64) (k : Access) (f : State → Run → Option XErr),
    scalarAccess s i = some (n, ea, k, f) → (∀ x y, s.cur.wait ≠ .lock x y) →
    (ea.toNat % n ≠ 0 → exec i s = .next (scalarTrap s 0x0D ea)) ∧
    (∀ c, ea.toNat % n = 0 → (∀ o sc, orderAssigned o sc → releaseReady s o sc) → checkedRuns f s 0 k ea n = .error c → exec i s = .next (scalarTrap s c ea))

/-! ### Traps and returning from them (R41, R293, R294, R326 to R331) -/

/-- R327, R328: TRAP, a pool guard word and trap entry as an event, outside handler state with `tsave` a writable page: the
state of R328 stands at `tsave`, and the group is in handler state at `tvec`, whose bits 1:0 are dropped (log 18), with
everything R327 names left as it was; the save is one step (log 82). An unaligned `tsave` counts as a faulting store: the
entry is a double trap, with the group as it was (R331, log 16). R331, R430: in handler state the same instructions are a
double trap: the crew comes to a stop, the group keeps every register, no byte of memory changes, and a kind 0x82 event is
posted where a supervisor event queue is named. -/
def Obligations.TrapEntry : Prop :=
  (∀ (s : State) (i : Instr) (w : TrapWords), ownTrap s i = some w → entryReady s w.lane → s.cur.handler = false →
     s.cur.status = .resident → s.crew.key = crewKey s.cur.key → s.cur.mstack.length ≤ 32 → s.cur.queue.length ≤ 4 →
     (∀ r, s.cur.tsave.toNat % 4096 = 0 → runs s (groupActor s.cur) .store s.cur.tsave 4096 = .ok [r] → areaFree s r →
       ∃ t, exec i s = .next t ∧ TrapTaken s t [r] r.pa w) ∧
     (s.cur.tsave.toNat % 4096 ≠ 0 → ∃ t, exec i s = .next t ∧ t.crew = { s.crew with halt := .draining true } ∧
       t.cur.handler = false ∧ t.cur.sregs = s.cur.sregs ∧ t.cur.queue = s.cur.queue ∧ t.cur.amask = s.cur.amask ∧
       (∀ a, memGet t a = memGet s a) ∧
       (sevq s ≠ 0 → ∃ p, t.posts = s.posts ++ [p] ∧ p.sup = true ∧ p.record.extractLsb' 64 8 = 0x82#8 ∧
         p.record.extractLsb' 72 8 = 0x0D#8))) ∧
  (∀ (s : State) (i : Instr) (w : TrapWords), ownTrap s i = some w → entryReady s w.lane → s.cur.handler = true →
     s.cur.status = .resident → s.crew.key = crewKey s.cur.key →
     ∃ t, exec i s = .next t ∧ t.crew = { s.crew with halt := .draining true } ∧ { t.cur with wait := s.cur.wait } = s.cur ∧
       (∀ a, memGet t a = memGet s a) ∧
       t.posts.length = s.posts.length + (if sevq s = 0 then 0 else 1) ∧
       (sevq s ≠ 0 → ∀ p, t.posts.getLast? = some p → p.sup = true ∧ p.cq = sevq s ∧
         p.record.extractLsb' 64 8 = 0x82#8 ∧ p.record.extractLsb' 72 8 = BitVec.ofNat 8 w.cause ∧
         p.record.extractLsb' 192 64 = BitVec.ofNat 64 s.time))

/-- R330: TRET from a readable, well-formed save area restores the fields of R328 and leaves handler state, the scalar thread
at the saved `tpc`; the scalar registers, `fstat`, the other lane registers and every byte of memory but walked page-table
entries are as they were. A saved clause whose header cannot be read is malformed, and bits 1:0 of an address are dropped (log
17, log 18). R294, R295: outside a handler TRET, MSAVE and MREST are illegal, as are a second MSAVE and an MREST with no MSAVE
before it; a TRET after an MSAVE with no MREST raises 0x13 with `tval` 1. -/
def Obligations.TrapReturn : Prop :=
  (∀ (s : State) (r : Run), s.cur.handler = true → s.cur.msaved = false → s.cur.queue = [] → s.cur.outs = [] →
     s.cur.tsave.toNat % 4096 = 0 → runs s (groupActor s.cur) .load s.cur.tsave 4096 = .ok [r] → r.len = 4096 → plainMemory s r →
     areaErr s r = none → runsBusy s false [r] = false →
     ∀ s1, s1 = readMark (touchRuns s (groupActor s.cur) .load s.cur.tsave [r]) r →
     areaPoisoned s [r] (readPlace s1 r) = false → areaMalformed s1 (readPlace s1 r) = none →
     ∃ t, exec .tret s = .next t ∧ t.cur.handler = false ∧ t.cur.pc = BitVec.ofNat 64 (numberAt s1 (r.pa + 0x008) 8) &&& ~~~3 ∧
       t.cur.tcause = BitVec.ofNat 64 (numberAt s1 r.pa 8) ∧ t.cur.tpc = BitVec.ofNat 64 (numberAt s1 (r.pa + 0x008) 8) ∧
       t.cur.tval = BitVec.ofNat 64 (numberAt s1 (r.pa + 0x010) 8) ∧
       t.cur.amask = BitVec.ofNat 32 (numberAt s1 (r.pa + 0x024) 4) ∧ t.cur.fmt = BitVec.ofNat 64 (numberAt s1 (r.pa + 0x200) 8) ∧
       t.cur.bctr = BitVec.ofNat 16 (numberAt s1 (r.pa + 0x02A) 2) ∧ t.cur.mstack.length = numberAt s1 (r.pa + 0x028) 1 ∧
       (∀ j, j < t.cur.mstack.length → t.cur.mstack.reverse[j]? = some
         { mask := BitVec.ofNat 32 (numberAt s1 (r.pa + 0x400 + 16 * j) 4), taken := BitVec.ofNat 32 (numberAt s1 (r.pa + 0x404 + 16 * j) 4),
           fmt := BitVec.ofNat 64 (numberAt s1 (r.pa + 0x408 + 16 * j) 8) }) ∧
       t.cur.queue.length = numberAt s1 (r.pa + 0x220) 4 ∧
       (∀ i, i < t.cur.queue.length → ∃ e, t.cur.queue[i]? = some e ∧ e.addr = BitVec.ofNat 64 (numberAt s1 (r.pa + 0x240 + 32 * i) 8) ∧
         packKind e.kind = numberAt s1 (r.pa + 0x24D + 32 * i) 1 ∧
         (e.kind = .clause → e.mask = BitVec.ofNat 32 (numberAt s1 (r.pa + 0x248 + 32 * i) 4) ∧
           e.fmt = BitVec.ofNat 64 (numberAt s1 (r.pa + 0x250 + 32 * i) 8) ∧
           (e.started = true ↔ 0x80 ≤ numberAt s1 (r.pa + 0x24C + 32 * i) 1) ∧
           (e.started = true → packPos e = numberAt s1 (r.pa + 0x24C + 32 * i) 1))) ∧
       (∀ i : Fin 12, vget t.cur.flags i 0 = numberAt s1 (r.pa + 0x018 + i) 1) ∧
       (∀ l : Fin 32, (spGet t.cur.lanes (264 * 32 + l)).toNat = numberAt s1 (r.pa + 0x100 + 8 * l) 4 ∧
         (spGet t.cur.lanes (265 * 32 + l)).toNat = numberAt s1 (r.pa + 0x104 + 8 * l) 4) ∧
       (∀ key, key < 264 * 32 ∨ 266 * 32 ≤ key → spGet t.cur.lanes key = spGet s.cur.lanes key) ∧
       t.cur.sregs = s.cur.sregs ∧ t.cur.fstat = s.cur.fstat ∧ t.cur.preds = s.cur.preds ∧ t.cur.ixs = s.cur.ixs ∧
       (∀ a, ¬ leafByte [r] a → memGet t a = memGet s a)) ∧
  (∀ s : State,
     (s.cur.handler = false → exec .tret s = .next (scalarTrap s 0x01 (illegalTval .tret)) ∧
       exec .msave s = .next (scalarTrap s 0x01 (illegalTval .msave)) ∧
       exec .mrest s = .next (scalarTrap s 0x01 (illegalTval .mrest))) ∧
     (s.cur.handler = true → s.cur.msaved = true → exec .tret s = .next (scalarTrap s 0x13 1) ∧
       exec .msave s = .next (scalarTrap s 0x01 (illegalTval .msave))) ∧
     (s.cur.handler = true → s.cur.msaved = false → exec .mrest s = .next (scalarTrap s 0x01 (illegalTval .mrest))))

/-- R295, R328: MSAVE and MREST trap where a page of what they access fails, with its cause and the address of its first byte there (R86).
MSAVE stores the group's tiles from `tsave` + 0x1000 and its batch state from `tsave` + 0x300, with 1 in its last byte;
MREST gives the tiles and the batch state back from there. Where two of the stored bytes go to one address, the later one stands. -/
def Obligations.MatrixSave : Prop :=
  ∀ (s : State) (r1 r2 : List Run), s.cur.handler = true → s.cur.queue = [] → s.cur.outs = [] → s.cur.batches = [] →
    s.cur.openOps = [] → s.cur.tsave.toNat % 4096 = 0 →
    (s.cur.msaved = false → storesDone s 4 = true → areaPages storeErr s .store 0x300 0x11 = .ok r1 →
      areaPages storeErr s .store 0x1000 (s.cur.tiles.length * 0x4000) = .ok r2 →
      (∀ r ∈ r1 ++ r2, plainMemory s r) → runsBusy s true (r1 ++ r2) = false →
      ∃ t, exec .msave s = .next t ∧ t.cur = { s.cur with pc := s.cur.pc + 4, msaved := true } ∧
        (∀ r, r1 = [r] → numberAt t r.pa 2 = s.cur.bctr.toNat ∧ numberAt t (r.pa + 2) 2 = s.cur.mbdone.toNat ∧
          numberAt t (r.pa + 0x10) 1 = 1 ∧
          ∀ i : Fin 64, (numberAt t (r.pa + 8) 8).testBit i = s.cur.merr.contains (s.cur.bctr - 1 - BitVec.ofNat 16 i)) ∧
        (∀ k e j a, k < s.cur.tiles.length → e < 4096 → j < 4 → runByte r2 (0x4000 * k + 4 * e + j) = some a →
          (∀ p, 0x4000 * k + 4 * e + j < p → runByte r2 p ≠ some a) → (∀ p, runByte r1 p ≠ some a) → ¬ leafByte r1 a →
          memGet t a = BitVec.ofNat 8 ((tileElem (tileAt s (physTile s.cur k)) e).toNat / 2 ^ (8 * j))) ∧
        ∀ a, (∀ p, runByte r1 p ≠ some a ∧ runByte r2 p ≠ some a) → ¬ leafByte (r1 ++ r2) a → memGet t a = memGet s a) ∧
    (∀ c, s.cur.msaved = false → storesDone s 4 = true → areaPages storeErr s .store 0x300 0x11 = .error c ∨
        areaPages storeErr s .store 0x300 0x11 = .ok r1 ∧
          areaPages storeErr s .store 0x1000 (s.cur.tiles.length * 0x4000) = .error c →
      exec .msave s = .next (scalarTrap s c.1 c.2)) ∧
    (∀ c, s.cur.msaved = true → areaPages loadErr s .load 0x300 0x11 = .error c ∨
        areaPages loadErr s .load 0x300 0x11 = .ok r1 ∧ areaPages loadErr s .load 0x1000 (s.cur.tiles.length * 0x4000) = .error c →
      exec .mrest s = .next (scalarTrap s c.1 c.2)) ∧
    (s.cur.msaved = true → areaPages loadErr s .load 0x300 0x11 = .ok r1 →
      areaPages loadErr s .load 0x1000 (s.cur.tiles.length * 0x4000) = .ok r2 →
      runsBusy s false (r1 ++ r2) = false → ∀ u, u = (loadRuns s (s.cur.tsave + 0x300) r1).2 →
      ∃ t, exec .mrest s = .next t ∧ t.cur.pc = s.cur.pc + 4 ∧ t.cur.msaved = false ∧ t.cur.sregs = s.cur.sregs ∧
        t.cur.lanes = s.cur.lanes ∧ t.cur.fmt = s.cur.fmt ∧
        (∀ r, r1 = [r] → plainMemory s r →
          t.cur.bctr = BitVec.ofNat 16 (numberAt u r.pa 2) ∧ t.cur.mbdone = BitVec.ofNat 16 (numberAt u (r.pa + 2) 2) ∧
          ∀ i : Fin 64, t.cur.merr.contains (t.cur.bctr - 1 - BitVec.ofNat 16 i) = (numberAt u (r.pa + 8) 8).testBit i) ∧
        (∀ k e, k < s.cur.tiles.length → e < 4096 →
          (∀ j, k < j → j < s.cur.tiles.length → physTile s.cur j ≠ physTile s.cur k) →
          tileElem (tileAt t (physTile s.cur k)) e =
            BitVec.ofNat 32 (leValue (((loadRuns u (s.cur.tsave + 0x1000) r2).1.drop (0x4000 * k + 4 * e)).take 4))) ∧
        ∀ a, ¬ leafByte (r1 ++ r2) a → memGet t a = memGet s a)

/-! ### Translation instructions (R90, R296, R297) -/

/-- R296, R297: without privilege the TLB instructions raise 0x17; with it, TLBINV of a length above 0 and TLBINV.ALL send one
invalidation, which waits for every writer, as one message, and TLBINV of length 0 sends nothing; TLBSYNC goes on once every
invalidation of the group has been acknowledged. -/
def Obligations.TlbInstructions : Prop :=
  ∀ (s : State) (d a b : BitVec 6), (sreg s d).toNat < 2 ^ 16 →
    (s.cur.priv = false → exec (.tlbinv d a b) s = .next (scalarTrap s 0x17 0) ∧ exec .tlbinvAll s = .next (scalarTrap s 0x17 0) ∧
      exec .tlbsync s = .next (scalarTrap s 0x17 0)) ∧
    (s.cur.priv = true → s.cur.queue = [] → storesDone s 4 = true →
      ((sreg s b) = 0 → exec (.tlbinv d a b) s = .next (nextPc s)) ∧
      ((sreg s b) ≠ 0 → ∃ t v, exec (.tlbinv d a b) s = .next t ∧ t.invals = s.invals ++ [v] ∧
        v.asid = some ((sreg s d).setWidth 16) ∧ v.grp = s.cur.key ∧
        v.lo * 4096 ≤ (sreg s a).toNat % 2 ^ 48 ∧ (sreg s a).toNat % 2 ^ 48 < (v.lo + 1) * 4096 ∧
        (v.lo + v.len - 1) * 4096 < (sreg s a).toNat % 2 ^ 48 + (sreg s b).toNat ∧
        (sreg s a).toNat % 2 ^ 48 + (sreg s b).toNat ≤ (v.lo + v.len) * 4096 ∧
        v.waiting = presentWriters s ∧ t.cur = { s.cur with pc := s.cur.pc + 4, invs := s.cur.invs ++ [v.id] } ∧
        (∀ x, memGet t x = memGet s x)) ∧
      (∃ t v, exec .tlbinvAll s = .next t ∧ t.invals = s.invals ++ [v] ∧ v.asid = none ∧ v.lo = 0 ∧ v.len = 2 ^ 36 ∧
        v.waiting = presentWriters s ∧ t.cur = { s.cur with pc := s.cur.pc + 4, invs := s.cur.invs ++ [v.id] } ∧
        (∀ x, memGet t x = memGet s x))) ∧
    (s.cur.priv = true → (∀ v ∈ s.invals, v.id ∈ s.cur.invs → v.waiting = []) →
      exec .tlbsync s = .next { s with cur := { s.cur with pc := s.cur.pc + 4, invs := [] } }) ∧
    (s.cur.priv = true → (∃ v ∈ s.invals, v.id ∈ s.cur.invs ∧ v.waiting ≠ []) → exec .tlbsync s = .next s)

/-! ### Tags and byte barriers (R268 to R276) -/

/-- R269: TWAIT returns the mask of the ready tags once its wait is over, and traps with the lowest failed one where there is
one; TFIRST returns the lowest ready tag with its status, or -1; TACK makes every ready tag of the mask idle. R269: a mask
that names a tag beyond the allocation raises 0x01 with the lowest such tag. -/
def Obligations.Tags : Prop :=
  (∀ (s : State) (d a : BitVec 6), tagsAllocated s.crew (sreg s a) →
     (∀ i : Instr, (i = .twaitAll d a ∧ ∀ k, (sreg s a).getLsbD k = true → ¬ pendingTag s.crew k) ∨
         (i = .twaitAny d a ∧ ((∃ k st, (sreg s a).getLsbD k = true ∧ readyWith s.crew k st) ∨
           ∀ k, (sreg s a).getLsbD k = true → ¬ pendingTag s.crew k)) →
       ((∀ k st, (sreg s a).getLsbD k = true → readyWith s.crew k st → causeOf st = none) →
         ∃ t v, exec i s = .next t ∧ ScalarResult s t d v ∧ readyMask s.crew (sreg s a) v) ∧
       (∀ e st c, (sreg s a).getLsbD e = true → readyWith s.crew e st → causeOf st = some c →
         (∀ k st', k < e → (sreg s a).getLsbD k = true → readyWith s.crew k st' → causeOf st' = none) →
         exec i s = .next (scalarTrap s c (BitVec.ofNat 64 (st.toNat * 256 + e))))) ∧
     ((∃ k, (sreg s a).getLsbD k = true ∧ pendingTag s.crew k) → exec (.twaitAll d a) s = .next s) ∧
     ((∀ k st, (sreg s a).getLsbD k = true → ¬ readyWith s.crew k st) →
       ∃ t, exec (.tfirst d a) s = .next t ∧ ScalarResult s t d (BitVec.ofInt 64 (-1))) ∧
     (∀ k st, (sreg s a).getLsbD k = true → readyWith s.crew k st →
       (∀ j st', j < k → (sreg s a).getLsbD j = true → ¬ readyWith s.crew j st') →
       ∃ t, exec (.tfirst d a) s = .next t ∧ ScalarResult s t d (BitVec.ofNat 64 (st.toNat * 256 + k))) ∧
     ∃ t, exec (.tack a) s = .next t ∧ t.cur = { s.cur with pc := s.cur.pc + 4 } ∧
       { t with cur := s.cur, crew := { t.crew with tags := s.crew.tags } } = s ∧ t.crew.tags.length = s.crew.tags.length ∧
       ∀ k, ((sreg s a).getLsbD k = true ∧ (∃ st, readyWith s.crew k st) → nth t.crew.tags k .idle = .idle) ∧
         (¬ ((sreg s a).getLsbD k = true ∧ ∃ st, readyWith s.crew k st) → nth t.crew.tags k .idle = nth s.crew.tags k .idle)) ∧
  (∀ (s : State) (i : Instr) (d a : BitVec 6) (k : Nat), (i = .twaitAll d a ∨ i = .twaitAny d a ∨ i = .tfirst d a ∨ i = .tack a) →
     (sreg s a).getLsbD k = true → s.crew.tags.length ≤ k →
     (∀ j, j < k → (sreg s a).getLsbD j = true → j < s.crew.tags.length) →
     exec i s = .next (scalarTrap s 0x01 (BitVec.ofNat 64 k)))

/-- R270 to R276: BBINIT, BBEXP, BBWAIT and BBARV on an initialised barrier do what the pseudocode of R271 and R275 does. R15,
R270: a barrier beyond the allocation, or before its first BBINIT, raises 0x01 with its number. -/
def Obligations.ByteBarriers : Prop :=
  (∀ (s : State) (d a b t : BitVec 6),
     (t.toNat < s.crew.bbs.length → ∃ u, exec (.bbinit t) s = .next u ∧ barReplaced s u t.toNat
       { inited := true, phase := 0, cur := 0, next := 0, expect := 0, posted := false, overrun := false, status := 0 }) ∧
     (liveBar s.crew t.toNat →
       ((sreg s a).toNat < 2 ^ 40 ∧ (barAt s.crew t.toNat).posted = false → ∃ u, exec (.bbexp a t) s = .next u ∧
         barReplaced s u t.toNat (evaluated { barAt s.crew t.toNat with expect := (sreg s a).toNat, posted := true })) ∧
       ((sreg s a).toNat < 2 ^ 40 ∧ (barAt s.crew t.toNat).posted = true →
         exec (.bbexp a t) s = .next (scalarTrap s 0x10 (t.setWidth 64))) ∧
       ((sreg s a).toNat < 2 ^ 16 →
         (∀ x, x = ((barAt s.crew t.toNat).phase - (sreg s a).setWidth 16).toNat →
           (1 ≤ x ∧ x ≤ 32767 → causeOf (barAt s.crew t.toNat).status = none →
             ∃ u, exec (.bbwait d a t) s = .next u ∧ ScalarResult s u d ((barAt s.crew t.toNat).phase.setWidth 64)) ∧
           (1 ≤ x ∧ x ≤ 32767 → ∀ c, causeOf (barAt s.crew t.toNat).status = some c → exec (.bbwait d a t) s =
             .next (scalarTrap s c (BitVec.ofNat 64 ((barAt s.crew t.toNat).status.toNat * 256 + t.toNat)))) ∧
           (¬ (1 ≤ x ∧ x ≤ 32767) → (barAt s.crew t.toNat).overrun = true →
             exec (.bbwait d a t) s = .next (scalarTrap s 0x10 (t.setWidth 64))) ∧
           (¬ (1 ≤ x ∧ x ≤ 32767) → (barAt s.crew t.toNat).overrun = false → exec (.bbwait d a t) s = .next s))) ∧
       ((sreg s a).toNat < 2 ^ 40 ∧ (sreg s b).toNat < 2 ∧ s.cur.queue = [] ∧ storesDone s 2 = true →
         ∃ u, exec (.bbarv a b t) s = .next u ∧ barReplaced s u t.toNat
           (arrived (sreg s a).toNat ((barAt s.crew t.toNat).phase.getLsbD 0 != (sreg s b).getLsbD 0) 0 (barAt s.crew t.toNat))))) ∧
  (∀ (s : State) (d a b t : BitVec 6), ¬ liveBar s.crew t.toNat →
     exec (.bbexp a t) s = .next (scalarTrap s 0x01 (t.setWidth 64)) ∧ exec (.bbwait d a t) s = .next (scalarTrap s 0x01 (t.setWidth 64)) ∧
     exec (.bbarv a b t) s = .next (scalarTrap s 0x01 (t.setWidth 64)) ∧
     (s.crew.bbs.length ≤ t.toNat → exec (.bbinit t) s = .next (scalarTrap s 0x01 (t.setWidth 64))))

/-! ### The issue of engine operations (R264, R268, R277 to R292) -/

/-- R264, R268, R277, R278, R284, R285, R290: CPY, CPY2D, PUT, GET, NPUB, NPUB.REL and NREQ with good operands, once their
waits are over, issue their operation with the operands read and go on; while a wait lasts nothing changes. R277: a CPY of no
bytes completes at once with status 0x00; a control value with a nonzero unused bit or a length above 2^32 traps and issues
nothing, whatever tag or barrier it names: R138 puts both checks in one class (log 58). R288: SKCMD of an aligned, readable
block, once its waits are over, issues the command with the 64 bytes read, the completion word at block + 56 and the sequence
of the control value, where the unit has room; its target is the tag, the barrier, or only the word. -/
def Obligations.EngineIssue : Prop :=
  (∀ (s : State) (i : Instr) (kind : OpKind) (tg : OpTarget), issued s i = some (kind, tg) → targetNamed s.crew tg →
     (issueReady s tg → claimFree s kind → ∃ t, exec i s = .next t ∧ Issued s t kind tg) ∧
     (¬ (issueReady s tg ∧ claimFree s kind) → exec i s = .next s)) ∧
  (∀ (s : State) (d a b t : BitVec 6) (c : W64), c = sreg s b →
     ((c.extractLsb' 0 33).toNat = 0 ∧ c.extractLsb' 33 29 = 0 ∧ c.getLsbD 63 = false ∧ t.toNat < s.crew.tags.length ∧
         issueReady s (.tag t.toNat) ∧ s.crew.key = crewKey s.cur.key →
       ∃ u, exec (.cpy d a b t) s = .next u ∧ readyWith u.crew t.toNat 0 ∧ u.cur = { s.cur with pc := s.cur.pc + 4 } ∧
         ∀ x, memGet u x = memGet s x) ∧
     (c.extractLsb' 33 29 ≠ 0 ∨ 2 ^ 32 < (c.extractLsb' 0 33).toNat → exec (.cpy d a b t) s = .next (scalarTrap s 0x01 c))) ∧
  (∀ (s : State) (a b t : BitVec 6) (bs : List Byte) (s1 : State), (sreg s a).toNat % 64 = 0 →
     loadAt s 0 (sreg s a) 64 = .ok (bs, s1) → (∀ l, checkedRuns loadErr s 0 .load (sreg s a) 64 = .ok l → scalarHeld s l = false) →
     ∀ (i : Instr) (tg : OpTarget),
       ((i = .skcmdTag a b t ∧ tg = .tag t.toNat ∧ (sreg s b).toNat < 2 ^ 32) ∨
         (i = .skcmdBb a b t ∧ tg = namedTarget s.crew true ((sreg s b).getLsbD 32) t ∧ (sreg s b).toNat < 2 ^ 33) ∨
         (i = .skcmdCw a b ∧ tg = .word ∧ (sreg s b).toNat < 2 ^ 32)) →
       targetNamed s.crew tg → issueReady s tg →
       (∀ u, (unitOps s1 u).length < 64) →
       ∃ k t, exec i s = .next t ∧ k.length = bs.length ∧ (∀ j, j ≠ 1 → k[j]? = bs[j]?) ∧
         Issued s1 t (.skcmd k (sreg s a + 56) ((sreg s b).setWidth 32)) tg)

/-- R279, R281, R282: BSUB of a well-formed block that fits the crew's scratchpad takes the lowest free subscription of the
core, or writes -1 where none is free; BUNSUB ends one and writes its missed count, and traps on a number above 15 or of no
subscription of the crew; BSYNC writes the number of slots re-sent to bits 62:0, and 1 to bit 63 where the fence of a unit has
been met since the last BSYNC. R283, R356: NDECL of an aligned, readable block starts a declaration and waits; when it has
succeeded the wait ends with the tensor's number in bits 63:40 of sd, and when it has failed with trap 0x14: a trap that has
to wait keeps the declaration until it is taken. R286, R287, R372: NCAN withdraws at most one record of the crew, the oldest
of several that match (log 113), which ends with 0x07, or, where its tile is coming already, may be left to it; NDROP sends a
drop once every earlier publication of the group has taken its snapshot; neither changes a register but pc or a byte of
memory. R291: WINWAIT goes on once the counter it names has reached s[sb], modulo 2^64, and WINCNT writes the counter; a
window that is not registered raises 0x14 with status 0x09. -/
def Obligations.SubscriptionsAndWindows : Prop :=
  (∀ (s : State) (d a t : BitVec 6),
     (∀ bs s1, liveBar s.crew t.toNat → (sreg s a).toNat % 32 = 0 → loadAt s 0 (sreg s a) 32 = .ok (bs, s1) →
       (∀ l, checkedRuns loadErr s 0 .load (sreg s a) 32 = .ok l → scalarHeld s l = false) → subMalformed bs = false →
       blockField bs 127 96 + 128 * blockField bs 95 64 ≤ s.crew.splen →
       (freeSub s1 = none → ∃ u, exec (.bsub d a t) s = .next u ∧ ScalarResult s1 u d (BitVec.ofInt 64 (-1))) ∧
       (∀ n, freeSub s1 = some n → ∃ u x, exec (.bsub d a t) s = .next u ∧ sreg u d = (if d = 0 then 0 else BitVec.ofNat 64 n) ∧
         u.crew = { s1.crew with subs := s1.crew.subs ++ [x] } ∧ x.num = n ∧ x.wbase = blockField bs 63 0 ∧
         x.lines = blockField bs 95 64 ∧ x.spoff = blockField bs 127 96 ∧ x.bar = t.toNat ∧ x.missed = 0 ∧
         u.cur.pc = s.cur.pc + 4 ∧ ∀ y, memGet u y = memGet s1 y)) ∧
     (∀ x ∈ s.crew.subs, (sreg s a).toNat < 16 → s.crew.subs.find? (fun y => y.num = (sreg s a).toNat) = some x →
       ∃ u, exec (.bunsub d a) s = .next u ∧
         ScalarResult { s with crew := { s.crew with subs := s.crew.subs.filter fun y => y.num ≠ x.num } } u d (BitVec.ofNat 64 x.missed)) ∧
     (16 ≤ (sreg s a).toNat ∨ (∀ x ∈ s.crew.subs, x.num ≠ (sreg s a).toNat) →
       exec (.bunsub d a) s = .next (scalarTrap s 0x01 (sreg s a))) ∧
     (s.cur.queue = [] → (∀ b ∈ s.cur.bslots, b.done = true) →
       ∃ u v, exec (.bsync d) s = .next u ∧ ScalarResult { s with cur := { s.cur with bslots := [], bfenced := false } } u d v ∧
         (v.extractLsb' 0 63).toNat = (s.cur.bslots.map (·.resent)).sum % 2 ^ 63 ∧ v.getLsbD 63 = s.cur.bfenced) ∧
     (s.cur.queue ≠ [] ∨ (∃ b ∈ s.cur.bslots, b.done = false) → exec (.bsync d) s = .next s)) ∧
  (∀ (s : State) (d a : BitVec 6),
     (∀ bs s1, (∀ n, s.cur.wait ≠ .decl n) → (sreg s a).toNat % 64 = 0 → loadAt s 0 (sreg s a) 64 = .ok (bs, s1) →
       (∀ l, checkedRuns loadErr s 0 .load (sreg s a) 64 = .ok l → scalarHeld s l = false) →
       ∃ t, exec (.ndecl d a) s = .next t ∧ t.cur = { s1.cur with wait := .decl s1.nextId } ∧
         t.declOps = s1.declOps ++ [{ id := s1.nextId, cluster := s1.cur.cluster, block := bs, asked := false, port := none, result := none }] ∧
         ∀ x, memGet t x = memGet s1 x) ∧
     (∀ n o st, s.cur.wait = .decl n → s.declOps.find? (fun o => o.id = n) = some o → o.result = some st →
       (st = 0 → ∃ t, exec (.ndecl d a) s = .next t ∧ t.cur.wait = .none ∧ t.cur.pc = s.cur.pc + 4 ∧
         sreg t d = (if d = 0 then 0 else BitVec.ofNat 64 (blockField o.block 63 40 * 2 ^ 40)) ∧ (∀ r, r ≠ d → sreg t r = sreg s r)) ∧
       (st ≠ 0 → ∀ t, trapWaits s false = some t → exec (.ndecl d a) s = .next t) ∧
       (st ≠ 0 → trapWaits s false = none → exec (.ndecl d a) s = .next (takeTrap
         { s with declOps := s.declOps.filter (fun x => x.id ≠ n), cur := { s.cur with wait := .none } }
         false 0 0x14 (st.setWidth 64) s.cur.pc)))) ∧
  (∀ (s : State) (a b t : BitVec 6),
     ((sreg s b).toNat < 2 → targetNamed s.crew (if (sreg s b).getLsbD 0 then .bar t.toNat false else .tag t.toNat) →
       ∃ u, exec (.ncan a b t) s = .next u ∧ u.cur = { s.cur with pc := s.cur.pc + 4 } ∧ (∀ x, memGet u x = memGet s x) ∧
         u.crew = s.crew ∧
         (cancelled s (sreg s a) ((sreg s b).getLsbD 0) t.toNat = [] → u = nextPc s) ∧
         (∀ o os, cancelled s (sreg s a) ((sreg s b).getLsbD 0) t.toNat = o :: os →
           (∀ x ∈ s.ops, x.id ≠ o.id → x ∈ u.ops) ∧
           (tileComing s s.cur.cluster (sreg s a) = false → { o with stage := .ended 0x07 } ∈ u.ops) ∧
           ({ o with stage := .ended 0x07 } ∈ u.ops ∨ { o with expiry := 0 } ∈ u.ops))) ∧
     ((∀ o ∈ s.ops, o.id ∈ s.cur.pubs → o.stage ≠ .issued) →
       ∃ u m, exec (.ndrop a) s = .next u ∧ u.cur = { s.cur with pc := s.cur.pc + 4, pubs := [] } ∧ u.net = s.net ++ [m] ∧
         m.kind = .drop ∧ m.pennant = sreg s a ∧ { u with cur := s.cur, net := s.net } = s)) ∧
  (∀ (s : State) (d a b k : BitVec 6), k.toNat < 2 →
     (∀ c, winCounter s (sreg s a) k.toNat = some c →
       ((c - sreg s b).toNat < 2 ^ 63 → exec (.winwait a b k) s = .next (nextPc s)) ∧
       (2 ^ 63 ≤ (c - sreg s b).toNat → exec (.winwait a b k) s = .next s) ∧
       ∃ t, exec (.wincnt d a k) s = .next t ∧ ScalarResult s t d c) ∧
     (winCounter s (sreg s a) k.toNat = none →
       exec (.winwait a b k) s = .next (scalarTrap s 0x14 9) ∧ exec (.wincnt d a k) s = .next (scalarTrap s 0x14 9)))

/-- R292, R299: QPUSH of an aligned, readable packet claims the next index of the queue; with an index claimed and
room in the queue, it fills the slot of the index, its sequence field with the index, writes the index to sd and goes on; without room it
keeps waiting with the index it claimed, which it has from the moment of the fetch-and-add, so that no trap claims another. A slot in host memory behind a link that is down takes nothing (R398). -/
def Obligations.QueuePush : Prop :=
  ∀ (s : State) (d a b : BitVec 6) (w : W64) (pkt : List Byte) (r : Run), s.cur.wait = .push w pkt → pkt.length = 64 →
    checkedRuns loadErr s 0 .load (sreg s a) 256 = .ok [r] → runsBusy s false [r] = false →
    ∀ u, u = (loadRuns s (sreg s a) [r]).2 →
    ((w - (readHdr s r.pa).rdidx).toNat < (readHdr s r.pa).cap →
      ∀ slot, slot = (readHdr s r.pa).base + 64 * (w.toNat % (readHdr s r.pa).cap) → slotFault u slot = none →
        runsBusy u true (slotRun slot 0 64) = false →
        ∃ t, exec (.qpush d a b) s = .next t ∧ t.cur.wait = .none ∧ t.cur.pc = s.cur.pc + 4 ∧
          sreg t d = (if d = 0 then 0 else w) ∧ (∀ x, x ≠ d → sreg t x = sreg s x) ∧
          (placeOf slot 64 ≠ some .host ∨ s.linkUp = true → numberAt t slot 8 = w.toNat ∧
            ∀ i, 8 ≤ i → ∀ h : i < pkt.length, memGet t (slot + i) = pkt[i]) ∧
          (∀ x, (x < slot ∨ slot + 64 ≤ x) → ¬ leafByte [r] x → memGet t x = memGet s x) ∧
          (placeOf slot 64 = some .host → s.linkUp = false → ∀ x, ¬ leafByte [r] x → memGet t x = memGet s x)) ∧
    (¬ (w - (readHdr s r.pa).rdidx).toNat < (readHdr s r.pa).cap → exec (.qpush d a b) s = .next u ∧ u.cur = s.cur ∧
      ∀ x, ¬ leafByte [r] x → memGet u x = memGet s x) ∧
    (∀ (s0 s1 s2 : State) (old : List Byte) (l l' : List Run), (∀ v p, s0.cur.wait ≠ .push v p) → (sreg s0 b).toNat % 64 = 0 →
      (sreg s0 a).toNat % 256 = 0 → s0.cur.queue = [] → storesDone s0 (if queueInHost s0 (sreg s0 a) then 5 else 4) = true →
      checkedRuns loadErr s0 0 .load (sreg s0 b) 64 = .ok l → loadAt s0 0 (sreg s0 b) 64 = .ok (pkt, s1) →
      checkedRuns atomErr s0 0 .store (sreg s0 a) 8 = .ok l' →
      atomicAt s1 0 (sreg s0 a) 8 (fun x => some (littleEndian (leValue x + 1) 8)) = .ok (old, s2) →
      exec (.qpush d a b) s0 = .next (pushWait d a (BitVec.ofNat 64 (leValue old)) pkt
        { s2 with cur := { s2.cur with wait := .push (BitVec.ofNat 64 (leValue old)) pkt } }))
/-! ### Lane instructions of formats LA and LI (R19 to R34, R192 to R229) -/

/-- R19, R20, R22, R26, R27, R33, R38, R56, R192: every LA and LI instruction that computes in the lanes, where it may issue,
does issue: the clause moves on, and only the destinations in the acting lanes, their y registers with the y-write bit, random
words and sticky bits may differ; no byte of memory and no other part of the machine does. R31, R33, R137, R196: a lane
instruction that is not legal at the clause's `fmt` raises the illegal-instruction trap with its bits 95:32; one with an
operand out of range in an acting lane raises the register-bounds trap with the lowest such position; one whose granules
cannot be filled raises the cause of the fill that fails, with the address of its page (R38, R78, R86). -/
def Obligations.LaneIssue : Prop :=
  (∀ (s : State) (i : Instr) (p : LaneParts) (v : LaneEnv) (s1 : State), LaneReady s i p v s1 →
     ∃ t, exec i s = .next t ∧ LaneFrame i p v s1 t) ∧
  (∀ (s : State) (i : Instr) (p : LaneParts) (e : QEntry), running s.cur = some e → laneParts e.fmt i = some p →
     (legalAt e.fmt i = false → exec i s = .next (laneTrap s 0x01 (illegalTval i))) ∧
     (legalAt e.fmt i = true → ∀ pos, badPosition s.cur (actLanes (laneEnv s.cur e p.pr)) p.ps = some pos →
       exec i s = .next (laneTrap s 0x06 (BitVec.ofNat 64 pos))) ∧
     (legalAt e.fmt i = true → ∀ v, v = laneEnv s.cur e p.pr → badPosition s.cur (actLanes v) p.ps = none →
       (∀ k ∈ destKeys s.cur (actLanes v) p.ps, isPending s.cur k = false) →
       ∀ c, fillGranules s (firstGranules i p s.cur v) = .error c → exec i s = .next (laneTrap s c.1 c.2)))

/-- R193, R198: IADD, ISUB, IMUL, IMULH, IMAD, IMIN and IMAX, in both forms, compute on the integers of the type, clamp where
mod bit 0 asks for it, and write the result modulo 2^w in every acting lane. R202: ICMP, in both forms, compares the two
integers, combines the outcome with the predicate source and writes a predicate or a register of all ones or 0. R199, R200,
R201: IDOT4, BFN3, SHF, BFX, BFI and BITC write the words their rules give in every acting lane. -/
def Obligations.LaneIntegers : Prop :=
  (∀ (s : State) (i : Instr) (p : LaneParts) (v : LaneEnv) (s1 : State), LaneReady s i p v s1 →
     ∀ x f, intOp i = some (x, f) → ∃ t, exec i s = .next t ∧ ∀ l ∈ actLanes v,
       holds s1 t x.d (slotsOf v.e.fmt x.ty) l
         (intWord x.ty (clamped x.ty (x.md.getLsbD 0)
           (f x.ty (asInt x.ty (readTy s1 v x.a x.ty l)) (asInt x.ty (readB s1 v x x.ty l)) (asInt x.ty (readTy s1 v x.c x.ty l))))) x.yw) ∧
  (∀ (s : State) (i : Instr) (x : Srcs) (p : LaneParts) (v : LaneEnv) (s1 : State), LaneReady s i p v s1 →
     (∃ f, i = .icmp f ∧ x = srcsLa f) ∨ (∃ f, i = .icmpLi f ∧ x = srcsLi f) →
     ∃ t, exec i s = .next t ∧ ∀ l ∈ actLanes v, ∀ a b q m,
       a = asInt x.ty (readTy s1 v x.a x.ty l) → b = asInt x.ty (readB s1 v x x.ty l) →
       q = (match (x.md.extractLsb' 0 3).toNat with
         | 0 => decide (a = b) | 1 => decide (a ≠ b) | 2 => decide (a < b) | 3 => decide (a ≤ b) | 4 => decide (b < a) | _ => decide (b ≤ a)) →
       m = (match (x.md.extractLsb' 3 2).toNat with
         | 0 => q | 1 => q && readPred s1 x.c l | 2 => q || readPred s1 x.c l | _ => q != readPred s1 x.c l) →
       match x.d with
       | .p _ k => predGet t.cur k.toNat l = (m || decide (k = 0))
       | d => holds s1 t d (slotsOf v.e.fmt x.ty) l (intWord x.ty (if m then -1 else 0)) x.yw) ∧
  (∀ (s : State) (i : Instr) (p : LaneParts) (v : LaneEnv) (s1 : State), LaneReady s i p v s1 →
     ∀ x, laneSrcs i = some x → ∃ t, exec i s = .next t ∧ ∀ l ∈ actLanes v, ∀ w, bitWord s1 v x l i = some w →
       holds s1 t x.d (slotsOf v.e.fmt x.ty) l w x.yw)

/-- R57, R203: in every acting lane each element of FADD, FMUL and FFMA of finite sources is the rounding, in the
instruction's mode and with some random word, of the exact rational sum, product or sum of product, where that is not zero; a
NaN source gives NaN. R57, R220: XADD, XMUL and XFMA round the exact rational result once to the destination's precision. R67,
R207: FSCA rounds a times the scale plus c once; a NaN scale gives NaN. R71, R221: XADDE and XMULE write the exact sum or
product where it is representable at the destination's precision, subnormals included, and round it once where it is not,
which sets PX, but for a value beyond the largest finite one (log 92). R224: XRND rounds to an integer, or to a precision, and
then to the destination's precision. R225: XERR gives what the rounded sum or product, formed with the random word the lane
holds, lacks of the exact one, rounded once; NaN where that overflows or a source is not finite. -/
def Obligations.LaneFloats : Prop :=
  (∀ (s : State) (i : Instr) (p : LaneParts) (v : LaneEnv) (s1 : State), LaneReady s i p v s1 →
     ∀ x third f, floatOp i = some (x, third, f) → ∃ t, exec i s = .next t ∧ ∀ l ∈ actLanes v, ∃ word,
       holds s1 t x.d 1 l word x.yw ∧ ∀ j, j < tyCount x.ty → ∀ a b c,
         a = srcNum v x (readTy s1 v x.a x.ty l) j (x.md.getLsbD 0) (x.md.getLsbD 2) →
         b = srcNum v x (readB s1 v x x.ty l) j (x.md.getLsbD 1) (x.md.getLsbD 3) →
         c = srcNum v x (if third then readTy s1 v x.c x.ty l else 0) j (x.md.getLsbD 4) false →
         (∀ qa qb qc, rational a = some qa → rational b = some qb → rational c = some qc → f qa qb qc ≠ 0 →
           ∃ n r, rational n = some (f qa qb qc) ∧
             elemAt x.ty word j = (roundTo v.e.fmt (fmtOf v.e.fmt (tyElem x.ty)) (rmIn v x.md) r n).1) ∧
         ((a = .nan ∨ b = .nan ∨ third = true ∧ c = .nan) → elemAt x.ty word j = nanCode (fmtOf v.e.fmt (tyElem x.ty)))) ∧
  (∀ (s : State) (i : Instr) (p : LaneParts) (v : LaneEnv) (s1 : State), LaneReady s i p v s1 →
     ∀ x third f, vpfOp i = some (x, third, f) → ∃ t, exec i s = .next t ∧ ∀ l ∈ actLanes v, ∀ a b c,
       a = vpfSrc s1 v (srcsLa x) x.a l → b = vpfSrc s1 v (srcsLa x) x.b l → c = vpfSrc s1 v (srcsLa x) x.c l →
       ∀ qa qb qc, rational a = some qa → rational b = some qb → (third = true → rational c = some qc) → f qa qb qc ≠ 0 →
         ∃ n r, rational n = some (f qa qb qc) ∧
           (tyIsVpf x.ty = true → holds s1 t x.d (slotsOf v.e.fmt x.ty) l
             (codeWindow (vpfPrec v.e.fmt x.ty) (roundTo v.e.fmt (fmtOf v.e.fmt x.ty) (rmIn v x.md) r n).1) x.yw)) ∧
  (∀ (s : State) (i : Instr) (x : Srcs) (p : LaneParts) (v : LaneEnv) (s1 : State), LaneReady s i p v s1 →
     (∃ f, i = .fsca f ∧ x = srcsLa f) ∨ (∃ f, i = .fscaLi f ∧ x = srcsLi f) →
     ∃ t, exec i s = .next t ∧ ∀ l ∈ actLanes v, ∃ word, holds s1 t x.d 1 l word x.yw ∧
       ∀ sc, sc = scaleOf v.e.fmt (x.md.extractLsb' 0 2).toNat (readB s1 v x .f32 l) (readB32 s1 v x l) →
         (∀ qa qc k, rational (readNum v.e.fmt fmtF32 (readTy s1 v x.a .f32 l)) = some qa →
           rational (readNum v.e.fmt fmtF32 (readTy s1 v x.c .f32 l)) = some qc → sc = some k → qa * k + qc ≠ 0 →
           ∃ n r, rational n = some (qa * k + qc) ∧ word = (roundTo v.e.fmt fmtF32 (rmIn v x.md) r n).1) ∧
         (1 ≤ (x.md.extractLsb' 0 2).toNat → sc = none → word = nanCode fmtF32)) ∧
  (∀ (s : State) (i : Instr) (x : LaForm) (mul : Bool) (p : LaneParts) (v : LaneEnv) (s1 : State), LaneReady s i p v s1 →
     (i = .xadde x ∧ mul = false ∨ i = .xmule x ∧ mul = true) →
     ∃ t, exec i s = .next t ∧ ∀ l ∈ actLanes v, ∀ qa qb q F,
       rational (vpfSrc s1 v (srcsLa x) x.a l) = some qa → rational (vpfSrc s1 v (srcsLa x) x.b l) = some qb →
       q = (if mul then qa * qb else qa + qb) → q ≠ 0 → F = fmtOf v.e.fmt x.ty →
       ∃ code n r, rational n = some q ∧ holdsCode s1 t v x.d x.ty l code x.yw ∧
         ((∃ c < 2 ^ F.width, rational (decodeNum F c) = some q) → rational (decodeNum F code) = some q) ∧
         ((∀ c < 2 ^ F.width, rational (decodeNum F c) ≠ some q) →
           code = (roundTo v.e.fmt F (rmIn v x.md) r n).1 ∧
             (isHelper v l = false → (∀ top, rational (decodeNum F (maxCode F)) = some top → |q| < top) → t.cur.fstat.getLsbD 6 = true))) ∧
  (∀ (s : State) (x : LaForm) (p : LaneParts) (v : LaneEnv) (s1 : State), LaneReady s (.xrnd x) p v s1 →
     ∃ t, exec (.xrnd x) s = .next t ∧ ∀ l ∈ actLanes v, ∀ a F q,
       a = vpfSrc s1 v (srcsLa x) x.a l → F = fmtOf v.e.fmt x.ty → q = (extByte x.ext).toNat →
       (a = .nan → holdsCode s1 t v x.d x.ty l (nanCode F) x.yw) ∧
       (∀ qa, rational a = some qa → q = 0 → ∃ k, roundedTo (rmIn v x.md) qa k ∧
         (k ≠ 0 → ∃ n r, rational n = some (k : ℚ) ∧ holdsCode s1 t v x.d x.ty l (roundTo v.e.fmt F (rmIn v x.md) r n).1 x.yw)) ∧
       (∀ qa, rational a = some qa → q ≠ 0 → ∃ y r, y = decodeNum (fmtVpf (min q F.prec)) (roundTo v.e.fmt (fmtVpf (min q F.prec)) (rmIn v x.md) r a).1 ∧
         holdsCode s1 t v x.d x.ty l (roundTo v.e.fmt F (rmIn v x.md) r y).1 x.yw)) ∧
  (∀ (s : State) (x : LaForm) (p : LaneParts) (v : LaneEnv) (s1 : State), LaneReady s (.xerr x) p v s1 →
     ∃ t, exec (.xerr x) s = .next t ∧ ∀ l ∈ actLanes v, ∀ a b F rm,
       a = vpfSrc s1 v (srcsLa x) x.a l → b = vpfSrc s1 v (srcsLa x) x.b l → F = fmtOf v.e.fmt x.ty → rm = rmIn v x.md →
       (rational a = none ∨ rational b = none → holdsCode s1 t v x.d x.ty l (nanCode F) x.yw) ∧
       (∀ qa qb q, rational a = some qa → rational b = some qb → q = (if x.md.getLsbD 0 then qa * qb else qa + qb) →
         ∃ n0 sum, rational n0 = some q ∧ sum = roundTo v.e.fmt F rm (lfsrGet s1.cur l) n0 ∧
           (sum.2 &&& fOF ≠ 0 → holdsCode s1 t v x.d x.ty l (nanCode F) x.yw) ∧
           (sum.2 &&& fOF = 0 → ∀ qs, rational (decodeNum F sum.1) = some qs → q - qs ≠ 0 →
             ∃ n r, rational n = some (q - qs) ∧ holdsCode s1 t v x.d x.ty l (roundTo v.e.fmt F rm r n).1 x.yw)))

/-- R57: rounding gives back a value that a format holds, in every mode and with no flag, where flushing does not touch it. -/
def Obligations.RoundingExact : Prop :=
  ∀ (f : W64) (t : Ty) (rm : Rm) (r : BitVec 16) (code : Nat), tyIsFloat t = true → tyCount t = 1 →
    code < 2 ^ tyWidth t → (∃ neg m e, decodeNum (fmtOf f t) code = .fin neg m e) →
    (flushOut f (fmtOf f t).cls = true → isSubnormal (fmtOf f t) code = false) →
    (t = .b8 → fmtP f ≠ 0) →
    t ≠ .vpf → t ≠ .vpfc →
    roundTo f (fmtOf f t) rm r (decodeNum (fmtOf f t) code) = (code, 0)

/-- R71, R204 to R212, R221 to R225: comparison, minimum and maximum, classification, the elementary functions, scaling,
conversion, packing and the exact and error forms compute in each acting lane on its own, from the state before the
instruction, and their results are written together. R204, R205, R208, R223: FMIN and FMAX write the lesser or greater source,
−0 below +0, and ignore one NaN unless `.nan` asks for it; FCMP and XCMP write the outcome of their condition, combined with
the predicate source; FCLASS writes the class of a, or whether it is one of those its mask names. R206: every element of FMATH
is one rounding of its function, which has the values of the table, the exact value where that is one, and for quotients and
roots a value that near it. The transcendental values between are the model's to 640 places (log 19). R64, R65, R66, R209,
R222: CVT and XCVT wrap or clamp an integer into an integer type, round a finite value once into a float type, and round it to
an integer by the mode, held to the type's range; NaN and infinities become what the tables say. R210, R211, R212: PACK rounds
each value of its window, scaled where asked for, into its element; UNPACK writes each element as an FP32, exactly or scaled
and rounded once; SCALEX writes the scale's code. R216, R217: RED and SCAN over floats combine the active lanes of each
segment: RED by the pairwise tree over the segment's positions, SCAN in ascending order of the lanes, up to a lane or before
it where mod bit 3 asks for it; each sum is rounded at once, with SR replaced by RNE, and flushed like any result (log 89). A
lane that does not take part keeps its registers (log 47). -/
def Obligations.LaneByLane : Prop :=
  (∀ (s : State) (i : Instr) (p : LaneParts) (v : LaneEnv) (s1 : State), LaneReady s i p v s1 →
     ∀ yw f, laneFn i = some (yw, f) → exec i s = .next (commitLane s1 (joinRes ((actLanes v).map (f v s1))) yw)) ∧
  (∀ (s : State) (i : Instr) (x : Srcs) (p : LaneParts) (v : LaneEnv) (s1 : State), LaneReady s i p v s1 →
     (∀ greater, (∃ f, i = (if greater then .fmax f else .fmin f) ∧ x = srcsLa f) ∨
         (∃ f, i = (if greater then .fmaxLi f else .fminLi f) ∧ x = srcsLi f) →
       ∃ t, exec i s = .next t ∧ ∀ l ∈ actLanes v, ∃ word, holds s1 t x.d 1 l word x.yw ∧ ∀ j, j < tyCount x.ty → ∀ a b,
         a = srcNum v x (readTy s1 v x.a x.ty l) j false false → b = srcNum v x (readB s1 v x x.ty l) j false false →
         elemAt x.ty word j =
           (roundTo v.e.fmt (fmtOf v.e.fmt (tyElem x.ty)) .rne 0 (chosen greater (x.md.getLsbD 0) a b)).1) ∧
     ((∃ f, (i = .fcmp f ∨ i = .xcmp f) ∧ x = srcsLa f) ∨ (∃ f, i = .fcmpLi f ∧ x = srcsLi f) →
       ∃ t, exec i s = .next t ∧ ∀ l ∈ actLanes v, ∀ a b q m,
         a = readNum v.e.fmt (fmtOf v.e.fmt x.ty) (readCode s1 v x.a x.ty l) →
         b = readNum v.e.fmt (fmtOf v.e.fmt x.ty) (readCodeB s1 v x x.ty l) →
         q = condHolds (x.md.extractLsb' 0 3).toNat a b →
         m = (match (x.md.extractLsb' 3 2).toNat with
           | 0 => q | 1 => q && readPred s1 x.c l | 2 => q || readPred s1 x.c l | _ => q != readPred s1 x.c l) →
         holdsTest s1 t x.d 1 (if tyIsVpf x.ty then 32 else tyWidth x.ty) l m x.yw) ∧
     (∀ f, i = .fclass f → x = srcsLa f →
       ∃ t, exec i s = .next t ∧ ∀ l ∈ actLanes v, ∀ k, k = classOf (fmtOf v.e.fmt x.ty) (readCode s1 v x.a x.ty l) →
         (isPred x.d = true → holdsTest s1 t x.d 1 1 l (x.md.getLsbD k) x.yw) ∧
         (isPred x.d = false → holds s1 t x.d 1 l (2 ^ k) x.yw))) ∧
  (∀ (s : State) (i : Instr) (x : Srcs) (p : LaneParts) (v : LaneEnv) (s1 : State), LaneReady s i p v s1 →
     (∃ f, i = .fmath f ∧ x = srcsLa f) ∨ (∃ f, i = .fmathDivLi f ∧ x = srcsLi f) →
     ∃ t, exec i s = .next t ∧ ∀ l ∈ actLanes v, ∃ word, holds s1 t x.d 1 l word x.yw ∧ ∀ j, j < tyCount x.ty → ∀ fn a b,
       fn = (x.md.extractLsb' 0 4).toNat → a = srcNum v x (readTy s1 v x.a x.ty l) j false false →
       b = srcNum v x (if fn = 8 then readB s1 v x x.ty l else 0) j false false →
       ∃ n r, functionIs fn a b n ∧ elemAt x.ty word j = (roundTo v.e.fmt (fmtOf v.e.fmt (tyElem x.ty)) (rmIn v x.md) r n).1) ∧
  (∀ (s : State) (i : Instr) (x : LaForm) (p : LaneParts) (v : LaneEnv) (s1 : State), LaneReady s i p v s1 →
     (i = .cvt x ∨ i = .xcvt x) → ∀ ts, extTy x.ext = some ts →
     ∃ t, exec i s = .next t ∧ ∀ l ∈ actLanes v, ∀ f F rm n, f = v.e.fmt → F = fmtOf f x.ty → rm = rmIn v x.md → n = slotsOf f x.ty →
       (tyIsInt x.ty = true → tyIsInt ts = true →
         holds s1 t x.d n l (intWord x.ty (clamped x.ty (x.md.getLsbD 0) (asInt ts (readTy s1 v x.a ts l)))) x.yw) ∧
       (tyIsInt x.ty = true → tyIsInt ts = false →
         (∀ q, sourceRational s1 v x.a ts l = some q → ∃ k, roundedTo rm q k ∧ holds s1 t x.d n l (intWord x.ty (clamped x.ty true k)) x.yw) ∧
         (srcValue s1 v x.a ts l = .nan → holds s1 t x.d n l 0 x.yw) ∧
         (∀ neg, srcValue s1 v x.a ts l = .inf neg →
           holds s1 t x.d n l (intWord x.ty (clamped x.ty true (if neg then -2 ^ 64 else 2 ^ 64))) x.yw)) ∧
       (tyIsInt x.ty = false → ∃ code, holdsCode s1 t v x.d x.ty l code x.yw ∧
         (∀ q, sourceRational s1 v x.a ts l = some q → convertsTo f F rm q code) ∧
         (srcValue s1 v x.a ts l = .nan → code = nanCode F) ∧
         ∀ neg, srcValue s1 v x.a ts l = .inf neg → infinityTo f F neg code)) ∧
  (∀ (s : State) (i : Instr) (x : LaForm) (p : LaneParts) (v : LaneEnv) (s1 : State), LaneReady s i p v s1 →
     (i = .pack x → ∃ t, exec i s = .next t ∧ ∀ l ∈ actLanes v, ∃ word, holds s1 t x.d 1 l word x.yw ∧
       ∀ j, j < tyCount x.ty → ∀ a sc F, F = fmtOf v.e.fmt (tyElem x.ty) →
         a = readNum v.e.fmt fmtF32 (windowSlot s1 v x.a (tyCount x.ty) j l) →
         sc = (if x.md.getLsbD 0 then scaleCode (readB32 s1 v (srcsLa x) l) else some 1) →
         (∀ qa k, rational a = some qa → sc = some k → convertsTo v.e.fmt F (rmIn v x.md) (qa / k) (elemAt x.ty word j)) ∧
         (a = .nan ∨ sc = none → elemAt x.ty word j = nanCode F) ∧
         (∀ neg, a = .inf neg → sc ≠ none → infinityTo v.e.fmt F neg (elemAt x.ty word j))) ∧
     (i = .unpack x → ∀ ts, extTy x.ext = some ts → ∃ t, exec i s = .next t ∧ ∀ l ∈ actLanes v, ∃ val,
       holds s1 t x.d (tyCount ts) l val x.yw ∧ ∀ j, j < tyCount ts → ∀ a sc,
         a = readNum v.e.fmt (fmtOf v.e.fmt (tyElem ts)) (elemAt ts (readTy s1 v x.a ts l) j) →
         sc = (if x.md.getLsbD 0 then scaleCode (readB32 s1 v (srcsLa x) l) else some 1) →
         (∀ qa k, rational a = some qa → sc = some k → qa ≠ 0 → ∃ n r, rational n = some (qa * k) ∧
           val / 2 ^ (32 * j) % 2 ^ 32 = (roundTo v.e.fmt fmtF32 (if x.md.getLsbD 0 then rmIn v x.md else .rne) r n).1) ∧
         (a = .nan ∨ sc = none → val / 2 ^ (32 * j) % 2 ^ 32 = nanCode fmtF32)) ∧
     (i = .scalex x → ∃ t, exec i s = .next t ∧ ∀ l ∈ actLanes v, ∃ code, holds s1 t x.d 1 l code x.yw ∧
       ∀ ts, extTy x.ext = some ts →
         scaleFor (fmtOf v.e.fmt ts) (readNum v.e.fmt fmtF32 (readTy s1 v x.a .f32 l)) code)) ∧
  (∀ (s : State) (i : Instr) (x : LaForm) (scan : Bool) (p : LaneParts) (v : LaneEnv) (s1 : State), LaneReady s i p v s1 →
     (i = .red x ∧ scan = false ∨ i = .scan x ∧ scan = true) →
     exec i s = .next (redBody scan (srcsLa x) v s1) ∧
     (∀ rm a b qa qb, rational a = some qa → rational b = some qb → rational (numAdd rm a b).1 = some (qa + qb)) ∧
     ∃ t, exec i s = .next t ∧ (tyIsInt x.ty = false →
       (∀ key, v.active.getLsbD (key % 32) = false → laneGet t.cur key = laneGet s1.cur key) ∧
       ∀ l, l < 32 → v.active.getLsbD l = true → ∀ f F op rm c comb, f = v.e.fmt → F = fmtOf f x.ty → op = (x.md.extractLsb' 0 3).toNat →
         rm = (if rmIn v x.md = .sr then .rne else rmIn v x.md) → c = (if scan then x.md.extractLsb' 4 3 else x.md.extractLsb' 3 3).toNat →
         comb = combined f F rm op →
         (scan = false → ∀ r, pairTree comb (fun k => if v.active.getLsbD (l / 2 ^ (5 - c) * 2 ^ (5 - c) + k) then
             some (reduced s1 v (srcsLa x) op (l / 2 ^ (5 - c) * 2 ^ (5 - c) + k)) else none) (5 - c) 0 = some r →
           holdsCode s1 t v x.d x.ty l (roundTo f F .rne 0 r).1 x.yw) ∧
         (scan = true → ∀ lanes, lanes = (List.range 32).filter (fun k => v.active.getLsbD k &&
             decide (k / 2 ^ (5 - c) = l / 2 ^ (5 - c)) && (decide (k < l) || (!x.md.getLsbD 3 && decide (k = l)))) →
           holdsCode s1 t v x.d x.ty l
             (roundTo f F .rne 0 (runningOf comb op (lanes.map fun k => reduced s1 v (srcsLa x) op k))).1 x.yw)))

/-- R213, R214, R215: LPERM, QXCH and QBC give each acting lane operand a of the lane their rule names, or 0 where that lane
does not act and its slot is out of range; QXCH and QBC stay within the quad. R216, R217: RED over integers gives every active
lane of a segment the sum, least, greatest, AND, OR or XOR of the segment's active lanes; SCAN gives it that of the active
lanes up to it, or before it where mod bit 3 asks for it, the identity for none. A lane that does not take part, a helper lane
too (log 47), keeps its registers. R226, R227, R228: MOV, MOVI, SEL and SPEC write the slots their rules give; PFN3 writes its
table's bit for the three predicates. R229: IXSET writes the enabled fields of x(k) in every acting lane and keeps the others.
R218: PPOLL gives every active lane whether all, any, or all or none of the active lanes hold the predicate, or the mask of
those that do. -/
def Obligations.LanePermute : Prop :=
  (∀ (s : State) (i : Instr) (x : LaForm) (p : LaneParts) (v : LaneEnv) (s1 : State), LaneReady s i p v s1 →
     (i = .lperm x ∨ i = .qxch x ∨ i = .qbc x) →
     ∃ t, exec i s = .next t ∧ ∀ l ∈ actLanes v, ∀ k, k = sourceLane s1 v l i →
       (i ≠ .lperm x → k / 4 = l / 4) ∧
       holds s1 t x.d (slotsOf v.e.fmt x.ty) l
         (extTyBits x.ty (if slotInRange s1.cur x.a (slotsOf v.e.fmt x.ty) k then readTy s1 v x.a x.ty k else 0)) x.yw) ∧
  (∀ (s : State) (i : Instr) (x : LaForm) (scan : Bool) (p : LaneParts) (v : LaneEnv) (s1 : State), LaneReady s i p v s1 →
     (i = .red x ∧ scan = false ∨ i = .scan x ∧ scan = true) → tyIsInt x.ty = true →
     ∃ t, exec i s = .next t ∧
       (∀ key, v.active.getLsbD (key % 32) = false → laneGet t.cur key = laneGet s1.cur key) ∧
       ∀ l, l < 32 → v.active.getLsbD l = true → ∀ g op,
       g = 32 / 2 ^ (if scan then x.md.extractLsb' 4 3 else x.md.extractLsb' 3 3).toNat → op = (x.md.extractLsb' 0 3).toNat →
       ∀ lanes, lanes = (List.range 32).filter (fun k => v.active.getLsbD k && decide (k / g = l / g) &&
           (!scan || decide (k < l) || (!x.md.getLsbD 3 && decide (k = l)))) →
       ∀ first, first = identInt x.ty op →
         holds s1 t x.d (slotsOf v.e.fmt x.ty) l
           (extTyBits x.ty ((lanes.map fun k => readTy s1 v x.a x.ty k).foldl (fun a b => (redInt x.ty op a b).1) first)) x.yw) ∧
  (∀ (s : State) (i : Instr) (p : LaneParts) (v : LaneEnv) (s1 : State), LaneReady s i p v s1 →
     (∀ l0 n0 w0, moveValue s1 v l0 i = some (n0, w0) → ∃ t, exec i s = .next t ∧ ∀ l ∈ actLanes v, ∀ n w,
       moveValue s1 v l i = some (n, w) → holds s1 t p.d n l w p.yw) ∧
     (∀ x, i = .pfn3 x → ∃ t, exec i s = .next t ∧ ∀ l ∈ actLanes v,
       holdsTest s1 t x.d 1 1 l ((extByte x.ext).toNat.testBit
         ((readPred s1 x.a l).toNat + 2 * (readPred s1 x.b l).toNat + 4 * (readPred s1 x.c l).toNat)) x.yw)) ∧
  (∀ (s : State) (x : LaForm) (p : LaneParts) (v : LaneEnv) (s1 : State), LaneReady s (.ixset x) p v s1 →
     ∃ t, exec (.ixset x) s = .next t ∧ ∀ l ∈ actLanes v, ∀ k, k = (x.md.extractLsb' 0 2).toNat →
       (ixGet t.cur l k).extractLsb' 0 16 =
         (if x.md.getLsbD 2 then BitVec.ofNat 16 (readTy s1 v x.a .i32 l) else (ixGet s1.cur l k).extractLsb' 0 16) ∧
       (ixGet t.cur l k).extractLsb' 16 8 =
         (if x.md.getLsbD 3 then BitVec.ofNat 8 (readTy s1 v x.b .i32 l) else (ixGet s1.cur l k).extractLsb' 16 8) ∧
       (ixGet t.cur l k).extractLsb' 24 8 =
         (if x.md.getLsbD 4 then BitVec.ofNat 8 (readTy s1 v x.c .i32 l) else (ixGet s1.cur l k).extractLsb' 24 8) ∧
       ∀ j, j < 4 → j ≠ k → ixGet t.cur l j = ixGet s1.cur l j) ∧
  (∀ (s : State) (x : LaForm) (p : LaneParts) (v : LaneEnv) (s1 : State), LaneReady s (.ppoll x) p v s1 →
     ∃ t, exec (.ppoll x) s = .next t ∧ ∀ l ∈ lanesOf v.active, isHelper v l = false →
       ((x.md.extractLsb' 0 2).toNat = 0 → holdsTest s1 t x.d 1 1 l (decide (∀ k ∈ lanesOf v.active, readPred s1 x.a k = true)) x.yw) ∧
       ((x.md.extractLsb' 0 2).toNat = 1 → holdsTest s1 t x.d 1 1 l (decide (∃ k ∈ lanesOf v.active, readPred s1 x.a k = true)) x.yw) ∧
       ((x.md.extractLsb' 0 2).toNat = 3 → holdsTest s1 t x.d 1 1 l
         (decide ((∀ k ∈ lanesOf v.active, readPred s1 x.a k = true) ∨ ∀ k ∈ lanesOf v.active, readPred s1 x.a k = false)) x.yw) ∧
       ((x.md.extractLsb' 0 2).toNat = 2 → holds s1 t x.d 1 l
         (fromBits 32 fun k => v.active.getLsbD k && readPred s1 x.a k) x.yw))

/-! ### Lane memory (R230 to R247) -/

/-- R100, R230, R231, R234, R237: LD and LDV of lanes whose accesses succeed issue as a long-latency operation that returns data: in each active
lane the element bytes memory holds, extended to the type, or the memory element rounded to the destination's precision. -/
def Obligations.LaneLoads : Prop :=
  ∀ (s : State) (i : Instr) (m : MemParts) (v : LaneEnv) (s1 : State) (run : Nat → List Run), MemReady s i m v s1 → orderReady m.x s1 →
    LanesReach s1 m.x v (lanesOf v.active) (laneChk v.e.fmt s1 i) (laneWrites i) run →
    ∀ walked, walked = (actLanes v).flatMap run →
    ∀ held, held = (fun (l : Nat) (bytes : List Byte) => ∀ k, k < bytes.length →
        ∃ a, byteAddress (run l) k = some a ∧ ¬ leafByte walked a ∧ bytes[k]? = some (memGet s1 a)) →
    (i = .laneLd m.x ∨ i = .ldv m.x) →
    ∃ t s2 ws, exec i s = .next t ∧ LongIssued v (longOp s2 v true [] ws .plain) s2 t ∧ touchedRest s1 s2 ∧
      s1.cur.fstat &&& s2.cur.fstat = s1.cur.fstat ∧ (i = .laneLd m.x → groupKept s1 s2) ∧
      writesOnly ws s1.cur m.x.data (if i = .ldv m.x then slotsOf v.e.fmt m.x.ty else lmSlots m.x) (actLanes v) ∧
      (∀ a, ¬ leafByte walked a → memGet s2 a = memGet s1 a) ∧
      ∀ l ∈ lanesOf v.active,
        (i = .laneLd m.x → ∀ j n bytes q key w, j < vecCount m.x.vec → n = elemBytes m.x.ty →
          bytes.length = n * vecCount m.x.vec → held l bytes →
          (elemSlots m.x.ty ((bytes.drop (n * j)).take n))[q]? = some w →
          (opndKeys s1.cur m.x.data (lmSlots m.x) l)[j * (if tyWidth m.x.ty = 64 then 2 else 1) + q]? = some key → (key, w) ∈ ws) ∧
        (i = .ldv m.x → ∀ b rest, held l (b :: rest) → rest.length + 1 = vpfSize b.toNat →
          ∃ r : BitVec 16, ∀ q key,
            (opndKeys s1.cur m.x.data (slotsOf v.e.fmt m.x.ty) l)[q]? = some key →
            (key, BitVec.ofNat 32 (codeWindow (vpfPrec v.e.fmt m.x.ty)
              (roundTo v.e.fmt (fmtOf v.e.fmt m.x.ty) (rmIn v 0) r
                (readNum v.e.fmt (fmtVpf (vpfElement (b :: rest)).1) (vpfElement (b :: rest)).2)).1 / 2 ^ (32 * q))) ∈ ws)

/-- R100, R230, R231, R234, R238, R239: ST and STV of lanes whose accesses succeed store each active lane's elements, the
lanes in ascending order, and no other byte of memory but of walked page-table entries; PREF changes no register and no byte
of memory, and asks for words of the lines its lanes touch and of no other: for each such word that the cluster does not hold
and has no slot open for, a request is outstanding. Each goes on as a long-latency operation that returns nothing, PREF's as
one that waits for what it asked for. R231, R232: where the access of an active lane fails, the instruction raises the first
cause, in the order of R138, that any lane meets, with the address of the lowest lane that meets it, and performs no access. A
misaligned address comes first, before the granules of the data operand fill (R138). R138, R231, R232, R235: a lane memory
instruction with a misaligned address in an active lane raises 0x0D with that of the lowest such lane, and performs no
access. -/
def Obligations.LaneStores : Prop :=
  (∀ (s : State) (i : Instr) (m : MemParts) (v : LaneEnv) (s1 : State) (run : Nat → List Run), MemReady s i m v s1 →
     (orderReady m.x s1 → LanesReach s1 m.x v (lanesOf v.active) (laneChk v.e.fmt s1 i) (laneWrites i) run → (i = .laneSt m.x ∨ i = .stv m.x) →
       ∃ t s2, exec i s = .next t ∧ LongIssued v (longOp s2 v false [] [] .plain) s2 t ∧ touchedRest s1 s2 ∧ groupKept s1 s2 ∧
         (∀ a, ¬ leafByte ((lanesOf v.active).flatMap run) a → (∀ l ∈ lanesOf v.active, ∀ r ∈ run l, a < r.pa ∨ r.pa + r.len ≤ a) →
           memGet t a = memGet s1 a) ∧
         ∀ l ∈ lanesOf v.active, ∀ k a b, lastStored (lanesOf v.active) run l k a → ¬ leafByte ((lanesOf v.active).flatMap run) a →
           (laneBytes i v s1 l)[k]? = some b → memGet t a = b) ∧
     (i = .pref m.x → ∃ t s2 ids, exec i s = .next t ∧ LongIssued v (longOp s2 v false [] [] (.pref ids)) s2 t ∧
       { s2 with planes := s1.planes, reqs := s1.reqs, nextId := s1.nextId } = s1 ∧ (∀ r ∈ s1.reqs, r ∈ s2.reqs) ∧
       (∀ id ∈ ids, ∃ r ∈ s2.reqs, r.slot = id ∧ r.cluster = s1.cur.cluster ∧ touchesLine s1 m.x v r.line) ∧
       (∀ r ∈ s2.reqs, r ∈ s1.reqs ∨ r.slot ∈ ids ∧ r.cluster = s1.cur.cluster ∧ touchesLine s1 m.x v r.line) ∧
       ∀ line w, touchesLine s1 m.x v line → w < 32 → stateOf (wordDir s1 (line * 128 + 4 * w)) s1.cur.cluster = none →
         slotOpen s1 s1.cur.cluster (line * 128 + 4 * w) (fun _ => true) = false →
         ∃ r ∈ s2.reqs, r.cluster = s1.cur.cluster ∧ r.line = line ∧ r.mask.getLsbD w = true ∧ r.slot ∈ ids)) ∧
  (∀ (s : State) (i : Instr) (m : MemParts) (v : LaneEnv) (s1 : State), MemReady s i m v s1 → orderReady m.x s1 →
     (i = .laneLd m.x ∨ i = .ldv m.x ∨ i = .stv m.x ∨ i = .atom m.x ∨ i = .atomc m.x ∨ i = .laneSt m.x ∧ bcastLine m.x v s1 = none) →
     ∀ c l, laneChk v.e.fmt s1 i (lmEa m.x v s1 l) = .error c → l ∈ lanesOf v.active → c ∈ [0x0D, 0x08, 0x09, 0x0B, 0x0C, 0x12] →
       (∀ k ∈ lanesOf v.active, ∀ e, laneChk v.e.fmt s1 i (lmEa m.x v s1 k) = .error e →
         (e = c ∧ l ≤ k) ∨ causeOrder.idxOf c < causeOrder.idxOf e) →
       exec i s = .next (laneTrap s1 c (lmEa m.x v s1 l))) ∧
  (∀ (s : State) (i : Instr) (m : MemParts) (v : LaneEnv) (u : State) (l : Nat), MemFrame s i m v → addressesKnown s m v = some u →
     l ∈ lanesOf v.active → (lmEa m.x v u l).toNat % laneAlign i ≠ 0 →
     (∀ k ∈ lanesOf v.active, k < l → (lmEa m.x v u k).toNat % laneAlign i = 0) →
     exec i s = .next (laneTrap s 0x0D (lmEa m.x v u l)))

/-- R100, R245, R246, R247: ATOM and ATOMC read the word of each active lane, store what the operation gives, or nothing where a compare fails, and
return the old word where the data operand takes it; a word no other lane names is changed once. -/
def Obligations.LaneAtomics : Prop :=
  ∀ (s : State) (i : Instr) (m : MemParts) (v : LaneEnv) (s1 : State) (run : Nat → List Run) (cas : Bool) (f : Nat → Nat → Option Nat),
    MemReady s i m v s1 → orderReady m.x s1 → LanesReach s1 m.x v (lanesOf v.active) (laneChk v.e.fmt s1 i) (laneWrites i) run → atomOp v.e.fmt i = some (cas, f) →
    ∃ t s2 ws, exec i s = .next t ∧ LongIssued v (longOp s2 v (atomReturns m.x.data) [] ws .plain) s2 t ∧ touchedRest s1 s2 ∧ groupKept s1 s2 ∧
      writesOnly ws s1.cur m.x.data (atomSize m.x.ty / 4) (lanesOf v.active) ∧
      (∀ a, ¬ leafByte ((lanesOf v.active).flatMap run) a → (∀ l ∈ lanesOf v.active, ∀ r ∈ run l, a < r.pa ∨ r.pa + r.len ≤ a) →
        memGet t a = memGet s1 a) ∧
      (atomReturns m.x.data = false → ws = []) ∧
      ∀ l ∈ lanesOf v.active, ∀ r, run l = [r] → r.len = atomSize m.x.ty → (∀ k, k < r.len → ¬ leafByte ((lanesOf v.active).flatMap run) (r.pa + k)) →
        (∀ k ∈ lanesOf v.active, k ≠ l → ∀ q ∈ run k, q.pa + q.len ≤ r.pa ∨ r.pa + r.len ≤ q.pa) →
        ∀ old, old = leValue (memRead s1 r.pa r.len) →
          (∀ new, f old (readSlots s1 v m.x.data (atomSlots cas m.x) (some m.x.ty) l) = some new →
            memRead t r.pa r.len = littleEndian new r.len) ∧
          (f old (readSlots s1 v m.x.data (atomSlots cas m.x) (some m.x.ty) l) = none → memRead t r.pa r.len = memRead s1 r.pa r.len) ∧
          (atomReturns m.x.data = true → ∀ j key, (opndKeys s1.cur m.x.data (r.len / 4) l)[j]? = some key →
            (key, BitVec.ofNat 32 (old / 2 ^ (32 * j))) ∈ ws)

/-- R112, R241, R242, R243: FESET, ST.fill and ST.empty leave the words of the executing lanes full or empty, with the data
stored by the two stores, and every other bit and byte as it was. LDFE, STFE and LD.wf whose words are all in the state they
wait for, with nobody waiting, perform at once: they read the words or store theirs, and leave them empty, full or as they
were; with some word not in that state they wait for the lanes whose words are not, having performed for the others. R112,
R242, R244: a waiting full/empty instruction whose last word comes to the state it waits for performs and goes on; one whose
wait limit has passed ends with trap 0x0E, the lanes not performed in `tval` and what the others read in their registers. -/
def Obligations.FullEmpty : Prop :=
  (∀ (s : State) (i : Instr) (m : MemParts) (v : LaneEnv) (s1 : State) (run : Nat → List Run) (pa : Nat → Nat), MemReady s i m v s1 →
     LanesReach s1 m.x v (feActive v s1) (laneChk v.e.fmt s1 i) (laneWrites i) run → (∀ l ∈ feActive v s1, ∃ r, run l = [r] ∧ r.pa = pa l ∧ r.len = 4) →
     (∀ l ∈ feActive v s1, ∀ k ∈ feActive v s1, l ≠ k → pa l + 4 ≤ pa k ∨ pa k + 4 ≤ pa l) →
     ∀ word, word = (fun (u : State) (l : Nat) => leValue (memRead u (pa l) 4)) →
     ∀ data : Nat → W32, data = (fun l => BitVec.ofNat 32 (readSlots s1 v m.x.data 1 (some m.x.ty) l)) →
     (∀ full stores, feSets i = some (full, stores) → feOrder m.x s1 → (m.x.order = 4 → m.x.scope = 4 ∨ m.x.scope = 5 → ScTurn s1 .lane 0) →
       ∃ t s2, exec i s = .next t ∧ LongIssued v (longOp s2 v false [] [] .plain) s2 t ∧ touchedRest { s1 with fe := s2.fe } s2 ∧ groupKept s1 s2 ∧
         (∀ l ∈ feActive v s1, feFull t (pa l) = full ∧ word t l = if stores then (data l).toNat else word s1 l) ∧
         (∀ p, (∀ l ∈ feActive v s1, p ≠ pa l) → feFull t p = feFull s1 p) ∧
         (∀ a, (∀ l ∈ feActive v s1, a < pa l ∨ pa l + 4 ≤ a) → memGet t a = memGet s1 a)) ∧
     (∀ load keep, feWaits i = some (load, keep) → s1.cur.feWait = none → (load = false → feOrder m.x s1) → feTurn m.x s1 →
       (∀ g ∈ allGroups s1, g.feWait = none) →
       ((∀ l ∈ feActive v s1, feFull s1 (pa l) = load) →
         ∃ t s2 ws, exec i s = .next t ∧ LongIssued v (longOp s2 v load [] ws .plain) s2 t ∧ s2.cur = { s1.cur with feWait := none, feDone := 0 } ∧
           (∀ l ∈ feActive v s1, feFull t (pa l) = (!load || keep) ∧ word t l = if load then word s1 l else (data l).toNat) ∧
           (∀ p, (∀ l ∈ feActive v s1, p ≠ pa l) → feFull t p = feFull s1 p) ∧
           (∀ a, (load = true ∨ ∀ l ∈ feActive v s1, a < pa l ∨ pa l + 4 ≤ a) → memGet t a = memGet s1 a) ∧
           (load = false → ws = []) ∧ writesOnly ws s1.cur m.x.data 1 (feActive v s1) ∧
           (load = true → ∀ l ∈ feActive v s1, ∀ key, (opndKeys s1.cur m.x.data 1 l)[0]? = some key → (key, BitVec.ofNat 32 (word s1 l)) ∈ ws)) ∧
       ((∃ l ∈ feActive v s1, feFull s1 (pa l) ≠ load) →
         ∃ t w, exec i s = .next t ∧ t.cur = { s1.cur with feWait := some w } ∧
           (∀ l, (∃ x ∈ w.left, x.lane = l) ↔ l ∈ feActive v s1 ∧ feFull s1 (pa l) ≠ load) ∧
           (∀ l ∈ feActive v s1, feFull s1 (pa l) = load → feFull t (pa l) = (!load || keep)) ∧
           w.load = load ∧ w.keep = keep ∧ w.issued = s.time))) ∧
  (∀ (s : State) (w : FeWait) (e : QEntry) (x : FeLane), s.cur.feWait = some w → running s.cur = some e → w.left = [x] →
     (∀ v, v.e = e → feFull s x.word = w.load → feExpired s w = false → ownedByEngine s x.word 4 = false →
       scMay s .lane w.order w.scope x.lane = true → (∀ g ∈ allGroups s, ∀ u, g.feWait = some u → w.ticket ≤ u.ticket) →
       ∃ t s2 ws, exec .fullEmptyPerform s = .next t ∧ LongIssued v (longOp s2 v w.load [] ws .plain) s2 t ∧
         s2.cur = { s.cur with feWait := none, feDone := 0, scOpen := s2.cur.scOpen } ∧
         ws = (if w.load then w.writes ++ [(x.key, BitVec.ofNat 32 (leValue (memRead s x.word 4)))] else w.writes) ∧
         feFull t x.word = (!w.load || w.keep) ∧ (w.load = false → memRead t x.word 4 = littleEndian x.data.toNat 4)) ∧
     (feExpired s w = true →
       exec .fullEmptyWaitExpired s = .next (laneTrap
         { s with cur := { s.cur with lanes := spSetAll s.cur.lanes w.writes, feWait := some { w with writes := [] } } }
         0x0E (BitVec.ofNat 64 (2 ^ x.lane % 2 ^ 32))) ∧
       exec .fullEmptyPerform s = .next s) ∧
     (feExpired s w = false → exec .fullEmptyWaitExpired s = .next s))

/-! ### Matrix instructions and tiles (R28, R68, R248 to R262) -/

/-- R254, R257, R260, R261, R262: MMA, MMAS and ACCZ, where they may issue, issue as open matrix operations with their A
operand and scales captured; ACCLD, ACCST, ACCRD and ACCWR issue as long-latency operations on their tile, with the rows,
addresses and elements their lanes name, each once, and no other. A tile store with SC waits for its turn when it is
performed, not when it issues (log 96). R28, R250, R252, R257, R258, R295: MBFEN closes the open batch under the next number;
MBWAIT of a batch that has completed goes on, of one that has not waits, of one with an error raises 0x14 with its number,
once (log 51): the error stands until the trap is taken; a matrix instruction traps on tiles beyond the group's, on a
predicate other than p0 or a partial mask, and in a handler before MSAVE. -/
def Obligations.MatrixIssue : Prop :=
  (∀ (s : State) (i : Instr) (m : MatParts) (v : LaneEnv) (s1 : State), MatReady s i m v s1 →
     (∀ x, i = .accz x → (matrixOuts s1.cur).length < 64 →
       ∃ t o, exec i s = .next t ∧ MatrixIssued v o s1 t ∧ o.act = .accz m.tile ∧ o.tiles = [m.tile] ∧ o.band = none) ∧
     (∀ x scaled, (i = .mma x ∧ scaled = false) ∨ (i = .mmas x ∧ scaled = true) → (matrixOuts s1.cur).length < 64 →
       (x.band = true → bandModeOk s = true) →
       mmaFault x scaled (mmaCrew x s1).splen (sreg s1 x.bBase) (if scaled then sreg s1 x.bScale else 0) = none →
       ∃ t o op, exec i s = .next t ∧ MatrixIssued v o s1 t ∧ o.act = .mma op ∧ o.tiles = mmaTiles x ∧ o.band.isSome = x.band ∧
         op.form = x ∧ op.scaled = scaled ∧ op.fmt = v.e.fmt ∧ op.mark = s1.hist.length ∧
         op.bBase = scratchPa (mmaCrew x s1).cluster (mmaCrew x s1).core ((mmaCrew x s1).spbase + (sreg s1 x.bBase).toNat) ∧
         (scaled = true → op.bScaleBase =
           scratchPa (mmaCrew x s1).cluster (mmaCrew x s1).core ((mmaCrew x s1).spbase + (sreg s1 x.bScale).toNat)) ∧
         ∀ a, x.a = .v a → ∀ j l, l < 32 →
           (j < mmaASlots x → spGet op.aData (j * 32 + l) = laneRead s1 ((a.toNat + j) * 32 + l)) ∧
           (scaled = true → j < mmaScaleSlots x → spGet op.aScale (j * 32 + l) = laneRead s1 ((x.aScale.toNat + j) * 32 + l))) ∧
     (∀ (x : LmForm) (run : Nat → List Run), i = .accld x ∨ i = .accst x → (longOuts s1.cur).length < 64 →
       (i = .accld x → orderReady x s1) → (i = .accst x → releaseDone x s1) →
       LanesReach s1 x v (lanesOf v.active) (laneChk v.e.fmt s1 i) (laneWrites i) run → (∀ l ∈ lanesOf v.active, ∀ r ∈ run l, r.len % 4 = 0) →
       ∃ t s2 ws dst, exec i s = .next t ∧
         LongIssued v (longOp s2 v false [m.tile] [] (if i = .accld x then .accld m.tile ws else .accst m.tile dst)) s2 t ∧
         (i = .accld x → touchedRest s1 s2 ∧ groupKept s1 s2) ∧ (i = .accst x → storeIssued x s1 s2) ∧
         (ws.map (·.1)).Nodup ∧ (∀ p ∈ ws, ∃ l ∈ lanesOf v.active, ∃ j < 128, p.1 = l * 128 + j) ∧
         (dst.map (·.1)).Nodup ∧ (∀ p ∈ dst, ∃ l ∈ lanesOf v.active, ∃ j < 128, p.1 = l * 128 + j ∧ byteAddress (run l) (4 * j) = some p.2.1) ∧
         (∀ a, ¬ leafByte ((lanesOf v.active).flatMap run) a → memGet t a = memGet s1 a) ∧
         ∀ l ∈ lanesOf v.active, ∀ j a, j < 128 → byteAddress (run l) (4 * j) = some a →
           (i = .accst x → ∃ pol, (l * 128 + j, a, pol) ∈ dst) ∧
           (i = .accld x → (∀ k, k < 4 → ¬ leafByte ((lanesOf v.active).flatMap run) (a + k)) →
             (l * 128 + j, BitVec.ofNat 32 (leValue (memRead s1 a 4))) ∈ ws)) ∧
     (∀ x, i = .accrd x → (longOuts s1.cur).length < 64 →
       ∃ t src, exec i s = .next t ∧ LongIssued v (longOp s1 v true [m.tile] [] (.accrd m.tile src)) s1 t ∧ writesOnly src s1.cur x.d 4 (lanesOf v.active) ∧
         ∀ l ∈ lanesOf v.active, ∀ j key, j < 4 → (opndKeys s1.cur x.d 4 l)[j]? = some key →
           (key, readSlots s1 v x.a 1 none l % 32 * 128 + l + 32 * j) ∈ src) ∧
     (∀ x, i = .accwr x → (longOuts s1.cur).length < 64 →
       ∃ t ws, exec i s = .next t ∧ LongIssued v (longOp s1 v false [m.tile] [] (.accwr m.tile ws)) s1 t ∧
         (ws.map (·.1)).Nodup ∧ (∀ p ∈ ws, ∃ l ∈ lanesOf v.active, ∃ j < 4, p.1 = readSlots s1 v x.b 1 none l % 32 * 128 + l + 32 * j) ∧
         ∀ l ∈ lanesOf v.active, ∀ j, j < 4 →
           (readSlots s1 v x.b 1 none l % 32 * 128 + l + 32 * j,
             BitVec.ofNat 32 (readSlots s1 v x.a 4 (some .f32) l / 2 ^ (32 * j))) ∈ ws)) ∧
  (∀ (s : State) (i : Instr) (m : MatParts) (v : LaneEnv) (s1 : State),
     (MatReady s i m v s1 →
       (∀ x, i = .mbfen x → s1.cur.batches.length < 64 → ∃ t, exec i s = .next t ∧ t.cur.bctr = s1.cur.bctr + 1 ∧ t.cur.openOps = [] ∧
         ClauseMoved s1.cur t.cur v.e ∧ t.cur.outs = s1.cur.outs ∧ t.cur.lanes = s1.cur.lanes ∧
         (∀ b r, s1.cur.batches ++ [{ num := s1.cur.bctr, ops := s1.cur.openOps }] = b :: r →
           (∃ q ∈ b.ops, ∃ o ∈ s1.cur.outs, o.seq = q) →
           t.cur.batches = b :: r ∧ t.cur.mbdone = s1.cur.mbdone ∧ t.cur.merr = s1.cur.merr) ∧
         (s1.cur.batches = [] → (∀ q ∈ s1.cur.openOps, ∀ o ∈ s1.cur.outs, o.seq ≠ q) →
           t.cur.batches = [] ∧ t.cur.mbdone = s1.cur.bctr)) ∧
       (∀ x b, i = .mbwait x → b = (x.imm.setWidth 16 : BitVec 16) → 1 ≤ (s.cur.bctr - b).toNat → (s.cur.bctr - b).toNat ≤ 64 →
         (32768 ≤ (s1.cur.mbdone - b).toNat → exec i s = .next s1) ∧
         ((s1.cur.mbdone - b).toNat < 32768 →
           (b ∉ s1.cur.merr → ∃ t, exec i s = .next t ∧ ClauseMoved s1.cur t.cur v.e ∧
             { t with cur := { t.cur with queue := s1.cur.queue, flags := s1.cur.flags } } = s1) ∧
           (b ∈ s1.cur.merr →
             (∀ t, trapWaits s1 true = some t → exec i s = .next t) ∧
             (trapWaits s1 true = none → exec i s =
               .next (laneTrap { s1 with cur := { s1.cur with merr := s1.cur.merr.erase b } } 0x14 (b.setWidth 64))))))) ∧
     (∀ e, running s.cur = some e → legalAt e.fmt i = true → matParts i = some m →
       (∀ x, i = .mma x ∨ i = .mmas x → x.band = true → bandModeOk s = true) →
       (∀ x, i = .mbwait x → mbNamed s.cur (x.imm.setWidth 16) = true) →
       (s.cur.tiles.length < m.tile + m.tiles →
         exec i s = .next (laneTrap s 0x01 (BitVec.ofNat 64 (max m.tile s.cur.tiles.length)))) ∧
       (m.tile + m.tiles ≤ s.cur.tiles.length →
         (¬ (m.pr.neg = false ∧ m.pr.num = 0 ∧ e.mask = 0xFFFFFFFF) → exec i s = .next (laneTrap s 0x02 0)) ∧
         (m.pr.neg = false ∧ m.pr.num = 0 ∧ e.mask = 0xFFFFFFFF → s.cur.handler = true → s.cur.msaved = false →
           exec i s = .next (laneTrap s 0x13 0)))))

/-- R20, R22, R257, R259 to R262: an outstanding operation whose tiles no earlier one names completes: its register results are written, a loaded or
written tile takes its elements and keeps the others, a stored tile's words stand in memory, ACCRD's destinations take the tile's elements,
ACCZ's tile is all zeros; the flag is released and the operation is no longer outstanding. A prefetch waits for the words it asked for
(R239), a tile store until its cluster may write its words and, with SC, for its turn (log 96). -/
def Obligations.Completion : Prop :=
  ∀ (s : State) (k : GKey) (q : Nat) (g : Group) (f : State) (o : OutOp), findGroup s k = some g → f = focus s k →
    ((mayComplete f.cur q o false → (∀ ids, o.act = .pref ids → ∀ r ∈ f.reqs, r.slot ∉ ids) →
        (∀ tl dst, o.act = .accst tl dst → (∀ d ∈ dst, dstReady f d = true) ∧ tileTurn f o) →
        ∃ t, exec (.longLatencyCompletion k q) s = .next (focus t s.cur.key) ∧ Retired o f.cur t.cur ∧
        (∀ key w, (key, w) ∈ o.writes → (∀ x, (key, x) ∈ o.writes → x = w) → laneGet t.cur key = w) ∧
        (∀ key, (∀ x, (key, x) ∉ o.writes) → (∀ tl src, o.act = .accrd tl src → ∀ x, (key, x) ∉ src) →
          laneGet t.cur key = laneGet f.cur key) ∧
        (o.act = .plain ∨ (∃ ids, o.act = .pref ids) → { t with cur := f.cur } = f) ∧
        (∀ tl ws, o.act = .accld tl ws ∨ o.act = .accwr tl ws →
          (∀ n w, (n, w) ∈ ws → (∀ x, (n, x) ∈ ws → x = w) → tileWord t f.cur tl n = w) ∧
          (∀ n, (∀ x, (n, x) ∉ ws) → tileWord t f.cur tl n = tileWord f f.cur tl n) ∧
          (∀ id, id ≠ physTile f.cur tl → tileAt t id = tileAt f id) ∧ { t with cur := f.cur, tiles := f.tiles } = f) ∧
        (∀ tl dst, o.act = .accst tl dst → o.writes = [] →
          (∀ d ∈ dst, ∃ p, placeOf d.2.1 4 = some p ∧ plainMemory f { pa := d.2.1, len := 4, place := p, leaf := none }) →
          (∀ d ∈ dst, (∀ e ∈ dst, e ≠ d → e.2.1 + 4 ≤ d.2.1 ∨ d.2.1 + 4 ≤ e.2.1) →
            memRead t d.2.1 4 = littleEndian (tileWord f f.cur tl d.1).toNat 4) ∧
          (∀ a, (∀ d ∈ dst, a < d.2.1 ∨ d.2.1 + 4 ≤ a) → memGet t a = memGet f a)) ∧
        (∀ tl src, o.act = .accrd tl src → o.writes = [] →
          (∀ key n, (key, n) ∈ src → (∀ x, (key, x) ∈ src → x = n) → laneGet t.cur key = tileWord f f.cur tl n) ∧
          { t with cur := f.cur } = f)) ∧
      (mayComplete f.cur q o false → ∀ ids, o.act = .pref ids → (∃ r ∈ f.reqs, r.slot ∈ ids) →
        exec (.longLatencyCompletion k q) s = .next (focus f s.cur.key)) ∧
      (mayComplete f.cur q o false → ∀ tl dst, o.act = .accst tl dst → (∃ d ∈ dst, dstReady f d = false) →
        ∃ t, exec (.longLatencyCompletion k q) s = .next (focus t s.cur.key) ∧ t.cur.outs = f.cur.outs ∧ t.tiles = f.tiles ∧
          ∀ a, memGet t a = memGet f a) ∧
      (mayComplete f.cur q o true → g = f.cur → o.band = none → o.flag = none → ∀ tl, o.act = .accz tl →
        ∃ t, exec (.matrixOperationComplete k q) s = .next (focus t s.cur.key) ∧ Retired o f.cur t.cur ∧ t.cur.lanes = f.cur.lanes ∧
          (∀ n, tileWord t f.cur tl n = 0) ∧ (∀ id, id ≠ physTile f.cur tl → tileAt t id = tileAt f id)))

/-- R68, R249 to R253, R257: a matrix multiplication outside band mode completes with every element of its result tiles computed from the element it
starts from in accumulate mode, else from +0: to it come the k-groups in ascending order, each sum rounded once to nearest even, with the accumulator's
flush. Each k-group is the exact sum of the products of a row of A and a column of B, scaled by block in MMAS, and NaN where a product or scale in it is NaN. -/
def Obligations.MatrixMultiply : Prop :=
  (∀ (s : State) (k : GKey) (q : Nat) (g : Group) (f : State) (o : OutOp) (op : MmaOp), findGroup s k = some g → f = focus s k → g = f.cur →
    mayComplete f.cur q o true → o.band = none → o.flag = none → o.act = .mma op →
    f.cur.tiles.Nodup → op.form.tile.toNat + mmaRowBlocks op.form * mmaColBlocks op.form ≤ f.cur.tiles.length →
    ∃ t, exec (.matrixOperationComplete k q) s = .next (focus t s.cur.key) ∧ Retired o f.cur t.cur ∧ t.cur.lanes = f.cur.lanes ∧
      (∀ a, memGet t a = memGet f a) ∧
      ∀ n, n < mmaRowBlocks op.form * mmaColBlocks op.form → ∀ r c, r < 32 → c < 128 →
        tileWord t f.cur (op.form.tile.toNat + n) (r * 128 + c) =
          if c < mmaN op.form then
            mmaElem f op (32 * (n / mmaColBlocks op.form) + r) (mmaFirstCol f.cur.key op + 128 * (n % mmaColBlocks op.form) + c)
              (tileWord f f.cur (op.form.tile.toNat + n) (r * 128 + c))
          else tileWord f f.cur (op.form.tile.toNat + n) (r * 128 + c)) ∧
  (∀ (s : State) (op : MmaOp) (r j : Nat) (start : W32) (kg : Nat), kg = groupSize op.form.tA → (mmaPair op.form.tA op.form.tB).isSome = true →
    ∃ acc : Nat → Nat, acc 0 = (if op.form.mode = 0 then start.toNat else 0) ∧
      mmaElem s op r j start = BitVec.ofNat 32 (acc (mmaK op.form / kg)) ∧
      ∀ g, accumulated op.fmt (decodeNum fmtF32 (acc g)) (groupSum s op r j (g * kg) kg) (acc (g + 1))) ∧
  (∀ (s : State) (op : MmaOp) (r j lo n i : Nat), (op.scaled = true → lo % 32 = 0 ∧ n % 32 = 0) → i < n →
    mmaA op r (lo + i) = .nan ∨ mmaB s op (lo + i) j = .nan ∨
      (op.scaled = true ∧ (mmaEa op r (lo / 32 + i / 32) = .nan ∨ mmaEb s op (lo / 32 + i / 32) j = .nan)) →
    groupSum s op r j lo n = .nan) ∧
  ∀ (s : State) (op : MmaOp) (r j lo n : Nat) (a b : Nat → ℚ),
    (∀ i, i < n → rational (mmaA op r (lo + i)) = some (a i) ∧ rational (mmaB s op (lo + i) j) = some (b i)) →
    (op.scaled = false → rational (groupSum s op r j lo n) = some (∑ i ∈ Finset.range n, a i * b i)) ∧
    (op.scaled = true → lo % 32 = 0 → n % 32 = 0 → ∀ ea eb : Nat → ℚ,
      (∀ i, i < n / 32 → rational (mmaEa op r (lo / 32 + i)) = some (ea i) ∧ rational (mmaEb s op (lo / 32 + i) j) = some (eb i)) →
      rational (groupSum s op r j lo n) = some (∑ i ∈ Finset.range n, a i * b i * (ea (i / 32) * eb (i / 32))))

/-! ### Clauses (R19, R38, R43, R153, R178, R244) -/

/-- R19, R20, R38, R43, R136, R153, R178, R244: CLAUSE_START of a readable header starts the clause at the head once its wait flags are clear, with y cleared and
its set-flags counted, and waits before; an unreadable or bad header traps with IDX 15. POSITIONED_EFFECT applies the effect at the head
and takes it off the queue, or traps with IDX 15 where VPUT's granule cannot be filled; GRANULE_FILL fills the granule it names where an instruction of the group reads or writes it, and no other. -/
def Obligations.ClauseEvents : Prop :=
  ∀ (s : State) (k : GKey) (g : Group) (f : State) (e : QEntry) (r : List QEntry), findGroup s k = some g → f = focus s k →
    (∀ j, (j ∈ granulesWanted f f.cur → ∀ s1, fillGranules f [j] = .ok s1 →
        exec (.granuleFill k j) s = .next (focus s1 s.cur.key) ∧ j ∉ s1.cur.absent ∧ s1.cur.lzfill = f.cur.lzfill + 1 ∧
        (∀ key, (key < 8 * j * 32 ∨ 8 * (j + 1) * 32 ≤ key) → laneGet s1.cur key = laneGet f.cur key)) ∧
      ((j ∉ granulesWanted f f.cur ∨ ∃ c, fillGranules f [j] = .error c) → exec (.granuleFill k j) s = .next (focus f s.cur.key))) ∧
    (f.cur.queue = e :: r →
      (e.kind = .clause → e.started = false →
        (∀ x, fetchWords f .laneFetch e.addr 3 = .error x →
          exec (.clauseStart k) s = .next (focus (takeTrap f true 15 (errCause .laneFetch x) e.addr f.cur.pc) s.cur.key)) ∧
        (∀ bs s1, fetchWords f .laneFetch e.addr 3 = .ok (bs, s1) →
          (decodeHeader (laneWordOf bs) = none →
            exec (.clauseStart k) s = .next (focus (takeTrap s1 true 15 0x03 e.addr s1.cur.pc) s.cur.key)) ∧
          (∀ h, decodeHeader (laneWordOf bs) = some h →
            ((∃ i : Fin 12, h.wait.getLsbD i = true ∧ vget f.cur.flags i 0 ≠ 0) →
              exec (.clauseStart k) s = .next (focus f s.cur.key)) ∧
            ((∀ i : Fin 12, h.wait.getLsbD i = true → vget f.cur.flags i 0 = 0) →
              ∃ t e', exec (.clauseStart k) s = .next (focus t s.cur.key) ∧ t.cur.queue = e' :: r ∧
                e' = { e with started := true, pos := 0, count := h.count, setA := h.setA, setB := h.setB, helper := h.helper,
                              fewait := f.cur.fewait } ∧
                (∀ key, laneGet t.cur key = if 264 * 32 ≤ key ∧ key < 266 * 32 then 0 else laneGet f.cur key) ∧
                (∀ i : Fin 12, vget t.cur.flags i 0 = vget f.cur.flags i 0 + (if i.val ∈ setFlags e' then 1 else 0)) ∧
                { t with cur := { t.cur with queue := s1.cur.queue, lanes := s1.cur.lanes, flags := s1.cur.flags } } = s1)))) ∧
      (e.kind = .setp → ∃ t, exec (.positionedEffect k) s = .next (focus t s.cur.key) ∧ t.cur.queue = r ∧
        (∀ j l, 0 < j → j < 8 → predGet t.cur j l = if j = e.target.toNat then (e.addr.setWidth 32 : W32).getLsbD l else predGet f.cur j l) ∧
        { t with cur := { t.cur with queue := f.cur.queue, preds := f.cur.preds } } = f) ∧
      (e.kind = .prng → ∃ t, exec (.positionedEffect k) s = .next (focus t s.cur.key) ∧ t.cur.queue = r ∧ t.cur.prng = e.addr ∧
        (∀ l, l < 32 → lfsrGet t.cur l =
          if (e.addr.setWidth 16 : BitVec 16) = BitVec.ofNat 16 l then 1 else e.addr.setWidth 16 ^^^ BitVec.ofNat 16 l) ∧
        { t with cur := { t.cur with queue := f.cur.queue, prng := f.cur.prng, lfsr := f.cur.lfsr } } = f) ∧
      (e.kind = .fewait →
        exec (.positionedEffect k) s = .next (focus { f with cur := { f.cur with queue := r, fewait := e.addr } } s.cur.key)) ∧
      (e.kind = .vput → ∀ slot key s1, slot = (e.target.extractLsb' 5 8).toNat → key = slot * 32 + (e.target.extractLsb' 0 5).toNat →
        (isPending f.cur key = true → exec (.positionedEffect k) s = .next (focus f s.cur.key)) ∧
        (isPending f.cur key = false → ∀ c, fillGranules f [slot / 8] = .error c →
          exec (.positionedEffect k) s = .next (focus (takeTrap f true 15 c.1 c.2 f.cur.pc) s.cur.key)) ∧
        (isPending f.cur key = false → fillGranules f [slot / 8] = .ok s1 →
          ∃ t, exec (.positionedEffect k) s = .next (focus t s.cur.key) ∧ t.cur.queue = r ∧
            (∀ x, laneGet t.cur x = if x = key then e.addr.setWidth 32 else laneGet s1.cur x) ∧
            { t with cur := { t.cur with queue := s1.cur.queue, lanes := s1.cur.lanes } } = s1)))

/-! ### The end of engine operations, and requests of peers (R265, R277, R278, R289, R290, R404, R405) -/

/-- R113, R265, R266, R268, R277, R278, R289: an operation whose work has ended delivers its status to its tag or barrier, a Loam command its completion word
first, once no cluster holds it (R346); a copy that writes a byte twice, or reads one it writes, ends with 0x05, one with a page that refuses it with that page's status;
and a row of a copy within one destination line arrives byte for byte, with status 0, but for bytes that a later owner of the line has
written already; until every line of its destination is its own a copy waits (R102, R114). -/
def Obligations.EngineCompletion : Prop :=
  ∀ (s : State) (id : Nat) (st : Byte) (data : List Byte) (o : EngOp), findOp s id = some o →
    (∀ x, o.stage = .ended x →
      ((∀ b c q, o.kind ≠ .skcmd b c q) → ∃ t, exec (.engineOperationComplete id st data) s = .next t ∧ OpEnded s t o x) ∧
      (∀ b c q r, o.kind = .skcmd b c q → engineRuns s (opActor o) .store c 8 = .ok [r] → firstErr (storeErr s) [r] = none →
        (r.place = .host → s.linkUp = true) → r.len = 8 →
        devReady s (ownedBy s (opActor o) [{ src := 0, dst := c, len := 8 }]) = true →
        ∃ u t, exec (.engineOperationComplete id st data) s = .next t ∧ OpEnded u t o x ∧
          numberAt t r.pa 8 = completionWord q x % 2 ^ 64 ∧
          (∀ a, (a < r.pa ∨ r.pa + 8 ≤ a) → ¬ leafByte [r] a → memGet t a = memGet s a) ∧ u.cur = s.cur ∧ u.ops = s.ops) ∧
      (∀ b c q, o.kind = .skcmd b c q → devReady s (ownedBy s (opActor o) [{ src := 0, dst := c, len := 8 }]) = false →
        ∃ t, exec (.engineOperationComplete id st data) s = .next t ∧ t.ops = s.ops ∧ t.cur = s.cur ∧ t.mem = s.mem)) ∧
    (∀ rows, o.stage = .issued →
      ((∃ a b n, o.kind = .cpy a b n ∧ rows = [{ src := a, dst := b, len := n }]) ∨
        ∃ a b n k sp dp, o.kind = .cpy2d a b n k sp dp ∧ rows = rows2d a b n k sp dp) →
      (ownsAll o = false → exec (.engineOperationComplete id st data) s = .next s) ∧
      (ownsAll o = true → rowsClash rows = true → ∃ t, exec (.engineOperationComplete id st data) s = .next t ∧ OpEnded s t o 5) ∧
      (∀ x, ownsAll o = true → rowsClash rows = false → rowsRefused s (opActor o) rows = some x →
        ∃ t, exec (.engineOperationComplete id st data) s = .next t ∧ OpEnded s t o x) ∧
      (∀ row r d s1, ownsAll o = true → rowsClash rows = false → rows = [row] → 0 < row.len → row.len + row.dst.toNat % 128 ≤ 128 →
        chunkFails s (opActor o) row = none → engineRuns s (opActor o) .load row.src row.len = .ok [r] → r.len = row.len →
        s1 = readMarks s (opActor o) [(row.src, row.len)] → engineRuns s1 (opActor o) .store row.dst row.len = .ok [d] → d.len = row.len →
        ∃ u t, exec (.engineOperationComplete id st data) s = .next t ∧ OpEnded u t o 0 ∧ u.cur = s.cur ∧ opsKept s u ∧
          (∀ i, i < row.len → stillOwned o (d.pa + i) → memGet t (d.pa + i) = engineByte s o.mark (r.pa + i)) ∧
          (s.hist.length = o.mark → ∀ i, i < row.len → stillOwned o (d.pa + i) → memGet t (d.pa + i) = memGet s (r.pa + i)) ∧
          (∀ i, i < row.len → ¬ stillOwned o (d.pa + i) → ¬ leafByte [r, d] (d.pa + i) → memGet t (d.pa + i) = memGet s (d.pa + i)) ∧
          (∀ a, (a < d.pa ∨ d.pa + row.len ≤ a) → ¬ leafByte [r, d] a → memGet t a = memGet s a)))

/-- R115, R265, R290, R291, R402, R404, R405, R408: a PUT or GET ends with the status its source, destination or link gives, leaves by the port that leads to
its peer once that link is up, waiting until then, and then ends with the status its peer gives; the bytes a GET asked for arrive at
its destination; SENT_COMPLETE adds the bytes of a PUT to SENT and ends it; a PUT that arrives at a registered window stores its bytes and
adds them to ARRIVED, once no cluster holds a word it writes (R346), a GET of a window answers its bytes; a request the window refuses answers its status and changes nothing. -/
def Obligations.RemoteOperations : Prop :=
  (∀ (s : State) (id : Nat) (st : Byte) (data : List Byte) (o : EngOp), findOp s id = some o → o.stage = .issued →
    (∀ ref src n, o.kind = .put ref src n →
      (o.port = none → exec (.sentComplete id) s = .next s ∧
        (∀ x, putFailure s o ref src n = some x → ∃ t, exec (.engineOperationComplete id st data) s = .next t ∧ OpEnded s t o x) ∧
        (putFailure s o ref src n = none →
          (linkOut s (refPeer ref) = none → exec (.engineOperationComplete id st data) s = .next s) ∧
          ∀ p, linkOut s (refPeer ref) = some p → ∃ t, exec (.engineOperationComplete id st data) s = .next t ∧
            OpReplaced s t { o with port := some p })) ∧
      (o.port ≠ none →
        (remoteStatus st = true → ∃ t, exec (.engineOperationComplete id st data) s = .next t ∧ OpEnded s t o st) ∧
        (∀ x, putFailure s o ref src n = some x → ∃ t, exec (.sentComplete id) s = .next t ∧ OpReplaced s t { o with stage := .ended x }) ∧
        ∀ pa, putFailure s o ref src n = none → sentEntry s (refPeer ref) (refWin ref) = some pa →
          (devReady s [(pa + 8, 8)] = false → ∃ t, exec (.sentComplete id) s = .next t ∧ t.mem = s.mem ∧ t.cur = s.cur ∧
            findOp t id = some { o with stage := .sent }) ∧
          (devReady s [(pa + 8, 8)] = true → ∃ t, exec (.sentComplete id) s = .next t ∧
          numberAt t (pa + 8) 8 = (numberAt s (pa + 8) 8 + n) % 2 ^ 64 ∧ t.cur = s.cur ∧ t.crew = s.crew ∧
          findOp t id = some { o with stage := .ended 0 } ∧
          ∀ rs, engineRuns s (opActor o) .load src n = .ok rs → ∀ a, (a < pa + 8 ∨ pa + 16 ≤ a) → ¬ leafByte rs a → memGet t a = memGet s a))) ∧
    (∀ dst ref n, o.kind = .get dst ref n →
      (∀ x, pagesBad s o .store dst.toNat n = some x → ∃ t, exec (.engineOperationComplete id st data) s = .next t ∧ OpEnded s t o x) ∧
      (pagesBad s o .store dst.toNat n = none →
        (o.port = none →
          (peerAway s (refPeer ref) = true → ∃ t, exec (.engineOperationComplete id st data) s = .next t ∧ OpEnded s t o 8) ∧
          (peerAway s (refPeer ref) = false → linkOut s (refPeer ref) = none → exec (.engineOperationComplete id st data) s = .next s) ∧
          ∀ p, peerAway s (refPeer ref) = false → linkOut s (refPeer ref) = some p →
            ∃ t, exec (.engineOperationComplete id st data) s = .next t ∧ OpReplaced s t { o with port := some p }) ∧
        (o.port ≠ none → remoteStatus st = true →
          ∃ t, exec (.engineOperationComplete id st data) s = .next t ∧ OpEnded s t o st) ∧
        (∀ d, o.port ≠ none → ownsAll o = true → st = 0 → data.length = n → 0 < n → n + dst.toNat % 128 ≤ 128 →
          engineRuns s (opActor o) .store dst n = .ok [d] → d.len = n → firstErr (storeErr s) [d] = none →
          (d.place = .host → s.linkUp = true) →
          ∃ u t, exec (.engineOperationComplete id st data) s = .next t ∧ OpEnded u t o 0 ∧ u.cur = s.cur ∧ opsKept s u ∧
            (∀ i (h : i < data.length), stillOwned o (d.pa + i) → memGet t (d.pa + i) = data[i]) ∧
            (∀ i, i < n → ¬ stillOwned o (d.pa + i) → ¬ leafByte [d] (d.pa + i) → memGet t (d.pa + i) = memGet s (d.pa + i)) ∧
            ∀ a, (a < d.pa ∨ d.pa + n ≤ a) → ¬ leafByte [d] a → memGet t a = memGet s a)))) ∧
  ∀ (s : State) (w off len : Nat) (data : List Byte),
    (∀ st, windowFor s w off data.length true = .error st →
      exec (.remotePutArrival w off data) s = .next { s with reply := (st, []) }) ∧
    (∀ st, windowFor s w off len false = .error st → exec (.remoteGet w off len) s = .next { s with reply := (st, []) }) ∧
    (∀ x, windowFor s w off data.length true = .ok x → devReady s (putPlaces s x off data.length) = false →
      ∃ t, exec (.remotePutArrival w off data) s = .next t ∧ t.arrivals = s.arrivals ++ [{ win := w, off := off, data := data }] ∧
        t.cur = s.cur ∧ t.mem = s.mem) ∧
    (∀ x d va, windowFor s w off data.length true = .ok x → devReady s (putPlaces s x off data.length) = true → va = BitVec.ofNat 64 (x.base.toNat + off) →
      engineRuns s x.actor .store va data.length = .ok [d] → d.len = data.length → 0 < data.length → data.length + va.toNat % 128 ≤ 128 →
      firstErr (storeErr s) [d] = none → (d.place = .host → s.linkUp = true) →
      (x.at_ + 32 ≤ d.pa ∨ d.pa + data.length ≤ x.at_ + 24) → (∀ i, i < 8 → ¬ leafByte [d] (x.at_ + 24 + i)) →
      ∃ t, exec (.remotePutArrival w off data) s = .next t ∧ t.reply = (0, []) ∧ t.cur = s.cur ∧
        numberAt t (x.at_ + 24) 8 = (numberAt s (x.at_ + 24) 8 + data.length) % 2 ^ 64 ∧
        (∀ i (h : i < data.length), memGet t (d.pa + i) = data[i]) ∧
        ∀ a, (a < d.pa ∨ d.pa + data.length ≤ a) → (a < x.at_ + 24 ∨ x.at_ + 32 ≤ a) → ¬ leafByte [d] a → memGet t a = memGet s a) ∧
    (∀ x rs, windowFor s w off len false = .ok x → engineRuns s x.actor .load (x.base + BitVec.ofNat 64 off) len = .ok rs →
      sourceBad s rs = none → ∃ t, exec (.remoteGet w off len) s = .next t ∧
        t.reply = (0, rs.flatMap fun r => memRead s r.pa r.len) ∧ t.cur = s.cur ∧
        ∀ a, ¬ leafByte rs a → memGet t a = memGet s a)

/-! ### The broadcast layer (R91, R280, R335 to R351) -/

/-- R336, R343, R344, R345, R346, R351: the next slot of a plane, the earliest stamp of all planes, takes effect in every cache at once: GetS, GetM, Upgrade, PutM and INV leave the words
of their mask in the states R343 gives and no other word, a GetM, Upgrade or INV that an engine operation sent gives it its line, an INV performs the host's
write that sent it, POISON poisons the words whose latest exclusive grant a fenced cluster holds, as a request does that comes before the POISON under way, TLBINV removes the
translations it names from every holder, ACK counts for its writer; the slot is applied once. -/
def Obligations.CoherenceMessages : Prop :=
  ∀ (s : State) (p : Nat) (x : Slot) (u : State), headSlot s p = some x → u = takeSlot s p x →
    (∀ line m co ag, x.msg = .gets line m co ag → x.writer < 64 → ∃ t, exec (.gets p) s = .next t ∧
      wordsOnly s u { t with poison := u.poison } line m ∧ servedDead u t line m ∧
      ∀ a ∈ maskWords line m,
        (poisonDue u a = true → ∀ c, stateOf (wordDir t a) c = if c = x.writer then some .exclusive else none) ∧
        (poisonDue u a = false →
        (heldAlone s x.writer a → stateOf (wordDir t a) x.writer = some .exclusive) ∧
        (¬ heldAlone s x.writer a → stateOf (wordDir t a) x.writer = some .shared) ∧
        ∀ c, c ≠ x.writer → stateOf (wordDir t a) c = match stateOf (wordDir s a) c with
          | some .modified => some .owned
          | some .exclusive => some .shared
          | y => y)) ∧
    (∀ i line m co ag, (x.msg = .getm line m co ag ∧ i = .getm p) ∨ (x.msg = .upgrade line m co ag ∧ i = .upgrade p) →
      ∃ t, exec i s = .next t ∧ wordsOnly s u { t with ops := u.ops, poison := u.poison, reqs := u.reqs } line m ∧ lineTaken s t x.id ∧
        (x.writer < 64 → servedDead u t line m) ∧ (64 ≤ x.writer → t.poison = s.poison) ∧ (i = .getm p → t.reqs = s.reqs) ∧
        (∀ r, r.slot ≠ x.id → r.mask &&& ~~~r.got ≠ 0 → (r ∈ t.reqs ↔ r ∈ s.reqs)) ∧
        (i = .upgrade p → filterRoom t line = true → ∀ r ∈ t.reqs, r.slot = x.id → ∀ w, w < 32 → m.getLsbD w = true →
          stateOf (wordDir s (line * 128 + 4 * w)) x.writer ≠ none → r.got.getLsbD w = true) ∧
        ∀ a ∈ maskWords line m, ∀ c, stateOf (wordDir t a) c = if c = x.writer ∧ c < 64 then some .modified else none) ∧
    (∀ line m, x.msg = .inv line m → ∃ t, exec (.inv p) s = .next t ∧
      wordsOnly s u { t with ops := u.ops, mem := u.mem, poison := u.poison, hist := u.hist, hostWrites := u.hostWrites } line m ∧
      lineTaken s t x.id ∧ (∀ a ∈ maskWords line m, ∀ c, stateOf (wordDir t a) c = none) ∧
      (s.hostWrites.find? (fun w => w.slot = x.id) = none → t.mem = s.mem ∧ t.poison = s.poison ∧ t.hostWrites = s.hostWrites) ∧
      ∀ w, s.hostWrites.find? (fun w => w.slot = x.id) = some w → memRead t w.pa w.bytes.length = w.bytes ∧
        (∀ a, (a < w.pa ∨ w.pa + w.bytes.length ≤ a) → memGet t a = memGet s a) ∧
        t.hostWrites = s.hostWrites.filter fun y => decide (y.slot ≠ x.id)) ∧
    (∀ line m ver, x.msg = .putm line m ver → ∃ t, exec (.putm p) s = .next t ∧ wordsOnly s u t line m ∧
      ∀ a ∈ maskWords line m, ∀ c, stateOf (wordDir t a) c =
        if (wordDir s a).grantee = some x.writer ∧ (wordDir s a).version % 256 = ver ∧ c = x.writer then none
        else stateOf (wordDir s a) c) ∧
    (∀ line m, x.msg = .poison line m → ∃ t, exec (.poison p) s = .next t ∧
      (∀ a ∈ maskWords line m, ∀ c, (wordDir s a).grantee = some c → (c, 0) ∈ s.dead →
        a ∈ t.poison ∧ stateOf (wordDir t a) c = none ∧ (wordDir t a).grantee = none) ∧
      (∀ a, (a ∉ maskWords line m ∨ ∀ c, (wordDir s a).grantee = some c → (c, 0) ∉ s.dead) →
        wordDir t a = wordDir s a ∧ (a ∈ t.poison ↔ a ∈ s.poison)) ∧
      filterOff { t with dir := u.dir, poison := u.poison } = filterOff u) ∧
    (∀ id v, x.msg = .tlbinv id → s.invals.find? (fun i => i.id = id) = some v → ∃ t, exec (.tlbinvMessage p) s = .next t ∧
      (∀ e ∈ t.tlb, invalHits v e = false) ∧ (∀ e ∈ s.tlb, invalHits v e = false → e ∈ t.tlb) ∧ { t with tlb := u.tlb } = u) ∧
    (∀ id, x.msg = .ack id → ∃ t, exec (.ack p) s = .next t ∧ { t with invals := u.invals } = u ∧
      t.invals = s.invals.map fun i => if i.id = id then { i with waiting := i.waiting.erase x.writer } else i)

/-- R91, R280, R282, R336, R343: a broadcast-window slot takes effect: where one subscription of one crew takes it, its line stands in the
crew's scratchpad and its barrier has arrived with 128 bytes, and where none does, no byte of memory changes; BSYNC's slot is done, and an SC store has taken the place of its
stamp (R109, log 96). The
words of a request arrive once its slot has taken effect and the home has room for the line, and the request is over when every word has; a writer whose holders have acknowledged an invalidation sends its ACK; a frame
sends at most one slot of each writer on each plane, new or sent again. -/
def Obligations.BroadcastFrames : Prop :=
  (∀ (s : State) (p : Nat) (x : Slot) (line : Nat) (bytes : List Byte) (k : GKey), headSlot s p = some x → x.msg = .bcast line bytes k →
    ((∀ c ∈ allCrews s, ∀ v ∈ c.subs, subTakes v x line = false) →
      ∃ t, exec (.bcast p) s = .next t ∧ (∀ a, memGet t a = memGet s a) ∧ t.crew = s.crew ∧ t.crews = s.crews ∧
        ∀ g, findGroup s k = some g → findGroup t k = some { g with
            bslots := g.bslots.map fun b => if b.id = x.id then { b with done := true } else b
            scOpen := g.scOpen.filter fun e => e.use ≠ .window x.id } ∧
          t.scLast = (match scFind g (.window x.id) with
            | some e => laterPlace s.scLast e.place
            | none => s.scLast)) ∧
    (∀ c v pa, (allCrews s).filter (fun c => c.subs.any fun v => subTakes v x line) = [c] → c.subs.filter (fun v => subTakes v x line) = [v] →
      c.halt = .running → v.since < x.frame → c.key = crewKey c.key → findCrew s c.key = some c →
      pa = scratchPa c.cluster c.core (c.spbase + v.spoff + (line * 128 - v.wbase)) →
      ∃ t, exec (.bcast p) s = .next t ∧ (∀ i (h : i < bytes.length), memGet t (pa + i) = bytes[i]) ∧
        (∀ a, (a < pa ∨ pa + bytes.length ≤ a) → memGet t a = memGet s a) ∧
        findCrew t c.key = some { c with bbs := c.bbs.set v.bar (arrived 128 ((barAt c v.bar).phase.getLsbD 0) 0 (barAt c v.bar)) }) ∧
    (∀ c v, (allCrews s).filter (fun c => c.subs.any fun v => subTakes v x line) = [c] → c.subs.filter (fun v => subTakes v x line) = [v] →
      c.subs.find? (fun y => y.num = v.num) = some v → (c.halt = .saved ∨ c.halt = .stopped ∨ c.halt = .over ∨ x.frame ≤ v.since) → c.key = crewKey c.key → findCrew s c.key = some c →
      ∃ t, exec (.bcast p) s = .next t ∧ (∀ a, memGet t a = memGet s a) ∧ ∃ d, findCrew t c.key = some d ∧
        (∃ y ∈ d.subs, y = { v with missed := v.missed + 1 }) ∧ { d with subs := c.subs } = c)) ∧
  ∀ s : State,
    (∀ (c line : Nat) (m : W32), (filterRoom s line = false → exec (.dataResponse c line m) s = .next s) ∧
      (filterRoom s line = true → ∃ t, exec (.dataResponse c line m) s = .next t ∧ { t with reqs := s.reqs } = s ∧
        (∀ r ∈ s.reqs, r.cluster = c → r.line = line → slotApplied s line r.slot = true → r.mask &&& ~~~(r.got ||| m) ≠ 0 →
          { r with got := r.got ||| m } ∈ t.reqs) ∧
        (∀ r ∈ t.reqs, r.cluster = c → r.line = line → slotApplied s line r.slot = true →
          r.mask &&& ~~~r.got ≠ 0 ∧ ∃ y ∈ s.reqs, r = { y with got := y.got ||| m }) ∧
        ∀ r, (r.cluster ≠ c ∨ r.line ≠ line ∨ slotApplied s line r.slot = false) → r.mask &&& ~~~r.got ≠ 0 → (r ∈ t.reqs ↔ r ∈ s.reqs))) ∧
    (∀ id h i, s.invals.find? (fun i => i.id = id) = some i → h ∈ i.waiting → 0 < s.planes.length →
      (∀ q ∈ s.planes, ∀ x ∈ q.pend ++ q.sent, x.msg ≠ .tlbinv id ∧ ¬ (x.writer = h ∧ x.msg = .ack id)) →
      (∀ g ∈ allGroups s, g.cluster = h → (∀ b ∈ g.bslots, b.done = true) ∧ ∀ o ∈ g.outs, ∀ tl d, o.act ≠ .accst tl d) →
      ∃ t, exec (.tlbAcknowledge id h) s = .next t ∧ queuedLast s t 0 h (.ack id)) ∧
    (s.lastFrame < frameOf s → ∃ t, exec .buntingFrame s = .next t ∧ t.lastFrame = frameOf s ∧ (∀ a, memGet t a = memGet s a) ∧
      ∀ p, p < 8 → p < s.planes.length → ∃ (xs : List Slot) (ids : List (Nat × Nat)), (nth t.planes p idlePlane).sent =
          ((nth s.planes p idlePlane).sent.map (sentAgain (frameOf s) (ids.map (·.2))) ++ xs).filter (fun x => !reservedKind x.msg) ∧
        (xs.map (·.writer)).Pairwise (· < ·) ∧ (ids.map (·.1)).Pairwise (· < ·) ∧ (∀ i ∈ ids, i ∈ (nth s.planes p idlePlane).again) ∧
        (∀ i ∈ ids, ∀ x ∈ xs, x.writer ≠ i.1) ∧ ∀ x ∈ xs, x.frame = frameOf s ∧ x.last = frameOf s ∧ ∃ y,
          x = { y with frame := frameOf s, last := frameOf s } ∧ (y ∈ (nth s.planes p idlePlane).pend ∨ s.nextId ≤ y.id)) ∧
    (frameOf s ≤ s.lastFrame → exec .buntingFrame s = .next s)

/-- R337, R339, R340, R341: a reader that finds a slot of a plane unreadable holds the plane, sends NACK, and HOLD once it has
held 16 frames, and repeats the NACK 16 frames later; the writer it names stops new slots and sends its kept slots from that
frame again, after a REPLAY, and a NACK during the replay extends it; HOLD stops and releases new slots; after the REPLAY that
covers the held slot the plane goes on and its readers send HOLD (0), every re-sent slot under its first stamp (log 110);
slots sent 64 frames ago are kept no longer. R347, R348, R349: a wavelength that loses its writer's light has LOCK 0 and STATE
2; one that took over has LOCK 1 once readers and writer have retuned, and its writer's held slots are replayed, or the plane
goes on; a heartbeat is noted; a unit silent for three heartbeats is declared dead, from the next frame on; a reader that
cannot read a plane 1,250 frames after a spare took over falls silent. -/
def Obligations.DamagedSlots : Prop :=
  (∀ (s : State) (p : Nat) (q : Plane), p < 8 → p < s.planes.length → q = nth s.planes p idlePlane →
     (∀ r, r ∈ presentWriters s → q.bad = none → (∃ x, firstSlot s p = some x ∨ headControl s p = some x) →
       ∃ x t, (firstSlot s p = some x ∨ headControl s p = some x) ∧ exec (.nackSend p r) s = .next t ∧
         (nth t.planes p idlePlane).bad = some (x.writer, x.frame) ∧ (nth t.planes p idlePlane).readers = [(r, frameOf s)] ∧
         (∃ y ∈ (nth t.planes p idlePlane).pend, y.writer = r ∧ y.msg = .nack x.writer x.frame) ∧
         (x.frame + 16 ≤ frameOf s → r ∉ q.holds → underWay q r (.hold true) = false →
           ∃ y ∈ (nth t.planes p idlePlane).pend, y.writer = r ∧ y.msg = .hold true) ∧
         t.cur = s.cur ∧ ∀ a, memGet t a = memGet s a) ∧
     (∀ r w f, r ∈ presentWriters s → q.bad = some (w, f) → (∀ n, (r, n) ∈ q.readers → n + 16 ≤ frameOf s) → (∀ y ∈ q.replays, y.1 ≠ w) →
       ∃ t, exec (.nackSend p r) s = .next t ∧ (nth t.planes p idlePlane).bad = some (w, f) ∧
         (r, frameOf s) ∈ (nth t.planes p idlePlane).readers ∧
         (∃ y ∈ (nth t.planes p idlePlane).pend, y.writer = r ∧ y.msg = .nack w f) ∧ t.cur = s.cur ∧ ∀ a, memGet t a = memGet s a) ∧
     (∀ x w f, headControl s p = some x → x.msg = .nack w f →
       ((∀ y ∈ q.replays, y.1 ≠ w) → awaitsRetune (takeSlot s p x) p w f = false → (∃ y ∈ q.kept, y.writer = w ∧ f ≤ y.frame) →
         ∃ t l, exec (.nack p) s = .next t ∧ (w, f, l) ∈ (nth t.planes p idlePlane).replays ∧
           (∃ y ∈ (nth t.planes p idlePlane).pend, y.writer = w ∧ y.msg = .replay f l) ∧
           ∀ y ∈ q.kept, y.writer = w → f ≤ y.frame → y.frame ≤ l ∧ (w, y.id) ∈ (nth t.planes p idlePlane).again) ∧
       (∀ a l, q.replays.find? (fun y => y.1 = w) = some (w, a, l) → f < a → ∃ t, exec (.nack p) s = .next t ∧
         (w, f, l) ∈ (nth t.planes p idlePlane).replays ∧ (∃ y ∈ (nth t.planes p idlePlane).pend, y.writer = w ∧ y.msg = .replay f l) ∧
         ∀ y ∈ q.kept, y.writer = w → f ≤ y.frame → y.frame < a → (w, y.id) ∈ (nth t.planes p idlePlane).again) ∧
       (∀ a l, q.replays.find? (fun y => y.1 = w) = some (w, a, l) → a ≤ f → ∃ t, exec (.nack p) s = .next t ∧
         (nth t.planes p idlePlane).replays = q.replays ∧ (nth t.planes p idlePlane).pend = q.pend) ∧
       ((∀ y ∈ q.replays, y.1 ≠ w) → (awaitsRetune (takeSlot s p x) p w f = true ∨ ∀ y ∈ q.kept, y.writer = w → y.frame < f) →
         exec (.nack p) s = .next (takeSlot s p x))) ∧
     (∀ x on, headControl s p = some x → x.msg = .hold on → ∃ t, exec (.hold p) s = .next t ∧ { t with planes := s.planes } = s ∧
       (on = true → ∀ v, v ∈ (nth t.planes p idlePlane).holds ↔ v = x.writer ∨ v ∈ q.holds) ∧
       (on = false → (∀ v, v ≠ x.writer → (v ∈ (nth t.planes p idlePlane).holds ↔ v ∈ q.holds)) ∧
         (q.holds.Nodup → x.writer ∉ (nth t.planes p idlePlane).holds))) ∧
     (∀ x a b, headControl s p = some x → x.msg = .replay a b →
       ((∃ y ∈ q.again, y.1 = x.writer) → exec (.replay p) s = .next s) ∧
       ((∀ y ∈ q.again, y.1 ≠ x.writer) → ∃ t, exec (.replay p) s = .next t ∧
         (x.writer, a, b) ∉ (nth t.planes p idlePlane).replays ∧
         (∀ y, y ∈ (nth t.planes p idlePlane).sent ↔ y ∈ q.sent ∧ y.id ≠ x.id) ∧
         (∀ f, q.bad = some (x.writer, f) → a ≤ f → f ≤ b → (nth t.planes p idlePlane).bad = none ∧
           ∀ r, r < 80 → r ∈ q.holds → underWay q r (.hold false) = false →
             ∃ y ∈ (nth t.planes p idlePlane).pend, y.writer = r ∧ y.msg = .hold false) ∧
         ((∀ f, q.bad = some (x.writer, f) → ¬ (a ≤ f ∧ f ≤ b)) → (nth t.planes p idlePlane).bad = q.bad))) ∧
     ∃ t, exec (.retransmissionWindowExpiry p) s = .next t ∧
       ∀ x, x ∈ (nth t.planes p idlePlane).kept ↔ x ∈ q.kept ∧ (frameOf s < x.last + 64 ∨ (∃ y ∈ q.sent, y.id = x.id) ∨ ∃ a ∈ q.again, a.2 = x.id)) ∧
  (∀ (s : State) (p g w : Nat), p < 8 → g < 96 → w < 4 →
     (mgmtField s (buntingOff p g w) 63 62 = 0 → ∃ t, exec (.wavelengthDegraded p g w) s = .next t ∧
       mgmtField t (buntingOff p g w) 63 62 = 2 ∧ mgmtField t (buntingOff p g w) 61 61 = 0 ∧ onlyRegister s t (buntingOff p g w)) ∧
     (∀ wr f, p < s.planes.length → (nth s.planes p idlePlane).bad = some (wr, f) → mgmtField s (buntingOff p g w) 60 54 = wr →
       (nth s.planes p idlePlane).retuning = true → wr < 80 → mgmtField s (buntingOff p g w) 61 61 = 0 →
       mgmtField s (buntingOff p g w) 63 62 = 0 → ∃ t, exec (.retuneComplete p g w) s = .next t ∧
         mgmtField t (buntingOff p g w) 61 61 = 1 ∧ (nth t.planes p idlePlane).retuning = false ∧ ∃ l, (wr, f, l) ∈ (nth t.planes p idlePlane).replays ∧
         ∃ y ∈ (nth t.planes p idlePlane).pend, y.writer = wr ∧ y.msg = .replay f l) ∧
     (mgmtField s (buntingOff p g w) 63 62 = 0 → mgmtField s (buntingOff p g w) 61 61 = 0 → mgmtField s (buntingOff p g w) 60 54 < 80 →
       ((nth s.planes p idlePlane).retuning = false → ∃ t, exec (.retuneComplete p g w) s = .next t ∧
         mgmtField t (buntingOff p g w) 61 61 = 1 ∧ onlyRegister s t (buntingOff p g w)) ∧
       (p < s.planes.length → (nth s.planes p idlePlane).retuning = true → (nth s.planes p idlePlane).bad = none →
         ∃ t, exec (.retuneComplete p g w) s = .next t ∧ mgmtField t (buntingOff p g w) 61 61 = 1 ∧ isHeld (nth t.planes p idlePlane) = false)) ∧
     (∀ u, u < 80 → isDead s u = false → s.mute.contains u = false → ∃ t, exec (.heartbeat u) s = .next t ∧ lastBeat t u = s.time ∧
       (∀ v, v ≠ u → lastBeat t v = lastBeat s v) ∧ { t with beats := s.beats } = s) ∧
     (∀ u, u < 80 → u ∈ presentWriters s → lastBeat s u + 30000 ≤ s.time →
       exec (.unitDead u) s = .next { s with dead := s.dead ++ [(u, frameOf s + 1)] }) ∧
     (∀ u q f n, u < 80 → q ∈ s.planes → isHeld q = true → (q.bad = none ∨ (u, n) ∈ q.readers) → q.takeover = some f → f + 1250 ≤ frameOf s →
       ∃ t, exec (.planeReadTimeout u) s = .next t ∧ u ∈ t.mute ∧ (∀ v, v ≠ u → (v ∈ t.mute ↔ v ∈ s.mute)) ∧ { t with mute := s.mute } = s))

/-! ### Named tiles (R283 to R287, R354 to R374) -/

/-- R356, R360, R361, R362, R365, R366, R402: a declaration is recorded, accepted again or refused, here or by its HOME on another device, whose answer settles it;
one that finds its tensor, or the last places, promised to another waits (log 112); a message for another device goes on by this device's port table, or ends with 0x08 at its origin where no port leads there or it would pass an eighth link; an interest that arrives at a router is answered
with the stored tile, answered never produced by a tombstone, joined to the entry of its pennant, given an entry and sent on along its path, or
turned away from a full table, or ends with 0x08 where it can go no further; a NACK frees the entry and goes to its faces, and at the engine sets the next retry; a retry that is due sends
the interest again, or ends its records with 0x08 or, its declaration over, 0x06 (log 112); a spilled tile that is refilled is stored again, or serves the interests that wait where there is no room. The way between routers is a free value (log 21, log 26). -/
def Obligations.NamedRouters : Prop :=
  (∀ (s : State) (m : NetMsg) (o : DeclOp) (tn : Nat), arrives s m = true → m.kind = .declare → m.frm = .loc →
    s.declOps.find? (fun o => o.id = m.op && !o.asked && o.result.isNone) = some o → tn = blockField o.block 63 40 →
    ((declPending s o.block = true ∨ declsFull s = true) → exec (.declaration m false) s = .next s) ∧
    (declPending s o.block = false → declsFull s = false → ∃ t, exec (.declaration m false) s = .next t ∧
      (declMalformed o.block = true → declResult t o.id 5 ∧ t.decls = s.decls) ∧
      (declMalformed o.block = false →
        (∀ d, declOf s tn = some d → t.decls = s.decls ∧ declResult t o.id (if d.block = o.block then 0 else 5)) ∧
        (declOf s tn = none → 1024 ≤ s.decls.length → declResult t o.id 5 ∧ t.decls = s.decls) ∧
        (declOf s tn = none → s.decls.length < 1024 →
          (homeHere s (declHome o.block) = true →
            declResult t o.id 0 ∧ declOf t tn = some { tnum := tn, block := o.block, producers := [] }) ∧
          (homeHere s (declHome o.block) = false → t.decls = s.decls ∧
            (portTo s (declHome o.block) = none → declResult t o.id 8) ∧
            (∀ p, portTo s (declHome o.block) = some p → (∃ x ∈ t.declOps, x.id = o.id ∧ x.asked = true ∧ x.port = some p) ∧
              ∃ y ∈ t.net, y.kind = .declare ∧ y.site = 144 + p ∧ y.bytes = m.bytes ∧ y.op = m.op ∧ y.dest = declHome o.block)))))) ∧
  (∀ (s : State) (m : NetMsg) (p : Nat), arrives s m = true → m.frm = .port p → homeHere s m.dest = false →
    ∀ i, (i = .declaration m false ∧ (m.kind = .declare ∨ m.kind = .declared)) ∨ (m.site < 80 ∧
      (i = .publication m ∧ m.kind = .publication ∨ i = .drop m ∧ m.kind = .drop)) →
      (∀ q, m.hops < 7 → portTo s m.dest = some q → ∃ t, exec i s = .next t ∧ t.decls = s.decls ∧ t.routers = s.routers ∧ t.ops = s.ops ∧
        t.net = (takeMsg s m).net ++ [{ m with site := 144 + q, frm := .router (portRouter q), hops := m.hops + 1 }]) ∧
      ((7 ≤ m.hops ∨ portTo s m.dest = none) → ∃ t, exec i s = .next t ∧ t.decls = s.decls ∧ t.routers = s.routers ∧ t.ops = s.ops ∧
        ∀ k, (m.kind = .publication ∧ k = .stored) ∨ (m.kind = .declare ∧ k = .declared) → t.net = (takeMsg s m).net ++
          [{ plainMsg k (144 + p) (.router m.site) m.pennant with bytes := [0x08], dev := m.dev, op := m.op, dest := m.dev, hops := 1 }])) ∧
  (∀ (s : State) (m : NetMsg) (p : Nat), arrives s m = true → m.frm = .port p → homeHere s m.dest = true →
    (m.kind = .declare → ∃ t st, exec (.declaration m false) s = .next t ∧
      st = (if declPending s m.bytes = true then 5 else declStatus s (declsHeld s) m.bytes) ∧
      t.net = (takeMsg s m).net ++
        [{ plainMsg .declared (144 + p) (.router m.site) 0 with bytes := [st], dev := m.dev, op := m.op, dest := m.dev, hops := 1 }] ∧
      (st ≠ 0 → t.decls = s.decls) ∧ (st = 0 → ∃ d, declOf t (blockField m.bytes 63 40) = some d ∧ d.block = m.bytes)) ∧
    (m.kind = .declared → ∀ o st, s.declOps.find? (fun o => o.id = m.op && o.asked && o.result.isNone) = some o → m.bytes = [st] →
      (st = 0 ∨ st = 5 ∨ st = 8) → ∃ t, exec (.declaration m false) s = .next t ∧ declResult t o.id st ∧
        (st ≠ 0 → t.decls = s.decls) ∧ (st = 0 → (declOf t (blockField o.block 63 40)).isSome = true))) ∧
  (∀ (s : State) (m : NetMsg) (o : DeclOp), s.declOps.find? (fun o => o.id = m.op) = some o → o.asked = true → o.result = none →
    portTo s (declHome o.block) = none → ∃ t, exec (.declaration m true) s = .next t ∧ declResult t o.id 8 ∧ t.decls = s.decls) ∧
  (∀ (s : State) (m : NetMsg) (r : Nat), arrives s m = true → m.site = r → r < 80 → m.kind = .interest → interestPath (takeMsg s m) m = none →
    exec (.interest m) s = .next (sendNet (takeMsg s m) { plainMsg .unserved (faceSite r m.frm) (.router r) m.pennant with bytes := [0x08] })) ∧
  (∀ (s : State) (m : NetMsg) (u : State) (path : List Nat) (r : Nat), arrives s m = true → m.site = r → r < 80 →
    u = (match m.frm with
      | .port _ => if homeHere s m.dest = true then takeMsg s m else wakePeer (takeMsg s m) m.dest
      | _ => takeMsg s m) →
    (m.kind = .interest → interestPath (takeMsg s m) m = some path →
      (path = [] → routerDead s r = true → exec (.interest m) s =
        .next (sendNet u { plainMsg .unserved (faceSite r m.frm) (.router r) m.pennant with bytes := [0x0C] })) ∧
      (path = [] → routerDead s r = false → ∀ x, storedAt (routerAt s r) m.pennant = some x → x.spilled = false →
        exec (.interest m) s = .next (sendNet u { plainMsg .delivery (faceSite r m.frm) (.router r) m.pennant with bytes := x.bytes })) ∧
      (path = [] → routerDead s r = false → storedAt (routerAt s r) m.pennant = none → hasTomb (routerAt s r) m.pennant = true →
        ∃ t, exec (.interest m) s = .next t ∧ t.net = u.net ++ [plainMsg .never (faceSite r m.frm) (.router r) m.pennant] ∧
          t.routers = s.routers) ∧
      (path ≠ [] ∨ routerDead s r = false ∧ storedAt (routerAt s r) m.pennant = none ∧ hasTomb (routerAt s r) m.pennant = false →
        (∀ e, pitFind (routerAt s r) m.pennant = some e → ∃ t e', exec (.interest m) s = .next t ∧ t.net = u.net ∧
          pitFind (routerAt t r) m.pennant = some e' ∧ m.frm ∈ e'.faces ∧ (∀ f, f ∈ e'.faces ↔ f ∈ e.faces ∨ f = m.frm) ∧
          e'.mask = e.mask ||| m.mask ∧ e'.expiry = max e.expiry m.expiry) ∧
        (pitFind (routerAt s r) m.pennant = none → (routerAt s r).pit.length < 4096 →
          ∃ t, exec (.interest m) s = .next t ∧ pitFind (routerAt t r) m.pennant = some
              { pennant := m.pennant, faces := [m.frm], mask := m.mask, expiry := m.expiry, path := path, tomb := false,
                dest := m.dest, hops := m.hops } ∧
            (∀ x rest, path = x :: rest → t.net = u.net ++
              [{ plainMsg .interest x (.router r) m.pennant with
                 mask := m.mask, expiry := m.expiry, path := rest, dest := m.dest, hops := if 144 ≤ x then m.hops + 1 else m.hops }])) ∧
        (pitFind (routerAt s r) m.pennant = none → 4096 ≤ (routerAt s r).pit.length →
          ∃ t, exec (.interest m) s = .next t ∧ t.net = u.net ++ [plainMsg .nack (faceSite r m.frm) (.router r) m.pennant] ∧
            t.routers = s.routers)))) ∧
  (∀ (s : State) (m : NetMsg) (u : State) (r : Nat), arrives s m = true → m.site = r → r < 80 → u = takeMsg s m →
    (m.kind = .nack → ∀ e, pitFind (routerAt s r) m.pennant = some e → ∃ t, exec (.interestNack m) s = .next t ∧
      pitFind (routerAt t r) m.pennant = none ∧ t.net = u.net ++ e.faces.map fun f => plainMsg .nack (faceSite r f) (.router r) m.pennant)) ∧
  (∀ (s : State) (m : NetMsg) (c : Nat) (w : Want), arrives s m = true → m.kind = .nack → m.site = 80 + c → c < 64 →
    wantOf s c m.pennant = some w → ∃ t, exec (.interestNack m) s = .next t ∧ wantOf t c m.pennant = some
      { w with retries := w.retries + 1, resend := some (s.time + 64 * 2 ^ min w.retries 10) }) ∧
  (∀ (s : State) (c : Nat) (pn : W64) (w : Want) (k : Nat), wantOf s c pn = some w → w.resend = some k → k ≤ s.time →
    localRecords s c pn ≠ [] → ∃ t, exec (.interestRetry c pn) s = .next t ∧
      (∀ path, declOf s (pnTensor pn) ≠ none → pnPath s (clusterRouter c) pn (pnHome s pn) = some path →
        wantOf t c pn = some { w with resend := none } ∧ ∃ x, t.net = s.net ++ [x] ∧ x.kind = .interest ∧
          x.site = clusterRouter c ∧ x.pennant = pn ∧ x.path = path ∧ x.mask = BitVec.ofNat 64 (2 ^ c)) ∧
      ((declOf s (pnTensor pn) = none ∨ pnPath s (clusterRouter c) pn (pnHome s pn) = none) → t.net = s.net ∧
        (∀ o ∈ localRecords s c pn, ∃ x ∈ t.ops, x.id = o.id ∧ x.stage = .ended (if declOf s (pnTensor pn) = none then 6 else 8)) ∧
        ((s.ops.map (·.id)).Nodup → wantOf t c pn = none))) ∧
  ∀ (s : State) (r : Nat) (pn : W64) (x : Stored), storedAt (routerAt s r) pn = some x → x.spilled = true →
    (storeUse (routerAt s r) + x.bytes.length / 128 ≤ 32768 →
      ∃ t, exec (.refill r pn) s = .next t ∧ storedAt (routerAt t r) pn = some { x with spilled := false } ∧
        (∀ m ∈ (routerAt s r).waiting, m.kind = .interest → m.pennant = pn → m ∈ t.net)) ∧
    (makeRoom s r (x.bytes.length / 128) 40000 = none →
      ∃ t, exec (.refill r pn) s = .next t ∧ storedAt (routerAt t r) pn = some x ∧
        (∀ m ∈ (routerAt s r).waiting, m.kind = .interest → m.pennant = pn →
          { plainMsg .delivery (faceSite r m.frm) (.router r) pn with bytes := x.bytes } ∈ t.net ∧ m ∉ (routerAt t r).waiting))

/-- R284, R350, R359, R364, R366, R367, R368: a publication whose snapshot has not been taken takes it, and goes on to its
rendezvous router, where it is refused, or stored and its operation ended with success, and one of another device is answered;
one that has gone to another device ends with the status it answers; a delivery at a router frees the entry and goes to each
of its faces, and at an engine its bytes stand at the destination of the record that waits, which ends with success; the
descriptors of a broadcast and its chunks are collected until the last chunk and the eighth descriptor have come. R286, R357,
R363, R371, R372, R374: a record that has expired, or that a never-produced answer reaches, ends with 0x06, one whose interest
cannot be served with the status the answer carries; an entry past its expiry is freed and counted in EXPIRED, as is a
tombstone at its end; a record that NCAN named while its tile was coming does not expire; a dropped tile, or one at the end of
its life, is stored no longer, its entry is freed and a tombstone stands in its place until its own end; the drop of a whole
tensor frees its declaration; a cancel takes its face from the entry, frees an entry left with none and goes on, and stops at
one that other faces use (log 26). A router of a fenced stack, which faces a broadcast leaves: log 26 as well. -/
def Obligations.NamedDeliveries : Prop :=
  ((∀ (s : State) (m : NetMsg) (u : State) (o : EngOp), arrives s m = true → m.kind = .publication → m.site < 80 → u = takeMsg s m →
     pubOp s m = some o → inTransit s m = none →
     (declOf s (pnTensor m.pennant) = none → ∃ t, exec (.publication m) s = .next t ∧ { o with stage := .ended 5 } ∈ t.ops) ∧
     (∀ d, declOf s (pnTensor m.pennant) = some d → m.bytes = [] → o.stage = .issued → findOp s o.id = some o →
       (homeHere s (declHome d.block) = false → portTo s (declHome d.block) = none → ∃ t, exec (.publication m) s = .next t ∧
         findOp t o.id = some { o with stage := .ended 8 }) ∧
       (homeHere s (declHome d.block) = true → ∃ t, exec (.publication m) s = .next t ∧
         (∀ st, snapshot u o (declBytes d.block) = .error st → findOp t o.id = some { o with stage := .ended st }) ∧
         (∀ bs, snapshot u o (declBytes d.block) = .ok bs → findOp t o.id = some { o with stage := .sent, port := none } ∧
           ∃ y, t.net = u.net ++ [y] ∧ y.kind = .publication ∧ y.site = rdvRouter m.pennant ∧ y.pennant = m.pennant ∧ y.bytes = bs ∧
             y.op = o.id ∧ y.crew = crewKey o.grp))) ∧
     (∀ d, declOf s (pnTensor m.pennant) = some d → m.bytes ≠ [] →
       (m.site ≠ rdvRouter m.pennant → ∃ y, exec (.publication m) s = .next (sendNet u y) ∧ y.kind = .publication ∧
         y.site = rdvRouter m.pennant ∧ y.pennant = m.pennant ∧ y.bytes = m.bytes ∧ y.op = m.op) ∧
       (m.site = rdvRouter m.pennant → routerDead s m.site = true → ∃ t, exec (.publication m) s = .next t ∧
         { o with stage := .ended 0x0C } ∈ t.ops ∧ t.routers = s.routers) ∧
       (m.site = rdvRouter m.pennant → routerDead s m.site = false → pubRefused s m.site m d = true → ∃ t, exec (.publication m) s = .next t ∧ { o with stage := .ended 0x0A } ∈ t.ops ∧
         t.routers = s.routers) ∧
       (m.site = rdvRouter m.pennant → routerDead s m.site = false → pubRefused s m.site m d = false →
         storeUse (routerAt s m.site) + m.bytes.length / 128 ≤ 32768 →
         ∃ t, exec (.publication m) s = .next t ∧ { o with stage := .ended 0 } ∈ t.ops ∧
           storedAt (routerAt t m.site) m.pennant = some
             { pennant := m.pennant, bytes := m.bytes, till := s.time + declLife d.block, spilled := false } ∧
           ∀ e, pitFind (routerAt s m.site) m.pennant = some e →
             (maskCount e.mask < 8 → pitFind (routerAt t m.site) m.pennant = none ∧ ∀ f ∈ e.faces,
               { plainMsg .delivery (faceSite m.site f) (.router m.site) m.pennant with bytes := m.bytes } ∈ t.net) ∧
             (∀ n, 8 ≤ maskCount e.mask → deliveryNum s (routerWriter m.site) = some n → pitFind (routerAt t m.site) m.pennant = none ∧
               ∀ q, q < 8 → q < s.planes.length → ∃ y ∈ (nth t.planes q idlePlane).pend, y.writer = routerWriter m.site ∧
                 y.msg = .tileDesc n m.pennant e.mask (m.bytes.length / 128 - 1))))) ∧
   (∀ (s : State) (m : NetMsg) (p : Nat) (d : Decl), arrives s m = true → m.kind = .publication → m.site < 80 → m.dev ≠ 0xFFFF →
     m.frm = .port p → homeHere s m.dest = true → declOf s (pnTensor m.pennant) = some d → m.bytes ≠ [] → m.site = rdvRouter m.pennant →
     routerDead s m.site = false → pubRefused s m.site m d = true → ∃ t y, exec (.publication m) s = .next t ∧ t.routers = s.routers ∧
       y ∈ t.net ∧ y.kind = .stored ∧ y.site = 144 + p ∧ y.bytes = [0x0A] ∧ y.op = m.op) ∧
   (∀ (s : State) (id : Nat) (st : Byte) (data : List Byte) (o : EngOp), findOp s id = some o → o.stage = .sent →
     (∃ src pn rel, o.kind = .npub src pn rel) →
     (o.port ≠ none → st = 0 ∨ st = 5 ∨ st = 8 ∨ st = 0x0A ∨ st = 0x0C →
       ∃ t, exec (.engineOperationComplete id st data) s = .next t ∧ OpEnded s t o st) ∧
     (o.port = none → exec (.engineOperationComplete id st data) s = .next s)) ∧
   (∀ (s : State) (m : NetMsg) (u : State), arrives s m = true → m.kind = .delivery → u = takeMsg s m →
     (∀ e, m.site < 80 → pitFind (routerAt s m.site) m.pennant = some e → maskCount e.mask < 8 →
       ∃ t, exec (.tileDelivery m) s = .next t ∧ pitFind (routerAt t m.site) m.pennant = none ∧ t.net = u.net ++ e.faces.map fun f =>
         { plainMsg .delivery (faceSite m.site f) (.router m.site) m.pennant with bytes := m.bytes }) ∧
     (∀ c o, c < 64 → m.site = 80 + c → localRecords s c m.pennant = [o] → recordReady s o = true → findOp s o.id = some o →
       ∃ t st, exec (.tileDelivery m) s = .next t ∧ { o with stage := .ended st } ∈ t.ops ∧ wantOf t c m.pennant = none ∧ t.cur = s.cur ∧
         (∀ x, recordRuns s o 0 m.bytes.length = .error x → st = x ∧ ∀ a, memGet t a = memGet s a) ∧
         (∀ r, m.bytes.length = 128 → recordRuns s o 0 128 = .ok [r] → r.len = 128 → (r.place = .host → s.linkUp = true) →
           firstErr (storeErr s) [r] = none → st = 0 ∧
           (∀ i (h : i < m.bytes.length), stillOwned o (r.pa + i) → memGet t (r.pa + i) = m.bytes[i]) ∧
           ∀ a, (a < r.pa ∨ r.pa + 128 ≤ a ∨ ¬ stillOwned o a) → ¬ leafByte [r] a → memGet t a = memGet s a) ∧
         (∀ dst pn d, o.kind = .nreq dst true pn → findCrew s o.grp = some d → dst.toNat + m.bytes.length ≤ d.splen →
           m.bytes.length % 128 = 0 → st = 0 ∧ ∀ i (h : i < m.bytes.length), ∀ a,
             a = scratchPa d.cluster d.core (d.spbase + dst.toNat + i) → stillOwned o a → memGet t a = m.bytes[i]))) ∧
   ∀ (s : State) (p : Nat) (x : Slot) (u : State), headSlot s p = some x → u = takeSlot s p x →
     (∀ num pn mask chunks, x.msg = .tileDesc num pn mask chunks → (∀ c ∈ s.collects, ¬ (c.writer = x.writer ∧ c.num = num)) →
       ∃ t, exec (.tile p) s = .next t ∧ t.collects = s.collects ++
         [{ writer := x.writer, num := num, pennant := pn, mask := mask, chunks := chunks + 1, descs := 1, done := false, got := [] }]) ∧
     (∀ num pn mask chunks c, x.msg = .tileDesc num pn mask chunks →
       s.collects.find? (fun c => c.writer = x.writer && c.num = num) = some c → ∃ t, exec (.tile p) s = .next t ∧
         { t with collects := u.collects } = u ∧ (c.done = false ∨ c.descs + 1 < 8 →
           t.collects.find? (fun c => c.writer = x.writer && c.num = num) = some { c with descs := c.descs + 1 }) ∧
         (c.done = true → 8 ≤ c.descs + 1 → t.collects.length < s.collects.length)) ∧
     (∀ num idx bytes c, x.msg = .tileChunk num idx bytes → s.collects.find? (fun c => c.writer = x.writer && c.num = num) = some c →
       c.done = false →
       ((c.got.filter fun g => decide (g.1 ≠ idx)).length + 1 < c.chunks → ∃ t, exec (.tile p) s = .next t ∧
         t.collects.find? (fun c => c.writer = x.writer && c.num = num) =
           some { c with got := (idx, bytes) :: c.got.filter fun g => decide (g.1 ≠ idx) } ∧ { t with collects := u.collects } = u) ∧
       (c.chunks ≤ (c.got.filter fun g => decide (g.1 ≠ idx)).length + 1 → ∃ t, exec (.tile p) s = .next t ∧
         (c.descs < 8 → t.collects.find? (fun c => c.writer = x.writer && c.num = num) = some { c with done := true, got := [] }) ∧
         (8 ≤ c.descs → t.collects.length < s.collects.length)))) ∧
  (∀ s : State,
     (∀ id o dst own pn, findOp s id = some o → o.kind = .nreq dst own pn → o.stage = .sent → o.expiry ≤ s.time → o.expiry ≠ 0 →
       ∃ t, exec (.localRecordExpiry id) s = .next t ∧ { o with stage := .ended 6 } ∈ t.ops ∧ t.cur = s.cur ∧ ∀ a, memGet t a = memGet s a) ∧
     (∀ r pn e, pitFind (routerAt s r) pn = some e → e.expiry < s.time → ∃ t, exec (.pitEntryExpiry r pn) s = .next t ∧
       pitFind (routerAt t r) pn = none ∧ (∀ q, q ≠ r → routerAt t q = routerAt s q) ∧
       (r < 80 → mgmtField t (routerOff r 2) 31 0 = (mgmtField s (routerOff r 2) 31 0 + 1) % 2 ^ 32)) ∧
     (∀ id o dst own pn, findOp s id = some o → o.kind = .nreq dst own pn → o.expiry = 0 → exec (.localRecordExpiry id) s = .next s) ∧
     (∀ r pn x, storedAt (routerAt s r) pn = some x → x.till ≤ s.time → (routerAt s r).pit.length < 4096 →
       ∃ t, exec (.tileLifetimeEnd r pn) s = .next t ∧ storedAt (routerAt t r) pn = none ∧ pitFind (routerAt t r) pn = none ∧
         hasTomb (routerAt t r) pn = true) ∧
     (∀ r pn e, (routerAt s r).pit.find? (fun e => e.pennant = pn && e.tomb) = some e → e.expiry ≤ s.time →
       ∃ t, exec (.tombstoneEnd r pn) s = .next t ∧ hasTomb (routerAt t r) pn = false ∧ pitFind (routerAt t r) pn = pitFind (routerAt s r) pn ∧
         (r < 80 → mgmtField t (routerOff r 2) 31 0 = (mgmtField s (routerOff r 2) 31 0 + 1) % 2 ^ 32)) ∧
     (∀ m u r, arrives s m = true → m.site = r → r < 80 → u = takeMsg s m → inTransit s m = none →
       (m.kind = .drop → endsDecl m.pennant = false → homeHere s (pnHome s m.pennant) = true →
         (r ≠ rdvRouter m.pennant → ∃ y, exec (.drop m) s = .next (sendNet u y) ∧ y.kind = .drop ∧ y.site = rdvRouter m.pennant ∧
           y.pennant = m.pennant) ∧
         (r = rdvRouter m.pennant → (routerAt s r).pit.length < 4096 → ∃ t, exec (.drop m) s = .next t ∧
           storedAt (routerAt t r) m.pennant = none ∧ pitFind (routerAt t r) m.pennant = none ∧ hasTomb (routerAt t r) m.pennant = true ∧
           ∀ e, pitFind (routerAt s r) m.pennant = some e → ∀ f ∈ e.faces, plainMsg .never (faceSite r f) (.router r) m.pennant ∈ t.net)) ∧
       (m.kind = .drop → homeHere s (pnHome s m.pennant) = false → ∀ p, portTo s (pnHome s m.pennant) = some p →
         ∃ t y, exec (.drop m) s = .next t ∧ t.net = u.net ++ [y] ∧ y.kind = .drop ∧ y.site = 144 + p ∧ y.pennant = m.pennant) ∧
       (m.kind = .drop → endsDecl m.pennant = true → ∃ t, exec (.drop m) s = .next t ∧ declOf t (pnTensor m.pennant) = none) ∧
       (neverKind m = true → ∀ e, pitFind (routerAt s r) m.pennant = some e → ∃ t, exec (.neverProduced m) s = .next t ∧
         pitFind (routerAt t r) m.pennant = none ∧
         t.net = u.net ++ e.faces.map fun f => { plainMsg m.kind (faceSite r f) (.router r) m.pennant with bytes := m.bytes }) ∧
       (m.kind = .cancel → ∀ e, pitFind (routerAt s r) m.pennant = some e →
         ((∀ f ∈ e.faces, f = m.frm) → ∃ t, exec (.cancel m) s = .next t ∧ pitFind (routerAt t r) m.pennant = none ∧
           (∀ x rest, e.path = x :: rest → t.net = u.net ++ [plainMsg .cancel x (.router r) m.pennant])) ∧
         ((∃ f ∈ e.faces, f ≠ m.frm) → ∃ t e', exec (.cancel m) s = .next t ∧ t.net = u.net ∧
           pitFind (routerAt t r) m.pennant = some e' ∧ ∀ f, f ∈ e'.faces ↔ f ∈ e.faces ∧ f ≠ m.frm))) ∧
     (∀ m c o, arrives s m = true → neverKind m = true → m.site = 80 + c → c < 64 → localRecords s c m.pennant = [o] → findOp s o.id = some o →
       ∃ t, exec (.neverProduced m) s = .next t ∧ { o with stage := .ended (if m.kind = .never then 6 else nth m.bytes 0 0) } ∈ t.ops ∧
         wantOf t c m.pennant = none))

/-! ### Loam commands, collectives, migration, domains (R83, R93, R94, R375 to R393) -/

/-- R114, R376, R378, R380, R381, R382, R393: a Loam command waits for those it is ordered after, takes its destination over and waits for its lines; one
that may start ends with the status of the first page that refuses it, or with success: ZERO leaves zeros at its
destination, COPY the source's bytes, GRED row after row the sums of the rows it gathers, those before a row that fails standing, and SADD a table row with its
update added; shown for destinations within one line, but for bytes that a later owner of the line has written already. One that adds does so
where its turn has come, piece by piece (log 101). -/
def Obligations.LoamCommands : Prop :=
  (∀ (s : State) (id : Nat) (o : EngOp) (b : List Byte) (cw : W64) (q : W32) (a : Actor), findOp s id = some o → o.kind = .skcmd b cw q →
    a = opActor o →
    ∀ turn : Prop, turn = (addsTo b = true → ∀ z ∈ o.owned, pieceGone o z.pa z.len = false → pieceTurn s o z = true) →
    ∀ wrote : State → Run → List Byte → List Run → Prop, wrote = (fun t d bs rs => { o with stage := .ended 0 } ∈ t.ops ∧ t.cur = s.cur ∧
      (∀ i (h : i < bs.length), stillOwned o (d.pa + i) → memGet t (d.pa + i) = bs[i]) ∧
      ∀ x, (x < d.pa ∨ d.pa + bs.length ≤ x) → ¬ leafByte rs x → memGet t x = memGet s x) →
    ∀ reaches : State → W64 → Nat → Run → Prop, reaches = (fun u dst n d => engineRuns u a .store dst n = .ok [d] ∧ d.len = n ∧ 0 < n ∧
      n + dst.toNat % 128 ≤ 128 ∧ firstErr (storeErr u) [d] = none ∧ (d.place = .host → u.linkUp = true)) →
    (∀ i, (i, blkOp b) ∈ [(Instr.loamZero id, 1), (.loamCopy id, 2), (.gred id, 3), (.sadd id, 4), (.coll id, 5)] →
      (o.stage = .sent → o.after ≠ [] → exec i s = .next s) ∧
      (o.stage = .sent → o.after = [] → ∃ t own, exec i s = .next t ∧ findOp t id = some { o with stage := .issued, owned := own } ∧
        ∀ r ∈ ownedBy s a (blockDests s b), ∀ x, r.1 ≤ x → x < r.1 + r.2 → ∃ y ∈ own, y.pa ≤ x ∧ x < y.pa + y.len) ∧
      (o.stage = .issued → (o.after ≠ [] ∨ ownsAll o = false) → exec i s = .next s)) ∧
    (addsTo b = false → cmdReady o 1 b = true →
      (∀ st, pagesBad s o .store (blkA b) (blkCount b) = some st → exec (.loamZero id) s = .next (endOp s o st)) ∧
      (∀ d, reaches s (BitVec.ofNat 64 (blkA b)) (blkCount b) d →
        ∃ t, exec (.loamZero id) s = .next t ∧ wrote t d (List.replicate (blkCount b) 0) [d])) ∧
    (addsTo b = false → cmdReady o 2 b = true → ∀ row, row = { src := BitVec.ofNat 64 (blkB b), dst := BitVec.ofNat 64 (blkA b), len := blkCount b } →
      (rowsClash [row] = true → exec (.loamCopy id) s = .next (endOp s o 5)) ∧
      (∀ st, rowsClash [row] = false → rowsRefused s a [row] = some st → exec (.loamCopy id) s = .next (endOp s o st)) ∧
      (∀ r d s1, rowsClash [row] = false → chunkFails s a row = none → engineRuns s a .load row.src row.len = .ok [r] → r.len = row.len →
        s1 = readMarks s a [(row.src, row.len)] → reaches s1 row.dst row.len d →
        ∃ t, exec (.loamCopy id) s = .next t ∧ wrote t d (engineRead s o.mark [r]) [r, d])) ∧
    (turn → cmdReady o 3 b = true → ∀ idx s1 n,
      spansMeet (blkA b) (blkCount b * blkD b) (blkB b) (blkE b * blkD b) = false →
      spansMeet (blkA b) (blkCount b * blkD b) (blkC b) (4 * blkCount b * blkBag b) = false →
      n = blkCount b * blkBag b → cmdSource s o (blkC b) (4 * n) = .ok idx → (∀ i ∈ indexList idx, i < blkE b) →
      pagesBad s o .store (blkA b) (blkCount b * blkD b) = none →
      (blkAcc b = true → pagesBad s o .load (blkA b) (blkCount b * blkD b) = none) →
      (∀ i ∈ indexList idx, pagesBad s o .load (blkB b + i * blkD b) (blkD b) = none) →
      s1 = readMarks s a ((BitVec.ofNat 64 (blkC b), 4 * n) ::
        (indexList idx).map fun i => (BitVec.ofNat 64 (blkB b + i * blkD b), blkD b)) →
      ∀ r, r = gredRows s1 o b (indexList idx) (List.range (blkCount b)) → exec (.gred id) s = .next (endOp r.2 o r.1) ∧
        ∀ out d, blkCount b = 1 → gredData s1 o b (indexList idx) 0 = .ok out → reaches s1 (BitVec.ofNat 64 (blkA b)) out.length d →
          r.1 = 0 ∧ ∀ i (h : i < out.length), stillOwned o (d.pa + i) → memGet r.2 (d.pa + i) = out[i]) ∧
    (turn → cmdReady o 4 b = true → ∀ idx i src old r d s1,
      spansMeet (blkA b) (blkE b * blkD b) (blkB b) (blkCount b * blkD b) = false →
      spansMeet (blkA b) (blkE b * blkD b) (blkC b) (4 * blkCount b) = false → blkCount b = 1 →
      cmdSource s o (blkC b) 4 = .ok idx → indexList idx = [i] → i < blkE b → pagesBad s o .load (blkB b) (blkD b) = none →
      pagesBad s o .load (blkA b + i * blkD b) (blkD b) = none → pagesBad s o .store (blkA b + i * blkD b) (blkD b) = none →
      cmdSource s o (blkB b) (blkD b) = .ok src → src.length = blkD b →
      s1 = readMarks s a [(BitVec.ofNat 64 (blkC b), 4), (BitVec.ofNat 64 (blkB b), blkD b)] →
      engineRuns s1 a .store (BitVec.ofNat 64 (blkA b + i * blkD b)) (blkD b) = .ok [r] → sourceBad s1 [r] = none → r.len = blkD b →
      old = memRead s1 r.pa r.len → blkD b % dtypeBytes (blkType b) = 0 → reaches s1 (BitVec.ofNat 64 (blkA b + i * blkD b)) (blkD b) d →
      ∃ t, exec (.sadd id) s = .next t ∧ { o with stage := .ended 0 } ∈ t.ops ∧ ∀ bs, bs = elemsBytes (blkType b)
          ((List.range (rowElems (blkType b) old).length).map fun e =>
            saddElem (blkType b) (nth (rowElems (blkType b) old) e 0) (nth (rowElems (blkType b) src) e 0)) →
        ∀ k (h : k < bs.length), stillOwned o (d.pa + k) → memGet t (d.pa + k) = bs[k]) ∧
    (addsTo b = true → (∃ z ∈ o.owned, pieceGone o z.pa z.len = false) →
      (∀ z ∈ o.owned, pieceGone o z.pa z.len = false → pieceTurn s o z = false) →
      ∀ i, (i = .gred id ∧ cmdReady o 3 b = true) ∨ (i = .sadd id ∧ cmdReady o 4 b = true) →
        exec i s = .next s ∨ ∃ t st, st ≠ 0 ∧ exec i s = .next t ∧ findOp t id = some { o with stage := .ended st })) ∧
  (∀ (s : State) (o : EngOp) (b : List Byte) (idx : List Nat) (i e sz : Nat) (t : Nat) (out start : List Byte) (row : Nat → List Byte),
    gredData s o b idx i = .ok out → t = blkType b → sz = dtypeBytes t → blkD b % sz = 0 → e < blkD b / sz → i * blkBag b + blkBag b ≤ idx.length →
    (∀ j k, j < blkBag b → idx[i * blkBag b + j]? = some k → cmdSource s o (blkB b + k * blkD b) (blkD b) = .ok (row j)) →
    (blkAcc b = true → ownedSource s o (blkA b + i * blkD b) (blkD b) = .ok start) →
    areaNat out (sz * e) sz = redFinal t ((List.range (blkBag b)).foldl (fun x j => redAdd t x (widenElem t (areaNat (row j) (sz * e) sz)))
      (if blkAcc b = true then widenElem t (areaNat start (sz * e) sz) else 0))) ∧
  ∀ x y : Nat, redAdd 4 x y = (x + y) % 2 ^ 32 ∧ redFinal 4 x = x ∧ redFinal 8 x = x ∧
    (∀ t, t ≠ 4 → accumulated 0 (decodeNum fmtF32 x) (decodeNum fmtF32 y) (redAdd t x y)) ∧
    (x < 2 ^ 16 → rational (decodeNum fmtF32 (widenElem 9 x)) = rational (decodeNum fmtBf16 x)) ∧
    (decodeNum fmtF32 x = .nan → redFinal 9 x = nanCode fmtBf16) ∧
    ∀ q, rational (decodeNum fmtF32 x) = some q → q ≠ 0 → ∃ n, rational n = some q ∧ redFinal 9 x = (roundTo 0 fmtBf16 .rne 0 n).1

/-- R385, R386, R391: a COLL that is not valid ends with 0x05; a valid one is accepted once those of its unit and group before it have ended, with its timeout and
with the registrations of that moment, which a later change leaves as they are (log 87); a set that does not agree, that is late, whose link is lost, that loses a member before it has issued or that
fails on its way ends with 0x0B; a set that agrees writes its sections, and an all-gather of rank 0 within one line the other members' bytes in
rank order. -/
def Obligations.Collectives : Prop :=
  ∀ (s : State) (id : Nat) (o : EngOp) (b : List Byte) (cw : W64) (q : W32), findOp s id = some o → o.kind = .skcmd b cw q →
    (cmdReady o 5 b = true →
      (collBad s o b = true → exec (.coll id) s = .next (endOp s o 5)) ∧
      (collBad s o b = false → ∃ t y, exec (.coll id) s = .next t ∧ y ∈ t.ops ∧ y.id = id ∧ y.stage = .running ∧
        y.kind = .skcmd (keepRegs s b) cw q ∧ (b.length = 64 → y.expiry =
          (if bitsOf (groupReg s (blkUnit b) b) 62 32 = 0 then 0 else s.time + bitsOf (groupReg s (blkUnit b) b) 62 32 * 1000))) ∧
      (b.length = 64 → ∀ u, collM u (keepRegs s b) = collM s b ∧ collRank u (keepRegs s b) = collRank s b ∧
        collBase u (keepRegs s b) = collBase s b ∧ collNeed u (keepRegs s b) = collNeed s b)) ∧
    (o.stage = .running →
      (o.expiry ≠ 0 → o.expiry ≤ s.time → exec (.collectiveTimeout id) s = .next (endOp s o 0x0B)) ∧
      (∀ run, (ownsAll o = false ∨ collCut s b = false ∧
          (mgmtField s (portOff (16 + blkUnit b) 0) 63 62 ≠ 0 ∨ run.fails = false ∧ setThere s b run.inp = false)) → exec (.collectiveRun id run) s = .next s) ∧
      (∀ run, ownsAll o = true → (collCut s b = true ∨ mgmtField s (portOff (16 + blkUnit b) 0) 63 62 = 0 ∧
          (setThere s b run.inp = true ∧ setAgrees s b run.inp = false ∨ run.fails = true ∧ setThere s b run.inp = false)) → exec (.collectiveRun id run) s = .next (endOp s o 0x0B)) ∧
      (∀ run mine s1 n base, n = blkCount b → base = collBase s b → ownsAll o = true →
        mgmtField s (portOff (16 + blkUnit b) 0) 63 62 = 0 → setThere s b run.inp = true → setAgrees s b run.inp = true →
        (∀ x ∈ collPieces s b, pagesBad s o .store (base + x.1) x.2 = none) →
        cmdSource s o (base + (collInput s b).1) (collInput s b).2 = .ok mine →
        s1 = readMarks s (opActor o) [(BitVec.ofNat 64 (base + (collInput s b).1), (collInput s b).2)] →
        (run.fails = true → ∃ t, exec (.collectiveRun id run) s = .next t ∧ { o with stage := .ended 0x0B } ∈ t.ops) ∧
        (run.fails = false → ∃ t r, exec (.collectiveRun id run) s = .next t ∧ { o with stage := .ended r.1 } ∈ t.ops ∧ t.mem = r.2.mem ∧
          r = collWrite o base s1 ((collPieces s b).zip (collResult s b ((run.inp.map (·.data)).set (collRank s b) mine)))) ∧
        (run.fails = false → collKind b = 1 → collRank s b = 0 → ∀ d out, out = (run.inp.drop 1).flatMap (·.data) →
          engineRuns s1 (opActor o) .store (BitVec.ofNat 64 (base + n)) out.length = .ok [d] → d.len = out.length → 0 < out.length →
          out.length + (BitVec.ofNat 64 (base + n)).toNat % 128 ≤ 128 → firstErr (storeErr s1) [d] = none →
          (d.place = .host → s.linkUp = true) → ∃ t, exec (.collectiveRun id run) s = .next t ∧ { o with stage := .ended 0 } ∈ t.ops ∧
            ∀ i (h : i < out.length), stillOwned o (d.pa + i) → memGet t (d.pa + i) = out[i])))

/-- R83, R93, R94, R346, R388, R389, R390, R392: MIG checks its page, takes the frame at the head of its ring and the words of both frames, then moves the page: its bytes stand in
the new frame, the leaf names it with its tier, no cached translation of the page is left and its invalidation goes out; once that is acknowledged the old frame
goes to its ring, and the record is appended and the operation ended. A frame that cannot be used abandons the move. A unit has one move under
way (log 111), and none while its log is full or off (log 63). At the end of a window a hot page gets a move of the unit's own, under the address the
event names (log 24). Switching a domain off clears ON, then READY with its contents gone; switching it on sets ON, then READY. What a domain
reads as after READY is a free value (log 11). -/
def Obligations.MigrationAndDomains : Prop :=
  (∀ (s : State) (id : Nat) (o : EngOp) (b : List Byte) (st : Nat), findOp s id = some o →
    ((∃ cw q, o.kind = .skcmd b cw q) ∨ o.kind = .heat b) → st = blkUnit b →
    ∀ ends : Byte → Prop, ends = (fun x => exec (.mig id) s = .next (endOp s o x)) →
    (o.move = none → cmdReady o 6 b = true →
      (∀ e, walk s o.ptbase (moveVa b) = .error e → ends (errStatus e)) ∧
      ∀ l, walk s o.ptbase (moveVa b) = .ok l →
        (o.priv = false → bitAt l.entry 5 = false → ends 1) ∧
        ((o.priv = true ∨ bitAt l.entry 5 = true) →
          (movable l = false → ends 5) ∧
          (movable l = true → bitsOf l.entry 10 9 = moveTier b → ends 0) ∧
          (movable l = true → bitsOf l.entry 10 9 ≠ moveTier b →
            (ringEmpty s st (moveTier b) = true → ends 5) ∧
            (ringEmpty s st (moveTier b) = false → moveBlocked s st = true → exec (.mig id) s = .next s) ∧
            (ringEmpty s st (moveTier b) = false → moveBlocked s st = false → ∀ old new m, old = bitsOf l.entry 51 12 * 4096 →
              new = ringFrame s st (moveTier b) → m = { tier := moveTier b, old := old, new := new, at_ := l.at_, phase := .claims } →
              ∃ t, exec (.mig id) s = .next t ∧ ringReg t st (moveTier b) 3 = ringReg s st (moveTier b) 3 + 1 ∧ t.mem = s.mem ∧
                (∀ e, (frameBad s old).or (frameBad s new) = some e →
                  findOp t id = some { o with stage := .running, move := some { m with phase := .logs e } }) ∧
                ((frameBad s old).or (frameBad s new) = none →
                  ∃ own, findOp t id = some { o with stage := .running, owned := own, move := some m } ∧
                    ∀ i, i < 4096 → ∀ a, a = old + i ∨ a = new + i → ∃ x ∈ own, x.pa ≤ a ∧ a < x.pa + x.len))))) ∧
    (∀ m, o.move = some m → o.stage = .running →
      (m.phase = .claims →
        (ownsAll o = false → exec (.mig id) s = .next s) ∧
        (ownsAll o = true →
          (∀ e, (frameBad s m.old).or (frameBad s m.new) = some e → ∃ t, exec (.mig id) s = .next t ∧
            OpReplaced s t { o with owned := [], move := some { m with phase := .logs e } }) ∧
          ((frameBad s m.old).or (frameBad s m.new) = none → leafStands s m = false → ∃ t, exec (.mig id) s = .next t ∧
            OpReplaced s t { o with owned := [], move := some { m with phase := .logs 5 } }) ∧
          ((frameBad s m.old).or (frameBad s m.new) = none → leafStands s m = true → pageBusy s o m.old = true → exec (.mig id) s = .next s) ∧
          ((frameBad s m.old).or (frameBad s m.new) = none → leafStands s m = true → pageBusy s o m.old = false →
            devReady s [(m.at_, 8)] = false → ∃ t, exec (.mig id) s = .next t ∧ t.mem = s.mem ∧ t.ops = s.ops) ∧
          ((frameBad s m.old).or (frameBad s m.new) = none → leafStands s m = true → pageBusy s o m.old = false →
            devReady s [(m.at_, 8)] = true → ∃ t v, exec (.mig id) s = .next t ∧ v ∈ t.invals ∧ v.asid = some o.asid ∧ v.len = 1 ∧
              v.lo = natBits (blkA b) 47 12 ∧ (∃ x ∈ t.ops, x.id = id ∧ x.move = some { m with phase := .invalidates v.id }) ∧
              (∀ i, i < 4096 → (m.new + i < m.at_ ∨ m.at_ + 8 ≤ m.new + i) → memGet t (m.new + i) = memGet s (m.old + i)) ∧
              (∀ a, (a < m.new ∨ m.new + 4096 ≤ a) → (a < m.at_ ∨ m.at_ + 8 ≤ a) → memGet t a = memGet s a) ∧
              numberAt t m.at_ 8 = (movedLeaf (BitVec.ofNat 64 (numberAt s m.at_ 8)) m.new m.tier).toNat ∧
              ∀ e ∈ t.tlb, ¬ ((e.asid = o.asid ∨ bitAt e.entry 6 = true) ∧ e.vbase ≤ natBits (moveVa b).toNat 47 0 ∧
                natBits (moveVa b).toNat 47 0 < e.vbase + e.size)))) ∧
      (∀ v, m.phase = .invalidates v →
        ((∃ i ∈ s.invals, i.id = v ∧ i.waiting ≠ []) → exec (.mig id) s = .next s) ∧
        ((∀ i ∈ s.invals, i.id = v → i.waiting = []) → devReady s [ringPlace s st (1 - m.tier)] = true →
          ∃ t, exec (.mig id) s = .next t ∧ findOp t id = some { o with owned := [], move := some { m with phase := .logs 0 } } ∧
            (ringFull s st (1 - m.tier) = true → t.ringKept = s.ringKept ++ [(st, 1 - m.tier, m.old)] ∧ t.mem = s.mem) ∧
            (ringFull s st (1 - m.tier) = false → ringReg t st (1 - m.tier) 2 = ringReg s st (1 - m.tier) 2 + 1 ∧
              (m.old < 2 ^ 64 → numberAt t (ringPlace s st (1 - m.tier)).1 8 = m.old)))) ∧
      (∀ e, m.phase = .logs e → ∀ pa, pa = logPlace s st →
        devReady s ((pa, 64) :: if e = 0 then [] else [ringPlace s st m.tier]) = true → m.new < 2 ^ 64 → m.old < 2 ^ 64 →
        ∃ t, exec (.mig id) s = .next t ∧ findOp t id = some { o with stage := .ended e } ∧
          loamRaw t st 0x118 = loamRaw s st 0x118 + 1 ∧ numberAt t pa 8 = (loamRaw s st 0x118).toNat ∧ numberAt t (pa + 16) 8 = m.old ∧
          numberAt t (pa + 24) 8 = (if e = 0 then m.new else 0) ∧ memGet t (pa + 40) = e ∧
          (e ≠ 0 → ringFull s st m.tier = false → ringReg t st m.tier 2 = ringReg s st m.tier 2 + 1)))) ∧
  (∀ (s : State) (st : Nat) (p : HeatPage) (l : Leaf), st < 16 → walk s p.ptbase p.va = .ok l →
    ((bitAt (loamRaw s st 0x100) 0 = false ∨ s.time < windowFrom s st + 100000) → exec (.heatWindow st [p]) s = .next s) ∧
    (bitAt (loamRaw s st 0x100) 0 = true → windowFrom s st + 100000 ≤ s.time →
      ∃ t, exec (.heatWindow st [p]) s = .next t ∧ windowFrom t st = s.time ∧ t.mem = s.mem ∧
        (movable l = true → heatLimit s st ≤ heatOf s (bitsOf l.entry 51 12) → homeStack (bitsOf l.entry 51 12 * 4096) = some st →
          ∃ o, t.ops = s.ops ++ [o] ∧ o.kind = .heat (heatBlock st (1 - bitsOf l.entry 10 9) p.va) ∧ o.asid = p.asid ∧ o.ptbase = p.ptbase ∧
            o.priv = true ∧ o.move = none ∧ cmdReady o 6 (heatBlock st (1 - bitsOf l.entry 10 9) p.va) = true) ∧
        ((movable l = false ∨ heatOf s (bitsOf l.entry 51 12) < heatLimit s st ∨ homeStack (bitsOf l.entry 51 12 * 4096) ≠ some st) →
          t.ops = s.ops))) ∧
  ∀ (s : State) (st d : Nat), st < 16 → d < 5 →
    (∃ t, exec (.domainSwitchOff st d) s = .next t ∧ bitAt (loamRaw t st 0x10) d = false ∧ domainOn t st d = false ∧ { t with loam := s.loam } = s) ∧
    (∃ t, exec (.domainSwitchOn st d) s = .next t ∧ bitAt (loamRaw t st 0x10) d = true ∧ { t with loam := s.loam } = s) ∧
    (bitAt (domainReg s st) d = false → bitAt (domainReg s st) (5 + d) = true → domainBusy s st d = false → ckptHolds s st d = false →
      ∃ t, exec (.domainPowerOff st d) s = .next t ∧ bitAt (domainReg t st) (5 + d) = false ∧
        (∀ c ∈ t.mem, inDomain st d c.1 = false) ∧ ∀ a, inDomain st d a = false → spGet t.mem a = spGet s.mem a) ∧
    (bitAt (domainReg s st) d = true → bitAt (domainReg s st) (5 + d) = false →
      ∃ t, exec (.domainReady st d) s = .next t ∧ domainOn t st d = true ∧ t.mem = s.mem)

/-! ### The scheduler (R298 to R324) -/

/-- R298, R300, R301, R302, R303, R305, R306, R309, R310, R311: the packet at RDIDX of a registered queue is taken, and RDIDX advances; one with a wrong field is rejected with
0x05, its record posted whatever CQE holds; a NOP completes at once, TIME at START, and one whose START lies ahead waits; a LAUNCH enters
the tail of its level, a GRAPH arms its nodes, a COPY ends with its copy's status, and a SIGNAL stores or adds its VALUE. A word that a cluster holds is taken back
first (R346, log 9). A rejected packet completes as any does, its node counted down where NV is 1 (log 72); a NOP does not look at START (log 67). -/
def Obligations.QueuePackets : Prop :=
  ∀ (s : State) (q : Nat) (p : BitVec 512) (c : Source) (u : State) (i : Instr), queueReady s q = true → p = nextPacket s q →
    c = packetSource s q → u = packetTaken s q → takesType q (bitsOf p 71 64) i →
    (devReady s [(queueHdr s q + 128, 8)] = false → ∃ t, exec i s = .next t ∧ t.mem = s.mem ∧ t.jobs = s.jobs ∧ t.launches = s.launches ∧
      t.posts = s.posts ∧ t.cur = s.cur) ∧
    (devReady s [(queueHdr s q + 128, 8)] = true →
    numberAt u (queueHdr s q + 128) 8 = (c.seq + 1) % 2 ^ 64 ∧
    (∀ a, (a < queueHdr s q + 128 ∨ queueHdr s q + 136 ≤ a) → memGet u a = memGet s a) ∧
    (packetOk p = false ∨ bitsOf p 71 64 = 1 ∧ launchDesc u p = none →
      ∃ t, exec i s = .next t ∧ WorkEnded u t { c with cqe := true } 5 0) ∧
    (bitsOf p 71 64 = 0 → packetOk p = true → ∃ t, exec i s = .next t ∧ WorkEnded u t c 0 0) ∧
    (2 ≤ bitsOf p 71 64 → packetOk p = true → (s.time < bitsOf p 191 128 ∨ devReady u (packetPlaces u p) = false) → ∃ j, exec i s = .next { u with
        nextId := u.nextId + 1, jobs := u.jobs ++ [j] } ∧ j.id = u.nextId ∧ j.pkt = p ∧ j.src = c ∧ j.start = bitsOf p 191 128 ∧
        j.waiting = true ∧ j.nodes = []) ∧
    (bitsOf p 191 128 ≤ s.time → packetOk p = true → devReady u (packetPlaces u p) = true →
      (bitsOf p 71 64 = 5 → ∃ t, exec i s = .next t ∧ WorkEnded u t c 0 0) ∧
      (bitsOf p 71 64 = 3 → ∀ (row : CopyRow) (r : Byte × State),
        row = ⟨BitVec.ofNat 64 (bitsOf p 319 256), BitVec.ofNat 64 (bitsOf p 255 192), bitsOf p 351 320⟩ → r = copyRows u (userActor (bitsOf p 367 352) (bitsOf p 407 368)) none u.hist.length [row] →
        ∃ t, exec i s = .next t ∧ WorkEnded r.2 t c r.1 0) ∧
      (bitsOf p 71 64 = 4 → ∀ a va, a = userActor (bitsOf p 351 336) (bitsOf p 391 352) → va = BitVec.ofNat 64 (bitsOf p 255 192) →
        (∀ st, engineRuns u a .store va 8 = .error st → ∃ t, exec i s = .next t ∧ WorkEnded u t c st 0) ∧
        (∀ r, engineRuns u a .store va 8 = .ok [r] → r.len = 8 → (r.place = .host → u.linkUp = true) →
          firstErr (if bitsOf p 327 320 = 1 then atomErr u else storeErr u) [r] = none →
          ∃ v t, exec i s = .next t ∧ WorkEnded v t c 0 0 ∧ v.cur = u.cur ∧ v.posts = u.posts ∧
            numberAt t r.pa 8 = ((if bitsOf p 327 320 = 1 then numberAt u r.pa 8 else 0) + bitsOf p 319 256) % 2 ^ 64 ∧
            ∀ x, (x < r.pa ∨ r.pa + 8 ≤ x) → ¬ leafByte [r] x → memGet t x = memGet u x)) ∧
      (bitsOf p 71 64 = 2 → ∃ t, exec i s = .next t ∧
        (∀ n, n < 65536 → (n + 65536 - bitsOf p 207 192) % 65536 < bitsOf p 224 208 →
          nodeCount (spGet t.nodes n) = nodeInit (spGet s.nodes n) ∧
            ∀ k, k < 256 → (k < 176 ∨ 192 ≤ k) → (spGet t.nodes n).getLsbD k = (spGet s.nodes n).getLsbD k) ∧
        (∀ n, bitsOf p 224 208 ≤ (n + 65536 - bitsOf p 207 192) % 65536 → spGet t.nodes n = spGet s.nodes n) ∧
        (∃ j, t.jobs = u.jobs ++ [j] ∧ j.src = c ∧ j.waiting = false ∧
          ∀ n, n ∈ j.nodes ↔ n < 65536 ∧ (n + 65536 - bitsOf p 207 192) % 65536 < bitsOf p 224 208) ∧
        (∃ xs, t.ready = s.ready ++ xs ∧ ∀ n, (∃ x ∈ xs, x.node = n) ↔ n < 65536 ∧
          (n + 65536 - bitsOf p 207 192) % 65536 < bitsOf p 224 208 ∧ nodeInit (spGet s.nodes n) = 0) ∧
        { t with nextId := u.nextId, nodes := u.nodes, jobs := u.jobs, ready := u.ready } = u) ∧
      (bitsOf p 71 64 = 1 → ∀ d, launchDesc u p = some d → ∃ t l, exec i s = .next t ∧ t.launches = s.launches ++ [l] ∧
        t.entries = s.entries ++ [{ launch := l.id, level := bitsOf p 74 72, waitFrom := s.time, blocking := false }] ∧
        l.id = q * 2 ^ 25 + c.seq % 2 ^ 25 ∧ l.desc = d ∧ l.bands = bitsOf p 403 384 + 1 ∧ l.priv = bitAt p 505 ∧ l.inh = bitAt p 504 ∧
        l.pred = bitsOf p 447 416 ∧ l.ptbase.toNat = bitsOf p 503 464 * 4096 ∧ l.asid.toNat = bitsOf p 463 448 ∧
        l.ctx.toNat = bitsOf p 383 320 ∧ l.param.toNat = bitsOf p 319 256 ∧ l.src = c ∧ l.placed = 0 ∧ l.ended = 0 ∧ l.status = 0 ∧
        t.cur = s.cur ∧ t.jobs = s.jobs)))

/-- R309, R311, R312, R313: the node of a relay completes and its successor counts down; a packet whose START has come is
carried out, once no cluster holds a word it writes; an entry that has waited its level's limit moves to the tail of the next
level; at a level that does not age, one that has waited 100 µs unplaced becomes blocking. R299, R307, R317, R324, R395, R430:
the scheduler posts the first record it holds for a completion queue whose header is valid: it claims the slot at WRIDX, and
where there is room writes the record there, SEQ the slot's index, and raises the vector the header names; a header that is
not valid holds every record and is reported once. A word of the queue that a cluster holds is taken back first (R346). A
region open for 200 µs is overrun, with an event; a throttle window leaves M between 2 and 16. -/
def Obligations.WaitingWork : Prop :=
  (∀ s : State,
     (∀ n m r x, s.ready.find? (fun r => r.node = n) = some r → x = spGet s.nodes n → bitsOf x 255 192 = 0 → bitsOf x 89 89 = 0 →
       bitsOf x 95 93 = 1 → m = bitsOf x 111 96 → 2 ≤ nodeCount (spGet s.nodes m) → s.jobs = [] →
       ∃ t, exec (.nopPacket (.node n)) s = .next t ∧ countSet s t m (nodeCount (spGet s.nodes m) - 1) ∧ t.ready = s.ready.erase r ∧
         { t with ready := s.ready, nodes := s.nodes } = s) ∧
     (∀ id j, s.jobs.find? (fun j => j.id = id) = some j → j.waiting = true → j.start ≤ s.time →
       (devReady s (packetPlaces s j.pkt) = false → ∃ t, exec (.startReached id) s = .next t ∧ t.mem = s.mem ∧ t.jobs = s.jobs ∧ t.posts = s.posts) ∧
       (bitsOf j.pkt 71 64 = 1 → ∃ t, exec (.startReached id) s = .next t ∧
         t.entries = s.entries ++ [{ launch := j.launch, level := j.level, waitFrom := s.time, blocking := false }] ∧
         t.jobs = s.jobs.filter (fun x => x.id ≠ id) ∧ { t with entries := s.entries, jobs := s.jobs } = s) ∧
       (bitsOf j.pkt 71 64 = 5 → j.src.gnode = none → j.src.queue < 256 → j.src.node < 2 ^ 32 → j.src.seq < 2 ^ 64 →
         ∃ t, exec (.startReached id) s = .next t ∧
         WorkEnded { s with jobs := s.jobs.filter fun x => x.id ≠ id } t j.src 0 0)) ∧
     (∀ id e age, entryOf s id = some e → e.level < 7 → age = mgmtField s (0x300 + 8 * e.level) 31 0 → age ≠ 0 →
       e.waitFrom + age * 1000 ≤ s.time → exec (.ageing id) s = .next { s with
         entries := s.entries.erase e ++ [{ launch := id, level := e.level + 1, waitFrom := s.time, blocking := false }] }) ∧
     (∀ id e l, entryOf s id = some e → findLaunch s id = some l → e.blocking = false →
       (e.level = 7 ∨ e.level < 7 ∧ mgmtField s (0x300 + 8 * e.level) 31 0 = 0) → e.waitFrom + 100000 ≤ s.time →
       searchReaches s e = true → fitsSomewhere s l (nextBand l) = false →
       ∃ t, exec (.blocking id) s = .next t ∧ (∃ e', entryOf t id = some e' ∧ e'.blocking = true ∧ e'.level = e.level) ∧
         (∀ x, x ≠ id → entryOf t x = entryOf s x) ∧ { t with entries := s.entries } = s)) ∧
  (∀ s : State,
     (∀ cq x h w a, s.posts.find? (fun x => x.cq = cq) = some x → cqHdrOk s cq = true → h = readHdr s cq → w = h.wridx.toNat →
       x.claim = none → a = slotAt h w → (a + 64 ≤ cq ∨ cq + 8 ≤ a) →
       (devReady s [(cq, 8), (a, 64)] = false → ∃ t, exec (.cqHeaderRecheck cq) s = .next t ∧ t.mem = s.mem ∧ t.posts = s.posts) ∧
       (devReady s [(cq, 8), (a, 64)] = true → ∃ t, exec (.cqHeaderRecheck cq) s = .next t ∧ numberAt t cq 8 = (w + 1) % 2 ^ 64 ∧ cq ∉ t.badQueues ∧
         ((w + 2 ^ 64 - h.rdidx.toNat) % 2 ^ 64 < h.cap → physOk s a 64 = true →
           t.posts = s.posts.erase x ∧ numberAt t a 8 = w ∧
           (∀ i, 8 ≤ i → i < 64 → memGet t (a + i) = BitVec.ofNat 8 (bitsOf x.record (8 * i + 7) (8 * i))) ∧
           (∀ b, (b < cq ∨ cq + 8 ≤ b) → (b < a ∨ a + 64 ≤ b) → memGet t b = memGet s b) ∧
           (h.irq.testBit 7 = true → (mgmtRaw s 0x350).getLsbD (h.irq % 64) = true → h.irq % 64 ∉ s.vecMask →
             t.vecRaised = s.vecRaised ++ [h.irq % 64]) ∧
           (h.irq.testBit 7 = false → t.vecRaised = s.vecRaised ∧ t.vecPend = s.vecPend)) ∧
         (h.cap ≤ (w + 2 ^ 64 - h.rdidx.toNat) % 2 ^ 64 → t.posts = replaceFirst (fun y => y = x) (fun y => { y with claim := some w }) s.posts ∧
           (∀ b, (b < cq ∨ cq + 8 ≤ b) → memGet t b = memGet s b) ∧ t.vecRaised = s.vecRaised))) ∧
     (∀ cq x, s.posts.find? (fun x => x.cq = cq) = some x → cqHdrOk s cq = false →
       (cq ∈ s.badQueues → exec (.cqHeaderRecheck cq) s = .next s) ∧
       (cq ∉ s.badQueues → ∃ t, exec (.cqHeaderRecheck cq) s = .next t ∧ t.badQueues = s.badQueues ++ [cq] ∧
         (x.sup = true → t.posts = s.posts) ∧
         (x.sup = false → cq < 2 ^ 64 → eventPosted s t fun r => bitsOf r 71 64 = 0x83 ∧ bitsOf r 79 72 = 5 ∧ bitsOf r 511 448 = 3 ∧
           bitsOf r 383 320 = cq ∧ bitsOf r 87 80 = bitsOf x.record 87 80 ∧ bitsOf r 191 128 = bitsOf x.record 191 128 ∧
           bitsOf r 127 96 = bitsOf x.record 127 96 ∧ bitsOf r 287 256 = bitsOf x.record 287 256) ∧
         { t with posts := s.posts, badQueues := s.badQueues } = s)) ∧
     (∀ k g at_, findGroup s k = some g → g.region = some at_ → g.regionOver = false → at_ + 200000 ≤ s.time → keyFits k →
       ∃ t, exec (.regionOverrun k) s = .next t ∧ findGroup t k = some { g with regionOver := true } ∧
         eventPosted s t (fun r => EventRecord r 0x16 k 0 g.pc.toNat 1 ∧ bitsOf r 87 80 = 0xFF ∧ bitsOf r 255 192 = (at_ + 200000) % 2 ^ 64)) ∧
     ∀ c co hot, c < 64 → co < 8 → ∃ t m, exec (.throttleWindow c co hot) s = .next t ∧ (c * 8 + co, m) ∈ t.throttle ∧
       m = max 2 (16 - hot / 64) ∧ (∀ x n, x ≠ c * 8 + co → ((x, n) ∈ t.throttle ↔ (x, n) ∈ s.throttle)) ∧
       { t with throttle := s.throttle } = s)

/-- R333, R346, R350, R351, R352, R419: once the slots it sent before frame F have been applied (an unreadable one, never to be sent again, no longer
holds its plane), a dead unit is fenced: nothing of it is left on a plane, it
answers no request, the home of each line it owned a word of sends POISON for the words whose latest grant it holds, and none is its copy any more, the operations it would have ended end with 0x0C, every group's next BSYNC
reports it (log 73), operations that need a fenced stack end with 0x0C (log 74), and poison comes with the POISON slot (log 27); the bands it ran are placed again, as a whole (log 70), where their kernel allows it, or are lost and their launch ends with 0x0C. Once the scrub has
finished a spare, of its own quadrant first, carries its number from the next frame on, or the record has it absent; the record is written anew, with RECSEQ one
higher, over the copy not in force. -/
def Obligations.Fencing : Prop :=
  ∀ (s : State) (w : Nat),
    (∀ f, s.dead.find? (fun d => d.1 = w && d.2 ≠ 0) = some (w, f) → f ≤ frameOf s → (∃ p, p < 8 ∧ holdsPlane s w p = true) →
      ∃ t, exec (.fencing w) s = .next t ∧ (∀ p, p < 8 → holdsPlane t w p = false) ∧
        (∀ p, p < 8 → (nth t.planes p idlePlane).sent = (nth s.planes p idlePlane).sent) ∧
        { t with planes := s.planes, nextId := s.nextId } = s) ∧
    (∀ f bs, s.dead.find? (fun d => d.1 = w && d.2 ≠ 0) = some (w, f) → f ≤ frameOf s → (∀ p, p < 8 → holdsPlane s w p = false) →
      earlierSlots s w f = false →
      bs = s.bands.filter (fun x => x.cluster = w && x.phase ≠ .saved) →
      ∃ t, exec (.fencing w) s = .next t ∧
        (bs = [] →
          (w, 0) ∈ t.dead ∧ t.cur = { s.cur with bfenced := true } ∧ (∀ g ∈ t.groups, g.bfenced = true) ∧
          (∀ q ∈ t.planes, (∀ x ∈ q.sent ++ q.kept, x.writer ≠ w) ∧ (w < 64 → ∀ x ∈ q.pend, x.writer ≠ w)) ∧
          (∀ r ∈ t.reqs, r.cluster ≠ w) ∧ (∀ e ∈ t.tlb, unitHolder w e.holder = false) ∧ (∀ x ∈ t.keptRanges, x.cluster ≠ w) ∧
          (∀ e ∈ s.filter, e.clusters.getLsbD w = true → w < 64 → grantedMask s w e.line ≠ 0 → planeOf e.line < s.planes.length →
            ∀ st, homeStack (e.line * 128) = some st → ∃ x ∈ (nth t.planes (planeOf e.line) idlePlane).pend,
              x.writer = 64 + st ∧ x.msg = .poison e.line (grantedMask s w e.line)) ∧
          (∀ a, stateOf (wordDir t a) w = none) ∧
          (∀ o ∈ s.ops, opFenced s w o = true → (∀ x, o.stage ≠ .ended x) → { o with stage := .ended 0x0C } ∈ t.ops) ∧
          (∀ o ∈ s.ops, opFenced s w o = false → (w < 64 ∨ (∀ m ∈ s.net, m.kind = .publication → m.op ≠ o.id) ∧
            ∀ r, ∀ m ∈ (routerAt s r).waiting, m.kind = .publication → m.op ≠ o.id) → o ∈ t.ops) ∧ t.bands = s.bands ∧ t.launches = s.launches ∧ t.posts = s.posts ∧
          ∀ a, memGet t a = memGet s a) ∧
        (∀ b l, bs = [b] → findLaunch s b.launch = some l → findBand t b.launch b.band = none ∧
          (∀ g ∈ allGroups t, ¬ (g.key.launch = b.launch ∧ g.key.band = b.band)) ∧
          (l.desc.restart = true → findLaunch t b.launch = some { l with redo := l.redo ++ [b.band] } ∧ (entryOf t b.launch).isSome) ∧
          (l.desc.restart = false → l.ended + 1 ≠ l.bands →
            findLaunch t b.launch = some { l with ended := l.ended + 1, status := 0x0C }) ∧
          (l.desc.restart = false → l.ended + 1 = l.bands → bandsLeft l = false → l.src.gnode = none →
            l.src.cqe = true → l.src.cq ≠ 0 → ∃ x ∈ t.posts, x.cq = l.src.cq ∧ bitsOf x.record 71 64 = 0x81 ∧ bitsOf x.record 79 72 = 0x0C) ∧
          (l.desc.restart = false → sevq s ≠ 0 → ∀ k ∈ bandCrews s b.launch b.band, keyFits k.key → w < 2 ^ 64 →
            ∃ x ∈ t.posts, x.sup = true ∧ EventRecord x.record 0x0C { k.key with group := 0 } w 0 5))) ∧
    (∀ q, w < 64 → (w, 0) ∈ s.dead → clusterPresent s w = true → scrubbing s = false → q < 4 → (mgmtRaw s 0x18).getLsbD q = true →
      (q = w / 16 ∨ (mgmtRaw s 0x18).getLsbD (w / 16) = false ∧ ∀ k, k < q → (mgmtRaw s 0x18).getLsbD k = false) →
      s.flash.length = 2 → (recordNow s).signed = true → (recordNow s).seq.toNat < 2 ^ 32 - 1 →
      ∃ t, exec (.recordRewrite w) s = .next t ∧ mgmtRaw t 0x18 = mgmtRaw s 0x18 &&& ~~~BitVec.twoPow 64 q ∧
        RecordWritten s t (some (64 + q)) w (mgmtRaw t 0x18) ∧ (∀ o, o ≠ 0x18 → o ≠ 0x08 → (o < 0x1048 ∨ 0x1080 < o) → mgmtRaw t o = mgmtRaw s o) ∧ (∀ d, d ∈ t.dead ↔ d ∈ s.dead ∧ d.1 ≠ w) ∧ w ∉ t.mute ∧ lastBeat t w = s.time ∧
        (∀ f, (w, f) ∈ t.joined ↔ f = frameOf s + 1) ∧ ∀ c f, c ≠ w → ((c, f) ∈ t.joined ↔ (c, f) ∈ s.joined)) ∧
    (w < 64 → (w, 0) ∈ s.dead → clusterPresent s w = true → scrubbing s = false → (∀ k, k < 4 → (mgmtRaw s 0x18).getLsbD k = false) →
      s.flash.length = 2 → (recordNow s).signed = true → (recordNow s).seq.toNat < 2 ^ 32 - 1 →
      ∃ t, exec (.recordRewrite w) s = .next t ∧ { t with mgmt := s.mgmt, flash := s.flash } = s ∧
        mgmtRaw t 0x10 = mgmtRaw s 0x10 &&& ~~~BitVec.twoPow 64 w ∧ RecordWritten s t none w (mgmtRaw s 0x18) ∧
        ∀ o, o ≠ 0x10 → o ≠ 0x08 → (o < 0x1048 ∨ 0x1080 < o) → mgmtRaw t o = mgmtRaw s o)

/-! ### Bands (R13, R14, R29, R39, R40, R75, R314 to R323, R331, R332) -/

/-- R13, R29, R40, R43, R75, R311, R313, R314, R315: a band that the search reaches is placed on the cluster and cores chosen: its crews and
groups are as R29 gives them at group start, their scratchpad runs zero and empty, no other byte of memory changes (the distributor may first spill the kept
ranges of the cores it means to use: a free choice), and the launch's entry stays
until its last band is placed; where the launch inherits, a group placed on its counterpart's core starts with the lane registers kept for it,
one placed elsewhere with those granules absent, to fill from the spilled range.
s63 is the stack's base plus STKSZ (log 66); a group whose counterpart still runs starts with zero slots (log 103); tile bits at group start are
free values (log 4). -/
def Obligations.BandPlacement : Prop :=
  ∀ (s p : State) (id c : Nat) (cores : List Nat) (e : Entry) (l : Launch) (b : Nat), p = cores.foldl (spillCore c) s →
    entryOf s id = some e → findLaunch s id = some l → bandsLeft l = true → b = nextBand l →
    (∀ u, u = s ∨ u = p → searchReaches u e = true ∧ choiceOk u l b c cores = true) →
    (∀ g ∈ s.cur :: s.groups, ¬ (g.key.launch = id ∧ g.key.band = b)) → (∀ x ∈ s.crew :: s.crews, ¬ (x.key.launch = id ∧ x.key.band = b)) →
    ∃ u t, (u = s ∨ u = p) ∧ exec (.bandPlacement id c cores) s = .next t ∧
      (∃ x, t.bands = s.bands ++ [x] ∧ x.launch = id ∧ x.band = b ∧ x.cluster = c ∧ x.cores = cores ∧ x.level = e.level ∧
        x.placedAt = s.time ∧ x.phase = .resident) ∧
      (∀ i co, cores[i]? = some co → ∃ cr, findCrew t { launch := id, band := b, crew := i, group := 0 } = some cr ∧
        CrewStart cr l.desc c co ∧
        ∀ k, k < l.desc.groups → ∃ g, findGroup t { launch := id, band := b, crew := i, group := k } = some g ∧ GroupStart g l b i k c co ∧
          (keptFor u l b i k = none → ∀ x, laneGet g x = 0) ∧
          (∀ r, keptFor u l b i k = some r → keptHere r c co = true → r.first + r.count ≤ l.desc.nslots / 8 →
            ∀ x, laneGet g x = if 8 * r.first * 32 ≤ x ∧ x < 8 * (r.first + r.count) * 32 then spGet r.vals x else 0) ∧
          (∀ r, keptFor u l b i k = some r → keptHere r c co = false → (∀ x, laneGet g x = 0) ∧ g.fillFrom = r.area ∧ g.fillAsid = r.asid ∧
            g.fillPt = r.ptbase ∧ ∀ j, j ∈ g.absent ↔ j < l.desc.nslots / 8 ∧ r.first ≤ j ∧ j < r.first + r.count)) ∧
      (l.inh = false →
        (∀ i cr, i < cores.length → findCrew t { launch := id, band := b, crew := i, group := 0 } = some cr → ∀ a,
          scratchPa c cr.core cr.spbase ≤ a → a < scratchPa c cr.core cr.spbase + l.desc.units * 4096 → memGet t a = 0 ∧ setHas t.fe a = false) ∧
        (∀ a, (∀ i cr, i < cores.length → findCrew t { launch := id, band := b, crew := i, group := 0 } = some cr →
          a < scratchPa c cr.core cr.spbase ∨ scratchPa c cr.core cr.spbase + l.desc.units * 4096 ≤ a) → memGet t a = memGet u a)) ∧
      (l.redo = [] → findLaunch t id = some { l with placed := l.placed + 1 }) ∧
      (∀ x r, l.redo = x :: r → findLaunch t id = some { l with redo := r }) ∧
      (l.redo.length ≤ 1 → l.bands ≤ l.placed + (if l.redo = [] then 1 else 0) → entryOf t id = none) ∧
      (1 < l.redo.length ∨ l.placed + (if l.redo = [] then 1 else 0) < l.bands →
        entryOf t id = some { e with waitFrom := s.time, blocking := false })

/-- R39, R318, R321, R323, R331, R332: once a blocking entry has waited PREWAIT, bands below its level on the cluster start to leave, none of them inside a
region that is not overrun; a command starts the leaving of the band it names; a saved band that resumes has its cores and every register
of its groups; a stopped crew has given up its core and run, runs again once they are free (log 65), or its groups end, it is over and its launch's status
is 0x0C; kept ranges are released. PREWAIT counts from the moment the entry blocks (log 69) and no band of the device is leaving then (log 117); a saved
band waits below a blocking entry (log 119). -/
def Obligations.BandsLeaveAndReturn : Prop :=
  ∀ s : State,
    (∀ id c e l, entryOf s id = some e → findLaunch s id = some l → e.blocking = true →
      e.waitFrom + mgmtField s 0x338 31 0 * 1000 ≤ s.time → clusterLive s c = true → (∀ b ∈ s.bands, b.phase ≠ .leaving) →
      fitsSomewhere s l (nextBand l) = false → (s.bands.map fun b => (b.launch, b.band)).Nodup →
      ∃ t, exec (.prewaitExpiry id c) s = .next t ∧ { t with bands := s.bands } = s ∧ t.bands.length = s.bands.length ∧
        (∀ (i : Nat) (x y : Band), s.bands[i]? = some x → t.bands[i]? = some y → y = x ∨ y = { x with phase := .leaving } ∧ x.phase = .resident ∧
          x.level < e.level ∧ x.cluster = c ∧ inRegion s x.launch x.band = false) ∧
        ∀ v ∈ s.bands, v.level < e.level → v.cluster = c → v.phase = .resident → inRegion s v.launch v.band = false →
          (assignCores s l (nextBand l) c [(v.launch, v.band)]).isSome → ∃ y ∈ t.bands, y.phase = .leaving) ∧
    (∀ l b reloc x, findBand s l b = some x → ∃ t, exec (.preemptCommand l b reloc) s = .next t ∧ { t with bands := s.bands } = s ∧
      findBand t l b = some { x with phase := if x.phase = .resident then .leaving else x.phase, reloc := x.reloc || reloc } ∧
      ∀ k j, (k, j) ≠ (l, b) → findBand t k j = findBand s k j) ∧
    (∀ l b c cores x y, findBand s l b = some x → findLaunch s l = some y → x.phase = .saved → resumeOk s x y c cores = true →
      ∃ t z, exec (.bandResume l b c cores) s = .next t ∧ findBand t l b = some z ∧ z.phase = .resident ∧ z.cluster = c ∧ z.cores = cores ∧
        z.level = x.level ∧
        (∀ i co cr, cores[i]? = some co → findCrew s { launch := l, band := b, crew := i, group := 0 } = some cr →
          ∃ cr', findCrew t { launch := l, band := b, crew := i, group := 0 } = some cr' ∧ cr'.cluster = c ∧ cr'.core = co ∧
            cr'.halt = (if cr.halt = .stopped ∨ cr.halt = .over then cr.halt else .running) ∧ cr'.tags = cr.tags ∧ cr'.bbs = cr.bbs ∧ cr'.cbars = cr.cbars) ∧
        ∀ k g, findGroup s k = some g → ∃ g', findGroup t k = some g' ∧
          g' = { g with cluster := g'.cluster, core := g'.core, tiles := g'.tiles }) ∧
    (∀ k c l b, findCrew s k = some c → findLaunch s k.launch = some l → findBand s k.launch k.band = some b →
      c.halt = .stopped → b.phase = .resident → placeFree s l c = true → ∃ t c', exec (.resumeStoppedCrew k) s = .next t ∧ findCrew t k = some c' ∧
        c'.halt = .running ∧ c'.cluster = c.cluster ∧ c'.core = c.core ∧ c'.tags = c.tags ∧ c'.bbs = c.bbs ∧
        ∀ j g, findGroup s j = some g → ∃ g', findGroup t j = some g' ∧ 
          g' = { g with cluster := g'.cluster, core := g'.core, tiles := g'.tiles }) ∧
    (∀ k c l, findCrew s k = some c → findLaunch s k.launch = some l → c.halt = .stopped → ∃ t, exec (.endStoppedCrew k) s = .next t ∧
      findCrew t k = some { c with halt := .over } ∧ findLaunch t k.launch = some { l with status := 0x0C } ∧
      (∀ g ∈ allGroups t, crewKey g.key = crewKey k → g.status = .ended) ∧ ∀ a, memGet t a = memGet s a) ∧
    ∀ k, exec (.keptRangeRelease k) s = .next { s with keptRanges := s.keptRanges.filter fun x => decide (crewKey x.key ≠ crewKey k) }

/-! ### The host (R106, R298, R308, R346, R394 to R401, R420, R425 to R428) -/

/-- R106, R118, R346, R394, R395, R396, R398, R425, R427: a host write to its window, where its bytes stand in stacked memory,
waits with an INV of its home for the words it writes, and a read answers the bytes there, a poisoned piece nothing; over BAR0
it reads registers and writes them once the machine has booted, a narrow write that names no bit a write may change starting
nothing, over BAR2 it masks and unmasks vectors (where these stand is the model's numbering, and the table's layout PCI
Express's: log 104); the link goes down and up; the host accepts a store; a vector that is unmasked is raised if it was
pending; a request for measurements is answered with the digests and a signature. A window's bytes are those the model holds;
digests and signature are free values (log 22). R7, R298, R308, R391, R392, R401, R420, R425, R426, R427, R428: the controller
executes the next command, answers in its block, once no cluster holds its words (log 9), and raises DONESEQ; a command may
write the firmware slot not in use; its reset leaves DONESEQ. At stage 9 a write of a queue register registers the header it
names or leaves EN 0; a node access copies the node to or from NODEDATA; a write of a register stores the bits its map lets be
written and no other; before stage 9 a write is ignored. The response bytes are free values (log 22). -/
def Obligations.HostAttachment : Prop :=
  (∀ s : State,
     (∀ off data pa, hostWindow s off data.length = some pa → ∃ t st d m, exec (.hostWindowWrite off data) s = .next t ∧
       pa = mgmtField s 0xF708 51 30 * 2 ^ 30 + off ∧ placeOf pa data.length = some (.stacked st d) ∧ homeDead s pa = false ∧
       t.hostWrites = s.hostWrites ++ [{ slot := s.nextId, pa := pa, bytes := data }] ∧
       (∃ h, homeStack pa = some h ∧ queuedLast s t (pa / 128 % 8) (64 + h) (.inv (pa / 128) m)) ∧
       (∀ a, a ∈ maskWords (pa / 128) m ↔ a % 4 = 0 ∧ a / 128 = pa / 128 ∧ a < pa + data.length ∧ pa < a + 4) ∧
       { t with hostWrites := s.hostWrites, planes := s.planes, nextId := s.nextId } = s) ∧
     (∀ off data, hostWindow s off data.length = none → off < hostIoBase → exec (.hostWindowWrite off data) s = .next s) ∧
     (∀ off pa, hostWindow s (off / 64 * 64) 64 = some pa → exec (.hostWindowRead off) s = .next { s with
       hostRead := if poisoned s pa 64 then [] else memRead s pa 64 }) ∧
     (∀ off, off < 0x10000 → off % 64 = 0 → booted s → ∃ bs, exec (.hostWindowRead (hostIoBase + off)) s = .next { s with hostRead := bs } ∧
       bs.length = 64 ∧ ∀ i (h : i < bs.length), bs[i].toNat = (mgmtRead s (off + i / 8 * 8)).toNat / 2 ^ (8 * (i % 8)) % 256) ∧
     (∀ off, 64 ≤ off → off < 0x10000 → off % 64 = 0 → (mgmtField s 0x08 3 0 < 9 ∨ mgmtField s 0x08 3 0 = 9 ∧ mgmtField s 0x08 8 8 = 1) →
       exec (.hostWindowRead (hostIoBase + off)) s = .next { s with hostRead := List.replicate 64 0 }) ∧
     (∀ off v r, off < 0x10000 → off % 8 = 0 → mregOf off = some r → mregLive r ≠ 0 → exec (.hostWindowWrite (hostIoBase + off) (leBytes v 8)) s =
       exec (.registerWrite off (BitVec.ofNat 64 v)) s) ∧
     (∀ off data r, off < 0x10000 → mregOf (off / 8 * 8) = some r → data.length ≤ 8 - off % 8 →
       (∀ k, k < 64 → (mregLive r).getLsbD k = true → off / 8 * 8 + k / 8 < off ∨ off + data.length ≤ off / 8 * 8 + k / 8) →
       exec (.hostWindowWrite (hostIoBase + off) data) s = .next s) ∧
     (∀ off data, off < 0x10000 → (mgmtField s 0x08 3 0 < 9 ∨ mgmtField s 0x08 3 0 = 9 ∧ mgmtField s 0x08 8 8 = 1) → exec (.hostWindowWrite (hostIoBase + off) data) s = .next s) ∧
     (∀ v w, v < 64 → ∃ t, exec (.hostWindowWrite (hostIoBase + 0x10000 + 16 * v + 12) (leBytes w 4)) s = .next t ∧
       (w % 2 = 1 → v ∈ t.vecMask ∧ t.vecPend = s.vecPend ∧ t.vecRaised = s.vecRaised) ∧
       (w % 2 = 0 → v ∉ t.vecMask ∧ v ∉ t.vecPend ∧ t.vecRaised = s.vecRaised ++ (if v ∈ s.vecPend then [v] else [])) ∧
       (∀ x, x ≠ v → (x ∈ t.vecMask ↔ x ∈ s.vecMask)) ∧
       { t with vecMask := s.vecMask, vecPend := s.vecPend, vecRaised := s.vecRaised, msix := s.msix } = s) ∧
     exec .cxlLinkDown s = .next { s with linkUp := false } ∧ exec .cxlLinkUp s = .next { s with linkUp := true } ∧
     (∀ k, s.linkUp = true → exec (.hostMemoryCompletion k) s = .next { s with hostPend := s.hostPend.erase k }) ∧
     (∀ v, ∃ t, exec (.msiXVectorUnmask v) s = .next t ∧ v ∉ t.vecMask ∧ (∀ x, x ≠ v → (x ∈ t.vecMask ↔ x ∈ s.vecMask)) ∧ v ∉ t.vecPend ∧
       (v ∈ s.vecPend → t.vecRaised = s.vecRaised ++ [v]) ∧ (v ∉ s.vecPend → t.vecRaised = s.vecRaised) ∧
       { t with vecMask := s.vecMask, vecPend := s.vecPend, vecRaised := s.vecRaised } = s) ∧
     (9 ≤ mgmtField s 0x08 3 0 ∨ mgmtField s 0x08 3 0 = 8 ∧ mgmtField s 0x08 8 8 = 0 → ∃ t, exec .spdmRequest s = .next t ∧ t.doe = (List.range 64).map Config.romDigest ++
         (List.range 128).map (fun i => BitVec.ofNat 8 ((mgmtRead s (0x1008 + i / 8 * 8)).toNat / 2 ^ (8 * (i % 8)))) ++
         (List.range 64).map Config.signature ∧ { t with doe := s.doe } = s)) ∧
  (∀ s : State,
     (∀ n pa, n = (mgmtField s 0xF750 31 0 + 1) % 2 ^ 32 → commandDue s = true → pa = mgmtField s 0xF758 51 6 * 64 + 64 * (n % 256) →
       (physOk s pa 64 = true → devReady s [(pa, 64)] = false → ∃ t, exec .managementCommand s = .next t ∧ mgmtRaw t 0xF750 = mgmtRaw s 0xF750 ∧
         t.mem = s.mem ∧ t.images = s.images) ∧
       (physOk s pa 64 = false ∨ devReady s [(pa, 64)] = true → ∃ t, exec .managementCommand s = .next t ∧ mgmtField t 0xF750 31 0 = n ∧
         (∀ o, o ≠ 0xF750 → mgmtRaw t o = mgmtRaw s o) ∧ (∀ a, (a < pa ∨ pa + 64 ≤ a) → memGet t a = memGet s a) ∧ t.cur = s.cur ∧
         (∀ i, i = mgmtField s 0x08 9 9 ∨ 2 ≤ i → t.images[i]? = s.images[i]?) ∧ t.flash = s.flash)) ∧
     exec .controllerReset s = .next s ∧
     (mgmtField s 0x08 3 0 < 9 ∨ mgmtField s 0x08 3 0 = 9 ∧ mgmtField s 0x08 8 8 = 1 → (∀ q v, exec (.queueRegistration q v) s = .next s) ∧ (∀ v, exec (.nodeAccess v) s = .next s) ∧
       (∀ off v, off < 0x10000 → exec (.registerWrite off v) s = .next s) ∧ ∀ v, exec (.checkpointStart v) s = .next s) ∧
     (booted s →
       (∀ q v off, q < 64 → off = 0x100 + 8 * q → ∃ t, exec (.queueRegistration q v) s = .next t ∧ onlyRegister s t off ∧
         mgmtField t off 51 8 = bitsOf v 51 8 ∧
         mgmtField t off 0 0 = if v.getLsbD 0 = true ∧ workHdrOk s (bitsOf v 51 8 * 256) = true then 1 else 0) ∧
       (∀ v n, n = bitsOf v 15 0 → v.getLsbD 63 = true →
         (v.getLsbD 62 = true → ∃ t, exec (.nodeAccess v) s = .next t ∧ (∀ m, m ≠ n → spGet t.nodes m = spGet s.nodes m) ∧
           (∀ k, 89 ≤ k → k < 256 → (spGet t.nodes n).getLsbD k = (mgmtRaw s (0x368 + 8 * (k / 64))).getLsbD (k % 64)) ∧
           (∀ k, k < 89 → (spGet t.nodes n).getLsbD k = false) ∧ mgmtField t 0x360 63 63 = mgmtField s 0x360 63 63) ∧
         (v.getLsbD 62 = false → ∃ t, exec (.nodeAccess v) s = .next t ∧ t.nodes = s.nodes ∧
           ∀ k, k < 256 → (mgmtRaw t (0x368 + 8 * (k / 64))).getLsbD (k % 64) = (spGet s.nodes n).getLsbD k)) ∧
       (∀ off v hi, (∃ l, l < 7 ∧ off = 0x300 + 8 * l ∧ hi = 31) ∨ (off = 0x338 ∧ hi = 31) ∨ (off = 0x350 ∧ hi = 63) →
         ∃ t, exec (.registerWrite off v) s = .next t ∧ fieldSet s t off hi 0 (v.toNat % 2 ^ (hi + 1))) ∧
       (∀ off v, mregOf off = none → off < 0x10000 → exec (.registerWrite off v) s = .next s) ∧
       (∀ v, (mgmtRaw s 0xF700).getLsbD 63 = true → ∃ t, exec (.registerWrite 0xF700 v) s = .next t ∧ mgmtRaw t 0xF700 = mgmtRaw s 0xF700)) ∧
     (∀ st off v, st < 16 → loamKnown off = true → off < 0x10000 → s.ringKept = [] →
       ∃ t, exec (.registerWrite ((st + 1) * 0x10000 + off) v) s = .next t ∧ { t with loam := s.loam } = s ∧
         ∀ k, k < 64 → (loamRaw t st off).getLsbD k = if (loamRw off).getLsbD k then v.getLsbD k else (loamRaw s st off).getLsbD k))

/-! ### Optical ports (R347, R407 to R416) -/

/-- R347, R402, R407, R408, R409, R410, R411, R412, R416: a flit that fails its check is counted on its wavelength and dropped; a good one
acknowledges what ACK and SACK cover; data are delivered in sequence, each once, and an early flit is kept; a newer proposal sets the transmit
mask, as far as the laser state lets it, moves unacknowledged flits onto it and is accepted with SWITCH; an accept sets the receive mask, and a
degraded wavelength left behind is dead once the flits before SWITCH are delivered; a train proposal lights wavelengths; a time flit on REFPORT
is measured; a port on its way to L3 is dark once its width flits are acknowledged. The SWITCH of an accept, which device a payload is for, the wavelength a flit of no wavelength is counted on, and the link's delay
are the model's choices (log 31, log 32, log 56, log 30). -/
def Obligations.FlitsArrive : Prop :=
  ∀ (s : State) (p : Nat) (f : Flit) (i : Instr) (q : Port), portUp s p → q = portAt s p → flitEventOf p f i →
    (f.good = false ∨ 18 ≤ f.lane.toNat ∨ 5 ≤ f.kind.toNat → ∃ t w, exec i s = .next t ∧ w < 18 ∧ (f.lane.toNat < 18 → w = f.lane.toNat) ∧
      fieldSet s t (waveOff p w) 12 0 (min 8191 (mgmtField s (waveOff p w) 12 0 + 1))) ∧
    (flitTaken s p f →
      (∃ t, exec i s = .next t ∧ (f.kind = 0 ∨ f.kind = 2 → q.outbox = [] → q.switching = none →
        (∀ n, n ∈ (portAt t p).unacked.map (·.seq) ↔ n ∈ q.unacked.map (·.seq) ∧ ¬ acknowledges f n) ∧
        (portAt t p).delivered = q.delivered ∧ (portAt t p).nextRx = q.nextRx ∧ (portAt t p).lastHeard = s.time ∧
        (staysAwake q f → mgmtField t (portOff p 0) 33 16 = mgmtField s (portOff p 0) 33 16 ∧ mgmtField t (portOff p 0) 63 62 = 0) ∧
        (¬ staysAwake q f → darkened t p))) ∧
      (f.kind = 1 → ∃ t, exec i s = .next t ∧
        (q.outbox = [] → q.switching = none → q.lit = 0 →
          ((f.seq.toNat + 2 ^ 24 - q.nextRx % 2 ^ 24) % 2 ^ 24 = 0 → q.early = [] ∧ Config.flitDest (leValue f.payload) = devNo s) →
          (portAt t p).ackDue = true) ∧
        (q.outbox = [] → q.switching = none → q.lit ≠ 0 → mgmtField s (portOff p 0) 33 16 ≠ 0 → staysAwake q f →
          ((f.seq.toNat + 2 ^ 24 - q.nextRx % 2 ^ 24) % 2 ^ 24 = 0 → q.early = [] ∧ Config.flitDest (leValue f.payload) = devNo s) →
          ∃ x, (portAt t p).latest = some x ∧ x.ack = (portAt t p).nextRx) ∧
        (flitNext s p f → (portAt t p).nextRx = (q.nextRx + 1) % 2 ^ 24 ∧
          (Config.flitDest (leValue f.payload) = devNo s → (portAt t p).delivered = q.delivered ++ [f.payload]) ∧
          (Config.flitDest (leValue f.payload) ≠ devNo s → (portAt t p).delivered = q.delivered ∧
            ∀ r, p < 16 → r ≠ p → r < s.ports.length → portTo s (Config.flitDest (leValue f.payload)) = some r → q.outbox = [] →
              q.switching = none → Config.flitHops (leValue f.payload) < 7 → (portAt t r).outbox = (portAt s r).outbox ++
                [(1, 0, (List.range 240).map (Config.flitOnward (leValue f.payload)))])) ∧
        (∀ d, d = (f.seq.toNat + 2 ^ 24 - q.nextRx % 2 ^ 24) % 2 ^ 24 → d ≠ 0 → (portAt t p).delivered = q.delivered ∧
          (portAt t p).nextRx = q.nextRx ∧
          (d < 2 ^ 23 → (∀ g ∈ q.early, g.seq ≠ f.seq) → (portAt t p).early = q.early ++ [f]) ∧
          (2 ^ 23 ≤ d → (portAt t p).early = q.early))) ∧
      (∀ m, f.kind = 3 → flitNext s p f → m = widthMask f.payload → q.outbox = [] →
        (widthAction f.payload = 0 → newerEpoch q.txEpoch f.epoch.toNat = true → staysAwake q f → q.unacked.length < 4096 → q.nextTx < 2 ^ 24 →
          (q.unacked.map (·.seq)).Nodup → q.switching = none → ∃ t k, exec i s = .next t ∧
            keepsLowest (wavesOf (mgmtField s (portOff p 0) 61 60)) m k ∧
            (k ≠ 0 → mgmtField t (portOff p 0) 33 16 = k ∧ (portAt t p).txEpoch = f.epoch.toNat ∧
              mgmtField t (portOff p 1) 31 0 = (mgmtField s (portOff p 1) 31 0 + 1) % 2 ^ 32 ∧
              (∀ x ∈ (portAt t p).unacked, k.testBit x.lane = true) ∧
              ∃ x ∈ (portAt t p).unacked, x.seq = q.nextTx ∧ x.kind = 3 ∧ x.epoch = f.epoch.toNat ∧
                x.payload = widthPayload k 1 ((q.nextTx + 1) % 2 ^ 24))) ∧
        (widthAction f.payload = 1 → f.epoch.toNat = q.rxEpoch ∨ newerEpoch q.rxEpoch f.epoch.toNat = true →
          (∀ w, w < 18 → m.testBit w = true → mgmtField s (waveOff p w) 63 62 ≠ 2) →
          ∃ t, exec i s = .next t ∧ (portAt t p).rxMask = m ∧ (portAt t p).rxEpoch = f.epoch.toNat ∧
          (∀ w, w < 18 → m.testBit w = true → mgmtField s (waveOff p w) 63 62 = 1 → mgmtField t (waveOff p w) 63 62 = 0) ∧
          mgmtField t (portOff p 1) 31 0 = (mgmtField s (portOff p 1) 31 0 + 1) % 2 ^ 32 ∧
          (∀ w, w < 18 → m.testBit w = false → q.rxMask.testBit w = true → mgmtField s (waveOff p w) 63 62 = 2 →
            seqAhead (widthSwitch f.payload) ((q.nextRx + 1) % 2 ^ 24) < 2 ^ 23 → mgmtField t (waveOff p w) 63 62 = 3)) ∧
        (widthAction f.payload = 2 → ∃ t, exec i s = .next t ∧ (portAt t p).nextRx = (q.nextRx + 1) % 2 ^ 24 ∧
          (portAt t p).delivered = q.delivered ∧ (portAt t p).rxMask = q.rxMask ∧
          (newerEpoch q.txEpoch f.epoch.toNat = true → staysAwake q f → keepsLowest (wavesOf (mgmtField s (portOff p 0) 61 60)) m m →
            ∀ w, w < 18 → m.testBit w = true → (mgmtField s (portOff p 0) 33 16).testBit w = false → (portAt t p).lit.testBit w = true))) ∧
      (f.kind = 4 → flitNext s p f → p = mgmtField s 0xF738 3 0 → mgmtField s 0xF738 8 8 = 0 →
        ∃ t m, exec i s = .next t ∧ m = (leValue (f.payload.take 8) : Int) + Config.linkDelay s.ctr - s.time ∧ t.sync = (m :: s.sync).take 16 ∧
          (t.sync.length = 16 → (∀ x ∈ t.sync, x.natAbs ≤ 2) → mgmtField t 0xF738 63 63 = 1) ∧
          (3 < m.natAbs → mgmtField t 0xF738 63 63 = 0) ∧ t.time = s.time))

/-- R408, R409, R410, R411, R413, R416: a flit unacknowledged for 2 µs is sent again, on another wavelength whenever one is
active, and counted; an acknowledgement that is due is sent, with ACK and SACK; a link with a flit sent 16 times, or silent
for 100 µs outside L3, goes down; a wavelength that loses lock is degraded and the mask without it is proposed; a wavelength
in training that locks brings a link up or is proposed, a spare one is offered, and one that fails for 50 µs is spare at both
ends; every up core port sends a time flit with the tick; what was on its way over a link that goes down ends with 0x08. How a
down link comes up is the model's reading (log 33). R408, R410, R412, R413, R414, R415: a laser state asked for takes effect
once DWELL has passed since the last change, as the highest state at or below it that keeps within PMAX and ICAP; until then
it is deferred; nothing relights a port whose path is open or was closed less than 1 s ago; when the path opens, the laser is
off, LSTATE is 3, the link is down and what was on its way over it ends with 0x08. That a link goes to L3 by way of L2, by an
accept of its own with the next epoch, is the model's reading (log 84, log 33); the power and the current a state draws are
free values (log 20). -/
def Obligations.PortsAndLasers : Prop :=
  (∀ (s : State) (p : Nat) (q : Port), p < 32 → p < s.ports.length → q = portAt s p →
     (mgmtField s (portOff p 0) 63 62 = 0 →
       (∀ n x, q.unacked.find? (fun x => x.seq = n) = some x → x.last + 2000 ≤ s.time → ∃ t y, exec (.flitResendTimeout p n) s = .next t ∧
         (portAt t p).unacked.find? (fun x => x.seq = n) = some y ∧ y.sends = x.sends + 1 ∧ y.last = s.time ∧ y.payload = x.payload ∧
         ((∃ w, w < 18 ∧ w ≠ x.lane ∧ (mgmtField s (portOff p 0) 33 16).testBit w = true) →
           y.lane ≠ x.lane ∧ (mgmtField s (portOff p 0) 33 16).testBit y.lane = true) ∧
         mgmtField t (portOff p 1) 63 32 = (mgmtField s (portOff p 1) 63 32 + 1) % 2 ^ 32) ∧
       (q.ackDue = true → q.outbox = [] → mgmtField s (portOff p 0) 33 16 ≠ 0 → (q.sleeping = false ∨ ∃ x ∈ q.unacked, x.kind = 3) →
         ∃ t x, exec (.acknowledgementSend p) s = .next t ∧ x.kind = (if q.lit = 0 then 2 else 0) ∧ x.ack = q.nextRx ∧
           (∀ i, i < 16 → (x.sack.testBit i = true ↔ ∃ g ∈ q.early, seqAhead q.nextRx g.seq.toNat = i + 1)) ∧
           portAt t p = { q with ackDue := false, latest := some x } ∧ { t with ports := s.ports } = s) ∧
       ((∃ x ∈ q.unacked, 16 ≤ x.sends) ∨ (q.lastHeard + 100000 ≤ s.time ∧ mgmtField s (portOff p 0) 61 60 ≠ 3) →
         ∃ t, exec (.linkDown p) s = .next t ∧ mgmtField t (portOff p 0) 63 62 = 2 ∧ LinkLost s t p) ∧
       (p < 16 → q.outbox = [] → q.unacked.length < 4096 → mgmtField s (portOff p 0) 33 16 ≠ 0 → ∃ t x, exec .timeExchange s = .next t ∧
         (portAt t p).unacked = q.unacked ++ [x] ∧ x.seq = q.nextTx ∧ x.kind = 4 ∧ x.payload.take 8 = leBytes s.time 8 ∧ x.payload.length = 240)) ∧
     (∀ w, w < 18 →
       (mgmtField s (waveOff p w) 63 62 ≠ 0 → ∃ t, exec (.portLockLoss p w) s = .next t ∧ fieldSet s t (waveOff p w) 61 61 0) ∧
       (mgmtField s (waveOff p w) 63 62 = 0 → ∃ t m, exec (.portLockLoss p w) s = .next t ∧ mgmtField t (waveOff p w) 61 61 = 0 ∧
         mgmtField t (waveOff p w) 63 62 = 2 ∧ maskOf m (fun u => q.rxMask.testBit u = true ∧ u ≠ w ∧ mgmtField s (waveOff p u) 63 62 ≠ 2) ∧
         (q.rxMask.testBit w = true → m = 0 → (mgmtField s (portOff p 0) 63 62 ≠ 3 → mgmtField t (portOff p 0) 63 62 = 2) ∧ LinkLost s t p) ∧
         (q.rxMask.testBit w = true → m ≠ 0 → (portAt t p).rxEpoch = (q.rxEpoch + 1) % 256 ∧
           (mgmtField s (portOff p 0) 63 62 ≠ 0 → (portAt t p).outbox = q.outbox ++ [(3, (q.rxEpoch + 1) % 256, widthPayload m 0 0)]))) ∧
       (40 ≤ mgmtField s (waveOff p w) 51 44 → mgmtField s (waveOff p w) 63 62 ≠ 3 →
         (mgmtField s (portOff p 0) 63 62 = 1 → ∃ t, exec (.receiverLock p w) s = .next t ∧ mgmtField t (portOff p 0) 63 62 = 0 ∧
           mgmtField t (portOff p 0) 33 16 = 2 ^ w ∧ mgmtField t (waveOff p w) 63 62 = 0 ∧ mgmtField t (waveOff p w) 61 61 = 1 ∧
           (∀ u, u < 18 → u ≠ w → mgmtField s (waveOff p u) 63 62 = 0 → mgmtField t (waveOff p u) 63 62 = 1) ∧ (portAt t p).rxMask = 2 ^ w ∧
           (q.kept = false → (portAt t p).nextRx = 0 ∧ (portAt t p).early = [] ∧
             (q.outbox = [] → (∀ u, u < 18 → u ≠ w → 2 ≤ mgmtField s (waveOff p u) 63 62) → (portAt t p).nextTx = 0 ∧ (portAt t p).unacked = [])) ∧
           (q.kept = true → (portAt t p).nextRx = q.nextRx ∧ ∀ x ∈ q.unacked, x.seq ∈ (portAt t p).unacked.map (·.seq))) ∧
         (mgmtField s (portOff p 0) 63 62 = 0 → q.outbox = [] → q.unacked.length < 4096 → mgmtField s (portOff p 0) 33 16 ≠ 0 →
           (∀ at_, q.training = some (w, at_) → ∃ t x m, exec (.receiverLock p w) s = .next t ∧ mgmtField t (waveOff p w) 61 61 = 1 ∧
             maskOf m (fun u => u = w ∨ q.rxMask.testBit u = true ∧ mgmtField s (waveOff p u) 63 62 ≠ 2) ∧
             (portAt t p).rxEpoch = (q.rxEpoch + 1) % 256 ∧ (portAt t p).training = none ∧
             (portAt t p).unacked = q.unacked ++ [x] ∧ x.epoch = (q.rxEpoch + 1) % 256 ∧ x.payload = widthPayload m 0 0) ∧
           (q.training = none → mgmtField s (waveOff p w) 63 62 = 1 → (List.range 18).countP (fun u => q.rxMask.testBit u) < 16 →
             ∃ t x, exec (.receiverLock p w) s = .next t ∧ mgmtField t (waveOff p w) 61 61 = 1 ∧ (portAt t p).training = some (w, s.time) ∧
               (portAt t p).unacked = q.unacked ++ [x] ∧ x.epoch = (q.rxEpoch + 1) % 256 ∧ x.payload = widthPayload (q.rxMask ||| 2 ^ w) 2 0))) ∧
       (∀ x : Port, x = (if q.lit ≠ 0 ∧ q.litAt + 50000 ≤ s.time then { q with lit := 0, shed := q.shed ||| q.lit } else q) →
         (∀ at_, q.training = some (w, at_) → at_ + 50000 ≤ s.time → ∃ t, exec (.trainingTimeout p) s = .next t ∧
           mgmtField t (waveOff p w) 63 62 = 1 ∧ portAt t p = { x with training := none }) ∧
         (q.training = none → ∃ t, exec (.trainingTimeout p) s = .next t ∧ portAt t p = x ∧ { t with ports := s.ports } = s)))) ∧
  (∀ (s : State) (p v : Nat) (q : Port), p < 32 → p < s.ports.length → q = portAt s p →
     (booted s → ∀ w, w = fittingLaser s p (v % 4) →
       (mgmtField s (portOff p 0) 63 62 ≠ 3 →
         (w = mgmtField s (portOff p 0) 61 60 → ∃ t, exec (.ltarget p v) s = .next t ∧ portAt t p = { q with target := none, sleeping := false } ∧
           fieldSet s { t with ports := s.ports } (portOff p 0) 59 58 (v % 4)) ∧
         (w = 3 → q.sleeping = true → w ≠ mgmtField s (portOff p 0) 61 60 → ∃ t, exec (.ltarget p v) s = .next t ∧
           fieldSet s t (portOff p 0) 59 58 (v % 4)) ∧
         (w ≠ mgmtField s (portOff p 0) 61 60 → ¬ (w = 3 ∧ q.sleeping = true) → q.lastChange + mgmtField s (portOff p 2) 47 32 * 1000 ≤ s.time →
           ∃ t, exec (.ltarget p v) s = .next t ∧ mgmtField t (portOff p 0) 59 58 = v % 4 ∧ LaserSet s t p w) ∧
         (w ≠ mgmtField s (portOff p 0) 61 60 → ¬ (w = 3 ∧ q.sleeping = true) → s.time < q.lastChange + mgmtField s (portOff p 2) 47 32 * 1000 →
           ∃ t, exec (.ltarget p v) s = .next t ∧ portAt t p = { q with target := some w } ∧
             mgmtField t (portOff p 0) 61 60 = mgmtField s (portOff p 0) 61 60)) ∧
       (mgmtField s (portOff p 0) 63 62 = 3 → (q.interlock = true ∨ s.time < q.closedAt + 1000000000) →
         ∃ t, exec (.ltarget p v) s = .next t ∧ fieldSet s t (portOff p 0) 59 58 (v % 4)) ∧
       (mgmtField s (portOff p 0) 63 62 = 3 → q.interlock = false → q.closedAt + 1000000000 ≤ s.time → w ≠ mgmtField s (portOff p 0) 61 60 →
         ¬ (w = 3 ∧ q.sleeping = true) →        q.lastChange + mgmtField s (portOff p 2) 47 32 * 1000 ≤ s.time → ∃ t, exec (.ltarget p v) s = .next t ∧ LaserSet s t p w)) ∧
     (∀ x, q.target = some x → mgmtField s (portOff p 0) 63 62 ≠ 3 → q.lastChange + mgmtField s (portOff p 2) 47 32 * 1000 ≤ s.time →
       (fittingLaser s p x = 3 → q.sleeping = true → 3 ≠ mgmtField s (portOff p 0) 61 60 → exec (.dwellExpiry p) s = .next s) ∧
       (fittingLaser s p x ≠ mgmtField s (portOff p 0) 61 60 → ¬ (fittingLaser s p x = 3 ∧ q.sleeping = true) →
         ∃ t, exec (.dwellExpiry p) s = .next t ∧ LaserSet s t p (fittingLaser s p x)) ∧
       (fittingLaser s p x = mgmtField s (portOff p 0) 61 60 → ∃ t, exec (.dwellExpiry p) s = .next t ∧ portAt t p = { q with target := none, sleeping := false } ∧
         { t with ports := s.ports } = s)) ∧
     (fittingLaser s p v = 3 ∨ (v ≤ fittingLaser s p v ∧ laserFits s p (fittingLaser s p v) = true ∧
       ∀ u, v ≤ u → u < fittingLaser s p v → laserFits s p u = false)) ∧
     (∀ u, laserFits s p u = true ↔ Config.laserPower p u ≤ mgmtField s (portOff p 2) 15 0 ∧
       regionCurrent s p u ≤ mgmtField s (0xF600 + 8 * (Config.portRegion p % 16)) 15 0) ∧
     (∃ t, exec (.interlockTrip p) s = .next t ∧ mgmtField t (portOff p 0) 63 62 = 3 ∧ mgmtField t (portOff p 0) 61 60 = 3 ∧
       mgmtField t (portOff p 0) 33 16 = 0 ∧ (portAt t p).interlock = true ∧ LinkLost s t p ∧ (portAt t p).target = none) ∧
     (q.interlock = true → ∃ t, exec (.interlockClose p) s = .next t ∧ portAt t p = { q with interlock := false, closedAt := s.time } ∧
       { t with ports := s.ports } = s))

/-! ### The module (R42, R266, R420 to R427) -/

/-- R400, R412, R413, R414, R418, R419, R420, R423, R425, R427: module reset runs the boot stages in order: with every stage
good, a firmware image accepted, it reaches stage 9 with LOCK set, `time` at 0, stacked memory zero, the scheduler and the
groups gone, the image that runs and the record in force shown, while flash and what lies outside the module stay; a stage
that fails stops it there with ERR. A thermal trip cuts module power. A port that comes up is in the highest laser state that
fits. Whether a stage succeeds and a port comes up, what the self-test finds, the digests, and what a laser state draws, are
free values (log 6, log 20, log 22). R42, R421, R422, R423, R427: FTARGET takes the nearest allowed frequency, and while the
region changes its clock its groups issue nothing; a droop is counted and passes; from TWARN up, at most 95 °C, the frequency
is stepped down by 100 MHz every 10 µs to 1,200; at TSTOP, 105 °C, the region's clock stops, and starts again below; at TTRIP,
110 °C, power is cut; firmware may lower TWARN and not raise it; a window in which injection was limited is counted. The
record's limits are free values (log 6, log 29); where firmware writes TWARN is the model's choice (log 79). -/
def Obligations.ModuleAndRegions : Prop :=
  (∀ s : State,
     ((∀ i, i < 10 → stageGood s i) → ∃ t, exec .moduleReset s = .next t ∧ mgmtField t 0x08 3 0 = 9 ∧ mgmtField t 0x08 8 8 = 0 ∧
       (mgmtRaw t 0xF700).getLsbD 63 = true ∧ t.time = 0 ∧ (∀ a, a < 2 ^ 50 → memGet t a = 0 ∧ setHas t.poison a = false) ∧
       (∀ a, (a / 2 ^ 50 = 1 ∨ a / 2 ^ 50 = 2) → spGet t.mem a = spGet s.mem a ∧ setHas t.poison a = setHas s.poison a) ∧
       allGroups t = [] ∧ allCrews t = [] ∧ t.ops = [] ∧ t.launches = [] ∧ t.entries = [] ∧ t.posts = [] ∧ t.ckpt = none ∧ t.power = true ∧
       BootShown s t ∧
       (∀ p, p < 32 → Config.portUp p = true → mgmtField t (portOff p 0) 61 60 = fittingLaser t p 0 ∧
         mgmtField t (portOff p 0) 63 62 = (if fittingLaser t p 0 = 3 then 2 else 0))) ∧
     (∀ k, k < 10 → ¬ stageGood s k → (∀ i, i < k → stageGood s i) →
       ∃ t, exec .moduleReset s = .next t ∧ mgmtField t 0x08 3 0 = k ∧ mgmtField t 0x08 8 8 = 1) ∧
     ∀ r, r < 16 → ∃ t, exec (.thermalTrip r) s = .next t ∧ t.power = false ∧ step t = .fault .powerCut) ∧
  (∀ (s : State) (r : Nat) (x : Region), r < 16 → r < s.regions.length → x = regionAt s r →
     (∀ v f, booted s → f = max (max 1200 (Config.freqLimits r).1) (min (min 2400 (Config.freqLimits r).2) (v % 4096)) → f < 4096 →
       ∃ t, exec (.ftarget r v) s = .next t ∧ mgmtField t (regionOff r 0) 11 0 = f ∧ mgmtField t (regionOff r 1) 11 0 = f ∧
         (mgmtField s (regionOff r 1) 11 0 ≠ f → clocked t r = false) ∧ { t with mgmt := s.mgmt, regions := s.regions } = s) ∧
     (∃ t, exec (.frequencyChangeEnd r) s = .next t ∧ regionAt t r = { x with changing := false } ∧ { t with regions := s.regions } = s) ∧
     (x.droop = false → ∃ t, exec (.droop r) s = .next t ∧ regionAt t r = { x with droop := true } ∧
       mgmtField t (regionOff r 4) 31 0 = (mgmtField s (regionOff r 4) 31 0 + 1) % 2 ^ 32 ∧ { t with mgmt := s.mgmt, regions := s.regions } = s) ∧
     (∃ t, exec (.droopPassed r) s = .next t ∧ regionAt t r = { x with droop := false } ∧ { t with regions := s.regions } = s) ∧
     (x.stepping = true → mgmtField s (regionOff r 3) 1 0 = 1 → 1200 < mgmtField s (regionOff r 1) 11 0 → x.steppedAt + 10000 ≤ s.time →
       ∃ t, exec (.frequencyStep r) s = .next t ∧ mgmtField t (regionOff r 1) 11 0 = max 1200 (mgmtField s (regionOff r 1) 11 0 - 100) ∧
         regionAt t r = { x with changing := true, steppedAt := s.time }) ∧
     ((x.stepping = false ∨ mgmtField s (regionOff r 3) 1 0 ≠ 1 ∨ mgmtField s (regionOff r 1) 11 0 ≤ 1200 ∨ s.time < x.steppedAt + 10000) →
       exec (.frequencyStep r) s = .next s) ∧
     (∀ k, twarn s r ≤ k → k < 840 → ∃ t, exec (.temperatureWarn r k) s = .next t ∧
       mgmtField t (regionOff r 3) 1 0 = 1 ∧ mgmtField t (regionOff r 2) 11 0 = k ∧ regionAt t r = { x with stepping := true }) ∧
     (∀ k, 840 ≤ k → k < 880 → ∃ t, exec (.clockStop r k) s = .next t ∧ mgmtField t (regionOff r 3) 1 0 = 2 ∧
       mgmtField t (regionOff r 2) 11 0 = k ∧ clocked t r = false) ∧
     (∀ k, 880 ≤ k → k < 4096 → ∃ t, exec (.clockStop r k) s = .next t ∧ t.power = false) ∧
     (∀ k, k < 840 → mgmtField s (regionOff r 3) 1 0 = 2 → ∃ t, exec (.clockRestart r k) s = .next t ∧
       mgmtField t (regionOff r 3) 1 0 = (if twarn s r ≤ k then 1 else 0) ∧ mgmtField t (regionOff r 2) 11 0 = k ∧
       (x.changing = false → clocked t r = true)) ∧
     (∀ k, k < twarn s r → ∃ t, exec (.temperatureBelowTwarn r k) s = .next t ∧
       mgmtField t (regionOff r 3) 1 0 = 0 ∧ mgmtField t (regionOff r 2) 11 0 = k ∧ regionAt t r = { x with stepping := false }) ∧
     twarn s r ≤ 760 ∧ (∀ v, ∃ t, exec (.registerWrite (0x110000 + regionOff r 5) v) s = .next t ∧ twarn t r = min (twarn s r) (bitsOf v 11 0) ∧
       { t with regions := s.regions } = s) ∧
     (∃ t, exec (.tokenWindow true) s = .next t ∧ fieldSet s t 0xC10 31 0 ((mgmtField s 0xC10 31 0 + 1) % 2 ^ 32)) ∧
     exec (.tokenWindow false) s = .next s ∧
     ∀ k, clusterClocked s k = false → ∀ g, g.cluster = k → mayRun s g = false)

/-- R118, R266, R424, R427: START sets BUSY and takes the powered domains, the ports and the place in the far tier, unless a checkpoint runs; its end sets DONE, STATUS, CKMAP and CKEND:
0x02 where an image would leave the far tier, 0x08 unless a port is selected and every selected port is up, 0x04 at poison, or where a line or its place is homed at a fenced
stack, else success, and with nothing written since START each line of the image is the line copied; it waits for selected ports that are coming up. The order of
these checks, and that every selected port must be up, are the model's reading (log 81). The image of a domain with free bytes is free anew (log 36); the place is that of START (log 88). -/
def Obligations.Checkpoints : Prop :=
  ∀ s : State,
    (∀ v, booted s → v.getLsbD 0 = true →
      (s.ckpt = none → ∃ t c, exec (.checkpointStart v) s = .next t ∧ mgmtField t 0xD10 63 63 = 1 ∧ mgmtField t 0xD08 31 16 = bitsOf v 31 16 ∧
        t.ckpt = some c ∧ c.mark = s.hist.length ∧ c.ports = bitsOf v 31 16 ∧ c.dest = mgmtField s 0xD00 49 30 ∧
        ∀ i, i ∈ c.left ↔ i < 80 ∧ domainOn s (i / 5) (i % 5) = true) ∧
      (s.ckpt.isSome = true → ∃ t, exec (.checkpointStart v) s = .next t ∧ t.ckpt = s.ckpt ∧ ∀ o, o ≠ 0xD08 → mgmtRaw t o = mgmtRaw s o)) ∧
    (∀ c, s.ckpt = some c → (∃ p, portComing s c.ports p) → ∃ t, exec .checkpointDone s = .next t ∧ { t with mgmt := s.mgmt, ports := s.ports } = s ∧
      ∀ p, portComing s c.ports p → (∀ q, portComing s c.ports q → q = p) → mgmtField s (portOff p 0) 63 62 = 2 → fittingLaser s p 2 = 2 →
        mgmtField t (portOff p 0) 63 62 = 1) ∧
    ∀ c, s.ckpt = some c → (∀ p, ¬ portComing s c.ports p) → ∃ t st, exec .checkpointDone s = .next t ∧ t.ckpt = none ∧ mgmtField t 0xD10 63 63 = 0 ∧
      mgmtField t 0xD10 62 62 = 1 ∧ mgmtField t 0xD10 7 0 = st ∧ mgmtRaw t 0xD28 = BitVec.ofNat 64 s.time ∧ t.cur = s.cur ∧
      ((∃ i ∈ c.left, placeOf (imageBase c.dest i) (2 ^ 34) ≠ some .far) → st = 2) ∧
      ((∀ i ∈ c.left, placeOf (imageBase c.dest i) (2 ^ 34) = some .far) →
        (portsUp s c.ports = false → st = 8) ∧
        (portsUp s c.ports = true →
          ((∃ i ∈ c.left, (∃ w ∈ s.poison, inDomain (i / 5) (i % 5) w = true) ∨
            ∃ k, k < 2 ^ 34 ∧ (homeDead s (i / 5 * 2 ^ 46 + i % 5 * 2 ^ 34 + k) = true ∨ homeDead s (imageBase c.dest i + k) = true)) → st = 4) ∧
          ((∀ i ∈ c.left, ∀ w ∈ s.poison, inDomain (i / 5) (i % 5) w = false) →
            (∀ i ∈ c.left, ∀ k, k < 2 ^ 34 → homeDead s (i / 5 * 2 ^ 46 + i % 5 * 2 ^ 34 + k) = false ∧ homeDead s (imageBase c.dest i + k) = false) → (∀ i ∈ c.left, i < 80) → c.left.Nodup → st = 0 ∧
            (∀ i, i < 80 → ((if i < 64 then (mgmtRaw t 0xD18).getLsbD i else (mgmtRaw t 0xD20).getLsbD (i - 64)) = true ↔ i ∈ c.left)) ∧
            (c.mark = s.hist.length → s.revived = [] → ∀ i ∈ c.left, ∀ k, k < 2 ^ 34 →
              memGet t (imageBase c.dest i + k) = memGet s (i / 5 * 2 ^ 46 + i % 5 * 2 ^ 34 + k)))))

/-! ### The whole machine (R18, R19, R29, R41, R42, R75, R119 to R137, R188, R413, R420, R423, R427) -/

/-- R119, R121, R122, R124, R127, R136, R148: words written out from the encodings decode to the instructions they stand for: ADD s4, s5, s6; ADDI s7, s7,
#-1; LHI s4, #0x12345; BNZ s7, back three words; CPY s5 from s4, control s6, tag 3; the all-zero word is NOP; the header of a clause of three
instructions that waits for f0 and f1 and sets f2, with helper lanes; IADD.i32 v1, v2, v3. -/
def Obligations.DecodedWords : Prop :=
  decodeScalar 0x04414600#32 = some (.add 4 5 6) ∧ decodeScalar 0x0871FFFF#32 = some (.addi 7 7 (-1)) ∧
    decodeScalar 0x20412345#32 = some (.lhi 4 0x12345) ∧ decodeScalar 0x507FFFFD#32 = some (.bnz 7 (-3)) ∧
    decodeScalar 0xC0414603#32 = some (.cpy 4 5 6 3) ∧ decodeScalar 0#32 = some .nop ∧
    decodeScalar 0x3C000000#32 = none ∧
    decodeHeader 0xF00300390200000000000000#96 = some { count := 3, wait := 3, setA := 0x12, setB := 0, helper := true } ∧
    decodeLane 0x000000100200300010000000#96 = some (.iadd
      { pr := { neg := false, num := 0 }, d := .v 1, a := .v 2, b := .v 3, c := .v 0, ty := .i32, md := 0, ext := 0, yw := false, reuse := false })

/-- R121, R124, R126, R137: decoding the word of a scalar instruction gives the instruction back, every field at every value
its encoding admits. R121, R127, R135, R137, R196: decoding the three words of a well-formed lane instruction gives the
instruction back. -/
def Obligations.RoundTrip : Prop :=
  (∀ (i : Instr) (w : W32), encode i = [w] → scalarAssigned i = true → decodeScalar w = some i) ∧
  (∀ (i : Instr) (a b c : W32), encode i = [a, b, c] → i.wellFormed = true → decodeLane (c ++ b ++ a) = some i)

/-- R18, R119, R120, R121, R127, R136, R137, R423: a step fetches and runs the instruction its turn calls for: the word at `pc` for the scalar
thread, the word at the running clause's position for the lane engine; a word that is not assigned, a header in a clause's body and a fetch that
faults trap; an event given from outside is carried out. A word not stored to since the last ISYNC is fetched as memory holds it. Whose turn it
is is the model's choice (log 1, log 10). -/
def Obligations.StepRunsDecoded : Prop :=
  ∀ s : State, s.power = true →
    (∀ i r, s.inputs = i :: r → encode i = [] → step s = endStep (exec i { s with inputs := r })) ∧
    (s.inputs = [] → s.turn = .scalar → curRuns s = true →
      (∀ bs s1, fetchWord s .scalarFetch s.cur.pc = .ok (bs, s1) →
        (∀ i, decodeScalar (scalarWordOf bs) = some i → step s = endStep (exec i s1)) ∧
        (decodeScalar (scalarWordOf bs) = none → step s = .next (settle (scalarTrap s1 0x01 ((scalarWordOf bs).setWidth 64))))) ∧
      (∀ e, fetchWord s .scalarFetch s.cur.pc = .error e →
        step s = .next (settle (scalarTrap s (errCause .scalarFetch e) s.cur.pc)))) ∧
    (s.inputs = [] → s.turn = .lane → curRuns s = true → s.cur.feWait = none → ∀ e r a, s.cur.queue = e :: r → e.kind = .clause →
      e.started = true → a = e.addr + BitVec.ofNat 64 (12 * (e.pos + 1)) →
      (∀ bs s1, fetchWords s .laneFetch a 3 = .ok (bs, s1) →
        (∀ i, decodeLane (laneWordOf bs) = some i → step s = endStep (exec i s1)) ∧
        (decodeLane (laneWordOf bs) = none → ∀ c, c = (if (laneWordOf bs).extractLsb' 84 12 = 0xF00 then 0x03 else 0x01) →
          step s = .next (settle (laneTrap s1 c ((laneWordOf bs).extractLsb' 32 64))))) ∧
      (∀ x, fetchWords s .laneFetch a 3 = .error x → step s = .next (settle (laneTrap s (errCause .laneFetch x) a)))) ∧
    (∀ k a r, runs s (accActor s a) k a 4 = .ok [r] → poisoned s r.pa 4 = false → homeDead s r.pa = false → (r.place = .host → s.linkUp = true) → s.hist.length = s.cur.isyncMark →
      ∃ s1, fetchWord s k a = .ok (memRead s r.pa 4, s1) ∧ { s1 with mem := s.mem, tlb := s.tlb, heat := s.heat } = s)

/-- R6, R29, R83, R391, R392, R399, R413, R420, R427: right after reset no group runs and nothing is queued, memory is canonical and stacked memory and scratchpads read
zero, every domain is on and ready, and the registers of class 0x03 read as their map gives; module power is on. The values that the
configuration record or the boot gives are the model's free values (log 2, log 6); that far and host memory read zero too is the model's choice (log 3). -/
def Obligations.ResetState : Prop :=
  Memory.wf State.reset.mem = true ∧ (∀ a, memGet State.reset a = 0) ∧ allGroups State.reset = [] ∧ allCrews State.reset = [] ∧
    State.reset.power = true ∧ State.reset.time = 0 ∧ (∀ st d, st < 16 → d < 5 → domainOn State.reset st d = true) ∧
    mgmtRead State.reset 0x0000 = 0xA1000064 ∧ mgmtField State.reset 0x08 3 0 = 0 ∧ mgmtField State.reset 0x08 8 8 = 0 ∧
    mgmtRead State.reset 0x338 = 500 ∧ (∀ q, q < 64 → mgmtRead State.reset (0x100 + 8 * q) = 0) ∧
    (∀ l, l < 7 → mgmtRead State.reset (0x300 + 8 * l) = 0) ∧ mgmtRead State.reset 0x340 = 0 ∧ mgmtRead State.reset 0x348 = 0 ∧
    mgmtRead State.reset 0x350 = 0 ∧
    (∀ r, r < 16 → mgmtField State.reset (regionOff r 0) 11 0 = 2000 ∧ mgmtField State.reset (regionOff r 1) 11 0 = 2000 ∧
      mgmtField State.reset (regionOff r 3) 1 0 = 0) ∧
    (∀ p, p < 32 → mgmtField State.reset (portOff p 0) 63 62 = 2 ∧ mgmtField State.reset (portOff p 0) 61 60 = 3 ∧
      mgmtField State.reset (portOff p 0) 59 58 = 0 ∧ mgmtField State.reset (portOff p 0) 57 57 = 1 ∧
      mgmtField State.reset (portOff p 0) 33 16 = 0) ∧
    mgmtRead State.reset 0x2000 &&& 0x1FFF = 0 ∧ mgmtRead State.reset 0xD10 = 0 ∧ mgmtRead State.reset 0xF748 = 0

/-- Every step keeps memory in its one canonical form: addresses strictly rising, and no cell listed that an unlisted address would read as (the
model's form of memory; R5, R78). What an unlisted address reads as is the model's choice (log 3). -/
def Obligations.MemoryCanonical : Prop :=
  ∀ s t : State, Memory.wf s.mem = true → step s = .next t → Memory.wf t.mem = true

/-- R42, R317, R421: after every step, the turn is a group's only where that group may issue: it is resident, its crew is not stopped, its
region is clocked. That one group or hardware has the turn is the model's choice (log 1). -/
def Obligations.TurnInvariant : Prop :=
  ∀ s t : State, step s = .next t → t.turn ≠ .hardware → curRuns t = true ∧ t.cur.status = .resident ∧ t.crew.key = crewKey t.cur.key ∧
    clusterClocked t t.cur.cluster = true
end

