-- ==== Sys2Proof/Laws/Decode.lean ====
section
/-! SUPPORT. Laws/Decode.lean: each field of an encoded lane word is read back, format by format (R127 to R135). -/
namespace Sys2Proof

open Machine

/-- A field of a word built by appending is the field of the part it lies in: the low part. -/
theorem extract_append_low {m n : Nat} (x : BitVec m) (y : BitVec n) (s l : Nat) (h : s + l ≤ n) :
    BitVec.extractLsb' (n := no_index (m + n)) s l (x ++ y) = y.extractLsb' s l := by
  ext i hi
  simp only [BitVec.getElem_extractLsb', BitVec.getLsbD_append]
  rw [if_pos (by omega)]

/-- The high part. -/
theorem extract_append_high {m n : Nat} (x : BitVec m) (y : BitVec n) (s l : Nat) (h : n ≤ s) :
    BitVec.extractLsb' (n := no_index (m + n)) s l (x ++ y) = x.extractLsb' (s - n) l := by
  ext i hi
  simp only [BitVec.getElem_extractLsb', BitVec.getLsbD_append]
  rw [if_neg (by omega)]
  congr 1; omega

theorem getLsbD_append_low {m n : Nat} (x : BitVec m) (y : BitVec n) (i : Nat) (h : i < n) :
    BitVec.getLsbD (w := no_index (m + n)) (x ++ y) i = y.getLsbD i := by
  rw [BitVec.getLsbD_append, if_pos h]

theorem getLsbD_append_high {m n : Nat} (x : BitVec m) (y : BitVec n) (i : Nat) (h : n ≤ i) :
    BitVec.getLsbD (w := no_index (m + n)) (x ++ y) i = x.getLsbD (i - n) := by
  rw [BitVec.getLsbD_append, if_neg (by omega)]

theorem tyOfCode_tyCode (t : Ty) : tyOfCode (tyCode t) = some t := by cases t <;> decide

theorem opndCandidate_encodeOpnd (o : Opnd) : opndCandidate (encodeOpnd o) = o := by
  cases o with
  | v n => revert n; decide +kernel
  | c n => revert n; decide +kernel
  | y n => revert n; decide +kernel
  | vx k off => revert k off; decide +kernel
  | s n => revert n; decide +kernel
  | imm n => revert n; decide +kernel
  | p neg n => revert neg n; decide +kernel
  | spec n => revert n; decide +kernel

/-- An operand's specification decodes to it (R132). -/
theorem decodeOpnd_encodeOpnd (o : Opnd) : decodeOpnd (encodeOpnd o) = some o := by
  simp [decodeOpnd, opndCandidate_encodeOpnd]

theorem lanePred_of {w : W96} {p : PredSel} (h : w.extractLsb' 80 4 = encodePred p) : lanePred w = p := by
  have h1 : w.getLsbD 83 = (encodePred p).getLsbD 3 := by rw [← h]; simp
  have h2 : w.extractLsb' 80 3 = (encodePred p).extractLsb' 0 3 := by
    rw [← h]; ext i hi; simp only [BitVec.getElem_extractLsb', BitVec.getLsbD_extractLsb']; simp; omega
  obtain ⟨neg, num⟩ := p
  simp only [lanePred, h1, h2, encodePred]
  clear h h1 h2
  revert neg num; decide +kernel

/-- Fields of a format LA word (R127). -/
theorem decodeLa_encodeLa (op : BitVec 12) (x : LaForm) : decodeLa (encodeLa op x) = some x := by
  obtain ⟨pr, d, a, b, c, ty, md, ext, yw, reuse⟩ := x
  have hp : lanePred (encodeLa op ⟨pr, d, a, b, c, ty, md, ext, yw, reuse⟩) = pr :=
    lanePred_of (by simp (disch := decide) only [encodeLa, extract_append_low, extract_append_high, Nat.reduceSub]; simp)
  simp only [decodeLa, hp]
  simp (disch := decide) only [encodeLa, extract_append_low, extract_append_high, getLsbD_append_low, getLsbD_append_high, Nat.reduceSub]
  simp [decodeOpnd_encodeOpnd, tyOfCode_tyCode]

/-- The opcode of a format LA word. -/
theorem encodeLa_opcode (op : BitVec 12) (x : LaForm) : (encodeLa op x).extractLsb' 84 12 = op := by
  simp (disch := decide) only [encodeLa, extract_append_high, Nat.reduceSub]; simp

/-- Fields of a format LI word (R127). -/
theorem decodeLi_encodeLi (op : BitVec 12) (x : LiForm) : decodeLi (encodeLi op x) = some x := by
  obtain ⟨pr, d, a, ty, md, imm⟩ := x
  have hp : lanePred (encodeLi op ⟨pr, d, a, ty, md, imm⟩) = pr :=
    lanePred_of (by simp (disch := decide) only [encodeLi, extract_append_low, extract_append_high, Nat.reduceSub]; simp)
  simp only [decodeLi, hp]
  simp (disch := decide) only [encodeLi, extract_append_low, extract_append_high, Nat.reduceSub]
  simp [decodeOpnd_encodeOpnd, tyOfCode_tyCode]

/-- The opcode of a format LI word. -/
theorem encodeLi_opcode (op : BitVec 12) (x : LiForm) : (encodeLi op x).extractLsb' 84 12 = op := by
  simp (disch := decide) only [encodeLi, extract_append_high, Nat.reduceSub]; simp

/-- Fields of a format LM word (R127). -/
theorem decodeLm_encodeLm (op : BitVec 12) (x : LmForm) : decodeLm (encodeLm op x) = some x := by
  obtain ⟨pr, data, addr, sbase, ty, space, order, scope, fe, cache, vec, off⟩ := x
  have hp : lanePred (encodeLm op ⟨pr, data, addr, sbase, ty, space, order, scope, fe, cache, vec, off⟩) = pr :=
    lanePred_of (by simp (disch := decide) only [encodeLm, extract_append_low, extract_append_high, Nat.reduceSub]; simp)
  simp only [decodeLm, hp]
  simp (disch := decide) only [encodeLm, extract_append_low, extract_append_high, Nat.reduceSub]
  simp [decodeOpnd_encodeOpnd, tyOfCode_tyCode]

/-- The opcode of a format LM word. -/
theorem encodeLm_opcode (op : BitVec 12) (x : LmForm) : (encodeLm op x).extractLsb' 84 12 = op := by
  simp (disch := decide) only [encodeLm, extract_append_high, Nat.reduceSub]; simp

/-- Fields of a format LX word (R127). -/
theorem decodeLx_encodeLx (op : BitVec 12) (x : LxForm) : decodeLx (encodeLx op x) = some x := by
  obtain ⟨pr, tile, a, bBase, mCode, nCode, kCode, tA, tB, band, zero, mode, aScale, bScale, reuse⟩ := x
  have hp : lanePred (encodeLx op ⟨pr, tile, a, bBase, mCode, nCode, kCode, tA, tB, band, zero, mode, aScale, bScale, reuse⟩) = pr :=
    lanePred_of (by simp (disch := decide) only [encodeLx, extract_append_low, extract_append_high, Nat.reduceSub]; simp)
  simp only [decodeLx, hp]
  simp (disch := decide) only [encodeLx, extract_append_low, extract_append_high, getLsbD_append_low, getLsbD_append_high, Nat.reduceSub]
  simp [decodeOpnd_encodeOpnd, tyOfCode_tyCode]

/-- The opcode of a format LX word. -/
theorem encodeLx_opcode (op : BitVec 12) (x : LxForm) : (encodeLx op x).extractLsb' 84 12 = op := by
  simp (disch := decide) only [encodeLx, extract_append_high, Nat.reduceSub]; simp

end Sys2Proof
end

