-- ==== Sys2Proof/Laws/Sparse.lean ====
section
/-! SUPPORT. Laws/Sparse.lean: the laws of the finite maps: what a read after a write gives, and the canonical form. -/
namespace Sys2Proof.Machine

variable {w : Nat}

/-! ### Reads after writes -/

/-- A removed key reads 0. -/
theorem spGet_spDel_same (m : Sparse w) (i : Nat) : spGet (spDel m i) i = 0 := by
  induction m with
  | nil => rfl
  | cons p r ih => obtain ⟨k, v⟩ := p; by_cases h : k = i <;> simp [spDel, spGet, h, ih]

/-- Removing a key leaves every other one. -/
theorem spGet_spDel_other (m : Sparse w) {i j : Nat} (h : i ≠ j) : spGet (spDel m i) j = spGet m j := by
  induction m with
  | nil => rfl
  | cons p r ih =>
    obtain ⟨k, v⟩ := p
    by_cases hk : k = i
    · have : k ≠ j := hk ▸ h
      simp [spDel, spGet, hk, ih, h]
    · rw [spDel, if_neg hk, spGet, spGet, ih]

/-- An inserted entry is read back. -/
theorem spGet_spIns_same (m : Sparse w) (i : Nat) (x : BitVec w) (h : ∀ p ∈ m, p.1 ≠ i) : spGet (spIns m i x) i = x := by
  induction m with
  | nil => simp [spIns, spGet]
  | cons p r ih =>
    obtain ⟨k, v⟩ := p
    have hk : k ≠ i := h _ List.mem_cons_self
    have hr := ih fun q hq => h q (List.mem_cons_of_mem _ hq)
    by_cases hlt : i < k <;> simp [spIns, spGet, hlt, hk, hr]

/-- Inserting an entry leaves every other key. -/
theorem spGet_spIns_other (m : Sparse w) {i j : Nat} (x : BitVec w) (h : i ≠ j) : spGet (spIns m i x) j = spGet m j := by
  induction m with
  | nil => simp [spIns, spGet, h]
  | cons p r ih =>
    obtain ⟨k, v⟩ := p
    by_cases hlt : i < k <;> simp [spIns, spGet, hlt, h, ih]

/-- A removed key is listed nowhere. -/
theorem not_mem_spDel (m : Sparse w) (i : Nat) : ∀ p ∈ spDel m i, p.1 ≠ i := by
  induction m with
  | nil => simp [spDel]
  | cons q r ih =>
    obtain ⟨k, v⟩ := q
    by_cases h : k = i
    · simpa [spDel, h] using ih
    · intro p hp
      simp only [spDel, h, if_false, List.mem_cons] at hp
      rcases hp with rfl | hp
      · exact h
      · exact ih p hp

/-- What is read after a store. -/
theorem spGet_spSet (m : Sparse w) (i j : Nat) (x : BitVec w) :
    spGet (spSet m i x) j = if i = j then x else spGet m j := by
  unfold spSet
  by_cases h : i = j
  · subst h
    split
    · simp [spGet_spDel_same, *]
    · simp [spGet_spIns_same _ _ _ (not_mem_spDel m i)]
  · rw [if_neg h]
    split
    · exact spGet_spDel_other m h
    · rw [spGet_spIns_other _ _ h, spGet_spDel_other m h]

@[simp] theorem spGet_spSet_same (m : Sparse w) (i : Nat) (x : BitVec w) : spGet (spSet m i x) i = x := by
  simp [spGet_spSet]

theorem spGet_spSet_other (m : Sparse w) {i j : Nat} (x : BitVec w) (h : i ≠ j) :
    spGet (spSet m i x) j = spGet m j := by simp [spGet_spSet, h]

/-! ### The canonical form -/

@[simp] theorem spWf_nil : spWf ([] : Sparse w) = true := rfl

theorem spWfFrom_cons (lo k : Nat) (v : BitVec w) (r : Sparse w) :
    spWfFrom lo ((k, v) :: r) = true ↔ lo ≤ k ∧ v ≠ 0 ∧ spWfFrom (k + 1) r = true := by
  simp [spWfFrom, and_assoc]

/-- A lower bound may be lowered. -/
theorem spWfFrom_mono {a b : Nat} (h : a ≤ b) {m : Sparse w} (hm : spWfFrom b m = true) : spWfFrom a m = true := by
  cases m with
  | nil => rfl
  | cons p r =>
    obtain ⟨k, v⟩ := p
    rw [spWfFrom_cons] at hm ⊢
    exact ⟨h.trans hm.1, hm.2⟩

/-- A part of a map in the canonical form is in it. -/
theorem spWfFrom_filter (p : Nat × BitVec w → Bool) {lo : Nat} {m : Sparse w} (hm : spWfFrom lo m = true) :
    spWfFrom lo (m.filter p) = true := by
  induction m generalizing lo with
  | nil => rfl
  | cons q r ih =>
    obtain ⟨k, v⟩ := q
    rw [spWfFrom_cons] at hm
    by_cases h : p (k, v)
    · rw [List.filter_cons_of_pos h, spWfFrom_cons]
      exact ⟨hm.1, hm.2.1, ih hm.2.2⟩
    · rw [List.filter_cons_of_neg h]
      exact ih (spWfFrom_mono (by omega) hm.2.2)

theorem spWf_filter (p : Nat × BitVec w → Bool) {m : Sparse w} (hm : spWf m = true) : spWf (m.filter p) = true :=
  spWfFrom_filter p hm

theorem spWf_spClear {m : Sparse w} (lo n : Nat) (hm : spWf m = true) : spWf (spClear m lo n) = true :=
  spWfFrom_filter _ hm

theorem spDel_eq_filter (m : Sparse w) (i : Nat) : spDel m i = m.filter fun p => decide (p.1 ≠ i) := by
  induction m with
  | nil => rfl
  | cons p r ih => obtain ⟨k, v⟩ := p; by_cases h : k = i <;> simp [spDel, h, ih]

theorem spWfFrom_spIns {lo i : Nat} {m : Sparse w} {x : BitVec w} (hx : x ≠ 0) (hlo : lo ≤ i)
    (hi : ∀ p ∈ m, p.1 ≠ i) (hm : spWfFrom lo m = true) : spWfFrom lo (spIns m i x) = true := by
  induction m generalizing lo with
  | nil => rw [spIns, spWfFrom_cons]; exact ⟨hlo, hx, rfl⟩
  | cons q r ih =>
    obtain ⟨k, v⟩ := q
    rw [spWfFrom_cons] at hm
    have hk : k ≠ i := hi _ List.mem_cons_self
    by_cases h : i < k
    · simp only [spIns, h, if_true]
      rw [spWfFrom_cons, spWfFrom_cons]
      exact ⟨hlo, hx, by omega, hm.2⟩
    · simp only [spIns, h, if_false]
      rw [spWfFrom_cons]
      exact ⟨hm.1, hm.2.1, ih (by omega) (fun p hp => hi p (List.mem_cons_of_mem _ hp)) hm.2.2⟩

/-- A store keeps the canonical form. -/
theorem spWf_spSet {m : Sparse w} (i : Nat) (x : BitVec w) (hm : spWf m = true) : spWf (spSet m i x) = true := by
  have hd : spWf (spDel m i) = true := by rw [spDel_eq_filter]; exact spWf_filter _ hm
  unfold spSet
  split
  · exact hd
  · exact spWfFrom_spIns ‹_› (Nat.zero_le _) (not_mem_spDel m i) hd

theorem spWf_spSetAll {m : Sparse w} (l : List (Nat × BitVec w)) (hm : spWf m = true) : spWf (spSetAll m l) = true := by
  induction l generalizing m with
  | nil => exact hm
  | cons p r ih => exact ih (spWf_spSet p.1 p.2 hm)

/-- A key that a list of stores does not name keeps its word. -/
theorem spGet_spSetAll_other (m : Sparse w) (l : List (Nat × BitVec w)) {j : Nat} (h : ∀ p ∈ l, p.1 ≠ j) :
    spGet (spSetAll m l) j = spGet m j := by
  induction l generalizing m with
  | nil => rfl
  | cons p r ih =>
    rw [spSetAll, ih _ (fun q hq => h q (List.mem_cons_of_mem _ hq)), spGet_spSet_other _ _ (h p List.mem_cons_self)]

/-! ### Tables -/

/-- What is read after an element of a table is replaced. -/
theorem vget_vset {α : Type} {n : Nat} (v : Vector α n) (i j : Nat) (x d : α) :
    vget (vset v i x) j d = if i = j ∧ i < n then x else vget v j d := by
  unfold vget vset
  rw [Vector.getElem?_setIfInBounds]
  by_cases h : i = j
  · subst h
    by_cases hn : i < n
    · simp [hn]
    · simp [hn]
  · simp [h]

end Sys2Proof.Machine
end

