-- ==== Sys2Proof/Laws/State.lean ====
section
/-! SUPPORT. Laws/State.lean: for each update of the state and of the group, what each field holds after it. -/
namespace Sys2Proof.Machine

variable (s : State) (g : Group)

/-! ### A change of the current group -/

@[simp] theorem modCur_cur (f : Group → Group) : (modCur s f).cur = f s.cur := rfl
@[simp] theorem modCur_crew (f : Group → Group) : (modCur s f).crew = s.crew := rfl
@[simp] theorem modCur_groups (f : Group → Group) : (modCur s f).groups = s.groups := rfl
@[simp] theorem modCur_crews (f : Group → Group) : (modCur s f).crews = s.crews := rfl
@[simp] theorem modCur_turn (f : Group → Group) : (modCur s f).turn = s.turn := rfl
@[simp] theorem modCur_inputs (f : Group → Group) : (modCur s f).inputs = s.inputs := rfl
@[simp] theorem modCur_rate (f : Group → Group) : (modCur s f).rate = s.rate := rfl
@[simp] theorem modCur_ctr (f : Group → Group) : (modCur s f).ctr = s.ctr := rfl
@[simp] theorem modCur_time (f : Group → Group) : (modCur s f).time = s.time := rfl
@[simp] theorem modCur_power (f : Group → Group) : (modCur s f).power = s.power := rfl
@[simp] theorem modCur_mem (f : Group → Group) : (modCur s f).mem = s.mem := rfl
@[simp] theorem modCur_fe (f : Group → Group) : (modCur s f).fe = s.fe := rfl
@[simp] theorem modCur_poison (f : Group → Group) : (modCur s f).poison = s.poison := rfl
@[simp] theorem modCur_tiles (f : Group → Group) : (modCur s f).tiles = s.tiles := rfl
@[simp] theorem modCur_revived (f : Group → Group) : (modCur s f).revived = s.revived := rfl
@[simp] theorem modCur_hist (f : Group → Group) : (modCur s f).hist = s.hist := rfl
@[simp] theorem modCur_tlb (f : Group → Group) : (modCur s f).tlb = s.tlb := rfl
@[simp] theorem modCur_invals (f : Group → Group) : (modCur s f).invals = s.invals := rfl
@[simp] theorem modCur_ops (f : Group → Group) : (modCur s f).ops = s.ops := rfl
@[simp] theorem modCur_nextId (f : Group → Group) : (modCur s f).nextId = s.nextId := rfl
@[simp] theorem modCur_mgmt (f : Group → Group) : (modCur s f).mgmt = s.mgmt := rfl
@[simp] theorem modCur_loam (f : Group → Group) : (modCur s f).loam = s.loam := rfl
@[simp] theorem modCur_ringKept (f : Group → Group) : (modCur s f).ringKept = s.ringKept := rfl
@[simp] theorem modCur_launches (f : Group → Group) : (modCur s f).launches = s.launches := rfl
@[simp] theorem modCur_bands (f : Group → Group) : (modCur s f).bands = s.bands := rfl
@[simp] theorem modCur_entries (f : Group → Group) : (modCur s f).entries = s.entries := rfl
@[simp] theorem modCur_jobs (f : Group → Group) : (modCur s f).jobs = s.jobs := rfl
@[simp] theorem modCur_posts (f : Group → Group) : (modCur s f).posts = s.posts := rfl
@[simp] theorem modCur_badQueues (f : Group → Group) : (modCur s f).badQueues = s.badQueues := rfl
@[simp] theorem modCur_nodes (f : Group → Group) : (modCur s f).nodes = s.nodes := rfl
@[simp] theorem modCur_ready (f : Group → Group) : (modCur s f).ready = s.ready := rfl
@[simp] theorem modCur_keptRanges (f : Group → Group) : (modCur s f).keptRanges = s.keptRanges := rfl
@[simp] theorem modCur_throttle (f : Group → Group) : (modCur s f).throttle = s.throttle := rfl
@[simp] theorem modCur_dir (f : Group → Group) : (modCur s f).dir = s.dir := rfl
@[simp] theorem modCur_grants (f : Group → Group) : (modCur s f).grants = s.grants := rfl
@[simp] theorem modCur_reqs (f : Group → Group) : (modCur s f).reqs = s.reqs := rfl
@[simp] theorem modCur_planes (f : Group → Group) : (modCur s f).planes = s.planes := rfl
@[simp] theorem modCur_collects (f : Group → Group) : (modCur s f).collects = s.collects := rfl
@[simp] theorem modCur_lastFrame (f : Group → Group) : (modCur s f).lastFrame = s.lastFrame := rfl
@[simp] theorem modCur_beats (f : Group → Group) : (modCur s f).beats = s.beats := rfl
@[simp] theorem modCur_mute (f : Group → Group) : (modCur s f).mute = s.mute := rfl
@[simp] theorem modCur_dead (f : Group → Group) : (modCur s f).dead = s.dead := rfl
@[simp] theorem modCur_badNacks (f : Group → Group) : (modCur s f).badNacks = s.badNacks := rfl
@[simp] theorem modCur_decls (f : Group → Group) : (modCur s f).decls = s.decls := rfl
@[simp] theorem modCur_declOps (f : Group → Group) : (modCur s f).declOps = s.declOps := rfl
@[simp] theorem modCur_routers (f : Group → Group) : (modCur s f).routers = s.routers := rfl
@[simp] theorem modCur_net (f : Group → Group) : (modCur s f).net = s.net := rfl
@[simp] theorem modCur_wants (f : Group → Group) : (modCur s f).wants = s.wants := rfl
@[simp] theorem modCur_linkUp (f : Group → Group) : (modCur s f).linkUp = s.linkUp := rfl
@[simp] theorem modCur_hostPend (f : Group → Group) : (modCur s f).hostPend = s.hostPend := rfl
@[simp] theorem modCur_hostRead (f : Group → Group) : (modCur s f).hostRead = s.hostRead := rfl
@[simp] theorem modCur_reply (f : Group → Group) : (modCur s f).reply = s.reply := rfl
@[simp] theorem modCur_doe (f : Group → Group) : (modCur s f).doe = s.doe := rfl
@[simp] theorem modCur_vecMask (f : Group → Group) : (modCur s f).vecMask = s.vecMask := rfl
@[simp] theorem modCur_vecPend (f : Group → Group) : (modCur s f).vecPend = s.vecPend := rfl
@[simp] theorem modCur_vecRaised (f : Group → Group) : (modCur s f).vecRaised = s.vecRaised := rfl
@[simp] theorem modCur_ports (f : Group → Group) : (modCur s f).ports = s.ports := rfl
@[simp] theorem modCur_sync (f : Group → Group) : (modCur s f).sync = s.sync := rfl
@[simp] theorem modCur_regions (f : Group → Group) : (modCur s f).regions = s.regions := rfl
@[simp] theorem modCur_ckpt (f : Group → Group) : (modCur s f).ckpt = s.ckpt := rfl
@[simp] theorem modCur_arrivals (f : Group → Group) : (modCur s f).arrivals = s.arrivals := rfl
@[simp] theorem modCur_flash (f : Group → Group) : (modCur s f).flash = s.flash := rfl
@[simp] theorem modCur_images (f : Group → Group) : (modCur s f).images = s.images := rfl
@[simp] theorem modCur_hostWrites (f : Group → Group) : (modCur s f).hostWrites = s.hostWrites := rfl
@[simp] theorem modCur_filter (f : Group → Group) : (modCur s f).filter = s.filter := rfl
@[simp] theorem modCur_scLast (f : Group → Group) : (modCur s f).scLast = s.scLast := rfl
@[simp] theorem modCur_joined (f : Group → Group) : (modCur s f).joined = s.joined := rfl
@[simp] theorem modCur_msix (f : Group → Group) : (modCur s f).msix = s.msix := rfl
@[simp] theorem modCur_heat (f : Group → Group) : (modCur s f).heat = s.heat := rfl
@[simp] theorem modCur_heatFrom (f : Group → Group) : (modCur s f).heatFrom = s.heatFrom := rfl

/-! ### A change of the current crew -/

@[simp] theorem modCrew_crew (f : Crew → Crew) : (modCrew s f).crew = f s.crew := rfl
@[simp] theorem modCrew_cur (f : Crew → Crew) : (modCrew s f).cur = s.cur := rfl
@[simp] theorem modCrew_groups (f : Crew → Crew) : (modCrew s f).groups = s.groups := rfl
@[simp] theorem modCrew_crews (f : Crew → Crew) : (modCrew s f).crews = s.crews := rfl
@[simp] theorem modCrew_turn (f : Crew → Crew) : (modCrew s f).turn = s.turn := rfl
@[simp] theorem modCrew_inputs (f : Crew → Crew) : (modCrew s f).inputs = s.inputs := rfl
@[simp] theorem modCrew_rate (f : Crew → Crew) : (modCrew s f).rate = s.rate := rfl
@[simp] theorem modCrew_ctr (f : Crew → Crew) : (modCrew s f).ctr = s.ctr := rfl
@[simp] theorem modCrew_time (f : Crew → Crew) : (modCrew s f).time = s.time := rfl
@[simp] theorem modCrew_power (f : Crew → Crew) : (modCrew s f).power = s.power := rfl
@[simp] theorem modCrew_mem (f : Crew → Crew) : (modCrew s f).mem = s.mem := rfl
@[simp] theorem modCrew_fe (f : Crew → Crew) : (modCrew s f).fe = s.fe := rfl
@[simp] theorem modCrew_poison (f : Crew → Crew) : (modCrew s f).poison = s.poison := rfl
@[simp] theorem modCrew_tiles (f : Crew → Crew) : (modCrew s f).tiles = s.tiles := rfl
@[simp] theorem modCrew_revived (f : Crew → Crew) : (modCrew s f).revived = s.revived := rfl
@[simp] theorem modCrew_hist (f : Crew → Crew) : (modCrew s f).hist = s.hist := rfl
@[simp] theorem modCrew_tlb (f : Crew → Crew) : (modCrew s f).tlb = s.tlb := rfl
@[simp] theorem modCrew_invals (f : Crew → Crew) : (modCrew s f).invals = s.invals := rfl
@[simp] theorem modCrew_ops (f : Crew → Crew) : (modCrew s f).ops = s.ops := rfl
@[simp] theorem modCrew_nextId (f : Crew → Crew) : (modCrew s f).nextId = s.nextId := rfl
@[simp] theorem modCrew_mgmt (f : Crew → Crew) : (modCrew s f).mgmt = s.mgmt := rfl
@[simp] theorem modCrew_loam (f : Crew → Crew) : (modCrew s f).loam = s.loam := rfl
@[simp] theorem modCrew_ringKept (f : Crew → Crew) : (modCrew s f).ringKept = s.ringKept := rfl
@[simp] theorem modCrew_launches (f : Crew → Crew) : (modCrew s f).launches = s.launches := rfl
@[simp] theorem modCrew_bands (f : Crew → Crew) : (modCrew s f).bands = s.bands := rfl
@[simp] theorem modCrew_entries (f : Crew → Crew) : (modCrew s f).entries = s.entries := rfl
@[simp] theorem modCrew_jobs (f : Crew → Crew) : (modCrew s f).jobs = s.jobs := rfl
@[simp] theorem modCrew_posts (f : Crew → Crew) : (modCrew s f).posts = s.posts := rfl
@[simp] theorem modCrew_badQueues (f : Crew → Crew) : (modCrew s f).badQueues = s.badQueues := rfl
@[simp] theorem modCrew_nodes (f : Crew → Crew) : (modCrew s f).nodes = s.nodes := rfl
@[simp] theorem modCrew_ready (f : Crew → Crew) : (modCrew s f).ready = s.ready := rfl
@[simp] theorem modCrew_keptRanges (f : Crew → Crew) : (modCrew s f).keptRanges = s.keptRanges := rfl
@[simp] theorem modCrew_throttle (f : Crew → Crew) : (modCrew s f).throttle = s.throttle := rfl
@[simp] theorem modCrew_dir (f : Crew → Crew) : (modCrew s f).dir = s.dir := rfl
@[simp] theorem modCrew_grants (f : Crew → Crew) : (modCrew s f).grants = s.grants := rfl
@[simp] theorem modCrew_reqs (f : Crew → Crew) : (modCrew s f).reqs = s.reqs := rfl
@[simp] theorem modCrew_planes (f : Crew → Crew) : (modCrew s f).planes = s.planes := rfl
@[simp] theorem modCrew_collects (f : Crew → Crew) : (modCrew s f).collects = s.collects := rfl
@[simp] theorem modCrew_lastFrame (f : Crew → Crew) : (modCrew s f).lastFrame = s.lastFrame := rfl
@[simp] theorem modCrew_beats (f : Crew → Crew) : (modCrew s f).beats = s.beats := rfl
@[simp] theorem modCrew_mute (f : Crew → Crew) : (modCrew s f).mute = s.mute := rfl
@[simp] theorem modCrew_dead (f : Crew → Crew) : (modCrew s f).dead = s.dead := rfl
@[simp] theorem modCrew_badNacks (f : Crew → Crew) : (modCrew s f).badNacks = s.badNacks := rfl
@[simp] theorem modCrew_decls (f : Crew → Crew) : (modCrew s f).decls = s.decls := rfl
@[simp] theorem modCrew_declOps (f : Crew → Crew) : (modCrew s f).declOps = s.declOps := rfl
@[simp] theorem modCrew_routers (f : Crew → Crew) : (modCrew s f).routers = s.routers := rfl
@[simp] theorem modCrew_net (f : Crew → Crew) : (modCrew s f).net = s.net := rfl
@[simp] theorem modCrew_wants (f : Crew → Crew) : (modCrew s f).wants = s.wants := rfl
@[simp] theorem modCrew_linkUp (f : Crew → Crew) : (modCrew s f).linkUp = s.linkUp := rfl
@[simp] theorem modCrew_hostPend (f : Crew → Crew) : (modCrew s f).hostPend = s.hostPend := rfl
@[simp] theorem modCrew_hostRead (f : Crew → Crew) : (modCrew s f).hostRead = s.hostRead := rfl
@[simp] theorem modCrew_reply (f : Crew → Crew) : (modCrew s f).reply = s.reply := rfl
@[simp] theorem modCrew_doe (f : Crew → Crew) : (modCrew s f).doe = s.doe := rfl
@[simp] theorem modCrew_vecMask (f : Crew → Crew) : (modCrew s f).vecMask = s.vecMask := rfl
@[simp] theorem modCrew_vecPend (f : Crew → Crew) : (modCrew s f).vecPend = s.vecPend := rfl
@[simp] theorem modCrew_vecRaised (f : Crew → Crew) : (modCrew s f).vecRaised = s.vecRaised := rfl
@[simp] theorem modCrew_ports (f : Crew → Crew) : (modCrew s f).ports = s.ports := rfl
@[simp] theorem modCrew_sync (f : Crew → Crew) : (modCrew s f).sync = s.sync := rfl
@[simp] theorem modCrew_regions (f : Crew → Crew) : (modCrew s f).regions = s.regions := rfl
@[simp] theorem modCrew_ckpt (f : Crew → Crew) : (modCrew s f).ckpt = s.ckpt := rfl
@[simp] theorem modCrew_arrivals (f : Crew → Crew) : (modCrew s f).arrivals = s.arrivals := rfl
@[simp] theorem modCrew_flash (f : Crew → Crew) : (modCrew s f).flash = s.flash := rfl
@[simp] theorem modCrew_images (f : Crew → Crew) : (modCrew s f).images = s.images := rfl
@[simp] theorem modCrew_hostWrites (f : Crew → Crew) : (modCrew s f).hostWrites = s.hostWrites := rfl
@[simp] theorem modCrew_filter (f : Crew → Crew) : (modCrew s f).filter = s.filter := rfl
@[simp] theorem modCrew_scLast (f : Crew → Crew) : (modCrew s f).scLast = s.scLast := rfl
@[simp] theorem modCrew_joined (f : Crew → Crew) : (modCrew s f).joined = s.joined := rfl
@[simp] theorem modCrew_msix (f : Crew → Crew) : (modCrew s f).msix = s.msix := rfl
@[simp] theorem modCrew_heat (f : Crew → Crew) : (modCrew s f).heat = s.heat := rfl
@[simp] theorem modCrew_heatFrom (f : Crew → Crew) : (modCrew s f).heatFrom = s.heatFrom := rfl

/-! ### The next word -/

@[simp] theorem advance_cur : (advance s).cur = { s.cur with pc := s.cur.pc + 4 } := rfl
@[simp] theorem advance_crew : (advance s).crew = s.crew := rfl
@[simp] theorem advance_groups : (advance s).groups = s.groups := rfl
@[simp] theorem advance_crews : (advance s).crews = s.crews := rfl
@[simp] theorem advance_turn : (advance s).turn = s.turn := rfl
@[simp] theorem advance_inputs : (advance s).inputs = s.inputs := rfl
@[simp] theorem advance_rate : (advance s).rate = s.rate := rfl
@[simp] theorem advance_ctr : (advance s).ctr = s.ctr := rfl
@[simp] theorem advance_time : (advance s).time = s.time := rfl
@[simp] theorem advance_power : (advance s).power = s.power := rfl
@[simp] theorem advance_mem : (advance s).mem = s.mem := rfl
@[simp] theorem advance_fe : (advance s).fe = s.fe := rfl
@[simp] theorem advance_poison : (advance s).poison = s.poison := rfl
@[simp] theorem advance_tiles : (advance s).tiles = s.tiles := rfl
@[simp] theorem advance_revived : (advance s).revived = s.revived := rfl
@[simp] theorem advance_hist : (advance s).hist = s.hist := rfl
@[simp] theorem advance_tlb : (advance s).tlb = s.tlb := rfl
@[simp] theorem advance_invals : (advance s).invals = s.invals := rfl
@[simp] theorem advance_ops : (advance s).ops = s.ops := rfl
@[simp] theorem advance_nextId : (advance s).nextId = s.nextId := rfl
@[simp] theorem advance_mgmt : (advance s).mgmt = s.mgmt := rfl
@[simp] theorem advance_loam : (advance s).loam = s.loam := rfl
@[simp] theorem advance_ringKept : (advance s).ringKept = s.ringKept := rfl
@[simp] theorem advance_launches : (advance s).launches = s.launches := rfl
@[simp] theorem advance_bands : (advance s).bands = s.bands := rfl
@[simp] theorem advance_entries : (advance s).entries = s.entries := rfl
@[simp] theorem advance_jobs : (advance s).jobs = s.jobs := rfl
@[simp] theorem advance_posts : (advance s).posts = s.posts := rfl
@[simp] theorem advance_badQueues : (advance s).badQueues = s.badQueues := rfl
@[simp] theorem advance_nodes : (advance s).nodes = s.nodes := rfl
@[simp] theorem advance_ready : (advance s).ready = s.ready := rfl
@[simp] theorem advance_keptRanges : (advance s).keptRanges = s.keptRanges := rfl
@[simp] theorem advance_throttle : (advance s).throttle = s.throttle := rfl
@[simp] theorem advance_dir : (advance s).dir = s.dir := rfl
@[simp] theorem advance_grants : (advance s).grants = s.grants := rfl
@[simp] theorem advance_reqs : (advance s).reqs = s.reqs := rfl
@[simp] theorem advance_planes : (advance s).planes = s.planes := rfl
@[simp] theorem advance_collects : (advance s).collects = s.collects := rfl
@[simp] theorem advance_lastFrame : (advance s).lastFrame = s.lastFrame := rfl
@[simp] theorem advance_beats : (advance s).beats = s.beats := rfl
@[simp] theorem advance_mute : (advance s).mute = s.mute := rfl
@[simp] theorem advance_dead : (advance s).dead = s.dead := rfl
@[simp] theorem advance_badNacks : (advance s).badNacks = s.badNacks := rfl
@[simp] theorem advance_decls : (advance s).decls = s.decls := rfl
@[simp] theorem advance_declOps : (advance s).declOps = s.declOps := rfl
@[simp] theorem advance_routers : (advance s).routers = s.routers := rfl
@[simp] theorem advance_net : (advance s).net = s.net := rfl
@[simp] theorem advance_wants : (advance s).wants = s.wants := rfl
@[simp] theorem advance_linkUp : (advance s).linkUp = s.linkUp := rfl
@[simp] theorem advance_hostPend : (advance s).hostPend = s.hostPend := rfl
@[simp] theorem advance_hostRead : (advance s).hostRead = s.hostRead := rfl
@[simp] theorem advance_reply : (advance s).reply = s.reply := rfl
@[simp] theorem advance_doe : (advance s).doe = s.doe := rfl
@[simp] theorem advance_vecMask : (advance s).vecMask = s.vecMask := rfl
@[simp] theorem advance_vecPend : (advance s).vecPend = s.vecPend := rfl
@[simp] theorem advance_vecRaised : (advance s).vecRaised = s.vecRaised := rfl
@[simp] theorem advance_ports : (advance s).ports = s.ports := rfl
@[simp] theorem advance_sync : (advance s).sync = s.sync := rfl
@[simp] theorem advance_regions : (advance s).regions = s.regions := rfl
@[simp] theorem advance_ckpt : (advance s).ckpt = s.ckpt := rfl
@[simp] theorem advance_arrivals : (advance s).arrivals = s.arrivals := rfl
@[simp] theorem advance_flash : (advance s).flash = s.flash := rfl
@[simp] theorem advance_images : (advance s).images = s.images := rfl
@[simp] theorem advance_hostWrites : (advance s).hostWrites = s.hostWrites := rfl
@[simp] theorem advance_filter : (advance s).filter = s.filter := rfl
@[simp] theorem advance_scLast : (advance s).scLast = s.scLast := rfl
@[simp] theorem advance_joined : (advance s).joined = s.joined := rfl
@[simp] theorem advance_msix : (advance s).msix = s.msix := rfl
@[simp] theorem advance_heat : (advance s).heat = s.heat := rfl
@[simp] theorem advance_heatFrom : (advance s).heatFrom = s.heatFrom := rfl

/-! ### A scalar result -/

@[simp] theorem retS_cur (d : BitVec 6) (v : W64) : (retS s d v).cur = { sset s.cur d v with pc := s.cur.pc + 4 } := rfl
@[simp] theorem retS_crew (d : BitVec 6) (v : W64) : (retS s d v).crew = s.crew := rfl
@[simp] theorem retS_groups (d : BitVec 6) (v : W64) : (retS s d v).groups = s.groups := rfl
@[simp] theorem retS_crews (d : BitVec 6) (v : W64) : (retS s d v).crews = s.crews := rfl
@[simp] theorem retS_turn (d : BitVec 6) (v : W64) : (retS s d v).turn = s.turn := rfl
@[simp] theorem retS_inputs (d : BitVec 6) (v : W64) : (retS s d v).inputs = s.inputs := rfl
@[simp] theorem retS_rate (d : BitVec 6) (v : W64) : (retS s d v).rate = s.rate := rfl
@[simp] theorem retS_ctr (d : BitVec 6) (v : W64) : (retS s d v).ctr = s.ctr := rfl
@[simp] theorem retS_time (d : BitVec 6) (v : W64) : (retS s d v).time = s.time := rfl
@[simp] theorem retS_power (d : BitVec 6) (v : W64) : (retS s d v).power = s.power := rfl
@[simp] theorem retS_mem (d : BitVec 6) (v : W64) : (retS s d v).mem = s.mem := rfl
@[simp] theorem retS_fe (d : BitVec 6) (v : W64) : (retS s d v).fe = s.fe := rfl
@[simp] theorem retS_poison (d : BitVec 6) (v : W64) : (retS s d v).poison = s.poison := rfl
@[simp] theorem retS_tiles (d : BitVec 6) (v : W64) : (retS s d v).tiles = s.tiles := rfl
@[simp] theorem retS_revived (d : BitVec 6) (v : W64) : (retS s d v).revived = s.revived := rfl
@[simp] theorem retS_hist (d : BitVec 6) (v : W64) : (retS s d v).hist = s.hist := rfl
@[simp] theorem retS_tlb (d : BitVec 6) (v : W64) : (retS s d v).tlb = s.tlb := rfl
@[simp] theorem retS_invals (d : BitVec 6) (v : W64) : (retS s d v).invals = s.invals := rfl
@[simp] theorem retS_ops (d : BitVec 6) (v : W64) : (retS s d v).ops = s.ops := rfl
@[simp] theorem retS_nextId (d : BitVec 6) (v : W64) : (retS s d v).nextId = s.nextId := rfl
@[simp] theorem retS_mgmt (d : BitVec 6) (v : W64) : (retS s d v).mgmt = s.mgmt := rfl
@[simp] theorem retS_loam (d : BitVec 6) (v : W64) : (retS s d v).loam = s.loam := rfl
@[simp] theorem retS_ringKept (d : BitVec 6) (v : W64) : (retS s d v).ringKept = s.ringKept := rfl
@[simp] theorem retS_launches (d : BitVec 6) (v : W64) : (retS s d v).launches = s.launches := rfl
@[simp] theorem retS_bands (d : BitVec 6) (v : W64) : (retS s d v).bands = s.bands := rfl
@[simp] theorem retS_entries (d : BitVec 6) (v : W64) : (retS s d v).entries = s.entries := rfl
@[simp] theorem retS_jobs (d : BitVec 6) (v : W64) : (retS s d v).jobs = s.jobs := rfl
@[simp] theorem retS_posts (d : BitVec 6) (v : W64) : (retS s d v).posts = s.posts := rfl
@[simp] theorem retS_badQueues (d : BitVec 6) (v : W64) : (retS s d v).badQueues = s.badQueues := rfl
@[simp] theorem retS_nodes (d : BitVec 6) (v : W64) : (retS s d v).nodes = s.nodes := rfl
@[simp] theorem retS_ready (d : BitVec 6) (v : W64) : (retS s d v).ready = s.ready := rfl
@[simp] theorem retS_keptRanges (d : BitVec 6) (v : W64) : (retS s d v).keptRanges = s.keptRanges := rfl
@[simp] theorem retS_throttle (d : BitVec 6) (v : W64) : (retS s d v).throttle = s.throttle := rfl
@[simp] theorem retS_dir (d : BitVec 6) (v : W64) : (retS s d v).dir = s.dir := rfl
@[simp] theorem retS_grants (d : BitVec 6) (v : W64) : (retS s d v).grants = s.grants := rfl
@[simp] theorem retS_reqs (d : BitVec 6) (v : W64) : (retS s d v).reqs = s.reqs := rfl
@[simp] theorem retS_planes (d : BitVec 6) (v : W64) : (retS s d v).planes = s.planes := rfl
@[simp] theorem retS_collects (d : BitVec 6) (v : W64) : (retS s d v).collects = s.collects := rfl
@[simp] theorem retS_lastFrame (d : BitVec 6) (v : W64) : (retS s d v).lastFrame = s.lastFrame := rfl
@[simp] theorem retS_beats (d : BitVec 6) (v : W64) : (retS s d v).beats = s.beats := rfl
@[simp] theorem retS_mute (d : BitVec 6) (v : W64) : (retS s d v).mute = s.mute := rfl
@[simp] theorem retS_dead (d : BitVec 6) (v : W64) : (retS s d v).dead = s.dead := rfl
@[simp] theorem retS_badNacks (d : BitVec 6) (v : W64) : (retS s d v).badNacks = s.badNacks := rfl
@[simp] theorem retS_decls (d : BitVec 6) (v : W64) : (retS s d v).decls = s.decls := rfl
@[simp] theorem retS_declOps (d : BitVec 6) (v : W64) : (retS s d v).declOps = s.declOps := rfl
@[simp] theorem retS_routers (d : BitVec 6) (v : W64) : (retS s d v).routers = s.routers := rfl
@[simp] theorem retS_net (d : BitVec 6) (v : W64) : (retS s d v).net = s.net := rfl
@[simp] theorem retS_wants (d : BitVec 6) (v : W64) : (retS s d v).wants = s.wants := rfl
@[simp] theorem retS_linkUp (d : BitVec 6) (v : W64) : (retS s d v).linkUp = s.linkUp := rfl
@[simp] theorem retS_hostPend (d : BitVec 6) (v : W64) : (retS s d v).hostPend = s.hostPend := rfl
@[simp] theorem retS_hostRead (d : BitVec 6) (v : W64) : (retS s d v).hostRead = s.hostRead := rfl
@[simp] theorem retS_reply (d : BitVec 6) (v : W64) : (retS s d v).reply = s.reply := rfl
@[simp] theorem retS_doe (d : BitVec 6) (v : W64) : (retS s d v).doe = s.doe := rfl
@[simp] theorem retS_vecMask (d : BitVec 6) (v : W64) : (retS s d v).vecMask = s.vecMask := rfl
@[simp] theorem retS_vecPend (d : BitVec 6) (v : W64) : (retS s d v).vecPend = s.vecPend := rfl
@[simp] theorem retS_vecRaised (d : BitVec 6) (v : W64) : (retS s d v).vecRaised = s.vecRaised := rfl
@[simp] theorem retS_ports (d : BitVec 6) (v : W64) : (retS s d v).ports = s.ports := rfl
@[simp] theorem retS_sync (d : BitVec 6) (v : W64) : (retS s d v).sync = s.sync := rfl
@[simp] theorem retS_regions (d : BitVec 6) (v : W64) : (retS s d v).regions = s.regions := rfl
@[simp] theorem retS_ckpt (d : BitVec 6) (v : W64) : (retS s d v).ckpt = s.ckpt := rfl
@[simp] theorem retS_arrivals (d : BitVec 6) (v : W64) : (retS s d v).arrivals = s.arrivals := rfl
@[simp] theorem retS_flash (d : BitVec 6) (v : W64) : (retS s d v).flash = s.flash := rfl
@[simp] theorem retS_images (d : BitVec 6) (v : W64) : (retS s d v).images = s.images := rfl
@[simp] theorem retS_hostWrites (d : BitVec 6) (v : W64) : (retS s d v).hostWrites = s.hostWrites := rfl
@[simp] theorem retS_filter (d : BitVec 6) (v : W64) : (retS s d v).filter = s.filter := rfl
@[simp] theorem retS_scLast (d : BitVec 6) (v : W64) : (retS s d v).scLast = s.scLast := rfl
@[simp] theorem retS_joined (d : BitVec 6) (v : W64) : (retS s d v).joined = s.joined := rfl
@[simp] theorem retS_msix (d : BitVec 6) (v : W64) : (retS s d v).msix = s.msix := rfl
@[simp] theorem retS_heat (d : BitVec 6) (v : W64) : (retS s d v).heat = s.heat := rfl
@[simp] theorem retS_heatFrom (d : BitVec 6) (v : W64) : (retS s d v).heatFrom = s.heatFrom := rfl

/-! ### One write by an agent -/

@[simp] theorem memWrite_mem (pa : Nat) (bs : List Byte) : (memWrite s pa bs).mem = memPut s.revived s.mem pa bs := rfl
@[simp] theorem memWrite_poison (pa : Nat) (bs : List Byte) : (memWrite s pa bs).poison = s.poison.filter fun w => !wholeWords pa bs.length w := rfl
@[simp] theorem memWrite_hist (pa : Nat) (bs : List Byte) : (memWrite s pa bs).hist = (pa, memRead s pa bs.length) :: s.hist := rfl
@[simp] theorem memWrite_cur (pa : Nat) (bs : List Byte) : (memWrite s pa bs).cur = s.cur := rfl
@[simp] theorem memWrite_crew (pa : Nat) (bs : List Byte) : (memWrite s pa bs).crew = s.crew := rfl
@[simp] theorem memWrite_groups (pa : Nat) (bs : List Byte) : (memWrite s pa bs).groups = s.groups := rfl
@[simp] theorem memWrite_crews (pa : Nat) (bs : List Byte) : (memWrite s pa bs).crews = s.crews := rfl
@[simp] theorem memWrite_turn (pa : Nat) (bs : List Byte) : (memWrite s pa bs).turn = s.turn := rfl
@[simp] theorem memWrite_inputs (pa : Nat) (bs : List Byte) : (memWrite s pa bs).inputs = s.inputs := rfl
@[simp] theorem memWrite_rate (pa : Nat) (bs : List Byte) : (memWrite s pa bs).rate = s.rate := rfl
@[simp] theorem memWrite_ctr (pa : Nat) (bs : List Byte) : (memWrite s pa bs).ctr = s.ctr := rfl
@[simp] theorem memWrite_time (pa : Nat) (bs : List Byte) : (memWrite s pa bs).time = s.time := rfl
@[simp] theorem memWrite_power (pa : Nat) (bs : List Byte) : (memWrite s pa bs).power = s.power := rfl
@[simp] theorem memWrite_fe (pa : Nat) (bs : List Byte) : (memWrite s pa bs).fe = s.fe := rfl
@[simp] theorem memWrite_tiles (pa : Nat) (bs : List Byte) : (memWrite s pa bs).tiles = s.tiles := rfl
@[simp] theorem memWrite_revived (pa : Nat) (bs : List Byte) : (memWrite s pa bs).revived = s.revived := rfl
@[simp] theorem memWrite_tlb (pa : Nat) (bs : List Byte) : (memWrite s pa bs).tlb = s.tlb := rfl
@[simp] theorem memWrite_invals (pa : Nat) (bs : List Byte) : (memWrite s pa bs).invals = s.invals := rfl
@[simp] theorem memWrite_ops (pa : Nat) (bs : List Byte) : (memWrite s pa bs).ops = s.ops := rfl
@[simp] theorem memWrite_nextId (pa : Nat) (bs : List Byte) : (memWrite s pa bs).nextId = s.nextId := rfl
@[simp] theorem memWrite_mgmt (pa : Nat) (bs : List Byte) : (memWrite s pa bs).mgmt = s.mgmt := rfl
@[simp] theorem memWrite_loam (pa : Nat) (bs : List Byte) : (memWrite s pa bs).loam = s.loam := rfl
@[simp] theorem memWrite_ringKept (pa : Nat) (bs : List Byte) : (memWrite s pa bs).ringKept = s.ringKept := rfl
@[simp] theorem memWrite_launches (pa : Nat) (bs : List Byte) : (memWrite s pa bs).launches = s.launches := rfl
@[simp] theorem memWrite_bands (pa : Nat) (bs : List Byte) : (memWrite s pa bs).bands = s.bands := rfl
@[simp] theorem memWrite_entries (pa : Nat) (bs : List Byte) : (memWrite s pa bs).entries = s.entries := rfl
@[simp] theorem memWrite_jobs (pa : Nat) (bs : List Byte) : (memWrite s pa bs).jobs = s.jobs := rfl
@[simp] theorem memWrite_posts (pa : Nat) (bs : List Byte) : (memWrite s pa bs).posts = s.posts := rfl
@[simp] theorem memWrite_badQueues (pa : Nat) (bs : List Byte) : (memWrite s pa bs).badQueues = s.badQueues := rfl
@[simp] theorem memWrite_nodes (pa : Nat) (bs : List Byte) : (memWrite s pa bs).nodes = s.nodes := rfl
@[simp] theorem memWrite_ready (pa : Nat) (bs : List Byte) : (memWrite s pa bs).ready = s.ready := rfl
@[simp] theorem memWrite_keptRanges (pa : Nat) (bs : List Byte) : (memWrite s pa bs).keptRanges = s.keptRanges := rfl
@[simp] theorem memWrite_throttle (pa : Nat) (bs : List Byte) : (memWrite s pa bs).throttle = s.throttle := rfl
@[simp] theorem memWrite_dir (pa : Nat) (bs : List Byte) : (memWrite s pa bs).dir = s.dir := rfl
@[simp] theorem memWrite_grants (pa : Nat) (bs : List Byte) : (memWrite s pa bs).grants = s.grants := rfl
@[simp] theorem memWrite_reqs (pa : Nat) (bs : List Byte) : (memWrite s pa bs).reqs = s.reqs := rfl
@[simp] theorem memWrite_planes (pa : Nat) (bs : List Byte) : (memWrite s pa bs).planes = s.planes := rfl
@[simp] theorem memWrite_collects (pa : Nat) (bs : List Byte) : (memWrite s pa bs).collects = s.collects := rfl
@[simp] theorem memWrite_lastFrame (pa : Nat) (bs : List Byte) : (memWrite s pa bs).lastFrame = s.lastFrame := rfl
@[simp] theorem memWrite_beats (pa : Nat) (bs : List Byte) : (memWrite s pa bs).beats = s.beats := rfl
@[simp] theorem memWrite_mute (pa : Nat) (bs : List Byte) : (memWrite s pa bs).mute = s.mute := rfl
@[simp] theorem memWrite_dead (pa : Nat) (bs : List Byte) : (memWrite s pa bs).dead = s.dead := rfl
@[simp] theorem memWrite_badNacks (pa : Nat) (bs : List Byte) : (memWrite s pa bs).badNacks = s.badNacks := rfl
@[simp] theorem memWrite_decls (pa : Nat) (bs : List Byte) : (memWrite s pa bs).decls = s.decls := rfl
@[simp] theorem memWrite_declOps (pa : Nat) (bs : List Byte) : (memWrite s pa bs).declOps = s.declOps := rfl
@[simp] theorem memWrite_routers (pa : Nat) (bs : List Byte) : (memWrite s pa bs).routers = s.routers := rfl
@[simp] theorem memWrite_net (pa : Nat) (bs : List Byte) : (memWrite s pa bs).net = s.net := rfl
@[simp] theorem memWrite_wants (pa : Nat) (bs : List Byte) : (memWrite s pa bs).wants = s.wants := rfl
@[simp] theorem memWrite_linkUp (pa : Nat) (bs : List Byte) : (memWrite s pa bs).linkUp = s.linkUp := rfl
@[simp] theorem memWrite_hostPend (pa : Nat) (bs : List Byte) : (memWrite s pa bs).hostPend = s.hostPend := rfl
@[simp] theorem memWrite_hostRead (pa : Nat) (bs : List Byte) : (memWrite s pa bs).hostRead = s.hostRead := rfl
@[simp] theorem memWrite_reply (pa : Nat) (bs : List Byte) : (memWrite s pa bs).reply = s.reply := rfl
@[simp] theorem memWrite_doe (pa : Nat) (bs : List Byte) : (memWrite s pa bs).doe = s.doe := rfl
@[simp] theorem memWrite_vecMask (pa : Nat) (bs : List Byte) : (memWrite s pa bs).vecMask = s.vecMask := rfl
@[simp] theorem memWrite_vecPend (pa : Nat) (bs : List Byte) : (memWrite s pa bs).vecPend = s.vecPend := rfl
@[simp] theorem memWrite_vecRaised (pa : Nat) (bs : List Byte) : (memWrite s pa bs).vecRaised = s.vecRaised := rfl
@[simp] theorem memWrite_ports (pa : Nat) (bs : List Byte) : (memWrite s pa bs).ports = s.ports := rfl
@[simp] theorem memWrite_sync (pa : Nat) (bs : List Byte) : (memWrite s pa bs).sync = s.sync := rfl
@[simp] theorem memWrite_regions (pa : Nat) (bs : List Byte) : (memWrite s pa bs).regions = s.regions := rfl
@[simp] theorem memWrite_ckpt (pa : Nat) (bs : List Byte) : (memWrite s pa bs).ckpt = s.ckpt := rfl
@[simp] theorem memWrite_arrivals (pa : Nat) (bs : List Byte) : (memWrite s pa bs).arrivals = s.arrivals := rfl
@[simp] theorem memWrite_flash (pa : Nat) (bs : List Byte) : (memWrite s pa bs).flash = s.flash := rfl
@[simp] theorem memWrite_images (pa : Nat) (bs : List Byte) : (memWrite s pa bs).images = s.images := rfl
@[simp] theorem memWrite_hostWrites (pa : Nat) (bs : List Byte) : (memWrite s pa bs).hostWrites = s.hostWrites := rfl
@[simp] theorem memWrite_filter (pa : Nat) (bs : List Byte) : (memWrite s pa bs).filter = s.filter := rfl
@[simp] theorem memWrite_scLast (pa : Nat) (bs : List Byte) : (memWrite s pa bs).scLast = s.scLast := rfl
@[simp] theorem memWrite_joined (pa : Nat) (bs : List Byte) : (memWrite s pa bs).joined = s.joined := rfl
@[simp] theorem memWrite_msix (pa : Nat) (bs : List Byte) : (memWrite s pa bs).msix = s.msix := rfl
@[simp] theorem memWrite_heat (pa : Nat) (bs : List Byte) : (memWrite s pa bs).heat = s.heat := rfl
@[simp] theorem memWrite_heatFrom (pa : Nat) (bs : List Byte) : (memWrite s pa bs).heatFrom = s.heatFrom := rfl

/-! ### Zeros over a run of bytes -/

@[simp] theorem fillZero_mem (pa n : Nat) : (fillZero s pa n).mem = if s.revived.isEmpty then spClear s.mem pa n else memPut s.revived s.mem pa (List.replicate n 0) := rfl
@[simp] theorem fillZero_poison (pa n : Nat) : (fillZero s pa n).poison = s.poison.filter fun w => !wholeWords pa n w := rfl
@[simp] theorem fillZero_cur (pa n : Nat) : (fillZero s pa n).cur = s.cur := rfl
@[simp] theorem fillZero_crew (pa n : Nat) : (fillZero s pa n).crew = s.crew := rfl
@[simp] theorem fillZero_groups (pa n : Nat) : (fillZero s pa n).groups = s.groups := rfl
@[simp] theorem fillZero_crews (pa n : Nat) : (fillZero s pa n).crews = s.crews := rfl
@[simp] theorem fillZero_turn (pa n : Nat) : (fillZero s pa n).turn = s.turn := rfl
@[simp] theorem fillZero_inputs (pa n : Nat) : (fillZero s pa n).inputs = s.inputs := rfl
@[simp] theorem fillZero_rate (pa n : Nat) : (fillZero s pa n).rate = s.rate := rfl
@[simp] theorem fillZero_ctr (pa n : Nat) : (fillZero s pa n).ctr = s.ctr := rfl
@[simp] theorem fillZero_time (pa n : Nat) : (fillZero s pa n).time = s.time := rfl
@[simp] theorem fillZero_power (pa n : Nat) : (fillZero s pa n).power = s.power := rfl
@[simp] theorem fillZero_fe (pa n : Nat) : (fillZero s pa n).fe = s.fe := rfl
@[simp] theorem fillZero_tiles (pa n : Nat) : (fillZero s pa n).tiles = s.tiles := rfl
@[simp] theorem fillZero_revived (pa n : Nat) : (fillZero s pa n).revived = s.revived := rfl
@[simp] theorem fillZero_hist (pa n : Nat) : (fillZero s pa n).hist = s.hist := rfl
@[simp] theorem fillZero_tlb (pa n : Nat) : (fillZero s pa n).tlb = s.tlb := rfl
@[simp] theorem fillZero_invals (pa n : Nat) : (fillZero s pa n).invals = s.invals := rfl
@[simp] theorem fillZero_ops (pa n : Nat) : (fillZero s pa n).ops = s.ops := rfl
@[simp] theorem fillZero_nextId (pa n : Nat) : (fillZero s pa n).nextId = s.nextId := rfl
@[simp] theorem fillZero_mgmt (pa n : Nat) : (fillZero s pa n).mgmt = s.mgmt := rfl
@[simp] theorem fillZero_loam (pa n : Nat) : (fillZero s pa n).loam = s.loam := rfl
@[simp] theorem fillZero_ringKept (pa n : Nat) : (fillZero s pa n).ringKept = s.ringKept := rfl
@[simp] theorem fillZero_launches (pa n : Nat) : (fillZero s pa n).launches = s.launches := rfl
@[simp] theorem fillZero_bands (pa n : Nat) : (fillZero s pa n).bands = s.bands := rfl
@[simp] theorem fillZero_entries (pa n : Nat) : (fillZero s pa n).entries = s.entries := rfl
@[simp] theorem fillZero_jobs (pa n : Nat) : (fillZero s pa n).jobs = s.jobs := rfl
@[simp] theorem fillZero_posts (pa n : Nat) : (fillZero s pa n).posts = s.posts := rfl
@[simp] theorem fillZero_badQueues (pa n : Nat) : (fillZero s pa n).badQueues = s.badQueues := rfl
@[simp] theorem fillZero_nodes (pa n : Nat) : (fillZero s pa n).nodes = s.nodes := rfl
@[simp] theorem fillZero_ready (pa n : Nat) : (fillZero s pa n).ready = s.ready := rfl
@[simp] theorem fillZero_keptRanges (pa n : Nat) : (fillZero s pa n).keptRanges = s.keptRanges := rfl
@[simp] theorem fillZero_throttle (pa n : Nat) : (fillZero s pa n).throttle = s.throttle := rfl
@[simp] theorem fillZero_dir (pa n : Nat) : (fillZero s pa n).dir = s.dir := rfl
@[simp] theorem fillZero_grants (pa n : Nat) : (fillZero s pa n).grants = s.grants := rfl
@[simp] theorem fillZero_reqs (pa n : Nat) : (fillZero s pa n).reqs = s.reqs := rfl
@[simp] theorem fillZero_planes (pa n : Nat) : (fillZero s pa n).planes = s.planes := rfl
@[simp] theorem fillZero_collects (pa n : Nat) : (fillZero s pa n).collects = s.collects := rfl
@[simp] theorem fillZero_lastFrame (pa n : Nat) : (fillZero s pa n).lastFrame = s.lastFrame := rfl
@[simp] theorem fillZero_beats (pa n : Nat) : (fillZero s pa n).beats = s.beats := rfl
@[simp] theorem fillZero_mute (pa n : Nat) : (fillZero s pa n).mute = s.mute := rfl
@[simp] theorem fillZero_dead (pa n : Nat) : (fillZero s pa n).dead = s.dead := rfl
@[simp] theorem fillZero_badNacks (pa n : Nat) : (fillZero s pa n).badNacks = s.badNacks := rfl
@[simp] theorem fillZero_decls (pa n : Nat) : (fillZero s pa n).decls = s.decls := rfl
@[simp] theorem fillZero_declOps (pa n : Nat) : (fillZero s pa n).declOps = s.declOps := rfl
@[simp] theorem fillZero_routers (pa n : Nat) : (fillZero s pa n).routers = s.routers := rfl
@[simp] theorem fillZero_net (pa n : Nat) : (fillZero s pa n).net = s.net := rfl
@[simp] theorem fillZero_wants (pa n : Nat) : (fillZero s pa n).wants = s.wants := rfl
@[simp] theorem fillZero_linkUp (pa n : Nat) : (fillZero s pa n).linkUp = s.linkUp := rfl
@[simp] theorem fillZero_hostPend (pa n : Nat) : (fillZero s pa n).hostPend = s.hostPend := rfl
@[simp] theorem fillZero_hostRead (pa n : Nat) : (fillZero s pa n).hostRead = s.hostRead := rfl
@[simp] theorem fillZero_reply (pa n : Nat) : (fillZero s pa n).reply = s.reply := rfl
@[simp] theorem fillZero_doe (pa n : Nat) : (fillZero s pa n).doe = s.doe := rfl
@[simp] theorem fillZero_vecMask (pa n : Nat) : (fillZero s pa n).vecMask = s.vecMask := rfl
@[simp] theorem fillZero_vecPend (pa n : Nat) : (fillZero s pa n).vecPend = s.vecPend := rfl
@[simp] theorem fillZero_vecRaised (pa n : Nat) : (fillZero s pa n).vecRaised = s.vecRaised := rfl
@[simp] theorem fillZero_ports (pa n : Nat) : (fillZero s pa n).ports = s.ports := rfl
@[simp] theorem fillZero_sync (pa n : Nat) : (fillZero s pa n).sync = s.sync := rfl
@[simp] theorem fillZero_regions (pa n : Nat) : (fillZero s pa n).regions = s.regions := rfl
@[simp] theorem fillZero_ckpt (pa n : Nat) : (fillZero s pa n).ckpt = s.ckpt := rfl
@[simp] theorem fillZero_arrivals (pa n : Nat) : (fillZero s pa n).arrivals = s.arrivals := rfl
@[simp] theorem fillZero_flash (pa n : Nat) : (fillZero s pa n).flash = s.flash := rfl
@[simp] theorem fillZero_images (pa n : Nat) : (fillZero s pa n).images = s.images := rfl
@[simp] theorem fillZero_hostWrites (pa n : Nat) : (fillZero s pa n).hostWrites = s.hostWrites := rfl
@[simp] theorem fillZero_filter (pa n : Nat) : (fillZero s pa n).filter = s.filter := rfl
@[simp] theorem fillZero_scLast (pa n : Nat) : (fillZero s pa n).scLast = s.scLast := rfl
@[simp] theorem fillZero_joined (pa n : Nat) : (fillZero s pa n).joined = s.joined := rfl
@[simp] theorem fillZero_msix (pa n : Nat) : (fillZero s pa n).msix = s.msix := rfl
@[simp] theorem fillZero_heat (pa n : Nat) : (fillZero s pa n).heat = s.heat := rfl
@[simp] theorem fillZero_heatFrom (pa n : Nat) : (fillZero s pa n).heatFrom = s.heatFrom := rfl

/-! ### A word poisoned -/

@[simp] theorem poisonWord_poison (w : Nat) : (poisonWord s w).poison = setAdd s.poison w := rfl
@[simp] theorem poisonWord_cur (w : Nat) : (poisonWord s w).cur = s.cur := rfl
@[simp] theorem poisonWord_crew (w : Nat) : (poisonWord s w).crew = s.crew := rfl
@[simp] theorem poisonWord_groups (w : Nat) : (poisonWord s w).groups = s.groups := rfl
@[simp] theorem poisonWord_crews (w : Nat) : (poisonWord s w).crews = s.crews := rfl
@[simp] theorem poisonWord_turn (w : Nat) : (poisonWord s w).turn = s.turn := rfl
@[simp] theorem poisonWord_inputs (w : Nat) : (poisonWord s w).inputs = s.inputs := rfl
@[simp] theorem poisonWord_rate (w : Nat) : (poisonWord s w).rate = s.rate := rfl
@[simp] theorem poisonWord_ctr (w : Nat) : (poisonWord s w).ctr = s.ctr := rfl
@[simp] theorem poisonWord_time (w : Nat) : (poisonWord s w).time = s.time := rfl
@[simp] theorem poisonWord_power (w : Nat) : (poisonWord s w).power = s.power := rfl
@[simp] theorem poisonWord_mem (w : Nat) : (poisonWord s w).mem = s.mem := rfl
@[simp] theorem poisonWord_fe (w : Nat) : (poisonWord s w).fe = s.fe := rfl
@[simp] theorem poisonWord_tiles (w : Nat) : (poisonWord s w).tiles = s.tiles := rfl
@[simp] theorem poisonWord_revived (w : Nat) : (poisonWord s w).revived = s.revived := rfl
@[simp] theorem poisonWord_hist (w : Nat) : (poisonWord s w).hist = s.hist := rfl
@[simp] theorem poisonWord_tlb (w : Nat) : (poisonWord s w).tlb = s.tlb := rfl
@[simp] theorem poisonWord_invals (w : Nat) : (poisonWord s w).invals = s.invals := rfl
@[simp] theorem poisonWord_ops (w : Nat) : (poisonWord s w).ops = s.ops := rfl
@[simp] theorem poisonWord_nextId (w : Nat) : (poisonWord s w).nextId = s.nextId := rfl
@[simp] theorem poisonWord_mgmt (w : Nat) : (poisonWord s w).mgmt = s.mgmt := rfl
@[simp] theorem poisonWord_loam (w : Nat) : (poisonWord s w).loam = s.loam := rfl
@[simp] theorem poisonWord_ringKept (w : Nat) : (poisonWord s w).ringKept = s.ringKept := rfl
@[simp] theorem poisonWord_launches (w : Nat) : (poisonWord s w).launches = s.launches := rfl
@[simp] theorem poisonWord_bands (w : Nat) : (poisonWord s w).bands = s.bands := rfl
@[simp] theorem poisonWord_entries (w : Nat) : (poisonWord s w).entries = s.entries := rfl
@[simp] theorem poisonWord_jobs (w : Nat) : (poisonWord s w).jobs = s.jobs := rfl
@[simp] theorem poisonWord_posts (w : Nat) : (poisonWord s w).posts = s.posts := rfl
@[simp] theorem poisonWord_badQueues (w : Nat) : (poisonWord s w).badQueues = s.badQueues := rfl
@[simp] theorem poisonWord_nodes (w : Nat) : (poisonWord s w).nodes = s.nodes := rfl
@[simp] theorem poisonWord_ready (w : Nat) : (poisonWord s w).ready = s.ready := rfl
@[simp] theorem poisonWord_keptRanges (w : Nat) : (poisonWord s w).keptRanges = s.keptRanges := rfl
@[simp] theorem poisonWord_throttle (w : Nat) : (poisonWord s w).throttle = s.throttle := rfl
@[simp] theorem poisonWord_dir (w : Nat) : (poisonWord s w).dir = s.dir := rfl
@[simp] theorem poisonWord_grants (w : Nat) : (poisonWord s w).grants = s.grants := rfl
@[simp] theorem poisonWord_reqs (w : Nat) : (poisonWord s w).reqs = s.reqs := rfl
@[simp] theorem poisonWord_planes (w : Nat) : (poisonWord s w).planes = s.planes := rfl
@[simp] theorem poisonWord_collects (w : Nat) : (poisonWord s w).collects = s.collects := rfl
@[simp] theorem poisonWord_lastFrame (w : Nat) : (poisonWord s w).lastFrame = s.lastFrame := rfl
@[simp] theorem poisonWord_beats (w : Nat) : (poisonWord s w).beats = s.beats := rfl
@[simp] theorem poisonWord_mute (w : Nat) : (poisonWord s w).mute = s.mute := rfl
@[simp] theorem poisonWord_dead (w : Nat) : (poisonWord s w).dead = s.dead := rfl
@[simp] theorem poisonWord_badNacks (w : Nat) : (poisonWord s w).badNacks = s.badNacks := rfl
@[simp] theorem poisonWord_decls (w : Nat) : (poisonWord s w).decls = s.decls := rfl
@[simp] theorem poisonWord_declOps (w : Nat) : (poisonWord s w).declOps = s.declOps := rfl
@[simp] theorem poisonWord_routers (w : Nat) : (poisonWord s w).routers = s.routers := rfl
@[simp] theorem poisonWord_net (w : Nat) : (poisonWord s w).net = s.net := rfl
@[simp] theorem poisonWord_wants (w : Nat) : (poisonWord s w).wants = s.wants := rfl
@[simp] theorem poisonWord_linkUp (w : Nat) : (poisonWord s w).linkUp = s.linkUp := rfl
@[simp] theorem poisonWord_hostPend (w : Nat) : (poisonWord s w).hostPend = s.hostPend := rfl
@[simp] theorem poisonWord_hostRead (w : Nat) : (poisonWord s w).hostRead = s.hostRead := rfl
@[simp] theorem poisonWord_reply (w : Nat) : (poisonWord s w).reply = s.reply := rfl
@[simp] theorem poisonWord_doe (w : Nat) : (poisonWord s w).doe = s.doe := rfl
@[simp] theorem poisonWord_vecMask (w : Nat) : (poisonWord s w).vecMask = s.vecMask := rfl
@[simp] theorem poisonWord_vecPend (w : Nat) : (poisonWord s w).vecPend = s.vecPend := rfl
@[simp] theorem poisonWord_vecRaised (w : Nat) : (poisonWord s w).vecRaised = s.vecRaised := rfl
@[simp] theorem poisonWord_ports (w : Nat) : (poisonWord s w).ports = s.ports := rfl
@[simp] theorem poisonWord_sync (w : Nat) : (poisonWord s w).sync = s.sync := rfl
@[simp] theorem poisonWord_regions (w : Nat) : (poisonWord s w).regions = s.regions := rfl
@[simp] theorem poisonWord_ckpt (w : Nat) : (poisonWord s w).ckpt = s.ckpt := rfl
@[simp] theorem poisonWord_arrivals (w : Nat) : (poisonWord s w).arrivals = s.arrivals := rfl
@[simp] theorem poisonWord_flash (w : Nat) : (poisonWord s w).flash = s.flash := rfl
@[simp] theorem poisonWord_images (w : Nat) : (poisonWord s w).images = s.images := rfl
@[simp] theorem poisonWord_hostWrites (w : Nat) : (poisonWord s w).hostWrites = s.hostWrites := rfl
@[simp] theorem poisonWord_filter (w : Nat) : (poisonWord s w).filter = s.filter := rfl
@[simp] theorem poisonWord_scLast (w : Nat) : (poisonWord s w).scLast = s.scLast := rfl
@[simp] theorem poisonWord_joined (w : Nat) : (poisonWord s w).joined = s.joined := rfl
@[simp] theorem poisonWord_msix (w : Nat) : (poisonWord s w).msix = s.msix := rfl
@[simp] theorem poisonWord_heat (w : Nat) : (poisonWord s w).heat = s.heat := rfl
@[simp] theorem poisonWord_heatFrom (w : Nat) : (poisonWord s w).heatFrom = s.heatFrom := rfl

/-! ### A scalar register written -/

@[simp] theorem sset_key (r : BitVec 6) (v : W64) : (sset g r v).key = g.key := by
  unfold sset; split <;> rfl
@[simp] theorem sset_status (r : BitVec 6) (v : W64) : (sset g r v).status = g.status := by
  unfold sset; split <;> rfl
@[simp] theorem sset_cluster (r : BitVec 6) (v : W64) : (sset g r v).cluster = g.cluster := by
  unfold sset; split <;> rfl
@[simp] theorem sset_core (r : BitVec 6) (v : W64) : (sset g r v).core = g.core := by
  unfold sset; split <;> rfl
@[simp] theorem sset_pc (r : BitVec 6) (v : W64) : (sset g r v).pc = g.pc := by
  unfold sset; split <;> rfl
@[simp] theorem sset_lanes (r : BitVec 6) (v : W64) : (sset g r v).lanes = g.lanes := by
  unfold sset; split <;> rfl
@[simp] theorem sset_ixs (r : BitVec 6) (v : W64) : (sset g r v).ixs = g.ixs := by
  unfold sset; split <;> rfl
@[simp] theorem sset_preds (r : BitVec 6) (v : W64) : (sset g r v).preds = g.preds := by
  unfold sset; split <;> rfl
@[simp] theorem sset_lfsr (r : BitVec 6) (v : W64) : (sset g r v).lfsr = g.lfsr := by
  unfold sset; split <;> rfl
@[simp] theorem sset_prng (r : BitVec 6) (v : W64) : (sset g r v).prng = g.prng := by
  unfold sset; split <;> rfl
@[simp] theorem sset_fmt (r : BitVec 6) (v : W64) : (sset g r v).fmt = g.fmt := by
  unfold sset; split <;> rfl
@[simp] theorem sset_fstat (r : BitVec 6) (v : W64) : (sset g r v).fstat = g.fstat := by
  unfold sset; split <;> rfl
@[simp] theorem sset_amask (r : BitVec 6) (v : W64) : (sset g r v).amask = g.amask := by
  unfold sset; split <;> rfl
@[simp] theorem sset_mstack (r : BitVec 6) (v : W64) : (sset g r v).mstack = g.mstack := by
  unfold sset; split <;> rfl
@[simp] theorem sset_flags (r : BitVec 6) (v : W64) : (sset g r v).flags = g.flags := by
  unfold sset; split <;> rfl
@[simp] theorem sset_queue (r : BitVec 6) (v : W64) : (sset g r v).queue = g.queue := by
  unfold sset; split <;> rfl
@[simp] theorem sset_outs (r : BitVec 6) (v : W64) : (sset g r v).outs = g.outs := by
  unfold sset; split <;> rfl
@[simp] theorem sset_nextSeq (r : BitVec 6) (v : W64) : (sset g r v).nextSeq = g.nextSeq := by
  unfold sset; split <;> rfl
@[simp] theorem sset_errOps (r : BitVec 6) (v : W64) : (sset g r v).errOps = g.errOps := by
  unfold sset; split <;> rfl
@[simp] theorem sset_batches (r : BitVec 6) (v : W64) : (sset g r v).batches = g.batches := by
  unfold sset; split <;> rfl
@[simp] theorem sset_openOps (r : BitVec 6) (v : W64) : (sset g r v).openOps = g.openOps := by
  unfold sset; split <;> rfl
@[simp] theorem sset_bctr (r : BitVec 6) (v : W64) : (sset g r v).bctr = g.bctr := by
  unfold sset; split <;> rfl
@[simp] theorem sset_mbdone (r : BitVec 6) (v : W64) : (sset g r v).mbdone = g.mbdone := by
  unfold sset; split <;> rfl
@[simp] theorem sset_merr (r : BitVec 6) (v : W64) : (sset g r v).merr = g.merr := by
  unfold sset; split <;> rfl
@[simp] theorem sset_bandOps (r : BitVec 6) (v : W64) : (sset g r v).bandOps = g.bandOps := by
  unfold sset; split <;> rfl
@[simp] theorem sset_feWait (r : BitVec 6) (v : W64) : (sset g r v).feWait = g.feWait := by
  unfold sset; split <;> rfl
@[simp] theorem sset_feDone (r : BitVec 6) (v : W64) : (sset g r v).feDone = g.feDone := by
  unfold sset; split <;> rfl
@[simp] theorem sset_fewait (r : BitVec 6) (v : W64) : (sset g r v).fewait = g.fewait := by
  unfold sset; split <;> rfl
@[simp] theorem sset_lcb (r : BitVec 6) (v : W64) : (sset g r v).lcb = g.lcb := by
  unfold sset; split <;> rfl
@[simp] theorem sset_tsave (r : BitVec 6) (v : W64) : (sset g r v).tsave = g.tsave := by
  unfold sset; split <;> rfl
@[simp] theorem sset_tcause (r : BitVec 6) (v : W64) : (sset g r v).tcause = g.tcause := by
  unfold sset; split <;> rfl
@[simp] theorem sset_tpc (r : BitVec 6) (v : W64) : (sset g r v).tpc = g.tpc := by
  unfold sset; split <;> rfl
@[simp] theorem sset_tval (r : BitVec 6) (v : W64) : (sset g r v).tval = g.tval := by
  unfold sset; split <;> rfl
@[simp] theorem sset_tvec (r : BitVec 6) (v : W64) : (sset g r v).tvec = g.tvec := by
  unfold sset; split <;> rfl
@[simp] theorem sset_asid (r : BitVec 6) (v : W64) : (sset g r v).asid = g.asid := by
  unfold sset; split <;> rfl
@[simp] theorem sset_ptbase (r : BitVec 6) (v : W64) : (sset g r v).ptbase = g.ptbase := by
  unfold sset; split <;> rfl
@[simp] theorem sset_priv (r : BitVec 6) (v : W64) : (sset g r v).priv = g.priv := by
  unfold sset; split <;> rfl
@[simp] theorem sset_handler (r : BitVec 6) (v : W64) : (sset g r v).handler = g.handler := by
  unfold sset; split <;> rfl
@[simp] theorem sset_msaved (r : BitVec 6) (v : W64) : (sset g r v).msaved = g.msaved := by
  unfold sset; split <;> rfl
@[simp] theorem sset_region (r : BitVec 6) (v : W64) : (sset g r v).region = g.region := by
  unfold sset; split <;> rfl
@[simp] theorem sset_regionOver (r : BitVec 6) (v : W64) : (sset g r v).regionOver = g.regionOver := by
  unfold sset; split <;> rfl
@[simp] theorem sset_lzfill (r : BitVec 6) (v : W64) : (sset g r v).lzfill = g.lzfill := by
  unfold sset; split <;> rfl
@[simp] theorem sset_absent (r : BitVec 6) (v : W64) : (sset g r v).absent = g.absent := by
  unfold sset; split <;> rfl
@[simp] theorem sset_fillFrom (r : BitVec 6) (v : W64) : (sset g r v).fillFrom = g.fillFrom := by
  unfold sset; split <;> rfl
@[simp] theorem sset_nslots (r : BitVec 6) (v : W64) : (sset g r v).nslots = g.nslots := by
  unfold sset; split <;> rfl
@[simp] theorem sset_tiles (r : BitVec 6) (v : W64) : (sset g r v).tiles = g.tiles := by
  unfold sset; split <;> rfl
@[simp] theorem sset_wait (r : BitVec 6) (v : W64) : (sset g r v).wait = g.wait := by
  unfold sset; split <;> rfl
@[simp] theorem sset_heldWait (r : BitVec 6) (v : W64) : (sset g r v).heldWait = g.heldWait := by
  unfold sset; split <;> rfl
@[simp] theorem sset_isyncMark (r : BitVec 6) (v : W64) : (sset g r v).isyncMark = g.isyncMark := by
  unfold sset; split <;> rfl
@[simp] theorem sset_invs (r : BitVec 6) (v : W64) : (sset g r v).invs = g.invs := by
  unfold sset; split <;> rfl
@[simp] theorem sset_bslots (r : BitVec 6) (v : W64) : (sset g r v).bslots = g.bslots := by
  unfold sset; split <;> rfl
@[simp] theorem sset_bfenced (r : BitVec 6) (v : W64) : (sset g r v).bfenced = g.bfenced := by
  unfold sset; split <;> rfl
@[simp] theorem sset_scOpen (r : BitVec 6) (v : W64) : (sset g r v).scOpen = g.scOpen := by
  unfold sset; split <;> rfl
@[simp] theorem sset_pubs (r : BitVec 6) (v : W64) : (sset g r v).pubs = g.pubs := by
  unfold sset; split <;> rfl
@[simp] theorem sset_kept (r : BitVec 6) (v : W64) : (sset g r v).kept = g.kept := by
  unfold sset; split <;> rfl
@[simp] theorem sset_fillAsid (r : BitVec 6) (v : W64) : (sset g r v).fillAsid = g.fillAsid := by
  unfold sset; split <;> rfl
@[simp] theorem sset_fillPt (r : BitVec 6) (v : W64) : (sset g r v).fillPt = g.fillPt := by
  unfold sset; split <;> rfl

/-! ### A predicate mask written -/

@[simp] theorem predSetMask_key (k : Nat) (m : W32) : (predSetMask g k m).key = g.key := by
  unfold predSetMask; split <;> rfl
@[simp] theorem predSetMask_status (k : Nat) (m : W32) : (predSetMask g k m).status = g.status := by
  unfold predSetMask; split <;> rfl
@[simp] theorem predSetMask_cluster (k : Nat) (m : W32) : (predSetMask g k m).cluster = g.cluster := by
  unfold predSetMask; split <;> rfl
@[simp] theorem predSetMask_core (k : Nat) (m : W32) : (predSetMask g k m).core = g.core := by
  unfold predSetMask; split <;> rfl
@[simp] theorem predSetMask_pc (k : Nat) (m : W32) : (predSetMask g k m).pc = g.pc := by
  unfold predSetMask; split <;> rfl
@[simp] theorem predSetMask_sregs (k : Nat) (m : W32) : (predSetMask g k m).sregs = g.sregs := by
  unfold predSetMask; split <;> rfl
@[simp] theorem predSetMask_lanes (k : Nat) (m : W32) : (predSetMask g k m).lanes = g.lanes := by
  unfold predSetMask; split <;> rfl
@[simp] theorem predSetMask_ixs (k : Nat) (m : W32) : (predSetMask g k m).ixs = g.ixs := by
  unfold predSetMask; split <;> rfl
@[simp] theorem predSetMask_lfsr (k : Nat) (m : W32) : (predSetMask g k m).lfsr = g.lfsr := by
  unfold predSetMask; split <;> rfl
@[simp] theorem predSetMask_prng (k : Nat) (m : W32) : (predSetMask g k m).prng = g.prng := by
  unfold predSetMask; split <;> rfl
@[simp] theorem predSetMask_fmt (k : Nat) (m : W32) : (predSetMask g k m).fmt = g.fmt := by
  unfold predSetMask; split <;> rfl
@[simp] theorem predSetMask_fstat (k : Nat) (m : W32) : (predSetMask g k m).fstat = g.fstat := by
  unfold predSetMask; split <;> rfl
@[simp] theorem predSetMask_amask (k : Nat) (m : W32) : (predSetMask g k m).amask = g.amask := by
  unfold predSetMask; split <;> rfl
@[simp] theorem predSetMask_mstack (k : Nat) (m : W32) : (predSetMask g k m).mstack = g.mstack := by
  unfold predSetMask; split <;> rfl
@[simp] theorem predSetMask_flags (k : Nat) (m : W32) : (predSetMask g k m).flags = g.flags := by
  unfold predSetMask; split <;> rfl
@[simp] theorem predSetMask_queue (k : Nat) (m : W32) : (predSetMask g k m).queue = g.queue := by
  unfold predSetMask; split <;> rfl
@[simp] theorem predSetMask_outs (k : Nat) (m : W32) : (predSetMask g k m).outs = g.outs := by
  unfold predSetMask; split <;> rfl
@[simp] theorem predSetMask_nextSeq (k : Nat) (m : W32) : (predSetMask g k m).nextSeq = g.nextSeq := by
  unfold predSetMask; split <;> rfl
@[simp] theorem predSetMask_errOps (k : Nat) (m : W32) : (predSetMask g k m).errOps = g.errOps := by
  unfold predSetMask; split <;> rfl
@[simp] theorem predSetMask_batches (k : Nat) (m : W32) : (predSetMask g k m).batches = g.batches := by
  unfold predSetMask; split <;> rfl
@[simp] theorem predSetMask_openOps (k : Nat) (m : W32) : (predSetMask g k m).openOps = g.openOps := by
  unfold predSetMask; split <;> rfl
@[simp] theorem predSetMask_bctr (k : Nat) (m : W32) : (predSetMask g k m).bctr = g.bctr := by
  unfold predSetMask; split <;> rfl
@[simp] theorem predSetMask_mbdone (k : Nat) (m : W32) : (predSetMask g k m).mbdone = g.mbdone := by
  unfold predSetMask; split <;> rfl
@[simp] theorem predSetMask_merr (k : Nat) (m : W32) : (predSetMask g k m).merr = g.merr := by
  unfold predSetMask; split <;> rfl
@[simp] theorem predSetMask_bandOps (k : Nat) (m : W32) : (predSetMask g k m).bandOps = g.bandOps := by
  unfold predSetMask; split <;> rfl
@[simp] theorem predSetMask_feWait (k : Nat) (m : W32) : (predSetMask g k m).feWait = g.feWait := by
  unfold predSetMask; split <;> rfl
@[simp] theorem predSetMask_feDone (k : Nat) (m : W32) : (predSetMask g k m).feDone = g.feDone := by
  unfold predSetMask; split <;> rfl
@[simp] theorem predSetMask_fewait (k : Nat) (m : W32) : (predSetMask g k m).fewait = g.fewait := by
  unfold predSetMask; split <;> rfl
@[simp] theorem predSetMask_lcb (k : Nat) (m : W32) : (predSetMask g k m).lcb = g.lcb := by
  unfold predSetMask; split <;> rfl
@[simp] theorem predSetMask_tsave (k : Nat) (m : W32) : (predSetMask g k m).tsave = g.tsave := by
  unfold predSetMask; split <;> rfl
@[simp] theorem predSetMask_tcause (k : Nat) (m : W32) : (predSetMask g k m).tcause = g.tcause := by
  unfold predSetMask; split <;> rfl
@[simp] theorem predSetMask_tpc (k : Nat) (m : W32) : (predSetMask g k m).tpc = g.tpc := by
  unfold predSetMask; split <;> rfl
@[simp] theorem predSetMask_tval (k : Nat) (m : W32) : (predSetMask g k m).tval = g.tval := by
  unfold predSetMask; split <;> rfl
@[simp] theorem predSetMask_tvec (k : Nat) (m : W32) : (predSetMask g k m).tvec = g.tvec := by
  unfold predSetMask; split <;> rfl
@[simp] theorem predSetMask_asid (k : Nat) (m : W32) : (predSetMask g k m).asid = g.asid := by
  unfold predSetMask; split <;> rfl
@[simp] theorem predSetMask_ptbase (k : Nat) (m : W32) : (predSetMask g k m).ptbase = g.ptbase := by
  unfold predSetMask; split <;> rfl
@[simp] theorem predSetMask_priv (k : Nat) (m : W32) : (predSetMask g k m).priv = g.priv := by
  unfold predSetMask; split <;> rfl
@[simp] theorem predSetMask_handler (k : Nat) (m : W32) : (predSetMask g k m).handler = g.handler := by
  unfold predSetMask; split <;> rfl
@[simp] theorem predSetMask_msaved (k : Nat) (m : W32) : (predSetMask g k m).msaved = g.msaved := by
  unfold predSetMask; split <;> rfl
@[simp] theorem predSetMask_region (k : Nat) (m : W32) : (predSetMask g k m).region = g.region := by
  unfold predSetMask; split <;> rfl
@[simp] theorem predSetMask_regionOver (k : Nat) (m : W32) : (predSetMask g k m).regionOver = g.regionOver := by
  unfold predSetMask; split <;> rfl
@[simp] theorem predSetMask_lzfill (k : Nat) (m : W32) : (predSetMask g k m).lzfill = g.lzfill := by
  unfold predSetMask; split <;> rfl
@[simp] theorem predSetMask_absent (k : Nat) (m : W32) : (predSetMask g k m).absent = g.absent := by
  unfold predSetMask; split <;> rfl
@[simp] theorem predSetMask_fillFrom (k : Nat) (m : W32) : (predSetMask g k m).fillFrom = g.fillFrom := by
  unfold predSetMask; split <;> rfl
@[simp] theorem predSetMask_nslots (k : Nat) (m : W32) : (predSetMask g k m).nslots = g.nslots := by
  unfold predSetMask; split <;> rfl
@[simp] theorem predSetMask_tiles (k : Nat) (m : W32) : (predSetMask g k m).tiles = g.tiles := by
  unfold predSetMask; split <;> rfl
@[simp] theorem predSetMask_wait (k : Nat) (m : W32) : (predSetMask g k m).wait = g.wait := by
  unfold predSetMask; split <;> rfl
@[simp] theorem predSetMask_heldWait (k : Nat) (m : W32) : (predSetMask g k m).heldWait = g.heldWait := by
  unfold predSetMask; split <;> rfl
@[simp] theorem predSetMask_isyncMark (k : Nat) (m : W32) : (predSetMask g k m).isyncMark = g.isyncMark := by
  unfold predSetMask; split <;> rfl
@[simp] theorem predSetMask_invs (k : Nat) (m : W32) : (predSetMask g k m).invs = g.invs := by
  unfold predSetMask; split <;> rfl
@[simp] theorem predSetMask_bslots (k : Nat) (m : W32) : (predSetMask g k m).bslots = g.bslots := by
  unfold predSetMask; split <;> rfl
@[simp] theorem predSetMask_bfenced (k : Nat) (m : W32) : (predSetMask g k m).bfenced = g.bfenced := by
  unfold predSetMask; split <;> rfl
@[simp] theorem predSetMask_scOpen (k : Nat) (m : W32) : (predSetMask g k m).scOpen = g.scOpen := by
  unfold predSetMask; split <;> rfl
@[simp] theorem predSetMask_pubs (k : Nat) (m : W32) : (predSetMask g k m).pubs = g.pubs := by
  unfold predSetMask; split <;> rfl
@[simp] theorem predSetMask_kept (k : Nat) (m : W32) : (predSetMask g k m).kept = g.kept := by
  unfold predSetMask; split <;> rfl
@[simp] theorem predSetMask_fillAsid (k : Nat) (m : W32) : (predSetMask g k m).fillAsid = g.fillAsid := by
  unfold predSetMask; split <;> rfl
@[simp] theorem predSetMask_fillPt (k : Nat) (m : W32) : (predSetMask g k m).fillPt = g.fillPt := by
  unfold predSetMask; split <;> rfl

/-! ### A lane register written -/

@[simp] theorem laneSet_key (key : Nat) (v : W32) : (laneSet g key v).key = g.key := rfl
@[simp] theorem laneSet_status (key : Nat) (v : W32) : (laneSet g key v).status = g.status := rfl
@[simp] theorem laneSet_cluster (key : Nat) (v : W32) : (laneSet g key v).cluster = g.cluster := rfl
@[simp] theorem laneSet_core (key : Nat) (v : W32) : (laneSet g key v).core = g.core := rfl
@[simp] theorem laneSet_pc (key : Nat) (v : W32) : (laneSet g key v).pc = g.pc := rfl
@[simp] theorem laneSet_sregs (key : Nat) (v : W32) : (laneSet g key v).sregs = g.sregs := rfl
@[simp] theorem laneSet_ixs (key : Nat) (v : W32) : (laneSet g key v).ixs = g.ixs := rfl
@[simp] theorem laneSet_preds (key : Nat) (v : W32) : (laneSet g key v).preds = g.preds := rfl
@[simp] theorem laneSet_lfsr (key : Nat) (v : W32) : (laneSet g key v).lfsr = g.lfsr := rfl
@[simp] theorem laneSet_prng (key : Nat) (v : W32) : (laneSet g key v).prng = g.prng := rfl
@[simp] theorem laneSet_fmt (key : Nat) (v : W32) : (laneSet g key v).fmt = g.fmt := rfl
@[simp] theorem laneSet_fstat (key : Nat) (v : W32) : (laneSet g key v).fstat = g.fstat := rfl
@[simp] theorem laneSet_amask (key : Nat) (v : W32) : (laneSet g key v).amask = g.amask := rfl
@[simp] theorem laneSet_mstack (key : Nat) (v : W32) : (laneSet g key v).mstack = g.mstack := rfl
@[simp] theorem laneSet_flags (key : Nat) (v : W32) : (laneSet g key v).flags = g.flags := rfl
@[simp] theorem laneSet_queue (key : Nat) (v : W32) : (laneSet g key v).queue = g.queue := rfl
@[simp] theorem laneSet_outs (key : Nat) (v : W32) : (laneSet g key v).outs = g.outs := rfl
@[simp] theorem laneSet_nextSeq (key : Nat) (v : W32) : (laneSet g key v).nextSeq = g.nextSeq := rfl
@[simp] theorem laneSet_errOps (key : Nat) (v : W32) : (laneSet g key v).errOps = g.errOps := rfl
@[simp] theorem laneSet_batches (key : Nat) (v : W32) : (laneSet g key v).batches = g.batches := rfl
@[simp] theorem laneSet_openOps (key : Nat) (v : W32) : (laneSet g key v).openOps = g.openOps := rfl
@[simp] theorem laneSet_bctr (key : Nat) (v : W32) : (laneSet g key v).bctr = g.bctr := rfl
@[simp] theorem laneSet_mbdone (key : Nat) (v : W32) : (laneSet g key v).mbdone = g.mbdone := rfl
@[simp] theorem laneSet_merr (key : Nat) (v : W32) : (laneSet g key v).merr = g.merr := rfl
@[simp] theorem laneSet_bandOps (key : Nat) (v : W32) : (laneSet g key v).bandOps = g.bandOps := rfl
@[simp] theorem laneSet_feWait (key : Nat) (v : W32) : (laneSet g key v).feWait = g.feWait := rfl
@[simp] theorem laneSet_feDone (key : Nat) (v : W32) : (laneSet g key v).feDone = g.feDone := rfl
@[simp] theorem laneSet_fewait (key : Nat) (v : W32) : (laneSet g key v).fewait = g.fewait := rfl
@[simp] theorem laneSet_lcb (key : Nat) (v : W32) : (laneSet g key v).lcb = g.lcb := rfl
@[simp] theorem laneSet_tsave (key : Nat) (v : W32) : (laneSet g key v).tsave = g.tsave := rfl
@[simp] theorem laneSet_tcause (key : Nat) (v : W32) : (laneSet g key v).tcause = g.tcause := rfl
@[simp] theorem laneSet_tpc (key : Nat) (v : W32) : (laneSet g key v).tpc = g.tpc := rfl
@[simp] theorem laneSet_tval (key : Nat) (v : W32) : (laneSet g key v).tval = g.tval := rfl
@[simp] theorem laneSet_tvec (key : Nat) (v : W32) : (laneSet g key v).tvec = g.tvec := rfl
@[simp] theorem laneSet_asid (key : Nat) (v : W32) : (laneSet g key v).asid = g.asid := rfl
@[simp] theorem laneSet_ptbase (key : Nat) (v : W32) : (laneSet g key v).ptbase = g.ptbase := rfl
@[simp] theorem laneSet_priv (key : Nat) (v : W32) : (laneSet g key v).priv = g.priv := rfl
@[simp] theorem laneSet_handler (key : Nat) (v : W32) : (laneSet g key v).handler = g.handler := rfl
@[simp] theorem laneSet_msaved (key : Nat) (v : W32) : (laneSet g key v).msaved = g.msaved := rfl
@[simp] theorem laneSet_region (key : Nat) (v : W32) : (laneSet g key v).region = g.region := rfl
@[simp] theorem laneSet_regionOver (key : Nat) (v : W32) : (laneSet g key v).regionOver = g.regionOver := rfl
@[simp] theorem laneSet_lzfill (key : Nat) (v : W32) : (laneSet g key v).lzfill = g.lzfill := rfl
@[simp] theorem laneSet_absent (key : Nat) (v : W32) : (laneSet g key v).absent = g.absent := rfl
@[simp] theorem laneSet_fillFrom (key : Nat) (v : W32) : (laneSet g key v).fillFrom = g.fillFrom := rfl
@[simp] theorem laneSet_nslots (key : Nat) (v : W32) : (laneSet g key v).nslots = g.nslots := rfl
@[simp] theorem laneSet_tiles (key : Nat) (v : W32) : (laneSet g key v).tiles = g.tiles := rfl
@[simp] theorem laneSet_wait (key : Nat) (v : W32) : (laneSet g key v).wait = g.wait := rfl
@[simp] theorem laneSet_heldWait (key : Nat) (v : W32) : (laneSet g key v).heldWait = g.heldWait := rfl
@[simp] theorem laneSet_isyncMark (key : Nat) (v : W32) : (laneSet g key v).isyncMark = g.isyncMark := rfl
@[simp] theorem laneSet_invs (key : Nat) (v : W32) : (laneSet g key v).invs = g.invs := rfl
@[simp] theorem laneSet_bslots (key : Nat) (v : W32) : (laneSet g key v).bslots = g.bslots := rfl
@[simp] theorem laneSet_bfenced (key : Nat) (v : W32) : (laneSet g key v).bfenced = g.bfenced := rfl
@[simp] theorem laneSet_scOpen (key : Nat) (v : W32) : (laneSet g key v).scOpen = g.scOpen := rfl
@[simp] theorem laneSet_pubs (key : Nat) (v : W32) : (laneSet g key v).pubs = g.pubs := rfl
@[simp] theorem laneSet_kept (key : Nat) (v : W32) : (laneSet g key v).kept = g.kept := rfl
@[simp] theorem laneSet_fillAsid (key : Nat) (v : W32) : (laneSet g key v).fillAsid = g.fillAsid := rfl
@[simp] theorem laneSet_fillPt (key : Nat) (v : W32) : (laneSet g key v).fillPt = g.fillPt := rfl

/-! ### Lane registers written -/

@[simp] theorem laneSetAll_key (ws : List (Nat × W32)) : (laneSetAll g ws).key = g.key := rfl
@[simp] theorem laneSetAll_status (ws : List (Nat × W32)) : (laneSetAll g ws).status = g.status := rfl
@[simp] theorem laneSetAll_cluster (ws : List (Nat × W32)) : (laneSetAll g ws).cluster = g.cluster := rfl
@[simp] theorem laneSetAll_core (ws : List (Nat × W32)) : (laneSetAll g ws).core = g.core := rfl
@[simp] theorem laneSetAll_pc (ws : List (Nat × W32)) : (laneSetAll g ws).pc = g.pc := rfl
@[simp] theorem laneSetAll_sregs (ws : List (Nat × W32)) : (laneSetAll g ws).sregs = g.sregs := rfl
@[simp] theorem laneSetAll_ixs (ws : List (Nat × W32)) : (laneSetAll g ws).ixs = g.ixs := rfl
@[simp] theorem laneSetAll_preds (ws : List (Nat × W32)) : (laneSetAll g ws).preds = g.preds := rfl
@[simp] theorem laneSetAll_lfsr (ws : List (Nat × W32)) : (laneSetAll g ws).lfsr = g.lfsr := rfl
@[simp] theorem laneSetAll_prng (ws : List (Nat × W32)) : (laneSetAll g ws).prng = g.prng := rfl
@[simp] theorem laneSetAll_fmt (ws : List (Nat × W32)) : (laneSetAll g ws).fmt = g.fmt := rfl
@[simp] theorem laneSetAll_fstat (ws : List (Nat × W32)) : (laneSetAll g ws).fstat = g.fstat := rfl
@[simp] theorem laneSetAll_amask (ws : List (Nat × W32)) : (laneSetAll g ws).amask = g.amask := rfl
@[simp] theorem laneSetAll_mstack (ws : List (Nat × W32)) : (laneSetAll g ws).mstack = g.mstack := rfl
@[simp] theorem laneSetAll_flags (ws : List (Nat × W32)) : (laneSetAll g ws).flags = g.flags := rfl
@[simp] theorem laneSetAll_queue (ws : List (Nat × W32)) : (laneSetAll g ws).queue = g.queue := rfl
@[simp] theorem laneSetAll_outs (ws : List (Nat × W32)) : (laneSetAll g ws).outs = g.outs := rfl
@[simp] theorem laneSetAll_nextSeq (ws : List (Nat × W32)) : (laneSetAll g ws).nextSeq = g.nextSeq := rfl
@[simp] theorem laneSetAll_errOps (ws : List (Nat × W32)) : (laneSetAll g ws).errOps = g.errOps := rfl
@[simp] theorem laneSetAll_batches (ws : List (Nat × W32)) : (laneSetAll g ws).batches = g.batches := rfl
@[simp] theorem laneSetAll_openOps (ws : List (Nat × W32)) : (laneSetAll g ws).openOps = g.openOps := rfl
@[simp] theorem laneSetAll_bctr (ws : List (Nat × W32)) : (laneSetAll g ws).bctr = g.bctr := rfl
@[simp] theorem laneSetAll_mbdone (ws : List (Nat × W32)) : (laneSetAll g ws).mbdone = g.mbdone := rfl
@[simp] theorem laneSetAll_merr (ws : List (Nat × W32)) : (laneSetAll g ws).merr = g.merr := rfl
@[simp] theorem laneSetAll_bandOps (ws : List (Nat × W32)) : (laneSetAll g ws).bandOps = g.bandOps := rfl
@[simp] theorem laneSetAll_feWait (ws : List (Nat × W32)) : (laneSetAll g ws).feWait = g.feWait := rfl
@[simp] theorem laneSetAll_feDone (ws : List (Nat × W32)) : (laneSetAll g ws).feDone = g.feDone := rfl
@[simp] theorem laneSetAll_fewait (ws : List (Nat × W32)) : (laneSetAll g ws).fewait = g.fewait := rfl
@[simp] theorem laneSetAll_lcb (ws : List (Nat × W32)) : (laneSetAll g ws).lcb = g.lcb := rfl
@[simp] theorem laneSetAll_tsave (ws : List (Nat × W32)) : (laneSetAll g ws).tsave = g.tsave := rfl
@[simp] theorem laneSetAll_tcause (ws : List (Nat × W32)) : (laneSetAll g ws).tcause = g.tcause := rfl
@[simp] theorem laneSetAll_tpc (ws : List (Nat × W32)) : (laneSetAll g ws).tpc = g.tpc := rfl
@[simp] theorem laneSetAll_tval (ws : List (Nat × W32)) : (laneSetAll g ws).tval = g.tval := rfl
@[simp] theorem laneSetAll_tvec (ws : List (Nat × W32)) : (laneSetAll g ws).tvec = g.tvec := rfl
@[simp] theorem laneSetAll_asid (ws : List (Nat × W32)) : (laneSetAll g ws).asid = g.asid := rfl
@[simp] theorem laneSetAll_ptbase (ws : List (Nat × W32)) : (laneSetAll g ws).ptbase = g.ptbase := rfl
@[simp] theorem laneSetAll_priv (ws : List (Nat × W32)) : (laneSetAll g ws).priv = g.priv := rfl
@[simp] theorem laneSetAll_handler (ws : List (Nat × W32)) : (laneSetAll g ws).handler = g.handler := rfl
@[simp] theorem laneSetAll_msaved (ws : List (Nat × W32)) : (laneSetAll g ws).msaved = g.msaved := rfl
@[simp] theorem laneSetAll_region (ws : List (Nat × W32)) : (laneSetAll g ws).region = g.region := rfl
@[simp] theorem laneSetAll_regionOver (ws : List (Nat × W32)) : (laneSetAll g ws).regionOver = g.regionOver := rfl
@[simp] theorem laneSetAll_lzfill (ws : List (Nat × W32)) : (laneSetAll g ws).lzfill = g.lzfill := rfl
@[simp] theorem laneSetAll_absent (ws : List (Nat × W32)) : (laneSetAll g ws).absent = g.absent := rfl
@[simp] theorem laneSetAll_fillFrom (ws : List (Nat × W32)) : (laneSetAll g ws).fillFrom = g.fillFrom := rfl
@[simp] theorem laneSetAll_nslots (ws : List (Nat × W32)) : (laneSetAll g ws).nslots = g.nslots := rfl
@[simp] theorem laneSetAll_tiles (ws : List (Nat × W32)) : (laneSetAll g ws).tiles = g.tiles := rfl
@[simp] theorem laneSetAll_wait (ws : List (Nat × W32)) : (laneSetAll g ws).wait = g.wait := rfl
@[simp] theorem laneSetAll_heldWait (ws : List (Nat × W32)) : (laneSetAll g ws).heldWait = g.heldWait := rfl
@[simp] theorem laneSetAll_isyncMark (ws : List (Nat × W32)) : (laneSetAll g ws).isyncMark = g.isyncMark := rfl
@[simp] theorem laneSetAll_invs (ws : List (Nat × W32)) : (laneSetAll g ws).invs = g.invs := rfl
@[simp] theorem laneSetAll_bslots (ws : List (Nat × W32)) : (laneSetAll g ws).bslots = g.bslots := rfl
@[simp] theorem laneSetAll_bfenced (ws : List (Nat × W32)) : (laneSetAll g ws).bfenced = g.bfenced := rfl
@[simp] theorem laneSetAll_scOpen (ws : List (Nat × W32)) : (laneSetAll g ws).scOpen = g.scOpen := rfl
@[simp] theorem laneSetAll_pubs (ws : List (Nat × W32)) : (laneSetAll g ws).pubs = g.pubs := rfl
@[simp] theorem laneSetAll_kept (ws : List (Nat × W32)) : (laneSetAll g ws).kept = g.kept := rfl
@[simp] theorem laneSetAll_fillAsid (ws : List (Nat × W32)) : (laneSetAll g ws).fillAsid = g.fillAsid := rfl
@[simp] theorem laneSetAll_fillPt (ws : List (Nat × W32)) : (laneSetAll g ws).fillPt = g.fillPt := rfl

/-! ### `prng` written -/

@[simp] theorem setPrng_key (v : W64) : (setPrng g v).key = g.key := rfl
@[simp] theorem setPrng_status (v : W64) : (setPrng g v).status = g.status := rfl
@[simp] theorem setPrng_cluster (v : W64) : (setPrng g v).cluster = g.cluster := rfl
@[simp] theorem setPrng_core (v : W64) : (setPrng g v).core = g.core := rfl
@[simp] theorem setPrng_pc (v : W64) : (setPrng g v).pc = g.pc := rfl
@[simp] theorem setPrng_sregs (v : W64) : (setPrng g v).sregs = g.sregs := rfl
@[simp] theorem setPrng_lanes (v : W64) : (setPrng g v).lanes = g.lanes := rfl
@[simp] theorem setPrng_ixs (v : W64) : (setPrng g v).ixs = g.ixs := rfl
@[simp] theorem setPrng_preds (v : W64) : (setPrng g v).preds = g.preds := rfl
@[simp] theorem setPrng_fmt (v : W64) : (setPrng g v).fmt = g.fmt := rfl
@[simp] theorem setPrng_fstat (v : W64) : (setPrng g v).fstat = g.fstat := rfl
@[simp] theorem setPrng_amask (v : W64) : (setPrng g v).amask = g.amask := rfl
@[simp] theorem setPrng_mstack (v : W64) : (setPrng g v).mstack = g.mstack := rfl
@[simp] theorem setPrng_flags (v : W64) : (setPrng g v).flags = g.flags := rfl
@[simp] theorem setPrng_queue (v : W64) : (setPrng g v).queue = g.queue := rfl
@[simp] theorem setPrng_outs (v : W64) : (setPrng g v).outs = g.outs := rfl
@[simp] theorem setPrng_nextSeq (v : W64) : (setPrng g v).nextSeq = g.nextSeq := rfl
@[simp] theorem setPrng_errOps (v : W64) : (setPrng g v).errOps = g.errOps := rfl
@[simp] theorem setPrng_batches (v : W64) : (setPrng g v).batches = g.batches := rfl
@[simp] theorem setPrng_openOps (v : W64) : (setPrng g v).openOps = g.openOps := rfl
@[simp] theorem setPrng_bctr (v : W64) : (setPrng g v).bctr = g.bctr := rfl
@[simp] theorem setPrng_mbdone (v : W64) : (setPrng g v).mbdone = g.mbdone := rfl
@[simp] theorem setPrng_merr (v : W64) : (setPrng g v).merr = g.merr := rfl
@[simp] theorem setPrng_bandOps (v : W64) : (setPrng g v).bandOps = g.bandOps := rfl
@[simp] theorem setPrng_feWait (v : W64) : (setPrng g v).feWait = g.feWait := rfl
@[simp] theorem setPrng_feDone (v : W64) : (setPrng g v).feDone = g.feDone := rfl
@[simp] theorem setPrng_fewait (v : W64) : (setPrng g v).fewait = g.fewait := rfl
@[simp] theorem setPrng_lcb (v : W64) : (setPrng g v).lcb = g.lcb := rfl
@[simp] theorem setPrng_tsave (v : W64) : (setPrng g v).tsave = g.tsave := rfl
@[simp] theorem setPrng_tcause (v : W64) : (setPrng g v).tcause = g.tcause := rfl
@[simp] theorem setPrng_tpc (v : W64) : (setPrng g v).tpc = g.tpc := rfl
@[simp] theorem setPrng_tval (v : W64) : (setPrng g v).tval = g.tval := rfl
@[simp] theorem setPrng_tvec (v : W64) : (setPrng g v).tvec = g.tvec := rfl
@[simp] theorem setPrng_asid (v : W64) : (setPrng g v).asid = g.asid := rfl
@[simp] theorem setPrng_ptbase (v : W64) : (setPrng g v).ptbase = g.ptbase := rfl
@[simp] theorem setPrng_priv (v : W64) : (setPrng g v).priv = g.priv := rfl
@[simp] theorem setPrng_handler (v : W64) : (setPrng g v).handler = g.handler := rfl
@[simp] theorem setPrng_msaved (v : W64) : (setPrng g v).msaved = g.msaved := rfl
@[simp] theorem setPrng_region (v : W64) : (setPrng g v).region = g.region := rfl
@[simp] theorem setPrng_regionOver (v : W64) : (setPrng g v).regionOver = g.regionOver := rfl
@[simp] theorem setPrng_lzfill (v : W64) : (setPrng g v).lzfill = g.lzfill := rfl
@[simp] theorem setPrng_absent (v : W64) : (setPrng g v).absent = g.absent := rfl
@[simp] theorem setPrng_fillFrom (v : W64) : (setPrng g v).fillFrom = g.fillFrom := rfl
@[simp] theorem setPrng_nslots (v : W64) : (setPrng g v).nslots = g.nslots := rfl
@[simp] theorem setPrng_tiles (v : W64) : (setPrng g v).tiles = g.tiles := rfl
@[simp] theorem setPrng_wait (v : W64) : (setPrng g v).wait = g.wait := rfl
@[simp] theorem setPrng_heldWait (v : W64) : (setPrng g v).heldWait = g.heldWait := rfl
@[simp] theorem setPrng_isyncMark (v : W64) : (setPrng g v).isyncMark = g.isyncMark := rfl
@[simp] theorem setPrng_invs (v : W64) : (setPrng g v).invs = g.invs := rfl
@[simp] theorem setPrng_bslots (v : W64) : (setPrng g v).bslots = g.bslots := rfl
@[simp] theorem setPrng_bfenced (v : W64) : (setPrng g v).bfenced = g.bfenced := rfl
@[simp] theorem setPrng_scOpen (v : W64) : (setPrng g v).scOpen = g.scOpen := rfl
@[simp] theorem setPrng_pubs (v : W64) : (setPrng g v).pubs = g.pubs := rfl
@[simp] theorem setPrng_kept (v : W64) : (setPrng g v).kept = g.kept := rfl
@[simp] theorem setPrng_fillAsid (v : W64) : (setPrng g v).fillAsid = g.fillAsid := rfl
@[simp] theorem setPrng_fillPt (v : W64) : (setPrng g v).fillPt = g.fillPt := rfl

/-! ### A flag count raised -/

@[simp] theorem flagAdd_key (i n : Nat) : (flagAdd g i n).key = g.key := rfl
@[simp] theorem flagAdd_status (i n : Nat) : (flagAdd g i n).status = g.status := rfl
@[simp] theorem flagAdd_cluster (i n : Nat) : (flagAdd g i n).cluster = g.cluster := rfl
@[simp] theorem flagAdd_core (i n : Nat) : (flagAdd g i n).core = g.core := rfl
@[simp] theorem flagAdd_pc (i n : Nat) : (flagAdd g i n).pc = g.pc := rfl
@[simp] theorem flagAdd_sregs (i n : Nat) : (flagAdd g i n).sregs = g.sregs := rfl
@[simp] theorem flagAdd_lanes (i n : Nat) : (flagAdd g i n).lanes = g.lanes := rfl
@[simp] theorem flagAdd_ixs (i n : Nat) : (flagAdd g i n).ixs = g.ixs := rfl
@[simp] theorem flagAdd_preds (i n : Nat) : (flagAdd g i n).preds = g.preds := rfl
@[simp] theorem flagAdd_lfsr (i n : Nat) : (flagAdd g i n).lfsr = g.lfsr := rfl
@[simp] theorem flagAdd_prng (i n : Nat) : (flagAdd g i n).prng = g.prng := rfl
@[simp] theorem flagAdd_fmt (i n : Nat) : (flagAdd g i n).fmt = g.fmt := rfl
@[simp] theorem flagAdd_fstat (i n : Nat) : (flagAdd g i n).fstat = g.fstat := rfl
@[simp] theorem flagAdd_amask (i n : Nat) : (flagAdd g i n).amask = g.amask := rfl
@[simp] theorem flagAdd_mstack (i n : Nat) : (flagAdd g i n).mstack = g.mstack := rfl
@[simp] theorem flagAdd_queue (i n : Nat) : (flagAdd g i n).queue = g.queue := rfl
@[simp] theorem flagAdd_outs (i n : Nat) : (flagAdd g i n).outs = g.outs := rfl
@[simp] theorem flagAdd_nextSeq (i n : Nat) : (flagAdd g i n).nextSeq = g.nextSeq := rfl
@[simp] theorem flagAdd_errOps (i n : Nat) : (flagAdd g i n).errOps = g.errOps := rfl
@[simp] theorem flagAdd_batches (i n : Nat) : (flagAdd g i n).batches = g.batches := rfl
@[simp] theorem flagAdd_openOps (i n : Nat) : (flagAdd g i n).openOps = g.openOps := rfl
@[simp] theorem flagAdd_bctr (i n : Nat) : (flagAdd g i n).bctr = g.bctr := rfl
@[simp] theorem flagAdd_mbdone (i n : Nat) : (flagAdd g i n).mbdone = g.mbdone := rfl
@[simp] theorem flagAdd_merr (i n : Nat) : (flagAdd g i n).merr = g.merr := rfl
@[simp] theorem flagAdd_bandOps (i n : Nat) : (flagAdd g i n).bandOps = g.bandOps := rfl
@[simp] theorem flagAdd_feWait (i n : Nat) : (flagAdd g i n).feWait = g.feWait := rfl
@[simp] theorem flagAdd_feDone (i n : Nat) : (flagAdd g i n).feDone = g.feDone := rfl
@[simp] theorem flagAdd_fewait (i n : Nat) : (flagAdd g i n).fewait = g.fewait := rfl
@[simp] theorem flagAdd_lcb (i n : Nat) : (flagAdd g i n).lcb = g.lcb := rfl
@[simp] theorem flagAdd_tsave (i n : Nat) : (flagAdd g i n).tsave = g.tsave := rfl
@[simp] theorem flagAdd_tcause (i n : Nat) : (flagAdd g i n).tcause = g.tcause := rfl
@[simp] theorem flagAdd_tpc (i n : Nat) : (flagAdd g i n).tpc = g.tpc := rfl
@[simp] theorem flagAdd_tval (i n : Nat) : (flagAdd g i n).tval = g.tval := rfl
@[simp] theorem flagAdd_tvec (i n : Nat) : (flagAdd g i n).tvec = g.tvec := rfl
@[simp] theorem flagAdd_asid (i n : Nat) : (flagAdd g i n).asid = g.asid := rfl
@[simp] theorem flagAdd_ptbase (i n : Nat) : (flagAdd g i n).ptbase = g.ptbase := rfl
@[simp] theorem flagAdd_priv (i n : Nat) : (flagAdd g i n).priv = g.priv := rfl
@[simp] theorem flagAdd_handler (i n : Nat) : (flagAdd g i n).handler = g.handler := rfl
@[simp] theorem flagAdd_msaved (i n : Nat) : (flagAdd g i n).msaved = g.msaved := rfl
@[simp] theorem flagAdd_region (i n : Nat) : (flagAdd g i n).region = g.region := rfl
@[simp] theorem flagAdd_regionOver (i n : Nat) : (flagAdd g i n).regionOver = g.regionOver := rfl
@[simp] theorem flagAdd_lzfill (i n : Nat) : (flagAdd g i n).lzfill = g.lzfill := rfl
@[simp] theorem flagAdd_absent (i n : Nat) : (flagAdd g i n).absent = g.absent := rfl
@[simp] theorem flagAdd_fillFrom (i n : Nat) : (flagAdd g i n).fillFrom = g.fillFrom := rfl
@[simp] theorem flagAdd_nslots (i n : Nat) : (flagAdd g i n).nslots = g.nslots := rfl
@[simp] theorem flagAdd_tiles (i n : Nat) : (flagAdd g i n).tiles = g.tiles := rfl
@[simp] theorem flagAdd_wait (i n : Nat) : (flagAdd g i n).wait = g.wait := rfl
@[simp] theorem flagAdd_heldWait (i n : Nat) : (flagAdd g i n).heldWait = g.heldWait := rfl
@[simp] theorem flagAdd_isyncMark (i n : Nat) : (flagAdd g i n).isyncMark = g.isyncMark := rfl
@[simp] theorem flagAdd_invs (i n : Nat) : (flagAdd g i n).invs = g.invs := rfl
@[simp] theorem flagAdd_bslots (i n : Nat) : (flagAdd g i n).bslots = g.bslots := rfl
@[simp] theorem flagAdd_bfenced (i n : Nat) : (flagAdd g i n).bfenced = g.bfenced := rfl
@[simp] theorem flagAdd_scOpen (i n : Nat) : (flagAdd g i n).scOpen = g.scOpen := rfl
@[simp] theorem flagAdd_pubs (i n : Nat) : (flagAdd g i n).pubs = g.pubs := rfl
@[simp] theorem flagAdd_kept (i n : Nat) : (flagAdd g i n).kept = g.kept := rfl
@[simp] theorem flagAdd_fillAsid (i n : Nat) : (flagAdd g i n).fillAsid = g.fillAsid := rfl
@[simp] theorem flagAdd_fillPt (i n : Nat) : (flagAdd g i n).fillPt = g.fillPt := rfl

/-! ### A flag count lowered -/

@[simp] theorem flagSub_key (i n : Nat) : (flagSub g i n).key = g.key := rfl
@[simp] theorem flagSub_status (i n : Nat) : (flagSub g i n).status = g.status := rfl
@[simp] theorem flagSub_cluster (i n : Nat) : (flagSub g i n).cluster = g.cluster := rfl
@[simp] theorem flagSub_core (i n : Nat) : (flagSub g i n).core = g.core := rfl
@[simp] theorem flagSub_pc (i n : Nat) : (flagSub g i n).pc = g.pc := rfl
@[simp] theorem flagSub_sregs (i n : Nat) : (flagSub g i n).sregs = g.sregs := rfl
@[simp] theorem flagSub_lanes (i n : Nat) : (flagSub g i n).lanes = g.lanes := rfl
@[simp] theorem flagSub_ixs (i n : Nat) : (flagSub g i n).ixs = g.ixs := rfl
@[simp] theorem flagSub_preds (i n : Nat) : (flagSub g i n).preds = g.preds := rfl
@[simp] theorem flagSub_lfsr (i n : Nat) : (flagSub g i n).lfsr = g.lfsr := rfl
@[simp] theorem flagSub_prng (i n : Nat) : (flagSub g i n).prng = g.prng := rfl
@[simp] theorem flagSub_fmt (i n : Nat) : (flagSub g i n).fmt = g.fmt := rfl
@[simp] theorem flagSub_fstat (i n : Nat) : (flagSub g i n).fstat = g.fstat := rfl
@[simp] theorem flagSub_amask (i n : Nat) : (flagSub g i n).amask = g.amask := rfl
@[simp] theorem flagSub_mstack (i n : Nat) : (flagSub g i n).mstack = g.mstack := rfl
@[simp] theorem flagSub_queue (i n : Nat) : (flagSub g i n).queue = g.queue := rfl
@[simp] theorem flagSub_outs (i n : Nat) : (flagSub g i n).outs = g.outs := rfl
@[simp] theorem flagSub_nextSeq (i n : Nat) : (flagSub g i n).nextSeq = g.nextSeq := rfl
@[simp] theorem flagSub_errOps (i n : Nat) : (flagSub g i n).errOps = g.errOps := rfl
@[simp] theorem flagSub_batches (i n : Nat) : (flagSub g i n).batches = g.batches := rfl
@[simp] theorem flagSub_openOps (i n : Nat) : (flagSub g i n).openOps = g.openOps := rfl
@[simp] theorem flagSub_bctr (i n : Nat) : (flagSub g i n).bctr = g.bctr := rfl
@[simp] theorem flagSub_mbdone (i n : Nat) : (flagSub g i n).mbdone = g.mbdone := rfl
@[simp] theorem flagSub_merr (i n : Nat) : (flagSub g i n).merr = g.merr := rfl
@[simp] theorem flagSub_bandOps (i n : Nat) : (flagSub g i n).bandOps = g.bandOps := rfl
@[simp] theorem flagSub_feWait (i n : Nat) : (flagSub g i n).feWait = g.feWait := rfl
@[simp] theorem flagSub_feDone (i n : Nat) : (flagSub g i n).feDone = g.feDone := rfl
@[simp] theorem flagSub_fewait (i n : Nat) : (flagSub g i n).fewait = g.fewait := rfl
@[simp] theorem flagSub_lcb (i n : Nat) : (flagSub g i n).lcb = g.lcb := rfl
@[simp] theorem flagSub_tsave (i n : Nat) : (flagSub g i n).tsave = g.tsave := rfl
@[simp] theorem flagSub_tcause (i n : Nat) : (flagSub g i n).tcause = g.tcause := rfl
@[simp] theorem flagSub_tpc (i n : Nat) : (flagSub g i n).tpc = g.tpc := rfl
@[simp] theorem flagSub_tval (i n : Nat) : (flagSub g i n).tval = g.tval := rfl
@[simp] theorem flagSub_tvec (i n : Nat) : (flagSub g i n).tvec = g.tvec := rfl
@[simp] theorem flagSub_asid (i n : Nat) : (flagSub g i n).asid = g.asid := rfl
@[simp] theorem flagSub_ptbase (i n : Nat) : (flagSub g i n).ptbase = g.ptbase := rfl
@[simp] theorem flagSub_priv (i n : Nat) : (flagSub g i n).priv = g.priv := rfl
@[simp] theorem flagSub_handler (i n : Nat) : (flagSub g i n).handler = g.handler := rfl
@[simp] theorem flagSub_msaved (i n : Nat) : (flagSub g i n).msaved = g.msaved := rfl
@[simp] theorem flagSub_region (i n : Nat) : (flagSub g i n).region = g.region := rfl
@[simp] theorem flagSub_regionOver (i n : Nat) : (flagSub g i n).regionOver = g.regionOver := rfl
@[simp] theorem flagSub_lzfill (i n : Nat) : (flagSub g i n).lzfill = g.lzfill := rfl
@[simp] theorem flagSub_absent (i n : Nat) : (flagSub g i n).absent = g.absent := rfl
@[simp] theorem flagSub_fillFrom (i n : Nat) : (flagSub g i n).fillFrom = g.fillFrom := rfl
@[simp] theorem flagSub_nslots (i n : Nat) : (flagSub g i n).nslots = g.nslots := rfl
@[simp] theorem flagSub_tiles (i n : Nat) : (flagSub g i n).tiles = g.tiles := rfl
@[simp] theorem flagSub_wait (i n : Nat) : (flagSub g i n).wait = g.wait := rfl
@[simp] theorem flagSub_heldWait (i n : Nat) : (flagSub g i n).heldWait = g.heldWait := rfl
@[simp] theorem flagSub_isyncMark (i n : Nat) : (flagSub g i n).isyncMark = g.isyncMark := rfl
@[simp] theorem flagSub_invs (i n : Nat) : (flagSub g i n).invs = g.invs := rfl
@[simp] theorem flagSub_bslots (i n : Nat) : (flagSub g i n).bslots = g.bslots := rfl
@[simp] theorem flagSub_bfenced (i n : Nat) : (flagSub g i n).bfenced = g.bfenced := rfl
@[simp] theorem flagSub_scOpen (i n : Nat) : (flagSub g i n).scOpen = g.scOpen := rfl
@[simp] theorem flagSub_pubs (i n : Nat) : (flagSub g i n).pubs = g.pubs := rfl
@[simp] theorem flagSub_kept (i n : Nat) : (flagSub g i n).kept = g.kept := rfl
@[simp] theorem flagSub_fillAsid (i n : Nat) : (flagSub g i n).fillAsid = g.fillAsid := rfl
@[simp] theorem flagSub_fillPt (i n : Nat) : (flagSub g i n).fillPt = g.fillPt := rfl

end Sys2Proof.Machine
end

