-- ==== Sys2Proof/Laws/Device.lean ====
section
/-! SUPPORT. Laws/Device.lean: what each change of a register, port, tile, coherence record or page translation leaves as it was, and that
a write of a device register changes no memory but the frame rings of a Loam unit. -/
namespace Sys2Proof.Machine

/-! ### One field of the state each -/

/-- Storing a field changes nothing but the register file. -/
theorem mgmtPut_rest (s : State) (off hi lo v : Nat) : ({ mgmtPut s off hi lo v with mgmt := s.mgmt } : State) = s := by
  unfold mgmtPut; split <;> rfl

theorem mgmtPlain_rest (s : State) (off : Nat) (v : W64) : ({ mgmtPlain s off v with mgmt := s.mgmt } : State) = s := by
  unfold mgmtPlain; split <;> rfl

theorem onPort_rest (s : State) (p : Nat) (f : Port → Port) : ({ onPort s p f with ports := s.ports } : State) = s := rfl

theorem tileWrite_rest (s : State) (id : Nat) (ws : List (Nat × W32)) : ({ tileWrite s id ws with tiles := s.tiles } : State) = s := rfl

theorem loamPut_rest (s : State) (st off : Nat) (v : W64) : ({ loamPut s st off v with loam := s.loam } : State) = s := rfl

/-- A fold keeps what each of its steps keeps. -/
theorem foldl_keeps {α β σ : Type} (p : σ → β) (f : σ → α → σ) (hf : ∀ t x, p (f t x) = p t) (l : List α) : ∀ s, p (l.foldl f s) = p s := by
  induction l with
  | nil => exact fun s => rfl
  | cons x l ih => exact fun s => (ih _).trans (hf s x)

/-- The state but for its coherence records. -/
def dirOff (t : State) : State := { t with dir := [] }

/-- What a change of the records of some words leaves as it was. -/
theorem onWords_rest (s : State) (line : Nat) (m : W32) (f : WordDir → WordDir) : dirOff (onWords s line m f) = dirOff s := by
  unfold onWords
  refine foldl_keeps dirOff _ (fun t a => ?_) _ s
  rfl

/-- What a load or store leaves in the caches is records of words (R87, R342). -/
theorem onRun_rest (s : State) (r : Run) (f : WordDir → WordDir) : dirOff (onRun s r f) = dirOff s := by
  unfold onRun
  split
  · refine foldl_keeps dirOff _ (fun t x => ?_) _ s
    exact onWords_rest t _ _ f
  · rfl

/-- The state but for the requests its clusters have sent. -/
def requestsOff (t : State) : State := { t with planes := [], reqs := [], nextId := 0 }

theorem sendRequest_rest (s : State) (c line : Nat) (m : W32) (x : Msg) : requestsOff (sendRequest s c line m x) = requestsOff s := by
  unfold sendRequest; split <;> rfl

theorem askLine_rest (s : State) (c line : Nat) (m : W32) (write : Bool) (core agent : Nat) :
    requestsOff (askLine s c line m write core agent) = requestsOff s := by
  unfold askLine; dsimp only; rw [sendRequest_rest, sendRequest_rest]

theorem askHome_rest (s : State) (line : Nat) (m : W32) (write : Bool) : requestsOff (askHome s line m write) = requestsOff s := by
  unfold askHome; split
  · dsimp only; split <;> rfl
  · rfl

/-- An access that must wait for words changes nothing but what has been asked for (R343). -/
theorem askRuns_rest (s : State) (write : Bool) (rs : List Run) : requestsOff (askRuns s write rs) = requestsOff s := by
  unfold askRuns
  refine foldl_keeps requestsOff _ (fun t r => ?_) _ s
  unfold askRun
  split
  · refine foldl_keeps requestsOff _ (fun u l => ?_) _ t
    unfold askWords; split
    · exact askLine_rest ..
    · exact askHome_rest ..
  · rfl

/-! ### Memory -/

@[simp] theorem askRuns_mem (s : State) (write : Bool) (rs : List Run) : (askRuns s write rs).mem = s.mem :=
  congrArg (·.mem) (askRuns_rest s write rs)
@[simp] theorem askRuns_cur (s : State) (write : Bool) (rs : List Run) : (askRuns s write rs).cur = s.cur :=
  congrArg (·.cur) (askRuns_rest s write rs)

@[simp] theorem mgmtPut_mem (s : State) (off hi lo v : Nat) : (mgmtPut s off hi lo v).mem = s.mem :=
  have h := congrArg State.mem (mgmtPut_rest s off hi lo v); h
@[simp] theorem mgmtPlain_mem (s : State) (off : Nat) (v : W64) : (mgmtPlain s off v).mem = s.mem :=
  have h := congrArg State.mem (mgmtPlain_rest s off v); h
@[simp] theorem mgmtCount_mem (s : State) (off lo : Nat) : (mgmtCount s off lo).mem = s.mem := mgmtPut_mem ..
@[simp] theorem onPort_mem (s : State) (p : Nat) (f : Port → Port) : (onPort s p f).mem = s.mem := rfl
@[simp] theorem onWords_mem (s : State) (line : Nat) (m : W32) (f : WordDir → WordDir) : (onWords s line m f).mem = s.mem :=
  congrArg (·.mem) (onWords_rest s line m f)
@[simp] theorem onRun_mem (s : State) (r : Run) (f : WordDir → WordDir) : (onRun s r f).mem = s.mem :=
  congrArg (·.mem) (onRun_rest s r f)

@[simp] theorem accumStore_mem (s : State) (core off : Nat) (bs : List Byte) : (accumStore s core off bs).mem = s.mem := by
  unfold accumStore
  refine foldl_keeps State.mem _ (fun t x => ?_) _ s
  rfl

@[simp] theorem resendAll_mem (p : Nat) (s : State) (seqs : List Nat) : (resendAll p s seqs).mem = s.mem :=
  foldl_keeps State.mem _ (fun t x => by simp [resendFlit]) _ s

@[simp] theorem adoptMask_mem (s : State) (p e m : Nat) : (adoptMask s p e m).mem = s.mem := by simp [adoptMask]

@[simp] theorem shedTo_mem (s : State) (p v : Nat) : (shedTo s p v).mem = s.mem := by
  unfold shedTo; dsimp only; split
  · rfl
  · split <;> simp

@[simp] theorem relight_mem (s : State) (p v : Nat) : (relight s p v).mem = s.mem := rfl

@[simp] theorem enterDark_mem (s : State) (p : Nat) : (enterDark s p).mem = s.mem := by unfold enterDark; dsimp only; split <;> simp

@[simp] theorem setLaser_mem (s : State) (p v : Nat) : (setLaser s p v).mem = s.mem := by
  unfold setLaser; dsimp only
  split
  · split <;> simp
  · split
    · simp
    · split <;> simp

@[simp] theorem moveLaser_mem (s : State) (p v : Nat) : (moveLaser s p v).mem = s.mem := by
  unfold moveLaser; dsimp only
  split
  · simp
  · split
    · rfl
    · split <;> simp

@[simp] theorem requestLaser_mem (s : State) (p v : Nat) : (requestLaser s p v).mem = s.mem := by
  unfold requestLaser; dsimp only
  split
  · split <;> simp
  · simp

@[simp] theorem nodeAccess_mem (s : State) (v : W64) : (nodeAccess s v).mem = s.mem := by
  unfold nodeAccess; dsimp only
  split
  · split
    · simp
    · rw [foldl_keeps State.mem _ (fun t x => mgmtPut_mem ..)]; simp
  · simp

@[simp] theorem setFreq_mem (s : State) (r f : Nat) : (setFreq s r f).mem = s.mem := by
  unfold setFreq; dsimp only; split <;> simp [onRegion]

@[simp] theorem startCheckpoint_mem (s : State) (v : W64) : (startCheckpoint s v).mem = s.mem := by
  unfold startCheckpoint; dsimp only; split <;> simp

/-- A write of a register of class 0x03 writes no memory. -/
@[simp] theorem mgmtWrite_mem (s : State) (off : Nat) (v : W64) : (mgmtWrite s off v).mem = s.mem := by
  unfold mgmtWrite
  split <;> simp [registerQueue, writePort]

@[simp] theorem mgmtStore_mem (s : State) (off : Nat) (bs : List Byte) : (mgmtStore s off bs).mem = s.mem :=
  foldl_keeps State.mem _ (fun t x => by split <;> simp) _ s

@[simp] theorem markLeaf_revived (s : State) (k : Access) (l : Leaf) : (markLeaf s k l).revived = s.revived := by
  unfold markLeaf; dsimp only; split <;> rfl

@[simp] theorem cacheEntry_mem (s : State) (e : TlbEntry) : (cacheEntry s e).mem = s.mem := by unfold cacheEntry; split <;> rfl

@[simp] theorem cacheLeaf_mem (s : State) (a : Actor) (k : Access) (va : W64) (l : Leaf) : (cacheLeaf s a k va l).mem = s.mem := by
  unfold cacheLeaf
  refine foldl_keeps State.mem _ (fun t x => ?_) _ s
  exact cacheEntry_mem t x

@[simp] theorem countHeat_mem (s : State) (pa : Nat) : (countHeat s pa).mem = s.mem := by unfold countHeat; split <;> rfl

end Sys2Proof.Machine
end

