-- ==== Sys2Proof/Laws/Memory.lean ====
section
/-! SUPPORT. Laws/Memory.lean: the laws of memory: a read after a write, the bytes a write leaves alone, and that every
operation that writes memory keeps its canonical form. -/
namespace Sys2Proof.Machine

theorem Memory.wf_iff (m : List Host.Cell) : Memory.wf m = true ↔ spWf m = true := Iff.rfl

/-! ### Reads after writes -/

/-- A cell outside the bytes a write stores keeps its value. -/
theorem spGet_memPut_other (rv : List (Nat × Nat × Nat)) (m : List Host.Cell) (pa : Nat) (bs : List Byte) {a : Nat}
    (h : a < pa ∨ pa + bs.length ≤ a) : spGet (memPut rv m pa bs) a = spGet m a := by
  induction bs generalizing m pa with
  | nil => rfl
  | cons b r ih =>
    simp only [List.length_cons] at h
    rw [memPut, ih _ _ (by omega), spGet_spSet_other _ _ (by omega)]

/-- The i-th byte stored is read back at its address. -/
theorem spGet_memPut_same (rv : List (Nat × Nat × Nat)) (m : List Host.Cell) (pa : Nat) (bs : List Byte) (i : Nat)
    (h : i < bs.length) : spGet (memPut rv m pa bs) (pa + i) ^^^ memUnlisted rv (pa + i) = bs[i] := by
  induction bs generalizing m pa i with
  | nil => simp at h
  | cons b r ih =>
    cases i with
    | zero =>
      rw [memPut, spGet_memPut_other _ _ _ _ (by omega), Nat.add_zero, spGet_spSet_same]
      simp
    | succ n =>
      have := ih (spSet m pa (b ^^^ memUnlisted rv pa)) (pa + 1) n (by simpa using h)
      rw [memPut, show pa + (n + 1) = pa + 1 + n by omega, this]
      simp

/-- A byte outside a write reads as before. -/
theorem memGet_memWrite_other (s : State) (pa : Nat) (bs : List Byte) {a : Nat} (h : a < pa ∨ pa + bs.length ≤ a) :
    memGet (memWrite s pa bs) a = memGet s a := by
  simp [memGet, spGet_memPut_other _ _ _ _ h]

/-- A byte written reads back. -/
theorem memGet_memWrite_same (s : State) (pa : Nat) (bs : List Byte) (i : Nat) (h : i < bs.length) :
    memGet (memWrite s pa bs) (pa + i) = bs[i] := by
  simp [memGet, spGet_memPut_same _ _ _ _ _ h]

/-- Reading what was written. -/
theorem memRead_memWrite_same (s : State) (pa : Nat) (bs : List Byte) : memRead (memWrite s pa bs) pa bs.length = bs := by
  apply List.ext_getElem
  · simp [memRead]
  · intro i h1 h2
    simp [memRead, memGet_memWrite_same s pa bs i h2]

@[simp] theorem memRead_length (s : State) (pa n : Nat) : (memRead s pa n).length = n := by simp [memRead]

/-- A byte depends on memory and the revived regions only. -/
theorem memGet_congr {s t : State} (hm : s.mem = t.mem) (hr : s.revived = t.revived) (a : Nat) : memGet s a = memGet t a := by
  simp [memGet, hm, hr]

@[simp] theorem memGet_modCur (s : State) (f : Group → Group) (a : Nat) : memGet (modCur s f) a = memGet s a := rfl
@[simp] theorem memGet_modCrew (s : State) (f : Crew → Crew) (a : Nat) : memGet (modCrew s f) a = memGet s a := rfl
@[simp] theorem memGet_advance (s : State) (a : Nat) : memGet (advance s) a = memGet s a := rfl
@[simp] theorem memGet_retS (s : State) (d : BitVec 6) (v : W64) (a : Nat) : memGet (retS s d v) a = memGet s a := rfl

/-! ### The canonical form -/

theorem memPut_wf (rv : List (Nat × Nat × Nat)) (bs : List Byte) : ∀ (m : List Host.Cell) (pa : Nat), Memory.wf m = true →
    Memory.wf (memPut rv m pa bs) = true := by
  induction bs with
  | nil => intro m pa h; exact h
  | cons b r ih => intro m pa h; exact ih _ _ (spWf_spSet _ _ h)

theorem memWrite_wf (s : State) (pa : Nat) (bs : List Byte) (h : Memory.wf s.mem = true) :
    Memory.wf (memWrite s pa bs).mem = true := memPut_wf _ _ _ _ h

theorem fillZero_wf (s : State) (pa n : Nat) (h : Memory.wf s.mem = true) : Memory.wf (fillZero s pa n).mem = true := by
  rw [fillZero_mem]; split
  · exact spWf_spClear _ _ h
  · exact memPut_wf _ _ _ _ h

theorem putFields_wf (rv : List (Nat × Nat × Nat)) (fs : List (Nat × List Byte)) (pa : Nat) : ∀ (m : List Host.Cell),
    Memory.wf m = true → Memory.wf (putFields rv m pa fs) = true := by
  induction fs with
  | nil => intro m h; exact h
  | cons f r ih => intro m h; exact ih _ (memPut_wf _ _ _ _ h)

theorem markLeaf_wf (s : State) (k : Access) (l : Leaf) (h : Memory.wf s.mem = true) : Memory.wf (markLeaf s k l).mem = true := by
  unfold markLeaf
  dsimp only
  split
  · exact h
  · exact memPut_wf _ _ _ _ h

/-- A fold of changes that keep memory's form keeps it. -/
theorem foldl_wf {α : Type} (f : State → α → State) (hf : ∀ t x, Memory.wf t.mem = true → Memory.wf (f t x).mem = true) (l : List α) :
    ∀ s, Memory.wf s.mem = true → Memory.wf (l.foldl f s).mem = true := by
  induction l with
  | nil => exact fun s h => h
  | cons x l ih => exact fun s h => ih _ (hf s x h)

theorem touchRuns_wf (a : Actor) (k : Access) (rs : List Run) : ∀ (s : State) (va : W64), Memory.wf s.mem = true →
    Memory.wf (touchRuns s a k va rs).mem = true := by
  induction rs with
  | nil => exact fun s va h => h
  | cons r rs ih =>
    intro s va h
    refine ih _ _ ?_
    cases r.leaf with
    | none => simpa using h
    | some l => simpa using markLeaf_wf s k l h

theorem writeRuns_wf (rs : List Run) : ∀ (s : State) (bs : List Byte), Memory.wf s.mem = true →
    Memory.wf (writeRuns s rs bs).mem = true := by
  induction rs with
  | nil => exact fun s bs h => h
  | cons r rs ih => exact fun s bs h => ih _ _ (memWrite_wf _ _ _ h)

/-- A write of a Loam register writes at most frames of its rings. -/
theorem loamStore_wf (s : State) (st off : Nat) (bs : List Byte) (h : Memory.wf s.mem = true) : Memory.wf (loamStore s st off bs).mem = true := by
  refine foldl_wf _ (fun t b ht => ?_) _ s h
  unfold loamWrite
  split
  · exact ht
  · refine foldl_wf _ (fun u e hu => ?_) _ _ ht
    split
    · exact hu
    · exact memWrite_wf _ _ _ hu

theorem writePlace_wf (s : State) (r : Run) (bs : List Byte) (h : Memory.wf s.mem = true) : Memory.wf (writePlace s r bs).mem = true := by
  unfold writePlace
  split
  · simpa using h
  · exact loamStore_wf _ _ _ _ h
  · simpa using h
  · exact h
  · exact h
  · split
    · exact memWrite_wf _ _ _ h
    · simpa using h
  · exact memWrite_wf _ _ _ h
  · exact memWrite_wf _ _ _ (by simpa using h)

theorem writePlaces_wf (rs : List Run) : ∀ (s : State) (bs : List Byte), Memory.wf s.mem = true →
    Memory.wf (writePlaces s rs bs).mem = true := by
  induction rs with
  | nil => exact fun s bs h => h
  | cons r rs ih => exact fun s bs h => ih _ _ (writePlace_wf s r _ h)

theorem areaMemory_wf (s : State) (pa : Nat) (fs : List (Nat × List Byte)) (h : Memory.wf s.mem = true) :
    Memory.wf (areaMemory s pa fs).mem = true := by
  have hz := fillZero_wf s pa 4096 h
  unfold areaMemory
  dsimp only
  generalize fillZero s pa 4096 = z at hz ⊢
  exact putFields_wf _ _ _ _ hz

theorem putArea_wf (s : State) (r : Run) (fs : List (Nat × List Byte)) (h : Memory.wf s.mem = true) : Memory.wf (putArea s r fs).mem = true := by
  unfold putArea
  split
  · exact areaMemory_wf _ _ _ (by simpa using h)
  · exact areaMemory_wf _ _ _ (by simpa using h)
  · exact areaMemory_wf _ _ _ h
  · exact writePlace_wf _ _ _ h

theorem writeSaveArea_wf {s t : State} {tc tpc tv : W64} (hs : writeSaveArea s tc tpc tv = .ok t)
    (h : Memory.wf s.mem = true) : Memory.wf t.mem = true := by
  have hw (rs : List Run) : Memory.wf ((touchRuns s (groupActor s.cur) .store s.cur.tsave rs) |> fun t =>
      rs.foldl (fun t r => putArea t r (saveFields s.cur tc tpc tv)) t).mem = true :=
    foldl_wf _ (fun t r ht => putArea_wf t r _ ht) _ _ (touchRuns_wf _ _ _ s _ h)
  unfold writeSaveArea at hs
  dsimp only at hs
  repeat' split at hs
  all_goals first | exact Acc.ok.inj hs ▸ hw _ | simp at hs

/-- A save area that waits for its words writes nothing. -/
theorem writeSaveArea_busy {s t : State} {tc tpc tv : W64} (hs : writeSaveArea s tc tpc tv = .busy t) : requestsOff t = requestsOff s := by
  unfold writeSaveArea at hs
  dsimp only at hs
  repeat' split at hs
  all_goals first | exact Acc.busy.inj hs ▸ askRuns_rest s true _ | simp at hs

theorem loadBytes_wf (s : State) (x : Nat × List Byte) (h : Memory.wf s.mem = true) : Memory.wf (loadBytes s x).mem = true :=
  memPut_wf _ _ _ _ h

/-- Memory at reset lists nothing. -/
theorem reset_wf : Memory.wf State.reset.mem = true := by decide +kernel

end Sys2Proof.Machine
end

