-- ==== Sys2Proof/Laws/Ops.lean ====
section
/-! SUPPORT. Laws/Ops.lean: what each shared operation can do, said once: a scalar result, an entry of the lane queue, trap entry, an engine
operation's issue and end, a change of focus, and the operations that write memory for a whole region. -/
namespace Sys2Proof.Machine

open Sys2Proof.Claims

/-! ### Scalar results (R150) -/

@[simp] theorem sreg_zero (s : State) : sreg s 0 = 0 := by simp [sreg, sget]

theorem sreg_retS (s : State) (d : BitVec 6) (v : W64) (r : BitVec 6) :
    sreg (retS s d v) r = if r = 0 then 0 else if r = d then v else sreg s r := by
  simp only [sreg, sget, retS_cur]
  by_cases h : r = 0
  · simp [h]
  · rw [if_neg h, if_neg h, if_neg h]
    unfold sset
    by_cases hd : d = 0
    · subst hd; rw [if_pos rfl, if_neg h]
    · rw [if_neg hd]
      show spGet (spSet _ _ _) _ = _
      rw [spGet_spSet]
      by_cases hr : r = d
      · subst hr; simp
      · have : d.toNat ≠ r.toNat := fun e => hr (BitVec.eq_of_toNat_eq e.symm)
        rw [if_neg this, if_neg hr]

/-- A result changes a scalar register and the program counter, nothing else. -/
theorem rest_retS (s : State) (d : BitVec 6) (v : W64) (pc : W64) :
    ({ retS s d v with cur := { ({ (retS s d v).cur with pc := pc } : Group) with sregs := s.cur.sregs, pc := s.cur.pc } } : State) = s := by
  have h : ({ (retS s d v).cur with sregs := s.cur.sregs, pc := s.cur.pc } : Group) = s.cur := by
    rw [retS_cur]; unfold sset; split <;> rfl
  show ({ s with cur := { (retS s d v).cur with sregs := s.cur.sregs, pc := s.cur.pc } } : State) = s
  rw [h]

theorem scalarResult_retS (s : State) (d : BitVec 6) (v : W64) : ScalarResult s (retS s d v) d v := by
  refine ⟨?_, ?_, rfl, fun a => rfl, rest_retS s d v _⟩
  · rw [sreg_retS]; simp
  · intro r hr
    rw [sreg_retS, if_neg hr]
    split
    · subst_vars; rw [sreg_zero]
    · rfl

/-! ### The lane queue (R18, R153) -/

theorem enqueue_room (s : State) (e : QEntry) (h : s.cur.queue.length < 4) :
    enqueue s e = { s with cur := { s.cur with pc := s.cur.pc + 4, queue := s.cur.queue ++ [e] } } := by
  simp only [enqueue, h, if_true]; rfl

theorem enqueue_full (s : State) (e : QEntry) (h : 4 ≤ s.cur.queue.length) : enqueue s e = s := by
  simp [enqueue, Nat.not_lt.2 h, stall]

/-! ### Trap entry (R327, R331) -/

/-- A trap waits for the clause in execution, where it is the scalar thread's, and for issued lane instructions. -/
theorem takeTrap_waits (s : State) (lane : Bool) (idx cause : Nat) (tval tpc : W64)
    (h : (lane = false ∧ (running s.cur).isSome = true) ∨ longOuts s.cur ≠ []) : takeTrap s lane idx cause tval tpc = s := by
  unfold takeTrap
  rw [if_pos]
  · rfl
  · rcases h with ⟨h1, h2⟩ | h
    · simp [h1, h2]
    · simp [h]

/-- A trap in handler state is a double trap. -/
theorem takeTrap_double (s : State) (lane : Bool) (idx cause : Nat) (tval tpc : W64) (h1 : lane = true ∨ running s.cur = none)
    (h2 : longOuts s.cur = []) (h3 : s.cur.handler = true) :
    takeTrap s lane idx cause tval tpc = doubleTrap s (bitsOf s.cur.tcause 7 0) cause tval tpc := by
  unfold takeTrap
  rw [if_neg, if_pos h3]
  rcases h1 with h1 | h1 <;> simp [h1, h2]

/-- Otherwise the save area is written and the handler entered, that store's fault makes a double trap, or the entry waits for its words. -/
theorem takeTrap_enters (s : State) (lane : Bool) (idx cause : Nat) (tval tpc : W64) (h1 : lane = true ∨ running s.cur = none)
    (h2 : longOuts s.cur = []) (h3 : s.cur.handler = false) :
    (∀ t, writeSaveArea (modCur s closeBatch) (packCause lane idx cause) tpc tval = .ok t →
      takeTrap s lane idx cause tval tpc = modCur t fun g => enterHandler g (packCause lane idx cause) tpc tval) ∧
    (∀ e, writeSaveArea (modCur s closeBatch) (packCause lane idx cause) tpc tval = .err e →
      takeTrap s lane idx cause tval tpc = doubleTrap (modCur s closeBatch) cause e s.cur.tsave tpc) ∧
    ∀ t, writeSaveArea (modCur s closeBatch) (packCause lane idx cause) tpc tval = .busy t →
      takeTrap s lane idx cause tval tpc = stall { t with cur := s.cur } := by
  have h : ((!lane && (running s.cur).isSome) || !(longOuts s.cur).isEmpty) = false := by rcases h1 with h1 | h1 <;> simp [h1, h2]
  refine ⟨fun x hx => ?_, fun x hx => ?_, fun x hx => ?_⟩ <;> simp [takeTrap, h, h3, hx]

@[simp] theorem postEvent_mem (s : State) (r : RecordFields) : (postEvent s r).mem = s.mem := by unfold postEvent; split <;> rfl

@[simp] theorem doubleTrap_mem (s : State) (a b : Nat) (x y : W64) : (doubleTrap s a b x y).mem = s.mem := by unfold doubleTrap; simp

/-- A double trap leaves the group as it is. -/
@[simp] theorem doubleTrap_cur (s : State) (a b : Nat) (x y : W64) : (doubleTrap s a b x y).cur = s.cur := by
  unfold doubleTrap postEvent; dsimp only; split <;> rfl

theorem takeTrap_wf (s : State) (lane : Bool) (idx cause : Nat) (tval tpc : W64) (h : Memory.wf s.mem = true) :
    Memory.wf (takeTrap s lane idx cause tval tpc).mem = true := by
  unfold takeTrap
  split
  · exact h
  · split
    · simpa using h
    · cases hx : writeSaveArea (modCur s closeBatch) (packCause lane idx cause) tpc tval with
      | err e => simpa [hx] using h
      | busy t =>
        have e : t.mem = s.mem := congrArg (·.mem) (writeSaveArea_busy hx)
        simpa [hx, stall, e] using h
      | ok t => simpa [hx] using writeSaveArea_wf hx h

theorem scalarTrap_wf (s : State) (cause : Nat) (tval : W64) (h : Memory.wf s.mem = true) : Memory.wf (scalarTrap s cause tval).mem = true :=
  takeTrap_wf _ _ _ _ _ _ h

theorem laneTrap_wf (s : State) (cause : Nat) (tval : W64) (h : Memory.wf s.mem = true) : Memory.wf (laneTrap s cause tval).mem = true :=
  takeTrap_wf _ _ _ _ _ _ h

/-! ### A change of focus -/

theorem focusCrew_rest (s : State) (k : GKey) : ({ focusCrew s k with crew := s.crew, crews := s.crews } : State) = s := by
  unfold focusCrew
  split
  · rfl
  · cases s.crews.find? fun c => c.key = crewKey k <;> rfl

/-- Bringing a group into focus changes nothing but which group and crew are in focus. -/
theorem focus_rest (s : State) (k : GKey) :
    ({ focus s k with cur := s.cur, crew := s.crew, groups := s.groups, crews := s.crews } : State) = s := by
  unfold focus
  split
  · exact congrArg (fun t : State => { t with cur := s.cur, groups := s.groups }) (focusCrew_rest s k)
  · cases s.groups.find? fun g => g.key = k with
    | none => rfl
    | some g =>
      exact congrArg (fun t : State => { t with cur := s.cur, groups := s.groups })
        (focusCrew_rest { s with cur := g, groups := replaceFirst (fun x => x.key = k) (fun _ => s.cur) s.groups } k)

@[simp] theorem focus_mem (s : State) (k : GKey) : (focus s k).mem = s.mem := by
  have h := congrArg State.mem (focus_rest s k)
  exact h
@[simp] theorem focus_revived (s : State) (k : GKey) : (focus s k).revived = s.revived := by
  have h := congrArg State.revived (focus_rest s k)
  exact h

@[simp] theorem memGet_focus (s : State) (k : GKey) (a : Nat) : memGet (focus s k) a = memGet s a :=
  memGet_congr (focus_mem s k) (focus_revived s k) a

/-- A group already in focus with its crew stays so. -/
theorem focus_self (s : State) (h : s.crew.key = crewKey s.cur.key) : focus s s.cur.key = s := by simp [focus, focusCrew, h]

/-- A change run on a group keeps memory's form, where the change does. -/
theorem onGroup_wf (k : GKey) (f : State → State) (s : State) (hf : ∀ t, Memory.wf t.mem = true → Memory.wf (f t).mem = true)
    (h : Memory.wf s.mem = true) : Memory.wf (onGroup k f s).mem = true := by
  unfold onGroup
  split
  · exact h
  · simpa using hf _ (by simpa using h)

/-! ### Engine operations (R265) -/

/-- An operation issued stands at the end of the list under the next identity; its tag is pending, a byte barrier as it was. -/
theorem issueOp_ops (s : State) (o : EngOp) : (issueOp s o).ops = s.ops ++ [o] ∧ (issueOp s o).nextId = s.nextId + 1 ∧ (issueOp s o).mem = s.mem := by
  unfold issueOp; dsimp only; split <;> exact ⟨rfl, rfl, rfl⟩

@[simp] theorem finishOp_mem (s : State) (o : EngOp) (st : Byte) : (finishOp s o st).mem = s.mem := by
  unfold finishOp deliverStatus onCrewData
  dsimp only
  split <;> (try split) <;> rfl

/-! ### Memory written by region (R83, R392, R420, R424) -/

/-- Module reset keeps the cells outside the module. -/
theorem afterReset_wf (s : State) (h : Memory.wf s.mem = true) : Memory.wf (afterReset s).mem = true := spWf_filter _ h

theorem foldl_memPut_wf {α : Type} (rv : List (Nat × Nat × Nat)) (pa : α → Nat) (bs : α → List Byte) (l : List α) :
    ∀ m : List Host.Cell, Memory.wf m = true → Memory.wf (l.foldl (fun m c => memPut rv m (pa c) (bs c)) m) = true := by
  induction l with
  | nil => exact fun m h => h
  | cons x l ih => exact fun m h => ih _ (memPut_wf _ _ _ _ h)

/-- Copying a domain into its image keeps the form. -/
theorem copyDomain_wf (dest mark : Nat) (s : State) (i n : Nat) (h : Memory.wf s.mem = true) :
    Memory.wf (copyDomain dest mark s i n).mem = true := by
  unfold copyDomain
  dsimp only
  refine foldl_wf _ (fun t l ht => ?_) _ _ ?_
  · exact memPut_wf _ _ _ _ ht
  · exact memPut_wf _ _ _ _ (foldl_memPut_wf _ _ _ _ _ (spWf_filter _ h))

theorem copyDomains_wf (dest mark : Nat) (l : List Nat) : ∀ s : State, Memory.wf s.mem = true →
    Memory.wf (copyDomains dest mark l s).2.2.mem = true := by
  induction l with
  | nil => exact fun s h => h
  | cons i r ih =>
    intro s h
    unfold copyDomains
    split
    · exact copyDomain_wf _ _ _ _ _ h
    · exact ih _ (copyDomain_wf _ _ _ _ _ h)

theorem runCheckpoint_wf (s : State) (c : Checkpoint) (h : Memory.wf s.mem = true) : Memory.wf (runCheckpoint s c).2.2.mem = true := by
  unfold runCheckpoint
  split
  · exact h
  · split
    · exact h
    · exact copyDomains_wf _ _ _ _ h

end Sys2Proof.Machine
end

