-- ==== Sys2Proof/Laws/Registers.lean ====
section
/-! SUPPORT. Laws/Registers.lean: what is read from a register file, a register's field, a port after it has been written. -/
namespace Sys2Proof.Machine

/-! ### Register files -/

theorem rfGet_rfSet (f : List (Nat × W64)) (k o : Nat) (v d : W64) : rfGet (rfSet f k v) o d = if o = k then v else rfGet f o d := by
  induction f with
  | nil => by_cases h : o = k <;> simp [rfSet, rfGet, h, eq_comm]
  | cons p r ih =>
    obtain ⟨i, x⟩ := p
    simp only [rfSet]
    by_cases hik : i = k
    · subst hik
      by_cases h : o = i <;> simp [rfGet, h, eq_comm]
    · rw [if_neg hik]
      by_cases hlt : k < i
      · rw [if_pos hlt]
        by_cases h : o = k <;> simp [rfGet, h, eq_comm]
      · rw [if_neg hlt]
        by_cases hio : i = o
        · subst hio; simp [rfGet, hik]
        · have : rfGet ((i, x) :: rfSet r k v) o d = rfGet (rfSet r k v) o d := by simp [rfGet, hio]
          rw [this, ih]
          simp [rfGet, hio]

/-! ### Fields -/

theorem getLsbD_maskBits (hi lo k : Nat) (hlo : lo ≤ hi) : (maskBits hi lo).getLsbD k = (decide (k < 64) && decide (lo ≤ k) && decide (k ≤ hi)) := by
  simp only [maskBits, BitVec.getLsbD_ofNat, Nat.testBit_shiftLeft, Nat.testBit_two_pow_sub_one]
  by_cases h1 : k < 64 <;> by_cases h2 : lo ≤ k <;> by_cases h3 : k ≤ hi <;> simp [h1, h2, h3] <;> omega

/-- A bit of a word with one field replaced. -/
theorem getLsbD_setBits (x : W64) (hi lo v k : Nat) (hlo : lo ≤ hi) (hk : k < 64) :
    (setBits x hi lo v).getLsbD k = if lo ≤ k ∧ k ≤ hi then v.testBit (k - lo) else x.getLsbD k := by
  simp only [setBits, BitVec.getLsbD_or, BitVec.getLsbD_and, BitVec.getLsbD_not, getLsbD_maskBits _ _ _ hlo,
    BitVec.getLsbD_ofNat, hk, decide_true, Bool.true_and]
  by_cases h : lo ≤ k ∧ k ≤ hi
  · obtain ⟨h1, h2⟩ := h
    simp [h1, h2]
  · rw [if_neg h]
    have : (decide (lo ≤ k) && decide (k ≤ hi)) = false := by simpa using h
    simp [this]

theorem mgmtRaw_mgmtPut (s : State) (off hi lo v o : Nat) (h : (mregOf off).isSome) :
    mgmtRaw (mgmtPut s off hi lo v) o = if o = off then setBits (mgmtRaw s off) hi lo v else mgmtRaw s o := by
  obtain ⟨r, hr⟩ := Option.isSome_iff_exists.1 h
  simp only [mgmtPut, hr]
  by_cases ho : o = off
  · subst ho; simp only [mgmtRaw, hr, rfGet_rfSet, if_true]
  · rw [if_neg ho]
    simp only [mgmtRaw]
    cases mregOf o with
    | none => rfl
    | some q => simp only [rfGet_rfSet, if_neg ho]; rfl

theorem testBit_bitsOf {w : Nat} (x : BitVec w) (hi lo k : Nat) : (bitsOf x hi lo).testBit k = (decide (k < hi + 1 - lo) && x.getLsbD (lo + k)) := by
  simp only [bitsOf, Nat.testBit_mod_two_pow, Nat.testBit_shiftRight, BitVec.getLsbD]

theorem mgmtField_mgmtPut_same (s : State) (off hi lo v : Nat) (h : (mregOf off).isSome) (hlo : lo ≤ hi) (hhi : hi < 64) :
    mgmtField (mgmtPut s off hi lo v) off hi lo = v % 2 ^ (hi + 1 - lo) := by
  apply Nat.eq_of_testBit_eq; intro k
  rw [mgmtField, testBit_bitsOf, mgmtRaw_mgmtPut _ _ _ _ _ _ h, if_pos rfl, Nat.testBit_mod_two_pow]
  by_cases hk : k < hi + 1 - lo
  · rw [getLsbD_setBits _ _ _ _ _ hlo (by omega), if_pos (by omega)]; simp
  · simp [hk]

/-- A field apart from the one stored. -/
theorem mgmtField_mgmtPut_other (s : State) (off hi lo v o h' l' : Nat) (h : (mregOf off).isSome) (hlo : lo ≤ hi) (hh : h' < 64)
    (hd : o ≠ off ∨ h' < lo ∨ hi < l') : mgmtField (mgmtPut s off hi lo v) o h' l' = mgmtField s o h' l' := by
  apply Nat.eq_of_testBit_eq; intro k
  rw [mgmtField, mgmtField, testBit_bitsOf, testBit_bitsOf, mgmtRaw_mgmtPut _ _ _ _ _ _ h]
  by_cases ho : o = off
  · subst ho
    rw [if_pos rfl]
    by_cases hk : k < h' + 1 - l'
    · rw [getLsbD_setBits _ _ _ _ _ hlo (by omega), if_neg (by omega)]
    · simp [hk]
  · rw [if_neg ho]

/-! ### Ports -/

theorem portAt_onPort (s : State) (p q : Nat) (f : Port → Port) (hp : p < s.ports.length) :
    portAt (onPort s p f) q = if q = p then f (portAt s p) else portAt s q := by
  simp only [portAt, onPort, nth, List.getElem?_set]
  by_cases h : q = p
  · subst h; simp [hp]
  · rw [if_neg (fun e => h e.symm), if_neg h]

@[simp] theorem mgmtRaw_onPort (s : State) (p o : Nat) (f : Port → Port) : mgmtRaw (onPort s p f) o = mgmtRaw s o := rfl
@[simp] theorem mgmtField_onPort (s : State) (p o h l : Nat) (f : Port → Port) : mgmtField (onPort s p f) o h l = mgmtField s o h l := rfl
@[simp] theorem portAt_mgmtPut (s : State) (off hi lo v p : Nat) : portAt (mgmtPut s off hi lo v) p = portAt s p := by
  unfold mgmtPut; split <;> rfl

end Sys2Proof.Machine
end

