-- ==== Sys2Proof/Safety.lean ====
section
/-!
DEFINITION. Safety.lean: what counts as a safe run: no step of it stops the machine. The one stop of the model is the cut of
module power after a thermal trip (R423).
-/
namespace Sys2Proof

/-- n steps from a state, none of which stops. -/
def runsFor : Nat → Machine.State → Bool
  | 0, _ => true
  | n + 1, s =>
    match Machine.step s with
    | .next t => runsFor n t
    | .fault _ => false
    | .refused _ => false

/-- A run from a state is safe when no number of steps stops it. -/
def safeRun (s : Machine.State) : Prop := ∀ n, runsFor n s = true

end Sys2Proof
end

