-- ==== Sys2Proof/Tests/Slice0.lean ====
section
/-!
SUPPORT. Tests/Slice0.lean: ill-formed terms that are refused, words written out from the encodings, single steps with values worked out
from the rules, and for each statement states and operands that meet its hypotheses.
-/
namespace Sys2Proof.Tests

set_option Elab.async false

open Sys2Proof Sys2Proof.Machine Sys2Proof.Claims

set_option maxRecDepth 4000

/-! ### Conjunctions that are decided as one -/

theorem with2 {a b r : Prop} (h : a ∧ b) (k : r) : a ∧ b ∧ r := by
  simp only [h, k, and_self]

theorem with3 {a b c r : Prop} (h : a ∧ b ∧ c) (k : r) : a ∧ b ∧ c ∧ r := by
  simp only [h, k, and_self]

theorem with4 {a b c d r : Prop} (h : a ∧ b ∧ c ∧ d) (k : r) : a ∧ b ∧ c ∧ d ∧ r := by
  simp only [h, k, and_self]

theorem with5 {a b c d e r : Prop} (h : a ∧ b ∧ c ∧ d ∧ e) (k : r) : a ∧ b ∧ c ∧ d ∧ e ∧ r := by
  simp only [h, k, and_self]

theorem with6 {a b c d e f r : Prop} (h : a ∧ b ∧ c ∧ d ∧ e ∧ f) (k : r) : a ∧ b ∧ c ∧ d ∧ e ∧ f ∧ r := by
  simp only [h, k, and_self]

/-! ### A small machine -/

def tKey : GKey := { launch := 1, band := 0, crew := 0, group := 0 }

/-- One group of 16 slots and one tile, in a crew with tags, barriers and one scratchpad unit. -/
def tStart : State :=
  { State.reset with
    cur := { blankGroup tKey with nslots := 16, tiles := [0], tsave := 0x40000 }
    crew := { blankCrew tKey with
      groups := 2, tags := [.ready 0, .pending, .ready 1], bbs := List.replicate 3 blankBar
      cbars := List.replicate 2 { count := 0, arrived := 0, phase := 0 }, splen := 0x1000 } }

/-- It runs at 0x10000 under page tables that map the first GiB to itself with POL 2; boot has reached stage 9; s4 = 0x20000, s5 = 7,
s6 = 2, s7 = 0. -/
def tState : State :=
  let s := placeWord tStart 32 0
  { s with
    mem := memPut s.revived s.mem 0x2006 [0x20], mgmt := [(0x08, 9), (0x10, BitVec.allOnes 64)]
    cur := { s.cur with sregs := [(4, 0x20000), (5, 7), (6, 2)] } }

/-- Change the group. -/
def tCur (f : Group → Group) : State := { tState with cur := f tState.cur }

/-- It, later. -/
def tLate : State := { tState with time := 100000 }

/-- Change the crew. -/
def tCrew (f : Crew → Crew) : State := { tState with crew := f tState.crew }

/-- A register has a value. -/
def tReg (r : Nat) (v : W64) : State := tCur fun g => { g with sregs := spSet g.sregs r v }

/-- A setp entry. -/
def tEntry : QEntry := { kind := .setp, addr := 5, target := 1 }

/-- The lane queue holds n entries. -/
def tQueue (n : Nat) : State := tCur fun g => { g with queue := List.replicate n tEntry }

/-- The checked run of n bytes at an address of stack 0. -/
def tRun (pa n : Nat) : Run :=
  { pa := pa, len := n, place := .stacked 0 0, pol := 2
    leaf := some { at_ := 0x2000, entry := 0x200000000001BF, level := 2, ptrs := [(3, 0x2001)] } }

/-! ### Witnesses: scalar instructions -/

theorem wit_ScalarArithmetic :
    arithResult (sreg tState (arithSources (.div 8 5 7)).1) (sreg tState (arithSources (.div 8 5 7)).2) (.div 8 5 7) = some (8, BitVec.ofInt 64 (-1)) ∧
      immediateResult (sreg tState) tState.cur.pc (.addi 8 5 (-7)) = some (8, 0) ∧
      fourResult (sreg tState) (.madd 8 5 6 5) = some (8, 21) ∧ fieldResult (sreg tState) (.bfx 8 5 63 0) = some (8, 0) ∧
      fieldTooLong (.bfx 8 5 63 1) := by
  refine with4 (by decide +kernel) ?_
  simp [fieldTooLong]

theorem wit_Jumps :
    branchTarget (sreg tState) tState.cur.pc (.bz 7 (-1)) = some 0xFFFC ∧ branchTarget (sreg tState) tState.cur.pc (.bz 5 (-1)) = some 0x10004 ∧
      (Instr.jalr 62 4 = .jr 4 ∨ ∃ d, Instr.jalr 62 4 = .jalr d 4) ∧ (sreg tState 4).toNat % 4 = 0 ∧ (sreg tState 5).toNat % 4 ≠ 0 :=
  ⟨by decide +kernel, by decide +kernel, .inr ⟨62, rfl⟩, by decide +kernel, by decide +kernel⟩

theorem wit_SystemZero :
    tState.cur.queue = [] ∧ (tQueue 1).cur.queue ≠ [] ∧ tState.cur.region = none ∧ (tCur fun g => { g with region := some 0 }).cur.region.isSome ∧
      tState.cur.outs = [] ∧ tState.cur.batches = [] ∧ tState.cur.wait ≠ .ending ∧
      (sreg tState 7 = 0 ∧ (sreg tState 7).toNat < 32) ∧
      (0 < (sreg tState 6).toNat ∧ (sreg tState 6).toNat < 64 ∧ (sreg tState 7).toNat < 32 ∧
        (sreg tState 7).toNat + (sreg tState 6).toNat ≤ tState.cur.nslots / 8) ∧
      (tState.cur.nslots / 8 < (sreg tState 6).toNat + (sreg tState 6).toNat) ∧ 32 ≤ (sreg tState 4).toNat :=
  by decide +kernel

theorem wit_LaneQueue :
    (appended tState (.clause 1)).isSome ∧ (appended tState (.clauser 5)).isSome ∧ (appended tState (.setp 1 5)).isSome ∧
      (appended tState (.vput 5 15 31)).isSome ∧ (appended tState (.mts 5 0x030)).isSome ∧ (appended (tQueue 3) (.clause 0)).isSome ∧
      (tQueue 3).cur.queue.length < 4 ∧ 4 ≤ (tQueue 4).cur.queue.length ∧ 2 ^ 20 ≤ (sreg (tReg 8 0x100000) 8).toNat ∧
      tState.cur.nslots ≤ (16#8).toNat :=
  by decide +kernel

theorem wit_MaskStackAndPredicates :
    maskReady tState.cur (.mpush 0 0) ∧ (maskStep tState.cur (.mpush 0 0)).isSome ∧ maskReady tState.cur .mpop ∧ maskStep tState.cur .mpop = none ∧
      maskStep (tCur fun g => { g with mstack := List.replicate 32 { mask := 0, fmt := 0, taken := 0 } }).cur (.mpushRegister 5) = none ∧
      (tState.cur.queue = [] ∧ ¬ ((0#1) = 1 ∧ (0#3) = 0)) ∧
      ((15#8).toNat < tState.cur.nslots ∧ isPending tState.cur ((15#8).toNat * 32 + (31#5).toNat) = false ∧
        (fillGranules tState [(15#8).toNat / 8]).toOption.isSome) ∧
      (∀ e ∈ tState.cur.queue, e.kind = .clause → e.started = true) ∧
      (∀ i : Fin 12, (0xFFF#12).getLsbD i = true → vget tState.cur.flags i 0 = 0) ∧ ∀ o ∈ tState.cur.outs, o.matrix = true := by
  refine ⟨?_, by decide +kernel, trivial, by decide +kernel⟩
  exact ⟨by decide +kernel, by decide⟩

theorem wit_SpecialRegisters :
    specialGet tState 0x1FFF = none ∧ (specialGet tState 0x100).isSome ∧ tState.cur.priv = false ∧ (specialGet tState 0x001).isSome ∧
      (0x001#13).toNat < 0x100 ∧ (specialGet tState 0x002).isSome ∧ tState.cur.queue = [] ∧ (∀ o ∈ tState.cur.outs, o.matrix = true) ∧
      (specialGet (tCur fun g => { g with priv := true }) 0x109).isSome :=
  by decide +kernel

theorem wit_FencesAndTime :
    ((5#3).toNat ≤ 5 ∧ FenceDone tState 1 5) ∧ ((0#3).toNat ≤ 5 ∧ ¬ FenceDone (tQueue 1) 0 0) ∧ 5 < (6#3).toNat ∧
      (sreg tState 7).toNat ≤ tState.time ∧ tState.time < (sreg tState 5).toNat ∧
      (tCur fun g => { g with wait := .tick 0 }).cur.status = .resident ∧ tState.crew.key = crewKey tState.cur.key ∧
      (tCur fun g => { g with wait := .tick 0 }).cur.wait = .tick 0 ∧ (0#64).toNat ≤ tState.time ∧
      ScTurn tLate .scalar 0 ∧ ¬ ScTurn tState .scalar 0 := by
  refine ⟨⟨by decide, by decide +kernel, by decide +kernel, ?_, ?_, ?_, ?_⟩, ⟨by decide, ?_⟩, by decide, with4 (by decide +kernel) ⟨rfl,
    by decide +kernel, by unfold ScTurn; decide +kernel, by unfold ScTurn; decide +kernel⟩⟩
  · have : tState.cur.outs = [] := by decide +kernel
    simp [this]
  · have h1 : tState.cur.bslots = [] := by decide +kernel
    simp [h1]
  · have h1 : tState.hostPend = [] := by decide +kernel
    have h2 : tState.ops = [] := by decide +kernel
    simp [h1, h2]
  · have h2 : tState.ops = [] := by decide +kernel
    simp [h2]
  · rintro ⟨h, _⟩; exact absurd h (by decide +kernel)

theorem wit_CrewBarriers :
    ((sreg tState 6).toNat = 2 ∧ 2 ≤ tState.crew.groups ∧ (1#6).toNat < tState.crew.cbars.length ∧ tState.cur.queue = [] ∧
      (crewBar tState (1#6).toNat).count = 0) ∧ (∀ p, tState.cur.wait ≠ .bar p) ∧
      (crewBar (tCrew fun c => { c with cbars := [{ count := 2, arrived := 1, phase := 0 }] }) 0).count = 2 ∧
      barrierLast (tCrew fun c => { c with cbars := [{ count := 2, arrived := 1, phase := 0 }] }) 0 2 = true ∧
      tState.crew.cbars.length ≤ (2#6).toNat ∧ tState.crew.groups < (sreg tState 5).toNat ∧ (sreg tState 7).toNat = 0 ∧
      (tQueue 1).cur.queue ≠ [] ∧
      (crewBar (tCrew fun c => { c with cbars := [{ count := 1, arrived := 0, phase := 0 }] }) 0).count ≠ (sreg tState 6).toNat ∧ crewStores tState := by
  have hw : tState.cur.wait = .none := by decide +kernel
  have ho : tState.cur.outs = [] := by decide +kernel
  have hb : tState.cur.bslots = [] := by decide +kernel
  exact ⟨by decide +kernel, by simp [hw], with6 (by decide +kernel) ⟨by decide +kernel, by simp [crewStores, ho, hb]⟩⟩

theorem wit_ScalarLoadsAndStores :
    (∃ l, (tRun 0x20000 8).leaf = some l ∧ l.entry = BitVec.ofNat 64 (leValue (memRead tState l.at_ 8))) ∧
      (offsetAddress tState 4 3 0).toNat % 2 ^ (3#2).toNat = 0 ∧
      checkedRuns loadErr tState 0 .load (offsetAddress tState 4 3 0) (2 ^ (3#2).toNat) = .ok [tRun 0x20000 8] ∧
      accessFree tState .load [tRun 0x20000 8] ∧ plainMemory tState (tRun 0x20000 8) ∧
      checkedRuns storeErr tState 0 .store (offsetAddress tState 4 0 (-1)) (2 ^ (0#2).toNat) = .ok [tRun 0x1FFFF 1] ∧
      accessFree tState .store [tRun 0x1FFFF 1] ∧
      (0x10008#64 = BitVec.ofInt 64 ((tState.cur.pc.toNat : Int) + 4 * (2#20).toInt) ∧ (0x10008#64).toNat % 8 = 0 ∧
        (fetchWords tState .scalarFetch 0x10008 2).toOption.isSome) ∧
      ((fetchWords (tCur fun g => { g with ptbase := 0 }) .scalarFetch 0x10008 2).toOption.isNone) ∧
      (0x10004#64 = BitVec.ofInt 64 ((tState.cur.pc.toNat : Int) + 4 * (1#20).toInt) ∧ (0x10004#64).toNat % 8 ≠ 0) := by
  refine ⟨⟨_, rfl, by decide +kernel⟩, with2 (by decide +kernel) ⟨?_, .inl ⟨0, 0, rfl⟩, by decide +kernel, ?_, by decide +kernel⟩⟩
  · exact ⟨by decide +kernel, by decide +kernel⟩
  · exact ⟨by decide +kernel, by decide +kernel⟩

/-- The scalar thread's turn in the SC order has come. -/
theorem tScTurn : ScTurn tLate .scalar 0 := by unfold ScTurn; decide +kernel

theorem wit_AtomicMemoryOps :
    (∃ p, amoParts (.amoAdd 5 4 3 4 1) = some p ∧ orderAssigned p.order p.scope ∧ (sreg tState p.a).toNat % p.size = 0 ∧
      releaseReady tState p.order p.scope ∧ checkedRuns atomErr tState 0 .store (sreg tState p.a) p.size = .ok [tRun 0x20000 8]) ∧
      accessFree tState .store [tRun 0x20000 8] ∧ orderAssigned 0 7 ∧ releaseReady tLate 4 5 ∧ amoSize 1 = 8 ∧
      leValue (memRead (walked tState .store (sreg tState 4) [tRun 0x20000 8]) 0x20000 8) = 0 ∧ (∀ k e, tState.cur.wait ≠ .lock k e) ∧
      (match loadAt (atomicRuns tState (sreg tState 4) [tRun 0x20000 8] fun _ => some (littleEndian 1 8)).2 0 (sreg tState 4) 8 with
        | .ok _ => true | _ => false) = true ∧
      storesDone tState 4 = true := by
  have hw : tState.cur.wait = .none := by decide +kernel
  refine ⟨⟨_, rfl, ?_, by decide +kernel, ⟨fun _ => by decide +kernel, fun h => absurd h (by decide)⟩, by decide +kernel⟩, ⟨by decide +kernel
    , by decide +kernel⟩, ?_, ⟨fun _ => by decide +kernel, fun _ _ => tScTurn⟩, by decide, by decide +kernel, by simp [hw], by decide +kernel
    ⟩
  · exact ⟨by decide, .inr (by decide)⟩
  · exact ⟨by decide, .inl rfl⟩

theorem wit_ScalarAccessTraps :
    (∃ f, scalarAccess tState (.ld 8 4 3 0 1) = some (8, 0x20008, .load, f)) ∧ (∃ f, scalarAccess tState (.cas 8 5 6 0 0 0) = some (4, 7, .store, f)) ∧
      (7#64).toNat % 4 ≠ 0 ∧ (∀ x y, tState.cur.wait ≠ .lock x y) ∧ storesDone tState 5 = true ∧
      (checkedRuns loadErr (tCur fun g => { g with ptbase := 0 }) 0 .load 0x20008 8).toOption.isNone := by
  have hw : tState.cur.wait = .none := by decide +kernel
  refine ⟨⟨loadErr, ?_⟩, ⟨atomErr, ?_⟩, by decide, by simp [hw], by decide +kernel, by decide +kernel⟩
  · rw [scalarAccess, show offsetAddress tState 4 3 1 = 0x20008 by decide +kernel]; rfl
  · rw [scalarAccess, show sreg tState 5 = 7 by decide +kernel]; rfl

/-! ### Witnesses: traps -/

/-- In handler state. -/
def tHandler : State := tCur fun g => { g with handler := true }

theorem wit_TrapEntry :
    (ownTrap tState (.trap 5 3)).isSome ∧ (ownTrap tState (.poolGuard 1)).isSome ∧ (ownTrap tState (.trapEntry tKey true 15 9 0)).isSome ∧
      entryReady tState false ∧ tState.cur.handler = false ∧ tState.cur.status = .resident ∧ tState.crew.key = crewKey tState.cur.key ∧
      tState.cur.mstack.length ≤ 32 ∧ tState.cur.queue.length ≤ 4 ∧ tState.cur.tsave.toNat % 4096 = 0 ∧
      runs tState (groupActor tState.cur) .store tState.cur.tsave 4096 = .ok [tRun 0x40000 4096] ∧ tHandler.cur.handler = true ∧
      entryReady tHandler true ∧ areaFree tState (tRun 0x40000 4096) := by
  refine with3 (by decide +kernel) ⟨?_, with6 (by decide +kernel) (with2 (by decide +kernel) ⟨?_, ⟨.inl ⟨0, 0, rfl⟩, by decide +kernel,
    by decide +kernel⟩⟩)⟩
  · exact ⟨by decide +kernel, fun _ => by decide +kernel⟩
  · exact ⟨by decide +kernel, fun h => by cases h⟩

/-- It has loaded its save area. -/
def tLoaded : State :=
  readMark (touchRuns tHandler (groupActor tHandler.cur) .load tHandler.cur.tsave [tRun 0x40000 4096]) (tRun 0x40000 4096)

theorem wit_TrapReturn :
    (tHandler.cur.handler = true ∧ tHandler.cur.msaved = false ∧ tHandler.cur.queue = [] ∧ tHandler.cur.outs = [] ∧
      tHandler.cur.tsave.toNat % 4096 = 0 ∧ runs tHandler (groupActor tHandler.cur) .load tHandler.cur.tsave 4096 = .ok [tRun 0x40000 4096] ∧
      areaErr tHandler (tRun 0x40000 4096) = none ∧ runsBusy tHandler false [tRun 0x40000 4096] = false ∧
      areaPoisoned tHandler [tRun 0x40000 4096] (readPlace tLoaded (tRun 0x40000 4096)) = false ∧
      areaMalformed tLoaded (readPlace tLoaded (tRun 0x40000 4096)) = none) ∧
      tState.cur.handler = false ∧ (tCur fun g => { g with handler := true, msaved := true }).cur.msaved = true :=
  by decide +kernel

theorem wit_MatrixSave :
    tHandler.cur.batches = [] ∧ tHandler.cur.openOps = [] ∧
      areaPages storeErr tHandler .store 0x300 0x11 = .ok [tRun 0x40300 0x11] ∧
      (areaPages storeErr tHandler .store 0x1000 (tHandler.cur.tiles.length * 0x4000)).toOption.isSome ∧
      areaPages loadErr (tCur fun g => { g with handler := true, msaved := true }) .load 0x300 0x11 =
        .ok [tRun 0x40300 0x11] ∧
      (areaPages loadErr (tCur fun g => { g with handler := true, msaved := true }) .load 0x1000 (tHandler.cur.tiles.length * 0x4000)).toOption.isSome ∧ plainMemory tHandler (tRun 0x40300 0x11) ∧ storesDone tHandler 4 = true ∧
      (∀ l ∈ (areaPages storeErr tHandler .store 0x1000 (tHandler.cur.tiles.length * 0x4000)).toOption,
        runsBusy tHandler true (tRun 0x40300 0x11 :: l) = false ∧ runsBusy tHandler false (tRun 0x40300 0x11 :: l) = false) := by
  refine with6 (by decide +kernel) ⟨.inl ⟨0, 0, rfl⟩, by decide +kernel⟩


/-! ### Witnesses: translation, tags, barriers, engine issue -/

/-- A privileged group. -/
def tPriv : State := tCur fun g => { g with priv := true }

/-- An invalidation that some holders have still to acknowledge. -/
def tInv (w : List Nat) : Inval := { id := 1, grp := tKey, asid := none, lo := 0, len := 1, waiting := w, frame := 5, writer := 3 }

/-- An invalidation of the group that some writers have still to acknowledge. -/
def tInval (w : List Nat) : State :=
  { (tCur fun g => { g with priv := true, invs := [1] }) with invals := [tInv w] }

theorem wit_TlbInstructions :
    (sreg tState 5).toNat < 2 ^ 16 ∧ tState.cur.priv = false ∧ tPriv.cur.priv = true ∧ tPriv.cur.queue = [] ∧ storesDone tPriv 4 = true ∧
      sreg tPriv 7 = 0 ∧ sreg tPriv 6 ≠ 0 ∧ (sreg tPriv 7).toNat < 2 ^ 16 ∧ (tInval []).cur.priv = true ∧
      (∀ v ∈ (tInval []).invals, v.id ∈ (tInval []).cur.invs → v.waiting = []) ∧
      (∃ v ∈ (tInval [95]).invals, v.id ∈ (tInval [95]).cur.invs ∧ v.waiting ≠ []) ∧ (sreg (tInval [95]) 7).toNat < 2 ^ 16 :=
  by decide +kernel

/-- s9 = a mask of tags; tag 0 is ready with 0x00, tag 1 pending, tag 2 ready with 0x01. -/
def tMask (m : W64) : State := tReg 9 m

theorem wit_Tags :
    tagsAllocated (tMask 1).crew (sreg (tMask 1) 9) ∧ (∀ k, (sreg (tMask 1) 9).getLsbD k = true → ¬ pendingTag (tMask 1).crew k) ∧
      ((sreg (tMask 5) 9).getLsbD 2 = true ∧ readyWith (tMask 5).crew 2 1 ∧ causeOf 1 = some 0x14) ∧ causeOf 0 = none ∧
      ((sreg (tMask 2) 9).getLsbD 1 = true ∧ pendingTag (tMask 2).crew 1) ∧ tagsAllocated (tMask 7).crew (sreg (tMask 7) 9) ∧
      (sreg (tMask 8) 9).getLsbD 3 = true ∧ (tMask 8).crew.tags.length ≤ 3 ∧ ∀ k st, (sreg (tMask 2) 9).getLsbD k = true →
        ¬ readyWith (tMask 2).crew k st := by
  have e1 : sreg (tMask 1) 9 = 1 := by decide +kernel
  have e2 : sreg (tMask 2) 9 = 2 := by decide +kernel
  have e5 : sreg (tMask 5) 9 = 5 := by decide +kernel
  have e7 : sreg (tMask 7) 9 = 7 := by decide +kernel
  have e8 : sreg (tMask 8) 9 = 8 := by decide +kernel
  have ht : ∀ m, (tMask m).crew.tags = [.ready 0, .pending, .ready 1] := fun _ => rfl
  have bits : ∀ (m : W64) (k : Nat), m.getLsbD k = true → k < 64 := fun m k h => BitVec.lt_of_getLsbD h
  have f1 : ∀ k : Fin 64, (1#64).getLsbD k = true → k.val = 0 := by decide
  have f2 : ∀ k : Fin 64, (2#64).getLsbD k = true → k.val = 1 := by decide
  have f7 : ∀ k : Fin 64, (7#64).getLsbD k = true → k.val < 3 := by decide
  refine ⟨?_, ?_, ⟨?_, ?_, by decide⟩, by decide, ⟨?_, ?_⟩, ?_, ?_, ?_, ?_⟩
  · intro k h
    rw [e1] at h
    have hk : k = 0 := f1 ⟨k, bits _ _ h⟩ h
    rw [hk, ht]
    decide
  · intro k h
    rw [e1] at h
    have hk : k = 0 := f1 ⟨k, bits _ _ h⟩ h
    rw [hk]
    simp [pendingTag, ht, nth]
  · rw [e5]; decide
  · simp [readyWith, ht, nth]
  · rw [e2]; decide
  · simp [pendingTag, ht, nth]
  · intro k h
    rw [e7] at h
    rw [ht]
    exact f7 ⟨k, bits _ _ h⟩ h
  · rw [e8]; decide
  · rw [ht]; decide
  · intro k st h
    rw [e2] at h
    have hk : k = 1 := f2 ⟨k, bits _ _ h⟩ h
    rw [hk]
    simp [readyWith, ht, nth]

/-- A crew whose barrier 0 is initialised in phase 1, with an expected count posted and an overrun set or not. -/
def tBar (posted past : Bool) (st : Byte) : State :=
  tCrew fun c => { c with bbs := [{ blankBar with inited := true, phase := 1, expect := 9, posted := posted, overrun := past, status := st }] }

theorem wit_ByteBarriers :
    (2#6).toNat < tState.crew.bbs.length ∧ liveBar (tBar false false 0).crew 0 ∧
      ((sreg (tBar false false 0) 5).toNat < 2 ^ 40 ∧ (barAt (tBar false false 0).crew 0).posted = false) ∧
      (barAt (tBar true false 0).crew 0).posted = true ∧
      ((barAt (tBar false false 0).crew 0).phase - (sreg (tBar false false 0) 7).setWidth 16).toNat = 1 ∧
      causeOf (barAt (tBar false false 0).crew 0).status = none ∧ causeOf (barAt (tBar false false 6).crew 0).status = some 0x15 ∧
      (¬ 1 ≤ ((barAt (tBar false true 0).crew 0).phase - BitVec.setWidth 16 (1#64)).toNat ∧ (barAt (tBar false true 0).crew 0).overrun = true) ∧
      ((sreg tState 5).toNat < 2 ^ 40 ∧ (sreg tState 7).toNat < 2 ∧ tState.cur.queue = [] ∧ storesDone tState 2 = true) ∧
      ¬ liveBar tState.crew 0 ∧ tState.crew.bbs.length ≤ (63#6).toNat := by
  refine ⟨by decide +kernel, ⟨by decide +kernel, by decide +kernel⟩, with6 (by decide +kernel) ⟨by decide +kernel, ?_, by decide +kernel⟩⟩
  rintro ⟨_, h⟩
  exact absurd h (by decide +kernel)

/-- An access that succeeds. -/
def accIs {α : Type} (p : α → Bool) : Acc α → Bool
  | .ok a => p a
  | _ => false

theorem acc_ok {α : Type} {x : Acc α} (p : α → Bool) (h : accIs p x = true) : ∃ a, x = .ok a ∧ p a = true := by
  cases x with
  | ok a => exact ⟨a, rfl, h⟩
  | busy => cases h
  | err c => cases h

theorem wit_EngineIssue :
    issued (tReg 9 1) (.cpy 4 4 9 0) = some (.cpy 0x20000 0x20000 1, .tag 0) ∧ targetNamed tState.crew (.tag 0) ∧ issueReady tState (.tag 0) ∧
      ¬ issueReady tState (.tag 1) ∧ (issued (tReg 9 0xC000000100000000) (.cpy 4 4 9 2)).isSome ∧ targetNamed (tBar false false 0).crew (.bar 0 true) ∧
      (issued (tReg 8 0x3FFFFFFFFF) (.cpy2d 4 4 4 0)).isSome ∧ (issued tState (.put 4 4 6 0)).isSome ∧ (issued tState (.get 4 4 5 0)).isSome ∧
      (issued tState (.npub 4 5 0)).isSome ∧ (issued tState (.npubRel 4 5 0)).isSome ∧ (issued tState (.nreqTag 4 5 7 0)).isSome ∧
      (issued tState (.nreqBb 4 5 6 0)).isSome ∧
      (((sreg tState 7).extractLsb' 0 33).toNat = 0 ∧ (sreg tState 7).extractLsb' 33 29 = 0 ∧ (sreg tState 7).getLsbD 63 = false ∧
        (0#6).toNat < tState.crew.tags.length ∧ tState.crew.key = crewKey tState.cur.key) ∧
      (sreg (tReg 9 0x200000000) 9).extractLsb' 33 29 ≠ 0 ∧ 2 ^ 32 < ((sreg (tReg 9 0x100000001) 9).extractLsb' 0 33).toNat ∧
      ((sreg tState 4).toNat % 64 = 0 ∧ (∃ x, loadAt tState 0 (sreg tState 4) 64 = .ok x ∧ (∀ u, (unitOps x.2 u).length < 64)) ∧
        (∀ l, checkedRuns loadErr tState 0 .load (sreg tState 4) 64 = .ok l → scalarHeld tState l = false) ∧ (sreg tState 7).toNat < 2 ^ 32 ∧
        targetNamed tState.crew .word ∧ issueReady tState .word) := by
  have hops : tState.ops = [] := by decide +kernel
  have hr : ∀ tg, (∀ k, tg = .tag k → nth tState.crew.tags k .idle ≠ .pending) → issueReady tState tg := fun tg h =>
    ⟨by decide +kernel, by decide +kernel, by rw [hops]; decide, h⟩
  refine ⟨by decide +kernel, ?_, ?_, ?_, by decide +kernel, ⟨by decide +kernel, by decide +kernel⟩, with6 (by decide +kernel) (with5
    (by decide +kernel) ⟨?_, ?_, by decide +kernel, trivial, hr _ (by simp)⟩)⟩
  · show 0 < _; decide +kernel
  · exact hr _ fun k h => by cases h; decide +kernel
  · rintro ⟨_, _, _, h⟩
    exact h 1 rfl (by decide +kernel)
  · obtain ⟨a, h, p⟩ := acc_ok (x := loadAt tState 0 (sreg tState 4) 64) (fun a => decide (a.2.ops = [])) (by decide +kernel)
    refine ⟨a, h, fun u => ?_⟩
    simp only [decide_eq_true_eq] at p
    simp [unitOps, p]
  · intro l h
    have : ∀ l ∈ (checkedRuns loadErr tState 0 .load (sreg tState 4) 64).toOption, scalarHeld tState l = false := by decide +kernel
    exact this l (by rw [h]; rfl)

/-- Nothing else claims their destinations. -/
theorem wit_Claims : ∀ i ∈ [(tReg 9 1, Instr.cpy 4 4 9 0), (tReg 8 0x100, .cpy2d 4 4 4 0), (tState, .put 4 4 6 0), (tState, .get 4 4 5 0), (tState, .npub 4 5 0),
      (tState, .nreqTag 4 5 7 0)], ∀ x ∈ issued i.1 i.2, claimFree i.1 x.1 := by
  unfold claimFree
  decide +kernel

/-- A subscription block at s4: window 0x1000, one line, at scratchpad offset 0xF80. -/
def tSub : State :=
  let s := { tState with crew := { (tBar false false 0).crew with splen := 0x1000 } }
  memWrite s 0x20000 (littleEndian 0x1000 8 ++ littleEndian 1 4 ++ littleEndian 0xF80 4 ++ List.replicate 16 0)

/-- A subscription. -/
def tSubOf (n : Nat) : Sub := { num := n, wbase := 0x1000, lines := 1, writers := 0, spoff := 0, bar := 0, frame := 0, since := 0, missed := 3 }

theorem wit_SubscriptionsAndWindows :
    (liveBar tSub.crew 0 ∧ (sreg tSub 4).toNat % 32 = 0 ∧ (∃ x, loadAt tSub 0 (sreg tSub 4) 32 = .ok x ∧
        (subMalformed x.1 = false ∧ blockField x.1 127 96 + 128 * blockField x.1 95 64 ≤ tSub.crew.splen ∧ freeSub x.2 = some 0)) ∧
      (∀ l, checkedRuns loadErr tSub 0 .load (sreg tSub 4) 32 = .ok l → scalarHeld tSub l = false)) ∧
      freeSub { tSub with crew := { tSub.crew with subs := (List.range 16).map tSubOf } } = none ∧
      ({ tSub with crew := { tSub.crew with subs := (List.range 16).map tSubOf } }.crew.subs.find? (fun y => y.num = (sreg tState 5).toNat)
        = some (tSubOf 7)) ∧
      16 ≤ (sreg tState 4).toNat ∧ (∀ x ∈ tState.crew.subs, x.num ≠ (sreg tState 5).toNat) ∧
      (tState.cur.queue = [] ∧ (∀ b ∈ tState.cur.bslots, b.done = true) ∧ tState.cur.bfenced = false ∧ (tCur fun g => { g with bfenced := true }).cur.bfenced = true) ∧
      ((∀ n, tState.cur.wait ≠ .decl n) ∧ (sreg tState 4).toNat % 64 = 0 ∧ (∃ x, loadAt tState 0 (sreg tState 4) 64 = .ok x)) ∧
      (∃ o, ({ (tCur fun g => { g with wait := .decl 1 }) with declOps := [{ id := 1, cluster := 0, block := [], asked := false, result := some 3, port := none }] } : State).declOps.find?
        (fun o => o.id = 1) = some o ∧ o.result = some 3) ∧
      ((sreg tState 7).toNat < 2 ∧ targetNamed tState.crew (if (sreg tState 7).getLsbD 0 then .bar 0 false else .tag 0) ∧
        cancelled tState (sreg tState 4) ((sreg tState 7).getLsbD 0) 0 = []) ∧
      (∀ o ∈ tState.ops, o.id ∈ tState.cur.pubs → o.stage ≠ .issued) ∧ (1#6).toNat < 2 ∧ winCounter tState (sreg tState 7) 1 = none ∧
      (∃ c, winCounter { memWrite tState 0x30008 [1] with mgmt := tState.mgmt ++ [(0xF718, 0x30000), (0xF720, 1)] } (sreg tState 7) 0 = some c) := by
  have hw : tState.cur.wait = .none := by decide +kernel
  refine ⟨⟨⟨by decide +kernel, by decide +kernel⟩, by decide +kernel, ?_, ?_⟩, with5 (by decide +kernel) ⟨⟨by simp [hw], by decide +kernel,
    ?_⟩, ⟨_, rfl, rfl⟩, ⟨by decide +kernel, ?_, by decide +kernel⟩, by decide +kernel, by decide, by decide +kernel, ?_⟩⟩
  · obtain ⟨a, h, p⟩ := acc_ok (x := loadAt tSub 0 (sreg tSub 4) 32)
      (fun x => subMalformed x.1 = false ∧ blockField x.1 127 96 + 128 * blockField x.1 95 64 ≤ tSub.crew.splen ∧ freeSub x.2 = some 0)
      (by decide +kernel)
    exact ⟨a, h, of_decide_eq_true p⟩
  · intro l h
    have : ∀ l ∈ (checkedRuns loadErr tSub 0 .load (sreg tSub 4) 32).toOption, scalarHeld tSub l = false := by decide +kernel
    exact this l (by rw [h]; rfl)
  · obtain ⟨a, h, _⟩ := acc_ok (x := loadAt tState 0 (sreg tState 4) 64) (fun _ => true) (by decide +kernel)
    exact ⟨a, h⟩
  · show 0 < _; decide +kernel
  · exact Option.isSome_iff_exists.mp (by decide +kernel)


/-- A queue header at 0x20000: wrIdx 5, rdIdx 3, BASE 0x21000, CAP 4; the group claimed index w. -/
def tPush (w : W64) : State :=
  let s := tCur fun g => { g with wait := .push w (List.replicate 64 1) }
  memWrite s 0x20000 (littleEndian 5 8 ++ List.replicate 120 0 ++ littleEndian 3 8 ++ littleEndian 0x21000 8 ++ List.replicate 6 0 ++
    littleEndian 4 4 ++ List.replicate 102 0)

/-- The cluster owns the slot of that index. -/
def tPushes : State :=
  { tPush 6 with dir := (List.range 16).map fun i => { addr := 0x21080 + 4 * i, holders := [(0, .modified)], l1 := [], version := 0, grantee := some 0 } }

theorem wit_QueuePush :
    (tPushes.cur.wait = .push 6 (List.replicate 64 1) ∧ (List.replicate 64 (1 : Byte)).length = 64 ∧
      checkedRuns loadErr tPushes 0 .load (sreg tPushes 4) 256 = .ok [tRun 0x20000 256] ∧ runsBusy tPushes false [tRun 0x20000 256] = false ∧
      runsBusy (loadRuns tPushes (sreg tPushes 4) [tRun 0x20000 256]).2 true
        (slotRun ((readHdr tPushes 0x20000).base + 64 * (6 % (readHdr tPushes 0x20000).cap)) 0 64) = false ∧
      (6 - (readHdr tPushes 0x20000).rdidx).toNat < (readHdr tPushes 0x20000).cap ∧
      slotFault (loadRuns tPushes (sreg tPushes 4) [tRun 0x20000 256]).2 ((readHdr tPushes 0x20000).base + 64 * (6 % (readHdr tPushes 0x20000).cap)) = none) ∧
      ¬ (7 - (readHdr (tPush 7) 0x20000).rdidx).toNat < (readHdr (tPush 7) 0x20000).cap ∧
      ((∀ v p, tState.cur.wait ≠ .push v p) ∧ (sreg tState 4).toNat % 64 = 0 ∧ tState.cur.queue = [] ∧ storesDone tState (if queueInHost tState (sreg tState 4) then 5 else 4) = true ∧
        (sreg tState 4).toNat % 256 = 0 ∧
        checkedRuns loadErr tState 0 .load (sreg tState 4) 64 = .ok [tRun 0x20000 64] ∧ scalarHeld tState [tRun 0x20000 64] = false ∧
        checkedRuns atomErr tState 0 .store (sreg tState 4) 8 = .ok [tRun 0x20000 8] ∧ scalarHeld tState [tRun 0x20000 8] = false ∧
        (∃ x, loadAt tState 0 (sreg tState 4) 64 = .ok x ∧ x.1.length = 64 ∧ ∃ y,
          atomicAt x.2 0 (sreg tState 4) 8 (fun b => some (littleEndian (leValue b + 1) 8)) = .ok y)) := by
  have hw : tState.cur.wait = .none := by decide +kernel
  refine with2 (by decide +kernel) ⟨by simp [hw], with6 (by decide +kernel) (with2 (by decide +kernel) ?_)⟩
  obtain ⟨a, h, p⟩ := acc_ok (x := loadAt tState 0 (sreg tState 4) 64) (fun x => x.1.length = 64 ∧
    accIs (fun _ => true) (atomicAt x.2 0 (sreg tState 4) 8 (fun b => some (littleEndian (leValue b + 1) 8))) = true)
    (by decide +kernel)
  obtain ⟨p1, p2⟩ := of_decide_eq_true p
  obtain ⟨y, hy, _⟩ := acc_ok (fun _ => true) p2
  exact ⟨a, h, p1, y, hy⟩

/-! ### Witnesses: lane instructions -/

/-- The clause of the lane tests: lanes 0 to 30 active, two instructions, the first about to issue, sets flags 1 and 2, with helpers. -/
def tClause : QEntry :=
  { kind := .clause, addr := 0x10000, mask := 0x7FFFFFFF, fmt := 0x38980800, started := true, pos := 0, count := 2, setA := 1, setB := 2, helper := true }

/-- The group's first queue entry is that clause. -/
def tLane : State := tCur fun g => { g with queue := [tClause] }

/-- The environment of an instruction under a predicate. -/
def tEnv (pr : PredSel) : LaneEnv := laneEnv tLane.cur tClause pr

/-- Predicate p0. -/
def tP0 : PredSel := { neg := false, num := 0 }

/-- A format LA form under p0. -/
def tLa (d a b c : Opnd) (ty : Ty) (md : BitVec 10) (ext : BitVec 14) : LaForm :=
  { pr := tP0, d := d, a := a, b := b, c := c, ty := ty, md := md, ext := ext, yw := false, reuse := false }

/-- d = v15, the last slot of the group, a = v1, b = v2, c = v3. -/
def tAbc (ty : Ty) (md : BitVec 10) (ext : BitVec 14) : LaForm := tLa (.v 15) (.v 1) (.v 2) (.v 3) ty md ext
/-- Two sources. -/
def tAb (ty : Ty) (md : BitVec 10) (ext : BitVec 14) : LaForm := tLa (.v 12) (.v 1) (.v 5) (.v 0) ty md ext
/-- One source. -/
def tA (ty : Ty) (md : BitVec 10) (ext : BitVec 14) : LaForm := tLa (.v 12) (.v 1) (.v 0) (.v 0) ty md ext
/-- A format LI form under p0. -/
def tLi (a : Opnd) (ty : Ty) (md : BitVec 10) (imm : W32) : LiForm := { pr := tP0, d := .v 15, a := a, ty := ty, md := md, imm := imm }

/-- Some parts and environment let the instruction issue. -/
def tReady (i : Instr) : Prop := ∃ p v s1, LaneReady tLane i p v s1

/-- What decides it. -/
def tReadyBool (i : Instr) (p : LaneParts) : Bool :=
  legalAt tClause.fmt i && (badPosition tLane.cur (actLanes (tEnv p.pr)) p.ps = none)
    && (destKeys tLane.cur (actLanes (tEnv p.pr)) p.ps).all (fun k => !isPending tLane.cur k)
    && !exhausts tLane (tEnv p.pr) i

/-- A group with no absent granule fills none. -/
theorem fill_none (s : State) (h : s.cur.absent = []) (js : List Nat) : fillGranules s js = .ok s := by
  induction js with
  | nil => rfl
  | cons j js ih => simp [fillGranules, h, ih]

theorem tLane_absent : tLane.cur.absent = [] := by decide +kernel

theorem tReady_of {i : Instr} (p : LaneParts) (hp : laneParts tClause.fmt i = some p) (h : tReadyBool i p = true) : tReady i := by
  simp only [tReadyBool, Bool.and_eq_true, decide_eq_true_eq, List.all_eq_true, Bool.not_eq_true'] at h
  obtain ⟨⟨⟨h1, h2⟩, h3⟩, h6⟩ := h
  exact ⟨p, tEnv p.pr, tLane, ⟨rfl, h1, hp, rfl, h2, h3, ⟨tLane, fill_none _ tLane_absent _, fill_none _ tLane_absent _⟩, h6⟩⟩

/-- Each of some instructions can issue. -/
def tReadies (l : List Instr) : Prop := ∀ i ∈ l, tReady i

theorem tReadies_of {l : List Instr} (h : l.all (fun i => (laneParts tClause.fmt i).any (tReadyBool i)) = true) : tReadies l := by
  intro i hi
  obtain ⟨p, hp, h⟩ := (Option.any_eq_true _ _).1 (List.all_eq_true.1 h i hi)
  exact tReady_of p hp h

theorem wit_LaneIssue :
    tReady (.iadd (tAb .i32 1 0)) ∧ (running tLane.cur = some tClause ∧ legalAt tClause.fmt (.iadd (tAb .i32 2 0)) = false) ∧
      ∃ p, laneParts tClause.fmt (.iadd (tLa (.v 16) (.v 1) (.v 2) (.v 0) .i32 0 0)) = some p ∧
        legalAt tClause.fmt (.iadd (tLa (.v 16) (.v 1) (.v 2) (.v 0) .i32 0 0)) = true ∧
        badPosition tLane.cur (actLanes (laneEnv tLane.cur tClause p.pr)) p.ps = some 0 :=
  ⟨tReady_of _ rfl (by decide +kernel), ⟨rfl, by decide +kernel⟩, _, rfl, by decide +kernel, by decide +kernel⟩

theorem wit_LaneIntegers :
    tReadies [.iadd (tAb .i32 1 0), .isub (tAb .n8 0 0), .imul (tAb .i64 0 0), .imulh (tAb .n32 0 0), .imad (tAbc .i16 1 0),
      .imin (tAb .i32 0 0), .imax (tAb .n64 0 0), .iaddLi (tLi (.v 1) .i32 0 0xFFFFFFFF), .isubLi (tLi (.v 1) .i32 1 7),
      .imulLi (tLi (.v 1) .n32 0 7), .imulhLi (tLi (.v 1) .i32 0 7), .imadLi (tLi (.v 1) .i32 0 7), .iminLi (tLi (.y 1) .i32 0 7),
      .imaxLi (tLi (.s 5) .i32 0 7), .icmp (tLa (.p false 7) (.v 1) (.v 2) (.p true 1) .i32 0x0D 0), .icmp (tAb .n32 5 0),
      .icmpLi (tLi (.v 1) .i32 2 7), .idot4 (tAbc .i32 7 0), .idot4Li (tLi (.v 1) .n32 0 7), .bfn3 (tAbc .n32 0 0xCA),
      .bfn3Li (tLi (.v 1) .n32 0x96 7), .shf (tAbc .n32 3 0), .shfLi (tLi (.v 1) .i32 2 31), .laneBfx (tAb .i32 1 0),
      .laneBfxLi (tLi (.v 1) .n32 0 0x2000), .laneBfi (tAbc .n32 0 0), .laneBfiLi (tLi (.v 1) .n32 0 0x810), .bitc (tA .n64 1 0)] :=
  tReadies_of (by decide +kernel)

theorem wit_LaneFloats :
    tReadies [.fadd (tAb .f32 0xF 0), .fmul (tAb .bf16x2 0x200 0), .ffma (tAbc .f16 0x1F 0), .faddLi (tLi (.v 1) .f32 0 0x3F800000),
      .fmulLi (tLi (.v 1) .f32 0 0), .ffmaLi (tLi (.v 1) .f32 0 0), .xadd (tAb .vpf 0 0x2000), .xmul (tAb .vpfc 0 0x2100),
      .xfma (tLa (.v 12) (.v 1) (.v 3) (.v 5) .vpf 0 0x2000)] :=
  tReadies_of (by decide +kernel)

theorem wit_RoundingExact :
    tyIsFloat .f16 = true ∧ tyCount .f16 = 1 ∧ 0x7BFF < 2 ^ tyWidth .f16 ∧ (∃ neg m e, decodeNum (fmtOf 0x38980800 .f16) 0x7BFF = .fin neg m e) ∧
      (flushOut 0x38980800 (fmtOf 0x38980800 .f16).cls = true → isSubnormal (fmtOf 0x38980800 .f16) 0x7BFF = false) ∧ Ty.f16 ≠ .b8 ∧
      Ty.f16 ≠ .vpf ∧ Ty.f16 ≠ .vpfc ∧ isSubnormal (fmtOf 0x38980800 .f16) 1 = true ∧ flushOut 0x38980800 (fmtOf 0x38980800 .f16).cls = false :=
  ⟨rfl, rfl, by decide, ⟨_, _, _, rfl⟩, by decide +kernel, by decide, by decide, by decide, by decide +kernel, by decide +kernel⟩

theorem wit_LaneByLane :
    tReadies [.fmin (tAb .f32 1 0), .fminLi (tLi (.v 1) .f32 0 0), .fmax (tAb .f32 0 0), .fmaxLi (tLi (.v 1) .f32 0 0),
      .fcmp (tAb .f32 7 0), .fcmpLi (tLi (.v 1) .f32 0 0), .fclass (tA .f32 0 0),
      .fclass (tLa (.p false 1) (.v 1) (.v 0) (.v 0) .f32 0x1FF 0), .fmath (tA .f32 0 0), .fmath (tAb .f32 8 0),
      .fmathDivLi (tLi (.v 1) .f32 8 0x40000000), .fsca (tAbc .f32 1 0), .fscaLi (tLi (.v 1) .f32 0 0), .cvt (tA .i32 0 0x0800),
      .pack (tLa (.v 12) (.v 1) (.v 5) (.v 0) .e4m3x4 1 0x0800), .unpack (tA .f32 0 0x1600), .scalex (tA .e8m0 0 0x1000),
      .xcmp (tAb .vpf 0 0), .xadde (tAb .vpfc 0 0x2000), .xmule (tAb .vpfc 0 0x2000), .xcvt (tA .vpf 0 0x0800),
      .xrnd (tA .vpfc 0 0x2071), .xerr (tAb .vpf 1 0x2000), .mov (tA .i64 0 0), .movi (tLi (.v 0) .i32 0 0x80000000),
      .laneSel (tLa (.v 12) (.v 1) (.imm 0x1FF) (.p true 7) .f32 0 0), .spec (tLa (.v 12) (.v 0) (.v 0) (.v 0) .n32 9 0),
      .pfn3 (tLa (.p false 1) (.p false 2) (.p true 3) (.p false 0) .i8 0 0x96), .ixset (tLa (.v 0) (.v 1) (.v 2) (.v 3) .i32 0x1F 0),
      .ppoll (tLa (.v 12) (.p false 1) (.v 0) (.v 0) .n32 2 0), .ppoll (tLa (.p false 2) (.p false 1) (.v 0) (.v 0) .n32 3 0),
      .red (tA .f32 0x200 0), .scan (tA .bf16 0x48 0)] :=
  tReadies_of (by decide +kernel)

theorem wit_LanePermute :
    tReadies [.lperm (tLa (.v 12) (.v 1) (.v 2) (.v 0) .i64 0x13 0), .qxch (tA .f32 2 0), .qbc (tA .i32 3 0), .red (tA .i32 0x23 0),
      .scan (tA .n8 0x4D 0)] ∧ tyIsInt .i32 = true :=
  ⟨tReadies_of (by decide +kernel), rfl⟩

/-! ### Witnesses: lane memory and matrix instructions -/

/-- A clause with a mask, over v0 = 0, v1 = 8 times the lane, 32 slots of main file, tile 0 in s10 bytes of scratchpad. -/
def tMem (mask : W32) : State := tCur fun g =>
  { g with nslots := 32, queue := [{ tClause with mask := mask, helper := false }], lanes := (List.range 31).map fun l => (33 + l, BitVec.ofNat 32 (8 * (l + 1))) }

/-- A format LM form on the scratchpad: data v3, address v1 plus s7 plus an offset. -/
def tLm (data : Opnd) (ty : Ty) (order : BitVec 3) (fe : BitVec 2) (off : BitVec 21) : LmForm :=
  { pr := tP0, data := data, addr := .v 1, sbase := 7, ty := ty, space := 1, order := order, scope := 0, fe := fe, cache := 0, vec := 0, off := off }

/-- The environment of a lane memory instruction. -/
def tMemEnv (s : State) (m : MemParts) : LaneEnv :=
  let e := s.cur.queue.headD tClause
  if m.helps then laneEnv s.cur e m.x.pr else { laneEnv s.cur e m.x.pr with helpers := 0 }

/-- What decides that a lane memory instruction may issue. -/
def tMemBool (s : State) (i : Instr) (m : MemParts) : Bool :=
  (running s.cur = some (s.cur.queue.headD tClause)) && legalAt (s.cur.queue.headD tClause).fmt i && s.cur.absent.isEmpty
    && (badPosition s.cur (actLanes (laneEnv s.cur (tMemEnv s m).e m.x.pr)) (lmPos m.x m.use) = none)
    && (destKeys s.cur (actLanes (tMemEnv s m)) (lmPos m.x m.use)).all (fun k => !isPending s.cur k) && decide ((longOuts s.cur).length < 64)
    && (lanesOf (tMemEnv s m).active).all fun l => (lmEa m.x (tMemEnv s m) s l).toNat % laneAlign i = 0

theorem tMem_ready {s : State} {i : Instr} (m : MemParts) (hp : memParts (s.cur.queue.headD tClause).fmt i = some m)
    (h : tMemBool s i m = true) : MemReady s i m (tMemEnv s m) s := by
  simp only [tMemBool, Bool.and_eq_true, decide_eq_true_eq, List.all_eq_true, Bool.not_eq_true', List.isEmpty_iff] at h
  obtain ⟨⟨⟨⟨⟨⟨h0, h1⟩, h2⟩, h3⟩, h4⟩, h5⟩, h6⟩ := h
  have he : (tMemEnv s m).e = s.cur.queue.headD tClause := by
    unfold tMemEnv; split <;> rfl
  refine ⟨⟨by rw [he]; exact h0, by rw [he]; exact h1, by rw [he]; exact hp, by rw [he]; rfl, h3, h4⟩, fun u hu => ?_, fill_none _ h2 _, h5⟩
  rw [addressesKnown, fill_none _ h2] at hu
  cases hu
  exact h6

/-- A run in the scratchpad. -/
def tScratch (r : Run) : Bool := match r.place with
  | .scratch _ _ _ => true
  | _ => false

theorem tScratch_plain {s : State} {r : Run} (h : tScratch r = true) : plainMemory s r := by
  unfold tScratch at h
  split at h
  · rename_i a b c e
    exact .inr (.inr (.inr ⟨a, b, c, e⟩))
  · cases h

/-- The runs of each lane. -/
def tRuns (s : State) (x : LmForm) (v : LaneEnv) (chk : W64 → Except Nat (List Run)) (l : Nat) : List Run := runsOf (chk (lmEa x v s l))

/-- What decides that lanes reach memory. -/
def tReachBool (s : State) (x : LmForm) (v : LaneEnv) (active : List Nat) (chk : W64 → Except Nat (List Run)) (write : Bool) : Bool :=
  active.all fun l => decide (chk (lmEa x v s l) = .ok (tRuns s x v chk l)) && !runsBusy s write (tRuns s x v chk l) && (tRuns s x v chk l).all tScratch

theorem tReach {s : State} {x : LmForm} {v : LaneEnv} {active : List Nat} {chk : W64 → Except Nat (List Run)} {write : Bool}
    (h : tReachBool s x v active chk write = true) : LanesReach s x v active chk write (tRuns s x v chk) := by
  simp only [tReachBool, List.all_eq_true, Bool.and_eq_true, decide_eq_true_eq, Bool.not_eq_true'] at h
  exact ⟨fun l hl => (h l hl).1.1, fun l hl => (h l hl).1.2, fun l hl r hr => tScratch_plain ((h l hl).2 r hr), fun _ _ => rfl⟩

/-- The instruction may issue and every active lane reaches memory. -/
def tReaches (s : State) (i : Instr) (fe : Bool) : Prop :=
  ∃ m v run, MemReady s i m v s ∧ orderReady m.x s ∧
    LanesReach s m.x v (if fe then feActive v s else lanesOf v.active) (laneChk v.e.fmt s i) (laneWrites i) run ∧
    (if fe then feActive v s else lanesOf v.active) ≠ []

/-- What decides it. -/
def tReachesBool (s : State) (i : Instr) (fe : Bool) (m : MemParts) : Bool :=
  let lanes := if fe then feActive (tMemEnv s m) s else lanesOf (tMemEnv s m).active
  tMemBool s i m && storesDone s m.x.scope.toNat && tReachBool s m.x (tMemEnv s m) lanes (laneChk (tMemEnv s m).e.fmt s i) (laneWrites i)
    && decide (m.x.order ≠ 4 ∨ m.x.scope.toNat < 4) && !lanes.isEmpty

theorem tReaches_of {s : State} {i : Instr} {fe : Bool} (m : MemParts) (hp : memParts (s.cur.queue.headD tClause).fmt i = some m)
    (h : tReachesBool s i fe m = true) : tReaches s i fe := by
  simp only [tReachesBool, Bool.and_eq_true, Bool.not_eq_true'] at h
  simp only [decide_eq_true_eq] at h
  refine ⟨m, tMemEnv s m, _, tMem_ready m hp h.1.1.1.1, ⟨fun _ => h.1.1.1.2, fun ho hs => ?_⟩, tReach h.1.1.2, fun e => by rw [e] at h; exact absurd h.2 (by decide)⟩
  rcases h.1.2 with n | n
  · exact absurd ho n
  · rcases hs with e | e <;> rw [e] at n <;> exact absurd n (by decide)

/-- Each of some instructions may issue and reaches memory. -/
def tAllReach (s : State) (l : List Instr) (fe : Bool) : Prop := ∀ i ∈ l, tReaches s i fe

theorem tAllReach_of {s : State} {l : List Instr} {fe : Bool}
    (h : l.all (fun i => (memParts (s.cur.queue.headD tClause).fmt i).any (tReachesBool s i fe)) = true) : tAllReach s l fe := by
  intro i hi
  obtain ⟨m, hm, h⟩ := (Option.any_eq_true _ _).1 (List.all_eq_true.1 h i hi)
  exact tReaches_of m hm h

/-- Lane 0 only, a variable-precision element at its address. -/
def tVpf : State := memWrite (tMem 1) (scratchPa 0 0 0) [0x70, 1, 2, 3, 4, 5, 6, 7, 8]

theorem wit_LaneLoads :
    tReaches (tMem 0xFFFFFFFF) (.laneLd (tLm (.v 3) .i64 1 0 0)) false ∧ tReaches tVpf (.ldv (tLm (.v 3) .vpf 0 0 0)) false :=
  ⟨tReaches_of _ rfl (by decide +kernel), tReaches_of _ rfl (by decide +kernel)⟩

theorem wit_LaneStores :
    tReaches (tMem 0xFFFFFFFF) (.laneSt (tLm (.v 3) .i64 2 0 0)) false ∧ tReaches (tMem 0x80000001) (.stv (tLm (.v 3) .vpf 0 0 0)) false ∧
      (∃ m v, MemReady (tMem 1) (.pref { tLm (.v 0) .i32 0 0 0 with space := 0 }) m v (tMem 1)) ∧
      ((∃ m v, MemReady (tMem 6) (.laneSt { tLm (.v 3) .i32 0 0 0 with sbase := 4 }) m v (tMem 6) ∧ orderReady m.x (tMem 6) ∧
        bcastLine m.x v (tMem 6) = none ∧ laneChk v.e.fmt (tMem 6) (.laneSt { tLm (.v 3) .i32 0 0 0 with sbase := 4 }) (lmEa m.x v (tMem 6) 1) =
          .error 0x09 ∧ 1 ∈ lanesOf v.active)) := by
  refine ⟨tReaches_of _ rfl (by decide +kernel), tReaches_of _ rfl (by decide +kernel), ⟨_, _, tMem_ready _ rfl (by decide +kernel)⟩, _, _,
    tMem_ready _ rfl (by decide +kernel), ⟨fun _ => by decide +kernel, fun h => absurd h (by decide)⟩, by decide +kernel⟩

theorem wit_LaneAtomics :
    tReaches (tMem 0xFFFFFFFF) (.atom (tLm (.v 3) .f32 4 0 0)) false ∧ tReaches (tMem 3) (.atomc (tLm (.v 3) .i64 3 0 0)) false ∧
      (atomOp 0 (.atom (tLm (.v 3) .f32 4 0 0))).isSome ∧ (atomOp 0 (.atomc (tLm (.v 3) .i64 3 0 0))).isSome :=
  ⟨tReaches_of _ rfl (by decide +kernel), tReaches_of _ rfl (by decide +kernel), rfl, rfl⟩

/-- A full/empty wait of lane 2 for the word at 0x100 to be empty or full. -/
def tFe (load : Bool) (limit : W64) : State :=
  let s := tCur fun g => { g with queue := [{ tClause with fewait := limit }], feWait := some ⟨load, false, [⟨2, scratchPa 0 0 0x100, 7, 98⟩], [], 0, 0, 0, 0⟩ }
  { s with fe := if load then [scratchPa 0 0 0x100] else [] }

theorem wit_FullEmpty :
    tReaches (tMem 0xFFFFFFFF) (.fesetFull (tLm (.v 0) .i32 0 1 0)) true ∧
      tAllReach (tMem 3) [.fesetEmpty (tLm (.v 0) .n32 0 2 0), .stFill (tLm (.v 3) .f32 0 1 0), .stEmpty (tLm (.v 3) .f32 0 2 0),
        .ldfe (tLm (.v 3) .i32 0 0 0), .stfe (tLm (.v 3) .i32 0 0 0), .ldWf (tLm (.v 3) .i32 0 1 0)] true ∧ (tMem 3).cur.feWait = none ∧ (∀ g ∈ allGroups (tMem 3), g.feWait = none) ∧
      feOrder (tLm (.v 3) .i32 0 2 0) (tMem 3) ∧ feFull (tMem 3) (scratchPa 0 0 0) = false ∧ feFull (tFe true 1) (scratchPa 0 0 0x100) = true ∧
      feExpired (tFe true 128) { load := true, keep := false, left := [], writes := [], issued := 0, ticket := 0, order := 0, scope := 0 } = false ∧
      feExpired { tFe true 128 with time := 128 } { load := true, keep := false, left := [], writes := [], issued := 0, ticket := 0, order := 0, scope := 0 } = true ∧
      (running (tFe true 1).cur).isSome ∧ (∀ g ∈ allGroups (tFe true 1), ∀ u, g.feWait = some u → 0 ≤ u.ticket) := by
  refine ⟨tReaches_of _ rfl (by decide +kernel), tAllReach_of (by decide +kernel), with2 (by decide +kernel) ⟨by unfold feOrder; decide +kernel, with5 (by decide +kernel) fun _ _ _ _ => Nat.zero_le _⟩⟩

/-- Some parts let the matrix instruction issue. -/
def tMatReady (i : Instr) : Prop := ∃ m v, MatReady (tMem 0xFFFFFFFF) i m v (tMem 0xFFFFFFFF)

/-- The environment of a matrix instruction. -/
def tMatEnv (m : MatParts) : LaneEnv := { laneEnv (tMem 0xFFFFFFFF).cur ((tMem 0xFFFFFFFF).cur.queue.headD tClause) m.pr with helpers := 0 }

/-- What decides it. -/
def tMatBool (i : Instr) (m : MatParts) : Bool :=
  let g := (tMem 0xFFFFFFFF).cur
  legalAt tClause.fmt i && (!m.pr.neg && decide (m.pr.num = 0)) && decide (m.tile + m.tiles ≤ g.tiles.length)
    && (badPosition g (actLanes (laneEnv g (tMatEnv m).e m.pr)) m.ps = none) && (destKeys g (actLanes (tMatEnv m)) m.ps).all (fun k => !isPending g k)
    && match i with
      | .accld x | .accst x => (lanesOf (tMatEnv m).active).all fun l => (lmEa x (tMatEnv m) (tMem 0xFFFFFFFF) l).toNat % 4 = 0
      | _ => true

theorem tMatReady_of {i : Instr} (m : MatParts) (hp : matParts i = some m) (h : tMatBool i m = true) : tMatReady i := by
  simp only [tMatBool, Bool.and_eq_true, decide_eq_true_eq, List.all_eq_true, Bool.not_eq_true'] at h
  obtain ⟨⟨⟨⟨⟨h1, h2⟩, h3⟩, h4⟩, h5⟩, h6⟩ := h
  have ha : (tMem 0xFFFFFFFF).cur.absent = [] := by decide +kernel
  refine ⟨m, tMatEnv m, rfl, h1, hp, h2, rfl, fun h => absurd h (by decide +kernel), h3, rfl, h4, h5, ?_, fill_none _ ha _⟩
  intro x hx u hu
  rw [fill_none _ ha] at hu
  cases hu
  rcases hx with rfl | rfl <;> simpa using h6

/-- A multiplication of 32 rows of v0 to v15 by the scratchpad from s7. -/
def tMma (ty : Ty) : LxForm :=
  { pr := tP0, tile := 0, a := .v 0, bBase := 7, mCode := 0, nCode := 0, kCode := 0, tA := ty, tB := ty, band := false, zero := false, mode := 0,
    aScale := 0, bScale := 0, reuse := false }

/-- ACCZ's form. -/
def tAccz (tile : BitVec 4) : LxForm :=
  { pr := tP0, tile := tile, a := .v 0, bBase := 0, mCode := 0, nCode := 0, kCode := 0, tA := .i8, tB := .i8, band := false, zero := false, mode := 0,
    aScale := 0, bScale := 0, reuse := false }

/-- A form of MBFEN and MBWAIT. -/
def tMb (b : W32) : LiForm := { pr := tP0, d := .v 0, a := .v 0, ty := .i8, md := 0, imm := b }

theorem wit_MatrixIssue :
    tMatReady (.accz (tAccz 0)) ∧ tMatReady (.mma (tMma .bf16)) ∧ tMatReady (.mmas { tMma .e4m3 with aScale := 16 }) ∧
      tMatReady (.accld (tLm (.v 0) .f32 0 0 0)) ∧ tMatReady (.accst (tLm (.v 0) .f32 0 0 0)) ∧
      tMatReady (.accrd (tLa (.v 28) (.v 1) (.v 0) (.v 0) .f32 0 0)) ∧ tMatReady (.accwr (tLa (.v 0) (.v 4) (.v 1) (.v 0) .f32 0 0)) ∧
      tMatReady (.mbfen (tMb 0)) ∧ tMatReady (.mbwait (tMb 0xFFFF)) ∧ (matrixOuts (tMem 0xFFFFFFFF).cur).length < 64 ∧
      (longOuts (tMem 0xFFFFFFFF).cur).length < 64 ∧ mmaFault (tMma .bf16) false 0x1000 0 0 = none ∧
      mmaFault (tMma .bf16) false 0xFFF 0 0 ≠ none ∧
      bandModeOk { tState with crew := { tState.crew with crews := 4 } } = true ∧ (tMem 0xFFFFFFFF).cur.batches.length < 64 ∧
      (1 ≤ ((0 : BitVec 16) - 0xFFFF).toNat ∧ ((0 : BitVec 16) - 0xFFFF).toNat ≤ 64 ∧ ((tMem 0).cur.mbdone - 0xFFFF).toNat < 32768 ∧
        0xFFFF ∉ (tMem 0).cur.merr) ∧ mbNamed (tMem 0).cur 0xFFFF = true ∧
      (running (tMem 1).cur).isSome ∧ (tMem 1).cur.tiles.length < 1 + 1 ∧ 0 + 1 ≤ (tMem 1).cur.tiles.length := by
  refine ⟨?_, ?_, ?_, ?_, ?_, ?_, ?_, ?_, ?_, by decide +kernel⟩ <;>
    exact tMatReady_of _ rfl (by decide +kernel)

/-- A group with one outstanding operation. -/
def tOut (o : OutOp) : State := tCur fun g => { g with outs := [o] }

/-- An operation of number 3 on tile 0. -/
def tOp (matrix : Bool) (act : OutAct) : OutOp := { seq := 3, matrix := matrix, flag := if matrix then none else some 11, tiles := [0], writes := [], act := act, band := none }

theorem tFocus (o : OutOp) : findGroup (tOut o) tKey = some (tOut o).cur ∧ focus (tOut o) tKey = tOut o := by
  have h1 : (tOut o).cur.key = tKey := rfl
  have h2 : (tOut o).cur.status ≠ .empty := by show GStatus.resident ≠ .empty; decide
  have h3 : (tOut o).crew.key = crewKey tKey := rfl
  exact ⟨by simp [findGroup, h1, h2], by simp [focus, focusCrew, h1, h3]⟩

theorem tMay (o : OutOp) : mayComplete (tOut o).cur o.seq o o.matrix := by
  refine ⟨?_, ?_⟩
  · show ([o].find? _) = some o
    simp
  · intro p hp
    have : p = o := by simpa [tOut, tCur] using hp
    subst this
    exact fun h => absurd h (lt_irrefl _)

theorem wit_Completion :
    (∃ g, findGroup (tOut (tOp false (.accld 0 [(4095, 1)]))) tKey = some g) ∧
      mayComplete (focus (tOut (tOp false (.accld 0 [(4095, 1)]))) tKey).cur 3 (tOp false (.accld 0 [(4095, 1)])) false ∧
      mayComplete (tOut (tOp false .plain)).cur 3 (tOp false .plain) false ∧ mayComplete (tOut (tOp false (.accwr 0 []))).cur 3 (tOp false (.accwr 0 [])) false ∧
      mayComplete (tOut (tOp false (.accrd 0 [(98, 4095)]))).cur 3 (tOp false (.accrd 0 [(98, 4095)])) false ∧
      mayComplete (tOut (tOp false (.accst 0 [(0, 0x20000)]))).cur 3 (tOp false (.accst 0 [(0, 0x20000)])) false ∧
      (∃ p, placeOf 0x20000 4 = some p ∧ plainMemory tState { pa := 0x20000, len := 4, place := p, leaf := none }) ∧
      mayComplete (tOut (tOp true (.accz 0))).cur 3 (tOp true (.accz 0)) true := by
  refine ⟨⟨_, (tFocus _).1⟩, ?_, tMay _, tMay _, tMay _, tMay _, ⟨.stacked 0 0, by decide +kernel, .inl ⟨0, 0, rfl⟩⟩, tMay _⟩
  rw [(tFocus _).2]
  exact tMay _

/-- A multiplication whose operands are zeros. -/
def tMmaOp : MmaOp :=
  { form := tMma .bf16, scaled := false, fmt := 0x38980800, aData := [], aScale := [], bBase := scratchPa 0 0 0, bScaleBase := 0, boff := 0, soff := 0, mark := 0 }

theorem wit_MatrixMultiply :
    findGroup (tOut (tOp true (.mma tMmaOp))) tKey = some (tOut (tOp true (.mma tMmaOp))).cur ∧
      mayComplete (focus (tOut (tOp true (.mma tMmaOp))) tKey).cur 3 (tOp true (.mma tMmaOp)) true ∧
      (tOut (tOp true (.mma tMmaOp))).cur.tiles.Nodup ∧
      tMmaOp.form.tile.toNat + mmaRowBlocks tMmaOp.form * mmaColBlocks tMmaOp.form ≤ (tOut (tOp true (.mma tMmaOp))).cur.tiles.length ∧
      rational (mmaA tMmaOp 31 15) = some 0 ∧ rational (mmaB tState tMmaOp 15 63) = some 0 ∧
      rational (mmaEa { tMmaOp with form := tMma .e4m3, scaled := true, aScale := [(31, 0x7F)] } 31 0) = some 1 := by
  refine ⟨(tFocus _).1, ?_, by decide +kernel, by decide +kernel, ?_, ?_, ?_⟩
  · rw [(tFocus _).2]; exact tMay _
  · rw [show mmaA tMmaOp 31 15 = .fin false 0 (-133) by decide +kernel]; simp [rational]
  · rw [show mmaB tState tMmaOp 15 63 = .fin false 0 (-133) by decide +kernel]; simp [rational]
  · rw [show mmaEa { tMmaOp with form := tMma .e4m3, scaled := true, aScale := [(31, 0x7F)] } 31 0 = .fin false 1 0 by decide +kernel]; simp [rational]

/-! ### Witnesses: clauses, engines, the broadcast layer -/

/-- A group whose queue holds one entry that has not started. -/
def tHead (k : QKind) (target : BitVec 16) : State := tCur fun g =>
  { g with queue := [{ kind := k, addr := 0x10000, target := target }] }

/-- A clause at the head whose header, at 0x10000, waits for flag 0; the flag's count. -/
def tWaits (count : Nat) : State :=
  { memWrite (tCur fun g => { g with queue := [{ kind := .clause, addr := 0x10000 }], flags := vset g.flags 0 count }) 0x10000
      (littleEndian (0xF0030010 * 2 ^ 64) 12) with hist := tState.hist }

/-- The current group is in focus. -/
theorem tFocusOf (s : State) (h1 : s.cur.key = tKey) (h2 : s.cur.status = .resident) (h3 : s.crew.key = tKey) :
    findGroup s tKey = some s.cur ∧ focus s tKey = s := by
  have h4 : crewKey tKey = tKey := rfl
  exact ⟨by simp [findGroup, h1, h2], by simp [focus, focusCrew, h1, h3, h4]⟩

theorem wit_ClauseEvents :
    findGroup (tHead .setp 7) tKey = some (tHead .setp 7).cur ∧ focus (tHead .setp 7) tKey = tHead .setp 7 ∧
      fillGranules (tHead .setp 7) [31] = .ok (tHead .setp 7) ∧ ((tHead .clause 0).cur.queue.head?.map (·.started)) = some false ∧
      (match fetchWords (tCur fun g => { g with ptbase := 0, queue := [{ kind := .clause, addr := 0x10000 }] }) .laneFetch 0x10000 3 with
        | .error _ => true | .ok _ => false) = true ∧
      (match fetchWords (tHead .clause 0) .laneFetch 0x10000 3 with
        | .error _ => false | .ok (bs, _) => (decodeHeader (laneWordOf bs)).isNone) = true ∧
      (match fetchWords (tWaits 1) .laneFetch 0x10000 3 with
        | .error _ => false
        | .ok (bs, _) => (decodeHeader (laneWordOf bs)).any fun h => h.wait = 1 ∧ h.count = 3 ∧ vget (tWaits 1).cur.flags 0 0 ≠ 0 ∧
          ∀ i : Fin 12, h.wait.getLsbD i = true → vget (tWaits 0).cur.flags i 0 = 0) = true ∧
      isPending (tHead .vput 0x1FFF).cur (255 * 32 + 31) = false ∧ fillGranules (tHead .vput 0x1FFF) [31] = .ok (tHead .vput 0x1FFF) ∧
      ((tHead .prng 0).cur.queue.head?.map (·.kind)) = some .prng ∧ ((tHead .fewait 0).cur.queue.head?.map (·.kind)) = some .fewait := by
  refine ⟨(tFocusOf _ rfl rfl rfl).1, (tFocusOf _ rfl rfl rfl).2, fill_none _ (by decide +kernel) _, with5 (by decide +kernel) ⟨fill_none _
    (by decide +kernel) _, by decide +kernel⟩⟩

/-- An engine operation of the group. -/
def tEng (k : OpKind) (st : OpStage) : EngOp :=
  { id := 1, grp := tKey, cluster := 0, core := 0, asid := tState.cur.asid, ptbase := tState.cur.ptbase, priv := false, kind := k, target := .tag 1,
    stage := st, issued := 0, mark := 0, count := 8, expiry := 0, after := [], owned := [], lost := [], port := none, move := none }

/-- In flight alone. -/
def tOps (k : OpKind) (st : OpStage) : State := { tState with ops := [tEng k st] }

/-- A cluster holds a word alone. -/
def tDirty (s : State) (pa : Nat) : State :=
  { s with dir := [{ addr := pa, holders := [(0, .modified)], l1 := [], version := 0, grantee := some 0 }] }

theorem wit_EngineCompletion :
    findOp (tOps (.cpy 0x20000 0x20080 8) (.ended 5)) 1 = some (tEng (.cpy 0x20000 0x20080 8) (.ended 5)) ∧
      (engineRuns (tOps (.skcmd [] 0x20038 7) (.ended 0)) (opActor (tEng (.skcmd [] 0x20038 7) (.ended 0))) .store 0x20038 8 = .ok [tRun 0x20038 8] ∧
        firstErr (storeErr (tOps (.skcmd [] 0x20038 7) (.ended 0))) [tRun 0x20038 8] = none) ∧
      rowsClash [{ src := 0x20000, dst := 0x20007, len := 8 }] = true ∧ rowsClash (rows2d 0x20000 0x30000 8 2 0x100 7) = true ∧
      (rowsClash [{ src := 0, dst := 0xFFFF00000000, len := 8 }] = false ∧
        (rowsRefused tState (opActor (tEng (.cpy 0 0 8) .issued)) [{ src := 0, dst := 0xFFFF00000000, len := 8 }]).isSome) ∧
      (rowsClash [{ src := 0x20000, dst := 0x20178, len := 8 }] = false ∧ 8 + (0x20178#64).toNat % 128 ≤ 128 ∧
        chunkFails tState (opActor (tEng (.cpy 0x20000 0x20178 8) .issued)) { src := 0x20000, dst := 0x20178, len := 8 } = none ∧
        engineRuns tState (opActor (tEng (.cpy 0x20000 0x20178 8) .issued)) .load 0x20000 8 = .ok [tRun 0x20000 8] ∧
        engineRuns (readMarks tState (opActor (tEng (.cpy 0x20000 0x20178 8) .issued)) [(0x20000, 8)])
          (opActor (tEng (.cpy 0x20000 0x20178 8) .issued)) .store 0x20178 8 = .ok [tRun 0x20178 8] ∧
        tState.hist.length = 0) ∧
      (ownsAll (tEng (.cpy 0 0 8) .issued) = true ∧
        ownsAll { tEng (.cpy 0 0 8) .issued with owned := [{ pa := 0, len := 8, slot := some 1, seq := 0 }] } = false) ∧
      (devReady tState (ownedBy tState (opActor (tEng (.skcmd [] 0x20038 7) (.ended 0))) [{ src := 0, dst := 0x20038, len := 8 }]) = true ∧
        devReady (tDirty tState 0x20038) (ownedBy (tDirty tState 0x20038) (opActor (tEng (.skcmd [] 0x20038 7) (.ended 0)))
          [{ src := 0, dst := 0x20038, len := 8 }]) = false) := by
  refine ⟨rfl, ?_, ?_, ?_, ?_, ?_, ?_, ?_⟩ <;> decide +kernel

/-- Tables of one window, one peer and one sent-complete entry: window 0 of 0x1000 bytes at 0x20000, with PUT and GET. -/
def tPeer : State :=
  let s := memWrite tState 0x30000 (littleEndian 0x0000100000000000 8 ++ littleEndian (7 + tState.cur.asid.toNat * 2 ^ 16 +
    tState.cur.ptbase.toNat / 4096 * 2 ^ 76) 16 ++ littleEndian 0 8 ++ littleEndian 0x20000 8)
  let s1 := memWrite s 0x31004 (littleEndian 0x80000000 4)
  let s2 := memWrite s1 0x32000 (littleEndian 0x8000000100000000 8)
  { s2 with mgmt := s.mgmt ++ [(0xF200, 0), (0xF710, 0x31000), (0xF718, 0x30000), (0xF720, 1), (0xF728, 0x32000), (0xF730, 1)] }

/-- The window as the tables give it. -/
def tWin : Window :=
  { at_ := 0x30000, put := true, get := true, len := 0x1000, base := 0x20000
    actor := { asid := tState.cur.asid, ptbase := tState.cur.ptbase, priv := false, holder := 641, band := none } }

/-- tPeer with an operation in flight. -/
def tFar (k : OpKind) : State := { tPeer with ops := [tEng k .issued] }

theorem wit_RemoteOperations :
    (findOp (tFar (.put 0x0001000000000000 0x20000 8)) 1).isSome ∧
      putFailure (tFar (.put 0x0001000000000000 0x20000 8)) (tEng (.put 0x0001000000000000 0x20000 8) .issued) 0x0001000000000000 0x20000 8 = none ∧
      sentEntry (tFar (.put 0x0001000000000000 0x20000 8)) 1 0 = some 0x32000 ∧ remoteStatus 9 = true ∧
      putFailure tPeer (tEng (.put 0x0002000000000000 0x20000 8) .issued) 0x0002000000000000 0x20000 8 = some 9 ∧
      (pagesBad tPeer (tEng (.get 0x20000 0 8) .issued) .store 0x20000 8 = none ∧ peerAway tPeer 1 = false ∧
        engineRuns tPeer (opActor (tEng (.get 0x20078 0 8) .issued)) .store 0x20078 8 = .ok [tRun 0x20078 8] ∧
        firstErr (storeErr tPeer) [tRun 0x20078 8] = none) ∧
      peerAway tPeer 0xFFFF = true ∧ (pagesBad tPeer (tEng (.get 0xFFFF00000000 0 8) .issued) .store 0xFFFF00000000 8).isSome ∧
      (windowFor tPeer 0 0xFF9 8 true = .error 9 ∧ windowFor tPeer 1 0 8 false = .error 9) ∧
      (windowFor tPeer 0 0xFF8 8 true = .ok tWin ∧ engineRuns tPeer tWin.actor .store 0x20FF8 8 = .ok [tRun 0x20FF8 8] ∧
        firstErr (storeErr tPeer) [tRun 0x20FF8 8] = none) ∧
      (windowFor tPeer 0 0 0x1000 false = .ok tWin ∧ engineRuns tPeer tWin.actor .load 0x20000 0x1000 = .ok [tRun 0x20000 0x1000] ∧
        sourceBad tPeer [tRun 0x20000 0x1000] = none) ∧
      (linkOut tPeer 1 = some 0 ∧ linkOut { tPeer with mgmt := (0xF200, BitVec.ofNat 64 (2 ^ 62)) :: tPeer.mgmt } 1 = none ∧
        peerAway { tPeer with mgmt := (0xF200, BitVec.ofNat 64 (2 ^ 62)) :: tPeer.mgmt } 1 = false) ∧
      (devReady tPeer [(0x32000 + 8, 8)] = true ∧ devReady (tDirty tPeer 0x32008) [(0x32000 + 8, 8)] = false ∧
        devReady tPeer (putPlaces tPeer tWin 0xFF8 8) = true ∧ devReady (tDirty tPeer 0x3001C) (putPlaces (tDirty tPeer 0x3001C) tWin 0xFF8 8) = false) ∧
      ({ tEng (.get 0x20078 0 8) .issued with port := some 0 } : EngOp).port ≠ none ∧ (tEng (.get 0x20078 0 8) .issued).port = none := by
  exact ⟨rfl, with6 (by decide +kernel) (with5 (by decide +kernel) (by decide +kernel))⟩

/-- A slot of writer 3 in frame 5. -/
def tSlot (m : Msg) : Slot := { id := 1, frame := 5, writer := 3, msg := m, last := 5, resent := 0 }

/-- It is the next of plane 0. -/
def tPlane (x : Slot) (bad : Option (Nat × Nat)) : State :=
  { tState with planes := { idlePlane with sent := [x], bad := bad } :: List.replicate 7 idlePlane, time := 48 }

theorem wit_CoherenceMessages :
    headSlot (tPlane (tSlot (.gets 8 1 0 0)) none) 0 = some (tSlot (.gets 8 1 0 0)) ∧ (tSlot (.gets 8 1 0 0)).writer < 64 ∧
      headSlot (tPlane (tSlot (.getm 8 1 0 0)) none) 0 = some (tSlot (.getm 8 1 0 0)) ∧
      headSlot (tPlane (tSlot (.upgrade 8 1 0 0)) none) 0 = some (tSlot (.upgrade 8 1 0 0)) ∧
      headSlot (tPlane (tSlot (.inv 8 1)) none) 0 = some (tSlot (.inv 8 1)) ∧
      headSlot (tPlane (tSlot (.putm 8 1 0)) none) 0 = some (tSlot (.putm 8 1 0)) ∧
      headSlot (tPlane (tSlot (.poison 8 1)) none) 0 = some (tSlot (.poison 8 1)) ∧
      headSlot (tPlane (tSlot (.tlbinv 1)) none) 0 = some (tSlot (.tlbinv 1)) ∧ (tInval [95]).invals.find? (fun i => i.id = 1) =
        some (tInv [95]) ∧
      headSlot (tPlane (tSlot (.ack 1)) none) 0 = some (tSlot (.ack 1)) :=
  ⟨rfl, by decide, rfl, rfl, rfl, rfl, rfl, rfl, by decide +kernel, rfl⟩

/-- A subscription of the crew takes writer 3's line 32. -/
def tTakes : State :=
  let s := tPlane (tSlot (.bcast 32 (List.replicate 128 7) tKey)) none
  { s with crew := { s.crew with subs := [{ tSubOf 0 with writers := 8 }], bbs := [{ blankBar with inited := true }] } }

theorem wit_BroadcastFrames :
    headSlot (tPlane (tSlot (.bcast 33 [] tKey)) none) 0 = some (tSlot (.bcast 33 [] tKey)) ∧
      (∀ c ∈ allCrews (tPlane (tSlot (.bcast 33 [] tKey)) none), ∀ v ∈ c.subs, subTakes v (tSlot (.bcast 33 [] tKey)) 33 = false) ∧
      headSlot tTakes 0 = some (tSlot (.bcast 32 (List.replicate 128 7) tKey)) ∧
      (allCrews tTakes).filter (fun c => c.subs.any fun v => subTakes v (tSlot (.bcast 32 (List.replicate 128 7) tKey)) 32) = [tTakes.crew] ∧
      tTakes.crew.subs.filter (fun v => subTakes v (tSlot (.bcast 32 (List.replicate 128 7) tKey)) 32) = [{ tSubOf 0 with writers := 8 }] ∧
      tTakes.crew.halt = .running ∧ findCrew tTakes tTakes.crew.key = some tTakes.crew ∧
      (∀ x ∈ (nth tState.planes (planeOf 8) idlePlane).pend ++ (nth tState.planes (planeOf 8) idlePlane).sent, ∀ m' co ag,
        ¬ (x.writer = 0 ∧ x.msg = .gets 8 m' co ag)) ∧
      ((∃ i ∈ (tInval [95]).invals, 95 ∈ i.waiting) ∧ 0 < (tInval [95]).planes.length ∧
        (∀ q ∈ (tInval [95]).planes, q.pend ++ q.sent = []) ∧ (∀ g ∈ allGroups (tInval [95]), g.outs = [])) ∧
      (tPlane (tSlot (.ack 1)) none).lastFrame < frameOf (tPlane (tSlot (.ack 1)) none) ∧ frameOf tState ≤ tState.lastFrame ∧
      ({ tSubOf 0 with writers := 8 }.since < 5 ∧ subTakes { tSubOf 0 with writers := 8, since := 5 } (tSlot (.bcast 32 [] tKey)) 32 = true) ∧
      filterRoom tState 8 = true ∧ filterRoom (tDirty tState 1024) 8 = false ∧
      ((⟨0, 8, 3, 1, 9⟩ : Request).mask &&& ~~~((1 : W32) ||| 0) ≠ 0 ∧
        (⟨0, 8, 3, 1, 9⟩ : Request).mask &&& ~~~((1 : W32) ||| 2) = 0 ∧ slotApplied tState 8 9 = true) := by
  refine with6 (by decide +kernel) ⟨by decide +kernel, ?_, by decide +kernel⟩
  have : (nth tState.planes (planeOf 8) idlePlane).pend ++ (nth tState.planes (planeOf 8) idlePlane).sent = [] := by decide +kernel
  simp [this]

/-- Wavelength 0 of plane 0 and group 0 belongs to writer 3. -/
def tWave : State :=
  let s := tPlane (tSlot (.inv 8 1)) (some (3, 5))
  { s with mgmt := s.mgmt ++ [(buntingOff 0 0 0, 3 * 2 ^ 54)] }

/-- Plane 0 holds at writer 3's slot of frame 5; reader 7 has sent NACK in frame 5 and HOLD, and a control slot of frame 6 waits; the
frame is f. -/
def tHeld (m : Msg) (w again f : Nat) (replays : List (Nat × Nat × Nat)) : State :=
  { tState with
    time := 8 * f
    planes := { idlePlane with
      sent := [{ tSlot (.inv 8 1) with last := again }, { id := 2, frame := 6, writer := w, msg := m, last := 6, resent := 0 }]
      kept := [tSlot (.inv 8 1)], bad := some (3, 5), readers := [(7, 5)], holds := [7], replays := replays } :: List.replicate 7 idlePlane }

/-- A plane whose slot of writer 3 was unreadable again after a spare took over. -/
def tRetaken : Plane :=
  { idlePlane with sent := [{ tSlot (.inv 8 1) with resent := 1 }], bad := some (3, 5), takeover := some 5, retuning := true }

theorem wit_DamagedSlots :
    (7 ∈ presentWriters (tPlane (tSlot (.inv 8 1)) none) ∧ (nth (tPlane (tSlot (.inv 8 1)) none).planes 0 idlePlane).bad = none ∧
        firstSlot (tPlane (tSlot (.inv 8 1)) none) 0 = some (tSlot (.inv 8 1)) ∧ 5 + 16 ≤ frameOf { tState with time := 200 }) ∧
      (7 ∈ presentWriters (tHeld (.hold true) 7 5 21 []) ∧ (nth (tHeld (.hold true) 7 5 21 []).planes 0 idlePlane).bad = some (3, 5) ∧
        (nth (tHeld (.hold true) 7 5 21 []).planes 0 idlePlane).readers = [(7, 5)] ∧ 5 + 16 ≤ frameOf (tHeld (.hold true) 7 5 21 []) ∧
        (nth (tHeld (.hold true) 7 5 21 []).planes 0 idlePlane).replays = []) ∧
      ((headControl (tHeld (.nack 3 5) 7 5 6 []) 0).map (·.msg) = some (.nack 3 5) ∧
        (headControl (tHeld (.nack 3 5) 7 5 6 []) 0).map (fun x => awaitsRetune (takeSlot (tHeld (.nack 3 5) 7 5 6 []) 0 x) 0 3 5) = some false ∧
        ∃ y ∈ (nth (tHeld (.nack 3 5) 7 5 6 []).planes 0 idlePlane).kept, y.writer = 3 ∧ 5 ≤ y.frame) ∧
      ((headControl (tHeld (.nack 3 5) 7 5 6 [(3, 6, 9)]) 0).map (·.msg) = some (.nack 3 5) ∧
        (nth (tHeld (.nack 3 5) 7 5 6 [(3, 6, 9)]).planes 0 idlePlane).replays.find? (fun y => y.1 = 3) = some (3, 6, 9)) ∧
      (headControl (tPlane (tSlot (.nack 0 5)) none) 0 = some (tSlot (.nack 0 5)) ∧
        ∀ y ∈ (nth (tPlane (tSlot (.nack 0 5)) none).planes 0 idlePlane).kept, y.writer = 0 → y.frame < 5) ∧
      (tRetaken.sent.any (fun x => x.writer = 3 && x.frame = 5 && x.resent ≠ 0) = true ∧
        awaitsRetune { tState with planes := [tRetaken] } 0 3 5 = true) ∧
      headControl (tPlane (tSlot (.hold true)) none) 0 = some (tSlot (.hold true)) ∧
      headControl (tPlane (tSlot (.hold false)) none) 0 = some (tSlot (.hold false)) ∧
      ((headControl (tHeld (.replay 5 6) 3 5 6 [(3, 5, 6)]) 0).map (·.msg) = some (.replay 5 6) ∧
        (∀ y ∈ (nth (tHeld (.replay 5 6) 3 5 6 [(3, 5, 6)]).planes 0 idlePlane).again, y.1 ≠ 3) ∧
        (nth (tHeld (.replay 5 6) 3 5 6 [(3, 5, 6)]).planes 0 idlePlane).bad = some (3, 5)) ∧
      ((headControl (onPlane (tHeld (.replay 5 6) 3 5 6 [(3, 5, 6)]) 0 fun q => { q with again := [(3, 1)] }) 0).map (·.msg) = some (.replay 5 6) ∧
        ∃ y ∈ (nth (onPlane (tHeld (.replay 5 6) 3 5 6 [(3, 5, 6)]) 0 fun q => { q with again := [(3, 1)] }).planes 0 idlePlane).again, y.1 = 3) ∧
      underWay (nth (tHeld (.replay 5 6) 3 5 6 []).planes 0 idlePlane) 7 (.hold false) = false :=
  by decide +kernel

theorem wit_WavesAndHeartbeats :
    (mgmtField tWave (buntingOff 0 0 0) 63 62 = 0 ∧ (nth tWave.planes 0 idlePlane).bad = some (3, 5) ∧ mgmtField tWave (buntingOff 0 0 0) 60 54 = 3 ∧
        mgmtField tWave (buntingOff 0 0 0) 61 61 = 0 ∧ (nth tWave.planes 0 idlePlane).retuning = false ∧
        (nth (onPlane tWave 0 fun q => { q with retuning := true }).planes 0 idlePlane).retuning = true ∧
        (nth (onPlane tWave 0 fun q => { q with retuning := true, bad := none }).planes 0 idlePlane).bad = none) ∧
      (isDead tState 79 = false ∧ tState.mute.contains 79 = false ∧ 79 ∈ presentWriters { tState with time := 30000 } ∧
        lastBeat { tState with time := 30000 } 79 + 30000 ≤ 30000) ∧
      (({ idlePlane with bad := some (3, 5), readers := [(7, 5)], takeover := some 5 } : Plane).takeover = some 5 ∧
        isHeld tRetaken = true ∧ isHeld { tRetaken with bad := none } = true ∧
        5 + 1250 ≤ frameOf { tState with time := 10040 }) ∧ (0 < tState.planes.length ∧ 8 ≤ tState.planes.length) :=
  by decide +kernel

/-! ### Witnesses of further cases -/

/-- Granules 1 and 31 of the group are absent, under page tables that map nothing. -/
def tAbsent (f : Group → Group) : State := tCur fun g => f { g with absent := [1, 31], fillPt := 0 }

/-- A computation that fails. -/
def exFails {ε α : Type} (x : Except ε α) : Bool := x.toOption.isNone

theorem wit_FailingFills :
    (exFails (fillGranules (tAbsent id) ((List.range (sreg tState 6).toNat).map ((sreg tState 7).toNat + ·))) = true ∧ (tAbsent id).cur.status = .resident) ∧
      exFails (fillGranules (tAbsent id) [(15#8).toNat / 8]) = true ∧
      exFails (fillGranules (tAbsent fun g => { g with queue := (tHead .vput 0x1FFF).cur.queue }) [255 / 8]) = true ∧
      (laneParts tClause.fmt (.iadd (tAbc .i32 0 0))).any (fun p => exFails (fillGranules (tAbsent fun g => { g with queue := [tClause] })
        (firstGranules (.iadd (tAbc .i32 0 0)) p (tAbsent fun g => { g with queue := [tClause] }).cur (tEnv p.pr)))) = true ∧
      (31 ∈ granulesWanted (tAbsent fun g => { g with queue := (tHead .vput 0x1FFF).cur.queue }) (tAbsent fun g => { g with queue := (tHead .vput 0x1FFF).cur.queue }).cur ∧
        1 ∉ granulesWanted (tAbsent fun g => { g with queue := (tHead .vput 0x1FFF).cur.queue }) (tAbsent fun g => { g with queue := (tHead .vput 0x1FFF).cur.queue }).cur) := by
  refine ⟨?_, ?_, ?_, ?_, ?_⟩ <;> decide +kernel

/-- A declaration that failed, for which the group waits. -/
def tFailed (q : List QEntry) : State :=
  { (tCur fun g => { g with wait := .decl 1, queue := q }) with declOps := [{ id := 1, cluster := 0, block := [], asked := false, result := some 3, port := none }] }

/-- Two interests of the crew in one pennant. -/
def tInterests : State := { tState with ops := [tEng (.nreq 0 true 0x10000000000) .sent, { tEng (.nreq 0 true 0x10000000000) .sent with id := 2 }] }

theorem wit_FailingTraps :
    (∃ b, (tCur fun g => { g with region := some b }).cur.region.isSome ∧ tState.cur.status = .resident) ∧
      ((tCur fun g => { g with wait := .lock 3 0xFFFF00000000 }).cur.wait = .lock 3 0xFFFF00000000 ∧
        (match loadAt (tCur fun g => { g with wait := .lock 3 0xFFFF00000000 }) 0 0xFFFF00000000 8 with | .err _ => true | _ => false) = true) ∧
      (tCur fun g => { g with tsave := 0x40001 }).cur.tsave.toNat % 4096 ≠ 0 ∧
      (exFails (areaPages storeErr (tCur fun g => { g with handler := true, ptbase := 0 }) .store 0x300 0x11) = true ∧
        exFails (areaPages storeErr (tCur fun g => { g with handler := true, tsave := 0x3FFFF000 }) .store 0x300 0x11) = false ∧
        exFails (areaPages storeErr (tCur fun g => { g with handler := true, tsave := 0x3FFFF000 }) .store 0x1000 0x4000) = true ∧
        exFails (areaPages loadErr (tCur fun g => { g with handler := true, msaved := true, ptbase := 0 }) .load 0x300 0x11) = true ∧
        exFails (areaPages loadErr (tCur fun g => { g with handler := true, msaved := true, tsave := 0x3FFFF000 }) .load 0x1000 0x4000) = true) ∧
      ((trapWaits (tFailed []) false).isNone = true ∧ (trapWaits (tFailed [tClause]) false).isSome = true) ∧
      ((cancelled tInterests 0x10000000000 false 1).map (·.id) = [1, 2] ∧ tileComing tInterests 0 0x10000000000 = false) ∧
      ((trapWaits (tMem 0) true).isNone = true ∧ (trapWaits (tOut (tOp false .plain)) true).isSome = true) := by
  refine ⟨⟨0, ?_⟩, ?_, ?_, ?_, ?_, ?_, ?_⟩ <;> decide +kernel

/-- A load of a word at an odd address. -/
def tOdd : Instr := .laneLd (tLm (.v 3) .i32 0 0 1)

theorem wit_Misaligned :
    ∃ m v u, MemFrame (tMem 1) tOdd m v ∧ addressesKnown (tMem 1) m v = some u ∧ 0 ∈ lanesOf v.active ∧
      (lmEa m.x v u 0).toNat % laneAlign tOdd ≠ 0 := by
  refine ⟨_, { laneEnv (tMem 1).cur ((tMem 1).cur.queue.headD tClause) tP0 with helpers := 0 }, tMem 1,
    ⟨rfl, ?_, rfl, rfl, ?_, ?_⟩, ?_, ?_, ?_⟩
  case refine_4 => rw [addressesKnown, fill_none _ (by decide +kernel)]; rfl
  all_goals decide +kernel

theorem wit_TileStores :
    (∃ m, matParts (.accst (tLm (.v 0) .f32 0 0 0)) = some m ∧ releaseDone (tLm (.v 0) .f32 0 0 0) (tMem 0xFFFFFFFF) ∧
        tReachBool (tMem 0xFFFFFFFF) (tLm (.v 0) .f32 0 0 0) (tMatEnv m) (lanesOf (tMatEnv m).active)
          (laneChk (tMatEnv m).e.fmt (tMem 0xFFFFFFFF) (.accst (tLm (.v 0) .f32 0 0 0))) true = true) ∧
      (dstReady (tOut (tOp false .plain)) (0, 0x20000, 2) = true ∧ dstReady (tDirty (tCur fun g => { g with cluster := 1 }) 0x20000) (0, 0x20000, 0) = false) ∧
      (∀ e ∈ (tOut (tOp false .plain)).cur.scOpen, e.use ≠ .tile 3) ∧
      (mmaPair .bf16 .bf16).isSome = true ∧ mmaEa { tMmaOp with form := tMma .e4m3, scaled := true, aScale := [(31, 0xFF)] } 31 0 = .nan ∧
      mmaA { tMmaOp with aData := [(31, 0x7FC07FC0)] } 31 0 = .nan ∧
      (scMay (tFe true 1) .lane 0 0 2 = true ∧ ownedByEngine (tFe true 1) (scratchPa 0 0 0x100) 4 = false) := by
  refine ⟨⟨_, rfl, fun h => absurd h (by decide), ?_⟩, ?_, ?_, ?_, ?_, ?_, ?_⟩ <;> decide +kernel

/-- Word 1024 was last granted to cluster 2, which is fenced, and the home's POISON is under way; slot 1 is an INV of a host's write. -/
def tServed : State :=
  { tPlane (tSlot (.inv 8 1)) none with
    dead := [(2, 0)], dir := [{ addr := 1024, holders := [(2, .modified)], l1 := [], version := 0, grantee := some 2 }]
    planes := (List.range 8).map fun _ => { idlePlane with pend := [{ tSlot (.poison 8 1) with id := 9, writer := 64 }] }
    hostWrites := [{ slot := 1, pa := 1024, bytes := [5] }] }

theorem wit_ServedWords :
    poisonDue tServed 1024 = true ∧ poisonDue tState 1024 = false ∧
      tServed.hostWrites.find? (fun w => w.slot = (tSlot (.inv 8 1)).id) = some { slot := 1, pa := 1024, bytes := [5] } ∧
      scFind tState.cur (.window 1) = none ∧
      (scFind (tCur fun g => { g with scOpen := [{ use := .window 1, slots := [1], place := scHere tState 0 }] }).cur (.window 1)).isSome = true :=
  by decide +kernel

/-! ### Witnesses: named tiles, Loam -/

/-- The pennant of tensor 1, tile 0, iteration 0. -/
def tPn : W64 := 0x10000000000

/-- A declaration block: one line of i8, LIFE 1, homed here. -/
def tBlock : List Byte := littleEndian (2 ^ 40 + 2 ^ 64 + 0xFFFF * 2 ^ 160) 64

/-- A message at a site, from router 1. -/
def tMsg (k : NetKind) (site : Nat) : NetMsg := { plainMsg k site (.router 1) tPn with expiry := 9000, op := 1 }

/-- It is on its way; the router's tables; the operations in flight; the time is 5000. -/
def tNet (m : NetMsg) (x : Router) (ops : List EngOp) : State :=
  { tState with net := [m], routers := [(2, x)], ops := ops, time := 5000, decls := [{ tnum := 1, block := tBlock, producers := [] }] }

/-- Empty tables. -/
def tRt : Router := { pit := [], store := [], waiting := [] }
/-- A tile of one line. -/
def tTile (spilled : Bool) : Stored := { pennant := tPn, bytes := List.replicate 128 9, till := 5000, spilled := spilled }
/-- An entry. -/
def tEnt (tomb : Bool) : PitEntry := { pennant := tPn, faces := [.router 1], mask := 0x7F, expiry := 4999, path := [3], tomb := tomb, dest := 0xFFFF, hops := 0 }

/-- The declaration of `tBlock` with its home on device 5. -/
def tAway : List Byte := littleEndian (2 ^ 40 + 2 ^ 64 + 5 * 2 ^ 160) 64

/-- A cluster's declaration on its way to its router, or the answer of device 5, and the operation it belongs to, asked or not; port 0 is up
and, with `table`, leads to device 5. -/
def tDecl (b : List Byte) (asked table : Bool) : State :=
  { (if table then memWrite tState 20 (littleEndian (2 ^ 31) 4) else tState) with
    mgmt := tState.mgmt ++ [(portOff 0 0, 0), (0xF700, 1)], declOps := [{ id := 1, cluster := 0, block := b, asked := asked, port := none, result := none }]
    net := [{ plainMsg .declare 2 .loc 0 with bytes := b, op := 1 }, { plainMsg .declare 2 (.port 0) 0 with bytes := b, op := 1, dev := 5 },
      { plainMsg .declared 2 (.port 0) 0 with bytes := [0], op := 1, dev := 5 }] }

theorem wit_Declarations :
    ((tDecl tBlock false false).net.all (arrives (tDecl tBlock false false)) = true ∧
        (tDecl tBlock false false).declOps.find? (fun o => o.id = 1 && !o.asked && o.result.isNone) = some ⟨1, 0, tBlock, false, none, none⟩ ∧
        declPending (tDecl tBlock false false) tBlock = false ∧ declsFull (tDecl tBlock false false) = false ∧
        declPending (tDecl tBlock true false) tBlock = true) ∧
      ({ plainMsg .declare 2 (.port 0) 0 with dest := 9 } : NetMsg).hops < 7 ∧
      (homeHere (tDecl tAway false true) 5 = false ∧ portTo (tDecl tAway false false) 5 = none ∧
        inTransit (tDecl tAway false true) { tMsg .publication 2 with frm := .port 0, dest := 5 } = some 0 ∧
        inTransit (tDecl tAway false true) (tMsg .publication 2) = none) ∧
      declMalformed [] = true ∧ (declMalformed tBlock = false ∧ blockField tBlock 63 40 = 1 ∧ declOf tState 1 = none ∧ declsHeld tState < 1024 ∧
        homeHere tState (declHome tBlock) = true) ∧
      (declOf (tNet (tMsg .interest 2) tRt []) 1).isSome ∧ (List.replicate 1024 tBlock).length = 1024 ∧
      (∀ s : State, s.decls = List.replicate 1024 { tnum := 9, block := tBlock, producers := [] } → declOf s 1 = none ∧ 1024 ≤ s.decls.length) ∧
      (homeHere (tDecl tAway false false) (declHome tAway) = false ∧ declMalformed tAway = false ∧ portTo (tDecl tAway false false) (declHome tAway) = none ∧
        portTo (tDecl tAway false true) (declHome tAway) = some 0) ∧
      (tDecl tAway true true).declOps.find? (fun o => o.id = 1 && o.asked && o.result.isNone) = some ⟨1, 0, tAway, true, none, none⟩ ∧
      (declStatus tState 0 tBlock = 0 ∧ declStatus tState 0 [] ≠ 0) := by
  refine ⟨?_, ?_, ?_, ?_, ?_, ?_, List.length_replicate, fun s h => ⟨?_, ?_⟩, ?_⟩
  any_goals decide +kernel
  · rw [declOf, h, List.find?_eq_none]
    intro d hd
    rw [List.eq_of_mem_replicate hd]
    decide
  · rw [h, List.length_replicate]

theorem wit_NamedRouters :
      (arrives (tNet (tMsg .interest 2) tRt []) (tMsg .interest 2) = true ∧ (tMsg .interest 2).site < 80 ∧
        interestPath (takeMsg (tNet (tMsg .interest 2) tRt []) (tMsg .interest 2)) (tMsg .interest 2) = some [] ∧
        interestPath tState { tMsg .interest 2 with path := [3] } = some [3] ∧
        interestPath (tDecl tAway false false) { tMsg .interest 2 with frm := .port 0, dest := 5 } = none) ∧
      (routerDead tState 2 = false ∧ routerDead { tState with dead := [(64, 0)] } 16 = true) ∧
      storedAt { tRt with store := [tTile false] } tPn = some (tTile false) ∧ hasTomb { tRt with pit := [tEnt true] } tPn = true ∧
      (storedAt tRt tPn = none ∧ hasTomb tRt tPn = false ∧ pitFind tRt tPn = none ∧ tRt.pit.length < 4096) ∧
      pitFind { tRt with pit := [tEnt false] } tPn = some (tEnt false) ∧
      (pitFind { tRt with pit := List.replicate 4096 { tEnt false with pennant := 0 } } tPn = none ∧
        4096 ≤ (List.replicate 4096 { tEnt false with pennant := 0 }).length) ∧
      (wantOf { tState with wants := [{ cluster := 63, pennant := tPn, retries := 0, resend := some 0 }] } 63 tPn).isSome ∧
      localRecords { tState with ops := [tEng (.nreq 0 true tPn) .sent] } 0 tPn ≠ [] ∧
      storedAt { tRt with store := [tTile true] } tPn = some (tTile true) ∧ storeUse { tRt with store := [tTile true] } + 128 / 128 ≤ 32768 := by
  refine with6 (by decide +kernel) ⟨⟨?_, by rw [List.length_replicate]⟩, by decide +kernel⟩
  simp only [pitFind, List.find?_eq_none]
  intro e he
  rw [List.eq_of_mem_replicate he]
  decide

/-- A publication of one line at a site; its router's tables. -/
def tPub (r : Nat) (x : Router) (frm : Face) (dev : Nat) : NetMsg × State :=
  let m : NetMsg := { plainMsg .publication r frm tPn with bytes := List.replicate 128 9, op := 1, dev := dev }
  (m, { tNet m x [tEng (.npub 0x20000 tPn false) .sent] with routers := [(r, x)] })

/-- The rendezvous router is one of the 80, whichever are enabled. -/
theorem tRdv : rdvRouter tPn < 80 := by
  unfold rdvRouter nth
  have : ∀ x ∈ enabledRouters, x < 80 := fun x hx => List.mem_range.1 (List.mem_filter.1 hx).1
  generalize hk : (_ : Nat) % max 1 enabledRouters.length = k
  cases h : enabledRouters[k]? with
  | none => simp
  | some x => exact this x (List.mem_of_getElem? h)

theorem wit_Publications :
    ((tPub (rdvRouter tPn) tRt (.router 1) 0xFFFF).1.site = rdvRouter tPn ∧ (∃ r, r < 80 ∧ r ≠ rdvRouter tPn)) ∧
      (arrives (tPub (rdvRouter tPn) tRt (.router 1) 0xFFFF).2 (tPub (rdvRouter tPn) tRt (.router 1) 0xFFFF).1 = true ∧
        (pubOp (tPub (rdvRouter tPn) tRt (.router 1) 0xFFFF).2 (tPub (rdvRouter tPn) tRt (.router 1) 0xFFFF).1).isSome = true ∧
        (tPub (rdvRouter tPn) tRt (.router 1) 0xFFFF).1.bytes ≠ [] ∧ routerDead (tPub (rdvRouter tPn) tRt (.router 1) 0xFFFF).2 (rdvRouter tPn) = false) ∧
      pubRefused (tPub (rdvRouter tPn) tRt (.router 1) 0xFFFF).2 (rdvRouter tPn) (tPub (rdvRouter tPn) tRt (.router 1) 0xFFFF).1
        { tnum := 1, block := tBlock, producers := [] } = false ∧
      (let y := tPub (rdvRouter tPn) { tRt with store := [tTile false] } (.port 0) 5;
        y.1.dev ≠ 0xFFFF ∧ y.1.frm = .port 0 ∧ arrives y.2 y.1 = true ∧ (declOf y.2 1).isSome = true ∧
          pubRefused y.2 (rdvRouter tPn) y.1 { tnum := 1, block := tBlock, producers := [] } = true) ∧
      routerDead { tState with dead := [(64, 0)] } 16 = true := by
  have h : ∀ r, r < 80 →
      (arrives (tPub r tRt (.router 1) 0xFFFF).2 (tPub r tRt (.router 1) 0xFFFF).1 = true ∧
        (pubOp (tPub r tRt (.router 1) 0xFFFF).2 (tPub r tRt (.router 1) 0xFFFF).1).isSome = true ∧
        (tPub r tRt (.router 1) 0xFFFF).1.bytes ≠ [] ∧ routerDead (tPub r tRt (.router 1) 0xFFFF).2 r = false) ∧
      pubRefused (tPub r tRt (.router 1) 0xFFFF).2 r (tPub r tRt (.router 1) 0xFFFF).1 { tnum := 1, block := tBlock, producers := [] } = false ∧
      (let y := tPub r { tRt with store := [tTile false] } (.port 0) 5;
        y.1.dev ≠ 0xFFFF ∧ y.1.frm = .port 0 ∧ arrives y.2 y.1 = true ∧ (declOf y.2 1).isSome = true ∧
          pubRefused y.2 r y.1 { tnum := 1, block := tBlock, producers := [] } = true) :=
    by decide +kernel
  have h1 := h _ tRdv
  refine ⟨⟨rfl, ?_⟩, h1.1, h1.2.1, h1.2.2, by decide +kernel⟩
  by_cases e : 2 = rdvRouter tPn
  · exact ⟨3, by omega, by omega⟩
  · exact ⟨2, by omega, e⟩

theorem wit_NamedDeliveries :
    declOf (tNet (tMsg .publication 2) tRt []) 2 = none ∧
      maskCount (tEnt false).mask < 8 ∧ 8 ≤ maskCount 0xFF ∧ deliveryNum tState 3 = some 0 ∧
      storeUse tRt + (tTile false).bytes.length / 128 ≤ 32768 ∧
      (arrives (tNet (tMsg .delivery 143) tRt []) (tMsg .delivery 143) = true ∧
        localRecords (tNet (tMsg .delivery 80) tRt [tEng (.nreq 0xF80 true tPn) .sent]) 0 tPn = [tEng (.nreq 0xF80 true tPn) .sent] ∧
        recordReady (tNet (tMsg .delivery 80) tRt [tEng (.nreq 0xF80 true tPn) .sent]) (tEng (.nreq 0xF80 true tPn) .sent) = true ∧
        (match recordRuns (tNet (tMsg .delivery 80) tRt []) (tEng (.nreq 0xF80 true tPn) .sent) 0 128 with
          | .ok [r] => decide (firstErr (storeErr tState) [r] = none ∧ r.len = 128 ∧ r.place ≠ .host) | _ => false) = true ∧
        (match recordRuns tState (tEng (.nreq 0x20080 false tPn) .sent) 0 128 with
          | .ok [r] => decide (firstErr (storeErr tState) [r] = none ∧ r.len = 128 ∧ r.place ≠ .host) | _ => false) = true ∧
        (match recordRuns tState (tEng (.nreq 0xF81 true tPn) .sent) 0 128 with | .ok _ => false | .error x => decide (x = 2)) = true) ∧
      headSlot (tPlane (tSlot (.tileDesc 1 tPn 1 0)) none) 0 = some (tSlot (.tileDesc 1 tPn 1 0)) ∧
      headSlot (tPlane (tSlot (.tileChunk 1 0 [])) none) 0 = some (tSlot (.tileChunk 1 0 [])) ∧
      (∀ c ∈ tState.collects, ¬ (c.writer = 3 ∧ c.num = 1)) ∧
      [({ writer := 3, num := 1, pennant := tPn, mask := 1, chunks := 1, descs := 8, done := false, got := [] } : Collect)].find?
        (fun c => c.writer = 3 && c.num = 1) ≠ none := by
  refine by decide +kernel

theorem wit_NamedEnds :
    (findOp { tState with ops := [tEng (.nreq 0 true tPn) .sent] } 1 = some (tEng (.nreq 0 true tPn) .sent) ∧ (tEng (.nreq 0 true tPn) .sent).expiry ≤ 0) ∧
      (pitFind { tRt with pit := [tEnt false] } tPn = some (tEnt false) ∧ (tEnt false).expiry < 5000) ∧ (tTile false).till ≤ 5000 ∧
      (routerAt (tNet (tMsg .drop 2) { tRt with pit := [tEnt true] } []) 2).pit.find? (fun e => e.pennant = tPn && e.tomb) = some (tEnt true) ∧
      (arrives (tNet (tMsg .drop 2) tRt []) (tMsg .drop 2) = true ∧ homeHere tState (pnHome tState tPn) = true ∧ (∃ r, r < 80 ∧ r = rdvRouter tPn) ∧
        (∃ r, r < 80 ∧ r ≠ rdvRouter tPn) ∧ homeHere (tDecl tAway false true) (declHome tAway) = false ∧ portTo (tDecl tAway false true) (declHome tAway) = some 0) ∧
      endsDecl tPn = false ∧ endsDecl (tPn + 0xFFFFFFFFFF) = true ∧
      (neverKind (tMsg .never 80) = true ∧ neverKind { tMsg .unserved 80 with bytes := [0x0C] } = true) ∧
      (∀ f ∈ (tEnt false).faces, f = (tMsg .cancel 2).frm) ∧ (∃ f ∈ [Face.loc, .router 1], f ≠ (tMsg .cancel 2).frm) ∧
      arrives (tNet (tMsg .never 80) tRt []) (tMsg .never 80) = true := by
  refine with4 (by decide +kernel) ⟨⟨by decide +kernel, by decide +kernel, ⟨_, tRdv, rfl⟩, wit_Publications.1.2, by decide +kernel,
    by decide +kernel⟩, by decide +kernel⟩

/-- A Loam block: OP, COUNT, A, B, C, D, E and the type; unit 0, a bag of one row. -/
def tBlk (op ty count a b c d e : Nat) : List Byte :=
  littleEndian (op + ty * 2 ^ 18 + count * 2 ^ 32 + a * 2 ^ 64 + b * 2 ^ 128 + c * 2 ^ 192 + d * 2 ^ 256 + e * 2 ^ 288) 64

/-- Its operation. -/
def tCmd (b : List Byte) (st : OpStage) : EngOp := { tEng (.skcmd b 0x20038 7) st with target := .bar 0 false }

/-- A run as an engine meets it after its pages are marked. -/
def tMark (pa n : Nat) : Run := tRun pa n

theorem wit_LoamCommands :
    (cmdReady (tCmd (tBlk 1 0 128 0x30000 0 0 0 0) .issued) 1 (tBlk 1 0 128 0x30000 0 0 0 0) = true ∧
        engineRuns tState (opActor (tCmd (tBlk 1 0 128 0x30000 0 0 0 0) .issued)) .store 0x30000 128 = .ok [tRun 0x30000 128] ∧
        128 + (0x30000#64).toNat % 128 ≤ 128 ∧ firstErr (storeErr tState) [tRun 0x30000 128] = none) ∧
      (pagesBad tState (tCmd (tBlk 1 0 4 0xFFFF00000000 0 0 0 0) .issued) .store 0xFFFF00000000 4).isSome ∧
      (cmdReady (tCmd (tBlk 2 0 4 0x30000 0x20000 0 0 0) .issued) 2 (tBlk 2 0 4 0x30000 0x20000 0 0 0) = true ∧
        rowsClash [{ src := 0x20000, dst := 0x30000, len := 4 }] = false ∧
        chunkFails tState (opActor (tCmd (tBlk 2 0 4 0x30000 0x20000 0 0 0) .issued)) { src := 0x20000, dst := 0x30000, len := 4 } = none ∧
        engineRuns tState (opActor (tCmd [] .issued)) .load 0x20000 4 = .ok [tRun 0x20000 4] ∧
        engineRuns (readMarks tState (opActor (tCmd [] .issued)) [(0x20000, 4)]) (opActor (tCmd [] .issued)) .store 0x30000 4 = .ok [tRun 0x30000 4]) ∧
      (cmdReady (tCmd (tBlk 3 4 1 0x30000 0x20000 0x28000 4 1) .issued) 3 (tBlk 3 4 1 0x30000 0x20000 0x28000 4 1) = true ∧
        spansMeet 0x30000 4 0x20000 4 = false ∧ spansMeet 0x30000 4 0x28000 4 = false ∧
        cmdSource tState (tCmd [] .issued) 0x28000 4 = .ok [0, 0, 0, 0] ∧ indexList [0, 0, 0, 0] = [0] ∧
        pagesBad tState (tCmd [] .issued) .store 0x30000 4 = none ∧ pagesBad tState (tCmd [] .issued) .load 0x20000 4 = none ∧
        gredData tState (tCmd [] .issued) (tBlk 3 4 1 0x30000 0x20000 0x28000 4 1) [0] 0 = .ok [0, 0, 0, 0]) ∧
      (cmdReady (tCmd (tBlk 4 4 1 0x30000 0x20000 0x28000 4 1) .issued) 4 (tBlk 4 4 1 0x30000 0x20000 0x28000 4 1) = true ∧
        cmdSource tState (tCmd [] .issued) 0x20000 4 = .ok [0, 0, 0, 0] ∧
        engineRuns (readMarks tState (opActor (tCmd [] .issued)) [(0x28000, 4), (0x20000, 4)]) (opActor (tCmd [] .issued)) .store 0x30000 4 =
          .ok [tRun 0x30000 4] ∧ sourceBad (readMarks tState (opActor (tCmd [] .issued)) [(0x28000, 4), (0x20000, 4)]) [tRun 0x30000 4] = none ∧
        4 % dtypeBytes 4 = 0) := by
  refine by decide +kernel

/-- An all-gather of group 0 and buffer 0, 4 bytes of each of two members; this device has rank 1; stack 0's port is up. -/
def tColl (timeout : Nat) : State :=
  { tState with
    loam := tState.loam ++ [(loamKey 0 0x1000, BitVec.ofNat 64 (2 ^ 63 + timeout * 2 ^ 32 + 0x102)), (loamKey 0 0x4000, 0x20000),
      (loamKey 0 0x4008, BitVec.ofNat 64 (2 ^ 63 + tState.cur.asid.toNat * 2 ^ 32 + 0x100))]
    mgmt := tState.mgmt ++ [(portOff 16 0, 0)] }

/-- The same where this device has rank 0. -/
def tColl0 (timeout : Nat) : State :=
  { tColl timeout with loam := (loamKey 0 0x1000, BitVec.ofNat 64 (2 ^ 63 + timeout * 2 ^ 32 + 2)) :: (tColl timeout).loam }

/-- Another member's hand-in: of KIND 1 or another, and so many bytes. -/
def tHand (k n : Nat) : CollIn := { epoch := 0, kind := if k = 0 then 1 else 0, dtype := 4, count := 4, data := List.replicate n 5 }

/-- The block. -/
def tGather : List Byte := tBlk 5 4 4 0 (2 ^ 24) 0 0 0

theorem wit_Collectives :
    cmdReady (tCmd tGather .issued) 5 tGather = true ∧ collBad (tColl 1) (tCmd tGather .issued) tGather = false ∧
      collBad tState (tCmd tGather .issued) tGather = true ∧ cmdReady { tCmd tGather .issued with after := [7] } 5 tGather = false ∧ findOp { tColl 1 with ops := [tCmd tGather .running] } 1 = some (tCmd tGather .running) ∧
      (setThere (tColl 1) tGather [tHand 0 4, tHand 0 4] = true ∧ setAgrees (tColl 1) tGather [tHand 0 4, tHand 0 4] = true ∧
        collKind tGather = 1 ∧ ownsAll (tCmd tGather .running) = true ∧ mgmtField (tColl 1) (portOff (16 + blkUnit tGather) 0) 63 62 = 0 ∧
        collCut (tColl 1) tGather = false ∧
        (∀ x ∈ collPieces (tColl 1) tGather, pagesBad (tColl 1) (tCmd tGather .running) .store (collBase (tColl 1) tGather + x.1) x.2 = none) ∧
        cmdSource (tColl 1) (tCmd tGather .running) (collBase (tColl 1) tGather + (collInput (tColl 1) tGather).1) (collInput (tColl 1) tGather).2 =
          .ok (List.replicate 4 0)) ∧
      (setThere (tColl 1) tGather [tHand 0 4] = false ∧ setAgrees (tColl 1) tGather [tHand 1 4, tHand 1 4] = false ∧
        setThere (tColl 1) tGather [tHand 1 4, tHand 1 4] = true) ∧ collCut tState tGather = true ∧
      (collRank (tColl0 1) tGather = 0 ∧ setThere (tColl0 1) tGather [tHand 0 4, tHand 0 4] = true ∧
        engineRuns (readMarks (tColl0 1) (opActor (tCmd tGather .running)) [(0x20000, 4)]) (opActor (tCmd tGather .running)) .store 0x20004 4 =
          .ok [tRun 0x20004 4]) ∧ tGather.length = 64 ∧ collM tState (keepRegs (tColl 1) tGather) = 2 := by
  refine by decide +kernel

/-- Tables that map address 0x5000 to the far tier, movable; ring 0 of stack 0 has one frame, 0x60000, and its log is on. -/
def tMig : State :=
  let s := [(0x50000, 0x51001), (0x51000, 0x52001), (0x52000, 0x53001), (0x53028, 0x4000000000BBF), (0x54000, 0x60000)].foldl
    (fun s c => memWrite s c.1 (littleEndian c.2 8)) tState
  { s with loam := s.loam ++ [(loamKey 0 0x100, 1), (loamKey 0 0x108, 0x58000), (loamKey 0 0x110, 16), (loamKey 0 0x140, 0x54000), (loamKey 0 0x148, 4),
      (loamKey 0 0x150, 1)] }

/-- The leaf. -/
def tLeaf : Leaf := { at_ := 0x53028, entry := 0x4000000000BBF, level := 0, ptrs := [(3, 0x51001), (2, 0x52001), (1, 0x53001)] }

/-- The move of that page, its words taken over. -/
def tShift : Move := { tier := 0, old := 2 ^ 50, new := 0x60000, at_ := 0x53028, phase := .claims }
def tMove (p : MovePhase) : EngOp := { tCmd (tBlk 6 0 0 0x5000 0 0 0 0) .running with move := some { tShift with phase := p } }

theorem wit_MigrationAndDomains :
    (walk tMig 0x50000 0x5000 = .ok tLeaf ∧ movable tLeaf = true ∧ bitsOf tLeaf.entry 10 9 ≠ 0 ∧ ringEmpty tMig 0 0 = false ∧
        moveBlocked tMig 0 = false ∧ pageBusy tMig (tMove .claims) (2 ^ 50) = false ∧ leafStands tMig tShift = true ∧ bitAt tLeaf.entry 5 = true ∧ ringFrame tMig 0 0 = 0x60000 ∧ frameBad tMig 0x60000 = none ∧
        homeStack (bitsOf tLeaf.entry 51 12 * 4096) = some 0 ∧ bitAt (loamRaw tMig 0 0x100) 0 = true) ∧
      (4096 ≤ Config.farSize → frameBad tMig (bitsOf tLeaf.entry 51 12 * 4096) = none) ∧
      cmdReady (tCmd (tBlk 6 0 0 0x5000 0 0 0 0) .issued) 6 (tBlk 6 0 0 0x5000 0 0 0 0) = true ∧
      (bitAt (domainReg tState 15) 4 = true ∧ bitAt (domainReg tState 15) (5 + 4) = true) ∧
      (bitAt (domainReg { tState with loam := [(loamKey 15 0x10, 0x200)] } 15) 4 = false ∧
        bitAt (domainReg { tState with loam := [(loamKey 15 0x10, 0x200)] } 15) (5 + 4) = true ∧ domainBusy tState 15 4 = false ∧
        ckptHolds tState 15 4 = false) ∧
      (bitAt (domainReg { tState with loam := [(loamKey 15 0x10, 0x10)] } 15) 4 = true ∧
        bitAt (domainReg { tState with loam := [(loamKey 15 0x10, 0x10)] } 15) (5 + 4) = false) := by
  refine ⟨by decide +kernel, fun h => ?_, by decide +kernel⟩
  have hp : tMig.poison = [] := by decide +kernel
  have hd : tMig.dead = [] := by decide +kernel
  have e : bitsOf tLeaf.entry 51 12 * 4096 = 2 ^ 50 := by decide +kernel
  have n1 : natBits (2 ^ 50) 51 50 = 1 := by decide
  have n2 : natBits (2 ^ 50) 49 0 = 0 := by decide
  have hf : placeOf (2 ^ 50) 4096 = some .far := by
    unfold placeOf
    rw [n1, n2]
    exact if_pos (by omega)
  rw [e, frameBad, hf]
  have hh : ∀ a, homeDead tMig a = false := fun a => by
    rw [homeDead, hd]
    split <;> rfl
  simp only [poisoned, hp, hh]
  rfl

/-! ### Witnesses: the scheduler and placement -/

/-- A work queue: its header at 0x40000, CAP 2, BASE 0x41000, RDIDX 1; its next slot holds a packet; node 5 has COUNT 1. -/
def tWork (p : BitVec 512) : State :=
  let s := memWrite tState 0x40000 (littleEndian 2 8 ++ List.replicate 120 0 ++ littleEndian 1 8 ++ littleEndian 0x41000 8 ++ List.replicate 6 0 ++
    littleEndian 2 4 ++ List.replicate 3 0 ++ littleEndian 0x42000 8 ++ List.replicate 91 0)
  let s1 := memWrite s 0x41040 (littleEndian p.toNat 64)
  { s1 with mgmt := s1.mgmt ++ [(0x100, 0x40001)], nodes := [(5, BitVec.ofNat 256 (2 ^ 176))] }

/-- A packet of SEQ 1: its type, level, other fields. -/
def tPkt (typ rest : Nat) : BitVec 512 := BitVec.ofNat 512 (1 + typ * 2 ^ 64 + rest)

theorem wit_QueuePackets :
    (queueReady (tWork (tPkt 0 0)) 0 = true ∧ takesType 0 (bitsOf (nextPacket (tWork (tPkt 0 0)) 0) 71 64) (.nopPacket (.queue 0)) ∧
        packetOk (nextPacket (tWork (tPkt 0 0)) 0) = true) ∧
      (queueReady (tWork (tPkt 7 0)) 0 = true ∧ packetOk (tPkt 7 0) = false ∧ nextPacket (tWork (tPkt 7 0)) 0 = tPkt 7 0) ∧
      (queueReady (tWork (tPkt 5 (2 ^ 128))) 0 = true ∧ packetOk (tPkt 5 (2 ^ 128)) = true ∧
        (tWork (tPkt 5 (2 ^ 128))).time < bitsOf (tPkt 5 (2 ^ 128)) 191 128 ∧ 2 ≤ bitsOf (tPkt 5 (2 ^ 128)) 71 64) ∧
      (packetOk (tPkt 5 0) = true ∧ bitsOf (tPkt 5 0) 191 128 ≤ tState.time) ∧ packetOk (tPkt 3 (2 ^ 320 + 0x20000 * 2 ^ 256 + 0x30000 * 2 ^ 192)) = true ∧
      (packetOk (tPkt 4 (5 * 2 ^ 328 + 2 ^ 320 + 9 * 2 ^ 256 + 0x20000 * 2 ^ 192 + 2 ^ 352)) = true ∧
        engineRuns tState (userActor 0 1) .store 0x20000 8 = .ok [tRun 0x20000 8] ∧ firstErr (atomErr tState) [tRun 0x20000 8] = none ∧
        (match engineRuns tState (userActor 0 1) .store 0xFFFF00000000 8 with | .error _ => true | .ok _ => false) = true) ∧
      packetOk (tPkt 2 (2 ^ 208 * 65536 + 2 ^ 192 * 0xFFFF)) = true ∧
      (packetOk (tPkt 1 (0x30000 * 2 ^ 192 + 2 ^ 464)) = true ∧ (launchDesc tState (tPkt 1 (0x30000 * 2 ^ 192 + 2 ^ 464))).isSome ∧
        launchDesc tState (tPkt 1 (0xFFFF00000000 * 2 ^ 192 + 2 ^ 464)) = none) := by
  refine ⟨⟨by decide +kernel, ?_, by decide +kernel⟩, by decide +kernel⟩
  exact .inr (.inr (.inr (.inr (.inr ⟨.inl (by decide +kernel), rfl⟩))))

/-- A source of no record. -/
def tSrc : Source := { queue := 0, cq := 0x50000, seq := 3, nv := none, cqe := true, gnode := none, node := 0, arm := (0, 0) }

/-- A kernel of one crew with the scratchpad units, and a launch of it. -/
def tDesc (units : Nat) : KDesc :=
  { entry := 0x10000, lcb := 0, tvec := 0, stksz := 0x100, groups := 2, crews := 1, nslots := 8, ntiles := 1, units := units, ntags := 1, nbbs := 1,
    ncbs := 1, restart := true }

/-- A launch of two bands. -/
def tLaunch (units : Nat) : Launch :=
  { id := 7, desc := tDesc units, bands := 2, priv := false, inh := false, pred := 0, ptbase := 0x1000, asid := 0, ctx := 0x100000, param := 9,
    src := tSrc, placed := 0, redo := [], ended := 0, status := 0 }

/-- Its entry at a level. -/
def tEntryAt (level : Nat) (blocking : Bool) : Entry := { launch := 7, level := level, waitFrom := 0, blocking := blocking }

/-- The launch waits at a level; only cluster 0 is present; the time; a level ages after 1 µs. -/
def tWait (units level : Nat) (blocking : Bool) (time age : Nat) : State :=
  { tState with mgmt := [(0x08, 9), (0x10, 1), (0x338, 1), (0x300 + 8 * level, BitVec.ofNat 64 age)], launches := [tLaunch units],
                entries := [tEntryAt level blocking], time := time }

/-- A completion queue at 0x50000: WRIDX 4, RDIDX 3, CAP 2 or 1, vector 2; a record waits for it. -/
def tPosts (cap : Nat) (sup : Bool) : State :=
  let s := memWrite tState 0x50000 (littleEndian 4 8 ++ List.replicate 120 0 ++ littleEndian 3 8 ++ littleEndian 0x51000 8 ++ List.replicate 6 0 ++
    littleEndian cap 4 ++ [0, 1, 0] ++ List.replicate 8 0 ++ [0x82] ++ List.replicate 90 0)
  { s with mgmt := s.mgmt ++ [(0x350, 4)], posts := [{ cq := 0x50000, record := 5, sup := sup, claim := none }], vecMask := [] }

/-- A group in a region since tick 0, at 200 µs. -/
def tRegion : State := { (tCur fun g => { g with region := some 0 }) with time := 200000 }

theorem wit_WaitingWork :
    (({ tState with ready := [{ node := 5, armQueue := 0, armSeq := 0 }] } : State).ready.find? (fun r => r.node = 5) =
        some { node := 5, armQueue := 0, armSeq := 0 } ∧
      (let x : BitVec 256 := BitVec.ofNat 256 (2 ^ 93 + 6 * 2 ^ 96); bitsOf x 255 192 = 0 ∧ bitsOf x 89 89 = 0 ∧ bitsOf x 95 93 = 1 ∧ bitsOf x 111 96 = 6) ∧
      2 ≤ nodeCount (BitVec.ofNat 256 (2 * 2 ^ 176))) ∧
      (∀ typ ∈ [1, 5], bitsOf (tPkt typ 0) 71 64 = typ ∧ (({ tState with jobs := [⟨3, tPkt typ 0, tSrc, 2, 0, true, [], 7⟩] } : State).jobs.find?
        (fun j => j.id = 3)).isSome) ∧
      (entryOf (tWait 0 6 false 1000 1) 7 = some (tEntryAt 6 false) ∧ mgmtField (tWait 0 6 false 1000 1) (0x300 + 8 * 6) 31 0 = 1) ∧
      (entryOf (tWait 193 7 false 100000 0) 7 = some (tEntryAt 7 false) ∧ findLaunch (tWait 193 7 false 100000 0) 7 = some (tLaunch 193) ∧
        searchReaches (tWait 193 7 false 100000 0) (tEntryAt 7 false) = true ∧
        fitsSomewhere (tWait 193 7 false 100000 0) (tLaunch 193) (nextBand (tLaunch 193)) = false) ∧
      (cqHdrOk (tPosts 2 false) 0x50000 = true ∧ (slotAt (readHdr (tPosts 2 false) 0x50000) 4 + 64 ≤ 0x50000 ∨
          0x50000 + 8 ≤ slotAt (readHdr (tPosts 2 false) 0x50000) 4) ∧ (4 + 2 ^ 64 - 3) % 2 ^ 64 < 2 ∧
        physOk (tPosts 2 false) (slotAt (readHdr (tPosts 2 false) 0x50000) 4) 64 = true ∧ (readHdr (tPosts 2 false) 0x50000).irq.testBit 7 = true ∧
        (mgmtRaw (tPosts 2 false) 0x350).getLsbD ((readHdr (tPosts 2 false) 0x50000).irq % 64) = true) ∧
      (cqHdrOk (tPosts 3 true) 0x50000 = false ∧ 0x50000 ∉ (tPosts 3 true).badQueues) ∧
      (findGroup tRegion tKey = some tRegion.cur ∧ tRegion.cur.region = some 0 ∧ 0 + 200000 ≤ tRegion.time ∧ keyFits tKey) := by
  refine with6 (by decide +kernel) ⟨(tFocusOf _ rfl rfl rfl).1, rfl, by decide, by unfold keyFits; decide⟩

/-- Unit 3 is dead from frame 5 on; a band of the launch stood on it. -/
def tDead (restart : Bool) : State :=
  { tState with dead := [(3, 5)], time := 40, launches := [{ tLaunch 0 with desc := { tDesc 0 with restart := restart }, placed := 1 }]
                bands := [⟨7, 0, 3, [0], [0], 2, 0, .resident, false⟩] }

theorem wit_Fencing :
    ((tDead true).dead.find? (fun d => d.1 = 3 && d.2 ≠ 0) = some (3, 5) ∧ 5 ≤ frameOf (tDead true) ∧ earlierSlots (tDead true) 3 5 = false ∧
        (tDead true).bands.filter (fun x => x.cluster = 3 && x.phase ≠ .saved) = [⟨7, 0, 3, [0], [0], 2, 0, .resident, false⟩]) ∧
      (findLaunch (tDead true) 7).isSome ∧ (findLaunch (tDead false) 7).isSome ∧
      ({ tState with dead := [(3, 5)], time := 40 } : State).bands.filter (fun x => x.cluster = 3 && x.phase ≠ .saved) = [] ∧
      ((3, 0) ∈ ({ tState with dead := [(3, 0)], mgmt := [(0x10, 8), (0x18, 1)] } : State).dead ∧
        clusterPresent { tState with dead := [(3, 0)], mgmt := [(0x10, 8), (0x18, 1)] } 3 = true ∧
        (mgmtRaw { tState with dead := [(3, 0)], mgmt := [(0x10, 8), (0x18, 1)] } 0x18).getLsbD 0 = true) ∧
      (∀ k, k < 4 → (mgmtRaw { tState with mgmt := [(0x10, 8), (0x18, 0)] } 0x18).getLsbD k = false) := by
  refine by decide +kernel

/-- It stands at an unreadable slot of the dead unit's frame 4 on plane 0. -/
def tBadDead : State := { tDead true with planes := { idlePlane with bad := some (3, 4) } :: List.replicate 7 idlePlane }

theorem wit_FencingPlanes :
    (tBadDead.dead.find? (fun d => d.1 = 3 && d.2 ≠ 0) = some (3, 5) ∧ 5 ≤ frameOf tBadDead ∧ holdsPlane tBadDead 3 0 = true) ∧
      (∀ p, p < 8 → holdsPlane (tDead true) 3 p = false) ∧ scrubbing (tDead true) = false ∧
      (unitHolder 3 24 = true ∧ unitHolder 3 0 = false) ∧ opFenced (tDead true) 64 (tCmd (tBlk 6 0 0 0x5000 0 0 0 0) .issued) = true :=
  by decide +kernel

theorem wit_BandPlacement :
    entryOf (tWait 192 2 false 0 0) 7 = some (tEntryAt 2 false) ∧ findLaunch (tWait 192 2 false 0 0) 7 = some (tLaunch 192) ∧
      bandsLeft (tLaunch 192) = true ∧ searchReaches (tWait 192 2 false 0 0) (tEntryAt 2 false) = true ∧
      choiceOk (tWait 192 2 false 0 0) (tLaunch 192) 0 0 [7] = true ∧
      (∀ g ∈ (tWait 192 2 false 0 0).cur :: (tWait 192 2 false 0 0).groups, ¬ (g.key.launch = 7 ∧ g.key.band = 0)) ∧
      (∀ x ∈ (tWait 192 2 false 0 0).crew :: (tWait 192 2 false 0 0).crews, ¬ (x.key.launch = 7 ∧ x.key.band = 0)) ∧ nextBand (tLaunch 192) = 0 ∧
      [7].foldl (spillCore 0) (tWait 192 2 false 0 0) = tWait 192 2 false 0 0 := by
  refine with6 (by decide +kernel) (with2 (by decide +kernel) rfl)

/-- A crew of launch 1 fills core 0 of the one cluster; a launch of eight crews of all units waits, blocking. -/
def tFull : State :=
  let s := tWait 192 5 true 1000 0
  { s with
    crew := { s.crew with splen := 192 * 4096 }
    launches := [{ tLaunch 192 with desc := { tDesc 192 with crews := 8 } }, { tLaunch 192 with id := 1 }]
    bands := [⟨1, 0, 0, [0], [0], 2, 0, .resident, false⟩] }

/-- The band of the current crew has been saved. -/
def tSaved : State :=
  { tFull with crew := { tFull.crew with halt := .saved }, entries := [], bands := [⟨1, 0, 0, [0], [0], 2, 0, .saved, true⟩] }

/-- The current crew has stopped. -/
def tStopped : State := { tFull with crew := { tFull.crew with halt := .stopped } }

theorem wit_BandsLeaveAndReturn :
    (entryOf tFull 7 = some (tEntryAt 5 true) ∧ 0 + mgmtField tFull 0x338 31 0 * 1000 ≤ tFull.time ∧ clusterLive tFull 0 = true ∧
        (∀ b ∈ tFull.bands, b.phase ≠ .leaving) ∧ (∀ l ∈ findLaunch tFull 7, fitsSomewhere tFull l (nextBand l) = false ∧
          (assignCores tFull l (nextBand l) 0 [(1, 0)]).isSome) ∧ inRegion tFull 1 0 = false ∧
        (tFull.bands.map fun b => (b.launch, b.band)).Nodup) ∧ (findBand tFull 1 0).isSome ∧
      (findBand tSaved 1 0 = some ⟨1, 0, 0, [0], [0], 2, 0, .saved, true⟩ ∧ (∀ l ∈ findLaunch tSaved 1,
        resumeOk tSaved ⟨1, 0, 0, [0], [0], 2, 0, .saved, true⟩ l 0 [7] = true) ∧ (findLaunch tSaved 1).isSome) ∧
      (findCrew tStopped tKey = some tStopped.crew ∧ tStopped.crew.halt = .stopped ∧ (findLaunch tStopped 1).isSome ∧
        (findBand tStopped 1 0).isSome ∧ ∀ l ∈ findLaunch tStopped 1, placeFree tStopped l tStopped.crew = true) := by
  refine by decide +kernel

/-! ### Witnesses: the host, ports, regions, the checkpoint and the step -/

/-- Registers of class 0x03 have these values, the rest their values at reset. -/
def tMgmt (l : List (Nat × W64)) : State := { tState with mgmt := l }

/-- A host window of one GiB at address 0. -/
def tHost : State := tMgmt [(0x08, 9), (0x10, BitVec.allOnes 64), (0xF708, 1)]

theorem wit_HostAttachment :
    (hostWindow tHost 0x100 ([1, 2] : List Byte).length = some 0x100 ∧ hostWindow tHost 0x13F ([1, 2] : List Byte).length = none ∧
        hostWindow tHost (0x105 / 64 * 64) 64 = some 0x100 ∧ tHost.linkUp = true ∧ 8 ≤ mgmtField tHost 0x08 3 0 ∧
        3 ∉ ({ tHost with vecPend := [4] } : State).vecPend ∧ 4 ∈ ({ tHost with vecPend := [4] } : State).vecPend) ∧
      (let s := tMgmt [(0x08, 9), (0xF748, 1), (0xF758, 0x40000)];
        1 = (mgmtField s 0xF750 31 0 + 1) % 2 ^ 32 ∧ commandDue s = true ∧ 0x40040 = mgmtField s 0xF758 51 6 * 64 + 64 * (1 % 256)) ∧
      (bootStage tState = 9 ∧ bootStage (tMgmt [(0x08, 8)]) ≠ 9 ∧ 0x100 < hostIoBase ∧ hostWindow tHost 0x13F 2 = none) ∧
      mgmtField (tMgmt [(0x08, 8)]) 0x08 3 0 ≠ 9 ∧ mgmtField tState 0x08 3 0 = 9 ∧
      ((5 : Nat) = bitsOf (0xC000000000000005 : W64) 15 0 ∧ (0xC000000000000005 : W64).getLsbD 63 = true ∧
        (0xC000000000000005 : W64).getLsbD 62 = true ∧ (0x8000000000000005 : W64).getLsbD 62 = false) ∧
      mregOf 0x0004 = none ∧ (mgmtRaw (tMgmt [(0xF700, 0x8000000000000000)]) 0xF700).getLsbD 63 = true ∧ loamKnown 0x100 = true ∧
      tState.ringKept = [] :=
  by decide +kernel

/-- Port 0 is up with wavelengths 0 and 1 active, wavelength 2 spare, 3 degraded; change its link data. -/
def tPort (up : Port → Port) : State :=
  { tMgmt [(0x08, 9), (0xF200, 0x30000), (0xE000, 0x2800000000000), (0xE008, 0x2800000000000), (0xE010, 0x4002800000000000),
      (0xE018, 0x8000000000000000)] with ports := up { idlePort with rxMask := 3 } :: List.replicate 31 idlePort, time := 200000 }

/-- A good flit on wavelength 0 that acknowledges nothing. -/
def tFlit (kind : BitVec 4) (epoch : BitVec 8) (payload : List Byte) : Flit :=
  { lane := 0, kind := kind, epoch := epoch, sack := 0, ack := 0, seq := 0, payload := payload, good := true }

/-- Flit 0 of wavelength 0 or 1 is unacknowledged since tick 0. -/
def tSent (sends : Nat) : List SentFlit :=
  [{ seq := 0, lane := 0, kind := 1, epoch := 0, ack := 0, sack := 0, payload := [7], sends := sends, last := 0, missed := 0 }]

theorem wit_FlitsArrive :
    portUp (tPort id) 0 ∧
      (flitEventOf 0 { tFlit 0 0 [] with good := false } (.idleFlit 0 { tFlit 0 0 [] with good := false }) ∧
        flitEventOf 0 { tFlit 7 0 [] with lane := 18 } (.dataFlit 0 { tFlit 7 0 [] with lane := 18 })) ∧
      (flitTaken (tPort id) 0 (tFlit 1 0 []) ∧ flitNext (tPort id) 0 (tFlit 1 0 []) ∧ flitTaken (tPort id) 0 { tFlit 0 0 [] with lane := 3 } ∧
        (tPort id).ports.length = 32 ∧ (portAt (tPort id) 0).outbox = [] ∧ (portAt (tPort id) 0).switching = none) ∧
      (flitEventOf 0 (tFlit 3 1 (widthPayload 1 0 0)) (.propose 0 (tFlit 3 1 (widthPayload 1 0 0))) ∧ widthMask (widthPayload 1 0 0) = 1 ∧
        widthAction (widthPayload 1 0 0) = 0 ∧ newerEpoch (portAt (tPort fun q => { q with unacked := tSent 1, nextTx := 1 }) 0).txEpoch 1 = true ∧
        ((portAt (tPort fun q => { q with unacked := tSent 1, nextTx := 1 }) 0).unacked.map (·.seq)).Nodup) ∧
      (flitEventOf 0 (tFlit 3 1 (widthPayload 1 1 1)) (.accept 0 (tFlit 3 1 (widthPayload 1 1 1))) ∧
        (tFlit 3 1 (widthPayload 9 1 1)).epoch.toNat = (portAt (tPort fun q => { q with rxMask := 9, rxEpoch := 1 }) 0).rxEpoch ∧
        (1 : Nat).testBit 3 = false ∧ (portAt (tPort fun q => { q with rxMask := 9, rxEpoch := 1 }) 0).rxMask.testBit 3 = true ∧
        mgmtField (tPort id) (waveOff 0 3) 63 62 = 2 ∧ seqAhead (widthSwitch (widthPayload 1 1 1)) ((0 + 1) % 2 ^ 24) < 2 ^ 23) ∧
      (flitEventOf 0 (tFlit 3 1 (widthPayload 7 2 0)) (.train 0 (tFlit 3 1 (widthPayload 7 2 0))) ∧ widthAction (widthPayload 7 2 0) = 2) ∧
      (flitEventOf 0 (tFlit 4 0 (leBytes 9 8)) (.timeFlit 0 (tFlit 4 0 (leBytes 9 8))) ∧ 0 = mgmtField (tPort id) 0xF738 3 0 ∧
        mgmtField (tPort id) 0xF738 8 8 = 0) := by
  unfold portUp flitEventOf flitTaken flitNext
  refine ⟨by decide +kernel, ⟨.inl ⟨rfl, rfl⟩, .inr (.inl ⟨.inr (by decide), rfl⟩)⟩, by decide +kernel,
    ⟨.inr (.inr (.inr (.inr (.inr (.inl ⟨rfl, by decide +kernel, by decide +kernel, rfl⟩))))), by decide +kernel⟩,
    ⟨.inr (.inr (.inr (.inl ⟨rfl, by decide +kernel, rfl⟩))), by decide +kernel⟩,
    ⟨.inr (.inr (.inr (.inr (.inl ⟨rfl, by decide +kernel, rfl⟩)))), by decide +kernel⟩,
    ⟨.inr (.inr (.inr (.inr (.inr (.inr ⟨rfl, rfl⟩))))), by decide +kernel⟩⟩

/-- Port 0 with LSTATE and LASER, its path open or closed at tick 0. -/
def tLaser (lst laser time : Nat) (open_ : Bool) : State :=
  { tPort (fun q => { q with interlock := open_, target := some 1 }) with
    mgmt := [(0x08, 9), (0xF200, BitVec.ofNat 64 (lst * 2 ^ 62 + laser * 2 ^ 60 + 0x30000)), (0xF210, 0x100000000)], time := time }

/-- Port 0 is dark and waits for a state. -/
def tTarget (v : Nat) : State :=
  { tLaser 0 3 5000 false with ports := { idlePort with target := some v } :: List.replicate 31 idlePort }

theorem wit_PortsAndLasers :
    ((tPort id).ports.length = 32 ∧ mgmtField (tPort id) (portOff 0 0) 63 62 = 0 ∧ mgmtField (tPort id) (portOff 0 0) 33 16 = 3) ∧
      (let q := portAt (tPort fun q => { q with unacked := tSent 16, ackDue := true }) 0;
        q.unacked.find? (fun x => x.seq = 0) = some ⟨0, 0, 1, 0, 0, 0, [7], 16, 0, 0⟩ ∧ 0 + 2000 ≤ (tPort id).time ∧ q.ackDue = true ∧ q.outbox = [] ∧
        (∃ x ∈ q.unacked, 16 ≤ x.sends) ∧ q.lastHeard + 100000 ≤ (tPort id).time ∧ mgmtField (tPort id) (portOff 0 0) 61 60 ≠ 3) ∧
      (mgmtField (tPort id) (waveOff 0 2) 63 62 ≠ 0 ∧ mgmtField (tPort id) (waveOff 0 1) 63 62 = 0 ∧ (portAt (tPort id) 0).rxMask.testBit 1 = true ∧
        (portAt (tPort id) 0).rxMask ≠ 2 ^ 1 ∧ (portAt (tPort fun q => { q with rxMask := 2 }) 0).rxMask = 2 ^ 1) ∧
      (40 ≤ mgmtField (tPort id) (waveOff 0 2) 51 44 ∧ mgmtField (tPort id) (waveOff 0 2) 63 62 ≠ 3 ∧
        (portAt (tPort fun q => { q with training := some (2, 100) }) 0).training = some (2, 100) ∧ 100 + 50000 ≤ (tPort id).time ∧
        mgmtField (tLaser 1 0 0 false) (portOff 0 0) 63 62 = 1) ∧
      (mgmtField (tLaser 0 0 5 false) 0x08 3 0 = 9 ∧ mgmtField (tLaser 0 0 5 false) (portOff 0 0) 63 62 ≠ 3 ∧
        5 < (portAt (tLaser 0 0 5 false) 0).lastChange + mgmtField (tLaser 0 0 5 false) (portOff 0 2) 47 32 * 1000 ∧
        (portAt (tLaser 0 0 5000 false) 0).lastChange + mgmtField (tLaser 0 0 5000 false) (portOff 0 2) 47 32 * 1000 ≤ 5000 ∧
        (portAt (tLaser 0 0 5000 false) 0).target = some 1) ∧
      fittingLaser (tLaser 0 3 5000 false) 0 (3 % 4) = mgmtField (tLaser 0 3 5000 false) (portOff 0 0) 61 60 ∧
      fittingLaser (tLaser 0 0 5000 false) 0 (1 % 4) ≠ mgmtField (tLaser 0 0 5000 false) (portOff 0 0) 61 60 ∧
      (portAt (tTarget 3) 0).target = some 3 ∧ fittingLaser (tTarget 3) 0 3 = mgmtField (tTarget 3) (portOff 0 0) 61 60 ∧
      (mgmtField (tLaser 3 3 5 true) (portOff 0 0) 63 62 = 3 ∧ (portAt (tLaser 3 3 5 true) 0).interlock = true ∧
        mgmtField (tLaser 3 1 1000000000 false) (portOff 0 0) 63 62 = 3 ∧ (portAt (tLaser 3 1 1000000000 false) 0).interlock = false ∧
        (portAt (tLaser 3 1 1000000000 false) 0).closedAt + 1000000000 ≤ (tLaser 3 1 1000000000 false).time) := by
  have hl : ∀ l, l < 4 → mgmtField (tLaser 0 l 5000 false) (portOff 0 0) 61 60 = l := by decide +kernel
  have h3 : ∀ s, fittingLaser s 0 3 = 3 := fun s => by simp [fittingLaser]
  refine with5 (by decide +kernel) ⟨?_, ?_, by decide +kernel, ?_, by decide +kernel⟩
  · rw [hl 3 (by decide)]; exact h3 _
  · rw [hl 0 (by decide), fittingLaser]
    split
    · rename_i h; simp at h
    · split
      · decide
      · split <;> decide
  · rw [h3]; exact (hl 3 (by decide)).symm

/-- Region 0 runs at a frequency in a thermal state, stepping. -/
def tHeat (f tst : W64) : State :=
  { tMgmt [(0x08, 9), (0x808, f), (0x818, tst)] with regions := { idleRegion with stepping := true } :: List.replicate 15 idleRegion }

/-- A boot whose every stage is good, or one that stops, is what the model's record gives. -/
theorem wit_ModuleAndRegions :
    ((∀ i, i < 10 → stageGood tState i) ∨
        ∃ k, k < 10 ∧ ¬ stageGood tState k ∧ ∀ i, i < k → stageGood tState i) ∧
      ((tHeat 2000 0).regions.length = 16 ∧ (regionAt (tHeat 2000 0) 0).droop = false ∧ mgmtField (tHeat 2000 0) 0x08 3 0 = 9 ∧
        (regionAt (tHeat 2000 0) 0).stepping = true ∧ 1200 < mgmtField (tHeat 2000 0) (regionOff 0 1) 11 0 ∧
        mgmtField (tHeat 2000 0) (regionOff 0 3) 1 0 = 0 ∧ mgmtField (tHeat 2000 2) (regionOff 0 3) 1 0 = 2 ∧
        mgmtField (tHeat 2000 1) (regionOff 0 3) 1 0 = 1 ∧ booted (tHeat 2000 0) ∧ (regionAt (tHeat 2000 2) 0).changing = false) ∧
      (twarn tState 0 ≤ 760 ∧ (0 < twarn tState 0 ∨ twarn tState 0 = 0) ∧ (regionAt (tHeat 2000 0) 0).steppedAt + 10000 ≤ 20000) ∧
      ((Config.freqLimits 0).1 < 4096 → (max (max 1200 (Config.freqLimits 0).1) (min (min 2400 (Config.freqLimits 0).2) (1500 % 4096))) < 4096) ∧
      clusterClocked { tHeat 2000 2 with regions := List.replicate 16 { idleRegion with changing := true } } 0 = false := by
  refine ⟨?_, by unfold booted; decide +kernel, ⟨(Nat.min_le_left _ _).trans (Nat.min_le_left _ _), by omega, by decide +kernel⟩, fun h => by omega, ?_⟩
  · have key : ∀ n, (∀ i, i < n → stageGood tState i) ∨
        ∃ k, k < n ∧ ¬ stageGood tState k ∧ ∀ i, i < k → stageGood tState i := by
      intro n
      induction n with
      | zero => exact .inl fun i h => absurd h (by omega)
      | succ n ih =>
        rcases ih with h | ⟨k, hk, h⟩
        · by_cases hn : stageGood tState n
          · exact .inl fun i hi => (Nat.lt_succ_iff_lt_or_eq.1 hi).elim (h i) fun e => e ▸ hn
          · exact .inr ⟨n, by omega, hn, h⟩
        · exact .inr ⟨k, by omega, h⟩
    exact key 10
  · have h : ∀ r, r < 16 → clocked { tHeat 2000 2 with regions := List.replicate 16 { idleRegion with changing := true } } r = false :=
      by decide +kernel
    have h1 := h _ (Nat.mod_lt (Config.regionOf 0) (by decide))
    have h2 : (List.range 16).all (clocked { tHeat 2000 2 with regions := List.replicate 16 { idleRegion with changing := true } }) = false :=
      by decide +kernel
    exact (congrArg₂ or h2 h1).trans rfl

/-- Domain 0 is being copied to the far tier's start over port 0; a word is poisoned or none. -/
def tCkpt (gib lst : Nat) (bad : List Nat) : State :=
  { tMgmt [(0x08, 9), (0xD00, BitVec.ofNat 64 (gib * 2 ^ 30)), (0xD08, 0x10000), (0xF200, BitVec.ofNat 64 (lst * 2 ^ 62))] with
    ckpt := some { mark := tState.hist.length, left := [0], ports := 1, dest := gib }, poison := bad, revived := [] }

theorem wit_Checkpoints :
    (mgmtField tState 0x08 3 0 = 9 ∧ (0x10001 : W64).getLsbD 0 = true ∧ tState.ckpt = none) ∧
      ((tCkpt 0 0 []).ckpt = some { mark := tState.hist.length, left := [0], ports := 1, dest := 0 } ∧ (tCkpt 0 0 []).ckpt.isSome = true) ∧
      (({ tState with ckpt := some ⟨0, [1], 1, 0xFFFFF⟩ } : State).ckpt = some ⟨0, [1], 1, 0xFFFFF⟩ ∧
        placeOf (imageBase 0xFFFFF 1) (2 ^ 34) ≠ some .far) ∧
      (2 ^ 34 ≤ Config.farSize → placeOf (imageBase 0 0) (2 ^ 34) = some .far) ∧
      portsUp (tCkpt 0 2 []) 1 = false ∧ portsUp (tCkpt 0 0 []) 1 = true ∧ inDomain (0 / 5) (0 % 5) 64 = true ∧ 64 ∈ (tCkpt 0 0 [64]).poison ∧
      (∀ w ∈ (tCkpt 0 0 []).poison, inDomain (0 / 5) (0 % 5) w = false) ∧ [0].Nodup ∧ tState.hist.length = (tCkpt 0 0 []).hist.length ∧
      (tCkpt 0 0 []).revived = [] := by
  refine with2 (by decide +kernel) ⟨?_, fun h => ?_, with5 (by decide +kernel) ⟨by decide, rfl, rfl⟩⟩
  · have h : natBits (imageBase 0xFFFFF 1) 51 50 = 2 := by decide +kernel
    refine ⟨rfl, ?_⟩
    unfold placeOf; rw [h]; simp
  · have h0 : imageBase 0 0 = 2 ^ 50 := by decide +kernel
    have h1 : natBits (2 ^ 50) 51 50 = 1 := by decide +kernel
    have h2 : natBits (2 ^ 50) 49 0 = 0 := by decide +kernel
    unfold placeOf; rw [h0, h1, h2]; simpa using h

/-- A cluster holds the first word of each address alone. -/
def tHolds (s : State) (l : List Nat) : State :=
  { s with dir := l.map fun pa => { addr := pa, holders := [(0, .modified)], l1 := [], version := 0, grantee := some 0 } }

/-- A COPY and a SIGNAL packet. -/
def tCopyPkt : BitVec 512 := tPkt 3 (2 ^ 368 + 2 ^ 320 + 0x20000 * 2 ^ 256 + 0x30000 * 2 ^ 192)
def tSignalPkt : BitVec 512 := tPkt 4 (5 * 2 ^ 328 + 2 ^ 320 + 9 * 2 ^ 256 + 0x20000 * 2 ^ 192 + 2 ^ 352)

theorem wit_WordsTakenBack :
    (devReady (tWork (tPkt 0 0)) [(queueHdr (tWork (tPkt 0 0)) 0 + 128, 8)] = true ∧
        devReady (tHolds (tWork (tPkt 0 0)) [0x40080]) [(queueHdr (tHolds (tWork (tPkt 0 0)) [0x40080]) 0 + 128, 8)] = false) ∧
      (devReady (tWork tCopyPkt) (packetPlaces (tWork tCopyPkt) tCopyPkt) = true ∧
        devReady (tHolds (tWork tCopyPkt) [0x20000, 0x30000]) (packetPlaces (tHolds (tWork tCopyPkt) [0x20000, 0x30000]) tCopyPkt) = false) ∧
      (devReady (tWork tSignalPkt) (packetPlaces (tWork tSignalPkt) tSignalPkt) = true ∧
        devReady (tHolds (tWork tSignalPkt) [0x20000]) (packetPlaces (tHolds (tWork tSignalPkt) [0x20000]) tSignalPkt) = false) ∧
      (devReady (tPosts 2 false) [(0x50000, 8), (slotAt (readHdr (tPosts 2 false) 0x50000) 4, 64)] = true ∧
        devReady (tHolds (tPosts 2 false) [0x50000]) [(0x50000, 8), (slotAt (readHdr (tPosts 2 false) 0x50000) 4, 64)] = false) ∧
      (let s := tMgmt [(0x08, 9), (0xF748, 1), (0xF758, 0x40000)];
        physOk s 0x40040 64 = true ∧ devReady s [(0x40040, 64)] = true ∧ physOk (tHolds s [0x40040]) 0x40040 64 = true ∧
          devReady (tHolds s [0x40040]) [(0x40040, 64)] = false ∧ physOk { s with poison := [0x40040] } 0x40040 64 = false) := by
  refine ⟨?_, ?_, ?_, ?_, ?_⟩ <;> decide +kernel

/-- Unit 3 has been fenced; the home's filter names it for line 8, whose first word it was granted last; the record in force is signed. -/
def tPoisons : State :=
  { tDead true with
    dir := [{ addr := 1024, holders := [(3, .modified)], l1 := [], version := 0, grantee := some 3 }]
    filter := [{ line := 8, clusters := 8, recalled := false }]
    flash := [{ seq := 5, test := 0, map := (List.range 64).map some, spares := 1, signed := true }, { seq := 4, test := 0, map := [], spares := 0, signed := true }] }

theorem wit_FencedRecords :
    (∃ x ∈ tPoisons.filter, x.clusters.getLsbD 3 = true ∧ grantedMask tPoisons 3 x.line ≠ 0 ∧ planeOf x.line < tPoisons.planes.length ∧
        homeStack (x.line * 128) = some 0) ∧
      (tPoisons.flash.length = 2 ∧ (recordNow tPoisons).signed = true ∧ (recordNow tPoisons).seq.toNat < 2 ^ 32 - 1) ∧
      (∀ o ∈ [tEng (.cpy 0x20000 0x20080 8) .issued], opFenced tPoisons 64 o = false) ∧
      homeDead { tState with dead := [(64, 0)] } 0 = true := by
  refine ⟨?_, ?_, ?_, ?_⟩ <;> decide +kernel

/-- Port 0 is on its way to L3. -/
def tSleeping (l : List SentFlit) : Port := { idlePort with sleeping := true, unacked := l }

theorem wit_BootedAndAwake :
    booted tState ∧ (mgmtField (tMgmt [(0x08, 0x109)]) 0x08 3 0 = 9 ∧ mgmtField (tMgmt [(0x08, 0x109)]) 0x08 8 8 = 1) ∧
      (mgmtField (tMgmt [(0x08, 8)]) 0x08 3 0 = 8 ∧ mgmtField (tMgmt [(0x08, 8)]) 0x08 8 8 = 0) ∧
      (∃ r, mregOf 0xF200 = some r ∧ mregLive r ≠ 0 ∧ ([7] : List Byte).length ≤ 8 - 0xF200 % 8 ∧
        ∀ k : Fin 64, (mregLive r).getLsbD k = true → 0xF200 / 8 * 8 + k / 8 < 0xF200 ∨ 0xF200 + 1 ≤ 0xF200 / 8 * 8 + k / 8) ∧
      (staysAwake idlePort (tFlit 1 0 []) ∧ ¬ staysAwake (tSleeping []) (tFlit 1 0 []) ∧
        staysAwake (tSleeping [{ seq := 5, lane := 0, kind := 3, epoch := 0, ack := 0, sack := 0, payload := [], sends := 1, last := 0, missed := 0 }])
          (tFlit 1 0 [])) ∧
      (portComing (tCkpt 0 1 []) 1 0 ∧ ∀ p < 16, ¬ portComing (tCkpt 0 0 []) 1 p) ∧
      ({ tHeat 2000 1 with time := 20000 } : State).time ≥ (regionAt (tHeat 2000 1) 0).steppedAt + 10000 := by
  refine ⟨?_, with2 (by decide +kernel) ⟨⟨_, rfl, by decide +kernel, by decide, by decide +kernel⟩, ⟨.inl rfl, ?_, .inr ⟨_, .head _, rfl,
    ?_⟩⟩, ?_, by decide +kernel⟩⟩
  · unfold booted; decide +kernel
  · rintro (h | ⟨x, h, _⟩)
    · cases h
    · cases h
  · unfold acknowledges; decide +kernel
  · unfold portComing; decide +kernel

theorem wit_RoundTrip :
    (encode (.add 4 5 6) = [0x04414600] ∧ scalarAssigned (.add 4 5 6) = true) ∧
      (encode (.iadd { pr := { neg := false, num := 0 }, d := .v 1, a := .v 2, b := .v 3, c := .v 0, ty := .i32, md := 0, ext := 0, yw := false
                       reuse := false }) = [0x10000000, 0x02003000, 0x00000010] ∧
        Instr.wellFormed (.iadd { pr := { neg := false, num := 0 }, d := .v 1, a := .v 2, b := .v 3, c := .v 0, ty := .i32, md := 0, ext := 0
                                  yw := false, reuse := false }) = true) :=
  by decide +kernel

/-- The current group is at the head of the loop; an event waits, or it is the scalar thread's turn. -/
def tTurn (i : List Instr) (t : Turn) : State := { tState with inputs := i, turn := t }

/-- A clause that has started, at 0x20000. -/
def tClauseAt : QEntry := { tEntry with count := 1, kind := .clause, addr := 0x20000, started := true, pos := 0 }

/-- A fetch gives bytes of which something holds, or it fails. -/
def tFetched (r : Except XErr (List Byte × State)) (f : List Byte → Bool) : Bool :=
  match r with
  | .ok x => f x.1
  | .error _ => false
def tFails (r : Except XErr (List Byte × State)) : Bool :=
  match r with
  | .ok _ => false
  | .error _ => true

theorem wit_StepRunsDecoded :
    ((tTurn [.timeExchange] .hardware).power = true ∧ (tTurn [.timeExchange] .hardware).inputs = [.timeExchange] ∧ encode .timeExchange = []) ∧
      ((tTurn [] .scalar).inputs = [] ∧ (tTurn [] .scalar).turn = .scalar ∧ curRuns (tTurn [] .scalar) = true ∧
        tFetched (fetchWord (tTurn [] .scalar) .scalarFetch (tTurn [] .scalar).cur.pc) (fun bs => decodeScalar (scalarWordOf bs) = some .nop) = true ∧
        tFetched (fetchWord (placeWord tStart 32 0x3C000000) .scalarFetch 0x10000) (fun bs => decodeScalar (scalarWordOf bs) = none) = true ∧
        tFails (fetchWord (tCur fun g => { g with pc := 0xFFFF00000000 }) .scalarFetch 0xFFFF00000000) = true) ∧
      ((tTurn [] .lane).turn = .lane ∧ (tCur fun g => { g with queue := [tClauseAt] }).cur.queue = [tClauseAt] ∧ tClauseAt.kind = .clause ∧
        tClauseAt.started = true ∧ (tCur fun g => { g with queue := [tClauseAt] }).cur.feWait = none ∧
        tFetched (fetchWords tState .laneFetch 0x2000C 3) (fun bs => (decodeLane (laneWordOf bs)).isSome) = true ∧
        tFetched (fetchWords (loadBytes tState (0x2000C, littleEndian 0xF00300390200000000000000 12)) .laneFetch 0x2000C 3)
          (fun bs => decodeLane (laneWordOf bs) = none) = true ∧
        tFails (fetchWords tState .laneFetch 0xFFFF00000000 3) = true) ∧
      (runs tState (accActor tState 0x10000) .scalarFetch 0x10000 4 = .ok [tRun 0x10000 4] ∧ poisoned tState 0x10000 4 = false ∧
        ({ tState with hist := [] } : State).hist.length = ({ tState with hist := [] } : State).cur.isyncMark) := by
  refine ⟨⟨rfl, rfl, rfl⟩, by decide +kernel⟩

theorem wit_MemoryCanonical : Memory.wf tState.mem = true ∧ (∃ t, step (tTurn [] .scalar) = .next t) := by
  refine ⟨by decide +kernel, ?_⟩
  have h : (match step (tTurn [] .scalar) with | .next _ => true | _ => false) = true := by decide +kernel
  revert h
  cases step (tTurn [] .scalar) <;> simp

/-- What the end of a step does before it chooses the next turn. -/
def tPumped (s : State) : State :=
  let s1 := (List.range 32).foldl pump (sweep s)
  let s2 := { s1 with ctr := s1.ctr + 1, time := s1.time + s1.rate, rate := Config.pick s1.ctr 0 }
  (allGroups s2).foldl settleOverrun s2

/-- The state that the instruction of a step leaves, before the end of the step. -/
def tDone (s : State) : Option State :=
  match workOf s with
  | .run i s1 => match exec i s1 with
    | .next s2 => some s2
    | _ => none
  | _ => none

/-- After the NOP above it is the scalar thread's turn, where the choice among the two turns falls on it. -/
theorem wit_TurnInvariant (hp : Config.pick (tState.ctr + 1) 2 % 2 = 1) :
    ∃ t, step (tTurn [] .scalar) = .next t ∧ t.turn ≠ .hardware := by
  have h : (match tDone (tTurn [] .scalar) with
      | some s => decide (turns (tPumped s) = [(.hardware, tKey), (.scalar, tKey)]) && decide ((tPumped s).ctr = tState.ctr + 1) &&
          curRuns (focus (tPumped s) tKey)
      | none => false) = true := by decide +kernel
  unfold step
  rw [if_pos (show (tTurn [] .scalar).power = true from rfl)]
  unfold tDone at h
  revert h
  cases workOf (tTurn [] .scalar) with
  | done s => simp
  | act o => simp
  | run i s1 =>
    simp only
    cases exec i s1 with
    | fault f => simp
    | refused r => simp
    | next s =>
      simp only [Bool.and_eq_true, decide_eq_true_eq]
      rintro ⟨⟨ht, hc⟩, hr⟩
      refine ⟨_, rfl, ?_⟩
      change (chooseTurn (tPumped s)).turn ≠ .hardware
      unfold chooseTurn
      simp only [ht, hc, List.length_cons, List.length_nil, nth]
      rw [show Config.pick (tState.ctr + 1) (0 + 1 + 1) % (0 + 1 + 1) = 1 from hp]
      simp [hr]

/-! ### Words written out from the encodings (R121 to R136) -/

/-- The words decode to the instructions. -/
def tDecodes (l : List (W32 × Instr)) : Prop := ∀ x ∈ l, decodeScalar x.1 = some x.2

/-- The 96-bit words decode to the lane instructions. -/
def tLaneDecodes (l : List (W96 × Instr)) : Prop := ∀ x ∈ l, decodeLane x.1 = some x.2

theorem decode_scalar_arithmetic : tDecodes
    [(0x04414600, .add 4 5 6), (0x04414601, .sub 4 5 6), (0x04414602, .mul 4 5 6), (0x04414603, .mulh 4 5 6),
     (0x04414604, .mulhn 4 5 6), (0x04414605, .div 4 5 6), (0x04414606, .divn 4 5 6), (0x04414607, .rem 4 5 6),
     (0x04414608, .remn 4 5 6), (0x04414609, .and 4 5 6), (0x0441460A, .or 4 5 6), (0x0441460B, .xor 4 5 6),
     (0x0441460C, .shl 4 5 6), (0x0441460D, .shr 4 5 6), (0x0441460E, .sha 4 5 6), (0x0441460F, .min 4 5 6),
     (0x04414610, .max 4 5 6), (0x04414611, .minn 4 5 6), (0x04414612, .maxn 4 5 6), (0x04414013, .clz 4 5),
     (0x04414014, .popc 4 5), (0x04414618, .cmpEq 4 5 6), (0x04414619, .cmpNe 4 5 6), (0x0441461A, .cmpLt 4 5 6),
     (0x0441461B, .cmpLe 4 5 6), (0x0441461C, .cmpLtn 4 5 6), (0x0441461D, .cmpLen 4 5 6)] := by
  unfold tDecodes
  decide +kernel

theorem decode_scalar_immediates : tDecodes
    [(0x08417FFF, .addi 4 5 0x3fff), (0x0C417FFF, .andi 4 5 0x3fff), (0x10417FFF, .ori 4 5 0x3fff),
     (0x14417FFF, .xori 4 5 0x3fff), (0x18414006, .shiShl 4 5 6), (0x18415006, .shiShr 4 5 6), (0x18416006, .shiSha 4 5 6),
     (0x1C4147FD, .cmpiEq 4 5 0x7fd), (0x1C414FFD, .cmpiNe 4 5 0x7fd), (0x1C4157FD, .cmpiLt 4 5 0x7fd),
     (0x1C415FFD, .cmpiLe 4 5 0x7fd), (0x1C4167FD, .cmpiLtn 4 5 0x7fd), (0x1C416FFD, .cmpiLen 4 5 0x7fd),
     (0x20412345, .lhi 4 0x12345), (0x24412345, .addpc 4 0x12345), (0x28414187, .bfx 4 5 6 7), (0x28415187, .bfxn 4 5 6 7),
     (0x28416187, .bfi 4 5 6 7), (0x2C41461C, .madd 4 5 6 7), (0x2C41461D, .msub 4 5 6 7), (0x3041461E, .taddr 4 5 6 7 2),
     (0x3441461C, .sel 4 5 6 7)] := by
  unfold tDecodes
  decide +kernel

theorem decode_control_and_memory : tDecodes
    [(0x43FFFFFE, .j 0x3fffffe), (0x47FFFFFE, .jal 0x3fffffe), (0x48010000, .jr 4), (0x48414001, .jalr 4 5),
     (0x4C412345, .bz 4 0x12345), (0x50412345, .bnz 4 0x12345), (0x60416FFD, .ld 4 5 2 1 0x7fd), (0x644167FD, .st 4 5 2 0x7fd),
     (0x68412345, .ldk 4 0x12345), (0x6C415A08, .amoSwap 4 5 3 2 1), (0x6C415A18, .amoAdd 4 5 3 2 1),
     (0x6C415A28, .amoAnd 4 5 3 2 1), (0x6C415A38, .amoOr 4 5 3 2 1), (0x6C415A48, .amoXor 4 5 3 2 1),
     (0x6C415A58, .amoMin 4 5 3 2 1), (0x6C415A68, .amoMax 4 5 3 2 1), (0x6C415A78, .amoMinn 4 5 3 2 1),
     (0x6C415A88, .amoMaxn 4 5 3 2 1), (0x6C415A90, .amoFadd 4 5 3 2), (0x70414669, .cas 4 5 6 3 2 1)] := by
  unfold tDecodes
  decide +kernel

theorem decode_queue_masks_state : tDecodes
    [(0x80012345, .clause 0x12345), (0x84010000, .clauser 4), (0x88002B00, .mpush 1 3), (0x88010000, .mpushRegister 4),
     (0x88000001, .melse), (0x88000002, .mpop), (0x88310003, .setp 3 4), (0x88402B04, .pmov 4 1 3), (0x8C000805, .wflag 0x805),
     (0x90481A80, .vget 4 0x81 0x15), (0x90481A81, .vput 4 0x81 0x15), (0x94010500, .setfmt 4 5), (0x94400001, .getfmt 4),
     (0x94010502, .setprec 4 5), (0x94400003, .getstat 4), (0x94010004, .clrstat 4), (0x98400011, .mfs 4 0x11),
     (0x98012011, .mts 4 0x11)] := by
  unfold tDecodes
  decide +kernel

theorem decode_fences_barriers_copies : tDecodes
    [(0x9C000023, .fenceFull 1 3), (0x9C00002B, .fenceAcquire 1 3), (0x9C000033, .fenceRelease 1 3), (0x9C00003B, .fenceSc 1 3),
     (0xA0010005, .barSync 4 5), (0xA0010045, .barArv 4 5), (0xA4400000, .rdtime 4), (0xA4010001, .waituntil 4),
     (0xA8414000, .qlock 4 5), (0xA8010001, .qunlock 4), (0xC0414607, .cpy 4 5 6 7), (0xC0416A46, .cpy2d 4 5 0x15 6),
     (0xC4414000, .twaitAll 4 5), (0xC4414040, .twaitAny 4 5), (0xC4414080, .tfirst 4 5), (0xC40100C0, .tack 4),
     (0xC8000004, .bbinit 4), (0xC8010045, .bbexp 4 5), (0xC8414086, .bbwait 4 5 6), (0xC80105C6, .bbarv 4 5 6),
     (0xCC414006, .bsub 4 5 6), (0xCC414040, .bunsub 4 5), (0xCC400080, .bsync 4)] := by
  unfold tDecodes
  decide +kernel

theorem decode_named_device_traps : tDecodes
    [(0xD0414000, .ndecl 4 5), (0xD0010040, .ndrop 4), (0xD0010586, .ncan 4 5 6), (0xD4010506, .skcmdTag 4 5 6),
     (0xD4010546, .skcmdBb 4 5 6), (0xD4010580, .skcmdCw 4 5), (0xD8414607, .put 4 5 6 7), (0xD8414647, .get 4 5 6 7),
     (0xD8010581, .winwait 4 5 1), (0xD84140C1, .wincnt 4 5 1), (0xDC414600, .qpush 4 5 6), (0xE0010005, .trap 4 5),
     (0xE0000040, .tret), (0xE0000080, .msave), (0xE00000C0, .mrest), (0xE4414600, .tlbinv 4 5 6), (0xE4000040, .tlbsync),
     (0xE4000080, .tlbinvAll), (0xE8414006, .npub 4 5 6), (0xE8414046, .npubRel 4 5 6), (0xEC414607, .nreqTag 4 5 6 7),
     (0xEC414647, .nreqBb 4 5 6 7), (0xFFFFFFFE, .poolGuard 0x3fffffe)] := by
  unfold tDecodes
  decide +kernel

theorem decode_system_zero : tDecodes
    [(0x00000000, .nop), (0x00000001, .endGroup), (0x00010502, .endk 4 5), (0x00000003, .yield), (0x00000004, .isync),
     (0x00000005, .npbegin), (0x00000006, .npend)] := by
  unfold tDecodes
  decide +kernel

theorem decode_lane_integers : tLaneDecodes
    [(0x000B00920380500010010002, .iadd { tLa (.v 9) (.c 3) (.s 5) (.v 0) .i32 0x1 0x0 with pr := ⟨true, 3⟩, yw := true }),
     (0x001000C00100500004000000, .isub (tLa (.v 12) (.v 1) (.v 5) (.v 0) .n8 0x0 0x0)),
     (0x002000C00100500018000000, .imul (tLa (.v 12) (.v 1) (.v 5) (.v 0) .i64 0x0 0x0)),
     (0x003000C00100500014000000, .imulh (tLa (.v 12) (.v 1) (.v 5) (.v 0) .n32 0x0 0x0)),
     (0x004000F00100200308010000, .imad (tLa (.v 15) (.v 1) (.v 2) (.v 3) .i16 0x1 0x0)),
     (0x005000F00100200310070000, .idot4 (tLa (.v 15) (.v 1) (.v 2) (.v 3) .i32 0x7 0x0)),
     (0x006000C00100500010000000, .imin (tLa (.v 12) (.v 1) (.v 5) (.v 0) .i32 0x0 0x0)),
     (0x007000C0010050001C000000, .imax (tLa (.v 12) (.v 1) (.v 5) (.v 0) .n64 0x0 0x0)),
     (0x008000F00100200314000328, .bfn3 (tLa (.v 15) (.v 1) (.v 2) (.v 3) .n32 0x0 0xca)),
     (0x009000F00100200314030000, .shf (tLa (.v 15) (.v 1) (.v 2) (.v 3) .n32 0x3 0x0)),
     (0x00A000C00100500010010000, .laneBfx (tLa (.v 12) (.v 1) (.v 5) (.v 0) .i32 0x1 0x0)),
     (0x00B000F00100200314000000, .laneBfi (tLa (.v 15) (.v 1) (.v 2) (.v 3) .n32 0x0 0x0)),
     (0x00C000C0010000001C010000, .bitc (tLa (.v 12) (.v 1) (.v 0) (.v 0) .n64 0x1 0x0)),
     (0x00D0C07764BF900010050000, .icmp (tLa (.p false 7) (.vx 2 100) (.imm (-7)) (.v 0) .i32 0x5 0x0))] := by
  unfold tLaneDecodes
  decide +kernel

theorem decode_lane_integer_immediates : tLaneDecodes
    [(0x040A00F001100100FFFFFFFE, .iaddLi ⟨⟨true, 2⟩, .v 15, .v 1, .i32, 0x1, 0xfffffffe⟩),
     (0x041000F00114000000000007, .isubLi ⟨⟨false, 0⟩, .v 15, .v 1, .n32, 0x0, 0x7⟩),
     (0x042000F00110000000000007, .imulLi ⟨⟨false, 0⟩, .v 15, .v 1, .i32, 0x0, 0x7⟩),
     (0x043000F00114000000000007, .imulhLi ⟨⟨false, 0⟩, .v 15, .v 1, .n32, 0x0, 0x7⟩),
     (0x044000F00110000000000007, .imadLi ⟨⟨false, 0⟩, .v 15, .v 1, .i32, 0x0, 0x7⟩),
     (0x045000F00110000000000007, .idot4Li ⟨⟨false, 0⟩, .v 15, .v 1, .i32, 0x0, 0x7⟩),
     (0x046000F40110000000000007, .iminLi ⟨⟨false, 0⟩, .v 15, .y 1, .i32, 0x0, 0x7⟩),
     (0x047000F8050800000000FFFF, .imaxLi ⟨⟨false, 0⟩, .v 15, .s 5, .i16, 0x0, 0xffff⟩),
     (0x048000F00114960000000007, .bfn3Li ⟨⟨false, 0⟩, .v 15, .v 1, .n32, 0x96, 0x7⟩),
     (0x049000F00114000000000007, .shfLi ⟨⟨false, 0⟩, .v 15, .v 1, .n32, 0x0, 0x7⟩),
     (0x04A000F00114000000000702, .laneBfxLi ⟨⟨false, 0⟩, .v 15, .v 1, .n32, 0x0, 0x702⟩),
     (0x04B000F00114000000000702, .laneBfiLi ⟨⟨false, 0⟩, .v 15, .v 1, .n32, 0x0, 0x702⟩),
     (0x04D0C0300110020000000007, .icmpLi ⟨⟨false, 0⟩, .p false 3, .v 1, .i32, 0x2, 0x7⟩)] := by
  unfold tLaneDecodes
  decide +kernel

theorem decode_lane_floats : tLaneDecodes
    [(0x100000C001005000200F0000, .fadd (tLa (.v 12) (.v 1) (.v 5) (.v 0) .f32 0xf 0x0)),
     (0x101000C0010050002A000000, .fmul (tLa (.v 12) (.v 1) (.v 5) (.v 0) .bf16x2 0x200 0x0)),
     (0x102000F0010020032C1F0000, .ffma (tLa (.v 15) (.v 1) (.v 2) (.v 3) .f16 0x1f 0x0)),
     (0x103000C00100500020010000, .fmin (tLa (.v 12) (.v 1) (.v 5) (.v 0) .f32 0x1 0x0)),
     (0x104000C00100500020000000, .fmax (tLa (.v 12) (.v 1) (.v 5) (.v 0) .f32 0x0 0x0)),
     (0x105000C00100500020070000, .fcmp (tLa (.v 12) (.v 1) (.v 5) (.v 0) .f32 0x7 0x0)),
     (0x106000C00100500020080000, .fmath (tLa (.v 12) (.v 1) (.v 5) (.v 0) .f32 0x8 0x0)),
     (0x107000F00100200320010000, .fsca (tLa (.v 15) (.v 1) (.v 2) (.v 3) .f32 0x1 0x0)),
     (0x108000C00100000020000000, .fclass (tLa (.v 12) (.v 1) (.v 0) (.v 0) .f32 0x0 0x0)),
     (0x140000F0012080003F800000, .faddLi ⟨⟨false, 0⟩, .v 15, .v 1, .f32, 0x80, 0x3f800000⟩),
     (0x141000F00120000040000000, .fmulLi ⟨⟨false, 0⟩, .v 15, .v 1, .f32, 0x0, 0x40000000⟩),
     (0x142000F00120000040000000, .ffmaLi ⟨⟨false, 0⟩, .v 15, .v 1, .f32, 0x0, 0x40000000⟩),
     (0x143000F00120000000000000, .fminLi ⟨⟨false, 0⟩, .v 15, .v 1, .f32, 0x0, 0x0⟩),
     (0x144000F00120000000000000, .fmaxLi ⟨⟨false, 0⟩, .v 15, .v 1, .f32, 0x0, 0x0⟩),
     (0x1450C0200120020000000000, .fcmpLi ⟨⟨false, 0⟩, .p false 2, .v 1, .f32, 0x2, 0x0⟩),
     (0x146000F00120080040400000, .fmathDivLi ⟨⟨false, 0⟩, .v 15, .v 1, .f32, 0x8, 0x40400000⟩),
     (0x147000F0012001003F800000, .fscaLi ⟨⟨false, 0⟩, .v 15, .v 1, .f32, 0x1, 0x3f800000⟩)] := by
  unfold tLaneDecodes
  decide +kernel

theorem decode_lane_conversion_and_cross_lane : tLaneDecodes
    [(0x200000C00100000010002000, .cvt (tLa (.v 12) (.v 1) (.v 0) (.v 0) .i32 0x0 0x800)),
     (0x201000C00100000058002000, .pack (tLa (.v 12) (.v 1) (.v 0) (.v 0) .e4m3x4 0x0 0x800)),
     (0x202000C00100000020005800, .unpack (tLa (.v 12) (.v 1) (.v 0) (.v 0) .f32 0x0 0x1600)),
     (0x203000C00100000050004000, .scalex (tLa (.v 12) (.v 1) (.v 0) (.v 0) .e8m0 0x0 0x1000)),
     (0x280000C001E0000010000000, .lperm (tLa (.v 12) (.v 1) (.spec 0) (.v 0) .i32 0x0 0x0)),
     (0x281000C00100000020020000, .qxch (tLa (.v 12) (.v 1) (.v 0) (.v 0) .f32 0x2 0x0)),
     (0x282000C00100000010030000, .qbc (tLa (.v 12) (.v 1) (.v 0) (.v 0) .i32 0x3 0x0)),
     (0x283000C00100000010230000, .red (tLa (.v 12) (.v 1) (.v 0) (.v 0) .i32 0x23 0x0)),
     (0x284000C001000000044D0000, .scan (tLa (.v 12) (.v 1) (.v 0) (.v 0) .n8 0x4d 0x0)),
     (0x285000CC0A00000014020000, .ppoll (tLa (.v 12) (.p true 2) (.v 0) (.v 0) .n32 0x2 0x0))] := by
  unfold tLaneDecodes
  decide +kernel

theorem decode_lane_variable_precision : tLaneDecodes
    [(0x300000C00100500080008000, .xadd (tLa (.v 12) (.v 1) (.v 5) (.v 0) .vpf 0x0 0x2000)),
     (0x301000C00100500084008400, .xmul (tLa (.v 12) (.v 1) (.v 5) (.v 0) .vpfc 0x0 0x2100)),
     (0x302000C00100500980008000, .xfma (tLa (.v 12) (.v 1) (.v 5) (.v 9) .vpf 0x0 0x2000)),
     (0x303000C00100500084008000, .xadde (tLa (.v 12) (.v 1) (.v 5) (.v 0) .vpfc 0x0 0x2000)),
     (0x304000C00100500084008000, .xmule (tLa (.v 12) (.v 1) (.v 5) (.v 0) .vpfc 0x0 0x2000)),
     (0x305000C00100000080002000, .xcvt (tLa (.v 12) (.v 1) (.v 0) (.v 0) .vpf 0x0 0x800)),
     (0x306000C00100500080000000, .xcmp (tLa (.v 12) (.v 1) (.v 5) (.v 0) .vpf 0x0 0x0)),
     (0x307000C001000000840081C4, .xrnd (tLa (.v 12) (.v 1) (.v 0) (.v 0) .vpfc 0x0 0x2071)),
     (0x308000C00100500080018000, .xerr (tLa (.v 12) (.v 1) (.v 5) (.v 0) .vpf 0x1 0x2000))] := by
  unfold tLaneDecodes
  decide +kernel

theorem decode_lane_moves : tLaneDecodes
    [(0x380000C00100000018000000, .mov (tLa (.v 12) (.v 1) (.v 0) (.v 0) .i64 0x0 0x0)),
     (0x381000C001002C0C10000000, .laneSel (tLa (.v 12) (.v 1) (.v 2) (.p true 4) .i32 0x0 0x0)),
     (0x3820C01C02C03C0400000258, .pfn3 (tLa (.p false 1) (.p false 2) (.p false 3) (.p false 4) .i8 0x0 0x96)),
     (0x383000C00000000014020000, .spec (tLa (.v 12) (.v 0) (.v 0) (.v 0) .n32 0x2 0x0)),
     (0x3840000001002003101E0000, .ixset (tLa (.v 0) (.v 1) (.v 2) (.v 3) .i32 0x1e 0x0)),
     (0x3C0000F000100000DEADBEEF, .movi ⟨⟨false, 0⟩, .v 15, .v 0, .i32, 0x0, 0xdeadbeef⟩)] := by
  unfold tLaneDecodes
  decide +kernel

theorem decode_lane_memory : tLaneDecodes
    [(0x40090030011C40593FFFFC00, .laneLd ⟨⟨true, 1⟩, .v 3, .v 1, 7, .i32, 0, 1, 3, 0, 2, 1, -4⟩),
     (0x40100030011C929000000800, .laneSt ⟨⟨false, 0⟩, .v 3, .v 1, 7, .bf16, 1, 2, 2, 0, 0, 0, 8⟩),
     (0x40200030011E000000001000, .ldv ⟨⟨false, 0⟩, .v 3, .v 1, 7, .vpf, 0, 0, 0, 0, 0, 0, 16⟩),
     (0x40300030011E140000001000, .stv ⟨⟨false, 0⟩, .v 3, .v 1, 7, .vpfc, 2, 0, 0, 0, 0, 0, 16⟩),
     (0x40400000011C400080004000, .pref ⟨⟨false, 0⟩, .v 0, .v 1, 7, .i32, 0, 0, 0, 0, 1, 0, 64⟩),
     (0x50008090011C52C800000000, .atom ⟨⟨false, 0⟩, .s 9, .v 1, 7, .n32, 1, 3, 1, 0, 0, 0, 0⟩),
     (0x50100030011C612A00000000, .atomc ⟨⟨false, 0⟩, .v 3, .v 1, 7, .i64, 0, 4, 5, 1, 0, 0, 0⟩),
     (0x50200030011C420000000400, .ldfe ⟨⟨false, 0⟩, .v 3, .v 1, 7, .i32, 1, 0, 0, 0, 0, 0, 4⟩),
     (0x50300030011C848800000400, .stfe ⟨⟨false, 0⟩, .v 3, .v 1, 7, .f32, 2, 2, 1, 0, 0, 0, 4⟩),
     (0x50400000011C520200000400, .fesetFull ⟨⟨false, 0⟩, .v 0, .v 1, 7, .n32, 1, 0, 0, 1, 0, 0, 4⟩),
     (0x50400000011C520400000400, .fesetEmpty ⟨⟨false, 0⟩, .v 0, .v 1, 7, .n32, 1, 0, 0, 2, 0, 0, 4⟩),
     (0x40000030011C424200000400, .ldWf ⟨⟨false, 0⟩, .v 3, .v 1, 7, .i32, 1, 1, 0, 1, 0, 0, 4⟩),
     (0x40100030011C420200000400, .stFill ⟨⟨false, 0⟩, .v 3, .v 1, 7, .i32, 1, 0, 0, 1, 0, 0, 4⟩),
     (0x40100030011C420400000400, .stEmpty ⟨⟨false, 0⟩, .v 3, .v 1, 7, .i32, 1, 0, 0, 2, 0, 0, 4⟩)] := by
  unfold tLaneDecodes
  decide +kernel

theorem decode_matrix : tLaneDecodes
    [(0x6000050201D8C92640000001, .mma ⟨⟨false, 0⟩, 5, .v 32, 7, 1, 2, 3, .bf16, .bf16, true, false, 1, 0, 0, true⟩),
     (0x6010020201C4104432090000, .mmas ⟨⟨false, 0⟩, 2, .v 32, 7, 0, 1, 0, .e4m3, .e5m2, false, false, 0, 200, 9, false⟩),
     (0x602003000000000000000000, .accz ⟨⟨false, 0⟩, 3, .v 0, 0, 0, 0, 0, .i8, .i8, false, false, 0, 0, 0, false⟩),
     (0x60300050011C80001FFF8000, .accld ⟨⟨false, 0⟩, .v 5, .v 1, 7, .f32, 0, 0, 0, 0, 0, 0, -128⟩),
     (0x604000F0011C829800008000, .accst ⟨⟨false, 0⟩, .v 15, .v 1, 7, .f32, 1, 2, 3, 0, 0, 0, 128⟩),
     (0x605001C80900000020000000, .accrd (tLa (.v 28) (.s 9) (.v 0) (.v 0) .f32 0x0 0x0)),
     (0x606000000480900020000000, .accwr (tLa (.v 0) (.v 4) (.s 9) (.v 0) .f32 0x0 0x0)),
     (0x607000000000000000000000, .mbfen ⟨⟨false, 0⟩, .v 0, .v 0, .i8, 0x0, 0x0⟩),
     (0x60800000000000000000FFFF, .mbwait ⟨⟨false, 0⟩, .v 0, .v 0, .i8, 0x0, 0xffff⟩)] := by
  unfold tLaneDecodes
  decide +kernel

/-- Words that are not assigned (R124, R126, R127, R130 to R135): a function code, a reserved major, a nonzero unused field, a sub-field; negated p0,
a type code, an operand's zero bits, an opcode. -/
theorem decode_unassigned :
    ([0x00000007, 0x04414615, 0x3C000000, 0x00010000, 0x18417006, 0x1C417000, 0x64416FFD, 0x8C0FF000, 0xA0C00000, 0x84014001] : List W32).all
        (fun w => decodeScalar w = none) = true ∧
      ([0x000800C00100500010000000, 0x04C000C00100000010000000, 0x148000C00100000020000000, 0x000010C00100500010000000,
        0x700000C00100500010000000] : List W96).all (fun w => decodeLane w = none) = true ∧
      decodeHeader 0xF00300390200000000000001 = none :=
  by decide +kernel

/-- The header of a clause of three instructions that waits for f0 and f1 and f3 to f5, sets f2 and has helper lanes (R127, R136). -/
theorem decode_header :
    (decodeHeader 0xF00303B90200000000000000).map (fun h => (h.count, h.wait, h.helper)) = some (3, 0x03B, true) :=
  by decide +kernel

/-- A short table word is the scalar instruction, and its bits above are zero. -/
theorem decode_table_word :
    decodeTableWord 32 0x04414600 = some (.add 4 5 6) ∧ decodeTableWord 96 0x000000C00100500010000000 = some (.iadd (tAb .i32 0 0)) :=
  by decide +kernel

/-- The word placed for the next step is what it fetches and runs. -/
theorem place_word_runs :
    (tDone (tState.withFetchWord 32 0x04414600)).map (fun t => spGet t.cur.sregs 4) = some 9 ∧
      (match step (State.reset.withFetchWord 32 0x04414600) with
        | .next _ => true
        | _ => false) = true :=
  by decide +kernel

/-! ### Ill-formed terms, one for each check -/

/-- None of the terms is well formed. -/
def tIll (l : List Instr) : Prop := ∀ i ∈ l, i.wellFormed = false

/-- Scalar words: bit-field bounds, LD's sign bit, order and scope, negated p0, p0 as a destination, barrier and window numbers, CPY2D's row register
(R26, R125, R157, R159, R166 to R172). -/
theorem ill_formed_scalar : tIll
    [.bfx 4 5 60 4, .bfxn 4 5 63 1, .bfi 4 5 1 63, .ld 4 5 3 1 0, .amoSwap 4 5 5 0 0, .amoAdd 4 5 1 6 0, .amoAnd 4 5 7 0 0, .amoOr 4 5 4 7 0,
     .amoXor 4 5 6 0 1, .amoMin 4 5 5 5 1, .amoMax 4 5 2 6 1, .amoMinn 4 5 3 7 0, .amoMaxn 4 5 5 0 0, .amoFadd 4 5 1 6, .cas 4 5 6 5 0 1,
     .mpush 1 0, .pmov 4 1 0, .setp 0 4, .fenceFull 0 6, .fenceAcquire 0 7, .fenceRelease 1 6, .fenceSc 1 7, .barSync 4 16, .barArv 4 63,
     .cpy2d 4 5 0 1, .winwait 4 5 2, .wincnt 4 5 63] := by
  unfold tIll; decide +kernel

/-- Formats LA and LI: the predicate, each operand, the type, mod, ext, yw, the rounding mode, the immediate (R23, R26, R126 to R134). -/
theorem ill_formed_lane : tIll
    [.iadd { tAb .i32 0 0 with pr := ⟨true, 0⟩ }, .iadd { tAb .i32 0 0 with d := .imm 1 }, .iadd { tAb .i32 0 0 with a := .p false 1 },
     .iadd { tAb .i64 0 0 with b := .c 7 }, .iadd { tAb .i64 0 0 with a := .y 0 }, .iadd { tAb .i32 0 0 with c := .v 1 }, .iadd (tAb .f32 0 0),
     .iadd (tAb .i32 2 0), .iadd (tAb .i32 0 1), .iadd { tAb .i64 0 0 with yw := true }, .fadd (tAb .f32 0x380 0), .fadd (tAb .i32 0 0),
     .fadd { tAb .e4m3 0 0 with a := .imm 1 }, .icmp { tAb .i32 0 0 with d := .p false 0 }, .icmp { tAb .i32 0 0 with d := .p true 3 }, .icmp (tAb .i32 6 0),
     .icmp { tAb .i32 8 0 with c := .p false 1 }, .idot4 (tAbc .i16 0 0), .bfn3 (tAbc .n32 0 0x100), .cvt (tA .i32 0 0x2000), .pack (tA .f32 0 0x0800),
     .unpack (tA .i32 0 0x1600), .scalex (tA .e8m0 0 0x0800), .lperm (tAb .i32 0x14 0), .qxch (tA .f32 3 0), .red (tA .f32 3 0), .scan (tA .bf16 6 0),
     .ppoll { tA .n32 0 0 with d := .v 1 }, .xadd { tAb .vpf 0 0x2000 with b := .s 1 }, .xadd (tAb .f32 0 0x2000), .xrnd (tA .vpfc 0 0x2001),
     .spec (tLa (.v 12) (.v 0) (.v 0) (.v 0) .n32 10 0), .ixset (tLa (.v 0) (.v 0) (.v 0) (.v 0) .i32 3 0), .laneSel (tAb .i32 0 0),
     .pfn3 (tAbc .i8 0 0), .mov (tA .i32 1 0), .movi { tLi (.v 0) .i8 0 0x100 with d := .v 1 }, .iaddLi (tLi (.v 1) .n8 0 0x100),
     .iaddLi (tLi (.v 1) .vpf 0 0), .fmathDivLi (tLi (.v 1) .f32 0 0), .mbfen { tLi (.v 0) .i8 0 1 with d := .v 0 },
     .mbwait { tLi (.v 0) .i8 0 0x10000 with d := .v 0 }, .accrd { tLa (.v 28) (.v 1) (.v 0) (.v 0) .f32 0 0 with reuse := true },
     .accwr { tLa (.v 0) (.v 4) (.v 1) (.v 0) .i32 0 0 with reuse := false }] := by
  unfold tIll; decide +kernel

/-- Formats LM and LX: space, cache, vec, order, scope, fe, type, operands; shape, pair, mode, scales, tile (R96, R105, R130, R131, R234 to R261). -/
theorem ill_formed_memory_and_matrix : tIll
    [.laneLd { tLm (.v 3) .i32 0 0 0 with space := 4 }, .laneLd { tLm (.v 3) .i32 0 0 0 with space := 0, cache := 3 },
     .laneLd { tLm (.v 3) .i32 0 0 0 with cache := 1 }, .laneLd { tLm (.v 3) .i32 0 0 0 with vec := 3 }, .laneLd (tLm (.v 3) .i32 2 0 0),
     .laneLd { tLm (.v 3) .i32 1 0 0 with scope := 6 }, .laneLd (tLm (.v 3) .i32 0 3 0), .laneLd (tLm (.v 3) .e2m1 0 0 0), .laneLd (tLm (.imm 3) .i32 0 0 0),
     .laneLd { tLm (.v 3) .i32 0 0 0 with addr := .p false 1 }, .laneSt (tLm (.v 3) .i32 1 0 0), .ldv (tLm (.v 3) .f32 0 0 0), .stv (tLm (.v 3) .vpf 1 0 0),
     .pref (tLm (.v 0) .i32 0 0 0), .atom (tLm (.v 3) .i16 0 0 0), .atom (tLm (.v 3) .i32 5 0 0), .atomc (tLm (.v 3) .f32 0 1 0),
     .ldfe (tLm (.v 3) .i64 0 0 0), .stfe { tLm (.v 3) .i32 0 0 0 with space := 0 }, .fesetFull (tLm (.v 3) .i32 0 1 0), .fesetEmpty (tLm (.v 0) .i32 0 1 0),
     .ldWf (tLm (.v 3) .i32 0 2 0), .stFill (tLm (.v 3) .i32 1 1 0), .stEmpty (tLm (.v 3) .i32 0 1 0), .accld (tLm (.v 16) .f32 0 0 0),
     .accst (tLm (.v 0) .i32 0 0 0), .mma { tMma .bf16 with mCode := 3 }, .mma { tMma .bf16 with nCode := 3 }, .mma { tMma .bf16 with tB := .f16 },
     .mma { tMma .bf16 with mode := 3 }, .mma { tMma .bf16 with zero := true }, .mma { tMma .bf16 with aScale := 1 }, .mma { tMma .bf16 with a := .c 1 },
     .mma { tMma .bf16 with mode := 2, kCode := 4 }, .mmas (tMma .bf16), .mmas { tMma .e4m3 with mode := 2 }, .accz { tAccz 0 with bBase := 1 }] := by
  unfold tIll; decide +kernel

/-! ### Values worked out from the rules -/

/-- What a step of the current group's instruction leaves in a scalar register. -/
def tGives (i : Instr) (s : State) (r : Nat) : Option W64 :=
  match exec i s with
  | .next t => some (spGet t.cur.sregs r)
  | _ => none

/-- ADDI's immediate is signed, and the sum wraps (R150, R156). -/
theorem test_addi_wraps : tGives (.addi 4 5 (-8)) tState 4 = some 0xFFFFFFFFFFFFFFFF := by decide +kernel

/-- −2^63 divided by −1 is −2^63, and a division by 0 gives −1 (R155). -/
theorem test_div_corners :
    tGives (.div 4 5 6) (tCur fun g => { g with sregs := [(5, 0x8000000000000000), (6, 0xFFFFFFFFFFFFFFFF)] }) 4 = some 0x8000000000000000 ∧
      tGives (.div 4 5 0) tState 4 = some 0xFFFFFFFFFFFFFFFF ∧ tGives (.remn 4 5 0) tState 4 = some 7 := by decide +kernel

/-- The unsigned high product of the two largest values is 2^64 − 2, the signed one 0 (R154). -/
theorem test_high_products :
    tGives (.mulhn 4 5 5) (tReg 5 0xFFFFFFFFFFFFFFFF) 4 = some 0xFFFFFFFFFFFFFFFE ∧ tGives (.mulh 4 5 5) (tReg 5 0xFFFFFFFFFFFFFFFF) 4 = some 0 :=
  by decide +kernel

/-- Shifts ignore bits 63:6 of the amount; SHA copies bit 63 (R154). -/
theorem test_shift_amount :
    tGives (.shl 4 5 6) (tCur fun g => { g with sregs := [(5, 7), (6, 0x41)] }) 4 = some 14 ∧
      tGives (.shiSha 4 5 63) (tReg 5 0x8000000000000000) 4 = some 0xFFFFFFFFFFFFFFFF := by decide +kernel

/-- CMPI.LTN against −1 is 1 for every a but the largest (R157). -/
theorem test_cmpi_ltn : tGives (.cmpiLtn 4 5 (-1)) tState 4 = some 1 ∧ tGives (.cmpiLtn 4 5 (-1)) (tReg 5 0xFFFFFFFFFFFFFFFF) 4 = some 0 :=
  by decide +kernel

/-- LHI copies bit 19 of its immediate into bits 63:32 (R158); BFXN sign-extends its field (R159); MSUB subtracts the product (R160). -/
theorem test_lhi_bfxn_msub :
    tGives (.lhi 4 0x80000) tState 4 = some 0xFFFFFFFF80000000 ∧ tGives (.bfxn 4 5 1 1) tState 4 = some 0xFFFFFFFFFFFFFFFF ∧
      tGives (.msub 4 5 6 5) tState 4 = some 0xFFFFFFFFFFFFFFF9 := by decide +kernel

/-- A write to s0 is discarded (R150). -/
theorem test_s0 : tGives (.add 0 5 6) tState 0 = some 0 := by decide +kernel

/-- A branch counts words from its own address (R123). -/
theorem test_branch :
    (match exec (.bnz 5 (-3)) tState with
      | .next t => some t.cur.pc
      | _ => none) = some 0xFFF4 := by decide +kernel

/-- A store and a signed load of its bytes (R5, R166). -/
theorem test_store_load :
    (match exec (.st 5 4 1 (-1)) (tCur fun g => { g with sregs := [(4, 0x20000), (5, 0x8001)] }) with
      | .next t => some (memRead t 0x1FFFE 2, tGives (.ld 6 4 1 1 (-1)) t 6)
      | _ => none) = some ([0x01, 0x80], some 0xFFFFFFFFFFFF8001) := by decide +kernel

/-- The misaligned trap: cause and value saved, the mask all ones, the scalar thread at `tvec` (R152, R327, R328). -/
theorem test_misaligned :
    (match exec (.ld 6 4 3 0 0) (tCur fun g => { g with sregs := [(4, 0x20004)], tvec := 0x30000, amask := 3 }) with
      | .next t => some (t.cur.pc, t.cur.amask, memRead t 0x40000 1, memRead t 0x40008 4, memRead t 0x40010 4)
      | _ => none) = some (0x30000, 0xFFFFFFFF, [0x0D], [0x00, 0x00, 0x01, 0x00], [0x04, 0x00, 0x02, 0x00]) := by decide +kernel

/-- 2^24 + 1 rounds to even in f32, and up under RUP; 1.5 in signed binary8 of P = 3 is 0x42, and −1.5 is 0xC2 (R48, R57). -/
theorem test_rounding :
    roundTo 0 fmtF32 .rne 0 (numOfInt 16777217) = (0x4B800000, fNX) ∧ roundTo 0 fmtF32 .rup 0 (numOfInt 16777217) = (0x4B800001, fNX) ∧
      (roundTo 0x600 (fmtB8 0x600) .rne 0 (.fin false 3 (-1))).1 = 0x42 ∧ (roundTo 0x600 (fmtB8 0x600) .rne 0 (.fin true 3 (-1))).1 = 0xC2 :=
  by decide +kernel

/-- 1.5 at WPREC 24 is slot b = 0x3FFF_8000, slot b+1 = 0 (R50); in memory at S = 4, t = 0 it is 0x20, 0x3F, 0xFF, 0x80 (R52). -/
theorem test_variable_precision :
    codeWindow 24 (roundTo 0 (fmtVpf 24) .rne 0 (.fin false 3 (-1))).1 = 0x3FFF8000 ∧
      (let x := vpfElement [0x20, 0x3F, 0xFF, 0x80]; x.1 = 9 ∧ decodeNum (fmtVpf x.1) x.2 = .fin false 0x180 (-8)) := by decide +kernel

/-- −2^−20 into unsigned binary8 of P = 4 is 0x00 with UF and NX under RNE, and under RDN NaN with NV (R65). -/
theorem test_negative_into_unsigned :
    convertNum 0x1800 (fmtB8 0x1800) .rne 0 (.fin true 1 (-20)) = (0, fUF ||| fNX) ∧
      (convertNum 0x1800 (fmtB8 0x1800) .rdn 0 (.fin true 1 (-20))).2 = fNV := by decide +kernel

end Sys2Proof.Tests
end

section
/-! The state after reset: what each register of class 0x03 reads as, and the rest of the machine. -/
namespace Sys2Proof.Machine

/-! ### The registers of class 0x03 at reset -/

/-- At reset no register has been written, so each holds its default. -/
theorem mgmtRaw_reset {off : Nat} {r : MReg} (h : mregOf off = some r) :
    mgmtRaw State.reset off = mregDefault (recordNow State.reset).test off r := by
  unfold mgmtRaw
  rw [h]
  rfl

theorem mgmtField_reset {off : Nat} {r : MReg} (h : mregOf off = some r) (hi lo : Nat) :
    mgmtField State.reset off hi lo = bitsOf (mregDefault (recordNow State.reset).test off r) hi lo := by
  rw [mgmtField, mgmtRaw_reset h]

theorem mregOf_queue : ∀ q < 64, mregOf (0x100 + 8 * q) = some (.queue q) := by decide +kernel

theorem mregOf_age : ∀ l < 7, mregOf (0x300 + 8 * l) = some (.age l) := by decide +kernel

theorem mregOf_region : ∀ r < 16, ∀ f < 5, mregOf (regionOff r f) = some (.region r f) := by decide +kernel

theorem mregOf_port : ∀ p < 32, ∀ f < 4, mregOf (portOff p f) = some (.port p f) := by decide +kernel

theorem mgmtRead_reset_queue {q : Nat} (h : q < 64) : mgmtRead State.reset (0x100 + 8 * q) = 0 := by
  rw [mgmtRead, mgmtRaw_reset (mregOf_queue q h), mregOf_queue q h]
  rfl

theorem mgmtRead_reset_age {l : Nat} (h : l < 7) : mgmtRead State.reset (0x300 + 8 * l) = 0 := by
  rw [mgmtRead, mgmtRaw_reset (mregOf_age l h), mregOf_age l h]
  rfl

/-- A field that a mask leaves out of a value is zero. -/
theorem bitsOf_and_eq_zero (x m : W64) (hi lo : Nat) (h : bitsOf m hi lo = 0) : bitsOf (x &&& m) hi lo = 0 := by
  unfold bitsOf at *
  rw [BitVec.toNat_and, Nat.shiftRight_and_distrib, Nat.and_mod_two_pow, h, Nat.and_zero]

/-- The boot's STAGE and ERR do not come from the configuration record (R427). -/
theorem mgmtField_reset_boot : mgmtField State.reset 0x08 3 0 = 0 ∧ mgmtField State.reset 0x08 8 8 = 0 := by
  have hr : mregOf 0x08 = some .boot := rfl
  rw [mgmtField_reset hr, mgmtField_reset hr]
  exact ⟨bitsOf_and_eq_zero _ _ _ _ (by decide), bitsOf_and_eq_zero _ _ _ _ (by decide)⟩

theorem mgmtField_reset_region {r : Nat} (h : r < 16) : mgmtField State.reset (regionOff r 0) 11 0 = 2000 ∧
    mgmtField State.reset (regionOff r 1) 11 0 = 2000 ∧ mgmtField State.reset (regionOff r 3) 1 0 = 0 := by
  rw [mgmtField_reset (mregOf_region r h 0 (by decide)), mgmtField_reset (mregOf_region r h 1 (by decide)),
    mgmtField_reset (mregOf_region r h 3 (by decide))]
  exact ⟨rfl, rfl, rfl⟩

/-- A port is down with its lasers off and AUTOWAKE set (R413). -/
theorem mgmtField_reset_port {p : Nat} (h : p < 32) : mgmtField State.reset (portOff p 0) 63 62 = 2 ∧
    mgmtField State.reset (portOff p 0) 61 60 = 3 ∧ mgmtField State.reset (portOff p 0) 59 58 = 0 ∧
    mgmtField State.reset (portOff p 0) 57 57 = 1 ∧ mgmtField State.reset (portOff p 0) 33 16 = 0 := by
  have hd : mregDefault (recordNow State.reset).test (portOff p 0) (.port p 0) = 0xB200000000000000 := rfl
  simp only [mgmtField_reset (mregOf_port p h 0 (by decide)), hd]
  decide

/-- CRCERR of a wavelength does not come from the configuration record (R347). -/
theorem mgmtRead_reset_crcerr : mgmtRead State.reset 0x2000 &&& 0x1FFF = 0 := by
  have hr : mregOf 0x2000 = some (.bunting 0 0 0) := rfl
  have hd : mgmtRead State.reset 0x2000 =
      (Config.record (recordNow State.reset).test 0x2000 &&& healthFromRecord) ||| maskBits 51 44 := mgmtRaw_reset hr
  have hh : healthFromRecord &&& 0x1FFF = 0#64 := by decide
  have hm : maskBits 51 44 &&& 0x1FFF = 0#64 := by decide
  rw [hd, BitVec.and_or_distrib_right, BitVec.and_assoc, hh, hm, BitVec.and_zero, BitVec.or_zero]
  rfl

/-! ### The rest of the machine at reset -/

/-- No cell is listed and no domain's bytes were revived, so every byte reads zero. -/
theorem memGet_reset (a : Nat) : memGet State.reset a = 0 := by
  have hm : spGet State.reset.mem a = 0 := rfl
  have hu : memUnlisted State.reset.revived a = 0 := rfl
  rw [memGet, hm, hu]
  rfl

theorem allGroups_reset : allGroups State.reset = [] := rfl

theorem allCrews_reset : allCrews State.reset = [] := rfl

/-- No domain register has been written, and its default is every domain on and ready (R391). -/
theorem domainOn_reset (st : Nat) {d : Nat} (h : d < 5) : domainOn State.reset st d = true := by
  have hr : domainReg State.reset st = 0x3FF := rfl
  have hb : ∀ d < 5, bitAt (0x3FF : W64) d = true ∧ bitAt (0x3FF : W64) (5 + d) = true := by decide
  obtain ⟨hon, hready⟩ := hb d h
  rw [domainOn, hr, hon, hready]
  rfl

/-- Settles O58: each register holds its default, as none has been written; the rest of the reset state is written out. -/
theorem resetState : Obligations.ResetState :=
  ⟨reset_wf, memGet_reset, allGroups_reset, allCrews_reset, rfl, rfl, fun st _ _ hd => domainOn_reset st hd, rfl,
    mgmtField_reset_boot.1, mgmtField_reset_boot.2, rfl, fun _ hq => mgmtRead_reset_queue hq, fun _ hl => mgmtRead_reset_age hl, rfl, rfl,
    rfl, fun _ hr => mgmtField_reset_region hr, fun _ hp => mgmtField_reset_port hp, mgmtRead_reset_crcerr, rfl, rfl⟩

end Sys2Proof.Machine
end

section
/-! Frames: what the operations of the model that write no memory leave as it was. Each lemma is the model's own case split, with the
frames of the operations it calls. -/
namespace Sys2Proof.Machine

/-- A fold of changes that leave memory as it was. -/
@[simp] theorem foldl_mem {α : Type} (f : State → α → State) (hf : ∀ t x, (f t x).mem = t.mem) (l : List α) (s : State) :
    (l.foldl f s).mem = s.mem := foldl_keeps State.mem f hf l s

@[simp] theorem ite_mem_eq (c : Prop) [Decidable c] (s t : State) (m : List Host.Cell) :
    (if c then s else t).mem = m ↔ (c → s.mem = m) ∧ (¬c → t.mem = m) := by split <;> simp [*]

/-! ### Registers and groups -/

@[simp] theorem onCrewData_mem (s : State) (k f) : (onCrewData s k f).mem = s.mem := by
  unfold onCrewData
  split <;> rfl

@[simp] theorem onGroupData_mem (s : State) (k f) : (onGroupData s k f).mem = s.mem := by
  unfold onGroupData
  split <;> rfl

/-! ### Device registers and ports -/

@[simp] theorem onRegion_mem (s : State) (r f) : (onRegion s r f).mem = s.mem := rfl

@[simp] theorem resendFlit_mem (s : State) (p seq) : (resendFlit s p seq).mem = s.mem := by simp [resendFlit]

@[simp] theorem sendWidth_mem (s : State) (p epoch payload) : (sendWidth s p epoch payload).mem = s.mem := rfl

@[simp] theorem sleepNow_mem (s : State) (p) : (sleepNow s p).mem = s.mem := by
  unfold sleepNow
  dsimp only
  split <;> simp

@[simp] theorem autoWake_mem (s : State) (p) : (autoWake s p).mem = s.mem := by
  unfold autoWake
  split <;> simp

@[simp] theorem wakePeer_mem (s : State) (d) : (wakePeer s d).mem = s.mem := by
  unfold wakePeer
  split <;> simp

@[simp] theorem loamPut_mem (s : State) (st off v) : (loamPut s st off v).mem = s.mem := rfl

@[simp] theorem domainOff_mem (s : State) (st d) : (domainOff s st d).mem = s.mem := rfl

@[simp] theorem domainOnReq_mem (s : State) (st d) : (domainOnReq s st d).mem = s.mem := rfl

@[simp] theorem tilePut_mem (s : State) (t) : (tilePut s t).mem = s.mem := rfl

@[simp] theorem tileWrite_mem (s : State) (id ws) : (tileWrite s id ws).mem = s.mem := rfl

/-! ### Coherence -/

@[simp] theorem putWord_mem (s : State) (d) : (putWord s d).mem = s.mem := rfl

@[simp] theorem onPlane_mem (s : State) (p f) : (onPlane s p f).mem = s.mem := rfl

@[simp] theorem queueSlot_mem (s : State) (p w m) : (queueSlot s p w m).mem = s.mem := rfl

@[simp] theorem recallLine_mem (s : State) (line) : (recallLine s line).mem = s.mem := by
  unfold recallLine
  split <;> rfl

@[simp] theorem recallOne_mem (s : State) (line) : (recallOne s line).mem = s.mem := by
  fun_cases recallOne s line <;> simp

@[simp] theorem enterLine_mem (s : State) (line) : (enterLine s line).mem = s.mem := by
  fun_cases enterLine s line <;> simp

@[simp] theorem refreshFilter_mem (s : State) (line) : (refreshFilter s line).mem = s.mem := by
  unfold refreshFilter
  dsimp only
  split <;> simp

@[simp] theorem recallDone_mem (s : State) (line) : (recallDone s line).mem = s.mem := by simp [recallDone]

@[simp] theorem bumpGrant_mem (s : State) (line) : (bumpGrant s line).mem = s.mem := rfl

@[simp] theorem serveDead_mem (s : State) (line m) : (serveDead s line m).mem = s.mem := by simp [serveDead]

@[simp] theorem applyGetS_mem (s : State) (c line m) : (applyGetS s c line m).mem = s.mem := by
  unfold applyGetS
  dsimp only
  split <;> simp

@[simp] theorem applyGetM_mem (s : State) (c line m) : (applyGetM s c line m).mem = s.mem := by simp [applyGetM]

@[simp] theorem applyInv_mem (s : State) (line m) : (applyInv s line m).mem = s.mem := by simp [applyInv]

@[simp] theorem applyPutM_mem (s : State) (c line m ver) : (applyPutM s c line m ver).mem = s.mem := by simp [applyPutM]

@[simp] theorem sendRequest_mem (s : State) (c line m x) : (sendRequest s c line m x).mem = s.mem := by
  unfold sendRequest
  split <;> rfl

@[simp] theorem askLine_mem (s : State) (c line m write core agent) : (askLine s c line m write core agent).mem = s.mem := by simp [askLine]

@[simp] theorem askHome_mem (s : State) (line m write) : (askHome s line m write).mem = s.mem := by
  fun_cases askHome s line m write <;> rfl

@[simp] theorem devAsk_mem (s : State) (l) : (devAsk s l).mem = s.mem := by simp [devAsk]

@[simp] theorem askWords_mem (s : State) (write pol line m) : (askWords s write pol line m).mem = s.mem := by
  unfold askWords
  split <;> simp

@[simp] theorem claimLine_mem (w core agent ps acc line) : (claimLine w core agent ps acc line).2.mem = acc.2.mem := by
  unfold claimLine
  dsimp only
  split <;> simp

@[simp] theorem claimRuns_mem (s : State) (w core agent l) : (claimRuns s w core agent l).2.mem = s.mem :=
  foldl_keeps (fun p : List Own × State => p.2.mem) _ (fun _ _ => claimLine_mem ..) _ _

@[simp] theorem ownLine_mem (s : State) (id) : (ownLine s id).mem = s.mem := rfl

/-! ### Accesses -/

@[simp] theorem scTake_mem (s : State) (u order scope lane) : (scTake s u order scope lane).mem = s.mem := by
  unfold scTake
  split <;> rfl

@[simp] theorem scAsk_mem (s : State) (u order scope) (t : State) : (scAsk s u order scope t).mem = t.mem := by
  unfold scAsk
  split <;> rfl

/-! ### Shared operations -/

@[simp] theorem stall_mem (s : State) : (stall s).mem = s.mem := rfl

/-- A trap that waits has written nothing. -/
theorem trapWaits_mem {s t : State} {lane} (e : trapWaits s lane = some t) : t.mem = s.mem := by
  unfold trapWaits at e
  split at e
  · cases e; rfl
  · split at e
    · cases e
    · split at e <;> cases e
      next hb => exact (congrArg State.mem (writeSaveArea_busy hb) :)

/-! ### Scalar arithmetic -/

@[simp] theorem jumpTo_mem (s : State) (target) : (jumpTo s target).mem = s.mem := rfl

/-! ### The scalar thread -/

@[simp] theorem postOverrun_mem (s : State) (g) : (postOverrun s g).mem = s.mem := by simp [postOverrun]

@[simp] theorem settleOverrun_mem (s : State) (g) : (settleOverrun s g).mem = s.mem := by
  unfold settleOverrun
  split <;> simp

@[simp] theorem endWith_mem (kept) (s : State) : (endWith kept s).mem = s.mem := by
  fun_cases endWith kept s <;> simp

@[simp] theorem enqueue_mem (s : State) (e) : (enqueue s e).mem = s.mem := by
  unfold enqueue
  split <;> rfl

/-! ### Lane operands -/

@[simp] theorem commitLane_mem (s : State) (r yw) : (commitLane s r yw).mem = s.mem := rfl

@[simp] theorem perLane_mem (yw f v) (s : State) : (perLane yw f v s).mem = s.mem := by simp [perLane]

/-! ### Cross-lane operations -/

@[simp] theorem redBody_mem (scan x v) (s : State) : (redBody scan x v s).mem = s.mem := rfl

/-! ### Lane memory -/

@[simp] theorem issueLong_mem (returning tiles writes act) (s : State) : (issueLong returning tiles writes act s).mem = s.mem := by
  unfold issueLong
  split <;> rfl

@[simp] theorem askLanes_mem (write) (s : State) (accs) : (askLanes write s accs).mem = s.mem := by simp [askLanes]

@[simp] theorem sendBcast_mem (x v line) (s : State) : (sendBcast x v line s).mem = s.mem := by
  unfold sendBcast
  split <;> rfl

@[simp] theorem prefBody_mem (x v) (s : State) : (prefBody x v s).mem = s.mem := by
  unfold prefBody
  split <;> simp

@[simp] theorem feSet_mem (s : State) (pa full) : (feSet s pa full).mem = s.mem := rfl

/-! ### Matrix operations -/

@[simp] theorem issueMatrix_mem (tiles act band) (s : State) : (issueMatrix tiles act band s).mem = s.mem := rfl

@[simp] theorem mmaWrite_mem (s : State) (g o) : (mmaWrite s g o).mem = s.mem :=
  foldl_mem _ (fun _ _ => tileWrite_mem ..) _ _

@[simp] theorem scTile_mem (x) (s : State) : (scTile x s).mem = s.mem := by
  unfold scTile
  split <;> rfl

@[simp] theorem accrdBody_mem (x v) (s : State) : (accrdBody x v s).mem = s.mem := by
  unfold accrdBody
  split <;> simp

@[simp] theorem accwrBody_mem (x v) (s : State) : (accwrBody x v s).mem = s.mem := by
  unfold accwrBody
  split <;> simp

@[simp] theorem askDst_mem (s : State) (dst) : (askDst s dst).mem = s.mem := by simp [askDst]

/-! ### Engine operations -/

@[simp] theorem issueOp_mem (s : State) (o) : (issueOp s o).mem = s.mem := by
  unfold issueOp
  split <;> rfl

@[simp] theorem putOp_mem (s : State) (o) : (putOp s o).mem = s.mem := rfl

@[simp] theorem claimOp_mem (s : State) (w own f) : (claimOp s w own f).mem = s.mem := by simp [claimOp]

@[simp] theorem issueCopy_mem (s : State) (kind rows n bar t sel) : (issueCopy s kind rows n bar t sel).mem = s.mem := by
  unfold issueCopy
  dsimp only
  split
  · simp
  · split <;> simp [stall]

/-! ### System instructions -/

@[simp] theorem pushStays_mem (w pkt) (s : State) : (pushStays w pkt s).mem = s.mem := rfl

@[simp] theorem postInval_mem (s : State) (w grp asid lo len) : (postInval s w grp asid lo len).mem = s.mem := rfl

@[simp] theorem sendInval_mem (s : State) (asid lo len) : (sendInval s asid lo len).mem = s.mem := rfl

/-! ### Named tiles -/

@[simp] theorem sendNet_mem (s : State) (m) : (sendNet s m).mem = s.mem := rfl

@[simp] theorem answerFaces_mem (k r pn bytes fs) (s : State) : (answerFaces k r pn bytes fs s).mem = s.mem :=
  foldl_mem _ (fun _ _ => sendNet_mem ..) _ _

@[simp] theorem transit_mem (s : State) (p m) : (transit s p m).mem = s.mem := by
  unfold transit
  dsimp only
  (repeat' split) <;> simp

@[simp] theorem takeMsg_mem (s : State) (m) : (takeMsg s m).mem = s.mem := rfl

@[simp] theorem onRouter_mem (s : State) (r f) : (onRouter s r f).mem = s.mem := rfl

@[simp] theorem routerCount_mem (s : State) (r f lo n) : (routerCount s r f lo n).mem = s.mem := by simp [routerCount]

@[simp] theorem retryWaiting_mem (s : State) (r p) : (retryWaiting s r p).mem = s.mem := rfl

theorem makeRoom_mem (r n) (fuel : Nat) : ∀ {s t : State}, makeRoom s r n fuel = some t → t.mem = s.mem := by
  induction fuel with
  | zero => intro s t e; cases e
  | succ fuel ih =>
    intro s t e
    unfold makeRoom at e
    dsimp only at e
    split at e
    · cases e; rfl
    · split at e
      · cases e
      · split at e
        · exact (ih e).trans (by simp)
        · cases e

@[simp] theorem recordDecl_mem (b) (s : State) : (recordDecl b s).mem = s.mem := by
  unfold recordDecl
  split <;> rfl

@[simp] theorem onDecl_mem (id f) (s : State) : (onDecl id f s).mem = s.mem := rfl

@[simp] theorem settleDecl_mem (o st) (s : State) : (settleDecl o st s).mem = s.mem := by
  unfold settleDecl
  split <;> simp

@[simp] theorem declareOwn_mem (m o) (s : State) : (declareOwn m o s).mem = s.mem := by
  fun_cases declareOwn m o s <;> simp

@[simp] theorem declareHere_mem (m p) (s : State) : (declareHere m p s).mem = s.mem := by
  unfold declareHere
  dsimp only
  (repeat' split) <;> simp

@[simp] theorem declAnswered_mem (id st) (s : State) : (declAnswered id st s).mem = s.mem := by
  fun_cases declAnswered id st s <;> simp

@[simp] theorem declLost_mem (id) (s : State) : (declLost id s).mem = s.mem := by
  fun_cases declLost id s <;> simp

@[simp] theorem onWant_mem (s : State) (c pn f) : (onWant s c pn f).mem = s.mem := rfl

@[simp] theorem dropWant_mem (s : State) (c pn) : (dropWant s c pn).mem = s.mem := by
  unfold dropWant
  split <;> rfl

@[simp] theorem endOp_mem (s : State) (o st) : (endOp s o st).mem = s.mem := rfl

@[simp] theorem endRecords_mem (s : State) (c pn st) : (endRecords s c pn st).mem = s.mem :=
  (dropWant_mem ..).trans (foldl_mem _ (fun _ _ => endOp_mem ..) _ _)

@[simp] theorem sendInterest_mem (s : State) (c pn) : (sendInterest s c pn).mem = s.mem := by
  unfold sendInterest
  dsimp only
  split <;> simp

@[simp] theorem wantTile_mem (s : State) (c pn) : (wantTile s c pn).mem = s.mem := by
  unfold wantTile
  split <;> simp

@[simp] theorem issueNreq_mem (s : State) (dst own pn tgt) : (issueNreq s dst own pn tgt).mem = s.mem := by
  unfold issueNreq
  dsimp only
  split
  · simp
  · split
    · simp
    · split
      · rfl
      · split <;> simp

@[simp] theorem forwardInterest_mem (s : State) (r e) : (forwardInterest s r e).mem = s.mem := by
  unfold forwardInterest
  split <;> rfl

@[simp] theorem interestEntry_mem (s : State) (m path) : (interestEntry s m path).mem = s.mem := by
  fun_cases interestEntry s m path <;> simp

@[simp] theorem interestOn_mem (s : State) (m path) : (interestOn s m path).mem = s.mem := by
  fun_cases interestOn s m path <;> simp

@[simp] theorem interestAt_mem (s : State) (m) : (interestAt s m).mem = s.mem := by
  unfold interestAt
  split
  · rw [interestOn_mem]
    split
    · split <;> simp
    · rfl
  · simp

@[simp] theorem nackAt_mem (s : State) (m) : (nackAt s m).mem = s.mem := by
  fun_cases nackAt s m <;> simp

@[simp] theorem broadcastTile_mem (s : State) (r num pn mask bytes) : (broadcastTile s r num pn mask bytes).mem = s.mem := by
  unfold broadcastTile
  dsimp only
  rw [routerCount_mem, foldl_mem _ (fun _ _ => queueSlot_mem ..), foldl_mem _ (fun _ _ => queueSlot_mem ..)]

@[simp] theorem deliverEntry_mem (s : State) (r pn bytes) : (deliverEntry s r pn bytes).mem = s.mem := by
  unfold deliverEntry
  dsimp only
  (repeat' split) <;> simp

@[simp] theorem coverEntry_mem (pn mask) (s : State) (r) : (coverEntry pn mask s r).mem = s.mem := by
  unfold coverEntry
  dsimp only
  (repeat' split) <;> simp

@[simp] theorem onCollect_mem (s : State) (w num f) : (onCollect s w num f).mem = s.mem := rfl

@[simp] theorem applyDesc_mem (s : State) (w num pn mask chunks) : (applyDesc s w num pn mask chunks).mem = s.mem := by
  unfold applyDesc
  split <;> simp

@[simp] theorem endPub_mem (s : State) (m st) : (endPub s m st).mem = s.mem := by
  fun_cases endPub s m st <;> rfl

@[simp] theorem recordProducer_mem (d k) (s : State) : (recordProducer d k s).mem = s.mem := by
  unfold recordProducer
  split <;> rfl

@[simp] theorem storePub_mem (s : State) (m d) : (storePub s m d).mem = s.mem := by
  unfold storePub
  dsimp only
  split
  · simp
  · split
    · simp
    · split
      · simp
      · next e => simp [makeRoom_mem _ _ _ e]

@[simp] theorem serveSpilled_mem (s : State) (r t) : (serveSpilled s r t).mem = s.mem := by simp [serveSpilled]

@[simp] theorem endTile_mem (s : State) (r pn) : (endTile s r pn).mem = s.mem := by
  unfold endTile
  dsimp only
  (repeat' split) <;> simp

@[simp] theorem endDecl_mem (s : State) (t) : (endDecl s t).mem = s.mem := by simp [endDecl]

@[simp] theorem dropHere_mem (s : State) (m) : (dropHere s m).mem = s.mem := by
  unfold dropHere
  dsimp only
  (repeat' split) <;> simp

@[simp] theorem dropAt_mem (s : State) (m) : (dropAt s m).mem = s.mem := by
  unfold dropAt
  split <;> simp

@[simp] theorem neverAt_mem (s : State) (m) : (neverAt s m).mem = s.mem := by
  fun_cases neverAt s m <;> simp

@[simp] theorem cancelAt_mem (s : State) (m) : (cancelAt s m).mem = s.mem := by
  fun_cases cancelAt s m <;> rfl

@[simp] theorem withdraw_mem (s : State) (pn os) : (withdraw s pn os).mem = s.mem := by
  have hend : (os.foldl (fun s o => endOp s o 0x07) s).mem = s.mem := foldl_mem _ (fun _ _ => endOp_mem ..) _ _
  unfold withdraw
  dsimp only
  split
  · rfl
  · split
    · exact foldl_mem _ (fun _ _ => putOp_mem ..) _ _
    · split
      · rw [sendNet_mem, dropWant_mem, hend]
      · exact hend

/-! ### Loam units -/

@[simp] theorem issueSkcmd_mem (s : State) (addr ctl target b) : (issueSkcmd s addr ctl target b).mem = s.mem := by
  unfold issueSkcmd
  dsimp only
  split
  · simp
  · split
    · simp
    · split
      · rfl
      · split <;> simp

@[simp] theorem startOrdered_mem (s : State) (o b) : (startOrdered s o b).mem = s.mem := by simp [startOrdered]

@[simp] theorem acceptColl_mem (s : State) (o b cw q) : (acceptColl s o b cw q).mem = s.mem := by
  unfold acceptColl
  dsimp only
  split <;> simp

@[simp] theorem dropPage_mem (s : State) (asid va) : (dropPage s asid va).mem = s.mem := rfl

@[simp] theorem beginMove_mem (s : State) (o b l) : (beginMove s o b l).mem = s.mem := by
  unfold beginMove
  dsimp only
  split <;> simp

@[simp] theorem heatPage_mem (st) (s : State) (p) : (heatPage st s p).mem = s.mem := by
  fun_cases heatPage st s p <;> rfl

@[simp] theorem newWindow_mem (st) (s : State) : (newWindow st s).mem = s.mem := rfl

/-! ### The broadcast layer -/

@[simp] theorem takeSlot_mem (s : State) (p x) : (takeSlot s p x).mem = s.mem := rfl

@[simp] theorem sendFrame_mem (f) (t s : State) (p) : (sendFrame f t s p).mem = s.mem := rfl

@[simp] theorem countCrc_mem (s : State) (off) : (countCrc s off).mem = s.mem := by simp [countCrc]

@[simp] theorem dropReserved_mem (s : State) (p) : (dropReserved s p).mem = s.mem := by
  unfold dropReserved
  refine (foldl_mem _ (fun t x => ?_) _ _).trans (onPlane_mem ..)
  split <;> simp

@[simp] theorem noteNack_mem (s : State) (off) : (noteNack s off).mem = s.mem := by
  unfold noteNack
  dsimp only
  split <;> simp

@[simp] theorem killWave_mem (s : State) (p w off) : (killWave s p w off).mem = s.mem := by
  unfold killWave
  dsimp only
  split <;> simp

@[simp] theorem firmBunting_mem (s : State) (p off v) : (firmBunting s p off v).mem = s.mem := by
  unfold firmBunting
  dsimp only
  split <;> simp

@[simp] theorem nackFrom_mem (s : State) (p r w f first wave) : (nackFrom s p r w f first wave).mem = s.mem := by
  unfold nackFrom
  dsimp only
  (repeat' split) <;> simp

@[simp] theorem holdFrom_mem (s : State) (p r f) : (holdFrom s p r f).mem = s.mem := by
  unfold holdFrom
  split <;> rfl

@[simp] theorem markBad_mem (s : State) (p x) : (markBad s p x).mem = s.mem := by
  unfold markBad
  dsimp only
  (repeat' split) <;> simp

@[simp] theorem replayFrom_mem (s : State) (p w f) : (replayFrom s p w f).mem = s.mem := rfl

@[simp] theorem extendReplay_mem (s : State) (p w f first last) : (extendReplay s p w f first last).mem = s.mem := by
  fun_cases extendReplay s p w f first last <;> rfl

@[simp] theorem resumePlane_mem (s : State) (p) : (resumePlane s p).mem = s.mem :=
  foldl_mem _ (fun _ _ => queueSlot_mem ..) _ _

@[simp] theorem writeBack_mem (s : State) (c d) : (writeBack s c d).mem = s.mem := by
  unfold writeBack
  dsimp only
  split <;> rfl

@[simp] theorem dropCopies_mem (s : State) (c d) : (dropCopies s c d).mem = s.mem := by
  unfold dropCopies
  split <;> rfl

@[simp] theorem speculate_mem (s : State) (g) : (speculate s g).mem = s.mem := by simp [speculate]

@[simp] theorem senseWave_mem (s : State) : (senseWave s).mem = s.mem := by simp [senseWave]

@[simp] theorem spontaneous_mem (s : State) : (spontaneous s).mem = s.mem := by
  fun_cases spontaneous s <;> simp

@[simp] theorem wordsCome_mem (s : State) (m f) : (wordsCome s m f).mem = s.mem := rfl

@[simp] theorem closeRequest_mem (s : State) (c line m) : (closeRequest s c line m).mem = s.mem := rfl

@[simp] theorem applyOwn_mem (s : State) (x line m) : (applyOwn s x line m).mem = s.mem := by
  unfold applyOwn
  split <;> simp

@[simp] theorem applyUpgrade_mem (s : State) (x line m) : (applyUpgrade s x line m).mem = s.mem := by
  unfold applyUpgrade
  dsimp only
  split <;> simp

@[simp] theorem poisonDead_mem (s : State) (a) : (poisonDead s a).mem = s.mem := by
  fun_cases poisonDead s a <;> rfl

@[simp] theorem afterRetune_mem (s : State) (p wr) : (afterRetune s p wr).mem = s.mem := by
  unfold afterRetune
  dsimp only
  (repeat' split) <;> simp

/-! ### Placement and pre-emption -/

@[simp] theorem onLaunch_mem (s : State) (id f) : (onLaunch s id f).mem = s.mem := rfl

@[simp] theorem postRecord_mem (s : State) (src status launch) : (postRecord s src status launch).mem = s.mem := by
  unfold postRecord
  split <;> rfl

@[simp] theorem readyNode_mem (s : State) (n) : (readyNode s n).mem = s.mem := rfl

@[simp] theorem decrement_mem (s : State) (src launch n) : (decrement s src launch n).mem = s.mem := by
  unfold decrement
  dsimp only
  (repeat' split) <;> simp

@[simp] theorem completePlain_mem (s : State) (src status launch) : (completePlain s src status launch).mem = s.mem := by
  unfold completePlain
  dsimp only
  (repeat' split) <;> simp

@[simp] theorem settleJobs_mem (s : State) : (settleJobs s).mem = s.mem := by simp [settleJobs]

@[simp] theorem completeNode_mem (s : State) (src launch n) : (completeNode s src launch n).mem = s.mem := by simp [completeNode]

@[simp] theorem completeWork_mem (s : State) (src status launch) : (completeWork s src status launch).mem = s.mem := by
  unfold completeWork
  split <;> simp

@[simp] theorem dropHostStores_mem (s : State) (r) : (dropHostStores s r).mem = s.mem := by simp [dropHostStores]

@[simp] theorem poisonAt_mem (s : State) (pa offs) : (poisonAt s pa offs).mem = s.mem :=
  foldl_mem _ (fun _ _ => poisonWord_mem ..) _ _

@[simp] theorem freshTiles_mem (s : State) (cl co ps) : (freshTiles s cl co ps).mem = s.mem := by
  unfold freshTiles
  refine foldl_mem _ ?_ ps s
  exact fun _ _ => tilePut_mem ..

@[simp] theorem bandPlaced_mem (s : State) (l) : (bandPlaced s l).mem = s.mem := by
  fun_cases bandPlaced s l <;> rfl

@[simp] theorem onBand_mem (s : State) (l b f) : (onBand s l b f).mem = s.mem := rfl

@[simp] theorem preemptBand_mem (s : State) (l b) : (preemptBand s l b).mem = s.mem := rfl

@[simp] theorem onCrewGroups_mem (s : State) (k f) : (onCrewGroups s k f).mem = s.mem := rfl

@[simp] theorem stopCrew_mem (dbl) (s : State) (k) : (stopCrew dbl s k).mem = s.mem := by simp [stopCrew]

@[simp] theorem poisonCtx_mem (l b va) (s : State) (o) : (poisonCtx l b va s o).mem = s.mem := by
  unfold poisonCtx
  split
  · exact foldl_mem _ (fun _ _ => poisonWord_mem ..) _ _
  · rfl

@[simp] theorem loadFe_mem (s : State) (pa x) : (loadFe s pa x).mem = s.mem := rfl

@[simp] theorem dropBand_mem (s : State) (l b) : (dropBand s l b).mem = s.mem := rfl

@[simp] theorem settleLaunch_mem (s : State) (id) : (settleLaunch s id).mem = s.mem := by
  fun_cases settleLaunch s id <;> simp

@[simp] theorem endBand_mem (s : State) (x) : (endBand s x).mem = s.mem := by simp [endBand]

@[simp] theorem endCrew_mem (s : State) (c) : (endCrew s c).mem = s.mem := by
  unfold endCrew
  split <;> simp

/-! ### The scheduler -/

theorem takeNode_mem {s : State} {n x} (e : takeNode s n = some x) : x.2.mem = s.mem := by
  unfold takeNode at e
  split at e <;> cases e
  rfl

@[simp] theorem reject_mem (s : State) (t) : (reject s t).mem = s.mem := by simp [reject]

@[simp] theorem enterLevel_mem (level id) (s : State) : (enterLevel level id s).mem = s.mem := rfl

@[simp] theorem runGraph_mem (p) (s : State) (src) : (runGraph p s src).mem = s.mem :=
  foldl_mem _ (fun _ _ => readyNode_mem ..) _ _

@[simp] theorem cqEvent_mem (s : State) (x) : (cqEvent s x).mem = s.mem := by simp [cqEvent]

@[simp] theorem cqUnusable_mem (s : State) (x) : (cqUnusable s x).mem = s.mem := by
  unfold cqUnusable
  dsimp only
  (repeat' split) <;> simp

@[simp] theorem raiseVector_mem (s : State) (v) : (raiseVector s v).mem = s.mem := by
  unfold raiseVector
  split <;> rfl

@[simp] theorem postIrq_mem (s : State) (irq) : (postIrq s irq).mem = s.mem := by
  unfold postIrq
  split <;> simp

@[simp] theorem dropBad_mem (w) (s : State) (p) : (dropBad w s p).mem = s.mem := by
  unfold dropBad
  split <;> simp

@[simp] theorem sendPoison_mem (w) (s : State) (line) : (sendPoison w s line).mem = s.mem := by
  fun_cases sendPoison w s line <;> rfl

@[simp] theorem dropHolder_mem (s : State) (w) : (dropHolder s w).mem = s.mem := by simp [dropHolder]

@[simp] theorem endMeeting_mem (s : State) (r) : (endMeeting s r).mem = s.mem := by
  unfold endMeeting
  refine (foldl_mem _ (fun t m => ?_) _ _).trans (by simp)
  split <;> simp

@[simp] theorem dropLinks_mem (s : State) (w) : (dropLinks s w).mem = s.mem := by simp [dropLinks]

@[simp] theorem fenceLayer_mem (s : State) (w) : (fenceLayer s w).mem = s.mem := by simp [fenceLayer]

@[simp] theorem fenceOps_mem (s : State) (w) : (fenceOps s w).mem = s.mem := rfl

@[simp] theorem redoBand_mem (s : State) (x) : (redoBand s x).mem = s.mem := by
  unfold redoBand
  dsimp only
  split <;> rfl

@[simp] theorem loseBand_mem (w) (s : State) (x) : (loseBand w s x).mem = s.mem := by simp [loseBand]

@[simp] theorem fenceBand_mem (w) (s : State) (x) : (fenceBand w s x).mem = s.mem := by
  fun_cases fenceBand w s x <;> simp

@[simp] theorem showRecord_mem (s : State) : (showRecord s).mem = s.mem := by simp [showRecord]

@[simp] theorem writeRecordCopy_mem (s : State) (test map spares) :
    (writeRecordCopy s test map spares).mem = s.mem := by simp [writeRecordCopy]

@[simp] theorem rewriteRecord_mem (s : State) (c x spares) : (rewriteRecord s c x spares).mem = s.mem := by simp [rewriteRecord]

/-! ### Host and peers -/

@[simp] theorem wordEvent_mem (s : State) (o cword seq st) : (wordEvent s o cword seq st).mem = s.mem := by simp [wordEvent]

@[simp] theorem sendOff_mem (s : State) (o d) : (sendOff s o d).mem = s.mem := by
  unfold sendOff
  split <;> rfl

@[simp] theorem endPut_mem (s : State) (o ref src n st) : (endPut s o ref src n st).mem = s.mem := by
  fun_cases endPut s o ref src n st <;> simp

@[simp] theorem endRemotePub_mem (s : State) (o st) : (endRemotePub s o st).mem = s.mem := by
  unfold endRemotePub
  split <;> simp

@[simp] theorem answer_mem (s : State) (st bs) : (answer s st bs).mem = s.mem := rfl

@[simp] theorem unmaskVector_mem (s : State) (v) : (unmaskVector s v).mem = s.mem := by
  unfold unmaskVector
  split <;> rfl

@[simp] theorem msixWrite_mem (s : State) (off v) : (msixWrite s off v).mem = s.mem := by
  unfold msixWrite
  dsimp only
  (repeat' split) <;> simp

@[simp] theorem hostIoWrite_mem (s : State) (off bs) : (hostIoWrite s off bs).mem = s.mem := by
  fun_cases hostIoWrite s off bs <;> simp

@[simp] theorem hostWrite_mem (s : State) (pa bs) : (hostWrite s pa bs).mem = s.mem := by
  unfold hostWrite
  split <;> rfl

@[simp] theorem commandEffect_mem (s : State) (block) : (commandEffect s block).mem = s.mem := by
  unfold commandEffect
  split <;> rfl

@[simp] theorem barWrite_mem (s : State) (off v) : (barWrite s off v).mem = s.mem := by
  unfold barWrite
  split <;> simp

@[simp] theorem dropLink_mem (s : State) (p) : (dropLink s p).mem = s.mem := by
  unfold dropLink
  split <;> simp

@[simp] theorem endInterests_mem (p) (s : State) (r) : (endInterests p s r).mem = s.mem := by simp [endInterests]

@[simp] theorem endOver_mem (s : State) (p) : (endOver s p).mem = s.mem := by simp [endOver]

@[simp] theorem linkLost_mem (s : State) (p) : (linkLost s p).mem = s.mem := by simp [linkLost]

@[simp] theorem proposeWithout_mem (s : State) (p w) : (proposeWithout s p w).mem = s.mem := by
  fun_cases proposeWithout s p w <;> simp

@[simp] theorem degradeWave_mem (s : State) (p w) : (degradeWave s p w).mem = s.mem := by simp [degradeWave]

@[simp] theorem firmWave_mem (s : State) (p w v) : (firmWave s p w v).mem = s.mem := by
  unfold firmWave
  dsimp only
  split <;> simp

@[simp] theorem lowerWarn_mem (s : State) (r v) : (lowerWarn s r v).mem = s.mem := rfl

@[simp] theorem firmWrite_mem (s : State) (off v) : (firmWrite s off v).mem = s.mem := by
  fun_cases firmWrite s off v <;> simp

/-! ### Ports -/

@[simp] theorem sendTraining_mem (s : State) (p) : (sendTraining s p).mem = s.mem := by
  unfold sendTraining
  dsimp only
  split <;> rfl

@[simp] theorem sendOne_mem (s : State) (p) : (sendOne s p).mem = s.mem := by
  fun_cases sendOne s p <;> rfl

@[simp] theorem pumpFrom_mem (p) (n : Nat) : ∀ s : State, (pumpFrom p n s).mem = s.mem := by
  induction n with
  | zero => exact fun s => rfl
  | succ n ih => exact fun s => (ih _).trans (by simp)

@[simp] theorem pump_mem (s : State) (p) : (pump s p).mem = s.mem := by
  unfold pump
  split <;> simp

@[simp] theorem takeAck_mem (s : State) (p f) : (takeAck s p f).mem = s.mem := by simp [takeAck]

@[simp] theorem heedPropose_mem (s : State) (p f) : (heedPropose s p f).mem = s.mem := by
  unfold heedPropose
  dsimp only
  split <;> simp

@[simp] theorem heedTrain_mem (s : State) (p f) : (heedTrain s p f).mem = s.mem := by
  unfold heedTrain
  dsimp only
  split <;> rfl

@[simp] theorem lightLanes_mem (s : State) (p m) : (lightLanes s p m).mem = s.mem := by simp [lightLanes]

@[simp] theorem proposeAgain_mem (s : State) (p) : (proposeAgain s p).mem = s.mem := by
  unfold proposeAgain
  split <;> simp

@[simp] theorem heedAccept_mem (s : State) (p f) : (heedAccept s p f).mem = s.mem := by
  unfold heedAccept
  split <;> simp

@[simp] theorem retireLane_mem (p) (s : State) (w) : (retireLane p s w).mem = s.mem := by simp [retireLane]

@[simp] theorem offerSpare_mem (s : State) (p w) : (offerSpare s p w).mem = s.mem := by
  fun_cases offerSpare s p w <;> rfl

@[simp] theorem settleSwitch_mem (s : State) (p) : (settleSwitch s p).mem = s.mem := by
  unfold settleSwitch
  dsimp only
  (repeat' split) <;> simp

@[simp] theorem measureTime_mem (s : State) (p f) : (measureTime s p f).mem = s.mem := by
  unfold measureTime
  split <;> rfl

@[simp] theorem forwardFlit_mem (s : State) (p b) : (forwardFlit s p b).mem = s.mem := by
  unfold forwardFlit
  dsimp only
  (repeat' split) <;> simp

@[simp] theorem deliverFlit_mem (s : State) (p f) : (deliverFlit s p f).mem = s.mem := by
  fun_cases deliverFlit s p f <;> simp

@[simp] theorem deliverFrom_mem (p) (n : Nat) : ∀ (s : State) (f), (deliverFrom p n s f).mem = s.mem := by
  induction n with
  | zero => exact fun s f => rfl
  | succ n ih =>
    intro s f
    unfold deliverFrom
    dsimp only
    split
    · exact (ih _ _).trans (by simp)
    · simp

@[simp] theorem takeSequenced_mem (s : State) (p f) : (takeSequenced s p f).mem = s.mem := by simp [takeSequenced]

@[simp] theorem dropFlit_mem (s : State) (p f) : (dropFlit s p f).mem = s.mem := by simp [dropFlit]

@[simp] theorem receiveFlit_mem (s : State) (p f) : (receiveFlit s p f).mem = s.mem := by
  unfold receiveFlit
  dsimp only
  (repeat' split) <;> simp

@[simp] theorem sendTime_mem (s : State) (p) : (sendTime s p).mem = s.mem := by
  unfold sendTime
  split <;> simp

@[simp] theorem linkUpOn_mem (s : State) (p w) : (linkUpOn s p w).mem = s.mem := by
  unfold linkUpOn
  dsimp only
  split <;> simp

@[simp] theorem proposeWith_mem (s : State) (p w) : (proposeWith s p w).mem = s.mem := rfl

@[simp] theorem unlight_mem (s : State) (p) : (unlight s p).mem = s.mem := by
  unfold unlight
  split <;> rfl

/-! ### Management -/

@[simp] theorem bootPort_mem (s : State) (p) : (bootPort s p).mem = s.mem := by
  unfold bootPort
  split <;> simp

@[simp] theorem lockWaves_mem (s : State) : (lockWaves s).mem = s.mem := foldl_mem _ (fun t i => by simp) _ _

@[simp] theorem runImage_mem (s : State) (i) : (runImage s i).mem = s.mem := by simp [runImage]

@[simp] theorem buildRecord_mem (s : State) : (buildRecord s).mem = s.mem := by
  unfold buildRecord
  dsimp only
  split <;> simp

@[simp] theorem applyRecord_mem (s : State) : (applyRecord s).mem = s.mem := by simp [applyRecord]

@[simp] theorem bootWork_mem (s : State) (stage) : (bootWork s stage).mem = s.mem := by
  unfold bootWork
  split <;> simp

@[simp] theorem bootFrom_mem (l : List Nat) : ∀ s : State, (bootFrom l s).mem = s.mem := by
  induction l with
  | nil => exact fun s => rfl
  | cons i r ih => exact fun s => by simp [bootFrom, ih]

@[simp] theorem driftTemp_mem (s : State) : (driftTemp s).mem = s.mem := by
  unfold driftTemp
  dsimp only
  split <;> simp

/-! ### The step -/

@[simp] theorem chooseTurn_mem (s : State) : (chooseTurn s).mem = s.mem := by simp [chooseTurn]

end Sys2Proof.Machine
end

section
/-! The canonical form of memory (log 3): every operation that writes memory keeps it. -/
namespace Sys2Proof.Machine

/-- An outcome leaves memory in its canonical form. -/
def OutWf (o : Out) : Prop := ∀ t, o = .next t → Memory.wf t.mem = true

/-- An access that is performed, or waits, leaves memory in its canonical form; `p` finds the state in what it answers. -/
def AccWf {α : Type} (p : α → State) (r : Acc α) : Prop :=
  (∀ a, r = .ok a → Memory.wf (p a).mem = true) ∧ ∀ t, r = .busy t → Memory.wf t.mem = true

/-- A change of the state keeps memory's form. -/
def KeepsWf (f : State → State) : Prop := ∀ s, Memory.wf s.mem = true → Memory.wf (f s).mem = true

/-- The body of a lane instruction keeps memory's form. -/
def BodyWf (b : LaneEnv → State → State) : Prop := ∀ v, KeepsWf (b v)

@[simp] theorem outWf_next (t : State) : OutWf (.next t) ↔ Memory.wf t.mem = true := by simp [OutWf]

@[simp] theorem outWf_ite (c : Prop) [Decidable c] (a b : Out) : OutWf (if c then a else b) ↔ (c → OutWf a) ∧ (¬c → OutWf b) := by
  split <;> simp [*]

@[simp] theorem ite_wf (c : Prop) [Decidable c] (s t : State) :
    Memory.wf (if c then s else t).mem = true ↔ (c → Memory.wf s.mem = true) ∧ (¬c → Memory.wf t.mem = true) := by
  split <;> simp [*]

/-- The state of an answer known as a pair. -/
theorem wf_of_snd {α : Type} {x : α × State} {a : α} {t : State} (e : x = (a, t)) (h : Memory.wf x.2.mem = true) :
    Memory.wf t.mem = true := by
  subst e; exact h

/-! ### Device registers and ports -/

@[simp] theorem ringPush_wf (s : State) (st k frame) (h : Memory.wf s.mem = true) :
    Memory.wf (ringPush s st k frame).mem = true := memWrite_wf _ _ _ h

@[simp] theorem pushKept_wf (s : State) (h : Memory.wf s.mem = true) : Memory.wf (pushKept s).mem = true :=
  foldl_wf _ (fun t e ht => by simp [ht]) _ s h

@[simp] theorem loamWrite_wf (s : State) (st off v) (h : Memory.wf s.mem = true) : Memory.wf (loamWrite s st off v).mem = true := by
  simp [loamWrite, h]

/-! ### Coherence -/

@[simp] theorem whenReady_wf (s : State) (l) (t : State) (hs : Memory.wf s.mem = true) (ht : Memory.wf t.mem = true) :
    Memory.wf (whenReady s l t).mem = true := by
  simp [whenReady, hs, ht]

@[simp] theorem ownedWrite_wf (s : State) (o pa bs) (h : Memory.wf s.mem = true) : Memory.wf (ownedWrite s o pa bs).mem = true := by
  unfold ownedWrite
  dsimp only
  split
  · exact h
  · exact memWrite_wf _ _ _ h

/-! ### Accesses -/

@[simp] theorem loadRuns_wf (s : State) (ea rs) (h : Memory.wf s.mem = true) : Memory.wf (loadRuns s ea rs).2.mem = true := by
  simp [loadRuns, readMark, touchRuns_wf _ _ _ _ _ h]

@[simp] theorem storeRuns_wf (s : State) (ea rs bs) (h : Memory.wf s.mem = true) : Memory.wf (storeRuns s ea rs bs).mem = true :=
  writePlaces_wf _ _ _ (touchRuns_wf _ _ _ _ _ h)

@[simp] theorem atomicDo_wf (s : State) (rs f) (h : Memory.wf s.mem = true) : Memory.wf (atomicDo s rs f).2.mem = true := by
  unfold atomicDo
  dsimp only
  split
  · simpa [takeMark] using h
  · exact writePlaces_wf _ _ _ h

@[simp] theorem atomicRuns_wf (s : State) (ea rs f) (h : Memory.wf s.mem = true) : Memory.wf (atomicRuns s ea rs f).2.mem = true :=
  atomicDo_wf _ _ _ (touchRuns_wf _ _ _ _ _ h)

theorem accessAt_wf {α : Type} (p : α → State) (f k) (s : State) (space ea n) (act : List Run → α) (h : Memory.wf s.mem = true)
    (ha : ∀ rs, Memory.wf (p (act rs)).mem = true) : AccWf p (accessAt f k s space ea n act) := by
  unfold accessAt
  split
  · simp [AccWf]
  · split
    · simpa [AccWf] using h
    · simpa [AccWf] using ha _

@[simp] theorem loadAt_wf (s : State) (space ea n) (h : Memory.wf s.mem = true) : AccWf Prod.snd (loadAt s space ea n) :=
  accessAt_wf _ _ _ _ _ _ _ _ h fun _ => loadRuns_wf _ _ _ h

@[simp] theorem storeAt_wf (s : State) (space ea bs) (h : Memory.wf s.mem = true) : AccWf id (storeAt s space ea bs) :=
  accessAt_wf _ _ _ _ _ _ _ _ h fun _ => storeRuns_wf _ _ _ _ h

@[simp] theorem atomicAt_wf (s : State) (space ea n f) (h : Memory.wf s.mem = true) : AccWf Prod.snd (atomicAt s space ea n f) :=
  accessAt_wf _ _ _ _ _ _ _ _ h fun _ => atomicRuns_wf _ _ _ _ h

/-- A change of what a waiting access leaves. -/
theorem onBusy_wf {α : Type} (p : α → State) (f : State → State) (hf : ∀ t, (f t).mem = t.mem) (r : Acc α) (h : AccWf p r) :
    AccWf p (r.onBusy f) := by
  obtain ⟨hok, hbusy⟩ := h
  cases r with
  | ok a => simpa [Acc.onBusy, AccWf] using hok
  | busy t => simpa [Acc.onBusy, AccWf, hf] using hbusy
  | err c => simp [Acc.onBusy, AccWf]

/-! ### Shared operations -/

theorem fetchWord_wf {s : State} {k va x} (e : fetchWord s k va = .ok x) (h : Memory.wf s.mem = true) : Memory.wf x.2.mem = true := by
  unfold fetchWord at e
  dsimp only at e
  split at e
  · cases e
  · split at e
    · split at e <;> cases e
      exact touchRuns_wf _ _ _ _ _ h
    · cases e

theorem fetchWords_wf {k} (n : Nat) :
    ∀ {s : State} {va x}, fetchWords s k va n = .ok x → Memory.wf s.mem = true → Memory.wf x.2.mem = true := by
  induction n with
  | zero => intro s va x e h; cases e; exact h
  | succ n ih =>
    intro s va x e h
    unfold fetchWords at e
    split at e
    · cases e
    · next hw =>
      split at e <;> cases e
      next hr => exact (ih hr (fetchWord_wf hw h) :)

theorem trapAfter_wf (f : State → State) (s : State) (lane) (trap : State → State) (hf : KeepsWf f) (ht : KeepsWf trap)
    (h : Memory.wf s.mem = true) : Memory.wf (trapAfter f s lane trap).mem = true := by
  unfold trapAfter
  split
  · next e => simpa [stall, trapWaits_mem e] using h
  · exact ht _ (hf _ h)

@[simp] theorem illegalScalar_wf (i) (s : State) (h : Memory.wf s.mem = true) : Memory.wf (illegalScalar i s).mem = true := by
  simp [illegalScalar, h, scalarTrap_wf]

@[simp] theorem illegalLane_wf (i) (s : State) (h : Memory.wf s.mem = true) : Memory.wf (illegalLane i s).mem = true := by
  simp [illegalLane, h, laneTrap_wf]

@[simp] theorem returnTrap_wf (s : State) (h : Memory.wf s.mem = true) : Memory.wf (returnTrap s).mem = true := by
  unfold returnTrap
  dsimp only
  split
  · exact scalarTrap_wf _ _ _ h
  · split
    · exact scalarTrap_wf _ _ _ h
    · split
      · simpa [stall] using h
      · split
        · exact scalarTrap_wf _ _ _ h
        · split
          · exact scalarTrap_wf _ _ _ (by simpa [readMark] using touchRuns_wf _ _ _ _ _ h)
          · simpa [readMark] using touchRuns_wf _ _ _ _ _ h

/-! ### The scalar thread -/

theorem fillGranule_wf {s t : State} {j} (e : fillGranule s j = .ok t) (h : Memory.wf s.mem = true) : Memory.wf t.mem = true := by
  unfold fillGranule at e
  dsimp only at e
  split at e <;> cases e
  exact touchRuns_wf _ _ _ _ _ h

theorem fillGranules_wf (l : List Nat) : ∀ {s t : State}, fillGranules s l = .ok t → Memory.wf s.mem = true → Memory.wf t.mem = true := by
  induction l with
  | nil => intro s t e h; cases e; exact h
  | cons j r ih =>
    intro s t e h
    unfold fillGranules at e
    split at e
    · split at e
      · cases e
      · next hj => exact ih e (fillGranule_wf hj h)
    · exact ih e h

@[simp] theorem mpush_wf (p) (s : State) (h : Memory.wf s.mem = true) : Memory.wf (mpush p s).mem = true := by
  simp [mpush, h, scalarTrap_wf]

theorem fence_wf (i e sc) (place : State → State) (s : State) (hp : KeepsWf place) (h : Memory.wf s.mem = true) :
    Memory.wf (fence i e sc place s).mem = true := by
  simp [fence, illegalScalar, scalarTrap_wf, stall, hp s h, h]

theorem barrier_wf (i a t) (k : State → Nat → State) (s : State) (hk : ∀ n, KeepsWf fun s => k s n) (h : Memory.wf s.mem = true) :
    Memory.wf (barrier i a t k s).mem = true := by
  unfold barrier
  dsimp only
  split
  · exact illegalScalar_wf _ _ h
  · split
    · exact scalarTrap_wf _ _ _ h
    · split
      · exact scalarTrap_wf _ _ _ h
      · split
        · exact h
        · split
          · exact scalarTrap_wf _ _ _ h
          · exact hk _ _ h

/-! ### Lane operands -/

theorem withEarly_wf (early fill i v ps) {body : LaneEnv → State → State} (s : State) (hb : BodyWf body) (h : Memory.wf s.mem = true) :
    Memory.wf (withEarly early fill i v ps body s).mem = true := by
  unfold withEarly
  split
  · exact illegalLane_wf _ _ h
  · split
    · exact laneTrap_wf _ _ _ h
    · split
      · exact h
      · split
        · exact laneTrap_wf _ _ _ h
        · split
          · exact laneTrap_wf _ _ _ h
          · next e => exact hb _ _ (fillGranules_wf _ e h)

theorem withLaneEarly_wf (early i p ps) {body : LaneEnv → State → State} (s : State) (hb : BodyWf body) (h : Memory.wf s.mem = true) :
    Memory.wf (withLaneEarly early i p ps body s).mem = true := by
  unfold withLaneEarly
  split
  · exact h
  · exact withEarly_wf _ _ _ _ _ _ hb h

theorem withLane_wf (fill i p ps) {body : LaneEnv → State → State} (s : State) (hb : BodyWf body) (h : Memory.wf s.mem = true) :
    Memory.wf (withLane fill i p ps body s).mem = true := by
  unfold withLane withEnv
  split
  · exact h
  · exact withEarly_wf _ _ _ _ _ _ hb h

theorem withLaneNoHelp_wf (early i p ps) {body : LaneEnv → State → State} (s : State) (hb : BodyWf body) (h : Memory.wf s.mem = true) :
    Memory.wf (withLaneNoHelp early i p ps body s).mem = true := by
  unfold withLaneNoHelp
  split
  · exact h
  · dsimp only
    split
    · exact laneTrap_wf _ _ _ h
    · exact withEarly_wf _ _ _ _ _ _ hb h

theorem perLane_wf (yw f) : BodyWf (perLane yw f) := fun _ _ h => by simpa using h

theorem runLaBody_wf (i x sh) {body : LaneEnv → State → State} (s : State) (hb : BodyWf body) (h : Memory.wf s.mem = true) :
    OutWf (runLaBody i x sh body s) := (outWf_next _).2 (withLane_wf _ _ _ _ _ hb h)

theorem runLa_wf (i x sh f) (s : State) (h : Memory.wf s.mem = true) : OutWf (runLa i x sh f s) := runLaBody_wf _ _ _ _ (perLane_wf _ _) h

theorem runLi_wf (i x sh f) (s : State) (h : Memory.wf s.mem = true) : OutWf (runLi i x sh f s) :=
  (outWf_next _).2 (withLane_wf _ _ _ _ _ (perLane_wf _ _) h)

/-! ### Lane floats -/

theorem exactBody_wf (mul x) : BodyWf (exactBody mul x) := fun v s h => by
  simp [exactBody, laneTrap_wf _ _ _ h, h]

/-! ### Cross-lane operations -/

theorem permBody_wf (x src) : BodyWf (permBody x src) := fun v s h => by
  unfold permBody
  dsimp only
  split
  · exact laneTrap_wf _ _ _ h
  · next e => simpa using fillGranules_wf _ e h

theorem runPerm_wf (i x sh src) (s : State) (h : Memory.wf s.mem = true) : OutWf (runPerm i x sh src s) :=
  (outWf_next _).2 (withLane_wf _ _ _ _ _ (permBody_wf _ _) h)

theorem runActive_wf (i x sh) {body : LaneEnv → State → State} (s : State) (hb : BodyWf body) (h : Memory.wf s.mem = true) :
    OutWf (runActive i x sh body s) := (outWf_next _).2 (withLane_wf _ _ _ _ _ hb h)

theorem redBody_wf (scan x) : BodyWf (redBody scan x) := fun _ _ h => by simpa using h

/-! ### Lane memory -/

theorem accessLanes_wf (may x write accs) {k : State → State} (s : State) (hk : KeepsWf k) (h : Memory.wf s.mem = true) :
    Memory.wf (accessLanes may x write accs k s).mem = true := by
  unfold accessLanes
  split
  · exact h
  · split
    · exact laneTrap_wf _ _ _ h
    · split
      · simpa [stall] using h
      · exact hk s h

theorem laneAccess_wf (x write accs) {k : State → State} (s : State) (hk : KeepsWf k) (h : Memory.wf s.mem = true) :
    Memory.wf (laneAccess x write accs k s).mem = true := accessLanes_wf _ _ _ _ _ (fun t ht => hk _ (by simpa using ht)) h

@[simp] theorem touchLanes_wf (k) (s : State) (accs) (h : Memory.wf s.mem = true) : Memory.wf (touchLanes k s accs).mem = true :=
  foldl_wf _ (fun _ _ => touchRuns_wf _ _ _ _ _) _ s h

@[simp] theorem loadLanes_wf (x l) : ∀ s : State, Memory.wf s.mem = true → Memory.wf (loadLanes x s l).2.mem = true := by
  induction l with
  | nil => exact fun s h => h
  | cons a r ih => exact fun s h => ih _ (loadRuns_wf _ _ _ h)

theorem ldBody_wf (x) : BodyWf (ldBody x) := fun v s h =>
  laneAccess_wf _ _ _ _ (fun t ht => by simp [ht]) h

@[simp] theorem writeLanes_wf (l) : ∀ s : State, Memory.wf s.mem = true → Memory.wf (writeLanes s l).mem = true := by
  induction l with
  | nil => exact fun s h => h
  | cons p r ih => exact fun s h => ih _ (writePlaces_wf _ _ _ h)

@[simp] theorem storeLanes_wf (s : State) (l) (h : Memory.wf s.mem = true) :
    Memory.wf (storeLanes s l).mem = true := writeLanes_wf _ _ (touchLanes_wf _ _ _ h)

theorem stBody_wf (x) : BodyWf (stBody x) := fun v s h => by
  unfold stBody
  split
  · dsimp only
    split
    · split <;> simp [h, touchRuns_wf _ _ _ _ _ h]
    · exact h
  · exact laneAccess_wf _ _ _ _ (fun t ht => by simp [ht]) h

@[simp] theorem ldvLanes_wf (x v l) : ∀ s : State, Memory.wf s.mem = true → Memory.wf (ldvLanes x v s l).2.mem = true := by
  induction l with
  | nil => exact fun s h => h
  | cons a r ih => exact fun s h => ih _ (loadRuns_wf _ _ _ h)

theorem ldvBody_wf (x) : BodyWf (ldvBody x) := fun v s h =>
  laneAccess_wf _ _ _ _ (fun t ht => by simp [ht]) h

theorem stvBody_wf (x) : BodyWf (stvBody x) := fun v s h =>
  laneAccess_wf _ _ _ _ (fun t ht => by simp [ht]) h

@[simp] theorem atomLanes_wf (x v s0 cas f l) :
    ∀ s : State, Memory.wf s.mem = true → Memory.wf (atomLanes x v s0 cas f s l).2.mem = true := by
  induction l with
  | nil => exact fun s h => h
  | cons a r ih => exact fun s h => ih _ (atomicDo_wf _ _ _ h)

theorem atomBody_wf (x cas f) : BodyWf (atomBody x cas f) := fun v s h =>
  laneAccess_wf _ _ _ _ (fun t ht => by simp [ht]) h

@[simp] theorem feStoreLanes_wf (full l) : ∀ s : State, Memory.wf s.mem = true → Memory.wf (feStoreLanes s full l).mem = true := by
  induction l with
  | nil => exact fun s h => h
  | cons p r ih => exact fun s h => ih _ (by simp [h])

theorem feNoWait_wf (x full data) : BodyWf (feNoWait x full data) := fun v s h => by
  unfold feNoWait
  exact (ite_wf _ _ _).2 ⟨fun _ => h, fun _ => laneAccess_wf _ _ _ _ (fun t ht => by simp [ht]) h⟩

@[simp] theorem feTry_wf (w x) (s : State) (h : Memory.wf s.mem = true) : Memory.wf (feTry w x s).1.mem = true := by
  unfold feTry
  dsimp only
  split
  · exact h
  · split
    · simp [h]
    · rw [feSet_mem]
      exact memWrite_wf _ _ _ (by simpa using h)

@[simp] theorem feTryAll_wf (s : State) (w) (h : Memory.wf s.mem = true) : Memory.wf (feTryAll s w).1.mem = true := by
  unfold feTryAll
  generalize ({ w with left := [] } : FeWait) = w0
  induction w.left generalizing s w0 with
  | nil => exact h
  | cons x r ih => exact ih _ (feTry_wf w0 x s h) _

@[simp] theorem feExpire_wf (s : State) (w) (h : Memory.wf s.mem = true) : Memory.wf (feExpire s w).mem = true := by
  simp [feExpire, h, laneTrap_wf]

@[simp] theorem feGoOn_wf (s : State) (w) (h : Memory.wf s.mem = true) : Memory.wf (feGoOn s w).mem = true := by simp [feGoOn, h]

theorem feWaitBody_wf (x load keep) : BodyWf (feWaitBody x load keep) := fun v s h => by
  unfold feWaitBody
  split
  · simp [h]
  · exact (ite_wf _ _ _).2 ⟨fun _ => h, fun _ => laneAccess_wf _ _ _ _ (fun t ht => feGoOn_wf _ _ ht) h⟩

theorem runFe_wf (i x data) {body : LaneEnv → State → State} (s : State) (hb : BodyWf body) (h : Memory.wf s.mem = true) :
    OutWf (runFe i x data body s) := (outWf_next _).2 (withLaneNoHelp_wf _ _ _ _ _ hb h)

theorem prefBody_wf (x) : BodyWf (prefBody x) := fun _ _ h => by simpa using h

/-! ### Matrix operations -/

theorem withMatrixEarly_wf (early i p pre ps) {body : LaneEnv → State → State} (s : State) (hb : BodyWf body) (h : Memory.wf s.mem = true) :
    Memory.wf (withMatrixEarly early i p pre ps body s).mem = true := by
  unfold withMatrixEarly
  split
  · exact h
  · split
    · exact illegalLane_wf _ _ h
    · split
      · exact laneTrap_wf _ _ _ h
      · split
        · exact laneTrap_wf _ _ _ h
        · split
          · exact laneTrap_wf _ _ _ h
          · exact withEarly_wf _ _ _ _ _ _ hb h

theorem withMatrix_wf (i p pre ps) {body : LaneEnv → State → State} (s : State) (hb : BodyWf body) (h : Memory.wf s.mem = true) :
    Memory.wf (withMatrix i p pre ps body s).mem = true := withMatrixEarly_wf _ _ _ _ _ _ hb h

theorem mmaBody_wf (x scaled) : BodyWf (mmaBody x scaled) := fun v s h => by
  unfold mmaBody
  dsimp only
  split
  · exact laneTrap_wf _ _ _ h
  · split <;> simp [stall, h]

@[simp] theorem accLoads_wf (l) : ∀ s : State, Memory.wf s.mem = true → Memory.wf (accLoads s l).2.mem = true := by
  induction l with
  | nil => exact fun s h => h
  | cons a r ih => exact fun s h => ih _ (loadRuns_wf _ _ _ h)

theorem accldBody_wf (x) : BodyWf (accldBody x) := fun v s h =>
  laneAccess_wf _ _ _ _ (fun t ht => by simp [ht]) h

theorem accstBody_wf (x) : BodyWf (accstBody x) := fun v s h =>
  accessLanes_wf _ _ _ _ _ (fun t ht => by simp [ht]) h

theorem mbwaitBody_wf (b) (s : State) (h : Memory.wf s.mem = true) : Memory.wf (mbwaitBody b s).mem = true := by
  unfold mbwaitBody
  split
  · exact h
  · split
    · exact trapAfter_wf _ _ _ _ (fun t ht => ht) (fun t ht => laneTrap_wf _ _ _ ht) h
    · exact h

@[simp] theorem performAct_wf (s : State) (o) (h : Memory.wf s.mem = true) : Memory.wf (performAct s o).mem = true := by
  unfold performAct
  split
  · exact h
  · exact h
  · exact h
  · exact h
  · exact h
  · refine foldl_wf _ (fun t d ht => ?_) _ _ h
    split
    · exact writePlace_wf _ _ _ ht
    · exact ht
  · exact h
  · simpa using h

@[simp] theorem completeLong_wf (o) (s : State) (h : Memory.wf s.mem = true) : Memory.wf (completeLong o s).mem = true := by
  simp [completeLong, h]

@[simp] theorem tryLong_wf (o) (s : State) (h : Memory.wf s.mem = true) : Memory.wf (tryLong o s).mem = true := by
  fun_cases tryLong o s <;> simp [h]

@[simp] theorem completeMatrix_wf (good o) (s : State) (h : Memory.wf s.mem = true) : Memory.wf (completeMatrix good o s).mem = true := by
  simp [completeMatrix, h]

@[simp] theorem completeSet_wf (s : State) (ms) (h : Memory.wf s.mem = true) : Memory.wf (completeSet s ms).mem = true :=
  foldl_wf _ (fun _ _ ht => onGroup_wf _ _ _ (fun _ => completeMatrix_wf _ _ _) ht) _ s h

@[simp] theorem tryBand_wf (k j o) (s : State) (h : Memory.wf s.mem = true) : Memory.wf (tryBand k j o s).mem = true := by
  simp [tryBand, onGroup_wf k _ s (fun _ => completeMatrix_wf _ _ _) h, h]

theorem accrdBody_wf (x) : BodyWf (accrdBody x) := fun _ _ h => by simpa using h

theorem accwrBody_wf (x) : BodyWf (accwrBody x) := fun _ _ h => by simpa using h

/-! ### Clauses -/

@[simp] theorem headerTrap_wf (s : State) (cause e) (h : Memory.wf s.mem = true) : Memory.wf (headerTrap s cause e).mem = true := by
  simp [headerTrap, h, takeTrap_wf]

@[simp] theorem clauseStart_wf (s : State) (h : Memory.wf s.mem = true) : Memory.wf (clauseStart s).mem = true := by
  unfold clauseStart
  split
  · split
    · exact h
    · split
      · exact headerTrap_wf _ _ _ h
      · next e =>
        have h1 := fetchWords_wf _ e h
        split
        · exact headerTrap_wf _ _ _ h1
        · split
          · exact h1
          · exact h
  · exact h

@[simp] theorem applyVput_wf (e r) (s : State) (h : Memory.wf s.mem = true) : Memory.wf (applyVput e r s).mem = true := by
  unfold applyVput
  dsimp only
  split
  · exact h
  · split
    · exact headerTrap_wf _ _ _ h
    · next e => exact (fillGranules_wf _ e h :)

@[simp] theorem positionedEffect_wf (s : State) (h : Memory.wf s.mem = true) : Memory.wf (positionedEffect s).mem = true := by
  fun_cases positionedEffect s <;> simp [h]

@[simp] theorem fillWanted_wf (j) (s : State) (h : Memory.wf s.mem = true) : Memory.wf (fillWanted j s).mem = true := by
  unfold fillWanted
  split
  · split
    · next e => exact fillGranules_wf _ e h
    · exact h
  · exact h

/-! ### Engine operations -/

@[simp] theorem twaitResult_wf (s : State) (d m) (h : Memory.wf s.mem = true) : Memory.wf (twaitResult s d m).mem = true := by
  unfold twaitResult
  dsimp only
  split <;> simp [h, scalarTrap_wf]

@[simp] theorem readMarks_wf (s : State) (a l) (h : Memory.wf s.mem = true) : Memory.wf (readMarks s a l).mem = true := by
  refine foldl_wf _ (fun t r ht => ?_) _ _ h
  split
  · exact touchRuns_wf _ _ _ _ _ ht
  · exact ht

@[simp] theorem engineWrite_wf (o rs) : ∀ (s : State) (bs), Memory.wf s.mem = true → Memory.wf (engineWrite s o rs bs).mem = true := by
  induction rs with
  | nil => exact fun s bs h => h
  | cons r rs ih =>
    intro s bs h
    refine ih _ _ ?_
    split
    · exact ownedWrite_wf _ _ _ _ h
    · exact memWrite_wf _ _ _ h

@[simp] theorem writeChunk_wf (a o) (s : State) (c) (h : Memory.wf s.mem = true) : Memory.wf (writeChunk a o s c).mem = true := by
  unfold writeChunk
  split
  · exact engineWrite_wf _ _ _ _ (touchRuns_wf _ _ _ _ _ h)
  · exact h

@[simp] theorem copyRows_wf (s : State) (a o mark rows) (h : Memory.wf s.mem = true) :
    Memory.wf (copyRows s a o mark rows).2.mem = true := by
  unfold copyRows
  split
  · exact h
  · split
    · exact h
    · exact foldl_wf _ (fun _ _ => writeChunk_wf _ _ _ _) _ _ (readMarks_wf _ _ _ h)

/-! ### Scalar memory -/

theorem scalarAcc_wf {α : Type} {p : α → State} {r : Acc α} {k : α → State} (s : State) (ea rs) (hr : AccWf p r)
    (hk : ∀ a, Memory.wf (p a).mem = true → Memory.wf (k a).mem = true) (h : Memory.wf s.mem = true) :
    Memory.wf (scalarAcc s ea rs r k).mem = true := by
  obtain ⟨hok, hbusy⟩ := hr
  unfold scalarAcc
  split
  · exact scalarTrap_wf _ _ _ h
  · split
    · exact h
    · split
      · exact scalarTrap_wf _ _ _ h
      · exact hbusy _ rfl
      · exact hk _ (hok _ rfl)

theorem amo_wf (i d a o sc n f) (s : State) (h : Memory.wf s.mem = true) : OutWf (amo i d a o sc n f s) := by
  unfold amo
  dsimp only
  split
  · simp [h]
  · split
    · simp [scalarTrap_wf, h]
    · split
      · simpa [stall] using h
      · exact (outWf_next _).2 (scalarAcc_wf _ _ _ (onBusy_wf _ _ (fun t => scAsk_mem ..) _ (atomicAt_wf _ _ _ _ _ h))
          (fun r hr => by simpa using hr) h)

@[simp] theorem lockWait_wf (t ea) (s : State) (h : Memory.wf s.mem = true) : Memory.wf (lockWait t ea s).mem = true := by
  have hl := loadAt_wf s 0 ea 8 h
  obtain ⟨hok, hbusy⟩ := hl
  unfold lockWait
  dsimp only
  split
  · exact takeTrap_wf _ _ _ _ _ _ h
  · next e => exact (hbusy _ e :)
  · next r e =>
    have hr := hok _ e
    split
    · exact hr
    · exact h

/-! ### System instructions -/

@[simp] theorem installSub_wf (s : State) (d t addr bs) (h : Memory.wf s.mem = true) : Memory.wf (installSub s d t addr bs).mem = true := by
  fun_cases installSub s d t addr bs <;> simp [h, scalarTrap_wf]

@[simp] theorem waitTrap_wf (s : State) (cause tval) (h : Memory.wf s.mem = true) : Memory.wf (waitTrap s cause tval).mem = true := by
  simp [waitTrap, h, takeTrap_wf]

@[simp] theorem putPacket_wf (s : State) (slot pkt w) (h : Memory.wf s.mem = true) : Memory.wf (putPacket s slot pkt w).mem = true := by
  simp [putPacket, h, writePlaces_wf]

@[simp] theorem pushFill_wf (d w pkt slot) (s : State) (h : Memory.wf s.mem = true) : Memory.wf (pushFill d w pkt slot s).mem = true := by
  unfold pushFill
  split <;> simp [h]

@[simp] theorem pushWait_wf (d a w pkt) (s : State) (h : Memory.wf s.mem = true) : Memory.wf (pushWait d a w pkt s).mem = true := by
  unfold pushWait
  split <;> simp [h]

@[simp] theorem pushClaim_wf (d a b) (s : State) (h : Memory.wf s.mem = true) : Memory.wf (pushClaim d a b s).mem = true :=
  scalarAcc_wf _ _ _ (loadAt_wf _ _ _ _ h) (fun _ hp => scalarAcc_wf _ _ _ (atomicAt_wf _ _ _ _ _ hp)
    (fun _ hr => pushWait_wf _ _ _ _ _ hr) h) h

@[simp] theorem matrixSave_wf (s : State) (h : Memory.wf s.mem = true) : Memory.wf (matrixSave s).mem = true := by
  unfold matrixSave
  dsimp only
  (repeat' split) <;> simp [h, scalarTrap_wf]

@[simp] theorem matrixRestore_wf (s : State) (h : Memory.wf s.mem = true) : Memory.wf (matrixRestore s).mem = true := by
  unfold matrixRestore
  dsimp only
  split
  · exact scalarTrap_wf _ _ _ h
  · split
    · exact scalarTrap_wf _ _ _ h
    · exact scalarTrap_wf _ _ _ h
    · split
      · simpa using h
      · rw [modCur_mem, advance_mem, foldl_mem _ (fun _ _ => tilePut_mem ..)]
        exact loadRuns_wf _ _ _ (loadRuns_wf _ _ _ h)

/-! ### Named tiles -/

@[simp] theorem declDone_wf (d id) (s : State) (h : Memory.wf s.mem = true) : Memory.wf (declDone d id s).mem = true := by
  unfold declDone
  split
  · exact h
  · split
    · exact h
    · dsimp only
      split
      · exact h
      · exact trapAfter_wf _ _ _ _ (fun t ht => ht) (fun t ht => waitTrap_wf _ _ _ ht) h

@[simp] theorem nreq_wf (d a b t bar) (s : State) (h : Memory.wf s.mem = true) : Memory.wf (nreq d a b t bar s).mem = true := by
  simp [nreq, h, scalarTrap_wf]

@[simp] theorem deliverLine_wf (bytes o acc i) (h : Memory.wf acc.2.mem = true) : Memory.wf (deliverLine bytes o acc i).2.mem = true := by
  unfold deliverLine
  split
  · exact h
  · split
    · exact h
    · split
      · exact h
      · split
        · exact h
        · refine engineWrite_wf _ _ _ _ ?_
          split
          · exact touchRuns_wf _ _ _ _ _ h
          · exact h

@[simp] theorem deliverRecord_wf (bytes) (s : State) (o) (h : Memory.wf s.mem = true) : Memory.wf (deliverRecord bytes s o).mem = true := by
  unfold deliverRecord
  split
  · simpa using h
  · rw [endOp_mem]
    exact List.foldlRecOn _ _ (motive := fun x : Byte × State => Memory.wf x.2.mem = true) h fun _ hx _ _ => deliverLine_wf _ _ _ _ hx

@[simp] theorem deliverCluster_wf (s : State) (c pn bytes) (h : Memory.wf s.mem = true) :
    Memory.wf (deliverCluster s c pn bytes).mem = true := by
  have hr (l : List EngOp) : Memory.wf (l.foldl (deliverRecord bytes) s).mem = true := foldl_wf _ (fun _ _ => deliverRecord_wf _ _ _) _ _ h
  simp [deliverCluster, hr]

@[simp] theorem applyChunk_wf (s : State) (w num idx bytes) (h : Memory.wf s.mem = true) :
    Memory.wf (applyChunk s w num idx bytes).mem = true := by
  unfold applyChunk
  split
  · exact h
  · dsimp only
    split
    · exact h
    · exact foldl_wf _ (fun _ _ => deliverCluster_wf _ _ _ _) _ _ h

@[simp] theorem snapMarks_wf (s : State) (o n) (h : Memory.wf s.mem = true) : Memory.wf (snapMarks s o n).mem = true := by
  unfold snapMarks
  split <;> simp [h]

@[simp] theorem publishNow_wf (s : State) (o pn d) (h : Memory.wf s.mem = true) : Memory.wf (publishNow s o pn d).mem = true := by
  unfold publishNow
  dsimp only
  (repeat' split) <;> simp [h]

@[simp] theorem issueNpub_wf (s : State) (o pn) (h : Memory.wf s.mem = true) : Memory.wf (issueNpub s o pn).mem = true := by
  unfold issueNpub
  split <;> simp [h]

@[simp] theorem npub_wf (d a t rel) (s : State) (h : Memory.wf s.mem = true) : Memory.wf (npub d a t rel s).mem = true := by
  simp [npub, h, scalarTrap_wf]

@[simp] theorem publicationAt_wf (s : State) (m) (h : Memory.wf s.mem = true) : Memory.wf (publicationAt s m).mem = true := by
  fun_cases publicationAt s m <;> simp [h]

/-! ### Loam units -/

@[simp] theorem skcmd_wf (f a b t) (s : State) (h : Memory.wf s.mem = true) : Memory.wf (skcmd f a b t s).mem = true := by
  have hs := scalarTrap_wf s (h := h)
  have hc := scalarAcc_wf (k := fun r => issueSkcmd r.2 (sreg s a) (sreg s b)
    (if f = .cw then .word else opTarget s.crew (f = .bb) t.toNat (bitAt (sreg s b) 32)) r.1) s (sreg s a)
    (checkedRuns loadErr s 0 .load (sreg s a) 64) (loadAt_wf s 0 (sreg s a) 64 h) (fun r hr => by simpa using hr) h
  simp [skcmd, stall, hs, hc, h]

theorem addInTurn_wf (s : State) (o b) {f : State → EngOp → List Byte → Byte × State}
    (hf : ∀ o b, Memory.wf (f s o b).2.mem = true) (h : Memory.wf s.mem = true) : Memory.wf (addInTurn s o b f).mem = true := by
  simp [addInTurn, hf, h]

theorem runCmd_wf (id op) {f : State → EngOp → List Byte → Byte × State} (s : State) (hf : ∀ o b, Memory.wf (f s o b).2.mem = true)
    (h : Memory.wf s.mem = true) : OutWf (runCmd id op f s) := by
  unfold runCmd
  split
  · split
    · simp [hf, h, addInTurn_wf s _ _ hf h]
    · simpa using h
  · simpa using h

theorem cmdLine_wf {a o} {s t : State} {dst bs} (e : cmdLine a o s dst bs = .ok t) (h : Memory.wf s.mem = true) :
    Memory.wf t.mem = true := by
  unfold cmdLine at e
  split at e
  · cases e
  · split at e
    · cases e
    · split at e <;> cases e
      exact engineWrite_wf _ _ _ _ (touchRuns_wf _ _ _ _ _ h)

@[simp] theorem cmdLines_wf (a o l) : ∀ (s : State) (bs), Memory.wf s.mem = true → Memory.wf (cmdLines a o s l bs).2.mem = true := by
  induction l with
  | nil => exact fun s bs h => h
  | cons c cs ih =>
    intro s bs h
    unfold cmdLines
    split
    · exact h
    · next e => exact ih _ _ (cmdLine_wf e h)

@[simp] theorem actorWrite_wf (s : State) (a o va bs) (h : Memory.wf s.mem = true) :
    Memory.wf (actorWrite s a o va bs).2.mem = true := cmdLines_wf _ _ _ _ _ h

@[simp] theorem cmdWrite_wf (s : State) (o va bs) (h : Memory.wf s.mem = true) :
    Memory.wf (cmdWrite s o va bs).2.mem = true := actorWrite_wf _ _ _ _ _ h

@[simp] theorem runZero_wf (s : State) (o b) (h : Memory.wf s.mem = true) : Memory.wf (runZero s o b).2.mem = true := by
  unfold runZero
  split
  · exact h
  · exact cmdWrite_wf _ _ _ _ h

@[simp] theorem runCopy_wf (s : State) (o b) (h : Memory.wf s.mem = true) :
    Memory.wf (runCopy s o b).2.mem = true := copyRows_wf _ _ _ _ _ h

@[simp] theorem gredRows_wf (o b idx l) : ∀ s : State, Memory.wf s.mem = true → Memory.wf (gredRows s o b idx l).2.mem = true := by
  induction l with
  | nil => exact fun s h => h
  | cons i rest ih =>
    intro s h
    unfold gredRows
    split
    · exact h
    · next bs _ =>
      have hw := cmdWrite_wf s o (blkA b + i * blkD b) bs h
      split
      · next e => exact ih _ (wf_of_snd e hw)
      · exact hw

@[simp] theorem readIndexes_wf (s : State) (o b n) (h : Memory.wf s.mem = true) : Memory.wf (readIndexes s o b n).mem = true := by
  simp [readIndexes, h]

@[simp] theorem runGred_wf (s : State) (o b) (h : Memory.wf s.mem = true) : Memory.wf (runGred s o b).2.mem = true := by
  unfold runGred
  dsimp only
  split
  · exact h
  · have hi := readIndexes_wf s o b (blkCount b * blkBag b) h
    generalize checkedIndexes s o b _ _ = r
    cases r <;> simp [hi]

@[simp] theorem saddRows_wf (o b src idx order l) :
    ∀ s : State, Memory.wf s.mem = true → Memory.wf (saddRows s o b src idx order l).2.mem = true := by
  induction l with
  | nil => exact fun s h => h
  | cons i rest ih =>
    intro s h
    unfold saddRows
    dsimp only
    split
    · exact h
    · split
      · exact h
      · have hw (bs : List Byte) : Memory.wf (cmdWrite s o (blkA b + i * blkD b) bs).2.mem = true := cmdWrite_wf _ _ _ _ h
        split
        · next e => exact ih _ (wf_of_snd e (hw _))
        · exact hw _

@[simp] theorem runSadd_wf (s : State) (o b) (h : Memory.wf s.mem = true) : Memory.wf (runSadd s o b).2.mem = true := by
  unfold runSadd
  dsimp only
  split
  · exact h
  · have hi := readIndexes_wf s o b (blkCount b) h
    generalize checkedIndexes s o b _ _ = r
    cases r with
    | error st => exact hi
    | ok idx =>
      dsimp only
      split <;> simp [hi]

@[simp] theorem collWrite_wf (o base l) : ∀ s : State, Memory.wf s.mem = true → Memory.wf (collWrite o base s l).2.mem = true := by
  induction l with
  | nil => exact fun s h => h
  | cons x r ih =>
    intro s h
    have hw := cmdWrite_wf s o (base + x.1.1) x.2 h
    unfold collWrite
    split
    · next e => exact ih _ (wf_of_snd e hw)
    · exact hw

@[simp] theorem collSome_wf (o base) (s : State) (l) (h : Memory.wf s.mem = true) : Memory.wf (collSome o base s l).mem = true := by
  refine foldl_wf _ (fun t x ht => foldl_wf _ (fun u c hu => ?_) _ _ ht) _ _ h
  dsimp only
  split
  · split
    · next e => exact cmdLine_wf e hu
    · exact hu
  · exact hu

@[simp] theorem runColl_wf (s : State) (o b run) (h : Memory.wf s.mem = true) : Memory.wf (runColl s o b run).2.mem = true := by
  unfold runColl
  dsimp only
  split
  · exact h
  · split
    · exact h
    · split
      · exact h
      · split <;> simp [h]

@[simp] theorem giveFrame_wf (s : State) (st k frame) (h : Memory.wf s.mem = true) : Memory.wf (giveFrame s st k frame).mem = true := by
  simp [giveFrame, h]

@[simp] theorem logMove_wf (s : State) (st dir cause status new old asid va) (h : Memory.wf s.mem = true) :
    Memory.wf (logMove s st dir cause status new old asid va).mem = true := by
  unfold logMove
  rw [loamPut_mem]
  exact memWrite_wf _ _ _ (memWrite_wf _ _ _ h)

@[simp] theorem copyPage_wf (s : State) (id old new) (h : Memory.wf s.mem = true) : Memory.wf (copyPage s id old new).mem = true := by
  unfold copyPage
  dsimp only
  exact memPut_wf _ _ _ _ h

@[simp] theorem commitMove_wf (s : State) (o b m) (h : Memory.wf s.mem = true) : Memory.wf (commitMove s o b m).mem = true := by
  unfold commitMove
  dsimp only
  split
  · exact h
  · split
    · exact h
    · split
      · exact h
      · refine whenReady_wf _ _ _ h ?_
        simpa using memWrite_wf _ _ _ (copyPage_wf _ _ _ _ h)

@[simp] theorem releaseMove_wf (s : State) (o b m id) (h : Memory.wf s.mem = true) : Memory.wf (releaseMove s o b m id).mem = true := by
  simp [releaseMove, h]

@[simp] theorem recordMove_wf (s : State) (o b m e) (h : Memory.wf s.mem = true) : Memory.wf (recordMove s o b m e).mem = true := by
  unfold recordMove
  refine whenReady_wf _ _ _ h ?_
  rw [endOp_mem]
  refine logMove_wf _ _ _ _ _ _ _ _ _ ?_
  simp [h]

@[simp] theorem stepMove_wf (s : State) (o b m) (h : Memory.wf s.mem = true) : Memory.wf (stepMove s o b m).mem = true := by
  unfold stepMove
  split <;> simp [h]

@[simp] theorem migrate_wf (s : State) (o b) (h : Memory.wf s.mem = true) : Memory.wf (migrate s o b).mem = true := by
  fun_cases migrate s o b <;> simp [h]

/-! ### The broadcast layer -/

/-- What a slot's message does, where it can be applied, keeps memory's form. -/
def SlotWf (f : State → Slot → Option State) : Prop := ∀ t x u, Memory.wf t.mem = true → f t x = some u → Memory.wf u.mem = true

theorem applySlot_wf (p) {f : State → Slot → Option State} (s : State) (x) (hf : SlotWf f) (h : Memory.wf s.mem = true) :
    OutWf (applySlot p f s x) := by
  rw [applySlot, outWf_next]
  cases e : x.bind fun x => f (takeSlot s p x) x with
  | none => exact h
  | some u =>
    obtain ⟨y, -, hy⟩ := Option.bind_eq_some_iff.1 e
    exact hf _ y u (by simpa using h) hy

theorem applyHead_wf (p) {f : State → Slot → Option State} (s : State) (hf : SlotWf f) (h : Memory.wf s.mem = true) :
    OutWf (applyHead p f s) := applySlot_wf _ _ _ hf h

theorem applyControl_wf (p) {f : State → Slot → Option State} (s : State) (hf : SlotWf f) (h : Memory.wf s.mem = true) :
    OutWf (applyControl p f s) := applySlot_wf _ _ _ hf h

@[simp] theorem settleHost_wf (s : State) (id) (h : Memory.wf s.mem = true) : Memory.wf (settleHost s id).mem = true := by
  unfold settleHost
  split
  · exact memWrite_wf _ _ _ h
  · exact h

@[simp] theorem deliverSub_wf (c x line bytes) (s : State) (u) (h : Memory.wf s.mem = true) :
    Memory.wf (deliverSub c x line bytes s u).mem = true := by
  unfold deliverSub
  split
  · simpa using h
  · dsimp only
    rw [onCrewData_mem]
    exact memWrite_wf _ _ _ h

@[simp] theorem deliverBcast_wf (s : State) (x line bytes k) (h : Memory.wf s.mem = true) :
    Memory.wf (deliverBcast s x line bytes k).mem = true := by
  have hd := foldl_wf (fun s c => (c.subs.filter fun u => subTakes u x line).foldl (deliverSub c x line bytes) s)
    (fun t c ht => foldl_wf _ (fun _ _ => deliverSub_wf _ _ _ _ _ _) _ _ ht) (allCrews s) s h
  unfold deliverBcast
  dsimp only
  split <;> simpa using hd

/-! ### Placement and pre-emption -/

@[simp] theorem hwRun_wf (s : State) (r bs) (h : Memory.wf s.mem = true) : Memory.wf (hwRun s r bs).mem = true := by
  unfold hwRun
  split
  · simpa using h
  · exact memWrite_wf _ _ _ h

@[simp] theorem hwRuns_wf (rs) : ∀ (s : State) (bs), Memory.wf s.mem = true → Memory.wf (hwRuns s rs bs).mem = true := by
  induction rs with
  | nil => exact fun s bs h => h
  | cons r rs ih => exact fun s bs h => ih _ _ (hwRun_wf _ _ _ h)

@[simp] theorem hwWrite_wf (s : State) (a va bs) (h : Memory.wf s.mem = true) : Memory.wf (hwWrite s a va bs).mem = true := by
  unfold hwWrite
  split
  · exact hwRuns_wf _ _ _ (touchRuns_wf _ _ _ _ _ h)
  · exact h

@[simp] theorem ctxWrite_wf (s : State) (l b va bs) (h : Memory.wf s.mem = true) :
    Memory.wf (ctxWrite s l b va bs).mem = true := hwWrite_wf _ _ _ _ h

@[simp] theorem ctxFields_wf (l b base) (s : State) (fs) (h : Memory.wf s.mem = true) : Memory.wf (ctxFields l b base s fs).mem = true :=
  foldl_wf _ (fun _ _ => ctxWrite_wf _ _ _ _ _) _ _ h

/-- What hardware reads changes memory only by the marks of its walks. -/
@[simp] theorem hwRead_wf (s : State) (a va n) (h : Memory.wf s.mem = true) : Memory.wf (hwRead s a va n).after.mem = true := by
  unfold hwRead
  split
  · exact touchRuns_wf _ _ _ _ _ h
  · exact h

@[simp] theorem ctxRead_wf (s : State) (l b va n) (h : Memory.wf s.mem = true) :
    Memory.wf (ctxRead s l b va n).after.mem = true := hwRead_wf _ _ _ _ h

@[simp] theorem spillKept_wf (s : State) (k) (h : Memory.wf s.mem = true) : Memory.wf (spillKept s k).mem = true := by
  unfold spillKept
  dsimp only
  split
  · exact h
  · exact foldl_wf _ (fun _ _ => hwWrite_wf _ _ _ _) _ _ h

@[simp] theorem spillCore_wf (cl) (s : State) (co) (h : Memory.wf s.mem = true) : Memory.wf (spillCore cl s co).mem = true :=
  foldl_wf _ (fun _ _ => spillKept_wf _ _) _ _ h

@[simp] theorem placeGroup_wf (l b c cl co) (s : State) (g) (h : Memory.wf s.mem = true) :
    Memory.wf (placeGroup l b c cl co s g).mem = true := by
  unfold placeGroup
  split <;> simp [h]

@[simp] theorem clearRun_wf (s : State) (cl co base len) (h : Memory.wf s.mem = true) :
    Memory.wf (clearRun s cl co base len).mem = true := fillZero_wf _ _ _ h

@[simp] theorem placeCrew_wf (l b cl) (s : State) (p) (h : Memory.wf s.mem = true) : Memory.wf (placeCrew l b cl s p).mem = true := by
  have hg (t : State) (ht : Memory.wf t.mem = true) (n : List Nat) : Memory.wf (n.foldl (placeGroup l b p.2 cl p.1) t).mem = true :=
    foldl_wf _ (fun _ _ => placeGroup_wf _ _ _ _ _ _ _) _ _ ht
  unfold placeCrew
  dsimp only
  split
  · exact hg _ (clearRun_wf _ _ _ _ _ (by exact h)) _
  · exact hg _ (clearRun_wf _ _ _ _ _ (by exact h)) _

@[simp] theorem placeBand_wf (s : State) (l level cl cores) (h : Memory.wf s.mem = true) :
    Memory.wf (placeBand s l level cl cores).mem = true := by
  have hc : Memory.wf (cores.zipIdx.foldl (placeCrew l (nextBand l) cl) s).mem = true :=
    foldl_wf _ (fun _ _ => placeCrew_wf _ _ _ _ _) _ _ h
  simpa [placeBand] using hc

@[simp] theorem makeWay_wf (s : State) (cl cores) (h : Memory.wf s.mem = true) : Memory.wf (makeWay s cl cores).mem = true := by
  unfold makeWay
  split
  · exact foldl_wf _ (fun _ _ => spillCore_wf _ _ _) _ _ h
  · exact h

@[simp] theorem moveGranule_wf (l g) (s : State) (j) (h : Memory.wf s.mem = true) : Memory.wf (moveGranule l g s j).mem = true := by
  simp [moveGranule, h]

@[simp] theorem saveGroup_wf (l) (s : State) (k) (h : Memory.wf s.mem = true) : Memory.wf (saveGroup l s k).mem = true := by
  unfold saveGroup
  split
  · exact h
  · rw [onGroupData_mem]
    exact foldl_wf _ (fun _ _ => moveGranule_wf _ _ _ _) _ _ (by simp [h])

@[simp] theorem saveImage_wf (l) (s : State) (c) (h : Memory.wf s.mem = true) : Memory.wf (saveImage l s c).mem = true := by
  simp [saveImage, h]

@[simp] theorem saveCrewPart_wf (l) (s : State) (c) (h : Memory.wf s.mem = true) :
    Memory.wf (saveCrewPart l s c).mem = true := ctxWrite_wf _ _ _ _ _ h

@[simp] theorem saveCrew_wf (dbl) (s : State) (c) (h : Memory.wf s.mem = true) : Memory.wf (saveCrew dbl s c).mem = true := by
  unfold saveCrew
  split
  · exact h
  · rw [onCrewData_mem]
    exact saveCrewPart_wf _ _ _ (saveImage_wf _ _ _ (foldl_wf _ (fun _ _ => saveGroup_wf _ _ _) _ _ h))

@[simp] theorem loadImage_wf (l) (s : State) (c) (h : Memory.wf s.mem = true) : Memory.wf (loadImage l s c).mem = true := by
  unfold loadImage
  rw [poisonAt_mem, loadFe_mem]
  exact memWrite_wf _ _ _ (ctxRead_wf _ _ _ _ _ (ctxRead_wf _ _ _ _ _ (clearRun_wf _ _ _ _ _ h)))

@[simp] theorem loadTiles_wf (l) (s : State) (g) (h : Memory.wf s.mem = true) : Memory.wf (loadTiles l s g).mem = true :=
  foldl_wf _ (fun t _ ht => by simp [ht]) _ _ h

@[simp] theorem resumeGroup_wf (l cl co) (s : State) (k) (h : Memory.wf s.mem = true) : Memory.wf (resumeGroup l cl co s k).mem = true := by
  unfold resumeGroup
  dsimp only
  split <;> simp [h]

@[simp] theorem resumeCrew_wf (l cl) (s : State) (p) (h : Memory.wf s.mem = true) : Memory.wf (resumeCrew l cl s p).mem = true := by
  unfold resumeCrew
  dsimp only
  split
  · simpa using h
  · refine foldl_wf _ (fun _ _ => resumeGroup_wf _ _ _ _ _) _ _ ?_
    split <;> simp [h]

@[simp] theorem resumeBand_wf (s : State) (x l cl cores) (h : Memory.wf s.mem = true) :
    Memory.wf (resumeBand s x l cl cores).mem = true := by
  unfold resumeBand
  rw [onBand_mem]
  exact foldl_wf _ (fun _ _ => resumeCrew_wf _ _ _ _) _ _ h

@[simp] theorem saveBand_wf (s : State) (x) (h : Memory.wf s.mem = true) : Memory.wf (saveBand s x).mem = true := by
  unfold saveBand
  rw [onBand_mem]
  exact foldl_wf _ (fun t c ht => by simp [ht]) _ _ h

@[simp] theorem sweepDrain_wf (s : State) (h : Memory.wf s.mem = true) : Memory.wf (sweepDrain s).mem = true := by
  refine foldl_wf _ (fun _ _ => saveBand_wf _ _) _ _ (foldl_wf _ (fun t c ht => by simp [ht]) _ _ ?_)
  rw [foldl_mem _ (fun t (c : Crew) => onCrewGroups_mem t c.key stopGroup), foldl_mem]
  · exact h
  · exact fun t x => foldl_mem _ (fun u (c : Crew) => stopCrew_mem false u c.key) _ _

@[simp] theorem sweep_wf (s : State) (h : Memory.wf s.mem = true) : Memory.wf (sweep s).mem = true := by simp [sweep, h]

/-! ### The scheduler -/

theorem takeQueue_wf {s : State} {q x} (e : takeQueue s q = some x) (h : Memory.wf s.mem = true) : Memory.wf x.2.mem = true := by
  unfold takeQueue at e
  split at e <;> cases e
  exact memWrite_wf _ _ _ h

theorem takePacket_wf {s : State} {src x} (e : takePacket s src = some x) (h : Memory.wf s.mem = true) : Memory.wf x.2.mem = true := by
  cases src with
  | queue q => exact takeQueue_wf e h
  | node n => exact (takeNode_mem e).symm ▸ h

theorem startOrWait_wf (s : State) (t p launch) {now : State → Source → State} (hn : ∀ src, KeepsWf fun s => now s src)
    (h : Memory.wf s.mem = true) : Memory.wf (startOrWait s t p launch now).mem = true := by
  simp [startOrWait, h, hn _ _ h]

theorem onPacket_wf (typ src) {act : State → Taken → Packet → State} (s : State) (ha : ∀ t p, KeepsWf fun s => act s t p)
    (h : Memory.wf s.mem = true) : OutWf (onPacket typ src act s) := by
  unfold onPacket
  split
  · next e =>
    have h1 := takePacket_wf e h
    split
    · simp [h, h1, ha _ _ _ h1]
    · simpa using h
  · simpa using h

@[simp] theorem launchPacket_wf (s : State) (t p) (h : Memory.wf s.mem = true) : Memory.wf (launchPacket s t p).mem = true := by
  unfold launchPacket
  split
  · simpa using h
  · exact startOrWait_wf _ _ _ _ (fun _ u hu => by simpa using hu) (readMarks_wf _ _ _ h)

@[simp] theorem runCopyPacket_wf (p) (s : State) (src) (h : Memory.wf s.mem = true) : Memory.wf (runCopyPacket p s src).mem = true := by
  simp [runCopyPacket, h]

@[simp] theorem signalEffect_wf (p) (s : State) (h : Memory.wf s.mem = true) : Memory.wf (signalEffect p s).2.mem = true := by
  unfold signalEffect
  dsimp only
  split
  · exact h
  · split
    · exact h
    · split
      · exact h
      · exact engineWrite_wf _ _ _ _ (touchRuns_wf _ _ _ _ _ h)

@[simp] theorem runSignal_wf (p) (s : State) (src) (h : Memory.wf s.mem = true) : Memory.wf (runSignal p s src).mem = true := by
  simp [runSignal, h]

@[simp] theorem startJob_wf (j) (s : State) (h : Memory.wf s.mem = true) : Memory.wf (startJob j s).mem = true := by
  unfold startJob
  split <;> simp [h]

@[simp] theorem writeRecord_wf (s : State) (q w r) (h : Memory.wf s.mem = true) : Memory.wf (writeRecord s q w r).mem = true := by
  simpa [writeRecord] using memWrite_wf _ _ _ (memWrite_wf _ _ _ h)

@[simp] theorem postNext_wf (s : State) (x) (h : Memory.wf s.mem = true) : Memory.wf (postNext s x).mem = true := by
  have hc (c : Bool) (bs) : Memory.wf (if c then memWrite s x.cq bs else s).mem = true :=
    (ite_wf _ _ _).2 ⟨fun _ => memWrite_wf _ _ _ h, fun _ => h⟩
  refine (ite_wf _ _ _).2 ⟨fun _ => writeRecord_wf _ _ _ _ (hc _ _), fun _ => hc _ _⟩

/-! ### Host and peers -/

@[simp] theorem writeWord_wf (s : State) (o cword seq st) (h : Memory.wf s.mem = true) :
    Memory.wf (writeWord s o cword seq st).mem = true := by
  unfold writeWord
  split
  · next e => exact cmdLine_wf e h
  · simp [h]

@[simp] theorem deliverEnd_wf (s : State) (o st) (h : Memory.wf s.mem = true) : Memory.wf (deliverEnd s o st).mem = true := by
  unfold deliverEnd
  split <;> simp [h]

@[simp] theorem finishCopy_wf (s : State) (o rows) (h : Memory.wf s.mem = true) : Memory.wf (finishCopy s o rows).mem = true := by
  simp [finishCopy, h]

@[simp] theorem endGet_wf (s : State) (o dst ref n st data) (h : Memory.wf s.mem = true) :
    Memory.wf (endGet s o dst ref n st data).mem = true := by
  unfold endGet
  split <;> simp [h]

@[simp] theorem completeOp_wf (s : State) (o st data) (h : Memory.wf s.mem = true) : Memory.wf (completeOp s o st data).mem = true := by
  unfold completeOp
  split <;> simp [h]

@[simp] theorem raiseSent_wf (s : State) (o ref src n) (h : Memory.wf s.mem = true) : Memory.wf (raiseSent s o ref src n).mem = true := by
  unfold raiseSent
  split
  · refine whenReady_wf _ _ _ h ?_
    rw [endOp_mem]
    exact memWrite_wf _ _ _ (readMarks_wf _ _ _ h)
  · simpa using h
  · exact h

@[simp] theorem putArrives_wf (s : State) (x off data) (h : Memory.wf s.mem = true) : Memory.wf (putArrives s x off data).mem = true := by
  unfold putArrives
  dsimp only
  split
  · simpa using h
  · have hw := actorWrite_wf s x.actor none (x.base.toNat + off) data h
    split
    · simpa using memWrite_wf _ _ _ hw
    · simpa using hw

/-! ### Ports -/

theorem flitEvent_wf (is p f) (s : State) (h : Memory.wf s.mem = true) : OutWf (flitEvent is p f s) := by simp [flitEvent, h]

/-! ### Management -/

@[simp] theorem seeTemp_wf (s : State) (r t) (h : Memory.wf s.mem = true) : Memory.wf (seeTemp s r t).mem = true := by
  simp [seeTemp, h, afterReset_wf]

/-! ### The step -/

@[simp] theorem settle_wf (s : State) (h : Memory.wf s.mem = true) : Memory.wf (settle s).mem = true := by
  unfold settle
  rw [chooseTurn_mem, foldl_mem _ (fun t g => settleOverrun_mem t g)]
  exact (foldl_mem _ (fun t p => pump_mem t p) _ _).symm ▸ sweep_wf s h

end Sys2Proof.Machine
end

section
/-! The canonical form of memory, instruction by instruction and event by event. -/
namespace Sys2Proof.Machine

/-! ### Scalar arithmetic -/

theorem execBfx_wf (d a p l) (s : State) (h : Memory.wf s.mem = true) : OutWf (execBfx d a p l s) := by simp [execBfx, h]

theorem execBfxn_wf (d a p l) (s : State) (h : Memory.wf s.mem = true) : OutWf (execBfxn d a p l s) := by simp [execBfxn, h]

theorem execBfi_wf (d a p l) (s : State) (h : Memory.wf s.mem = true) : OutWf (execBfi d a p l s) := by simp [execBfi, h]

theorem execJr_wf (a) (s : State) (h : Memory.wf s.mem = true) : OutWf (execJr a s) := by simp [execJr, h, scalarTrap_wf]

theorem execJalr_wf (d a) (s : State) (h : Memory.wf s.mem = true) : OutWf (execJalr d a s) := by simp [execJalr, h, scalarTrap_wf]

theorem execBz_wf (a disp) (s : State) (h : Memory.wf s.mem = true) : OutWf (execBz a disp s) := by simp [execBz, h]

theorem execBnz_wf (a disp) (s : State) (h : Memory.wf s.mem = true) : OutWf (execBnz a disp s) := by simp [execBnz, h]

/-! ### The scalar thread -/

theorem execIsync_wf (s : State) (h : Memory.wf s.mem = true) : OutWf (execIsync s) := by simp [execIsync, h]

theorem execNpbegin_wf (s : State) (h : Memory.wf s.mem = true) : OutWf (execNpbegin s) := by
  unfold execNpbegin
  split <;> simp [h]

theorem execNpend_wf (s : State) (h : Memory.wf s.mem = true) : OutWf (execNpend s) := by
  unfold execNpend
  split <;> simp [h]

theorem execEndGroup_wf (s : State) (h : Memory.wf s.mem = true) : OutWf (execEndGroup s) := by simp [execEndGroup, h]

theorem execEndk_wf (a b) (s : State) (h : Memory.wf s.mem = true) : OutWf (execEndk a b s) := by
  have ht := scalarTrap_wf s (h := h)
  unfold execEndk
  dsimp only
  split
  · simp [h]
  · split
    · simp [h]
    · split
      · simp [ht]
      · split
        · simp [h]
        · split
          · simp [takeTrap_wf _ _ _ _ _ _ h]
          · next e => simp [fillGranules_wf _ e h]

theorem execClause_wf (imm) (s : State) (h : Memory.wf s.mem = true) : OutWf (execClause imm s) := by simp [execClause, h]

theorem execClauser_wf (a) (s : State) (h : Memory.wf s.mem = true) : OutWf (execClauser a s) := by simp [execClauser, h, scalarTrap_wf]

theorem execMpush_wf (n p) (s : State) (h : Memory.wf s.mem = true) : OutWf (execMpush n p s) := by simp [execMpush, h]

theorem execMpushRegister_wf (a) (s : State) (h : Memory.wf s.mem = true) : OutWf (execMpushRegister a s) := by simp [execMpushRegister, h]

theorem execMelse_wf (s : State) (h : Memory.wf s.mem = true) : OutWf (execMelse s) := by
  unfold execMelse
  split <;> simp [h, scalarTrap_wf]

theorem execMpop_wf (s : State) (h : Memory.wf s.mem = true) : OutWf (execMpop s) := by
  unfold execMpop
  split <;> simp [h, scalarTrap_wf]

theorem execSetp_wf (k a) (s : State) (h : Memory.wf s.mem = true) : OutWf (execSetp k a s) := by simp [execSetp, h]

theorem execPmov_wf (d n p) (s : State) (h : Memory.wf s.mem = true) : OutWf (execPmov d n p s) := by simp [execPmov, h]

theorem execWflag_wf (m) (s : State) (h : Memory.wf s.mem = true) : OutWf (execWflag m s) := by simp [execWflag, h]

theorem execVget_wf (d slot lane) (s : State) (h : Memory.wf s.mem = true) : OutWf (execVget d slot lane s) := by
  have ht := scalarTrap_wf s (h := h)
  unfold execVget
  dsimp only
  split
  · simp [ht]
  · split
    · simpa [stall] using h
    · split
      · simp [ht]
      · next e => simp [fillGranules_wf _ e h]

theorem execVput_wf (d slot lane) (s : State) (h : Memory.wf s.mem = true) : OutWf (execVput d slot lane s) := by
  simp [execVput, h, scalarTrap_wf]

theorem execGetstat_wf (d) (s : State) (h : Memory.wf s.mem = true) : OutWf (execGetstat d s) := by simp [execGetstat, h]

theorem execClrstat_wf (a) (s : State) (h : Memory.wf s.mem = true) : OutWf (execClrstat a s) := by simp [execClrstat, h]

theorem execMfs_wf (d n) (s : State) (h : Memory.wf s.mem = true) : OutWf (execMfs d n s) := by
  unfold execMfs
  split <;> simp [h, scalarTrap_wf]

theorem execMts_wf (a n) (s : State) (h : Memory.wf s.mem = true) : OutWf (execMts a n s) := by
  unfold execMts
  split <;> simp [h, scalarTrap_wf]

theorem execFenceSc_wf (e sc) (s : State) (h : Memory.wf s.mem = true) : OutWf (execFenceSc e sc s) := by
  unfold execFenceSc
  split
  · simpa [stall] using h
  · exact (outWf_next _).2 (fence_wf _ _ _ _ _ (fun t ht => by simpa using ht) h)

theorem execBarSync_wf (a t) (s : State) (h : Memory.wf s.mem = true) : OutWf (execBarSync a t s) := by
  unfold execBarSync
  split
  · simp [h, stall]
  · exact (outWf_next _).2 (barrier_wf _ _ _ _ _ (fun n u hu => by simp [hu]) h)

theorem execWaituntil_wf (a) (s : State) (h : Memory.wf s.mem = true) : OutWf (execWaituntil a s) := by simp [execWaituntil, h]

theorem execWaituntilReached_wf (k) (s : State) (h : Memory.wf s.mem = true) : OutWf (execWaituntilReached k s) := by
  refine (outWf_next _).2 (onGroup_wf _ _ _ (fun t ht => ?_) h)
  split
  · simp [ht]
  · exact ht

theorem execPoolGuard_wf (n) (s : State) (h : Memory.wf s.mem = true) : OutWf (execPoolGuard n s) := by
  simp [execPoolGuard, h, scalarTrap_wf]

/-! ### Lane memory -/

theorem execFullEmptyPerform_wf (s : State) (h : Memory.wf s.mem = true) : OutWf (execFullEmptyPerform s) := by
  unfold execFullEmptyPerform
  split <;> simp [h]

theorem execFullEmptyWaitExpired_wf (s : State) (h : Memory.wf s.mem = true) : OutWf (execFullEmptyWaitExpired s) := by
  unfold execFullEmptyWaitExpired
  split <;> simp [h]

/-! ### Matrix operations -/

theorem execAccz_wf (f) (s : State) (h : Memory.wf s.mem = true) : OutWf (execAccz f s) :=
  (outWf_next _).2 (withMatrix_wf _ _ _ _ _ (fun _ t ht => by simp [stall, ht]) h)

theorem execMbfen_wf (f) (s : State) (h : Memory.wf s.mem = true) : OutWf (execMbfen f s) :=
  (outWf_next _).2 (withMatrix_wf _ _ _ _ _ (fun _ t ht => by simp [stall, ht]) h)

theorem execLongLatencyCompletion_wf (k q) (s : State) (h : Memory.wf s.mem = true) : OutWf (execLongLatencyCompletion k q s) := by
  refine (outWf_next _).2 (onGroup_wf _ _ _ (fun t ht => ?_) h)
  split
  · exact tryLong_wf _ _ ht
  · exact ht

theorem execMatrixOperationComplete_wf (k q) (s : State) (h : Memory.wf s.mem = true) : OutWf (execMatrixOperationComplete k q s) := by
  unfold execMatrixOperationComplete
  split
  · simpa using h
  · next g o _ =>
    split
    · simp [h]
    · simp [h, onGroup_wf k _ s (fun _ => completeMatrix_wf true o _) h]

/-! ### Clauses -/

theorem execTrapEntry_wf (k lane idx cause tval) (s : State) (h : Memory.wf s.mem = true) :
    OutWf (execTrapEntry k lane idx cause tval s) := by
  simp [execTrapEntry, h, onGroup_wf k _ s (fun _ => takeTrap_wf _ lane (idx % 16) (cause % 256) tval _) h]

/-! ### Engine operations -/

theorem execTwaitAll_wf (d a) (s : State) (h : Memory.wf s.mem = true) : OutWf (execTwaitAll d a s) := by
  unfold execTwaitAll
  dsimp only
  split <;> simp [h, scalarTrap_wf]

theorem execTwaitAny_wf (d a) (s : State) (h : Memory.wf s.mem = true) : OutWf (execTwaitAny d a s) := by
  unfold execTwaitAny
  dsimp only
  split <;> simp [h, scalarTrap_wf]

theorem execTfirst_wf (d a) (s : State) (h : Memory.wf s.mem = true) : OutWf (execTfirst d a s) := by
  unfold execTfirst
  dsimp only
  (repeat' split) <;> simp [h, scalarTrap_wf]

theorem execTack_wf (a) (s : State) (h : Memory.wf s.mem = true) : OutWf (execTack a s) := by
  unfold execTack
  dsimp only
  split <;> simp [h, scalarTrap_wf]

theorem execBbinit_wf (t) (s : State) (h : Memory.wf s.mem = true) : OutWf (execBbinit t s) := by simp [execBbinit, h, scalarTrap_wf]

theorem execBbexp_wf (a t) (s : State) (h : Memory.wf s.mem = true) : OutWf (execBbexp a t s) := by simp [execBbexp, h, scalarTrap_wf]

theorem execBbwait_wf (d a t) (s : State) (h : Memory.wf s.mem = true) : OutWf (execBbwait d a t s) := by
  unfold execBbwait
  dsimp only
  (repeat' split) <;> simp [h, scalarTrap_wf]

theorem execBbarv_wf (a b t) (s : State) (h : Memory.wf s.mem = true) : OutWf (execBbarv a b t s) := by simp [execBbarv, h, scalarTrap_wf]

theorem execCpy_wf (d a b t) (s : State) (h : Memory.wf s.mem = true) : OutWf (execCpy d a b t s) := by simp [execCpy, h, scalarTrap_wf]

theorem execCpy2d_wf (d a b t) (s : State) (h : Memory.wf s.mem = true) : OutWf (execCpy2d d a b t s) := by
  simp [execCpy2d, h, scalarTrap_wf]

/-! ### Scalar memory -/

theorem execLd_wf (d a w x o) (s : State) (h : Memory.wf s.mem = true) : OutWf (execLd d a w x o s) := by
  unfold execLd
  dsimp only
  split
  · simp [h]
  · split
    · simp [scalarTrap_wf _ _ _ h]
    · exact (outWf_next _).2 (scalarAcc_wf _ _ _ (loadAt_wf _ _ _ _ h) (fun r hr => by simpa using hr) h)

theorem execSt_wf (d a w o) (s : State) (h : Memory.wf s.mem = true) : OutWf (execSt d a w o s) := by
  unfold execSt
  dsimp only
  split
  · simp [scalarTrap_wf _ _ _ h]
  · exact (outWf_next _).2 (scalarAcc_wf _ _ _ (storeAt_wf _ _ _ _ h) (fun t ht => by simpa using ht) h)

theorem execLdk_wf (d imm) (s : State) (h : Memory.wf s.mem = true) : OutWf (execLdk d imm s) := by
  unfold execLdk
  dsimp only
  split
  · simp [scalarTrap_wf _ _ _ h]
  · split
    · simp [scalarTrap_wf _ _ _ h]
    · next e => simpa using fetchWords_wf _ e h

theorem execCas_wf (d a b o sc w) (s : State) (h : Memory.wf s.mem = true) : OutWf (execCas d a b o sc w s) := by
  unfold execCas
  dsimp only
  split
  · simp [h]
  · split
    · simp [scalarTrap_wf _ _ _ h]
    · split
      · simpa [stall] using h
      · exact (outWf_next _).2 (scalarAcc_wf _ _ _ (onBusy_wf _ _ (fun t => scAsk_mem ..) _ (atomicAt_wf _ _ _ _ _ h))
          (fun r hr => by simpa using hr) h)

theorem execQlock_wf (d a) (s : State) (h : Memory.wf s.mem = true) : OutWf (execQlock d a s) := by
  unfold execQlock
  split
  · simp [h]
  · dsimp only
    split
    · simp [scalarTrap_wf _ _ _ h]
    · exact (outWf_next _).2 (scalarAcc_wf _ _ _ (atomicAt_wf _ _ _ _ _ h) (fun r hr => lockWait_wf _ _ _ hr) h)

theorem execQunlock_wf (a) (s : State) (h : Memory.wf s.mem = true) : OutWf (execQunlock a s) := by
  unfold execQunlock
  dsimp only
  split
  · simp [scalarTrap_wf _ _ _ h]
  · split
    · simpa [stall] using h
    · exact (outWf_next _).2 (scalarAcc_wf _ _ _ (atomicAt_wf _ _ _ _ _ h) (fun r hr => by simpa using hr) h)

/-! ### System instructions -/

theorem execBsub_wf (d a t) (s : State) (h : Memory.wf s.mem = true) : OutWf (execBsub d a t s) := by
  unfold execBsub
  dsimp only
  split
  · simp [scalarTrap_wf _ _ _ h]
  · split
    · simp [scalarTrap_wf _ _ _ h]
    · exact (outWf_next _).2 (scalarAcc_wf _ _ _ (loadAt_wf _ _ _ _ h) (fun r hr => installSub_wf _ _ _ _ _ hr) h)

theorem execBunsub_wf (d a) (s : State) (h : Memory.wf s.mem = true) : OutWf (execBunsub d a s) := by
  unfold execBunsub
  dsimp only
  (repeat' split) <;> simp [h, scalarTrap_wf]

theorem execBsync_wf (d) (s : State) (h : Memory.wf s.mem = true) : OutWf (execBsync d s) := by simp [execBsync, h]

theorem execPut_wf (d a b t) (s : State) (h : Memory.wf s.mem = true) : OutWf (execPut d a b t s) := by simp [execPut, h, scalarTrap_wf]

theorem execGet_wf (d a b t) (s : State) (h : Memory.wf s.mem = true) : OutWf (execGet d a b t s) := by simp [execGet, h, scalarTrap_wf]

theorem execWinwait_wf (a b k) (s : State) (h : Memory.wf s.mem = true) : OutWf (execWinwait a b k s) := by
  unfold execWinwait
  (repeat' split) <;> simp [h, scalarTrap_wf]

theorem execWincnt_wf (d a k) (s : State) (h : Memory.wf s.mem = true) : OutWf (execWincnt d a k s) := by
  unfold execWincnt
  (repeat' split) <;> simp [h, scalarTrap_wf]

theorem execQpush_wf (d a b) (s : State) (h : Memory.wf s.mem = true) : OutWf (execQpush d a b s) := by
  unfold execQpush
  split <;> simp [h, scalarTrap_wf]

theorem execTrap_wf (a t) (s : State) (h : Memory.wf s.mem = true) : OutWf (execTrap a t s) := by simp [execTrap, h, takeTrap_wf]

theorem execTret_wf (s : State) (h : Memory.wf s.mem = true) : OutWf (execTret s) := by simp [execTret, h, scalarTrap_wf]

theorem execMsave_wf (s : State) (h : Memory.wf s.mem = true) : OutWf (execMsave s) := by simp [execMsave, h]

theorem execMrest_wf (s : State) (h : Memory.wf s.mem = true) : OutWf (execMrest s) := by simp [execMrest, h]

theorem execTlbinv_wf (d a b) (s : State) (h : Memory.wf s.mem = true) : OutWf (execTlbinv d a b s) := by
  simp [execTlbinv, h, scalarTrap_wf]

theorem execTlbinvAll_wf (s : State) (h : Memory.wf s.mem = true) : OutWf (execTlbinvAll s) := by simp [execTlbinvAll, h, scalarTrap_wf]

theorem execTlbsync_wf (s : State) (h : Memory.wf s.mem = true) : OutWf (execTlbsync s) := by simp [execTlbsync, h, scalarTrap_wf]

/-! ### Named tiles -/

theorem execNdecl_wf (d a) (s : State) (h : Memory.wf s.mem = true) : OutWf (execNdecl d a s) := by
  unfold execNdecl
  split
  · simp [h]
  · dsimp only
    split
    · simp [scalarTrap_wf _ _ _ h]
    · exact (outWf_next _).2 (scalarAcc_wf _ _ _ (loadAt_wf _ _ _ _ h) (fun r hr => hr) h)

theorem execDeclaration_wf (m lost) (s : State) (h : Memory.wf s.mem = true) : OutWf (execDeclaration m lost s) := by
  unfold execDeclaration
  (repeat' split) <;> simp [h]

theorem execNreqTag_wf (d a b t) (s : State) (h : Memory.wf s.mem = true) : OutWf (execNreqTag d a b t s) := by simp [execNreqTag, h]

theorem execNreqBb_wf (d a b t) (s : State) (h : Memory.wf s.mem = true) : OutWf (execNreqBb d a b t s) := by simp [execNreqBb, h]

theorem execInterest_wf (m) (s : State) (h : Memory.wf s.mem = true) : OutWf (execInterest m s) := by simp [execInterest, h]

theorem execInterestNack_wf (m) (s : State) (h : Memory.wf s.mem = true) : OutWf (execInterestNack m s) := by simp [execInterestNack, h]

theorem execInterestRetry_wf (c pn) (s : State) (h : Memory.wf s.mem = true) : OutWf (execInterestRetry c pn s) := by
  unfold execInterestRetry
  split <;> simp [h]

theorem execTileDelivery_wf (m) (s : State) (h : Memory.wf s.mem = true) : OutWf (execTileDelivery m s) := by simp [execTileDelivery, h]

theorem execNpub_wf (d a t) (s : State) (h : Memory.wf s.mem = true) : OutWf (execNpub d a t s) := by simp [execNpub, h]

theorem execNpubRel_wf (d a t) (s : State) (h : Memory.wf s.mem = true) : OutWf (execNpubRel d a t s) := by simp [execNpubRel, h]

theorem execPublication_wf (m) (s : State) (h : Memory.wf s.mem = true) : OutWf (execPublication m s) := by simp [execPublication, h]

theorem execRefill_wf (r pn) (s : State) (h : Memory.wf s.mem = true) : OutWf (execRefill r pn s) := by
  unfold execRefill
  split
  · simpa using h
  · split
    · simpa using h
    · split
      · simpa using h
      · next e => simpa [makeRoom_mem _ _ _ e] using h

theorem execLocalRecordExpiry_wf (id) (s : State) (h : Memory.wf s.mem = true) : OutWf (execLocalRecordExpiry id s) := by
  unfold execLocalRecordExpiry
  (repeat' split) <;> simp [h]

theorem execPitEntryExpiry_wf (r pn) (s : State) (h : Memory.wf s.mem = true) : OutWf (execPitEntryExpiry r pn s) := by
  unfold execPitEntryExpiry
  split <;> simp [h]

theorem execDrop_wf (m) (s : State) (h : Memory.wf s.mem = true) : OutWf (execDrop m s) := by simp [execDrop, h]

theorem execNeverProduced_wf (m) (s : State) (h : Memory.wf s.mem = true) : OutWf (execNeverProduced m s) := by simp [execNeverProduced, h]

theorem execTileLifetimeEnd_wf (r pn) (s : State) (h : Memory.wf s.mem = true) : OutWf (execTileLifetimeEnd r pn s) := by
  unfold execTileLifetimeEnd
  split <;> simp [h]

theorem execTombstoneEnd_wf (r pn) (s : State) (h : Memory.wf s.mem = true) : OutWf (execTombstoneEnd r pn s) := by
  unfold execTombstoneEnd
  split <;> simp [h]

theorem execCancel_wf (m) (s : State) (h : Memory.wf s.mem = true) : OutWf (execCancel m s) := by simp [execCancel, h]

theorem execNcan_wf (a b t) (s : State) (h : Memory.wf s.mem = true) : OutWf (execNcan a b t s) := by simp [execNcan, h, scalarTrap_wf]

theorem execNdrop_wf (a) (s : State) (h : Memory.wf s.mem = true) : OutWf (execNdrop a s) := by simp [execNdrop, h]

/-! ### Loam units -/

theorem execSkcmdTag_wf (a b t) (s : State) (h : Memory.wf s.mem = true) : OutWf (execSkcmdTag a b t s) := by simp [execSkcmdTag, h]

theorem execSkcmdBb_wf (a b t) (s : State) (h : Memory.wf s.mem = true) : OutWf (execSkcmdBb a b t s) := by simp [execSkcmdBb, h]

theorem execSkcmdCw_wf (a b) (s : State) (h : Memory.wf s.mem = true) : OutWf (execSkcmdCw a b s) := by simp [execSkcmdCw, h]

theorem execColl_wf (id) (s : State) (h : Memory.wf s.mem = true) : OutWf (execColl id s) := by
  unfold execColl
  (repeat' split) <;> simp [h]

theorem execCollectiveRun_wf (id run) (s : State) (h : Memory.wf s.mem = true) : OutWf (execCollectiveRun id run s) := by
  unfold execCollectiveRun
  (repeat' split) <;> simp [h]

theorem execCollectiveTimeout_wf (id) (s : State) (h : Memory.wf s.mem = true) : OutWf (execCollectiveTimeout id s) := by
  unfold execCollectiveTimeout
  split <;> simp [h]

theorem execMig_wf (id) (s : State) (h : Memory.wf s.mem = true) : OutWf (execMig id s) := by
  unfold execMig
  (repeat' split) <;> simp [h]

theorem execHeatWindow_wf (st pages) (s : State) (h : Memory.wf s.mem = true) : OutWf (execHeatWindow st pages s) := by
  simp [execHeatWindow, h]

theorem execDomainSwitchOff_wf (st d) (s : State) (h : Memory.wf s.mem = true) : OutWf (execDomainSwitchOff st d s) := by
  simp [execDomainSwitchOff, h]

theorem execDomainPowerOff_wf (st d) (s : State) (h : Memory.wf s.mem = true) : OutWf (execDomainPowerOff st d s) := by
  unfold execDomainPowerOff
  split
  · exact (outWf_next _).2 (spWf_filter _ h)
  · simpa using h

theorem execDomainSwitchOn_wf (st d) (s : State) (h : Memory.wf s.mem = true) : OutWf (execDomainSwitchOn st d s) := by
  simp [execDomainSwitchOn, h]

theorem execDomainReady_wf (st d) (s : State) (h : Memory.wf s.mem = true) : OutWf (execDomainReady st d s) := by simp [execDomainReady, h]

/-! ### The broadcast layer -/

theorem execNackSend_wf (p r) (s : State) (h : Memory.wf s.mem = true) : OutWf (execNackSend p r s) := by
  unfold execNackSend
  dsimp only
  (repeat' split) <;> simp [h]

theorem execNack_wf (p) (s : State) (h : Memory.wf s.mem = true) : OutWf (execNack p s) := by
  refine applyControl_wf _ _ (fun t x u ht e => ?_) h
  split at e
  · split at e <;> cases e
    · simpa using ht
    · simp [ht]
  · cases e

theorem execHold_wf (p) (s : State) (h : Memory.wf s.mem = true) : OutWf (execHold p s) := by
  refine applyControl_wf _ _ (fun t x u ht e => ?_) h
  split at e <;> cases e
  exact ht

theorem execReplay_wf (p) (s : State) (h : Memory.wf s.mem = true) : OutWf (execReplay p s) := by
  refine applyControl_wf _ _ (fun t x u ht e => ?_) h
  split at e
  · split at e
    · dsimp only at e
      split at e <;> cases e
      · simp [ht]
      · exact ht
    · cases e
  · cases e

theorem execBuntingFrame_wf (s : State) (h : Memory.wf s.mem = true) : OutWf (execBuntingFrame s) := by
  unfold execBuntingFrame
  dsimp only
  split
  · simpa using h
  · rw [outWf_next, foldl_mem _ (fun t p => dropReserved_mem t p), foldl_mem _ (fun t p => sendFrame_mem _ _ t p)]
    simp [h]

theorem execGets_wf (p) (s : State) (h : Memory.wf s.mem = true) : OutWf (execGets p s) := by
  refine applyHead_wf _ _ (fun t x u ht e => ?_) h
  split at e <;> cases e
  simp [ht]

theorem execGetm_wf (p) (s : State) (h : Memory.wf s.mem = true) : OutWf (execGetm p s) := by
  refine applyHead_wf _ _ (fun t x u ht e => ?_) h
  split at e <;> cases e
  simpa using ht

theorem execUpgrade_wf (p) (s : State) (h : Memory.wf s.mem = true) : OutWf (execUpgrade p s) := by
  refine applyHead_wf _ _ (fun t x u ht e => ?_) h
  split at e <;> cases e
  simpa using ht

theorem execPutm_wf (p) (s : State) (h : Memory.wf s.mem = true) : OutWf (execPutm p s) := by
  refine applyHead_wf _ _ (fun t x u ht e => ?_) h
  split at e <;> cases e
  simpa using ht

theorem execInv_wf (p) (s : State) (h : Memory.wf s.mem = true) : OutWf (execInv p s) := by
  refine applyHead_wf _ _ (fun t x u ht e => ?_) h
  split at e <;> cases e
  simp [ht]

theorem execPoison_wf (p) (s : State) (h : Memory.wf s.mem = true) : OutWf (execPoison p s) := by
  refine applyHead_wf _ _ (fun t x u ht e => ?_) h
  split at e <;> cases e
  simpa using ht

theorem execDataResponse_wf (c line m) (s : State) (h : Memory.wf s.mem = true) : OutWf (execDataResponse c line m s) := by
  simp [execDataResponse, h]

theorem execBcast_wf (p) (s : State) (h : Memory.wf s.mem = true) : OutWf (execBcast p s) := by
  refine applyHead_wf _ _ (fun t x u ht e => ?_) h
  split at e <;> cases e
  simp [ht]

theorem execTile_wf (p) (s : State) (h : Memory.wf s.mem = true) : OutWf (execTile p s) := by
  refine applyHead_wf _ _ (fun t x u ht e => ?_) h
  split at e <;> cases e
  · simpa using ht
  · simp [ht]

theorem execTlbinvMessage_wf (p) (s : State) (h : Memory.wf s.mem = true) : OutWf (execTlbinvMessage p s) := by
  refine applyHead_wf _ _ (fun t x u ht e => ?_) h
  split at e
  · split at e <;> cases e <;> exact ht
  · cases e

theorem execTlbAcknowledge_wf (id y) (s : State) (h : Memory.wf s.mem = true) : OutWf (execTlbAcknowledge id y s) := by
  unfold execTlbAcknowledge
  split <;> simp [h]

theorem execAck_wf (p) (s : State) (h : Memory.wf s.mem = true) : OutWf (execAck p s) := by
  refine applyHead_wf _ _ (fun t x u ht e => ?_) h
  split at e <;> cases e
  exact ht

theorem execWavelengthDegraded_wf (p g w) (s : State) (h : Memory.wf s.mem = true) : OutWf (execWavelengthDegraded p g w s) := by
  simp [execWavelengthDegraded, h]

theorem execRetuneComplete_wf (p g w) (s : State) (h : Memory.wf s.mem = true) : OutWf (execRetuneComplete p g w s) := by
  simp [execRetuneComplete, h]

theorem execHeartbeat_wf (w) (s : State) (h : Memory.wf s.mem = true) : OutWf (execHeartbeat w s) := by simp [execHeartbeat, h]

theorem execUnitDead_wf (w) (s : State) (h : Memory.wf s.mem = true) : OutWf (execUnitDead w s) := by simp [execUnitDead, h]

theorem execPlaneReadTimeout_wf (w) (s : State) (h : Memory.wf s.mem = true) : OutWf (execPlaneReadTimeout w s) := by
  simp [execPlaneReadTimeout, h]

/-! ### Placement and pre-emption -/

theorem execBandPlacement_wf (id c cores) (s0 : State) (h : Memory.wf s0.mem = true) : OutWf (execBandPlacement id c cores s0) := by
  unfold execBandPlacement
  dsimp only
  split <;> simp [h]

theorem execPrewaitExpiry_wf (id c) (s : State) (h : Memory.wf s.mem = true) : OutWf (execPrewaitExpiry id c s) := by
  unfold execPrewaitExpiry
  split
  · split
    · rw [outWf_next, foldl_mem _ (fun _ _ => preemptBand_mem ..)]
      exact h
    · exact (outWf_next _).2 h
  · exact (outWf_next _).2 h

theorem execBandResume_wf (l b c cores) (s : State) (h : Memory.wf s.mem = true) : OutWf (execBandResume l b c cores s) := by
  unfold execBandResume
  split <;> simp [h]

theorem execResumeStoppedCrew_wf (k) (s : State) (h : Memory.wf s.mem = true) : OutWf (execResumeStoppedCrew k s) := by
  unfold execResumeStoppedCrew
  split <;> simp [h]

theorem execEndStoppedCrew_wf (k) (s : State) (h : Memory.wf s.mem = true) : OutWf (execEndStoppedCrew k s) := by
  unfold execEndStoppedCrew
  split <;> simp [h]

/-! ### The scheduler -/

theorem execNopPacket_wf (src) (s : State) (h : Memory.wf s.mem = true) : OutWf (execNopPacket src s) := by
  unfold execNopPacket
  split
  · next e =>
    have h1 := takePacket_wf e h
    split <;> simp [h, h1]
  · simpa using h

theorem execLaunch_wf (src) (s : State) (h : Memory.wf s.mem = true) : OutWf (execLaunch src s) :=
  onPacket_wf _ _ _ (fun _ _ _ hu => launchPacket_wf _ _ _ hu) h

theorem execCopy_wf (src) (s : State) (h : Memory.wf s.mem = true) : OutWf (execCopy src s) :=
  onPacket_wf _ _ _ (fun _ p _ => startOrWait_wf _ _ _ _ fun _ _ => runCopyPacket_wf p _ _) h

theorem execSignal_wf (src) (s : State) (h : Memory.wf s.mem = true) : OutWf (execSignal src s) :=
  onPacket_wf _ _ _ (fun _ p _ => startOrWait_wf _ _ _ _ fun _ _ => runSignal_wf p _ _) h

theorem execTime_wf (src) (s : State) (h : Memory.wf s.mem = true) : OutWf (execTime src s) :=
  onPacket_wf _ _ _ (fun _ _ _ => startOrWait_wf _ _ _ _ fun _ u hu => by simpa using hu) h

theorem execGraph_wf (src) (s : State) (h : Memory.wf s.mem = true) : OutWf (execGraph src s) := by
  refine onPacket_wf _ _ _ (fun t p u hu => (ite_wf _ _ _).2 ⟨fun _ => by simpa using hu, fun _ => ?_⟩) h
  exact startOrWait_wf _ _ _ _ (fun _ v hv => by simpa using hv) hu

theorem execStartReached_wf (id) (s : State) (h : Memory.wf s.mem = true) : OutWf (execStartReached id s) := by
  unfold execStartReached
  split <;> simp [h]

theorem execAgeing_wf (id) (s : State) (h : Memory.wf s.mem = true) : OutWf (execAgeing id s) := by
  unfold execAgeing
  split <;> simp [h]

theorem execBlocking_wf (id) (s : State) (h : Memory.wf s.mem = true) : OutWf (execBlocking id s) := by
  unfold execBlocking
  split <;> simp [h]

theorem execCqHeaderRecheck_wf (cq) (s : State) (h : Memory.wf s.mem = true) : OutWf (execCqHeaderRecheck cq s) := by
  unfold execCqHeaderRecheck
  split <;> simp [h]

theorem execRegionOverrun_wf (k) (s : State) (h : Memory.wf s.mem = true) : OutWf (execRegionOverrun k s) := by
  unfold execRegionOverrun
  split <;> simp [h]

theorem execThrottleWindow_wf (c co z) (s : State) (h : Memory.wf s.mem = true) : OutWf (execThrottleWindow c co z s) := by
  simp [execThrottleWindow, h]

theorem execFencing_wf (w) (s : State) (h : Memory.wf s.mem = true) : OutWf (execFencing w s) := by
  unfold execFencing
  split <;> simp [h]

theorem execRecordRewrite_wf (c) (s : State) (h : Memory.wf s.mem = true) : OutWf (execRecordRewrite c s) := by
  unfold execRecordRewrite
  (repeat' split) <;> simp [h]

/-! ### Host and peers -/

theorem execEngineOperationComplete_wf (id st data) (s : State) (h : Memory.wf s.mem = true) :
    OutWf (execEngineOperationComplete id st data s) := by
  unfold execEngineOperationComplete
  split <;> simp [h]

theorem execSentComplete_wf (id) (s : State) (h : Memory.wf s.mem = true) : OutWf (execSentComplete id s) := by
  unfold execSentComplete
  (repeat' split) <;> simp [h]

theorem execRemotePutArrival_wf (w off data) (s : State) (h : Memory.wf s.mem = true) : OutWf (execRemotePutArrival w off data s) := by
  unfold execRemotePutArrival
  split <;> simp [h]

theorem execRemoteGet_wf (w off len) (s : State) (h : Memory.wf s.mem = true) : OutWf (execRemoteGet w off len s) := by
  unfold execRemoteGet
  dsimp only
  (repeat' split) <;> simp [h, touchRuns_wf]

theorem execHostWindowWrite_wf (off data) (s : State) (h : Memory.wf s.mem = true) : OutWf (execHostWindowWrite off data s) := by
  unfold execHostWindowWrite
  (repeat' split) <;> simp [h]

theorem execHostWindowRead_wf (off) (s : State) (h : Memory.wf s.mem = true) : OutWf (execHostWindowRead off s) := by
  unfold execHostWindowRead
  (repeat' split) <;> simp [h]

theorem execHostMemoryCompletion_wf (k) (s : State) (h : Memory.wf s.mem = true) : OutWf (execHostMemoryCompletion k s) := by
  simp [execHostMemoryCompletion, h]

theorem execMsiXVectorUnmask_wf (v) (s : State) (h : Memory.wf s.mem = true) : OutWf (execMsiXVectorUnmask v s) := by
  simp [execMsiXVectorUnmask, h]

theorem execManagementCommand_wf (s : State) (h : Memory.wf s.mem = true) : OutWf (execManagementCommand s) := by
  unfold execManagementCommand
  dsimp only
  split
  · split
    · refine (outWf_next _).2 (whenReady_wf _ _ _ h ?_)
      rw [mgmtPut_mem]
      exact memWrite_wf _ _ _ (by simpa using h)
    · simpa using h
  · simpa using h

theorem execSpdmRequest_wf (s : State) (h : Memory.wf s.mem = true) : OutWf (execSpdmRequest s) := by simp [execSpdmRequest, h]

theorem execQueueRegistration_wf (q v) (s : State) (h : Memory.wf s.mem = true) : OutWf (execQueueRegistration q v s) := by
  simp [execQueueRegistration, h]

theorem execNodeAccess_wf (v) (s : State) (h : Memory.wf s.mem = true) : OutWf (execNodeAccess v s) := by simp [execNodeAccess, h]

theorem execRegisterWrite_wf (off v) (s : State) (h : Memory.wf s.mem = true) : OutWf (execRegisterWrite off v s) := by
  simp [execRegisterWrite, h]

/-! ### Ports -/

theorem execTimeExchange_wf (s : State) (h : Memory.wf s.mem = true) : OutWf (execTimeExchange s) := by simp [execTimeExchange, h]

theorem execFlitResendTimeout_wf (p q) (s : State) (h : Memory.wf s.mem = true) : OutWf (execFlitResendTimeout p q s) := by
  unfold execFlitResendTimeout
  split <;> simp [h]

theorem execAcknowledgementSend_wf (p) (s : State) (h : Memory.wf s.mem = true) : OutWf (execAcknowledgementSend p s) := by
  unfold execAcknowledgementSend
  split
  · exact (outWf_next _).2 (by rw [pump_mem, onPort_mem]; exact h)
  · simpa using h

theorem execLinkDown_wf (p) (s : State) (h : Memory.wf s.mem = true) : OutWf (execLinkDown p s) := by simp [execLinkDown, h]

theorem execPortLockLoss_wf (p w) (s : State) (h : Memory.wf s.mem = true) : OutWf (execPortLockLoss p w s) := by simp [execPortLockLoss, h]

theorem execReceiverLock_wf (p w) (s : State) (h : Memory.wf s.mem = true) : OutWf (execReceiverLock p w s) := by
  unfold execReceiverLock
  (repeat' split) <;> simp [h]

theorem execTrainingTimeout_wf (p) (s : State) (h : Memory.wf s.mem = true) : OutWf (execTrainingTimeout p s) := by
  unfold execTrainingTimeout
  dsimp only
  (repeat' split) <;> simp [h]

theorem execLtarget_wf (p v) (s : State) (h : Memory.wf s.mem = true) : OutWf (execLtarget p v s) := by simp [execLtarget, h]

theorem execDwellExpiry_wf (p) (s : State) (h : Memory.wf s.mem = true) : OutWf (execDwellExpiry p s) := by
  unfold execDwellExpiry
  split <;> simp [h]

theorem execInterlockTrip_wf (p) (s : State) (h : Memory.wf s.mem = true) : OutWf (execInterlockTrip p s) := by simp [execInterlockTrip, h]

theorem execInterlockClose_wf (p) (s : State) (h : Memory.wf s.mem = true) : OutWf (execInterlockClose p s) := by
  simp [execInterlockClose, h]

/-! ### Management -/

theorem execModuleReset_wf (s : State) (h : Memory.wf s.mem = true) : OutWf (execModuleReset s) := by
  simp [execModuleReset, h, afterReset_wf]

theorem execFtarget_wf (r v) (s : State) (h : Memory.wf s.mem = true) : OutWf (execFtarget r v s) := by simp [execFtarget, h]

theorem execFrequencyChangeEnd_wf (r) (s : State) (h : Memory.wf s.mem = true) : OutWf (execFrequencyChangeEnd r s) := by
  simp [execFrequencyChangeEnd, h]

theorem execDroop_wf (r) (s : State) (h : Memory.wf s.mem = true) : OutWf (execDroop r s) := by simp [execDroop, h]

theorem execDroopPassed_wf (r) (s : State) (h : Memory.wf s.mem = true) : OutWf (execDroopPassed r s) := by simp [execDroopPassed, h]

theorem execTemperatureWarn_wf (r t) (s : State) (h : Memory.wf s.mem = true) : OutWf (execTemperatureWarn r t s) := by
  simp [execTemperatureWarn, h]

theorem execFrequencyStep_wf (r) (s : State) (h : Memory.wf s.mem = true) : OutWf (execFrequencyStep r s) := by simp [execFrequencyStep, h]

theorem execClockStop_wf (r t) (s : State) (h : Memory.wf s.mem = true) : OutWf (execClockStop r t s) := by simp [execClockStop, h]

theorem execClockRestart_wf (r t) (s : State) (h : Memory.wf s.mem = true) : OutWf (execClockRestart r t s) := by simp [execClockRestart, h]

theorem execTemperatureBelowTwarn_wf (r t) (s : State) (h : Memory.wf s.mem = true) : OutWf (execTemperatureBelowTwarn r t s) := by
  simp [execTemperatureBelowTwarn, h]

theorem execThermalTrip_wf (r) (s : State) (h : Memory.wf s.mem = true) : OutWf (execThermalTrip r s) := by simp [execThermalTrip, h]

theorem execTokenWindow_wf (limited) (s : State) (h : Memory.wf s.mem = true) : OutWf (execTokenWindow limited s) := by
  simp [execTokenWindow, h]

theorem execCheckpointStart_wf (v) (s : State) (h : Memory.wf s.mem = true) : OutWf (execCheckpointStart v s) := by
  simp [execCheckpointStart, h]

theorem execCheckpointDone_wf (s : State) (h : Memory.wf s.mem = true) : OutWf (execCheckpointDone s) := by
  unfold execCheckpointDone
  split
  · simpa using h
  · split
    · simpa using h
    · simpa using runCheckpoint_wf s _ h

/-- Every instruction and event keeps memory's form: an instruction by the lemma of its family, else by its own. -/
theorem exec_wf (i : Instr) (s : State) (h : Memory.wf s.mem = true) : OutWf (exec i s) := by
  unfold exec
  cases i
  case add | sub | mul | mulh | mulhn | div | divn | rem | remn | and | or | xor | shl | shr | sha | min | max | minn | maxn | cmpEq |
      cmpNe | cmpLt | cmpLe | cmpLtn | cmpLen | clz | popc | addi | andi | ori | xori | shiShl | shiShr | shiSha | cmpiEq | cmpiNe |
      cmpiLt | cmpiLe | cmpiLtn | cmpiLen | lhi | addpc | madd | msub | taddr | sel | j | jal | nop | yield | setfmt | getfmt | setprec
      | rdtime | retransmissionWindowExpiry | preemptCommand | keptRangeRelease | cxlLinkDown | cxlLinkUp | controllerReset =>
    exact (outWf_next _).2 h
  case bfx => exact execBfx_wf _ _ _ _ s h
  case bfxn => exact execBfxn_wf _ _ _ _ s h
  case bfi => exact execBfi_wf _ _ _ _ s h
  case jr => exact execJr_wf _ s h
  case jalr => exact execJalr_wf _ _ s h
  case bz => exact execBz_wf _ _ s h
  case bnz => exact execBnz_wf _ _ s h
  case isync => exact execIsync_wf s h
  case npbegin => exact execNpbegin_wf s h
  case npend => exact execNpend_wf s h
  case endGroup => exact execEndGroup_wf s h
  case endk => exact execEndk_wf _ _ s h
  case clause => exact execClause_wf _ s h
  case clauser => exact execClauser_wf _ s h
  case mpush => exact execMpush_wf _ _ s h
  case mpushRegister => exact execMpushRegister_wf _ s h
  case melse => exact execMelse_wf s h
  case mpop => exact execMpop_wf s h
  case setp => exact execSetp_wf _ _ s h
  case pmov => exact execPmov_wf _ _ _ s h
  case wflag => exact execWflag_wf _ s h
  case vget => exact execVget_wf _ _ _ s h
  case vput => exact execVput_wf _ _ _ s h
  case getstat => exact execGetstat_wf _ s h
  case clrstat => exact execClrstat_wf _ s h
  case mfs => exact execMfs_wf _ _ s h
  case mts => exact execMts_wf _ _ s h
  case fenceFull | fenceAcquire | fenceRelease => exact (outWf_next _).2 (fence_wf _ _ _ _ _ (fun _ ht => ht) h)
  case fenceSc => exact execFenceSc_wf _ _ s h
  case barArv => exact (outWf_next _).2 (barrier_wf _ _ _ _ _ (fun _ _ ht => ht) h)
  case barSync => exact execBarSync_wf _ _ s h
  case waituntil => exact execWaituntil_wf _ s h
  case waituntilReached => exact execWaituntilReached_wf _ s h
  case poolGuard => exact execPoolGuard_wf _ s h
  case iadd | isub | imul | imulh | imad | imin | imax | idot4 | bfn3 | shf | laneBfx | laneBfi | bitc | icmp | mov | laneSel | pfn3 |
      spec | ixset | fadd | fmul | ffma | fmin | fmax | fcmp | fmath | fsca | fclass | cvt | pack | unpack | scalex | xadd | xmul | xfma
      | xcvt | xcmp | xrnd | xerr =>
    exact runLa_wf _ _ _ _ _ h
  case iaddLi | isubLi | imulLi | imulhLi | imadLi | iminLi | imaxLi | idot4Li | bfn3Li | shfLi | laneBfxLi | laneBfiLi | icmpLi | movi |
      faddLi | fmulLi | ffmaLi | fminLi | fmaxLi | fcmpLi | fmathDivLi | fscaLi =>
    exact runLi_wf _ _ _ _ _ h
  case xadde | xmule => exact runLaBody_wf _ _ _ _ (exactBody_wf _ _) h
  case lperm | qxch | qbc => exact runPerm_wf _ _ _ _ _ h
  case red | scan => exact runActive_wf _ _ _ _ (redBody_wf _ _) h
  case ppoll => exact runActive_wf _ _ _ _ (perLane_wf _ _) h
  case laneLd => exact (outWf_next _).2 (withLaneEarly_wf _ _ _ _ _ (ldBody_wf _) h)
  case laneSt => exact (outWf_next _).2 (withLaneNoHelp_wf _ _ _ _ _ (stBody_wf _) h)
  case ldv => exact (outWf_next _).2 (withLane_wf _ _ _ _ _ (ldvBody_wf _) h)
  case stv => exact (outWf_next _).2 (withLaneNoHelp_wf _ _ _ _ _ (stvBody_wf _) h)
  case pref => exact (outWf_next _).2 (withLaneNoHelp_wf _ _ _ _ _ (prefBody_wf _) h)
  case atom | atomc => exact (outWf_next _).2 (withLaneNoHelp_wf _ _ _ _ _ (atomBody_wf _ _ _) h)
  case ldfe | stfe | ldWf => exact runFe_wf _ _ _ _ (feWaitBody_wf _ _ _) h
  case fesetFull | fesetEmpty | stFill | stEmpty => exact runFe_wf _ _ _ _ (feNoWait_wf _ _ _) h
  case fullEmptyPerform => exact execFullEmptyPerform_wf s h
  case fullEmptyWaitExpired => exact execFullEmptyWaitExpired_wf s h
  case mma | mmas => exact (outWf_next _).2 (withMatrixEarly_wf _ _ _ _ _ _ (mmaBody_wf _ _) h)
  case accz => exact execAccz_wf _ s h
  case accld => exact (outWf_next _).2 (withMatrixEarly_wf _ _ _ _ _ _ (accldBody_wf _) h)
  case accst => exact (outWf_next _).2 (withMatrixEarly_wf _ _ _ _ _ _ (accstBody_wf _) h)
  case accrd => exact (outWf_next _).2 (withMatrix_wf _ _ _ _ _ (accrdBody_wf _) h)
  case accwr => exact (outWf_next _).2 (withMatrix_wf _ _ _ _ _ (accwrBody_wf _) h)
  case mbfen => exact execMbfen_wf _ s h
  case mbwait => exact (outWf_next _).2 (withMatrix_wf _ _ _ _ _ (fun _ => mbwaitBody_wf _) h)
  case longLatencyCompletion => exact execLongLatencyCompletion_wf _ _ s h
  case matrixOperationComplete => exact execMatrixOperationComplete_wf _ _ s h
  case clauseStart => exact (outWf_next _).2 (onGroup_wf _ _ _ clauseStart_wf h)
  case positionedEffect => exact (outWf_next _).2 (onGroup_wf _ _ _ positionedEffect_wf h)
  case granuleFill => exact (outWf_next _).2 (onGroup_wf _ _ _ (fillWanted_wf _) h)
  case trapEntry => exact execTrapEntry_wf _ _ _ _ _ s h
  case twaitAll => exact execTwaitAll_wf _ _ s h
  case twaitAny => exact execTwaitAny_wf _ _ s h
  case tfirst => exact execTfirst_wf _ _ s h
  case tack => exact execTack_wf _ s h
  case bbinit => exact execBbinit_wf _ s h
  case bbexp => exact execBbexp_wf _ _ s h
  case bbwait => exact execBbwait_wf _ _ _ s h
  case bbarv => exact execBbarv_wf _ _ _ s h
  case cpy => exact execCpy_wf _ _ _ _ s h
  case cpy2d => exact execCpy2d_wf _ _ _ _ s h
  case ld => exact execLd_wf _ _ _ _ _ s h
  case st => exact execSt_wf _ _ _ _ s h
  case ldk => exact execLdk_wf _ _ s h
  case amoSwap | amoAdd | amoAnd | amoOr | amoXor | amoMin | amoMax | amoMinn | amoMaxn | amoFadd => exact amo_wf _ _ _ _ _ _ _ _ h
  case cas => exact execCas_wf _ _ _ _ _ _ s h
  case qlock => exact execQlock_wf _ _ s h
  case qunlock => exact execQunlock_wf _ s h
  case bsub => exact execBsub_wf _ _ _ s h
  case bunsub => exact execBunsub_wf _ _ s h
  case bsync => exact execBsync_wf _ s h
  case put => exact execPut_wf _ _ _ _ s h
  case get => exact execGet_wf _ _ _ _ s h
  case winwait => exact execWinwait_wf _ _ _ s h
  case wincnt => exact execWincnt_wf _ _ _ s h
  case qpush => exact execQpush_wf _ _ _ s h
  case trap => exact execTrap_wf _ _ s h
  case tret => exact execTret_wf s h
  case msave => exact execMsave_wf s h
  case mrest => exact execMrest_wf s h
  case tlbinv => exact execTlbinv_wf _ _ _ s h
  case tlbinvAll => exact execTlbinvAll_wf s h
  case tlbsync => exact execTlbsync_wf s h
  case ndecl => exact execNdecl_wf _ _ s h
  case declaration => exact execDeclaration_wf _ _ s h
  case nreqTag => exact execNreqTag_wf _ _ _ _ s h
  case nreqBb => exact execNreqBb_wf _ _ _ _ s h
  case interest => exact execInterest_wf _ s h
  case interestNack => exact execInterestNack_wf _ s h
  case interestRetry => exact execInterestRetry_wf _ _ s h
  case tileDelivery => exact execTileDelivery_wf _ s h
  case npub => exact execNpub_wf _ _ _ s h
  case npubRel => exact execNpubRel_wf _ _ _ s h
  case publication => exact execPublication_wf _ s h
  case refill => exact execRefill_wf _ _ s h
  case localRecordExpiry => exact execLocalRecordExpiry_wf _ s h
  case pitEntryExpiry => exact execPitEntryExpiry_wf _ _ s h
  case drop => exact execDrop_wf _ s h
  case neverProduced => exact execNeverProduced_wf _ s h
  case tileLifetimeEnd => exact execTileLifetimeEnd_wf _ _ s h
  case tombstoneEnd => exact execTombstoneEnd_wf _ _ s h
  case cancel => exact execCancel_wf _ s h
  case ncan => exact execNcan_wf _ _ _ s h
  case ndrop => exact execNdrop_wf _ s h
  case skcmdTag => exact execSkcmdTag_wf _ _ _ s h
  case skcmdBb => exact execSkcmdBb_wf _ _ _ s h
  case skcmdCw => exact execSkcmdCw_wf _ _ s h
  case loamZero => exact runCmd_wf _ _ _ (fun o b => runZero_wf _ o b h) h
  case loamCopy => exact runCmd_wf _ _ _ (fun o b => runCopy_wf _ o b h) h
  case gred => exact runCmd_wf _ _ _ (fun o b => runGred_wf _ o b h) h
  case sadd => exact runCmd_wf _ _ _ (fun o b => runSadd_wf _ o b h) h
  case coll => exact execColl_wf _ s h
  case collectiveRun => exact execCollectiveRun_wf _ _ s h
  case collectiveTimeout => exact execCollectiveTimeout_wf _ s h
  case mig => exact execMig_wf _ s h
  case heatWindow => exact execHeatWindow_wf _ _ s h
  case domainSwitchOff => exact execDomainSwitchOff_wf _ _ s h
  case domainPowerOff => exact execDomainPowerOff_wf _ _ s h
  case domainSwitchOn => exact execDomainSwitchOn_wf _ _ s h
  case domainReady => exact execDomainReady_wf _ _ s h
  case nackSend => exact execNackSend_wf _ _ s h
  case nack => exact execNack_wf _ s h
  case hold => exact execHold_wf _ s h
  case replay => exact execReplay_wf _ s h
  case buntingFrame => exact execBuntingFrame_wf s h
  case gets => exact execGets_wf _ s h
  case getm => exact execGetm_wf _ s h
  case upgrade => exact execUpgrade_wf _ s h
  case putm => exact execPutm_wf _ s h
  case inv => exact execInv_wf _ s h
  case poison => exact execPoison_wf _ s h
  case dataResponse => exact execDataResponse_wf _ _ _ s h
  case bcast => exact execBcast_wf _ s h
  case tile => exact execTile_wf _ s h
  case tlbinvMessage => exact execTlbinvMessage_wf _ s h
  case tlbAcknowledge => exact execTlbAcknowledge_wf _ _ s h
  case ack => exact execAck_wf _ s h
  case wavelengthDegraded => exact execWavelengthDegraded_wf _ _ _ s h
  case retuneComplete => exact execRetuneComplete_wf _ _ _ s h
  case heartbeat => exact execHeartbeat_wf _ s h
  case unitDead => exact execUnitDead_wf _ s h
  case planeReadTimeout => exact execPlaneReadTimeout_wf _ s h
  case bandPlacement => exact execBandPlacement_wf _ _ _ s h
  case prewaitExpiry => exact execPrewaitExpiry_wf _ _ s h
  case bandResume => exact execBandResume_wf _ _ _ _ s h
  case resumeStoppedCrew => exact execResumeStoppedCrew_wf _ s h
  case endStoppedCrew => exact execEndStoppedCrew_wf _ s h
  case nopPacket => exact execNopPacket_wf _ s h
  case launch => exact execLaunch_wf _ s h
  case copy => exact execCopy_wf _ s h
  case signal => exact execSignal_wf _ s h
  case time => exact execTime_wf _ s h
  case graph => exact execGraph_wf _ s h
  case startReached => exact execStartReached_wf _ s h
  case ageing => exact execAgeing_wf _ s h
  case blocking => exact execBlocking_wf _ s h
  case cqHeaderRecheck => exact execCqHeaderRecheck_wf _ s h
  case regionOverrun => exact execRegionOverrun_wf _ s h
  case throttleWindow => exact execThrottleWindow_wf _ _ _ s h
  case fencing => exact execFencing_wf _ s h
  case recordRewrite => exact execRecordRewrite_wf _ s h
  case engineOperationComplete => exact execEngineOperationComplete_wf _ _ _ s h
  case sentComplete => exact execSentComplete_wf _ s h
  case remotePutArrival => exact execRemotePutArrival_wf _ _ _ s h
  case remoteGet => exact execRemoteGet_wf _ _ _ s h
  case hostWindowWrite => exact execHostWindowWrite_wf _ _ s h
  case hostWindowRead => exact execHostWindowRead_wf _ s h
  case hostMemoryCompletion => exact execHostMemoryCompletion_wf _ s h
  case msiXVectorUnmask => exact execMsiXVectorUnmask_wf _ s h
  case managementCommand => exact execManagementCommand_wf s h
  case spdmRequest => exact execSpdmRequest_wf s h
  case queueRegistration => exact execQueueRegistration_wf _ _ s h
  case nodeAccess => exact execNodeAccess_wf _ s h
  case registerWrite => exact execRegisterWrite_wf _ _ s h
  case dataFlit | acknowledgementFlit | idleFlit | propose | accept | train | timeFlit => exact flitEvent_wf _ _ _ _ h
  case timeExchange => exact execTimeExchange_wf s h
  case flitResendTimeout => exact execFlitResendTimeout_wf _ _ s h
  case acknowledgementSend => exact execAcknowledgementSend_wf _ s h
  case linkDown => exact execLinkDown_wf _ s h
  case portLockLoss => exact execPortLockLoss_wf _ _ s h
  case receiverLock => exact execReceiverLock_wf _ _ s h
  case trainingTimeout => exact execTrainingTimeout_wf _ s h
  case ltarget => exact execLtarget_wf _ _ s h
  case dwellExpiry => exact execDwellExpiry_wf _ s h
  case interlockTrip => exact execInterlockTrip_wf _ s h
  case interlockClose => exact execInterlockClose_wf _ s h
  case moduleReset => exact execModuleReset_wf s h
  case ftarget => exact execFtarget_wf _ _ s h
  case frequencyChangeEnd => exact execFrequencyChangeEnd_wf _ s h
  case droop => exact execDroop_wf _ s h
  case droopPassed => exact execDroopPassed_wf _ s h
  case temperatureWarn => exact execTemperatureWarn_wf _ _ s h
  case frequencyStep => exact execFrequencyStep_wf _ s h
  case clockStop => exact execClockStop_wf _ _ s h
  case clockRestart => exact execClockRestart_wf _ _ s h
  case temperatureBelowTwarn => exact execTemperatureBelowTwarn_wf _ _ s h
  case thermalTrip => exact execThermalTrip_wf _ s h
  case tokenWindow => exact execTokenWindow_wf _ s h
  case checkpointStart => exact execCheckpointStart_wf _ s h
  case checkpointDone => exact execCheckpointDone_wf s h

end Sys2Proof.Machine
end

section
/-! The canonical form of memory over a step: the events hardware raises, the fetch, the end of the step. -/
namespace Sys2Proof.Machine

/-- An event keeps memory's form. -/
def EventWf (e : Event) : Prop := ∀ s, Memory.wf s.mem = true → OutWf (e s)

theorem groupEvents_wf (s : State) (g : Group) : ∀ e ∈ groupEvents s g, EventWf e := by
  simp only [groupEvents, List.forall_mem_append, List.forall_mem_map]
  refine ⟨⟨fun o _ => ?_, ?_⟩, fun j _ => exec_wf (.granuleFill g.key j)⟩
  · split
    · exact exec_wf (.matrixOperationComplete g.key o.seq)
    · exact exec_wf (.longLatencyCompletion g.key o.seq)
  · split
    · exact List.forall_mem_singleton.2 (exec_wf (.waituntilReached g.key))
    · exact List.forall_mem_nil _

theorem opEvents_wf (o : EngOp) : ∀ e ∈ opEvents o, EventWf e := by
  simp only [opEvents, List.forall_mem_append, List.forall_mem_cons]
  refine ⟨?_, exec_wf (.engineOperationComplete o.id 0 []), exec_wf (.loamZero o.id), exec_wf (.loamCopy o.id), exec_wf (.gred o.id),
    exec_wf (.sadd o.id), exec_wf (.coll o.id), exec_wf (.mig o.id), exec_wf (.collectiveRun o.id ⟨[], true⟩),
    exec_wf (.collectiveTimeout o.id), exec_wf (.localRecordExpiry o.id), List.forall_mem_nil _⟩
  unfold sentEvents
  split
  · exact List.forall_mem_singleton.2 (exec_wf (.sentComplete o.id))
  · exact List.forall_mem_nil _

theorem planeEvents_wf (s : State) (p : Nat) : ∀ e ∈ planeEvents s p, EventWf e := by
  simp only [planeEvents, List.forall_mem_append, List.forall_mem_map, List.forall_mem_singleton]
  refine ⟨⟨?_, fun r _ => exec_wf (.nackSend p r.1)⟩, exec_wf (.retransmissionWindowExpiry p)⟩
  split
  · exact List.forall_mem_nil _
  · simp only [List.forall_mem_cons]
    exact ⟨exec_wf (.gets p), exec_wf (.getm p), exec_wf (.upgrade p), exec_wf (.putm p), exec_wf (.inv p), exec_wf (.poison p),
      exec_wf (.bcast p), exec_wf (.tile p), exec_wf (.tlbinvMessage p), exec_wf (.ack p), exec_wf (.nack p), exec_wf (.hold p),
      exec_wf (.replay p), List.forall_mem_nil _⟩

theorem layerEvents_wf (s : State) : ∀ e ∈ layerEvents s, EventWf e := by
  simp only [layerEvents, List.forall_mem_append, List.forall_mem_cons, List.forall_mem_map, List.forall_mem_flatMap]
  refine ⟨⟨⟨⟨⟨exec_wf .buntingFrame, fun p _ => planeEvents_wf s p⟩, fun r _ => exec_wf (.dataResponse r.cluster r.line r.mask)⟩,
    fun i _ h _ => exec_wf (.tlbAcknowledge i.id h)⟩, fun w _ => exec_wf (.heartbeat w)⟩, fun d _ => ?_⟩
  split
  · exact exec_wf (.recordRewrite d.1)
  · exact exec_wf (.fencing d.1)

theorem netEvent_wf (m : NetMsg) : EventWf (netEvent m) := by
  unfold netEvent
  split
  · exact exec_wf (.interest m)
  · exact exec_wf (.interestNack m)
  · exact exec_wf (.publication m)
  · exact exec_wf (.publication m)
  · exact exec_wf (.tileDelivery m)
  · exact exec_wf (.drop m)
  · exact exec_wf (.neverProduced m)
  · exact exec_wf (.neverProduced m)
  · exact exec_wf (.cancel m)
  · exact exec_wf (.declaration m false)
  · exact exec_wf (.declaration m false)

theorem routerEvents_wf (r : Nat × Router) : ∀ e ∈ routerEvents r, EventWf e := by
  simp only [routerEvents, List.forall_mem_append, List.forall_mem_map, List.forall_mem_flatMap]
  refine ⟨fun e _ => ?_, fun t _ => ?_⟩
  · split
    · exact exec_wf (.tombstoneEnd r.1 e.pennant)
    · exact exec_wf (.pitEntryExpiry r.1 e.pennant)
  · split
    · simp only [List.forall_mem_cons]
      exact ⟨exec_wf (.refill r.1 t.pennant), exec_wf (.tileLifetimeEnd r.1 t.pennant), List.forall_mem_nil _⟩
    · exact List.forall_mem_singleton.2 (exec_wf (.tileLifetimeEnd r.1 t.pennant))

theorem tileEvents_wf (s : State) : ∀ e ∈ tileEvents s, EventWf e := by
  simp only [tileEvents, List.forall_mem_append, List.forall_mem_map, List.forall_mem_flatMap]
  exact ⟨⟨⟨fun m _ => netEvent_wf m, fun r _ => routerEvents_wf r⟩, fun w _ => exec_wf (.interestRetry w.cluster w.pennant)⟩,
    fun o _ => exec_wf (.declaration { plainMsg .declared (clusterRouter o.cluster) .loc 0 with op := o.id } true)⟩

theorem packetEvents_wf (src : PktSrc) : ∀ e ∈ packetEvents src, EventWf e := by
  simp only [packetEvents, List.forall_mem_cons]
  exact ⟨exec_wf (.nopPacket src), exec_wf (.launch src), exec_wf (.graph src), exec_wf (.copy src), exec_wf (.signal src),
    exec_wf (.time src), List.forall_mem_nil _⟩

theorem placeEvents_wf (s : State) (x : Entry) : ∀ e ∈ placeEvents s x, EventWf e := by
  unfold placeEvents
  split
  · exact List.forall_mem_nil _
  · simp only [List.forall_mem_flatMap, List.forall_mem_cons]
    refine fun c _ => ⟨exec_wf (.prewaitExpiry x.launch c), ?_⟩
    split
    · next cs _ => exact List.forall_mem_singleton.2 (exec_wf (.bandPlacement x.launch c cs))
    · exact List.forall_mem_nil _

theorem schedEvents_wf (s : State) : ∀ e ∈ schedEvents s, EventWf e := by
  simp only [schedEvents, List.forall_mem_append, List.forall_mem_cons, List.forall_mem_map, List.forall_mem_flatMap]
  exact ⟨⟨⟨⟨⟨⟨fun q _ => packetEvents_wf (.queue q), fun r _ => packetEvents_wf (.node r.node)⟩,
    fun j _ => exec_wf (.startReached j.id)⟩,
    fun e _ => ⟨⟨exec_wf (.ageing e.launch), exec_wf (.blocking e.launch), List.forall_mem_nil _⟩, placeEvents_wf s e⟩⟩,
    fun b _ => exec_wf (.bandResume b.launch b.band b.cluster b.cores)⟩, fun cq _ => exec_wf (.cqHeaderRecheck cq)⟩,
    exec_wf (.throttleWindow _ _ _), List.forall_mem_nil _⟩

theorem domainEvents_wf (s : State) : ∀ e ∈ domainEvents s, EventWf e := by
  simp only [domainEvents, List.forall_mem_flatMap]
  intro i _
  split
  · exact List.forall_mem_nil _
  · split
    · exact List.forall_mem_singleton.2 (exec_wf (.domainReady (i / 5) (i % 5)))
    · exact List.forall_mem_singleton.2 (exec_wf (.domainPowerOff (i / 5) (i % 5)))

theorem portEvents_wf (s : State) (p : Nat) : ∀ e ∈ portEvents s p, EventWf e := by
  simp only [portEvents, List.forall_mem_append, List.forall_mem_cons, List.forall_mem_map]
  exact ⟨⟨exec_wf (.linkDown p), exec_wf (.trainingTimeout p), exec_wf (.dwellExpiry p), exec_wf (.acknowledgementSend p),
    List.forall_mem_nil _⟩, fun x _ => exec_wf (.flitResendTimeout p x.seq)⟩

/-- A PUT that had to wait for its place is tried again. -/
theorem retryArrival_wf : EventWf retryArrival := by
  intro s h
  unfold retryArrival
  split
  · exact (outWf_next _).2 h
  · next x r _ => exact exec_wf (.remotePutArrival x.win x.off x.data) _ h

theorem moduleEvents_wf (s : State) : ∀ e ∈ moduleEvents s, EventWf e := by
  simp only [moduleEvents, List.forall_mem_append, List.forall_mem_cons, List.forall_mem_flatMap]
  refine ⟨⟨⟨exec_wf .timeExchange, exec_wf .managementCommand, exec_wf .checkpointDone, retryArrival_wf, fun t ht => by simpa using ht,
    exec_wf (.tokenWindow _), List.forall_mem_nil _⟩, fun p _ => portEvents_wf s p⟩, fun r _ => ⟨?_, ?_⟩⟩
  · split
    · exact List.forall_mem_singleton.2 (exec_wf (.frequencyChangeEnd r))
    · exact List.forall_mem_nil _
  · split
    · exact List.forall_mem_singleton.2 (exec_wf (.frequencyStep r))
    · exact List.forall_mem_nil _

/-- Every event that hardware may raise keeps memory's form. -/
theorem ownEvents_wf (s : State) : ∀ e ∈ ownEvents s, EventWf e := by
  unfold ownEvents
  split
  · simp only [List.forall_mem_append, List.forall_mem_flatMap]
    exact ⟨⟨⟨⟨⟨⟨fun g _ => groupEvents_wf s g, fun o _ => opEvents_wf o⟩, layerEvents_wf s⟩, tileEvents_wf s⟩, schedEvents_wf s⟩,
      domainEvents_wf s⟩, moduleEvents_wf s⟩
  · split
    · exact List.forall_mem_singleton.2 (exec_wf .moduleReset)
    · exact List.forall_mem_nil _

/-- What a turn calls for leaves memory in its canonical form. -/
def WorkWf : Work → Prop
  | .run _ s | .done s => Memory.wf s.mem = true
  | .act o => OutWf o

theorem scalarWork_wf (s : State) (h : Memory.wf s.mem = true) : WorkWf (scalarWork s) := by
  unfold scalarWork
  split
  · exact scalarTrap_wf _ _ _ h
  · next e =>
    have h1 := fetchWord_wf e h
    split
    · exact h1
    · exact scalarTrap_wf _ _ _ h1

theorem laneFetch_wf (s : State) (q : QEntry) (h : Memory.wf s.mem = true) : WorkWf (laneFetch s q) := by
  unfold laneFetch
  split
  · exact laneTrap_wf _ _ _ h
  · next e =>
    have h1 := fetchWords_wf _ e h
    split
    · exact h1
    · exact laneTrap_wf _ _ _ h1

theorem laneWork_wf (s : State) (h : Memory.wf s.mem = true) : WorkWf (laneWork s) := by
  unfold laneWork
  split
  · exact h
  · split
    · exact h
    · split
      · exact h
      · split
        · exact laneFetch_wf _ _ h
        · exact h

theorem hardwareWork_wf (s : State) (h : Memory.wf s.mem = true) : WorkWf (hardwareWork s) := by
  unfold hardwareWork
  dsimp only
  split
  · next e => exact ownEvents_wf s _ (List.mem_of_getElem? e) s h
  · exact h

theorem workOf_wf (s : State) (h : Memory.wf s.mem = true) : WorkWf (workOf s) := by
  unfold workOf
  split
  · split <;> exact h
  · split
    · split
      · exact scalarWork_wf s h
      · exact h
    · split
      · exact laneWork_wf s h
      · exact h
    · exact hardwareWork_wf s h

theorem endStep_wf (o : Out) (h : OutWf o) : OutWf (endStep o) := by
  unfold endStep
  split
  · exact (outWf_next _).2 (settle_wf _ ((outWf_next _).1 h))
  · simp [OutWf]
  · simp [OutWf]

theorem step_wf (s : State) (h : Memory.wf s.mem = true) : OutWf (step s) := by
  have hw := workOf_wf s h
  unfold step
  split
  · split
    · next e => rw [e] at hw; exact endStep_wf _ (exec_wf _ _ hw)
    · next e => rw [e] at hw; exact endStep_wf _ hw
    · next e => rw [e] at hw; exact (outWf_next _).2 (settle_wf _ hw)
  · simp [OutWf]

/-- Settles O59: each step is one instruction or event, whose writes go through `memPut`, `spClear` and filters of the cells; each of these
keeps the form, and everything else leaves memory as it was. -/
theorem memoryCanonical : Obligations.MemoryCanonical := by
  intro s t h e
  exact step_wf s h t e

end Sys2Proof.Machine
end

section
/-! What a step does: whom the turn goes to, and the instruction that is fetched and run. -/
namespace Sys2Proof.Machine

/-! ### The turn -/

theorem curRuns_iff (s : State) : curRuns s = true ↔ mayRun s s.cur = true ∧ s.crew.key = crewKey s.cur.key := by
  simp [curRuns]

/-- A turn goes to a group in focus only where that group may issue. -/
theorem chooseTurn_turn (s : State) (h : (chooseTurn s).turn ≠ .hardware) : curRuns (chooseTurn s) = true := by
  unfold chooseTurn at h ⊢
  dsimp only at h ⊢
  generalize focus s _ = t at h ⊢
  by_cases hr : curRuns t
  · exact hr
  · simp [hr] at h

/-- A step that goes on ends with the choice of the next turn. -/
theorem step_next {s t : State} (h : step s = .next t) : ∃ u, t = chooseTurn u := by
  have he (o : Out) (h : endStep o = .next t) : ∃ u, t = chooseTurn u := by
    unfold endStep at h
    split at h
    · exact ⟨_, (Host.Outcome.next.inj h).symm⟩
    · cases h
    · cases h
  unfold step at h
  split at h
  · split at h
    · exact he _ h
    · exact he _ h
    · exact ⟨_, (Host.Outcome.next.inj h).symm⟩
  · cases h

/-- Settles O60: every step ends with the choice of the turn, which gives it to a group only where that group may issue. -/
theorem turnInvariant : Obligations.TurnInvariant := by
  intro s t h ht
  obtain ⟨u, rfl⟩ := step_next h
  have hr := chooseTurn_turn u ht
  obtain ⟨hm, hk⟩ := (curRuns_iff _).1 hr
  simp only [mayRun, Bool.and_eq_true, decide_eq_true_eq] at hm
  obtain ⟨⟨hres, hclk⟩, -⟩ := hm
  exact ⟨hr, hres, hk, hclk⟩

/-! ### What a step calls for -/

theorem step_run {s s1 : State} {i : Instr} (hp : s.power = true) (h : workOf s = .run i s1) : step s = endStep (exec i s1) := by
  simp [step, hp, h]

theorem step_done {s s1 : State} (hp : s.power = true) (h : workOf s = .done s1) : step s = .next (settle s1) := by
  simp [step, hp, h]

/-- An event given from outside comes before any turn. -/
theorem workOf_input {s : State} {i : Instr} {r : List Instr} (h : s.inputs = i :: r) (hi : encode i = []) :
    workOf s = .run i { s with inputs := r } := by
  simp [workOf, h, isEvent, hi]

theorem workOf_scalar {s : State} (h : s.inputs = []) (ht : s.turn = .scalar) (hr : curRuns s = true) : workOf s = scalarWork s := by
  simp [workOf, h, ht, hr]

/-- With no lane waiting on full/empty bits, the lane engine's turn fetches from the running clause. -/
theorem workOf_lane {s : State} {e : QEntry} {r : List QEntry} (h : s.inputs = []) (ht : s.turn = .lane) (hr : curRuns s = true)
    (hw : s.cur.feWait = none) (hq : s.cur.queue = e :: r) (hk : e.kind = .clause) (hs : e.started = true) :
    workOf s = laneFetch s e := by
  simp [workOf, h, ht, hr, laneWork, hw, hq, hk, hs]

/-! ### A word fetched -/

/-- With no store since the last ISYNC a word is what memory holds. -/
theorem someValueSince_isync (s : State) (pa n : Nat) : someValueSince s s.hist.length pa n = memRead s pa n := by
  simp [someValueSince, valueHistory]

/-- The state but for memory, cached translations and the counts of accesses. -/
def walkOff (t : State) : State := { t with mem := [], tlb := [], heat := [] }

theorem markLeaf_rest (s : State) (k : Access) (l : Leaf) : walkOff (markLeaf s k l) = walkOff s := by
  unfold markLeaf
  dsimp only
  split <;> rfl

theorem cacheLeaf_rest (s : State) (a : Actor) (k : Access) (va : W64) (l : Leaf) : walkOff (cacheLeaf s a k va l) = walkOff s := by
  refine foldl_keeps walkOff _ (fun t e => ?_) _ s
  unfold cacheEntry
  split <;> rfl

theorem countHeat_rest (s : State) (pa : Nat) : walkOff (countHeat s pa) = walkOff s := by
  unfold countHeat
  split <;> rfl

/-- The walks of an access leave A and D bits, cached translations and counts (R88, R89, R388). -/
theorem touchRuns_rest (a : Actor) (k : Access) (rs : List Run) : ∀ (s : State) (va : W64),
    walkOff (touchRuns s a k va rs) = walkOff s := by
  induction rs with
  | nil => exact fun _ _ => rfl
  | cons r rs ih =>
    intro s va
    refine (ih _ _).trans ((countHeat_rest _ _).trans ?_)
    cases r.leaf with
    | none => rfl
    | some l => exact (cacheLeaf_rest _ _ _ _ _).trans (markLeaf_rest s k l)

theorem restored_of_walkOff {s t : State} (h : walkOff t = walkOff s) : ({ t with mem := s.mem, tlb := s.tlb, heat := s.heat } : State) = s :=
  congrArg (fun u : State => { u with mem := s.mem, tlb := s.tlb, heat := s.heat }) h

/-- A code word in one run of memory is fetched as memory holds it, where nothing was stored since the last ISYNC (R116). -/
theorem fetchWord_isync {s : State} {k : Access} {a : W64} {r : Run} (hr : runs s (accActor s a) k a 4 = .ok [r])
    (hp : poisoned s r.pa 4 = false) (hd : homeDead s r.pa = false) (hh : r.place = .host → s.linkUp = true)
    (hi : s.hist.length = s.cur.isyncMark) :
    fetchWord s k a = .ok (memRead s r.pa 4, touchRuns s (accActor s a) k a [r]) := by
  have hl : (!s.linkUp && decide (r.place = .host)) = false := by
    by_cases h : r.place = .host
    · simp [hh h]
    · simp [h]
  simp [fetchWord, hr, hp, hd, hl, ← hi, someValueSince_isync]

/-- Settles O57: each turn's work is the model's own fetch, decode and run; a word with no store since ISYNC has one value. -/
theorem stepRunsDecoded : Obligations.StepRunsDecoded := by
  intro s hp
  refine ⟨fun i r hi he => ?_, fun hi ht hr => ?_, fun hi ht hr hw e r a hq hk hs ha => ?_, fun k a r hr hpo hd hh hm => ?_⟩
  · exact step_run hp (workOf_input hi he)
  · have hwork := workOf_scalar hi ht hr
    refine ⟨fun bs s1 hf => ⟨fun i hdec => ?_, fun hdec => ?_⟩, fun x hf => ?_⟩
    · exact step_run hp (by simp [hwork, scalarWork, hf, hdec])
    · exact step_done hp (by simp [hwork, scalarWork, hf, hdec])
    · exact step_done hp (by simp [hwork, scalarWork, hf])
  · have hwork := workOf_lane hi ht hr hw hq hk hs
    have ha' : laneAddr e = a := ha.symm
    refine ⟨fun bs s1 hf => ⟨fun i hdec => ?_, fun hdec c hc => ?_⟩, fun x hf => ?_⟩
    · exact step_run hp (by simp [hwork, laneFetch, ha', hf, hdec])
    · exact step_done hp (by simp [hwork, laneFetch, ha', hf, hdec, hc, isHeaderWord])
    · exact step_done hp (by simp [hwork, laneFetch, ha', hf])
  · exact ⟨_, fetchWord_isync hr hpo hd hh hm, restored_of_walkOff (touchRuns_rest _ _ _ _ _)⟩

end Sys2Proof.Machine
end

section
/-! The scalar instructions that act on the group's own state: the lane queue, the mask stack, predicates, flags and `fmt` (R172 to R181). -/
namespace Sys2Proof.Machine

open Sys2Proof.Claims

/-! ### What the waits of a scalar instruction ask for (R153) -/

theorem laneEnded_iff (g : Group) : laneEnded g = true ↔ g.queue = [] := by simp [laneEnded]

theorem longOuts_eq_nil_iff (g : Group) : longOuts g = [] ↔ ∀ o ∈ g.outs, o.matrix = true := by simp [longOuts]

theorem laneComplete_iff (g : Group) : laneComplete g = true ↔ g.queue = [] ∧ ∀ o ∈ g.outs, o.matrix = true := by
  simp [laneComplete, longOuts_eq_nil_iff]

theorem laneStarted_iff (g : Group) : laneStarted g = true ↔ ∀ e ∈ g.queue, e.kind = .clause → e.started = true := by
  simp only [laneStarted, List.all_eq_true, Bool.or_eq_true, decide_eq_true_eq]
  exact forall₂_congr fun e _ => ⟨fun h hk => h.resolve_left (fun hn => hn hk), fun h => (em (e.kind = .clause)).elim (fun hk => .inr (h hk)) .inl⟩

/-! ### Words put together bit by bit -/

/-- Powers of two of distinct exponents below n add up to a number below 2^n whose bits they are. -/
theorem foldl_bits (p : Nat → Bool) (n : Nat) :
    (List.range n).foldl (fun acc i => if p i then acc + 2 ^ i else acc) 0 < 2 ^ n ∧
    ∀ i, ((List.range n).foldl (fun acc i => if p i then acc + 2 ^ i else acc) 0).testBit i = (decide (i < n) && p i) := by
  induction n with
  | zero => simp
  | succ n ih =>
    obtain ⟨hlt, hbit⟩ := ih
    rw [List.range_succ, List.foldl_append]
    generalize (List.range n).foldl (fun acc i => if p i then acc + 2 ^ i else acc) 0 = x at hlt hbit
    simp only [List.foldl_cons, List.foldl_nil]
    have hne {i : Nat} (h : i ≠ n) : decide (i < n + 1) = decide (i < n) := by simp only [decide_eq_decide]; omega
    by_cases hp : p n
    · rw [if_pos hp]
      refine ⟨by rw [pow_succ]; omega, fun i => ?_⟩
      have hor : x + 2 ^ n = 2 ^ n ||| x := by simpa [Nat.add_comm] using Nat.two_pow_add_eq_or_of_lt hlt 1
      rw [hor, Nat.testBit_or, Nat.testBit_two_pow, hbit]
      by_cases h : i = n
      · simp [h, hp]
      · rw [hne h]
        simp [Ne.symm h]
    · rw [if_neg hp]
      refine ⟨hlt.trans (by rw [pow_succ]; omega), fun i => ?_⟩
      rw [hbit]
      by_cases h : i = n
      · simp [h, hp]
      · rw [hne h]

/-- A low part of a word, widened again, is the word under a mask. -/
theorem setWidth_setWidth_64 (k : Nat) (x : W64) : (x.setWidth k).setWidth 64 = x &&& BitVec.ofNat 64 (2 ^ k - 1) := by
  apply BitVec.eq_of_getLsbD_eq
  intro i hi
  rw [BitVec.getLsbD_setWidth, BitVec.getLsbD_setWidth, BitVec.getLsbD_and, BitVec.getLsbD_ofNat, Nat.testBit_two_pow_sub_one]
  simp [hi, Bool.and_comm]

theorem getLsbD_flagsWord (g : Group) (i : Nat) : (flagsWord g).getLsbD i = decide (i < 12 ∧ vget g.flags i 0 ≠ 0) := by
  have hfold : (fun acc i => if vget g.flags i 0 = 0 then acc else acc + 2 ^ i) =
      fun (acc i : Nat) => if decide (vget g.flags i 0 ≠ 0) then acc + 2 ^ i else acc := by
    funext acc i
    by_cases h : vget g.flags i 0 = 0 <;> simp [h]
  rw [flagsWord, BitVec.getLsbD_ofNat, hfold, (foldl_bits _ 12).2]
  by_cases h : i < 12 <;> simp [h]

/-- No flag of a mask is set: each of its counts is 0 (R177). -/
theorem flagsWord_and_eq_zero_iff (g : Group) (m : BitVec 12) :
    flagsWord g &&& m = 0 ↔ ∀ i : Fin 12, m.getLsbD i = true → vget g.flags i 0 = 0 := by
  constructor
  · intro h i hi
    have hb : (flagsWord g &&& m).getLsbD i = false := by
      rw [h]
      simp
    rw [BitVec.getLsbD_and, getLsbD_flagsWord, hi, Bool.and_true] at hb
    simpa [i.isLt] using hb
  · intro h
    apply BitVec.eq_of_getLsbD_eq
    intro i hi
    rw [BitVec.getLsbD_and, getLsbD_flagsWord]
    by_cases hm : m.getLsbD i = true
    · simp [h ⟨i, hi⟩ hm]
    · simp [hm]

/-! ### The lane queue -/

theorem exec_clause (imm : BitVec 20) (s : State) : exec (.clause imm) s = .next (enqueue s (clauseEntry s.cur imm.toNat)) := rfl

theorem exec_clauser (a : BitVec 6) (s : State) : exec (.clauser a) s =
    if (sreg s a).toNat < 2 ^ 20 then .next (enqueue s (clauseEntry s.cur (sreg s a).toNat)) else .next (scalarTrap s 0x03 (sreg s a)) := by
  show execClauser a s = _
  unfold execClauser
  by_cases h : (sreg s a).toNat < 2 ^ 20
  · rw [if_neg (Nat.not_le.2 h), if_pos h]
  · rw [if_pos (Nat.not_lt.1 h), if_neg h]

theorem exec_setp (k : BitVec 3) (a : BitVec 6) (s : State) : exec (.setp k a) s =
    if k = 0 then .next (illegalScalar (.setp k a) s) else .next (enqueue s { kind := .setp, addr := sreg s a, target := k.setWidth 16 }) := rfl

theorem exec_vput (d : BitVec 6) (slot : BitVec 8) (lane : BitVec 5) (s : State) : exec (.vput d slot lane) s =
    if s.cur.nslots ≤ slot.toNat then .next (scalarTrap s 0x06 (slot.setWidth 64))
    else .next (enqueue s { kind := .vput, addr := ((sreg s d).setWidth 32).setWidth 64, target := BitVec.ofNat 16 (slot.toNat * 32 + lane.toNat) }) := rfl

theorem exec_mts_prng (a : BitVec 6) (s : State) : exec (.mts a 0x030) s = .next (enqueue s { kind := .prng, addr := sreg s a }) := rfl

theorem exec_mts_fewait (a : BitVec 6) (s : State) : exec (.mts a 0x040) s = .next (enqueue s { kind := .fewait, addr := sreg s a }) := rfl

/-- An instruction that appends an entry of the lane queue does that and nothing else. -/
theorem exec_appended {s : State} {i : Instr} {e : QEntry} (h : appended s i = some e) : exec i s = .next (enqueue s e) := by
  unfold appended at h
  split at h
  · rw [exec_clause]
    cases h
    rfl
  · split at h
    · rw [exec_clauser, if_pos ‹_›]
      cases h
      rfl
    · cases h
  · split at h
    · cases h
    · rw [exec_setp, if_neg ‹_›]
      cases h
      rfl
  · split at h
    · rw [exec_vput, if_neg (Nat.not_le.2 ‹_›)]
      cases h
      rfl
    · cases h
  · split at h
    · subst_vars
      cases h
      exact exec_mts_prng _ s
    · split at h
      · subst_vars
        cases h
        exact exec_mts_fewait _ s
      · cases h
  · cases h

/-- Settles O4: each instruction appends its entry or waits for room, and what is out of range traps before that. -/
theorem laneQueue : Obligations.LaneQueue := by
  refine ⟨fun s i e h => ?_, fun s a d slot lane => ⟨fun ha => ?_, ?_, fun hs => ?_, fun hs => ?_⟩⟩
  · rw [exec_appended h]
    exact ⟨fun hr => congrArg _ (enqueue_room s e hr), fun hf => congrArg _ (enqueue_full s e hf)⟩
  · rw [exec_clauser, if_neg (Nat.not_lt.2 ha)]
  · rfl
  · rw [exec_vput, if_pos hs]
  · exact if_pos hs

/-! ### The mask stack (R25, R175, R176) -/

/-- The change of `amask`, `fmt` and the mask stack that R25 writes; the scalar thread goes on. -/
def maskMoved (s : State) (r : W32 × W64 × List MaskEntry) : State :=
  { s with cur := { s.cur with pc := s.cur.pc + 4, amask := r.1, fmt := r.2.1, mstack := r.2.2 } }

/-- What a mask instruction makes of the state: the change, or the trap where there is none. -/
def maskOrTrap (s : State) : Option (W32 × W64 × List MaskEntry) → State
  | some r => maskMoved s r
  | none => scalarTrap s 0x05 0

theorem mpush_eq (p : W32) (s : State) : mpush p s = maskOrTrap s (if s.cur.mstack.length < 32 then
    some (s.cur.amask &&& p, s.cur.fmt, { mask := s.cur.amask, fmt := s.cur.fmt, taken := s.cur.amask &&& p } :: s.cur.mstack)
    else none) := by
  unfold mpush
  by_cases h : s.cur.mstack.length < 32
  · rw [if_neg (Nat.not_le.2 h), if_pos h]
    rfl
  · rw [if_pos (Nat.not_lt.1 h), if_neg h]
    rfl

/-- A mask instruction that may act moves the mask stack as R25 writes it, or traps where the stack has no room or no entry. -/
theorem exec_mask {s : State} {i : Instr} (h : maskReady s.cur i) :
    exec i s = .next (maskOrTrap s (maskStep s.cur i)) := by
  unfold maskReady at h
  split at h
  · next n p =>
    obtain ⟨hq, hp⟩ := h
    have hl : legalAt staticFmt (.mpush n p) = true := by simpa [legalAt, imp_iff_not_or] using hp
    have he : exec (.mpush n p) s = .next (mpush (specMask s.cur n p) s) := by
      show execMpush n p s = _
      simp [execMpush, hl, (laneEnded_iff s.cur).2 hq]
    rw [he, mpush_eq]
    rfl
  · next a =>
    show Host.Outcome.next (mpush ((sreg s a).setWidth 32) s) = _
    rw [mpush_eq]
    rfl
  · show execMelse s = _
    unfold execMelse maskStep
    cases hs : s.cur.mstack with
    | nil => rfl
    | cons e r => simp [maskOrTrap, maskMoved, modCur, advance, hs]
  · show execMpop s = _
    unfold execMpop maskStep
    cases hs : s.cur.mstack with
    | nil => rfl
    | cons e r => rfl
  · exact h.elim

/-! ### Predicates, flags and lane slots (R176 to R178) -/

theorem exec_pmov {s : State} (d : BitVec 6) {n : BitVec 1} {p : BitVec 3} (hq : s.cur.queue = []) (hp : ¬ (n = 1 ∧ p = 0)) :
    exec (.pmov d n p) s =
      .next (retS s d ((if n = 1 then ~~~predMask s.cur p.toNat else predMask s.cur p.toNat).setWidth 64)) := by
  have hl : legalAt staticFmt (.pmov d n p) = true := by simpa [legalAt, imp_iff_not_or] using hp
  show execPmov d n p s = _
  simp [execPmov, hl, (laneEnded_iff s.cur).2 hq, specMask]

theorem exec_vget {s : State} (d : BitVec 6) {slot : BitVec 8} {lane : BitVec 5} (hq : s.cur.queue = []) (hs : slot.toNat < s.cur.nslots)
    (hp : isPending s.cur (slot.toNat * 32 + lane.toNat) = false) :
    exec (.vget d slot lane) s = match fillGranules s [slot.toNat / 8] with
      | .error c => .next (scalarTrap s c.1 c.2)
      | .ok s1 => .next (retS s1 d ((spGet s1.cur.lanes (slot.toNat * 32 + lane.toNat)).setWidth 64)) := by
  have hb : (!laneEnded s.cur || isPending s.cur (laneKey slot.toNat lane.toNat)) = false := by
    rw [(laneEnded_iff s.cur).2 hq, laneKey, hp]
    rfl
  show execVget d slot lane s = _
  simp only [execVget, ge_iff_le, Nat.not_le.2 hs, if_false, hb]
  cases fillGranules s [slot.toNat / 8] <;> rfl

theorem exec_wflag {s : State} {m : BitVec 12} (hs : ∀ e ∈ s.cur.queue, e.kind = .clause → e.started = true)
    (hf : ∀ i : Fin 12, m.getLsbD i = true → vget s.cur.flags i 0 = 0) : exec (.wflag m) s = .next (nextPc s) := by
  show execWflag m s = _
  simp only [execWflag, (laneStarted_iff s.cur).2 hs, (flagsWord_and_eq_zero_iff s.cur m).2 hf, decide_true, Bool.and_self, if_true]
  rfl

theorem exec_getstat {s : State} (d : BitVec 6) (h : laneComplete s.cur = true) :
    exec (.getstat d) s = .next (retS s d (s.cur.fstat.setWidth 64)) := if_pos h

theorem exec_clrstat {s : State} (a : BitVec 6) (h : laneComplete s.cur = true) : exec (.clrstat a) s =
    .next { s with cur := { s.cur with pc := s.cur.pc + 4, fstat := s.cur.fstat &&& ~~~((sreg s a).setWidth 7) } } := if_pos h

/-! ### `fmt` (R179) -/

theorem getLsbD_fmtMask : ∀ k < 64, fmtMask.getLsbD k = (decide (k < 31) && decide (k ≠ 15)) := by decide

theorem getLsbD_sevenOnes : ∀ k < 64, (0x7F : W64).getLsbD k = decide (k < 7) := by decide

/-- A precision field of `fmt` is replaced, its other bits stay. -/
theorem getLsbD_setFmt_field (g : Group) (x : W64) {lo : Nat} (h1 : 16 ≤ lo) (h2 : lo + 7 ≤ 31) {k : Nat} (hk : k < 64) :
    (setFmt g ((x &&& 0x7F) <<< lo) (0x7F <<< lo)).fmt.getLsbD k =
      if lo ≤ k ∧ k < lo + 7 then x.getLsbD (k - lo) else g.fmt.getLsbD k := by
  have h7 := getLsbD_sevenOnes (k - lo) (by omega)
  have hm : ((0x7F <<< lo : Nat) : W64).getLsbD k = (decide (lo ≤ k) && decide (k - lo < 7)) := by
    show (BitVec.ofNat 64 (0x7F <<< lo)).getLsbD k = _
    rw [BitVec.getLsbD_ofNat, Nat.testBit_shiftLeft, show 0x7F = 2 ^ 7 - 1 from rfl, Nat.testBit_two_pow_sub_one]
    simp [hk]
  generalize ((0x7F <<< lo : Nat) : W64) = c at hm
  simp only [setFmt, BitVec.getLsbD_or, BitVec.getLsbD_and, BitVec.getLsbD_not, BitVec.getLsbD_shiftLeft, getLsbD_fmtMask k hk, h7, hm, hk,
    decide_true, Bool.true_and]
  by_cases h : lo ≤ k ∧ k < lo + 7
  · obtain ⟨hlo, hhi⟩ := h
    have h3 : ¬ k < lo := by omega
    have h4 : k - lo < 7 := by omega
    have h5 : k < 31 ∧ k ≠ 15 := by omega
    simp [hlo, hhi, h3, h4, h5]
  · rw [if_neg h]
    by_cases h3 : k < lo
    · simp [h3]
    · have h4 : ¬ k - lo < 7 := by omega
      simp [h3, h4]

/-- `fmt` after SETPREC. -/
def precFmt (s : State) (a b : BitVec 6) : W64 :=
  let g := if a = 0 then s.cur else setFmt s.cur ((sreg s a &&& 0x7F) <<< 16) (0x7F <<< 16)
  (if b = 0 then g else setFmt g ((sreg s b &&& 0x7F) <<< 23) (0x7F <<< 23)).fmt

theorem exec_setprec (s : State) (a b : BitVec 6) :
    exec (.setprec a b) s = .next { s with cur := { s.cur with pc := s.cur.pc + 4, fmt := precFmt s a b } } := by
  show execSetprec a b s = _
  unfold execSetprec precFmt
  by_cases ha : a = 0 <;> by_cases hb : b = 0 <;> simp only [ha, hb, if_true, if_false] <;> rfl

/-- Bits 22:16 come from sa and bits 29:23 from sb, where they are named; the others stay. -/
theorem getLsbD_precFmt (s : State) (a b : BitVec 6) {k : Nat} (hk : k < 64) : (precFmt s a b).getLsbD k =
    if b ≠ 0 ∧ 23 ≤ k ∧ k < 30 then (sreg s b).getLsbD (k - 23)
    else if a ≠ 0 ∧ 16 ≤ k ∧ k < 23 then (sreg s a).getLsbD (k - 16) else s.cur.fmt.getLsbD k := by
  have ha (g : Group) (hg : g = if a = 0 then s.cur else setFmt s.cur ((sreg s a &&& 0x7F) <<< 16) (0x7F <<< 16)) :
      g.fmt.getLsbD k = if a ≠ 0 ∧ 16 ≤ k ∧ k < 23 then (sreg s a).getLsbD (k - 16) else s.cur.fmt.getLsbD k := by
    subst hg
    by_cases h : a = 0
    · simp [h]
    · simp only [h, if_false, ne_eq, not_false_eq_true, true_and]
      exact getLsbD_setFmt_field _ _ (by omega) (by omega) hk
  unfold precFmt
  dsimp only
  generalize hg : (if a = 0 then s.cur else setFmt s.cur ((sreg s a &&& 0x7F) <<< 16) (0x7F <<< 16)) = g
  by_cases h : b = 0
  · simp only [h, if_true, ne_eq, not_true_eq_false, false_and, if_false]
    exact ha g hg.symm
  · simp only [h, if_false, ne_eq, not_false_eq_true, true_and]
    rw [getLsbD_setFmt_field _ _ (by omega) (by omega) hk]
    by_cases h2 : 23 ≤ k ∧ k < 30
    · rw [if_pos h2, if_pos h2]
    · rw [if_neg h2, if_neg h2]
      exact ha g hg.symm

/-- A field of a word, bit by bit. -/
theorem extractLsb'_congr {x y : W64} {lo lo' n : Nat} (h : ∀ j < n, x.getLsbD (lo + j) = y.getLsbD (lo' + j)) :
    x.extractLsb' lo n = y.extractLsb' lo' n := by
  apply BitVec.eq_of_getLsbD_eq
  intro j hj
  simp [hj, h j hj]

theorem precFmt_fields (s : State) (a b : BitVec 6) :
    (precFmt s a b).extractLsb' 16 7 = (if a = 0 then s.cur.fmt.extractLsb' 16 7 else (sreg s a).extractLsb' 0 7) ∧
    (precFmt s a b).extractLsb' 23 7 = (if b = 0 then s.cur.fmt.extractLsb' 23 7 else (sreg s b).extractLsb' 0 7) ∧
    (precFmt s a b).extractLsb' 0 16 = s.cur.fmt.extractLsb' 0 16 ∧ (precFmt s a b).extractLsb' 30 34 = s.cur.fmt.extractLsb' 30 34 := by
  refine ⟨?_, ?_, extractLsb'_congr fun j hj => ?_, extractLsb'_congr fun j hj => ?_⟩
  · split
    · next ha =>
      refine extractLsb'_congr fun j hj => ?_
      rw [getLsbD_precFmt s a b (by omega), if_neg (by omega), if_neg (by simp [ha])]
    · next ha =>
      refine extractLsb'_congr fun j hj => ?_
      rw [getLsbD_precFmt s a b (by omega), if_neg (by omega), if_pos ⟨ha, by omega⟩, Nat.add_sub_cancel_left, Nat.zero_add]
  · split
    · next hb =>
      refine extractLsb'_congr fun j hj => ?_
      rw [getLsbD_precFmt s a b (by omega), if_neg (by simp [hb]), if_neg (by omega)]
    · next hb =>
      refine extractLsb'_congr fun j hj => ?_
      rw [getLsbD_precFmt s a b (by omega), if_pos ⟨hb, by omega⟩, Nat.add_sub_cancel_left, Nat.zero_add]
  · rw [getLsbD_precFmt s a b (by omega), if_neg (by omega), if_neg (by omega)]
  · rw [getLsbD_precFmt s a b (by omega), if_neg (by omega), if_neg (by omega)]

/-- Settles O5: the mask stack by R25's own step, the others each by its equation. -/
theorem maskStackAndPredicates : Obligations.MaskStackAndPredicates := by
  refine ⟨fun s i hi => ⟨fun m f st h => ?_, fun h => ?_⟩, fun s d a b n p slot lane m =>
    ⟨fun ⟨hq, hp⟩ => ?_, fun ⟨hq, hs, hp⟩ => ⟨fun s1 hf => ?_, fun c hf => ?_⟩, fun ⟨hs, hf⟩ => exec_wflag hs hf, fun h => ?_, ?_, rfl, ?_⟩⟩
  · rw [exec_mask hi, h]
    rfl
  · rw [exec_mask hi, h]
    rfl
  · exact ⟨_, exec_pmov d hq hp, scalarResult_retS s d _⟩
  · exact ⟨_, by rw [exec_vget d hq hs hp, hf], scalarResult_retS s1 d _⟩
  · rw [exec_vget d hq hs hp, hf]
  · have hc := (laneComplete_iff s.cur).2 h
    exact ⟨⟨_, exec_getstat d hc, scalarResult_retS s d _⟩, exec_clrstat a hc⟩
  · exact ⟨_, rfl, scalarResult_retS s d _⟩
  · exact ⟨precFmt s a b, exec_setprec s a b, precFmt_fields s a b⟩

end Sys2Proof.Machine
end

section
/-! The special registers (R43, R180, R181). -/
namespace Sys2Proof.Machine

open Sys2Proof.Claims

/-! ### Reading -/

/-- R43's numbers are those that name a register. -/
theorem specialGet_isSome (s : State) (n : Nat) : (specialGet s n).isSome = decide (n ∈ specialNumbers) := by
  by_cases h : n ∈ specialNumbers
  · simp only [h, decide_true]
    simp only [specialNumbers, List.range, List.range.loop, List.map_cons, List.map_nil, List.cons_append, List.nil_append,
      List.mem_cons, List.not_mem_nil, or_false] at h
    rcases h with h | h | h | h | h | h | h | h | h | h | h | h | h | h | h | h | h | h | h | h | h | h | h | h | h | h | h | h | h <;>
      subst h <;> rfl
  · simp only [h, decide_false]
    unfold specialGet
    split <;> simp [specialNumbers, List.range, List.range.loop] at h ⊢

theorem specialGet_eq_none_iff (s : State) (n : Nat) : specialGet s n = none ↔ n ∉ specialNumbers := by
  rw [← Option.isNone_iff_eq_none, ← Option.not_isSome, specialGet_isSome]
  simp

/-- A register that is not a bit field reads the part of the state that R43 gives it. -/
theorem specialGet_of_field {s : State} {n : Nat} {v : W64} (h : specialField s n = some v) : specialGet s n = some v := by
  unfold specialField at h
  split at h
  all_goals simp_all [specialGet]

theorem specialBit_tag (s : State) (i : Nat) : specialBit s 0x003 i = true ↔ ∃ st, nth s.crew.tags i .idle = .ready st := by
  simp only [specialBit, if_true]
  cases nth s.crew.tags i .idle <;> simp

theorem tagBits_eq (s : State) : tagBits s.crew =
    BitVec.ofNat 64 ((List.range s.crew.tags.length).foldl (fun acc t => if specialBit s 0x003 t then acc + 2 ^ t else acc) 0) := by
  unfold tagBits
  congr 2
  funext acc t
  simp only [specialBit, if_true]
  cases nth s.crew.tags t .idle <;> rfl

theorem getLsbD_tagBits {s : State} (hc : s.crew.tags.length ≤ 64) (i : Nat) : (tagBits s.crew).getLsbD i = specialBit s 0x003 i := by
  rw [tagBits_eq, BitVec.getLsbD_ofNat, (foldl_bits _ _).2]
  by_cases h : i < s.crew.tags.length
  · simp [h, Nat.lt_of_lt_of_le h hc]
  · have hn : specialBit s 0x003 i = false := by
      rw [← Bool.not_eq_true, specialBit_tag]
      simp [nth, List.getElem?_eq_none (Nat.not_lt.1 h)]
    simp [h, hn]

/-- `tagbits` and `flags` bit by bit. -/
theorem specialGet_bits {s : State} (hc : s.crew.tags.length ≤ 64) {n : Nat} (hn : n = 0x003 ∨ n = 0x004) :
    ∃ v, specialGet s n = some v ∧ ∀ i < 64, v.getLsbD i = specialBit s n i := by
  rcases hn with rfl | rfl
  · exact ⟨_, rfl, fun i _ => getLsbD_tagBits hc i⟩
  · refine ⟨_, rfl, fun i hi => ?_⟩
    rw [BitVec.getLsbD_setWidth, getLsbD_flagsWord]
    simp [specialBit, hi]

/-! ### MFS -/

theorem exec_mfs_none {s : State} {n : BitVec 13} (d : BitVec 6) (h : specialGet s n.toNat = none) :
    exec (.mfs d n) s = .next (scalarTrap s 0x01 (illegalTval (.mfs d n))) := by
  show execMfs d n s = _
  simp [execMfs, h, illegalScalar]

theorem exec_mts_none {s : State} {n : BitVec 13} (a : BitVec 6) (h : specialGet s n.toNat = none) :
    exec (.mts a n) s = .next (scalarTrap s 0x01 (illegalTval (.mts a n))) := by
  show execMts a n s = _
  simp [execMts, h, illegalScalar]

theorem exec_mfs_unprivileged {s : State} {n : BitVec 13} {v : W64} (d : BitVec 6) (h : specialGet s n.toNat = some v)
    (hn : 0x100 ≤ n.toNat) (hp : s.cur.priv = false) : exec (.mfs d n) s = .next (scalarTrap s 0x17 0) := by
  show execMfs d n s = _
  simp [execMfs, h, hn, hp]

theorem exec_mts_unprivileged {s : State} {n : BitVec 13} {v : W64} (a : BitVec 6) (h : specialGet s n.toNat = some v)
    (hn : 0x100 ≤ n.toNat) (hp : s.cur.priv = false) : exec (.mts a n) s = .next (scalarTrap s 0x17 0) := by
  show execMts a n s = _
  simp [execMts, h, hn, hp]

/-- A register may be accessed: it needs no privilege or the group has it, and `fstat` waits for no earlier clause. -/
def specialOpen (s : State) (n : BitVec 13) : Prop :=
  (n.toNat < 0x100 ∨ s.cur.priv = true) ∧ (n = 0x002 → s.cur.queue = [] ∧ ∀ o ∈ s.cur.outs, o.matrix = true)

theorem specialOpen_iff (s : State) (n : BitVec 13) : specialOpen s n ↔
    (n.toNat ≥ 0x100 && !s.cur.priv) = false ∧ (n = 0x002 && !laneComplete s.cur) = false := by
  have hc := laneComplete_iff s.cur
  simp only [specialOpen, ← hc, Bool.and_eq_false_imp, decide_eq_true_eq, Bool.not_eq_false', ge_iff_le]
  exact and_congr_left' ⟨fun h hn => h.resolve_left (Nat.not_lt.2 hn), fun h => (Nat.lt_or_ge _ _).imp_right h⟩

theorem exec_mfs {s : State} {n : BitVec 13} {v : W64} (d : BitVec 6) (h : specialGet s n.toNat = some v) (ho : specialOpen s n) :
    exec (.mfs d n) s = .next (retS s d v) := by
  obtain ⟨hp, hw⟩ := (specialOpen_iff s n).1 ho
  show execMfs d n s = _
  simp only [execMfs, h, hp, hw, Bool.false_eq_true, if_false]

theorem exec_mts {s : State} {n : BitVec 13} {v : W64} (a : BitVec 6) (h : specialGet s n.toNat = some v) (ho : specialOpen s n)
    (h1 : n ≠ 0x030) (h2 : n ≠ 0x040) : exec (.mts a n) s = .next (modCur (advance s) fun g => specialSet g n.toNat (sreg s a)) := by
  obtain ⟨hp, hw⟩ := (specialOpen_iff s n).1 ho
  show execMts a n s = _
  simp only [execMts, h, hp, hw, h1, h2, Bool.false_eq_true, if_false]

/-! ### MTS -/

/-- The state after MTS of a register written at once. -/
def specialWritten (s : State) (n : Nat) (x : W64) : State := modCur (advance s) fun g => specialSet g n x

/-- MTS changes at most the registers it can write, and goes on. -/
theorem specialWritten_rest (s : State) (n : Nat) (x : W64) :
    (specialWritten s n x).cur.pc = s.cur.pc + 4 ∧ (specialWritten s n x).cur.sregs = s.cur.sregs ∧
    ({ specialWritten s n x with cur := { (specialWritten s n x).cur with
        pc := s.cur.pc, fmt := s.cur.fmt, fstat := s.cur.fstat, lcb := s.cur.lcb, tsave := s.cur.tsave, tpc := s.cur.tpc,
        tvec := s.cur.tvec, asid := s.cur.asid, ptbase := s.cur.ptbase } } : State) = s := by
  unfold specialWritten
  rw [modCur, advance_cur]
  unfold specialSet
  split <;> exact ⟨rfl, rfl, rfl⟩

/-- A register other than the one written keeps its value. -/
theorem specialGet_specialWritten_other (s : State) {n k : Nat} (x : W64) (h : k ≠ n) :
    specialGet (specialWritten s n x) k = specialGet s k := by
  unfold specialWritten
  rw [modCur, advance_cur]
  unfold specialSet
  split
  all_goals
    unfold specialGet
    split <;> try rfl
    all_goals exact absurd rfl h

/-- The register written reads as R43's fields keep it; a read-only register keeps its value. -/
theorem specialGet_specialWritten_same {s : State} {n : BitVec 13} {v : W64} (x : W64) (h : specialGet s n.toNat = some v) :
    specialGet (specialWritten s n.toNat x) n.toNat = some (writtenValue n v x) := by
  have hone : (-1 : W64) = BitVec.allOnes 64 := by decide
  unfold specialWritten writtenValue
  rw [modCur, advance_cur]
  generalize n.toNat = k at h ⊢
  unfold specialSet
  split
  · cases h
    show some ((s.cur.fmt &&& ~~~(-1 &&& fmtMask)) ||| (x &&& -1 &&& fmtMask)) = _
    rw [hone, BitVec.allOnes_and, BitVec.and_allOnes]
    rfl
  · exact congrArg some (setWidth_setWidth_64 7 x)
  · rfl
  · rfl
  · rfl
  · rfl
  · exact congrArg some (setWidth_setWidth_64 16 x)
  · rfl
  · split
    case h_9 => exact h
    all_goals contradiction

/-- Settles O6: MFS and MTS by their equations; what each number reads and MTS leaves by the register's own case. -/
theorem specialRegisters : Obligations.SpecialRegisters := by
  intro s d a n
  refine ⟨fun h => ⟨exec_mfs_none d h, exec_mts_none a h⟩, fun hn hp hw => ?_, (specialGet_eq_none_iff s _).2,
    fun v h => specialGet_of_field h, fun hc hn => specialGet_bits hc (by rcases hn with rfl | rfl <;> simp),
    fun v h ⟨hn, hp⟩ => ⟨exec_mfs_unprivileged d h hn hp, exec_mts_unprivileged a h hn hp⟩, fun v h hp h1 h2 hw => ?_⟩
  · have hs : (specialGet s n.toNat).isSome := by simpa [specialGet_isSome] using hn
    obtain ⟨v, hv⟩ := Option.isSome_iff_exists.1 hs
    exact ⟨_, v, exec_mfs d hv ⟨hp, hw⟩, hv, scalarResult_retS s d v⟩
  · obtain ⟨hpc, hregs, hrest⟩ := specialWritten_rest s n.toNat (sreg s a)
    refine ⟨specialWritten s n.toNat (sreg s a), exec_mts a h ⟨hp, hw⟩ h1 h2, hpc, fun r => ?_, specialGet_specialWritten_same _ h,
      fun k hk => specialGet_specialWritten_other s _ hk, fun x => rfl, hrest⟩
    show sget _ r = sget s.cur r
    unfold sget
    rw [hregs]

end Sys2Proof.Machine
end

section
/-! The byte barriers (R270 to R276). -/
namespace Sys2Proof.Machine

open Sys2Proof.Claims

/-- The bits of a word from one up are zero where the word is below that power of two. -/
theorem bitsOf_high_eq_zero_iff (x : W64) {lo : Nat} (hlo : lo ≤ 63) : bitsOf x 63 lo = 0 ↔ x.toNat < 2 ^ lo := by
  have hx : x.toNat / 2 ^ lo < 2 ^ (63 + 1 - lo) := by
    rw [Nat.div_lt_iff_lt_mul (Nat.two_pow_pos lo), ← Nat.pow_add, Nat.sub_add_cancel (by omega)]
    exact x.isLt
  rw [bitsOf, Nat.shiftRight_eq_div_pow, Nat.mod_eq_of_lt hx, Nat.div_eq_zero_iff]
  simp

theorem badBar_eq_false_iff (c : Crew) (t : Nat) : badBar c t = false ↔ liveBar c t := by
  simp [badBar, liveBar]

theorem badBar_eq_true_iff (c : Crew) (t : Nat) : badBar c t = true ↔ ¬ liveBar c t := by
  rw [← badBar_eq_false_iff, Bool.not_eq_false]

theorem statusTrap_eq (st : Byte) : statusTrap st = causeOf st := by
  unfold statusTrap causeOf
  by_cases h : st = 0 ∨ st = 7
  · rw [if_pos h, if_pos (by simpa using h)]
  · rw [if_neg h, if_neg (by simpa using h)]

theorem evalBar_eq (b : ByteBar) : evalBar b = evaluated b := by
  unfold evalBar evaluated
  simp only [Bool.and_eq_true, decide_eq_true_eq, gt_iff_lt]

theorem arriveBar_eq (n : Nat) (q : Bool) (st : Byte) (b : ByteBar) : arriveBar n q st b = arrived n q st b := by
  have hbit : b.phase.getLsbD 0 = phaseBit b := rfl
  have hfull (x : Nat) : decide (x ≥ 2 ^ 40) = decide (2 ^ 40 - 1 < x) := by
    rw [decide_eq_decide]
    omega
  simp only [arriveBar, arrived, hbit, evalBar_eq, hfull, statusTrap_eq, addBytes, decide_eq_true_eq, Bool.and_eq_true]

/-! ### What each instruction does -/

theorem exec_bbinit {s : State} {t : BitVec 6} (h : t.toNat < s.crew.bbs.length) :
    exec (.bbinit t) s = .next (advance (modCrew s (onBar t.toNat fun _ => { blankBar with inited := true }))) :=
  if_neg (Nat.not_le.2 h)

theorem exec_bbexp {s : State} {a t : BitVec 6} (hb : liveBar s.crew t.toNat) (ha : (sreg s a).toNat < 2 ^ 40) :
    exec (.bbexp a t) s = if (barAt s.crew t.toNat).posted = true then .next (scalarTrap s 0x10 (t.setWidth 64))
      else .next (advance (modCrew s (onBar t.toNat fun b => evalBar { b with expect := (sreg s a).toNat, posted := true }))) := by
  show execBbexp a t s = _
  simp only [execBbexp, (badBar_eq_false_iff _ _).2 hb, (bitsOf_high_eq_zero_iff (sreg s a) (by omega)).2 ha]
  rfl

theorem phasePassed_iff (b : ByteBar) (k : BitVec 16) :
    phasePassed b k = true ↔ 1 ≤ (b.phase - k).toNat ∧ (b.phase - k).toNat ≤ 32767 := by
  simp only [phasePassed, Bool.and_eq_true, decide_eq_true_eq]

theorem exec_bbwait {s : State} {d a t : BitVec 6} (hb : liveBar s.crew t.toNat) (ha : (sreg s a).toNat < 2 ^ 16) :
    exec (.bbwait d a t) s =
      if phasePassed (barAt s.crew t.toNat) ((sreg s a).setWidth 16) = true then
        match statusTrap (barAt s.crew t.toNat).status with
        | some c => .next (scalarTrap s c (BitVec.ofNat 64 ((barAt s.crew t.toNat).status.toNat * 256 + t.toNat)))
        | none => .next (retS s d ((barAt s.crew t.toNat).phase.setWidth 64))
      else if (barAt s.crew t.toNat).overrun = true then .next (scalarTrap s 0x10 (t.setWidth 64)) else .next s := by
  show execBbwait d a t s = _
  simp only [execBbwait, (badBar_eq_false_iff _ _).2 hb, (bitsOf_high_eq_zero_iff (sreg s a) (by omega)).2 ha]
  rfl

theorem exec_bbarv {s : State} {a b t : BitVec 6} (hb : liveBar s.crew t.toNat) (ha : (sreg s a).toNat < 2 ^ 40)
    (hsel : (sreg s b).toNat < 2) (hq : s.cur.queue = []) (hd : storesDone s 2 = true) :
    exec (.bbarv a b t) s = .next (advance (modCrew s (onBar t.toNat fun x =>
      arriveBar (sreg s a).toNat (phaseBit x != bitAt (sreg s b) 0) 0 x))) := by
  show execBbarv a b t s = _
  simp only [execBbarv, (badBar_eq_false_iff _ _).2 hb, (bitsOf_high_eq_zero_iff (sreg s a) (by omega)).2 ha,
    (bitsOf_high_eq_zero_iff (sreg s b) (lo := 1) (by omega)).2 (by simpa using hsel), (laneEnded_iff s.cur).2 hq, hd]
  rfl

/-- A barrier changed by an instruction that goes on. -/
theorem barReplaced_advance (s : State) (t : Nat) (f : ByteBar → ByteBar) :
    barReplaced s (advance (modCrew s (onBar t f))) t (f (barAt s.crew t)) := rfl

/-- An instruction that names a barrier beyond the allocation, or one before its first BBINIT, traps with its number. -/
theorem exec_badBar {s : State} (d a b : BitVec 6) {t : BitVec 6} (h : ¬ liveBar s.crew t.toNat) :
    exec (.bbexp a t) s = .next (scalarTrap s 0x01 (t.setWidth 64)) ∧ exec (.bbwait d a t) s = .next (scalarTrap s 0x01 (t.setWidth 64)) ∧
    exec (.bbarv a b t) s = .next (scalarTrap s 0x01 (t.setWidth 64)) := by
  have hb := (badBar_eq_true_iff _ _).2 h
  exact ⟨if_pos hb, if_pos hb, if_pos hb⟩

/-- Settles O17: each instruction by its equation, the model's `evalBar` and `arriveBar` being the pseudocode of R271. -/
theorem byteBarriers : Obligations.ByteBarriers := by
  refine ⟨fun s d a b t => ⟨fun ht => ⟨_, exec_bbinit ht, rfl⟩, fun hb => ⟨fun ⟨ha, hp⟩ => ?_, fun ⟨ha, hp⟩ => ?_, fun ha x hx => ?_,
    fun ⟨ha, hsel, hq, hd⟩ => ?_⟩⟩, fun s d a b t h => ?_⟩
  · refine ⟨_, by rw [exec_bbexp hb ha, hp]; rfl, ?_⟩
    rw [← evalBar_eq]
    exact barReplaced_advance s t.toNat _
  · rw [exec_bbexp hb ha, if_pos hp]
  · have hpass := phasePassed_iff (barAt s.crew t.toNat) ((sreg s a).setWidth 16)
    rw [← hx] at hpass
    rw [exec_bbwait hb ha, ← statusTrap_eq]
    refine ⟨fun hr hc => ?_, fun hr c hc => ?_, fun hr ho => ?_, fun hr ho => ?_⟩
    · rw [if_pos (hpass.2 hr), hc]
      exact ⟨_, rfl, scalarResult_retS s d _⟩
    · rw [if_pos (hpass.2 hr), hc]
    · rw [if_neg (mt hpass.1 hr), if_pos ho]
    · rw [if_neg (mt hpass.1 hr), ho]
      rfl
  · refine ⟨_, exec_bbarv hb ha hsel hq hd, ?_⟩
    rw [← arriveBar_eq]
    exact barReplaced_advance s t.toNat _
  · obtain ⟨h1, h2, h3⟩ := exec_badBar d a b h
    exact ⟨h1, h2, h3, fun ht => if_pos ht⟩

end Sys2Proof.Machine
end

section
/-! What an LA or LI instruction may change: its results lie in its destinations, in acting lanes (R19 to R34, R192). -/
namespace Sys2Proof.Machine

open Sys2Proof.Claims

/-! ### Acting lanes -/

theorem mem_lanesOf {m : W32} {l : Nat} : l ∈ lanesOf m ↔ l < 32 ∧ m.getLsbD l = true := by simp [lanesOf]

theorem lt_of_mem_actLanes {v : LaneEnv} {l : Nat} (h : l ∈ actLanes v) : l < 32 := (mem_lanesOf.1 h).1

theorem mem_actLanes_of_active {v : LaneEnv} {l : Nat} (h : l ∈ lanesOf v.active) : l ∈ actLanes v := by
  rw [mem_lanesOf] at h
  rw [actLanes, mem_lanesOf]
  simp [h.1, h.2]

/-! ### The destinations of an instruction -/

/-- What an instruction's destination of n slots names in a lane is among the keys it writes. -/
def WritesSlots (p : LaneParts) (n : Nat) : Prop :=
  ∀ (g : Group) (lanes : List Nat) (l key : Nat), l ∈ lanes → key ∈ opndKeys g p.d n l → key ∈ destKeys g lanes p.ps

/-- A position that writes n slots of the destination. -/
theorem writesSlots_of_mem {p : LaneParts} {k : Nat} {u : Use} (h : (k, u, p.d) ∈ p.ps) (hu : useWrites u = true) :
    WritesSlots p (useSlots u) := by
  intro g lanes l key hl hk
  refine List.mem_flatMap.2 ⟨_, h, ?_⟩
  rw [if_pos hu]
  exact List.mem_flatMap.2 ⟨l, hl, hk⟩

/-- A predicate names no lane register. -/
theorem writesSlots_pred {p : LaneParts} {neg : Bool} {k : BitVec 3} (h : p.d = .p neg k) (n : Nat) : WritesSlots p n := by
  intro g lanes l key _ hk
  simp [h, opndKeys, mainSlot] at hk

theorem writesSlots_la {x : LaForm} {sh : Shape} {n : Nat} (h : sh.d = .dst n) : WritesSlots (ofLa x sh) n := by
  have hm : (0, Use.dst n, (ofLa x sh).d) ∈ (ofLa x sh).ps := by simp [ofLa, h]
  exact writesSlots_of_mem hm rfl

theorem writesSlots_li {x : LiForm} {sh : Shape} {n : Nat} (h : sh.d = .dst n) : WritesSlots (ofLi x sh) n := by
  have hm : (0, liDst (.dst n) sh.c, (ofLi x sh).d) ∈ (ofLi x sh).ps := by simp [ofLi, h]
  have hw : useWrites (liDst (.dst n) sh.c) = true ∧ useSlots (liDst (.dst n) sh.c) = n := by cases sh.c <;> exact ⟨rfl, rfl⟩
  have := writesSlots_of_mem hm hw.1
  rwa [hw.2] at this

/-- A compare's destination is a predicate or a register of n slots. -/
theorem cmpDst_cases (d : Opnd) (n : Nat) : (∃ neg k, d = .p neg k) ∨ cmpDst d n = .dst n := by
  cases d <;> simp [cmpDst]

theorem writesSlots_la_cmp {x : LaForm} {sh : Shape} {n : Nat} (h : sh.d = cmpDst x.d n) : WritesSlots (ofLa x sh) n := by
  rcases cmpDst_cases x.d n with ⟨neg, k, hd⟩ | hd
  · exact writesSlots_pred hd n
  · exact writesSlots_la (h.trans hd)

theorem writesSlots_li_cmp {x : LiForm} {sh : Shape} {n : Nat} (h : sh.d = cmpDst x.d n) : WritesSlots (ofLi x sh) n := by
  rcases cmpDst_cases x.d n with ⟨neg, k, hd⟩ | hd
  · exact writesSlots_pred hd n
  · exact writesSlots_li (h.trans hd)

/-! ### Results within the destinations -/

/-- The results of an instruction lie in its destinations in acting lanes: lane registers, the predicate destination, index registers for
IXSET alone, random words and y registers. -/
structure ResWithin (g : Group) (v : LaneEnv) (i : Instr) (p : LaneParts) (r : LaneRes) : Prop where
  regs : ∀ q ∈ r.regs, q.1 ∈ destKeys g (actLanes v) p.ps
  preds : ∀ q ∈ r.preds, (∃ n m, p.d = .p n m ∧ m.toNat = q.1) ∧ q.2.1 ∈ actLanes v
  ixs : ∀ q ∈ r.ixs, (∃ x, i = .ixset x) ∧ q.1 / 4 ∈ actLanes v
  rnd : ∀ q ∈ r.rnd, q.1 ∈ actLanes v
  single : ∀ q ∈ r.single, q.1 ∈ actLanes v

section
variable {g : Group} {v : LaneEnv} {i : Instr} {p : LaneParts} {l : Nat}

theorem ResWithin.empty (st : Nat) : ResWithin g v i p { stat := st } := by constructor <;> simp

theorem ResWithin.join {a b : LaneRes} (ha : ResWithin g v i p a) (hb : ResWithin g v i p b) : ResWithin g v i p (a.join b) := by
  constructor
  · exact List.forall_mem_append.2 ⟨ha.regs, hb.regs⟩
  · exact List.forall_mem_append.2 ⟨ha.preds, hb.preds⟩
  · exact List.forall_mem_append.2 ⟨ha.ixs, hb.ixs⟩
  · exact List.forall_mem_append.2 ⟨ha.rnd, hb.rnd⟩
  · exact List.forall_mem_append.2 ⟨ha.single, hb.single⟩

theorem ResWithin.joinRes {rs : List LaneRes} (h : ∀ r ∈ rs, ResWithin g v i p r) : ResWithin g v i p (joinRes rs) := by
  have hfold : ∀ (rs : List LaneRes) (a : LaneRes), ResWithin g v i p a → (∀ r ∈ rs, ResWithin g v i p r) →
      ResWithin g v i p (rs.foldl LaneRes.join a) := by
    intro rs
    induction rs with
    | nil => exact fun a ha _ => ha
    | cons r rs ih => exact fun a ha hr => ih _ (ha.join (hr r List.mem_cons_self)) fun q hq => hr q (List.mem_cons_of_mem _ hq)
  exact hfold rs {} (.empty 0) h

theorem ResWithin.rndOne (hl : l ∈ actLanes v) (r : BitVec 16) : ResWithin g v i p { rnd := [(l, r)] } := by
  constructor <;> simp [hl]

theorem ResWithin.statOf (st : Nat) : ResWithin g v i p (statOf v l st) := .empty _

theorem ResWithin.putSlots {n val : Nat} (hw : WritesSlots p n) (hl : l ∈ actLanes v) : ResWithin g v i p (putSlots g p.d n l val) := by
  constructor
  · intro q hq
    exact hw g _ l q.1 hl (List.of_mem_zip hq).1
  · simp [Machine.putSlots]
  · simp [Machine.putSlots]
  · simp [Machine.putSlots]
  · intro q hq
    simp only [Machine.putSlots] at hq
    split at hq
    · rw [List.mem_singleton.1 hq]
      exact hl
    · cases hq

/-- A test's result stands in the predicate or the one slot it names. -/
theorem ResWithin.putTest {w : Nat} {b : Bool} (hw : WritesSlots p 1) (hl : l ∈ actLanes v) : ResWithin g v i p (putTest g p.d 1 w l b) := by
  unfold Machine.putTest
  split
  · next neg k hd => constructor <;> simp [hl, hd]
  · exact .putSlots hw hl

end

/-! ### The slots of a type -/

/-- Only a variable-precision type and a 64-bit integer take more than one slot. -/
theorem slotsOf_eq_one {f : W64} {t : Ty} (hv : tyIsVpf t = false) (hi : tyIsInt t = false) : slotsOf f t = 1 := by
  cases t <;> simp_all [slotsOf, tyIsVpf, tyIsInt, tyWidth]

theorem tyIsVpf_of_float {t : Ty} (h : tyIsFloat t = true) : tyIsVpf t = false ∧ tyIsInt t = false := by
  cases t <;> simp_all [tyIsFloat, tyIsVpf, tyIsInt]

theorem bitsOf_noFlushOut (v : LaneEnv) {hi lo : Nat} (h : 6 < lo) (h' : hi < 64) :
    bitsOf (noFlushOut v).e.fmt hi lo = bitsOf v.e.fmt hi lo := by
  have hm : ∀ k < 64, (~~~(0x40 : W64)).getLsbD k = decide (k ≠ 6) := by decide
  apply Nat.eq_of_testBit_eq
  intro k
  rw [testBit_bitsOf, testBit_bitsOf]
  by_cases hk : k < hi + 1 - lo
  · have hb := hm (lo + k) (by omega)
    have h6 : lo + k ≠ 6 := by omega
    simp only [noFlushOut, BitVec.getLsbD_and, hb, h6, ne_eq, not_false_eq_true, decide_true, Bool.and_true]
  · simp [hk]

/-- Output flushing plays no part in the window lengths (R31, R219). -/
theorem slotsOf_noFlushOut (v : LaneEnv) (t : Ty) : slotsOf (noFlushOut v).e.fmt t = slotsOf v.e.fmt t := by
  have hp : vpfPrec (noFlushOut v).e.fmt t = vpfPrec v.e.fmt t := by
    unfold vpfPrec fmtCprec fmtWprec
    rw [bitsOf_noFlushOut v (by omega) (by omega), bitsOf_noFlushOut v (by omega) (by omega)]
  rw [slotsOf, hp, slotsOf]

/-! ### The lane functions -/

section
variable {s : State} {v : LaneEnv} {i : Instr} {p : LaneParts} {l : Nat} {x : Srcs} (hd : x.d = p.d) (hl : l ∈ actLanes v)
include hd hl

theorem icmpLane_within (hw : WritesSlots p (slotsOf v.e.fmt x.ty)) : ResWithin s.cur v i p (icmpLane x v s l) := by
  unfold icmpLane
  dsimp only
  split
  · next neg k hp => constructor <;> simp [hl, ← hd, hp]
  · rw [hd]
    exact .putSlots hw hl

theorem roundedElems_within (f : Nat → BitVec 16 → Nat × Nat) (hw : WritesSlots p 1) :
    ResWithin s.cur v i p (roundedElems x v s l f) := by
  unfold roundedElems
  dsimp only
  rw [hd]
  exact ((ResWithin.putSlots hw hl).join (.statOf _)).join (.rndOne hl _)

theorem minmaxLane_within (greater : Bool) (hw : WritesSlots p 1) : ResWithin s.cur v i p (minmaxLane greater x v s l) := by
  unfold minmaxLane
  dsimp only
  rw [hd]
  exact (ResWithin.putSlots hw hl).join (.statOf _)

theorem fcmpLane_within (hw : WritesSlots p 1) : ResWithin s.cur v i p (fcmpLane x v s l) := by
  unfold fcmpLane
  dsimp only
  rw [hd]
  exact (ResWithin.putTest hw hl).join (.statOf _)

theorem fclassLane_within (hw : WritesSlots p 1) : ResWithin s.cur v i p (fclassLane x v s l) := by
  unfold fclassLane
  dsimp only
  rw [hd]
  split
  · exact .putTest hw hl
  · exact .putSlots hw hl

omit hd in
theorem putCode_within {t : Ty} (code : Nat) (hw : WritesSlots p (slotsOf v.e.fmt t)) (ht : tyIsInt t = false) :
    ResWithin s.cur v i p (putCode s v p.d t l code) := by
  unfold putCode
  by_cases hv : tyIsVpf t = true
  · rw [if_pos hv]
    exact .putSlots hw hl
  · rw [if_neg hv]
    rw [slotsOf_eq_one (Bool.eq_false_iff.2 hv) ht] at hw
    exact .putSlots hw hl

theorem cvtLane_within (hw : WritesSlots p (slotsOf v.e.fmt x.ty)) : ResWithin s.cur v i p (cvtLane x v s l) := by
  unfold cvtLane
  dsimp only
  rw [hd]
  split
  · exact .putSlots hw hl
  · split
    · exact ((ResWithin.putSlots hw hl).join (.statOf _)).join (.rndOne hl _)
    · next ht => exact ((putCode_within hl _ hw (Bool.eq_false_iff.2 ht)).join (.statOf _)).join (.rndOne hl _)

theorem unpackLane_within (hw : WritesSlots p (tyCount ((extTy x.ext).getD .bf16x2))) : ResWithin s.cur v i p (unpackLane x v s l) := by
  unfold unpackLane
  dsimp only
  rw [hd]
  refine ((ResWithin.putSlots hw hl).join (.statOf _)).join ?_
  split
  · exact .rndOne hl _
  · exact .empty 0

theorem scalexLane_within (hw : WritesSlots p 1) : ResWithin s.cur v i p (scalexLane x v s l) := by
  unfold scalexLane
  dsimp only
  rw [hd]
  exact (ResWithin.putSlots hw hl).join (.statOf _)

theorem vpfRound_within (n : Num × Nat) (hw : WritesSlots p (slotsOf v.e.fmt x.ty)) (ht : tyIsInt x.ty = false) :
    ResWithin s.cur v i p (vpfRound x v s l n) := by
  unfold vpfRound
  dsimp only
  rw [hd]
  exact ((putCode_within hl _ hw ht).join (.statOf _)).join (.rndOne hl _)

/-- The environment without output flushing has the same acting lanes. -/
theorem vpfRound_noFlushOut_within (n : Num × Nat) (hw : WritesSlots p (slotsOf v.e.fmt x.ty)) (ht : tyIsInt x.ty = false) :
    ResWithin s.cur v i p (vpfRound x (noFlushOut v) s l n) := by
  have h : ResWithin s.cur (noFlushOut v) i p (vpfRound x (noFlushOut v) s l n) :=
    vpfRound_within (v := noFlushOut v) hd hl n (by rwa [slotsOf_noFlushOut]) ht
  exact ⟨h.regs, h.preds, h.ixs, h.rnd, h.single⟩

theorem exactLane_within (mul : Bool) (hw : WritesSlots p (slotsOf v.e.fmt x.ty)) (ht : tyIsInt x.ty = false) :
    ResWithin s.cur v i p (exactLane mul x v s l) := by
  unfold exactLane
  dsimp only
  split
  · exact vpfRound_noFlushOut_within hd hl _ hw ht
  · exact (vpfRound_within hd hl _ hw ht).join (.statOf _)

theorem xrndLane_within (hw : WritesSlots p (slotsOf v.e.fmt x.ty)) (ht : tyIsInt x.ty = false) :
    ResWithin s.cur v i p (xrndLane x v s l) := by
  unfold xrndLane
  dsimp only
  rw [hd]
  exact ((putCode_within hl _ hw ht).join (.statOf _)).join (.rndOne hl _)

theorem xerrLane_within (hw : WritesSlots p (slotsOf v.e.fmt x.ty)) (ht : tyIsInt x.ty = false) :
    ResWithin s.cur v i p (xerrLane x v s l) := by
  unfold xerrLane
  dsimp only
  rw [hd]
  exact ((putCode_within hl _ hw ht).join (.statOf _)).join (.rndOne hl _)

theorem pollLane_within (hw : WritesSlots p 1) : ResWithin s.cur v i p (pollLane x v s l) := by
  unfold pollLane
  dsimp only
  rw [hd]
  split
  · exact .empty 0
  · split
    · exact .putTest hw hl
    · exact .putTest hw hl
    · exact .putSlots hw hl
    · exact .putTest hw hl

omit hd in
theorem ixsetLane_within (x : LaForm) (y : Srcs) : ResWithin s.cur v (.ixset x) p (ixsetLane y v s l) := by
  have hk : (y.md.extractLsb' 0 2).toNat < 4 := (y.md.extractLsb' 0 2).isLt
  have h4 : (l * 4 + (y.md.extractLsb' 0 2).toNat) / 4 = l := by omega
  refine ⟨by simp [ixsetLane], by simp [ixsetLane], fun q hq => ?_, by simp [ixsetLane], by simp [ixsetLane]⟩
  rw [List.mem_singleton.1 hq]
  exact ⟨⟨x, rfl⟩, h4.symm ▸ hl⟩

end

end Sys2Proof.Machine
end

section
/-! How each LA and LI instruction runs: its frame, and a result that lies in its destinations (R19 to R34, R192). -/
namespace Sys2Proof.Machine

open Sys2Proof.Claims

/-! ### Legal forms -/

/-- A legal LA form has an assigned shape and a destination of its shape's use. -/
theorem laOk_shape {f : W64} {x : LaForm} {second : Bool} {sh : Shape} (h : laOk f x second sh = true) :
    sh.ok = true ∧ useOk sh.d x.d = true := by
  simp only [laOk, Bool.and_eq_true] at h
  obtain ⟨⟨⟨⟨⟨⟨⟨⟨-, hok⟩, hd⟩, -⟩, -⟩, -⟩, -⟩, -⟩, -⟩ := h
  exact ⟨hok, hd⟩

theorem liOk_shape {f : W64} {x : LiForm} {raw : Bool} {sh : Shape} (h : liOk f x raw sh = true) : sh.ok = true := by
  simp only [liOk, Bool.and_eq_true] at h
  obtain ⟨⟨⟨⟨⟨⟨⟨-, hok⟩, -⟩, -⟩, -⟩, -⟩, -⟩, -⟩ := h
  exact hok

/-- A predicate destination that is legal is a predicate. -/
theorem exists_of_useOk_pdst {d : Opnd} (h : useOk .pdst d = true) : ∃ neg k, d = .p neg k := by
  cases d <;> simp_all [useOk]

/-! ### The run of an instruction -/

/-- An instruction runs in the frame of its parts, and, where it is legal and does not exhaust its precision, commits a result that lies
in its destinations. -/
def LaneRun (s : State) (i : Instr) (p : LaneParts) : Prop :=
  ∃ body, exec i s = .next (withLane (firstGranules i p) i p.pr p.ps body s) ∧
    ∀ v s0 s1, v.e.fmt = clauseFmt s → legalAt (clauseFmt s) i = true → fillGranules s0 (secondGranules i p s0 v) = .ok s1 →
      exhausts s1 v i = false → ∃ r, body v s0 = commitLane s1 r p.yw ∧ ResWithin s1.cur v i p r

/-- An instruction that gives each acting lane a result of its own. -/
theorem laneRun_perLane {s : State} {i : Instr} {p : LaneParts} {f : LaneEnv → State → Nat → LaneRes}
    (he : exec i s = .next (withLane (firstGranules i p) i p.pr p.ps (perLane p.yw f) s))
    (h2 : ∀ t v, secondGranules i p t v = [])
    (hf : ∀ v t l, v.e.fmt = clauseFmt s → legalAt (clauseFmt s) i = true → l ∈ actLanes v → ResWithin t.cur v i p (f v t l)) :
    LaneRun s i p := by
  refine ⟨_, he, fun v s0 s1 hv hleg hs _ => ?_⟩
  rw [h2] at hs
  cases hs
  exact ⟨_, rfl, .joinRes (List.forall_mem_map.2 fun l hl => hf v s0 l hv hleg hl)⟩

section
variable {f : W64} {v : LaneEnv} {x : LaForm} {y : LiForm} {sh : Shape} {t : Ty} (hv : v.e.fmt = f)
include hv

theorem writesSlots_la_ty (h : sh.d = .dst (slotsOf f t)) : WritesSlots (ofLa x sh) (slotsOf v.e.fmt t) :=
  hv ▸ writesSlots_la h

theorem writesSlots_li_ty (h : sh.d = .dst (slotsOf f t)) : WritesSlots (ofLi y sh) (slotsOf v.e.fmt t) :=
  hv ▸ writesSlots_li h

end

/-- The destination of a float compare takes one slot. -/
theorem writesSlots_fcmp {f : W64} {x : LaForm} {ext : BitVec 14}
    (h : (shCmp f (tyIsFloat x.ty) 8 false x.d x.ty x.md ext).ok = true) :
    WritesSlots (ofLa x (shCmp f (tyIsFloat x.ty) 8 false x.d x.ty x.md ext)) 1 := by
  have ht : tyIsFloat x.ty = true := by
    by_contra hn
    simp [shCmp, hn] at h
  obtain ⟨hv, hi⟩ := tyIsVpf_of_float ht
  have hw := writesSlots_la_cmp (x := x) (sh := shCmp f (tyIsFloat x.ty) 8 false x.d x.ty x.md ext) rfl
  simpa [slotsOf_eq_one hv hi] using hw

theorem writesSlots_fcmpLi {f : W64} {x : LiForm} (h : (shCmp f (tyIsFloat x.ty) 8 false x.d x.ty x.md 0).ok = true) :
    WritesSlots (ofLi x (shCmp f (tyIsFloat x.ty) 8 false x.d x.ty x.md 0)) 1 := by
  have ht : tyIsFloat x.ty = true := by
    by_contra hn
    simp [shCmp, hn] at h
  obtain ⟨hv, hi⟩ := tyIsVpf_of_float ht
  have hw := writesSlots_li_cmp (x := x) (sh := shCmp f (tyIsFloat x.ty) 8 false x.d x.ty x.md 0) rfl
  simpa [slotsOf_eq_one hv hi] using hw

/-- The destination of CVT takes the slots of its type. -/
theorem writesSlots_cvt {f : W64} {x : LaForm} (h : (shCvt f x.ty x.md x.ext).ok = true) :
    WritesSlots (ofLa x (shCvt f x.ty x.md x.ext)) (slotsOf f x.ty) := by
  apply writesSlots_la
  unfold shCvt at h ⊢
  split
  · next hn => simp [hn] at h
  · rfl

theorem writesSlots_xcvt {f : W64} {x : LaForm} (h : (shXcvt f x.ty x.md x.ext).ok = true) :
    WritesSlots (ofLa x (shXcvt f x.ty x.md x.ext)) (slotsOf f x.ty) := by
  apply writesSlots_la
  unfold shXcvt at h ⊢
  split
  · next hn => simp [hn] at h
  · rfl

theorem writesSlots_unpack {x : LaForm} (h : (shUnpack x.ty x.md x.ext).ok = true) :
    WritesSlots (ofLa x (shUnpack x.ty x.md x.ext)) (tyCount ((extTy x.ext).getD .bf16x2)) := by
  apply writesSlots_la
  unfold shUnpack at h ⊢
  split
  · next hn => simp [hn] at h
  · next ts hs => simp [hs]

/-- A variable-precision operation writes the slots of its type, which is no integer type. -/
theorem writesSlots_vpf {f : W64} {third exact two byteOk : Bool} {mask : BitVec 10} {x : LaForm}
    (h : (shVpf f third exact x.md mask x.ty x.ext two byteOk).ok = true) :
    WritesSlots (ofLa x (shVpf f third exact x.md mask x.ty x.ext two byteOk)) (slotsOf f x.ty) ∧ tyIsInt x.ty = false := by
  cases hs : extTy x.ext with
  | none => simp [shVpf, hs] at h
  | some ts =>
    have hd : (shVpf f third exact x.md mask x.ty x.ext two byteOk).d = .dst (slotsOf f x.ty) := by simp [shVpf, hs]
    refine ⟨writesSlots_la hd, ?_⟩
    have hv : tyIsVpf x.ty = true := by
      by_contra hn
      simp [shVpf, hs, hn] at h
    cases ht : x.ty <;> simp_all [tyIsVpf, tyIsInt]

/-- PPOLL writes a predicate, or one slot. -/
theorem writesSlots_ppoll {x : LaForm} (h : useOk (shPpoll x.d x.ty x.md x.ext).d x.d = true) :
    WritesSlots (ofLa x (shPpoll x.d x.ty x.md x.ext)) 1 := by
  by_cases hm : x.md.extractLsb' 0 2 = 2
  · exact writesSlots_la (by simp [shPpoll, hm])
  · have hd : (shPpoll x.d x.ty x.md x.ext).d = .pdst := if_neg hm
    rw [hd] at h
    obtain ⟨neg, k, hk⟩ := exists_of_useOk_pdst h
    exact writesSlots_pred hk 1

/-- PFN3 writes a predicate. -/
theorem writesSlots_pfn3 {x : LaForm} (h : useOk (shPfn3 x.ty x.md x.ext).d x.d = true) :
    WritesSlots (ofLa x (shPfn3 x.ty x.md x.ext)) 1 := by
  obtain ⟨neg, k, hk⟩ := exists_of_useOk_pdst h
  exact writesSlots_pred hk 1

/-! ### Instructions with a body of their own -/

/-- XADDE and XMULE whose precision is not exhausted give each acting lane its result (R71). -/
theorem exactBody_eq {mul : Bool} {x : LaForm} {v : LaneEnv} {s : State}
    (h : (fmtPxt v.e.fmt && (actLanes v).any fun l => !exactFits (fmtOf v.e.fmt x.ty) (exactOf mul (srcsLa x) v s l).1) = false) :
    exactBody mul (srcsLa x) v s = perLane x.yw (exactLane mul (srcsLa x)) v s :=
  if_neg (Bool.not_eq_true _ ▸ h)

/-- Each acting lane receives operand a of another lane, once the granules of those lanes are filled (R213). -/
theorem permBody_within {i : Instr} {x : LaForm} {sh : Shape} {src : LaneEnv → State → Nat → Nat} {v : LaneEnv} {s0 s1 : State}
    (hw : WritesSlots (ofLa x sh) (slotsOf v.e.fmt x.ty))
    (hs : fillGranules s0 (neededGranules s0.cur ((actLanes v).map (src v s0)) [(1, .src (slotsOf v.e.fmt x.ty) (some x.ty), x.a)]) = .ok s1) :
    ∃ r, permBody (srcsLa x) src v s0 = commitLane s1 r x.yw ∧ ResWithin s1.cur v i (ofLa x sh) r := by
  refine ⟨joinRes ((actLanes v).map fun l => putTy s1.cur x.d x.ty (slotsOf v.e.fmt x.ty) l (readOther s1 v (srcsLa x) (src v s1 l))), ?_,
    .joinRes (List.forall_mem_map.2 fun l hl => .putSlots hw hl)⟩
  have hs' : fillGranules s0 (neededGranules s0.cur ((actLanes v).map (src v s0))
    [(1, .src (slotsOf v.e.fmt (srcsLa x).ty) (some (srcsLa x).ty), (srcsLa x).a)]) = .ok s1 := hs
  unfold permBody
  dsimp only
  rw [hs']
  rfl

/-- QXCH's partner is a lane of the same quad (R215). -/
theorem qxch_source (m : Nat) (hm : m < 3) : ∀ l < 32, l ^^^ (m + 1) = 4 * (l / 4) + Nat.xor (l % 4) (m + 1) := by
  interval_cases m <;> decide

/-- QXCH's code is below 3 (R215). -/
theorem qxch_code {f : W64} {x : LaForm} (h : (shQuad f 3 x.ty x.md x.ext).ok = true) : (x.md.extractLsb' 0 2).toNat < 3 := by
  simp only [shQuad, Bool.and_eq_true, decide_eq_true_eq] at h
  obtain ⟨⟨⟨-, -⟩, hc⟩, -⟩ := h
  exact hc

/-- A running combination names the lanes it was given. -/
theorem mem_scanList {α : Type} {f : α → α → α × Nat} {ex : Bool} {ident : α} {q : Nat × α} :
    ∀ {xs : List (Nat × α)} {acc : Option α}, q ∈ (scanList f ex ident acc xs).1 → q.1 ∈ xs.map (·.1)
  | [], _, h => by simp [scanList] at h
  | [(l, x)], acc, h => by
    cases ex <;> simp_all [scanList]
  | (l, x) :: y :: r, acc, h => by
    rw [scanList] at h
    · rcases List.mem_cons.1 h with h | h
      · simp [h]
      · exact List.mem_cons_of_mem _ (mem_scanList h)
    · simp

/-- The result of a segment names participants. -/
theorem parts_of_mem_segResult {α : Type} {scan ex : Bool} {comb : α → α → α × Nat} {ident : α} {read : Nat → α} {parts : Nat → Bool}
    {lanes : List Nat} {q : Nat × α} (h : q ∈ (segResult scan ex comb ident read parts lanes).1) : parts q.1 = true := by
  have hmem : q.1 ∈ lanes.filter parts := by
    unfold segResult at h
    split at h
    · simpa using mem_scanList h
    · dsimp only at h
      split at h
      · cases h
      · obtain ⟨l, hl, rfl⟩ := List.mem_map.1 h
        exact hl
  exact (List.mem_filter.1 hmem).2

theorem parts_of_mem_allSegs {α : Type} {g : Nat} {seg : List Nat → List (Nat × α) × Nat} {parts : Nat → Bool}
    (hseg : ∀ lanes, ∀ q ∈ (seg lanes).1, parts q.1 = true) : ∀ q ∈ (allSegs g seg).1, parts q.1 = true := by
  unfold allSegs
  refine List.foldlRecOn (motive := fun acc : List (Nat × α) × Nat => ∀ q ∈ acc.1, parts q.1 = true) _ _ (by simp) fun acc hacc k _ q hq => ?_
  rcases List.mem_append.1 hq with hq | hq
  · exact hacc q hq
  · exact hseg _ q hq

/-- An active lane acts. -/
theorem mem_actLanes_of_bit {v : LaneEnv} {l : Nat} (h : v.active.getLsbD l = true) : l ∈ actLanes v :=
  mem_actLanes_of_active (mem_lanesOf.2 ⟨BitVec.lt_of_getLsbD h, h⟩)

/-- RED and SCAN give results to active lanes alone (R216, R217). -/
theorem redBody_within {i : Instr} {x : LaForm} {sh : Shape} {scan : Bool} {v : LaneEnv} {s : State}
    (hw : WritesSlots (ofLa x sh) (slotsOf v.e.fmt x.ty)) :
    ∃ r, redBody scan (srcsLa x) v s = commitLane s r x.yw ∧ ResWithin s.cur v i (ofLa x sh) r := by
  refine ⟨_, rfl, .join (.joinRes ?_) (.empty _)⟩
  split
  · exact List.forall_mem_map.2 fun q hq => .putSlots hw
      (mem_actLanes_of_bit (parts_of_mem_allSegs (fun _ _ h => parts_of_mem_segResult h) q hq))
  · refine List.forall_mem_map.2 fun q hq => .putSlots hw ?_
    obtain ⟨u, hu, rfl⟩ := List.mem_map.1 hq
    exact mem_actLanes_of_bit (parts_of_mem_allSegs (fun _ _ h => parts_of_mem_segResult h) u hu)

end Sys2Proof.Machine
end

section
/-! Every LA and LI instruction that computes in the lanes runs in its frame and writes its destinations (R197). -/
namespace Sys2Proof.Machine

open Sys2Proof.Claims

section
variable {s : State} {i : Instr} {p : LaneParts} {x : LaForm} {y : LiForm} {sh : Shape} {n : Nat} {f : LaneEnv → State → Nat → LaneRes}

/-- An LA instruction that writes a value of its type in each acting lane. -/
theorem laneRun_la (hp : p = ofLa x sh) (he : exec i s = .next (withLane (firstGranules i p) i p.pr p.ps (perLane p.yw f) s))
    (h2 : ∀ t v, secondGranules i p t v = []) (hd : sh.d = .dst (slotsOf (clauseFmt s) x.ty))
    (hf : ∀ v t l, WritesSlots p (slotsOf v.e.fmt x.ty) → l ∈ actLanes v → ResWithin t.cur v i p (f v t l)) : LaneRun s i p :=
  laneRun_perLane he h2 fun v t l hv _ hl => hf v t l (hp ▸ writesSlots_la_ty hv hd) hl

/-- An LI instruction that writes a value of its type in each acting lane. -/
theorem laneRun_li (hp : p = ofLi y sh) (he : exec i s = .next (withLane (firstGranules i p) i p.pr p.ps (perLane p.yw f) s))
    (h2 : ∀ t v, secondGranules i p t v = []) (hd : sh.d = .dst (slotsOf (clauseFmt s) y.ty))
    (hf : ∀ v t l, WritesSlots p (slotsOf v.e.fmt y.ty) → l ∈ actLanes v → ResWithin t.cur v i p (f v t l)) : LaneRun s i p :=
  laneRun_perLane he h2 fun v t l hv _ hl => hf v t l (hp ▸ writesSlots_li_ty hv hd) hl

/-- An instruction whose destination takes n slots whatever the clause's `fmt`. -/
theorem laneRun_slots (hw : WritesSlots p n) (he : exec i s = .next (withLane (firstGranules i p) i p.pr p.ps (perLane p.yw f) s))
    (h2 : ∀ t v, secondGranules i p t v = [])
    (hf : ∀ v t l, WritesSlots p n → l ∈ actLanes v → ResWithin t.cur v i p (f v t l)) : LaneRun s i p :=
  laneRun_perLane he h2 fun v t l _ _ hl => hf v t l hw hl

end

/-- Every instruction that computes in the lanes runs in the frame of its parts (R197). -/
theorem laneRun_of_parts {s : State} {i : Instr} {p : LaneParts} (h : laneParts (clauseFmt s) i = some p) : LaneRun s i p := by
  cases i
  case iadd x | isub x | imul x | imulh x | imad x | imin x | imax x | bfn3 x | shf x | laneBfx x | laneBfi x | bitc x | mov x | laneSel x =>
    cases h
    exact laneRun_la rfl rfl (fun _ _ => rfl) rfl fun v t l hw hl => .putSlots hw hl
  case iaddLi x | isubLi x | imulLi x | imulhLi x | imadLi x | iminLi x | imaxLi x | bfn3Li x | shfLi x | laneBfxLi x | laneBfiLi x | movi x =>
    cases h
    exact laneRun_li rfl rfl (fun _ _ => rfl) rfl fun v t l hw hl => .putSlots hw hl
  case idot4 x | spec x =>
    cases h
    exact laneRun_slots (writesSlots_la rfl) rfl (fun _ _ => rfl) fun v t l hw hl => .putSlots hw hl
  case idot4Li x =>
    cases h
    exact laneRun_slots (writesSlots_li rfl) rfl (fun _ _ => rfl) fun v t l hw hl => .putSlots hw hl
  case icmp x =>
    cases h
    exact laneRun_perLane rfl (fun _ _ => rfl) fun v t l hv _ hl => icmpLane_within rfl hl (hv ▸ writesSlots_la_cmp rfl)
  case icmpLi x =>
    cases h
    exact laneRun_perLane rfl (fun _ _ => rfl) fun v t l hv _ hl => icmpLane_within rfl hl (hv ▸ writesSlots_li_cmp rfl)
  case fadd x | fmul x | ffma x | fmath x | fsca x | pack x =>
    cases h
    exact laneRun_slots (writesSlots_la rfl) rfl (fun _ _ => rfl) fun v t l hw hl => roundedElems_within rfl hl _ hw
  case faddLi x | fmulLi x | ffmaLi x | fmathDivLi x | fscaLi x =>
    cases h
    exact laneRun_slots (writesSlots_li rfl) rfl (fun _ _ => rfl) fun v t l hw hl => roundedElems_within rfl hl _ hw
  case fmin x | fmax x =>
    cases h
    exact laneRun_slots (writesSlots_la rfl) rfl (fun _ _ => rfl) fun v t l hw hl => minmaxLane_within rfl hl _ hw
  case fminLi x | fmaxLi x =>
    cases h
    exact laneRun_slots (writesSlots_li rfl) rfl (fun _ _ => rfl) fun v t l hw hl => minmaxLane_within rfl hl _ hw
  case fcmp x =>
    cases h
    exact laneRun_perLane rfl (fun _ _ => rfl) fun v t l _ hleg hl => fcmpLane_within rfl hl (writesSlots_fcmp (laOk_shape hleg).1)
  case fcmpLi x =>
    cases h
    exact laneRun_perLane rfl (fun _ _ => rfl) fun v t l _ hleg hl => fcmpLane_within rfl hl (writesSlots_fcmpLi (liOk_shape hleg))
  case xcmp x =>
    cases h
    exact laneRun_slots (writesSlots_la_cmp rfl) rfl (fun _ _ => rfl) fun v t l hw hl => fcmpLane_within rfl hl hw
  case fclass x =>
    cases h
    exact laneRun_slots (writesSlots_la_cmp rfl) rfl (fun _ _ => rfl) fun v t l hw hl => fclassLane_within rfl hl hw
  case cvt x =>
    cases h
    exact laneRun_perLane rfl (fun _ _ => rfl) fun v t l hv hleg hl => cvtLane_within rfl hl (by
      rw [hv]
      exact writesSlots_cvt (laOk_shape hleg).1)
  case xcvt x =>
    cases h
    exact laneRun_perLane rfl (fun _ _ => rfl) fun v t l hv hleg hl => cvtLane_within rfl hl (by
      rw [hv]
      exact writesSlots_xcvt (laOk_shape hleg).1)
  case unpack x =>
    cases h
    exact laneRun_perLane rfl (fun _ _ => rfl) fun v t l _ hleg hl => unpackLane_within rfl hl (writesSlots_unpack (laOk_shape hleg).1)
  case scalex x =>
    cases h
    exact laneRun_slots (writesSlots_la rfl) rfl (fun _ _ => rfl) fun v t l hw hl => scalexLane_within rfl hl hw
  case xadd x | xmul x | xfma x =>
    cases h
    refine laneRun_perLane rfl (fun _ _ => rfl) fun v t l hv hleg hl => ?_
    obtain ⟨hw, ht⟩ := writesSlots_vpf (laOk_shape hleg).1
    exact vpfRound_within rfl hl _ (hv ▸ hw) ht
  case xrnd x =>
    cases h
    refine laneRun_perLane rfl (fun _ _ => rfl) fun v t l hv hleg hl => ?_
    obtain ⟨hw, ht⟩ := writesSlots_vpf (laOk_shape hleg).1
    exact xrndLane_within rfl hl (hv ▸ hw) ht
  case xerr x =>
    cases h
    refine laneRun_perLane rfl (fun _ _ => rfl) fun v t l hv hleg hl => ?_
    obtain ⟨hw, ht⟩ := writesSlots_vpf (laOk_shape hleg).1
    exact xerrLane_within rfl hl (hv ▸ hw) ht
  case xadde x | xmule x =>
    cases h
    refine ⟨_, rfl, fun v s0 s1 hv hleg hs hx => ?_⟩
    cases hs
    obtain ⟨hw, ht⟩ := writesSlots_vpf (laOk_shape hleg).1
    exact ⟨_, exactBody_eq hx, .joinRes (List.forall_mem_map.2 fun l hl => exactLane_within rfl hl _ (hv ▸ hw) ht)⟩
  case ppoll x =>
    cases h
    exact laneRun_perLane rfl (fun _ _ => rfl) fun v t l _ hleg hl => pollLane_within rfl hl (writesSlots_ppoll (laOk_shape hleg).2)
  case pfn3 x =>
    cases h
    exact laneRun_perLane rfl (fun _ _ => rfl) fun v t l _ hleg hl => .putTest (writesSlots_pfn3 (laOk_shape hleg).2) hl
  case ixset x =>
    cases h
    exact laneRun_perLane rfl (fun _ _ => rfl) fun v t l _ _ hl => ixsetLane_within hl x _
  case red x | scan x =>
    cases h
    refine ⟨_, rfl, fun v s0 s1 hv _ hs _ => ?_⟩
    cases hs
    exact redBody_within (writesSlots_la_ty hv rfl)
  case lperm x | qbc x =>
    cases h
    refine ⟨_, rfl, fun v s0 s1 hv _ hs _ => permBody_within (writesSlots_la_ty hv rfl) ?_⟩
    rw [hv]
    exact hs
  case qxch x =>
    cases h
    refine ⟨_, rfl, fun v s0 s1 hv hleg hs _ => permBody_within (writesSlots_la_ty hv rfl) ?_⟩
    rw [hv, List.map_congr_left fun l hl => qxch_source _ (qxch_code (laOk_shape hleg).1) l (lt_of_mem_actLanes hl)]
    exact hs
  all_goals cases h

end Sys2Proof.Machine
end

section
/-! What an issued LA or LI instruction leaves alone, and how its frame ends (R19 to R34, R137, R192, R196). -/
namespace Sys2Proof.Machine

open Sys2Proof.Claims

/-! ### Set-flags of a clause (R20) -/

theorem nodup_eraseDups : ∀ l : List Nat, l.eraseDups.Nodup
  | [] => List.nodup_nil
  | a :: r => by
    rw [List.eraseDups_cons, List.nodup_cons]
    exact ⟨by simp, nodup_eraseDups _⟩
termination_by l => l.length
decreasing_by exact Nat.lt_succ_of_le (List.length_filter_le _ r)

theorem setFlags_nodup (e : QEntry) : (setFlags e).Nodup := nodup_eraseDups _

/-- Each element a list without repetition names changes once. -/
theorem vget_foldl_vset {n : Nat} (u : Nat → Nat) {l : List Nat} (hl : l.Nodup) (f : Vector Nat n) {k : Nat} (hk : k < n) :
    vget (l.foldl (fun f i => vset f i (u (vget f i 0))) f) k 0 = if k ∈ l then u (vget f k 0) else vget f k 0 := by
  induction l generalizing f with
  | nil => simp
  | cons i r ih =>
    obtain ⟨hi, hr⟩ := List.nodup_cons.1 hl
    rw [List.foldl_cons, ih hr, vget_vset]
    by_cases hik : i = k
    · subst hik
      simp [hi, hk]
    · simp [hik, Ne.symm hik]

theorem foldl_flagSub (l : List Nat) (g : Group) :
    l.foldl (fun g i => flagSub g i 1) g = { g with flags := l.foldl (fun f i => vset f i (vget f i 0 - 1)) g.flags } := by
  induction l generalizing g with
  | nil => rfl
  | cons i r ih => rw [List.foldl_cons, ih]; rfl

theorem foldl_flagAdd (l : List Nat) (g : Group) :
    l.foldl (fun g i => flagAdd g i 1) g = { g with flags := l.foldl (fun f i => vset f i (vget f i 0 + 1)) g.flags } := by
  induction l generalizing g with
  | nil => rfl
  | cons i r ih => rw [List.foldl_cons, ih]; rfl

/-! ### The clause moves on (R19, R20) -/

theorem queue_of_running {g : Group} {e : QEntry} (h : running g = some e) : g.queue = e :: g.queue.tail := by
  unfold running at h
  split at h
  · next hq =>
    split at h
    · cases h
      rw [hq]
      rfl
    · cases h
  · cases h

/-- A step of the clause changes the queue and the flags alone. -/
theorem stepClause_eq (g : Group) : stepClause g = { g with queue := (stepClause g).queue, flags := (stepClause g).flags } := by
  unfold stepClause
  split
  · split
    · rfl
    · rw [foldl_flagSub]
  · rfl

/-- The clause of a group with the same queue and flags moves on. -/
theorem clauseMoved_stepClause {g h : Group} {e : QEntry} (hr : running g = some e) (hq : h.queue = g.queue) (hf : h.flags = g.flags) :
    ClauseMoved g (stepClause h) e := by
  have hqe : h.queue = e :: g.queue.tail := hq.trans (queue_of_running hr)
  constructor
  · intro hin
    rw [stepClause, hqe]
    dsimp only
    rw [if_pos hin]
    exact ⟨rfl, hf⟩
  · intro hlast
    rw [stepClause, hqe]
    dsimp only
    rw [if_neg (by omega), foldl_flagSub]
    refine ⟨rfl, fun k => ?_⟩
    dsimp only
    rw [vget_foldl_vset (fun n => n - 1) (setFlags_nodup e) _ k.isLt, hf]
    split <;> rfl

/-! ### Results applied (R23, R32, R192) -/

theorem predGet_setPredLane_other (g : Group) {k l a b : Nat} {x : Bool} (h : a ≠ k ∨ b ≠ l) :
    predGet (setPredLane g k l x) a b = predGet g a b := by
  have hbit : b ≠ l → (BitVec.ofNat 32 (1 <<< l)).getLsbD b = false := by
    intro hb
    rw [BitVec.getLsbD_ofNat, Nat.one_shiftLeft, Nat.testBit_two_pow]
    simp [Ne.symm hb]
  unfold setPredLane predSetMask predMask predGet
  by_cases hk : k = 0
  · simp [hk]
  · dsimp only
    rw [if_neg hk, if_neg hk]
    dsimp only
    rw [vget_vset]
    by_cases hka : k = a ∧ k < 8
    · obtain ⟨rfl, h8⟩ := hka
      have hb := hbit (h.resolve_left fun hne => hne rfl)
      rw [if_pos ⟨rfl, h8⟩]
      cases x
      · simpa [hb, hk] using fun hx => BitVec.lt_of_getLsbD hx
      · simp [hb, hk]
    · rw [if_neg hka]

theorem setPredLane_eq (g : Group) (k l : Nat) (x : Bool) : setPredLane g k l x = { g with preds := (setPredLane g k l x).preds } := by
  unfold setPredLane predSetMask
  split <;> rfl

/-- The predicates that results set, and nothing else. -/
def setPreds (g : Group) (ps : List (Nat × Nat × Bool)) : Group := ps.foldl (fun g p => setPredLane g p.1 p.2.1 p.2.2) g

theorem setPreds_eq (g : Group) (ps : List (Nat × Nat × Bool)) : setPreds g ps = { g with preds := (setPreds g ps).preds } := by
  induction ps generalizing g with
  | nil => rfl
  | cons p r ih =>
    have hstep : setPreds g (p :: r) = setPreds (setPredLane g p.1 p.2.1 p.2.2) r := rfl
    rw [hstep, ih, setPredLane_eq]

theorem predGet_setPreds_other (g : Group) {ps : List (Nat × Nat × Bool)} {k l : Nat} (h : ∀ p ∈ ps, k ≠ p.1 ∨ l ≠ p.2.1) :
    predGet (setPreds g ps) k l = predGet g k l := by
  induction ps generalizing g with
  | nil => rfl
  | cons p r ih =>
    have hstep : setPreds g (p :: r) = setPreds (setPredLane g p.1 p.2.1 p.2.2) r := rfl
    rw [hstep, ih _ fun q hq => h q (List.mem_cons_of_mem _ hq), predGet_setPredLane_other _ (h p List.mem_cons_self)]

/-- The y registers that single results shift into, and nothing else (R23). -/
def shiftYs (g : Group) (ys : List (Nat × W32)) : Group := ys.foldl (fun g p => shiftY g p.1 p.2) g

theorem shiftYs_eq (g : Group) (ys : List (Nat × W32)) : shiftYs g ys = { g with lanes := (shiftYs g ys).lanes } := by
  induction ys generalizing g with
  | nil => rfl
  | cons p r ih =>
    have hstep : shiftYs g (p :: r) = shiftYs (shiftY g p.1 p.2) r := rfl
    rw [hstep, ih]
    rfl

theorem laneGet_shiftYs_other (g : Group) {ys : List (Nat × W32)} {key : Nat} (h : ∀ p ∈ ys, key ≠ yKey 0 p.1 ∧ key ≠ yKey 1 p.1) :
    laneGet (shiftYs g ys) key = laneGet g key := by
  induction ys generalizing g with
  | nil => rfl
  | cons p r ih =>
    obtain ⟨h0, h1⟩ := h p List.mem_cons_self
    have hstep : shiftYs g (p :: r) = shiftYs (shiftY g p.1 p.2) r := rfl
    rw [hstep, ih _ fun q hq => h q (List.mem_cons_of_mem _ hq)]
    unfold shiftY laneSet laneGet
    dsimp only
    rw [spGet_spSet_other _ _ h0.symm, spGet_spSet_other _ _ h1.symm]

/-- A table changed at the indices of a list keeps its other elements. -/
theorem vget_foldl_vset_other {α : Type} {n : Nat} {l : List (Nat × α)} {k : Nat} {d : α} (h : ∀ p ∈ l, p.1 ≠ k) (f : Vector α n) :
    vget (l.foldl (fun f p => vset f p.1 p.2) f) k d = vget f k d := by
  induction l generalizing f with
  | nil => rfl
  | cons p r ih =>
    have hp : ¬(p.1 = k ∧ p.1 < n) := fun hk => h p List.mem_cons_self hk.1
    rw [List.foldl_cons, ih fun q hq => h q (List.mem_cons_of_mem _ hq), vget_vset, if_neg hp]

/-- A group after the results that are not y shifts. -/
def applyPlain (g : Group) (r : LaneRes) : Group :=
  let h := setPreds (laneSetAll g r.regs) r.preds
  { h with
    ixs := r.ixs.foldl (fun l p => vset l p.1 p.2) h.ixs
    lfsr := r.rnd.foldl (fun l p => vset l p.1 p.2) h.lfsr
    fstat := stickFlags h.fstat r.stat }

theorem applyPlain_eq (g : Group) (r : LaneRes) :
    applyPlain g r = { laneSetAll g r.regs with
      preds := (setPreds (laneSetAll g r.regs) r.preds).preds
      ixs := r.ixs.foldl (fun l p => vset l p.1 p.2) g.ixs
      lfsr := r.rnd.foldl (fun l p => vset l p.1 p.2) g.lfsr
      fstat := stickFlags g.fstat r.stat } := by
  unfold applyPlain
  rw [setPreds_eq, laneSetAll]

theorem applyRes_eq_shiftYs (g : Group) (r : LaneRes) (yw : Bool) :
    applyRes g r yw = if yw then shiftYs (applyPlain g r) r.single else applyPlain g r := rfl

/-- The y shifts change lane registers alone. -/
theorem applyRes_eq (g : Group) (r : LaneRes) (yw : Bool) : applyRes g r yw = { applyPlain g r with lanes := (applyRes g r yw).lanes } := by
  rw [applyRes_eq_shiftYs]
  split
  · exact shiftYs_eq _ _
  · rfl

/-- A key that no result names keeps its word; with the y-write bit the y registers of lanes with a single result do not. -/
theorem laneGet_applyRes_other (g : Group) {r : LaneRes} {yw : Bool} {key : Nat} (hr : ∀ q ∈ r.regs, q.1 ≠ key)
    (hy : yw = true → ∀ q ∈ r.single, key ≠ yKey 0 q.1 ∧ key ≠ yKey 1 q.1) : laneGet (applyRes g r yw) key = laneGet g key := by
  have hplain : laneGet (applyPlain g r) key = laneGet g key := by
    rw [applyPlain_eq]
    exact spGet_spSetAll_other _ _ hr
  rw [applyRes_eq_shiftYs]
  split
  · next h => rw [laneGet_shiftYs_other _ (hy h), hplain]
  · exact hplain

theorem predGet_applyRes_other (g : Group) {r : LaneRes} {yw : Bool} {k l : Nat} (h : ∀ p ∈ r.preds, k ≠ p.1 ∨ l ≠ p.2.1) :
    predGet (applyRes g r yw) k l = predGet g k l := by
  rw [applyRes_eq, applyPlain_eq]
  exact predGet_setPreds_other _ h

theorem ixGet_applyRes_other (g : Group) {r : LaneRes} {yw : Bool} {l k : Nat} (h : ∀ p ∈ r.ixs, p.1 ≠ l * 4 + k) :
    ixGet (applyRes g r yw) l k = ixGet g l k := by
  rw [applyRes_eq, applyPlain_eq]
  exact vget_foldl_vset_other h _

theorem lfsrGet_applyRes_other (g : Group) {r : LaneRes} {yw : Bool} {l : Nat} (h : ∀ p ∈ r.rnd, p.1 ≠ l) :
    lfsrGet (applyRes g r yw) l = lfsrGet g l := by
  rw [applyRes_eq, applyPlain_eq]
  exact vget_foldl_vset_other h _

theorem fstat_applyRes (g : Group) (r : LaneRes) (yw : Bool) : (applyRes g r yw).fstat = g.fstat ||| BitVec.ofNat 7 r.stat := by
  rw [applyRes_eq, applyPlain_eq]
  rfl

/-! ### The frame (R20, R22, R26, R27) -/

/-- A y register of an acting lane is the only key a single result shifts into. -/
theorem ne_yKey_of_mem {v : LaneEnv} {key l : Nat} (hl : l ∈ actLanes v)
    (h : key < 264 * 32 ∨ 266 * 32 ≤ key ∨ key % 32 ∉ actLanes v) : key ≠ yKey 0 l ∧ key ≠ yKey 1 l := by
  have hlt := lt_of_mem_actLanes hl
  have hy : ∀ i < 2, key = yKey i l → key % 32 = l ∧ 264 * 32 ≤ key ∧ key < 266 * 32 := by
    intro i hi hk
    unfold yKey laneKey at hk
    omega
  constructor
  · intro hk
    obtain ⟨hm, hge, hlt'⟩ := hy 0 (by omega) hk
    rcases h with h | h | h
    · omega
    · omega
    · exact h (hm ▸ hl)
  · intro hk
    obtain ⟨hm, hge, hlt'⟩ := hy 1 (by omega) hk
    rcases h with h | h | h
    · omega
    · omega
    · exact h (hm ▸ hl)

/-- An instruction that commits a result within its destinations changes only what R19 to R34 and R192 let it. -/
theorem laneFrame_commitLane {i : Instr} {p : LaneParts} {v : LaneEnv} {s : State} {r : LaneRes} (hr : running s.cur = some v.e)
    (hw : ResWithin s.cur v i p r) : LaneFrame i p v s (commitLane s r p.yw) := by
  have hstep := stepClause_eq (applyRes s.cur r p.yw)
  have hq : (applyRes s.cur r p.yw).queue = s.cur.queue ∧ (applyRes s.cur r p.yw).flags = s.cur.flags := by
    rw [applyRes_eq, applyPlain_eq]
    exact ⟨rfl, rfl⟩
  constructor
  case lanes =>
    intro key hkey hy
    change laneGet (stepClause (applyRes s.cur r p.yw)) key = _
    rw [hstep]
    refine laneGet_applyRes_other s.cur (fun q hq hk => hkey (hk ▸ hw.regs q hq)) fun hyw q hq => ?_
    exact ne_yKey_of_mem (hw.single q hq) (hy.resolve_left (by simp [hyw]))
  case preds =>
    intro k l h
    change predGet (stepClause (applyRes s.cur r p.yw)) k l = _
    rw [hstep]
    refine predGet_applyRes_other s.cur fun q hq => ?_
    obtain ⟨⟨n, m, hd, hm⟩, hl⟩ := hw.preds q hq
    rcases h n m hd with h | h
    · exact .inl fun hk => h (hm.trans hk.symm)
    · exact .inr fun hk => h (hk ▸ hl)
  case ixs =>
    intro l k hk h
    change ixGet (stepClause (applyRes s.cur r p.yw)) l k = _
    rw [hstep]
    refine ixGet_applyRes_other s.cur fun q hq he => ?_
    obtain ⟨⟨x, hx⟩, hl⟩ := hw.ixs q hq
    have hql : q.1 / 4 = l := by omega
    rcases h with h | h
    · exact h x hx
    · exact h (hql ▸ hl)
  case random =>
    intro l hl
    change lfsrGet (stepClause (applyRes s.cur r p.yw)) l = _
    rw [hstep]
    exact lfsrGet_applyRes_other s.cur fun q hq he => hl (he ▸ hw.rnd q hq)
  case sticky =>
    change s.cur.fstat &&& (stepClause (applyRes s.cur r p.yw)).fstat = _
    rw [hstep]
    change s.cur.fstat &&& (applyRes s.cur r p.yw).fstat = _
    rw [fstat_applyRes]
    ext b
    simp +contextual
  case clause => exact clauseMoved_stepClause hr hq.1 hq.2
  case memory => exact fun _ => rfl
  case rest =>
    change { s with cur := _ } = s
    have hcur : ({ stepClause (applyRes s.cur r p.yw) with
        lanes := s.cur.lanes, preds := s.cur.preds, ixs := s.cur.ixs, lfsr := s.cur.lfsr, fstat := s.cur.fstat,
        queue := s.cur.queue, flags := s.cur.flags } : Group) = s.cur := by
      rw [hstep, applyRes_eq, applyPlain_eq, laneSetAll]
    exact congrArg (fun g => { s with cur := g }) hcur

end Sys2Proof.Machine
end

section
/-! Absent granules filled on demand (R38), and the lane arithmetic instructions where they may issue (R192, R196). -/
namespace Sys2Proof.Machine

open Sys2Proof.Claims

/-! ### Filling a granule (R38) -/

theorem touchRuns_cur (s : State) (a : Actor) (k : Access) (va : W64) (rs : List Run) : (touchRuns s a k va rs).cur = s.cur :=
  (congrArg State.cur (touchRuns_rest a k rs s va) :)

/-- A granule filled is absent no longer and counted once; the lane registers outside it keep their words, and the group is otherwise
as it was. -/
structure Filled (j : Nat) (g h : Group) : Prop where
  present : h.absent = g.absent.filter (· ≠ j)
  counted : h.lzfill = g.lzfill + 1
  others : ∀ key, (key < 8 * j * 32 ∨ 8 * (j + 1) * 32 ≤ key) → laneGet h key = laneGet g key
  rest : { h with lanes := g.lanes, absent := g.absent, lzfill := g.lzfill } = g

theorem filled_laneSetAll {j : Nat} (g : Group) {ws : List (Nat × W32)} (h : ∀ p ∈ ws, 8 * j * 32 ≤ p.1 ∧ p.1 < 8 * (j + 1) * 32) :
    Filled j g { laneSetAll g ws with absent := g.absent.filter (· ≠ j), lzfill := g.lzfill + 1 } := by
  refine ⟨rfl, rfl, fun key hk => spGet_spSetAll_other _ _ fun p hp => ?_, rfl⟩
  have := h p hp
  omega

theorem filled_of_fillGranule {s t : State} {j : Nat} (h : fillGranule s j = .ok t) : Filled j s.cur t.cur := by
  unfold fillGranule at h
  dsimp only at h
  split at h
  · cases h
  · next rs _ =>
    cases h
    have hc := touchRuns_cur s (fillActor s.cur) .load (granuleBase s.cur j) rs
    unfold modCur
    rw [hc]
    refine filled_laneSetAll s.cur fun p hp => ?_
    obtain ⟨i, hi, rfl⟩ := List.mem_map.1 hp
    have hi' := List.mem_range.1 hi
    dsimp only [laneKey]
    omega

/-- Filling granules changes, of the group in focus, lane registers, its absent granules and their count. -/
theorem fillGranules_rest (l : List Nat) : ∀ {s t : State}, fillGranules s l = .ok t →
    ({ t.cur with lanes := s.cur.lanes, absent := s.cur.absent, lzfill := s.cur.lzfill } : Group) = s.cur := by
  induction l with
  | nil => rintro s t ⟨⟩; rfl
  | cons j r ih =>
    intro s t h
    unfold fillGranules at h
    split at h
    · split at h
      · cases h
      · next u hu =>
        have hrest := (filled_of_fillGranule hu).rest
        exact (congrArg (fun g : Group => { g with lanes := s.cur.lanes, absent := s.cur.absent, lzfill := s.cur.lzfill }) (ih h)).trans hrest
    · exact ih h

/-- Filling granules leaves a group's queue and its scalar registers. -/
theorem fillGranules_cur {l : List Nat} {s t : State} (h : fillGranules s l = .ok t) :
    t.cur.queue = s.cur.queue ∧ t.cur.sregs = s.cur.sregs :=
  have hrest := fillGranules_rest l h
  ⟨(congrArg Group.queue hrest :), (congrArg Group.sregs hrest :)⟩

theorem running_congr {g h : Group} (hq : h.queue = g.queue) : running h = running g := by
  unfold running
  rw [hq]

/-! ### The frame of a lane instruction (R31, R33, R38, R137, R196) -/

theorem clauseFmt_of_running {s : State} {e : QEntry} (h : running s.cur = some e) : clauseFmt s = e.fmt := by
  unfold clauseFmt
  rw [h]
  rfl

section
variable {s : State} {e : QEntry} {fill : Group → LaneEnv → List Nat} {i : Instr} {pr : PredSel} {ps : List OpPos}
  {body : LaneEnv → State → State} (hr : running s.cur = some e)
include hr

theorem withLane_illegal (h : legalAt e.fmt i = false) : withLane fill i pr ps body s = laneTrap s 0x01 (illegalTval i) := by
  unfold withLane withEnv withEarly
  rw [hr]
  simp [laneEnv, h, illegalLane]

theorem withLane_range (h : legalAt e.fmt i = true) {pos : Nat} (hb : badPosition s.cur (actLanes (laneEnv s.cur e pr)) ps = some pos) :
    withLane fill i pr ps body s = laneTrap s 0x06 (BitVec.ofNat 64 pos) := by
  unfold withLane withEnv withEarly
  rw [hr]
  dsimp only
  rw [if_neg (by simp [laneEnv, h]), hb]

variable (h : legalAt e.fmt i = true) (hb : badPosition s.cur (actLanes (laneEnv s.cur e pr)) ps = none)
  (hf : ∀ k ∈ destKeys s.cur (actLanes (laneEnv s.cur e pr)) ps, isPending s.cur k = false)
include h hb hf

/-- A legal instruction, in range and free to write, fills its granules and runs. -/
theorem withLane_filled : withLane fill i pr ps body s =
    match fillGranules s (fill s.cur (laneEnv s.cur e pr)) with
    | .error c => laneTrap s c.1 c.2
    | .ok s1 => body (laneEnv s.cur e pr) s1 := by
  have hany : (destKeys s.cur (actLanes (laneEnv s.cur e pr)) ps).any (isPending s.cur) = false := by simpa using hf
  unfold withLane withEnv withEarly
  rw [hr]
  dsimp only
  rw [if_neg (by simp [laneEnv, h]), hb]
  dsimp only
  rw [hany]
  rfl

end

/-! ### Issue -/

/-- A lane instruction that may issue does, and changes only what it names. -/
theorem laneFrame_of_ready {s s1 : State} {i : Instr} {p : LaneParts} {v : LaneEnv} (h : LaneReady s i p v s1) :
    ∃ t, exec i s = .next t ∧ LaneFrame i p v s1 t := by
  obtain ⟨hr, hleg, hp, henv, hb, hf, ⟨s0, hs0, hs1⟩, hx⟩ := h
  have hfmt := clauseFmt_of_running hr
  obtain ⟨body, he, hbody⟩ := laneRun_of_parts (s := s) (hfmt ▸ hp)
  obtain ⟨r, hcommit, hw⟩ := hbody v s0 s1 hfmt.symm (hfmt ▸ hleg) hs1 hx
  refine ⟨commitLane s1 r p.yw, ?_, laneFrame_commitLane ?_ hw⟩
  · rw [henv] at hb hf hs0 hcommit
    rw [he, withLane_filled hr hleg hb hf, hs0, ← hcommit]
  · rw [running_congr ((fillGranules_cur hs1).1.trans (fillGranules_cur hs0).1), hr]

/-- Settles O21: an instruction commits a result within its destinations (`laneRun_of_parts`), and a commit changes nothing else
(`laneFrame_commitLane`); the traps are those of the frame. -/
theorem laneIssue : Obligations.LaneIssue := by
  refine ⟨fun s i p v s1 h => laneFrame_of_ready h, fun s i p e hr hp => ?_⟩
  have hfmt := clauseFmt_of_running hr
  obtain ⟨body, he, -⟩ := laneRun_of_parts (s := s) (hfmt ▸ hp)
  refine ⟨fun hleg => ?_, fun hleg pos hb => ?_, fun hleg v hv hb hf c hc => ?_⟩
  · rw [he, withLane_illegal hr hleg]
  · rw [he, withLane_range hr hleg hb]
  · subst hv
    rw [he, withLane_filled hr hleg hb hf, hc]

end Sys2Proof.Machine
end

section
/-! Clauses start, positioned effects apply and granules fill in a group of their own turn (R19, R38, R153, R178). -/
namespace Sys2Proof.Machine

open Sys2Proof.Claims

/-! ### Reads after writes of a group's registers -/

theorem spGet_spClear {w : Nat} (m : Sparse w) (lo n i : Nat) : spGet (spClear m lo n) i = if lo ≤ i ∧ i < lo + n then 0 else spGet m i := by
  induction m with
  | nil => simp [spClear, spGet]
  | cons p r ih =>
    obtain ⟨k, v⟩ := p
    unfold spClear at ih ⊢
    by_cases hk : lo ≤ k ∧ k < lo + n
    · rw [List.filter_cons_of_neg (by simp [hk]), ih, spGet]
      split
      · rfl
      · next hi => rw [if_neg (by rintro rfl; exact hi hk)]
    · rw [List.filter_cons_of_pos (by simp; omega), spGet, ih, spGet]
      by_cases hi : k = i
      · subst hi
        rw [if_pos rfl, if_pos rfl, if_neg hk]
      · rw [if_neg hi, if_neg hi]

theorem laneGet_clearY (g : Group) (key : Nat) : laneGet (clearY g) key = if 264 * 32 ≤ key ∧ key < 266 * 32 then 0 else laneGet g key :=
  spGet_spClear _ _ _ _

theorem laneGet_laneSet (g : Group) (key x : Nat) (w : W32) : laneGet (laneSet g key w) x = if x = key then w else laneGet g x := by
  unfold laneGet laneSet
  dsimp only
  rw [spGet_spSet]
  exact if_congr eq_comm rfl rfl

theorem predGet_predSetMask (g : Group) {k j l : Nat} (w : W32) (hj : 0 < j) (hj8 : j < 8) :
    predGet (predSetMask g k w) j l = if j = k then w.getLsbD l else predGet g j l := by
  have hj0 : j ≠ 0 := Nat.pos_iff_ne_zero.1 hj
  unfold predSetMask predGet
  by_cases hk : k = 0
  · simp [hk, hj0]
  · rw [if_neg hk]
    dsimp only
    rw [vget_vset]
    by_cases hjk : k = j
    · subst hjk
      simp [hj8, hk]
    · simp [hjk, Ne.symm hjk]

theorem vget_vtab {α : Type} {n i : Nat} (f : Nat → α) (d : α) (h : i < n) : vget (vtab n f) i d = f i := by
  simp [vget, vtab, h]

theorem lfsrGet_setPrng (g : Group) (v : W64) {l : Nat} (h : l < 32) : lfsrGet (setPrng g v) l = lfsrSeed v l := vget_vtab _ _ h

/-- A lane's random word is not 0 (R43). -/
theorem lfsrSeed_eq (v : W64) (l : Nat) :
    lfsrSeed v l = if (v.setWidth 16 : BitVec 16) = BitVec.ofNat 16 l then 1 else v.setWidth 16 ^^^ BitVec.ofNat 16 l := by
  unfold lfsrSeed
  dsimp only
  exact if_congr BitVec.xor_eq_zero_iff rfl rfl

/-! ### One absent granule (R38) -/

theorem fillGranules_one (s : State) (j : Nat) : fillGranules s [j] = if j ∈ s.cur.absent then fillGranule s j else .ok s := by
  unfold fillGranules
  by_cases h : j ∈ s.cur.absent
  · rw [if_pos (List.contains_iff_mem.2 h), if_pos h]
    cases fillGranule s j <;> rfl
  · rw [if_neg (by simpa using h), if_neg h]
    rfl

/-- A granule wanted is absent. -/
theorem mem_absent_of_wanted {s : State} {g : Group} {j : Nat} (h : j ∈ granulesWanted s g) : j ∈ g.absent := by
  unfold granulesWanted at h
  split at h
  · cases h
  · exact List.contains_iff_mem.1 (List.mem_filter.1 h).2

theorem fillWanted_filled {s s1 : State} {j : Nat} (hj : j ∈ granulesWanted s s.cur) (h : fillGranules s [j] = .ok s1) :
    fillWanted j s = s1 ∧ Filled j s.cur s1.cur := by
  refine ⟨?_, ?_⟩
  · unfold fillWanted
    rw [if_pos (List.contains_iff_mem.2 hj), h]
  · rw [fillGranules_one, if_pos (mem_absent_of_wanted hj)] at h
    exact filled_of_fillGranule h

theorem fillWanted_keeps {s : State} {j : Nat} (h : j ∉ granulesWanted s s.cur ∨ ∃ c, fillGranules s [j] = .error c) : fillWanted j s = s := by
  unfold fillWanted
  split
  · next hc =>
    obtain ⟨c, hx⟩ := h.resolve_left fun hn => hn (List.contains_iff_mem.1 hc)
    rw [hx]
  · rfl

/-! ### Clause start (R19, R20) -/

theorem fetchWord_cur {s t : State} {k : Access} {a : W64} {bs : List Byte} (h : fetchWord s k a = .ok (bs, t)) : t.cur = s.cur := by
  unfold fetchWord at h
  dsimp only at h
  split at h
  · cases h
  · split at h
    · split at h
      · cases h
      · cases h
        exact touchRuns_cur _ _ _ _ _
    · cases h

/-- Fetching words leaves the group in focus as it is. -/
theorem fetchWords_cur {s t : State} {k : Access} {a : W64} {n : Nat} {bs : List Byte} (h : fetchWords s k a n = .ok (bs, t)) :
    t.cur = s.cur := by
  induction n generalizing s t a bs with
  | zero => cases h; rfl
  | succ n ih =>
    unfold fetchWords at h
    split at h
    · cases h
    · next hw =>
      split at h
      · cases h
      · next hr =>
        cases h
        exact (ih hr).trans (fetchWord_cur hw)

section
variable {s : State} {e : QEntry} {r : List QEntry} (hq : s.cur.queue = e :: r)
include hq

section
variable (hk : e.kind = .clause) (hs : e.started = false)
include hk hs

theorem clauseStart_unreadable {x : XErr} (hf : fetchWords s .laneFetch e.addr 3 = .error x) :
    clauseStart s = takeTrap s true 15 (errCause .laneFetch x) e.addr s.cur.pc := by
  simp [clauseStart, hq, hk, hs, hf, headerTrap]

theorem clauseStart_bad {bs : List Byte} {s1 : State} (hf : fetchWords s .laneFetch e.addr 3 = .ok (bs, s1))
    (hd : decodeHeader (laneWordOf bs) = none) : clauseStart s = takeTrap s1 true 15 0x03 e.addr s1.cur.pc := by
  simp [clauseStart, hq, hk, hs, hf, hd, headerTrap]

/-- A good header starts its clause once the flags it waits for are clear. -/
theorem clauseStart_header {bs : List Byte} {s1 : State} {h : ClauseHeader} (hf : fetchWords s .laneFetch e.addr 3 = .ok (bs, s1))
    (hd : decodeHeader (laneWordOf bs) = some h) :
    clauseStart s = if ∀ i : Fin 12, h.wait.getLsbD i = true → vget s.cur.flags i 0 = 0 then modCur s1 (startClause e r h) else s := by
  simp only [← flagsWord_and_eq_zero_iff]
  simp [clauseStart, hq, hk, hs, hf, hd]

end

/-! ### Positioned effects (R153) -/

theorem positionedEffect_setp (hk : e.kind = .setp) :
    positionedEffect s = modCur s fun g => predSetMask { g with queue := r } e.target.toNat (e.addr.setWidth 32) := by
  simp [positionedEffect, hq, hk]

theorem positionedEffect_prng (hk : e.kind = .prng) : positionedEffect s = modCur s fun g => setPrng { g with queue := r } e.addr := by
  simp [positionedEffect, hq, hk]

theorem positionedEffect_fewait (hk : e.kind = .fewait) : positionedEffect s = modCur s fun g => { g with queue := r, fewait := e.addr } := by
  simp [positionedEffect, hq, hk]

theorem positionedEffect_vput (hk : e.kind = .vput) : positionedEffect s = applyVput e r s := by
  simp [positionedEffect, hq, hk]

end

/-- A positioned VPUT waits, traps or writes its element. -/
theorem applyVput_eq (e : QEntry) (r : List QEntry) (s : State) {slot key : Nat} (hslot : slot = (e.target.extractLsb' 5 8).toNat)
    (hkey : key = slot * 32 + (e.target.extractLsb' 0 5).toNat) : applyVput e r s =
    if isPending s.cur key then s
    else match fillGranules s [slot / 8] with
      | .error c => takeTrap s true 15 c.1 c.2 s.cur.pc
      | .ok s1 => modCur s1 fun g => laneSet { g with queue := r } key (e.addr.setWidth 32) := by
  have hs : bitsOf e.target 12 5 = slot := by rw [hslot, BitVec.extractLsb'_toNat]; rfl
  have hl : bitsOf e.target 4 0 = (e.target.extractLsb' 0 5).toNat := by rw [BitVec.extractLsb'_toNat]; rfl
  unfold applyVput headerTrap
  rw [hs, hl, hkey]
  rfl

/-- A clause started: its entry at the head, y cleared, the flags it sets counted, and no other part changed. -/
theorem startClause_eq (e : QEntry) (r : List QEntry) (h : ClauseHeader) (g : Group) {e' : QEntry}
    (he : e' = { e with started := true, pos := 0, count := h.count, setA := h.setA, setB := h.setB, helper := h.helper, fewait := g.fewait }) :
    startClause e r h g = { clearY g with
      queue := e' :: r, flags := (setFlags e').foldl (fun f i => vset f i (vget f i 0 + 1)) g.flags } := by
  unfold startClause
  dsimp only
  rw [foldl_flagAdd, he]
  rfl

theorem onGroup_found {k : GKey} {s : State} {g : Group} (h : findGroup s k = some g) (f : State → State) :
    onGroup k f s = focus (f (focus s k)) s.cur.key := by
  rw [onGroup, h]

/-- Settles O34, from what each event does to the group in focus. -/
theorem clauseEvents : Obligations.ClauseEvents := by
  intro s k g f e r hg hf
  have hexec : ∀ u : State → State, onGroup k u s = focus (u f) s.cur.key := fun u => hf ▸ onGroup_found hg u
  have hfill : ∀ j, exec (.granuleFill k j) s = .next (focus (fillWanted j f) s.cur.key) := fun j => congrArg Host.Outcome.next (hexec _)
  have hstart : exec (.clauseStart k) s = .next (focus (clauseStart f) s.cur.key) := congrArg Host.Outcome.next (hexec _)
  have heff : exec (.positionedEffect k) s = .next (focus (positionedEffect f) s.cur.key) := congrArg Host.Outcome.next (hexec _)
  refine ⟨fun j => ⟨fun hj s1 hs1 => ?_, fun hj => ?_⟩, fun hq => ⟨fun hk hs => ⟨fun x hx => ?_, fun bs s1 hx => ⟨fun hd => ?_,
    fun h hd => ⟨fun hw => ?_, fun hw => ?_⟩⟩⟩, fun hk => ?_, fun hk => ?_, fun hk => ?_, fun hk slot key s1 hslot hkey => ?_⟩⟩
  · obtain ⟨hwant, hdone⟩ := fillWanted_filled hj hs1
    refine ⟨?_, ?_, hdone.counted, hdone.others⟩
    · rw [hfill, hwant]
    · rw [hdone.present]
      simp
  · rw [hfill, fillWanted_keeps hj]
  · rw [hstart, clauseStart_unreadable hq hk hs hx]
  · rw [hstart, clauseStart_bad hq hk hs hx hd]
  · obtain ⟨i, hi, hn⟩ := hw
    rw [hstart, clauseStart_header hq hk hs hx hd, if_neg fun hall => hn (hall i hi)]
  · have hcur := fetchWords_cur hx
    rw [hstart, clauseStart_header hq hk hs hx hd, if_pos hw]
    refine ⟨_, _, rfl, ?_, rfl, fun key => ?_, fun i => ?_, ?_⟩ <;> unfold modCur <;> rw [startClause_eq e r h s1.cur rfl]
    · rw [hcur]
    · rw [← hcur]
      exact laneGet_clearY s1.cur key
    · dsimp only
      rw [vget_foldl_vset (fun n => n + 1) (setFlags_nodup _) _ i.isLt, hcur]
      split <;> rfl
    · rfl
  · rw [heff, positionedEffect_setp hq hk]
    refine ⟨_, rfl, ?_, fun j l hj hj8 => predGet_predSetMask _ _ hj hj8, ?_⟩
    all_goals unfold modCur predSetMask; split <;> rfl
  · rw [heff, positionedEffect_prng hq hk]
    exact ⟨_, rfl, rfl, rfl, fun l hl => (lfsrGet_setPrng _ _ hl).trans (lfsrSeed_eq _ _), rfl⟩
  · rw [heff, positionedEffect_fewait hq hk]
    rfl
  · rw [heff, positionedEffect_vput hq hk, applyVput_eq e r f hslot hkey]
    refine ⟨fun hp => by rw [if_pos hp], fun hp c hc => ?_, fun hp hc => ?_⟩
    · rw [if_neg (by simp [hp]), hc]
    · rw [if_neg (by simp [hp]), hc]
      exact ⟨_, rfl, rfl, fun x => laneGet_laneSet _ _ _ _, rfl⟩

end Sys2Proof.Machine
end

section
/-! Which parts of the group in focus a store of any place leaves as they are (R80, R83, R389, R398). -/
namespace Sys2Proof.Machine

open Sys2Proof.Claims

/-! ### Device registers -/

@[simp] theorem mgmtPut_cur (s : State) (off hi lo v : Nat) : (mgmtPut s off hi lo v).cur = s.cur :=
  (congrArg State.cur (mgmtPut_rest s off hi lo v) :)

@[simp] theorem mgmtPlain_cur (s : State) (off : Nat) (v : W64) : (mgmtPlain s off v).cur = s.cur :=
  (congrArg State.cur (mgmtPlain_rest s off v) :)

@[simp] theorem mgmtCount_cur (s : State) (off lo : Nat) : (mgmtCount s off lo).cur = s.cur := mgmtPut_cur ..

@[simp] theorem onPort_cur (s : State) (p : Nat) (f : Port → Port) : (onPort s p f).cur = s.cur := rfl

@[simp] theorem resendAll_cur (p : Nat) (s : State) (seqs : List Nat) : (resendAll p s seqs).cur = s.cur :=
  foldl_keeps State.cur _ (fun t x => by simp [resendFlit]) _ s

@[simp] theorem adoptMask_cur (s : State) (p e m : Nat) : (adoptMask s p e m).cur = s.cur := by simp [adoptMask]

@[simp] theorem shedTo_cur (s : State) (p v : Nat) : (shedTo s p v).cur = s.cur := by
  unfold shedTo; dsimp only; split
  · rfl
  · split <;> simp

@[simp] theorem relight_cur (s : State) (p v : Nat) : (relight s p v).cur = s.cur := rfl

@[simp] theorem enterDark_cur (s : State) (p : Nat) : (enterDark s p).cur = s.cur := by unfold enterDark; dsimp only; split <;> simp

@[simp] theorem setLaser_cur (s : State) (p v : Nat) : (setLaser s p v).cur = s.cur := by
  unfold setLaser; dsimp only
  split
  · split <;> simp
  · split
    · simp
    · split <;> simp

@[simp] theorem moveLaser_cur (s : State) (p v : Nat) : (moveLaser s p v).cur = s.cur := by
  unfold moveLaser; dsimp only
  split
  · simp
  · split
    · rfl
    · split <;> simp

@[simp] theorem requestLaser_cur (s : State) (p v : Nat) : (requestLaser s p v).cur = s.cur := by
  unfold requestLaser; dsimp only
  split
  · split <;> simp
  · simp

@[simp] theorem nodeAccess_cur (s : State) (v : W64) : (nodeAccess s v).cur = s.cur := by
  unfold nodeAccess; dsimp only
  split
  · split
    · simp
    · rw [foldl_keeps State.cur _ (fun t x => mgmtPut_cur ..)]; simp
  · simp

@[simp] theorem setFreq_cur (s : State) (r f : Nat) : (setFreq s r f).cur = s.cur := by
  unfold setFreq; dsimp only; split <;> simp [onRegion]

@[simp] theorem startCheckpoint_cur (s : State) (v : W64) : (startCheckpoint s v).cur = s.cur := by
  unfold startCheckpoint; dsimp only; split <;> simp

/-- A write of a register of class 0x03 leaves the group. -/
@[simp] theorem mgmtWrite_cur (s : State) (off : Nat) (v : W64) : (mgmtWrite s off v).cur = s.cur := by
  unfold mgmtWrite
  split <;> simp [registerQueue, writePort]

@[simp] theorem mgmtStore_cur (s : State) (off : Nat) (bs : List Byte) : (mgmtStore s off bs).cur = s.cur :=
  foldl_keeps State.cur _ (fun t x => by split <;> simp) _ s

@[simp] theorem ringPush_cur (s : State) (st r : Nat) (x : Nat) : (ringPush s st r x).cur = s.cur := rfl

@[simp] theorem pushKept_cur (s : State) : (pushKept s).cur = s.cur :=
  foldl_keeps State.cur _ (fun t e => by split <;> simp) _ s

@[simp] theorem loamWrite_cur (s : State) (st off : Nat) (v : W64) : (loamWrite s st off v).cur = s.cur := by
  unfold loamWrite
  split
  · rfl
  · simp [loamPut]

@[simp] theorem loamStore_cur (s : State) (st off : Nat) (bs : List Byte) : (loamStore s st off bs).cur = s.cur :=
  foldl_keeps State.cur _ (fun t x => by simp) _ s

/-! ### Words -/

@[simp] theorem accumStore_cur (s : State) (core off : Nat) (bs : List Byte) : (accumStore s core off bs).cur = s.cur := by
  unfold accumStore
  refine foldl_keeps State.cur _ (fun t x => ?_) _ s
  rfl

@[simp] theorem onRun_cur (s : State) (r : Run) (f : WordDir → WordDir) : (onRun s r f).cur = s.cur :=
  congrArg (·.cur) (onRun_rest s r f)

/-- A store of any place leaves the group. -/
@[simp] theorem writePlace_cur (s : State) (r : Run) (bs : List Byte) : (writePlace s r bs).cur = s.cur := by
  unfold writePlace
  split
  · simp
  · simp
  · simp
  · rfl
  · rfl
  · split <;> simp
  · simp
  · simp

end Sys2Proof.Machine
end

section
/-! An outstanding operation completes: its results, its flag, its batch, its place in the SC order (R20, R22, R257 to R262). -/
namespace Sys2Proof.Machine

open Sys2Proof.Claims

/-! ### Tables written with one value per key -/

/-- A key that a list of stores gives one word reads that word. -/
theorem spGet_spSetAll_of_mem {w : Nat} {m : Sparse w} {l : List (Nat × BitVec w)} {k : Nat} {x : BitVec w} (h : (k, x) ∈ l)
    (hu : ∀ y, (k, y) ∈ l → y = x) : spGet (spSetAll m l) k = x := by
  induction l generalizing m with
  | nil => cases h
  | cons p r ih =>
    obtain ⟨i, y⟩ := p
    rw [spSetAll]
    by_cases hr : (k, x) ∈ r
    · exact ih hr fun z hz => hu z (List.mem_cons_of_mem _ hz)
    · have hp : (k, x) = (i, y) := (List.mem_cons.1 h).resolve_right hr
      obtain ⟨rfl, rfl⟩ := Prod.mk.inj hp
      rw [spGet_spSetAll_other, spGet_spSet_same]
      rintro ⟨j, z⟩ hz rfl
      exact hr (hu z (List.mem_cons_of_mem _ hz) ▸ hz)

/-- The word an element list gives a key, if any. -/
def elemFind (l : List (Nat × W32)) (k : Nat) : Option W32 := (l.find? fun e => e.1 = k).map (·.2)

theorem elemFind_cons (p : Nat × W32) (l : List (Nat × W32)) (k : Nat) : elemFind (p :: l) k = if p.1 = k then some p.2 else elemFind l k := by
  unfold elemFind
  by_cases h : p.1 = k <;> simp [h]

theorem elemFind_elemSet (l : List (Nat × W32)) (i k : Nat) (x : W32) :
    elemFind (elemSet l i x) k = if i = k then some x else elemFind l k := by
  induction l with
  | nil => exact elemFind_cons (i, x) [] k
  | cons p r ih =>
    obtain ⟨j, y⟩ := p
    unfold elemSet
    by_cases hji : j = i
    · subst hji
      rw [if_pos rfl, elemFind_cons, elemFind_cons]
      by_cases h : j = k
      · rw [if_pos h, if_pos h]
      · rw [if_neg h, if_neg h, if_neg h]
    · rw [if_neg hji]
      split
      · exact elemFind_cons (i, x) _ k
      · rw [elemFind_cons, ih, elemFind_cons]
        by_cases h : j = k
        · subst h
          rw [if_pos rfl, if_neg (Ne.symm hji), if_pos rfl]
        · rw [if_neg h, if_neg h]

/-- Elements stored with one word per number. -/
theorem elemFind_foldl_of_mem {ws : List (Nat × W32)} {n : Nat} {x : W32} (h : (n, x) ∈ ws) (hu : ∀ y, (n, y) ∈ ws → y = x)
    (l : List (Nat × W32)) : elemFind (ws.foldl (fun l w => elemSet l w.1 w.2) l) n = some x := by
  have hkeep : ∀ (ws : List (Nat × W32)) (l : List (Nat × W32)), (∀ y, (n, y) ∈ ws → y = x) → elemFind l n = some x →
      elemFind (ws.foldl (fun l w => elemSet l w.1 w.2) l) n = some x := by
    intro ws
    induction ws with
    | nil => exact fun l _ hl => hl
    | cons p r ih =>
      intro l hu hl
      refine ih _ (fun y hy => hu y (List.mem_cons_of_mem _ hy)) ?_
      rw [elemFind_elemSet]
      by_cases hp : p.1 = n
      · rw [if_pos hp, hu p.2 (hp ▸ List.mem_cons_self)]
      · rw [if_neg hp, hl]
  induction ws generalizing l with
  | nil => cases h
  | cons p r ih =>
    rcases List.mem_cons.1 h with rfl | hr
    · refine hkeep r _ (fun y hy => hu y (List.mem_cons_of_mem _ hy)) ?_
      rw [elemFind_elemSet, if_pos rfl]
    · exact ih hr (fun y hy => hu y (List.mem_cons_of_mem _ hy)) _

theorem elemFind_foldl_other {ws : List (Nat × W32)} {n : Nat} (h : ∀ x, (n, x) ∉ ws) (l : List (Nat × W32)) :
    elemFind (ws.foldl (fun l w => elemSet l w.1 w.2) l) n = elemFind l n := by
  induction ws generalizing l with
  | nil => rfl
  | cons p r ih =>
    have hp : p.1 ≠ n := fun hp => h p.2 (hp ▸ List.mem_cons_self)
    rw [List.foldl_cons, ih fun x hx => h x (List.mem_cons_of_mem _ hx), elemFind_elemSet, if_neg hp]

theorem tileElem_eq (t : Tile) (i : Nat) : tileElem t i = (elemFind t.elems i).getD (if t.zeroed then 0 else Config.tileBits t.nonce i) := by
  unfold tileElem elemFind
  cases t.elems.find? fun e => decide (e.1 = i) <;> rfl

/-! ### Tiles (R259) -/

theorem tileAt_id (s : State) (id : Nat) : (tileAt s id).id = id := by
  unfold tileAt
  split
  · next t ht => simpa using List.find?_some ht
  · rfl

theorem tileAt_tilePut_same (s : State) (t : Tile) : tileAt (tilePut s t) t.id = t := by simp [tileAt, tilePut]

theorem tileAt_tilePut_other (s : State) {t : Tile} {id : Nat} (h : id ≠ t.id) : tileAt (tilePut s t) id = tileAt s id := by
  have hf : (s.tiles.filter fun u => decide (u.id ≠ t.id)).find? (fun u => decide (u.id = id)) = s.tiles.find? fun u => decide (u.id = id) := by
    rw [List.find?_filter]
    congr 1
    funext u
    by_cases hu : u.id = id <;> simp [hu, h]
  unfold tileAt tilePut
  dsimp only
  rw [List.find?_cons_of_neg (by simpa using Ne.symm h), hf]

theorem tileAt_tileWrite_same (s : State) (id : Nat) (ws : List (Nat × W32)) :
    tileAt (tileWrite s id ws) id = { tileAt s id with elems := ws.foldl (fun l w => elemSet l w.1 w.2) (tileAt s id).elems } := by
  have h := tileAt_tilePut_same s { tileAt s id with elems := ws.foldl (fun l w => elemSet l w.1 w.2) (tileAt s id).elems }
  rwa [tileAt_id] at h

theorem tileAt_tileWrite_other (s : State) {id i : Nat} (ws : List (Nat × W32)) (h : i ≠ id) : tileAt (tileWrite s id ws) i = tileAt s i :=
  tileAt_tilePut_other s (by rwa [tileAt_id])

/-- A tile written holds the words of the list, and keeps its other elements. -/
theorem tileElem_tileWrite_of_mem (s : State) (id : Nat) {ws : List (Nat × W32)} {n : Nat} {x : W32} (h : (n, x) ∈ ws)
    (hu : ∀ y, (n, y) ∈ ws → y = x) : tileElem (tileAt (tileWrite s id ws) id) n = x := by
  rw [tileAt_tileWrite_same, tileElem_eq, elemFind_foldl_of_mem h hu]
  rfl

theorem tileElem_tileWrite_other (s : State) (id : Nat) {ws : List (Nat × W32)} {n : Nat} (h : ∀ x, (n, x) ∉ ws) :
    tileElem (tileAt (tileWrite s id ws) id) n = tileElem (tileAt s id) n := by
  rw [tileAt_tileWrite_same, tileElem_eq, elemFind_foldl_other h, ← tileElem_eq]

/-! ### Words stored (R80, R83) -/

/-- A store to memory proper: its bytes, and no other. -/
structure StoredBytes (s t : State) (pa : Nat) (bs : List Byte) : Prop where
  bytes : memRead t pa bs.length = bs
  others : ∀ a, (a < pa ∨ pa + bs.length ≤ a) → memGet t a = memGet s a
  link : t.linkUp = s.linkUp

theorem stored_memWrite {s u : State} (hm : u.mem = s.mem) (hr : u.revived = s.revived) (hl : u.linkUp = s.linkUp) (pa : Nat) (bs : List Byte) :
    StoredBytes s (memWrite u pa bs) pa bs :=
  ⟨memRead_memWrite_same _ _ _, fun _ ha => (memGet_memWrite_other _ _ _ ha).trans (memGet_congr hm hr _), hl⟩

theorem stored_writePlace {s : State} {r : Run} (h : plainMemory s r) (bs : List Byte) : StoredBytes s (writePlace s r bs) r.pa bs := by
  have hrun : ∀ f, StoredBytes s (memWrite (onRun s r f) r.pa bs) r.pa bs := fun f =>
    have hrest := onRun_rest s r f
    stored_memWrite (onRun_mem s r f) (congrArg State.revived hrest :) (congrArg State.linkUp hrest :) r.pa bs
  rcases h with ⟨st, d, h⟩ | h | ⟨h, hl⟩ | ⟨cl, co, off, h⟩
  · simpa only [writePlace, h] using hrun _
  · simpa only [writePlace, h] using hrun _
  · have := stored_memWrite (s := s) rfl rfl rfl r.pa bs
    simp only [writePlace, h, hl, if_true]
    exact ⟨this.bytes, this.others, this.link⟩
  · simpa only [writePlace, h] using stored_memWrite (s := s) rfl rfl rfl r.pa bs

/-- The word that a pending tile store gives a destination. -/
def storeWord (tile : Tile) (s : State) (d : Nat × Nat × Nat) : State :=
  match dstRun d with
  | some r => writePlace s r (leBytes (tileElem tile d.1).toNat 4)
  | none => s

@[simp] theorem storeWord_cur (tile : Tile) (s : State) (d : Nat × Nat × Nat) : (storeWord tile s d).cur = s.cur := by
  unfold storeWord
  split
  · simp
  · rfl

/-- A destination in memory proper. -/
def dstPlain (s : State) (d : Nat × Nat × Nat) : Prop :=
  ∃ p, placeOf d.2.1 4 = some p ∧ plainMemory s { pa := d.2.1, len := 4, place := p, leaf := none }

theorem leBytes_length (v n : Nat) : (leBytes v n).length = n := by simp [leBytes]

theorem leBytes_eq (v n : Nat) : leBytes v n = littleEndian v n := by simp [leBytes, littleEndian, Nat.shiftRight_eq_div_pow]

theorem stored_storeWord {tile : Tile} {s : State} {d : Nat × Nat × Nat} (h : dstPlain s d) :
    StoredBytes s (storeWord tile s d) d.2.1 (leBytes (tileElem tile d.1).toNat 4) := by
  obtain ⟨p, hp, hplain⟩ := h
  have hrun : dstRun d = some { pa := d.2.1, len := 4, place := p, leaf := none, pol := d.2.2 } := by simp [dstRun, hp]
  unfold storeWord
  rw [hrun]
  exact stored_writePlace (r := { pa := d.2.1, len := 4, place := p, leaf := none, pol := d.2.2 }) hplain _

theorem dstPlain_congr {s t : State} (h : t.linkUp = s.linkUp) {d : Nat × Nat × Nat} (hd : dstPlain s d) : dstPlain t d := by
  obtain ⟨p, hp, hplain⟩ := hd
  refine ⟨p, hp, ?_⟩
  unfold plainMemory at hplain ⊢
  rwa [h]

/-- A tile's words stored: a byte outside the destinations keeps its value. -/
theorem memGet_storeWords_other {tile : Tile} {dst : List (Nat × Nat × Nat)} {s : State} (h : ∀ d ∈ dst, dstPlain s d) {a : Nat}
    (ha : ∀ d ∈ dst, a < d.2.1 ∨ d.2.1 + 4 ≤ a) : memGet (dst.foldl (storeWord tile) s) a = memGet s a := by
  induction dst generalizing s with
  | nil => rfl
  | cons d r ih =>
    have hd := stored_storeWord (tile := tile) (h d List.mem_cons_self)
    rw [List.foldl_cons, ih (fun e he => dstPlain_congr hd.link (h e (List.mem_cons_of_mem _ he))) fun e he => ha e (List.mem_cons_of_mem _ he)]
    exact hd.others a (by rw [leBytes_length]; exact ha d List.mem_cons_self)

theorem memRead_congr {s t : State} {pa n : Nat} (h : ∀ a, pa ≤ a → a < pa + n → memGet t a = memGet s a) : memRead t pa n = memRead s pa n :=
  List.map_congr_left fun i hi => h (pa + i) (by omega) (by have := List.mem_range.1 hi; omega)

/-- A destination that no other overlaps holds its element. -/
theorem memRead_storeWords {tile : Tile} {dst : List (Nat × Nat × Nat)} {s : State} (h : ∀ d ∈ dst, dstPlain s d) {d : Nat × Nat × Nat}
    (hd : d ∈ dst) (hu : ∀ e ∈ dst, e ≠ d → e.2.1 + 4 ≤ d.2.1 ∨ d.2.1 + 4 ≤ e.2.1) :
    memRead (dst.foldl (storeWord tile) s) d.2.1 4 = littleEndian (tileElem tile d.1).toNat 4 := by
  induction dst generalizing s with
  | nil => cases hd
  | cons e r ih =>
    have he := stored_storeWord (tile := tile) (h e List.mem_cons_self)
    have hr : ∀ x ∈ r, dstPlain (storeWord tile s e) x := fun x hx => dstPlain_congr he.link (h x (List.mem_cons_of_mem _ hx))
    by_cases hdr : d ∈ r
    · exact ih hr hdr fun x hx => hu x (List.mem_cons_of_mem _ hx)
    · obtain rfl := (List.mem_cons.1 hd).resolve_right hdr
      rw [List.foldl_cons]
      have hlater : memRead (r.foldl (storeWord tile) (storeWord tile s d)) d.2.1 4 = memRead (storeWord tile s d) d.2.1 4 := by
        refine memRead_congr fun a hlo hhi => memGet_storeWords_other hr fun x hx => ?_
        have := hu x (List.mem_cons_of_mem _ hx) fun hxd => hdr (hxd ▸ hx)
        omega
      have hbytes := he.bytes
      rw [leBytes_length] at hbytes
      rw [hlater, hbytes, leBytes_eq]

/-! ### The operation leaves the group (R20, R257) -/

/-- Batches that complete change the batch records alone. -/
theorem settleBatches_eq (l : List Batch) : ∀ g : Group, settleBatches g l =
    { g with batches := (settleBatches g l).batches, mbdone := (settleBatches g l).mbdone, merr := (settleBatches g l).merr,
             errOps := (settleBatches g l).errOps } := by
  induction l with
  | nil => exact fun g => rfl
  | cons b r ih =>
    intro g
    unfold settleBatches
    split
    · dsimp only
      rw [ih]
    · rfl

theorem retireOut_eq (o : OutOp) (g : Group) : retireOut o g =
    { g with outs := g.outs.filter fun q => q.seq ≠ o.seq, batches := (retireOut o g).batches, mbdone := (retireOut o g).mbdone,
             merr := (retireOut o g).merr, errOps := (retireOut o g).errOps } := by
  unfold retireOut
  dsimp only
  rw [settleBatches_eq]

/-- The group once operation o has left it: its register results, its flag, its batch. -/
def leaveGroup (o : OutOp) (g : Group) : Group :=
  retireOut o (match o.flag with
    | some i => flagSub (laneSetAll g o.writes) i 1
    | none => laneSetAll g o.writes)

theorem completeLong_eq (o : OutOp) (s : State) : completeLong o s = modCur (performAct s o) (leaveGroup o) := rfl

theorem leaveGroup_eq (o : OutOp) (g : Group) : leaveGroup o g =
    { g with
      lanes := spSetAll g.lanes o.writes
      outs := g.outs.filter fun q => q.seq ≠ o.seq
      flags := match o.flag with | some i => vset g.flags i (vget g.flags i 0 - 1) | none => g.flags
      batches := (leaveGroup o g).batches, mbdone := (leaveGroup o g).mbdone, merr := (leaveGroup o g).merr, errOps := (leaveGroup o g).errOps } := by
  unfold leaveGroup
  rw [retireOut_eq]
  cases o.flag <;> rfl

/-- An operation has left a group that its result has changed only in lane registers and SC operations. -/
theorem retired_leaveGroup {o : OutOp} {g h : Group} (hrest : { h with lanes := g.lanes, scOpen := g.scOpen } = g)
    (hsc : h.scOpen = match o.act with | .accst _ _ => g.scOpen.filter fun e => e.use ≠ .tile o.seq | _ => g.scOpen) :
    Retired o g (leaveGroup o h) := by
  have houts : h.outs = g.outs := (congrArg Group.outs hrest :)
  have hflags : h.flags = g.flags := (congrArg Group.flags hrest :)
  rw [leaveGroup_eq]
  refine ⟨?_, fun k => ?_, hsc, ?_⟩
  · dsimp only
    rw [houts]
  · dsimp only
    rw [hflags]
    cases o.flag with
    | none => rfl
    | some i =>
      dsimp only
      rw [vget_vset]
      by_cases hi : i = k.val
      · subst hi
        simp
      · simp [hi]
  · exact (congrArg (fun u : Group => { u with outs := g.outs, flags := g.flags, batches := g.batches, mbdone := g.mbdone, merr := g.merr, errOps := g.errOps }) hrest :)

theorem laneGet_leaveGroup_of_mem {o : OutOp} {g : Group} {key : Nat} {w : W32} (h : (key, w) ∈ o.writes)
    (hu : ∀ x, (key, x) ∈ o.writes → x = w) : laneGet (leaveGroup o g) key = w := by
  rw [leaveGroup_eq]
  exact spGet_spSetAll_of_mem h hu

theorem laneGet_leaveGroup_other {o : OutOp} {g : Group} {key : Nat} (h : ∀ x, (key, x) ∉ o.writes) :
    laneGet (leaveGroup o g) key = laneGet g key := by
  rw [leaveGroup_eq]
  exact spGet_spSetAll_other _ _ fun p hp hk => h p.2 (hk ▸ hp)

/-! ### The turn of a tile store (R109, R259) -/

/-- The order code under which a pending tile store takes its turn: SC where it is one of the group's SC operations. -/
def tileOrder (o : OutOp) (s : State) : Nat := if (scFind s.cur (.tile o.seq)).isSome then 4 else 0

/-- The state as an operation completes: a tile store takes its place in the SC order. -/
def takeTurn (o : OutOp) (s : State) : State :=
  match o.act with
  | .accst _ _ => scTake s (.tile o.seq) (tileOrder o s) 4 31
  | _ => s

theorem scFind_isSome_iff (g : Group) (u : ScUse) : (scFind g u).isSome = true ↔ ∃ e ∈ g.scOpen, e.use = u := by
  simp [scFind, List.find?_isSome]

theorem scTake_tile (o : OutOp) (s : State) : ∃ p, scTake s (.tile o.seq) (tileOrder o s) 4 31 =
    { s with scLast := p, cur := { s.cur with scOpen := s.cur.scOpen.filter fun e => e.use ≠ .tile o.seq } } := by
  unfold scTake tileOrder
  by_cases h : (scFind s.cur (.tile o.seq)).isSome = true
  · rw [if_pos h]
    exact ⟨_, rfl⟩
  · rw [if_neg h]
    refine ⟨s.scLast, ?_⟩
    have hall : s.cur.scOpen.filter (fun e => decide (e.use ≠ .tile o.seq)) = s.cur.scOpen := by
      rw [scFind_isSome_iff] at h
      refine List.filter_eq_self.2 fun e he => ?_
      simpa using fun hu => h ⟨e, he, hu⟩
    rw [hall]
    rfl

/-- Taking the turn changes the SC order and the group's SC operations alone. -/
theorem takeTurn_eq (o : OutOp) (s : State) : ∃ p, takeTurn o s =
    { s with scLast := p, cur := { s.cur with scOpen := match o.act with
        | .accst _ _ => s.cur.scOpen.filter fun e => e.use ≠ .tile o.seq
        | _ => s.cur.scOpen } } := by
  unfold takeTurn
  split
  · exact scTake_tile o s
  · exact ⟨s.scLast, rfl⟩

theorem takeTurn_keeps (o : OutOp) (s : State) : (takeTurn o s).linkUp = s.linkUp ∧ (∀ id, tileAt (takeTurn o s) id = tileAt s id) ∧
    (∀ t, physTile (takeTurn o s).cur t = physTile s.cur t) ∧ ∀ a, memGet (takeTurn o s) a = memGet s a := by
  obtain ⟨p, ht⟩ := takeTurn_eq o s
  rw [ht]
  exact ⟨rfl, fun _ => rfl, fun _ => rfl, fun _ => rfl⟩

theorem scMay_tile {o : OutOp} {s : State} (h : tileTurn s o) : scMay s (.tile o.seq) (tileOrder o s) 4 31 = true := by
  unfold scMay tileOrder
  by_cases hf : (scFind s.cur (.tile o.seq)).isSome = true
  · obtain ⟨h1, h2, h3⟩ := h ((scFind_isSome_iff _ _).1 hf)
    simp [h1, h2, h3]
  · rw [if_neg hf]
    rfl

/-! ### Completion -/

theorem tilesFree_of_mayComplete {g : Group} {q : Nat} {o : OutOp} {m : Bool} (h : mayComplete g q o m) : tilesFree g o = true := by
  obtain ⟨-, hfree⟩ := h
  simp only [tilesFree, List.all_eq_true]
  intro p hp
  by_cases hs : p.seq < o.seq
  · simpa [hs] using hfree p hp hs
  · simp [hs]

/-- LONG_LATENCY_COMPLETION of the operation it names. -/
theorem exec_longLatencyCompletion {s f : State} {k : GKey} {q : Nat} {g : Group} {o : OutOp} (hg : findGroup s k = some g) (hf : f = focus s k)
    (h : mayComplete f.cur q o false) : exec (.longLatencyCompletion k q) s = .next (focus (tryLong o f) s.cur.key) := by
  have hfind : f.cur.outs.find? (fun o => decide (o.seq = q) && !o.matrix) = some o := by
    rw [← h.1]
    congr 1
    funext p
    cases p.matrix <;> rfl
  show Host.Outcome.next (onGroup k _ s) = _
  rw [onGroup_found hg, ← hf, hfind]

theorem tryLong_ready {s : State} {o : OutOp} (hfree : tilesFree s.cur o = true) (hpref : ∀ ids, o.act = .pref ids → ∀ r ∈ s.reqs, r.slot ∉ ids)
    (hst : ∀ tl dst, o.act = .accst tl dst → (∀ d ∈ dst, dstReady s d = true) ∧ tileTurn s o) : tryLong o s = completeLong o (takeTurn o s) := by
  unfold tryLong
  rw [hfree]
  cases ha : o.act with
  | pref ids =>
    simpa [takeTurn, ha] using fun r hr hm => absurd hm (hpref ids ha r hr)
  | accst tl dst =>
    obtain ⟨hd, ht⟩ := hst tl dst ha
    have hall : dst.all (dstReady s) = true := by simpa using hd
    have hmay := scMay_tile ht
    unfold tileOrder at hmay
    simp [hall, hmay, takeTurn, ha, tileOrder]
  | plain | accz t | accld t ws | accwr t ws | accrd t src | mma op => simp [takeTurn, ha]

theorem mmaWrite_cur (s : State) (g : Group) (op : MmaOp) : (mmaWrite s g op).cur = s.cur := by
  unfold mmaWrite
  refine foldl_keeps State.cur _ (fun t x => ?_) _ s
  rfl

/-- What an operation writes changes, of its group, the lane registers that ACCRD names. -/
theorem performAct_cur (o : OutOp) (s : State) : (performAct s o).cur = match o.act with
    | .accrd t src => laneSetAll s.cur (src.map fun p => (p.1, tileElem (tileAt s (physTile s.cur t)) p.2))
    | _ => s.cur := by
  unfold performAct
  cases o.act with
  | accst t dst => exact foldl_keeps State.cur (storeWord _) (storeWord_cur _) dst s
  | mma op => exact mmaWrite_cur s s.cur op
  | plain | pref ids | accz t | accld t ws | accwr t ws | accrd t src => rfl

theorem performAct_rest (o : OutOp) (s : State) : { (performAct s o).cur with lanes := s.cur.lanes } = s.cur := by
  rw [performAct_cur]
  split <;> rfl

/-- An operation that completes leaves its group as R20, R22 and R257 say. -/
theorem retired_completeLong (o : OutOp) (s : State) : Retired o s.cur (completeLong o (takeTurn o s)).cur := by
  obtain ⟨p, ht⟩ := takeTurn_eq o s
  have hrest := performAct_rest o (takeTurn o s)
  have hcur : (takeTurn o s).cur = _ := congrArg State.cur ht
  rw [hcur] at hrest
  exact retired_leaveGroup (congrArg (fun u : Group => { u with scOpen := s.cur.scOpen }) hrest :) (congrArg Group.scOpen hrest :)

theorem laneGet_completeLong_other {o : OutOp} {s : State} {key : Nat} (hw : ∀ x, (key, x) ∉ o.writes)
    (hsrc : ∀ tl src, o.act = .accrd tl src → ∀ x, (key, x) ∉ src) : laneGet (completeLong o (takeTurn o s)).cur key = laneGet s.cur key := by
  obtain ⟨p, ht⟩ := takeTurn_eq o s
  rw [completeLong_eq, ht]
  refine (laneGet_leaveGroup_other hw).trans ?_
  rw [performAct_cur]
  split
  · next tl src ha =>
    refine spGet_spSetAll_other _ _ fun q hq hk => ?_
    obtain ⟨r, hr, rfl⟩ := List.mem_map.1 hq
    exact hsrc tl src ha r.2 (hk ▸ hr)
  · rfl

/-- A tile store's words go to memory as they stand in the tile. -/
theorem performAct_accst {o : OutOp} {tl : Nat} {dst : List (Nat × Nat × Nat)} (h : o.act = .accst tl dst) (s : State) :
    performAct s o = dst.foldl (storeWord (tileAt s (physTile s.cur tl))) s := by
  unfold performAct
  rw [h]
  rfl

theorem askDst_rest (s : State) (dst : List (Nat × Nat × Nat)) : requestsOff (askDst s dst) = requestsOff s := by
  unfold askDst
  refine foldl_keeps requestsOff _ (fun t l => ?_) _ s
  unfold askWords
  split
  · exact askLine_rest ..
  · exact askHome_rest ..

theorem scAsk_keeps (s : State) (u : ScUse) (order scope : Nat) (t : State) : (scAsk s u order scope t).cur.outs = t.cur.outs ∧
    (scAsk s u order scope t).tiles = t.tiles ∧ ∀ a, memGet (scAsk s u order scope t) a = memGet t a := by
  unfold scAsk
  split <;> exact ⟨rfl, rfl, fun _ => rfl⟩

/-- A tile store that waits asks for its words, and changes nothing else but the group's SC operations. -/
theorem tryLong_waits {o : OutOp} {s : State} {tl : Nat} {dst : List (Nat × Nat × Nat)} (hfree : tilesFree s.cur o = true)
    (ha : o.act = .accst tl dst) (hd : ∃ d ∈ dst, dstReady s d = false) :
    (tryLong o s).cur.outs = s.cur.outs ∧ (tryLong o s).tiles = s.tiles ∧ ∀ a, memGet (tryLong o s) a = memGet s a := by
  have hrest := askDst_rest s dst
  have hall : dst.all (dstReady s) = false := by simpa using hd
  have hask : tryLong o s = scAsk s (.tile o.seq) (tileOrder o s) 4 (askDst s dst) := by simp [tryLong, hfree, ha, hall, tileOrder]
  obtain ⟨houts, htiles, hmem⟩ := scAsk_keeps s (.tile o.seq) (tileOrder o s) 4 (askDst s dst)
  rw [hask]
  exact ⟨houts.trans (congrArg (fun u : State => u.cur.outs) hrest :), htiles.trans (congrArg State.tiles hrest :),
    fun a => (hmem a).trans (memGet_congr (congrArg State.mem hrest :) (congrArg State.revived hrest :) a)⟩

/-- MATRIX_OPERATION_COMPLETE of an operation outside band mode. -/
theorem exec_matrixOperationComplete {s f : State} {k : GKey} {q : Nat} {g : Group} {o : OutOp} (hg : findGroup s k = some g)
    (hf : f = focus s k) (hgf : g = f.cur) (h : mayComplete f.cur q o true) (hb : o.band = none) :
    exec (.matrixOperationComplete k q) s = .next (focus (modCur (performAct f o) (retireOut o)) s.cur.key) := by
  have hfind : g.outs.find? (fun o => decide (o.seq = q) && o.matrix) = some o := by
    rw [hgf, ← h.1]
    congr 1
    funext p
    cases p.matrix <;> rfl
  have hsome : (findGroup s k).bind (fun g => (g.outs.find? fun o => decide (o.seq = q) && o.matrix).map fun o => (g, o)) = some (g, o) := by
    rw [hg, Option.bind_some, hfind, Option.map_some]
  show execMatrixOperationComplete k q s = _
  unfold execMatrixOperationComplete
  rw [hsome]
  dsimp only
  rw [hb]
  dsimp only
  rw [hgf, tilesFree_of_mayComplete h, if_pos rfl, onGroup_found hg, ← hf]
  rfl

/-- An operation without a flag of its own and without register results leaves its group through its batch alone. -/
theorem retired_retireOut {o : OutOp} {g h : Group} (hfl : o.flag = none) (hst : ∀ tl dst, o.act ≠ .accst tl dst) (hh : h = g) :
    Retired o g (retireOut o h) := by
  have hsc : g.scOpen = match o.act with | .accst _ _ => g.scOpen.filter fun e => e.use ≠ .tile o.seq | _ => g.scOpen := by
    split
    · next tl dst ha => exact absurd ha (hst tl dst)
    · rfl
  have hret := retired_leaveGroup (o := { o with writes := [] }) (g := g) (h := g) rfl hsc
  have hleave : leaveGroup { o with writes := [] } g = retireOut o g := by
    unfold leaveGroup
    rw [hfl]
    rfl
  rw [hleave] at hret
  rw [hh]
  exact ⟨hret.outs, hret.flags, hret.order, hret.rest⟩

/-- Settles O32: each operation completes in one step (`tryLong_ready`), which leaves the group as `retired_completeLong` says and writes what
its kind writes. -/
theorem completion : Obligations.Completion := by
  intro s k q g f o hg hf
  refine ⟨fun hm hpref hst => ?_, fun hm ids ha hr => ?_, fun hm tl dst ha hd => ?_, fun hm hgf hb hfl tl ha => ?_⟩
  · rw [exec_longLatencyCompletion hg hf hm, tryLong_ready (tilesFree_of_mayComplete hm) hpref hst]
    refine ⟨_, rfl, retired_completeLong o f, fun key w hw hu => laneGet_leaveGroup_of_mem hw hu,
      fun key hw hsrc => laneGet_completeLong_other hw hsrc, fun ha => ?_, fun tl ws ha => ?_, fun tl dst ha hw hplain => ?_, fun tl src ha hw => ?_⟩
    · have hact : performAct (takeTurn o f) o = f := by rcases ha with ha | ⟨ids, ha⟩ <;> simp [takeTurn, performAct, ha]
      rw [completeLong_eq, hact]
      rfl
    · have hact : performAct (takeTurn o f) o = tileWrite f (physTile f.cur tl) ws := by
        rcases ha with ha | ha <;> simp [takeTurn, performAct, ha]
      rw [completeLong_eq, hact]
      exact ⟨fun n w hw hu => tileElem_tileWrite_of_mem f _ hw hu, fun n hn => tileElem_tileWrite_other f _ hn,
        fun id hid => tileAt_tileWrite_other f ws hid, rfl⟩
    · obtain ⟨hlink, htile, hphys, hmem⟩ := takeTurn_keeps o f
      have hpl : ∀ d ∈ dst, dstPlain (takeTurn o f) d := fun d hd => dstPlain_congr hlink (hplain d hd)
      rw [completeLong_eq, performAct_accst ha, htile, hphys]
      exact ⟨fun d hd hu => memRead_storeWords hpl hd hu, fun a hout => (memGet_storeWords_other hpl hout).trans (hmem a)⟩
    · have hact : performAct (takeTurn o f) o = modCur f fun u => laneSetAll u (src.map fun p => (p.1, tileWord f f.cur tl p.2)) := by
        simp [takeTurn, performAct, ha, tileWord]
      rw [completeLong_eq, hact]
      refine ⟨fun key n hn hu => (laneGet_leaveGroup_other (by simp [hw])).trans ?_, rfl⟩
      refine spGet_spSetAll_of_mem (List.mem_map.2 ⟨_, hn, rfl⟩) fun y hy => ?_
      obtain ⟨⟨i, x⟩, hp, he⟩ := List.mem_map.1 hy
      obtain ⟨rfl, rfl⟩ := Prod.mk.inj he
      rw [hu x hp]
  · have hwait : tryLong o f = f := by
      have hany : ∃ x ∈ f.reqs, x.slot ∈ ids := hr
      simp [tryLong, tilesFree_of_mayComplete hm, ha, hany]
    rw [exec_longLatencyCompletion hg hf hm, hwait]
  · exact ⟨_, exec_longLatencyCompletion hg hf hm, tryLong_waits (tilesFree_of_mayComplete hm) ha hd⟩
  · have hst : ∀ tl dst, o.act ≠ .accst tl dst := by simp [ha]
    have hact : performAct f o = tilePut f { id := physTile f.cur tl, zeroed := true, nonce := 0, elems := [] } := by
      simp [performAct, ha]
    rw [exec_matrixOperationComplete hg hf hgf hm hb, hact]
    refine ⟨_, rfl, retired_retireOut hfl hst rfl, ?_, fun n => ?_, fun id hid => tileAt_tilePut_other f hid⟩
    · exact (congrArg Group.lanes (retireOut_eq o f.cur) :)
    · exact congrArg (fun t => tileElem t n) (tileAt_tilePut_same f { id := physTile f.cur tl, zeroed := true, nonce := 0, elems := [] })

end Sys2Proof.Machine
end

section
/-! How long-latency and matrix instructions issue, and the frame of a matrix instruction (R20, R28, R252, R254, R257, R295). -/
namespace Sys2Proof.Machine

open Sys2Proof.Claims

/-! ### Issue (R20, R254, R257) -/

/-- A long-latency instruction issues: its operation is outstanding, its flag counts it, and the clause moves on. -/
theorem longIssued_issueLong {s : State} {v : LaneEnv} (hr : running s.cur = some v.e) (returning : Bool) (tiles : List Nat)
    (writes : List (Nat × W32)) (act : OutAct) :
    LongIssued v (longOp s v returning tiles writes act) s (issueLong returning tiles writes act s) := by
  have hissue : issueLong returning tiles writes act s = modCur s fun g => stepClause
      { (match attachFlag v.e returning with | some i => flagAdd g i 1 | none => g) with
        outs := g.outs ++ [longOp s v returning tiles writes act], nextSeq := g.nextSeq + 1 } := by
    unfold issueLong
    rw [hr]
    cases h : attachFlag v.e returning
    · simp only [modCur, longOp, h]
    · simp only [modCur, longOp, h]
      rfl
  rw [hissue]
  unfold modCur
  constructor
  · dsimp only
    rw [stepClause_eq]
  · dsimp only
    rw [stepClause_eq]
  · have hop : (longOp s v returning tiles writes act).flag = attachFlag v.e returning := rfl
    rw [hop]
    refine clauseMoved_stepClause ?_ rfl rfl
    cases attachFlag v.e returning <;> exact hr
  · dsimp only
    rw [stepClause_eq]
    cases attachFlag v.e returning <;> rfl

/-- A matrix instruction issues into the group's open batch, and the clause moves on. -/
theorem matrixIssued_issueMatrix {s : State} {v : LaneEnv} (hr : running s.cur = some v.e) (tiles : List Nat) (act : OutAct) (band : Bool) :
    MatrixIssued v { seq := s.cur.nextSeq, matrix := true, flag := none, tiles, writes := [], act,
                     band := if band then some s.cur.bandOps else none } s (issueMatrix tiles act band s) := by
  unfold issueMatrix modCur
  constructor
  · dsimp only
    rw [stepClause_eq]
  · exact ⟨rfl, rfl, rfl, rfl⟩
  · dsimp only
    rw [stepClause_eq]
    exact ⟨rfl, rfl⟩
  · dsimp only
    rw [stepClause_eq]
    cases band <;> simp
  · exact clauseMoved_stepClause hr rfl rfl
  · dsimp only
    rw [stepClause_eq]

/-! ### The frame (R28, R252, R295) -/

theorem matrixConverged_iff (p : PredSel) (e : QEntry) :
    matrixConverged p e = true ↔ p.neg = false ∧ p.num = 0 ∧ e.mask = 0xFFFFFFFF := by
  simp [matrixConverged, and_assoc]

section
variable {s : State} {e : QEntry} {early : LaneEnv → State → Option (Nat × W64)} {i : Instr} {p : PredSel} {pre : State → Option W64}
  {ps : List OpPos} {body : LaneEnv → State → State} (hr : running s.cur = some e) (hl : legalAt e.fmt i = true)
include hr hl

/-- The checks of a matrix instruction come first. -/
theorem withMatrix_pre {tv : W64} (h : pre s = some tv) : withMatrixEarly early i p pre ps body s = laneTrap s 0x01 tv := by
  simp [withMatrixEarly, hr, hl, h]

variable (hp : pre s = none)
include hp

theorem withMatrix_diverged (h : matrixConverged p e = false) : withMatrixEarly early i p pre ps body s = laneTrap s 0x02 0 := by
  simp [withMatrixEarly, hr, hl, hp, h]

variable (hc : matrixConverged p e = true)
include hc

theorem withMatrix_handler (hh : s.cur.handler = true) (hm : s.cur.msaved = false) :
    withMatrixEarly early i p pre ps body s = laneTrap s 0x13 0 := by
  simp [withMatrixEarly, hr, hl, hp, hc, hh, hm]

/-- A matrix instruction that no check stops fills its granules and runs. -/
theorem withMatrix_runs {s1 : State} (hh : s.cur.handler = true → s.cur.msaved = true)
    (hb : badPosition s.cur (actLanes (noHelp (laneEnv s.cur e p))) ps = none)
    (hf : ∀ k ∈ destKeys s.cur (actLanes (noHelp (laneEnv s.cur e p))) ps, isPending s.cur k = false)
    (he : early (noHelp (laneEnv s.cur e p)) s = none)
    (hs : fillGranules s (fillOwn ps s.cur (noHelp (laneEnv s.cur e p))) = .ok s1) :
    withMatrixEarly early i p pre ps body s = body (noHelp (laneEnv s.cur e p)) s1 := by
  have hany : (destKeys s.cur (actLanes (noHelp (laneEnv s.cur e p))) ps).any (isPending s.cur) = false := by simpa using hf
  have hhand : (s.cur.handler && !s.cur.msaved) = false := by
    cases hx : s.cur.handler
    · rfl
    · simp [hh hx]
  have hlv : legalAt (noHelp (laneEnv s.cur e p)).e.fmt i = true := hl
  simp only [withMatrixEarly, hr, hl, hp, hc, hhand, withEarly, hlv, hb, hany, he, hs, Bool.not_true, Bool.false_eq_true, if_false]

end

/-! ### Where a matrix instruction may issue -/

/-- Under the full mask no lane is a helper (R27). -/
theorem helpers_of_full {g : Group} {e : QEntry} {p : PredSel} (h : e.mask = 0xFFFFFFFF) : noHelp (laneEnv g e p) = laneEnv g e p := by
  have hn : helperLanes e = 0 := by
    unfold helperLanes
    rw [h]
    split
    · exact BitVec.zero_and
    · rfl
  simp [noHelp, laneEnv, hn]

theorem tilesPre_none {t q : Nat} {s : State} (h : t + q ≤ s.cur.tiles.length) : tilesPre t q s = none := if_pos h

section
variable {s s1 : State} {i : Instr} {m : MatParts} {v : LaneEnv} (h : MatReady s i m v s1)
include h

theorem running_of_matReady : running s1.cur = some v.e := by
  rw [running_congr (fillGranules_cur h.fill).1, h.clause]

/-- A matrix instruction that may issue runs its body in the state with its granules filled. -/
theorem exec_of_matReady {early : LaneEnv → State → Option (Nat × W64)} {pre : State → Option W64} {body : LaneEnv → State → State}
    (hx : exec i s = .next (withMatrixEarly early i m.pr pre m.ps body s)) (hp : pre s = none) (he : early v s = none) :
    exec i s = .next (body v s1) := by
  have hv : v = noHelp (laneEnv s.cur v.e m.pr) := h.env
  obtain ⟨hneg, hnum⟩ := h.pred
  have hb := h.range
  have hf := h.free
  have hs : fillGranules s (fillOwn m.ps s.cur v) = .ok s1 := h.fill
  rw [← helpers_of_full h.full, ← hv] at hb
  rw [hx, withMatrix_runs h.clause h.legal hp ((matrixConverged_iff _ _).2 ⟨hneg, hnum, h.full⟩) h.handler (by rwa [← hv]) (by rwa [← hv])
    (by rwa [← hv]) (by rwa [← hv]), ← hv]

end

end Sys2Proof.Machine
end

section
/-! What the matrix instructions name: captured slots, elements of rows, words of memory (R249, R254, R261, R262). -/
namespace Sys2Proof.Machine

open Sys2Proof.Claims

/-! ### Keys of several lanes -/

/-- Lists that name different lanes name different keys. -/
theorem nodup_flatMap_of_tag {lanes : List Nat} {f : Nat → List Nat} (tag : Nat → Nat) (hl : lanes.Nodup)
    (ht : ∀ l ∈ lanes, ∀ k ∈ f l, tag k = l) (hn : ∀ l ∈ lanes, (f l).Nodup) : (lanes.flatMap f).Nodup := by
  refine List.nodup_flatMap.2 ⟨hn, hl.imp_of_mem fun {a b} ha hb hab k hka hkb => hab ?_⟩
  rw [← ht a ha k hka, ht b hb k hkb]

theorem lanesOf_nodup (m : W32) : (lanesOf m).Nodup := List.nodup_range.filter _

theorem lt_of_mem_lanesOf {m : W32} {l : Nat} (h : l ∈ lanesOf m) : l < 32 := (mem_lanesOf.1 h).1

/-- The keys of an operand are different slots of one lane. -/
theorem opndKeys_eq (g : Group) (o : Opnd) (n l : Nat) :
    ∃ slots : List Nat, slots.Nodup ∧ slots.length ≤ max n 1 ∧ opndKeys g o n l = slots.map fun k => laneKey k l := by
  have hrange : ∀ b : Nat, ∃ slots : List Nat, slots.Nodup ∧ slots.length ≤ max n 1 ∧
      ((List.range n).map fun j => laneKey (b + j) l) = slots.map fun k => laneKey k l := fun b =>
    ⟨(List.range n).map (b + ·), List.nodup_range.map fun _ _ h => Nat.add_left_cancel h, by simp, by simp⟩
  have hmain : ∀ o : Opnd, ∃ slots : List Nat, slots.Nodup ∧ slots.length ≤ max n 1 ∧
      (match mainSlot g o l with | some b => (List.range n).map fun j => laneKey (b.toNat + j) l | none => []) =
        slots.map fun k => laneKey k l := by
    intro o
    cases mainSlot g o l with
    | none => exact ⟨[], List.nodup_nil, by simp, rfl⟩
    | some b => exact hrange b.toNat
  cases o with
  | c i =>
    obtain ⟨slots, hn, hle, he⟩ := hrange (256 + i.toNat)
    exact ⟨slots, hn, hle, by simpa [opndKeys, cKey, Nat.add_assoc] using he⟩
  | y i => exact ⟨[264 + i.toNat], List.nodup_singleton _, by simp, rfl⟩
  | v i => exact hmain (.v i)
  | vx i off => exact hmain (.vx i off)
  | s i => exact hmain (.s i)
  | imm i => exact hmain (.imm i)
  | p neg i => exact hmain (.p neg i)
  | spec i => exact hmain (.spec i)

theorem opndKeys_nodup (g : Group) (o : Opnd) (n l : Nat) : (opndKeys g o n l).Nodup := by
  obtain ⟨slots, hn, -, he⟩ := opndKeys_eq g o n l
  rw [he]
  exact hn.map fun a b h => by unfold laneKey at h; omega

theorem opndKeys_length_le (g : Group) (o : Opnd) (n l : Nat) : (opndKeys g o n l).length ≤ max n 1 := by
  obtain ⟨slots, -, hle, he⟩ := opndKeys_eq g o n l
  rw [he, List.length_map]
  exact hle

theorem mod_of_mem_opndKeys {g : Group} {o : Opnd} {n l k : Nat} (hl : l < 32) (h : k ∈ opndKeys g o n l) : k % 32 = l := by
  obtain ⟨slots, -, -, he⟩ := opndKeys_eq g o n l
  rw [he] at h
  obtain ⟨i, -, rfl⟩ := List.mem_map.1 h
  unfold laneKey
  omega

/-! ### Captured slots (R254) -/

theorem spGet_filterMap {w : Nat} (f : Nat → BitVec w) (l : List Nat) (k : Nat) :
    spGet (l.filterMap fun i => if f i = 0 then none else some (i, f i)) k = if k ∈ l then f k else 0 := by
  induction l with
  | nil => rfl
  | cons i r ih =>
    by_cases hf : f i = 0
    · simp only [List.filterMap_cons, if_pos hf, ih]
      by_cases hk : k = i
      · subst hk
        simp [hf]
      · simp [hk]
    · simp only [List.filterMap_cons, if_neg hf, spGet, ih]
      by_cases hk : i = k
      · subst hk
        simp
      · simp [hk, Ne.symm hk]

/-- A slot captured at issue is what the lane's register read then. -/
theorem spGet_captureSlots (s : State) {first n j l : Nat} (hj : j < n) (hl : l < 32) :
    spGet (captureSlots s first n) (j * 32 + l) = laneRead s ((first + j) * 32 + l) := by
  have hmem : j * 32 + l ∈ List.range (n * 32) := List.mem_range.2 (by omega)
  have h := spGet_filterMap (fun i => laneRead s (laneKey first 0 + i)) (List.range (n * 32)) (j * 32 + l)
  rw [if_pos hmem] at h
  refine h.trans ?_
  unfold laneKey
  congr 1
  ring

/-! ### Elements of rows (R262) -/

theorem accElem_nodup (row l : Nat) : ((List.range 4).map (accElem row l)).Nodup :=
  List.nodup_range.map fun a b h => by unfold accElem at h; omega

/-- ACCRD's destinations and the elements they take. -/
def accrdSrc (s : State) (v : LaneEnv) (x : LaForm) : List (Nat × Nat) :=
  (lanesOf v.active).flatMap fun l => (opndKeys s.cur x.d 4 l).zip ((List.range 4).map (accElem (accRow s v x.a l) l))

theorem map_fst_accrdSrc (s : State) (v : LaneEnv) (x : LaForm) :
    (accrdSrc s v x).map (·.1) = (lanesOf v.active).flatMap fun l => opndKeys s.cur x.d 4 l := by
  unfold accrdSrc
  rw [List.map_flatMap]
  refine List.flatMap_congr fun l _ => ?_
  exact List.map_fst_zip (by simpa using opndKeys_length_le s.cur x.d 4 l)

theorem accrdSrc_writesOnly (s : State) (v : LaneEnv) (x : LaForm) : writesOnly (accrdSrc s v x) s.cur x.d 4 (lanesOf v.active) := by
  constructor
  · rw [map_fst_accrdSrc]
    exact nodup_flatMap_of_tag (· % 32) (lanesOf_nodup _) (fun l hl k hk => mod_of_mem_opndKeys (lt_of_mem_lanesOf hl) hk)
      fun l _ => opndKeys_nodup _ _ _ _
  · intro p hp
    have h : p.1 ∈ (accrdSrc s v x).map (·.1) := List.mem_map_of_mem hp
    rw [map_fst_accrdSrc] at h
    exact List.mem_flatMap.1 h

theorem mem_zip_of_getElem? {α β : Type} {l : List α} {r : List β} {j : Nat} {a : α} {b : β} (ha : l[j]? = some a) (hb : r[j]? = some b) :
    (a, b) ∈ l.zip r := List.mem_of_getElem? (List.getElem?_zip_eq_some.2 ⟨ha, hb⟩)

theorem mem_accrdSrc {s : State} {v : LaneEnv} {x : LaForm} {l j key : Nat} (hl : l ∈ lanesOf v.active) (hj : j < 4)
    (hk : (opndKeys s.cur x.d 4 l)[j]? = some key) : (key, readSlots s v x.a 1 none l % 32 * 128 + l + 32 * j) ∈ accrdSrc s v x :=
  List.mem_flatMap.2 ⟨l, hl, mem_zip_of_getElem? hk (by simp [hj, accElem, accRow])⟩

/-- ACCWR's elements and the words they take. -/
def accwrWords (s : State) (v : LaneEnv) (x : LaForm) : List (Nat × W32) :=
  (lanesOf v.active).flatMap fun l =>
    ((List.range 4).map (accElem (accRow s v x.b l) l)).zip (splitSlots (readSlots s v x.a 4 (some .f32) l) 4)

theorem map_fst_accwrWords (s : State) (v : LaneEnv) (x : LaForm) :
    (accwrWords s v x).map (·.1) = (lanesOf v.active).flatMap fun l => (List.range 4).map (accElem (accRow s v x.b l) l) := by
  unfold accwrWords
  rw [List.map_flatMap]
  refine List.flatMap_congr fun l _ => ?_
  exact List.map_fst_zip (by simp [splitSlots])

theorem accwrWords_nodup (s : State) (v : LaneEnv) (x : LaForm) : ((accwrWords s v x).map (·.1)).Nodup := by
  rw [map_fst_accwrWords]
  refine nodup_flatMap_of_tag (· % 32) (lanesOf_nodup _) (fun l hl k hk => ?_) fun l _ => accElem_nodup _ _
  obtain ⟨i, -, rfl⟩ := List.mem_map.1 hk
  have := lt_of_mem_lanesOf hl
  unfold accElem
  omega

theorem exists_of_mem_accwrWords {s : State} {v : LaneEnv} {x : LaForm} {p : Nat × W32} (hp : p ∈ accwrWords s v x) :
    ∃ l ∈ lanesOf v.active, ∃ j < 4, p.1 = readSlots s v x.b 1 none l % 32 * 128 + l + 32 * j := by
  have h : p.1 ∈ (accwrWords s v x).map (·.1) := List.mem_map_of_mem hp
  rw [map_fst_accwrWords] at h
  obtain ⟨l, hl, hk⟩ := List.mem_flatMap.1 h
  obtain ⟨j, hj, he⟩ := List.mem_map.1 hk
  exact ⟨l, hl, j, List.mem_range.1 hj, he.symm⟩

theorem mem_accwrWords {s : State} {v : LaneEnv} {x : LaForm} {l j : Nat} (hl : l ∈ lanesOf v.active) (hj : j < 4) :
    (readSlots s v x.b 1 none l % 32 * 128 + l + 32 * j, BitVec.ofNat 32 (readSlots s v x.a 4 (some .f32) l / 2 ^ (32 * j))) ∈
      accwrWords s v x :=
  List.mem_flatMap.2 ⟨l, hl, mem_zip_of_getElem? (j := j) (by simp [hj, accElem, accRow]) (by simp [splitSlots, hj, Nat.shiftRight_eq_div_pow])⟩

end Sys2Proof.Machine
end

section
/-! The rows that lanes of a tile load or store reach: their bytes, their words, and what their walks leave (R85 to R89, R261). -/
namespace Sys2Proof.Machine

open Sys2Proof.Claims

/-! ### The bytes of an access -/

/-- The bytes that runs cover. -/
def runsLen (rs : List Run) : Nat := (rs.map (·.len)).sum

theorem runsFrom_cons {s : State} {a : Actor} {k : Access} {fuel : Nat} {va : W64} {n : Nat} {rs : List Run} (hn : n ≠ 0)
    (h : runsFrom s a k (fuel + 1) va n = .ok rs) : ∃ r rs', rs = r :: rs' ∧ r.len = min n (4096 - va.toNat % 4096) ∧
      runsFrom s a k fuel (va + BitVec.ofNat 64 r.len) (n - r.len) = .ok rs' := by
  unfold runsFrom at h
  rw [if_neg hn] at h
  dsimp only at h
  split at h
  · cases h
  · split at h
    · cases h
    · split at h
      · cases h
      · next hr =>
        cases h
        exact ⟨_, _, rfl, rfl, hr⟩

/-- Pages enough for an access, its runs cover its bytes. -/
theorem runsLen_runsFrom {s : State} {a : Actor} {k : Access} : ∀ {fuel : Nat} {va : W64} {n : Nat} {rs : List Run},
    runsFrom s a k fuel va n = .ok rs → (n = 0 ∨ n + va.toNat % 4096 ≤ 4096 * fuel) → runsLen rs = n := by
  intro fuel
  induction fuel with
  | zero =>
    intro va n rs h hn
    cases h
    have hn0 : n = 0 := by omega
    exact hn0.symm
  | succ fuel ih =>
    intro va n rs h hn
    by_cases h0 : n = 0
    · subst h0
      cases h
      rfl
    · obtain ⟨r, rs', rfl, hlen, hr⟩ := runsFrom_cons h0 h
      have hoff : va.toNat % 4096 < 4096 := Nat.mod_lt _ (by omega)
      have hva : (va + BitVec.ofNat 64 r.len).toNat % 4096 = (va.toNat + r.len) % 4096 := by
        rw [BitVec.toNat_add, BitVec.toNat_ofNat]
        omega
      have hrest := ih hr (by rw [hva]; omega)
      have hcons : runsLen (r :: rs') = r.len + runsLen rs' := by simp [runsLen]
      omega

theorem runsLen_runs {s : State} {a : Actor} {k : Access} {va : W64} {n : Nat} {rs : List Run} (h : runs s a k va n = .ok rs) :
    runsLen rs = n :=
  runsLen_runsFrom h (.inr (by omega))

theorem runsLen_spaceRuns {s : State} {space : Nat} {k : Access} {ea : W64} {n : Nat} {rs : List Run} (h : spaceRuns s space k ea n = .ok rs) :
    runsLen rs = n := by
  unfold spaceRuns at h
  split at h
  · exact runsLen_runs h
  · split at h
    · cases h
      simp [runsLen, crewRun]
    · cases h
  · split at h
    · cases h
    · split at h
      · cases h
      · dsimp only at h
        split at h
        · cases h
          simp [runsLen, crewRun]
        · cases h
  · cases h
    simp [runsLen]

/-- A lane's checked access covers its bytes. -/
theorem runsLen_laneCheck {f : State → Run → Option XErr} {k : Access} {s : State} {space al n : Nat} {ea : W64} {rs : List Run}
    (h : laneCheck f k s space al n ea = .ok rs) : runsLen rs = n := by
  unfold laneCheck at h
  split at h
  · cases h
  · split at h
    · cases h
    · unfold checkedRuns at h
      split at h
      · cases h
      · next hs =>
        split at h
        · cases h
        · cases h
          exact runsLen_spaceRuns hs

/-- The words of runs, in order, with the policies of their pages. -/
def runWords (rs : List Run) : List (Nat × Nat) := rs.flatMap fun r => (List.range (r.len / 4)).map fun i => (r.pa + 4 * i, r.pol)

/-- Runs of whole words are their words in order. -/
theorem byteAddress_runWords {rs : List Run} (h : ∀ r ∈ rs, r.len % 4 = 0) (j : Nat) :
    byteAddress rs (4 * j) = (runWords rs)[j]?.map (·.1) := by
  induction rs generalizing j with
  | nil => rfl
  | cons r rs ih =>
    have h4 := h r List.mem_cons_self
    have hcons : runWords (r :: rs) = ((List.range (r.len / 4)).map fun i => (r.pa + 4 * i, r.pol)) ++ runWords rs := rfl
    rw [byteAddress, hcons]
    by_cases hj : 4 * j < r.len
    · have hj' : j < r.len / 4 := by omega
      rw [if_pos hj, List.getElem?_append_left (by simpa using hj')]
      simp [hj']
    · rw [if_neg hj, List.getElem?_append_right (by simp; omega), show 4 * j - r.len = 4 * (j - r.len / 4) by omega,
        ih fun q hq => h q (List.mem_cons_of_mem _ hq)]
      simp

theorem runWords_length {rs : List Run} (h : ∀ r ∈ rs, r.len % 4 = 0) : 4 * (runWords rs).length = runsLen rs := by
  induction rs with
  | nil => rfl
  | cons r rs ih =>
    have h4 := h r List.mem_cons_self
    have hr := ih fun q hq => h q (List.mem_cons_of_mem _ hq)
    have hcons : (runWords (r :: rs)).length = r.len / 4 + (runWords rs).length := by simp [runWords]
    have hlen : runsLen (r :: rs) = r.len + runsLen rs := by simp [runsLen]
    omega

/-- The words that runs hold in a state. -/
theorem take_drop_memRead {u : State} {pa n k : Nat} (h : k + 4 ≤ n) : ((memRead u pa n).drop k).take 4 = memRead u (pa + k) 4 := by
  apply List.ext_getElem
  · simp
    omega
  · intro i h1 h2
    simp [memRead, Nat.add_assoc]

theorem areaNat_runs {u : State} {rs : List Run} (h : ∀ r ∈ rs, r.len % 4 = 0) : ∀ {j a : Nat}, byteAddress rs (4 * j) = some a →
    areaNat (rs.flatMap fun r => memRead u r.pa r.len) (4 * j) 4 = leValue (memRead u a 4) := by
  unfold areaNat
  induction rs with
  | nil =>
    intro j a ha
    cases ha
  | cons r rs ih =>
    intro j a ha
    have h4 := h r List.mem_cons_self
    rw [byteAddress] at ha
    rw [List.flatMap_cons]
    by_cases hj : 4 * j < r.len
    · rw [if_pos hj] at ha
      cases ha
      rw [List.drop_append_of_le_length (by simp; omega), List.take_append_of_le_length (by simp; omega), take_drop_memRead (by omega)]
    · rw [if_neg hj] at ha
      have hsub : 4 * j - r.len = 4 * (j - r.len / 4) := by omega
      have hlen : (memRead u r.pa r.len).length = r.len := memRead_length _ _ _
      rw [List.drop_append, List.drop_eq_nil_of_le (by omega), List.nil_append, hlen, hsub]
      exact ih (fun q hq => h q (List.mem_cons_of_mem _ hq)) (hsub ▸ ha)

/-! ### What the walks of an access leave (R87 to R89) -/

theorem memGet_markLeaf_other (s : State) (k : Access) (l : Leaf) {a : Nat} (h : a < l.at_ ∨ l.at_ + 8 ≤ a) :
    memGet (markLeaf s k l) a = memGet s a := by
  unfold markLeaf
  dsimp only
  split
  · rfl
  · unfold memGet
    dsimp only
    rw [spGet_memPut_other _ _ _ _ (by rw [leBytes_length]; exact h)]

/-- A walk marks the leaf entries of its runs, and no other byte. -/
theorem memGet_touchRuns_other (a : Actor) (k : Access) (rs : List Run) : ∀ (s : State) (va : W64) {x : Nat}, ¬ leafByte rs x →
    memGet (touchRuns s a k va rs) x = memGet s x := by
  induction rs with
  | nil => exact fun _ _ _ _ => rfl
  | cons r rs ih =>
    intro s va x hx
    have hrs : ¬ leafByte rs x := fun ⟨q, hq, h⟩ => hx ⟨q, List.mem_cons_of_mem _ hq, h⟩
    refine (ih _ _ hrs).trans ?_
    have hcount : ∀ u : State, memGet (countHeat u r.pa) x = memGet u x := fun u =>
      memGet_congr (countHeat_mem u r.pa) (congrArg State.revived (countHeat_rest u r.pa) :) x
    refine (hcount _).trans ?_
    cases hl : r.leaf with
    | none => rfl
    | some l =>
      refine (memGet_congr (cacheLeaf_mem _ _ _ _ _) (congrArg State.revived (cacheLeaf_rest _ _ _ _ _) :) x).trans ?_
      refine memGet_markLeaf_other s k l ?_
      by_contra hin
      exact hx ⟨r, List.mem_cons_self, l, hl, by omega⟩

end Sys2Proof.Machine
end

section
/-! Tile loads and stores at issue: the words loaded, the destinations stored to, and what their walks leave (R259, R261). -/
namespace Sys2Proof.Machine

open Sys2Proof.Claims

/-! ### Loads by lanes -/

/-- The state but for memory, cached translations, counts of accesses and coherence records. -/
def accessOff (t : State) : State := { t with mem := [], tlb := [], heat := [], dir := [] }

theorem accessOff_of_walkOff {s t : State} (h : walkOff t = walkOff s) : accessOff t = accessOff s :=
  congrArg (fun u : State => { u with dir := [] }) h

theorem touchRuns_accessOff (s : State) (a : Actor) (k : Access) (va : W64) (rs : List Run) :
    accessOff (touchRuns s a k va rs) = accessOff s := accessOff_of_walkOff (touchRuns_rest a k rs s va)

theorem readMarks_rest (rs : List Run) (s : State) : dirOff (rs.foldl readMark s) = dirOff s :=
  foldl_keeps dirOff readMark (fun t r => onRun_rest t r _) rs s

/-- A load leaves what accesses leave, and no byte but those of page-table entries changes. -/
theorem loadRuns_keeps (s : State) (ea : W64) (rs : List Run) : accessOff (loadRuns s ea rs).2 = accessOff s ∧
    ∀ x, ¬ leafByte rs x → memGet (loadRuns s ea rs).2 x = memGet s x := by
  have hmarks := readMarks_rest rs (touchRuns s (accActor s ea) .load ea rs)
  have hacc : accessOff (loadRuns s ea rs).2 = accessOff (touchRuns s (accActor s ea) .load ea rs) :=
    congrArg (fun u : State => { u with mem := [], tlb := [], heat := [] }) hmarks
  refine ⟨hacc.trans (touchRuns_accessOff ..), fun x hx => ?_⟩
  refine (memGet_congr (congrArg State.mem hmarks :) (congrArg State.revived hmarks :) x).trans ?_
  exact memGet_touchRuns_other _ _ _ _ _ hx

theorem readPlace_plain {s u : State} {r : Run} (h : plainMemory s r) : readPlace u r = memRead u r.pa r.len := by
  rcases h with ⟨st, d, h⟩ | h | ⟨h, -⟩ | ⟨cl, co, off, h⟩ <;> simp [readPlace, h]

/-- The bytes of all lanes' runs that walks may mark. -/
theorem not_leafByte_of_mem {accs : List LaneAcc} {a : LaneAcc} {x : Nat} (ha : a ∈ accs) (hx : ¬ leafByte (accs.flatMap accRuns) x) :
    ¬ leafByte (accRuns a) x := fun ⟨r, hr, h⟩ => hx ⟨r, List.mem_flatMap.2 ⟨a, ha, hr⟩, h⟩

theorem not_leafByte_tail {a : LaneAcc} {accs : List LaneAcc} {x : Nat} (hx : ¬ leafByte ((a :: accs).flatMap accRuns) x) :
    ¬ leafByte (accs.flatMap accRuns) x := by
  rintro ⟨r, hr, h⟩
  exact hx ⟨r, by rw [List.flatMap_cons]; exact List.mem_append_right _ hr, h⟩

/-- The rows that ACCLD loads, and what loading them leaves. -/
theorem accLoads_keeps (accs : List LaneAcc) : ∀ s : State, accessOff (accLoads s accs).2 = accessOff s ∧
    ∀ x, ¬ leafByte (accs.flatMap accRuns) x → memGet (accLoads s accs).2 x = memGet s x := by
  induction accs with
  | nil => exact fun s => ⟨rfl, fun _ _ => rfl⟩
  | cons a r ih =>
    intro s
    obtain ⟨hoff, hmem⟩ := ih (loadRuns s a.ea (accRuns a)).2
    obtain ⟨hoff', hmem'⟩ := loadRuns_keeps s a.ea (accRuns a)
    exact ⟨hoff.trans hoff', fun x hx =>
      (hmem x (not_leafByte_tail hx)).trans (hmem' x (not_leafByte_of_mem List.mem_cons_self hx))⟩

theorem map_fst_rowWords (row : Nat) (bs : List Byte) : (rowWords row bs).map (·.1) = (List.range 128).map fun j => row * 128 + j := by
  simp [rowWords]

theorem map_fst_accLoads (accs : List LaneAcc) : ∀ s : State,
    ((accLoads s accs).1).map (·.1) = (accs.map (·.lane)).flatMap fun l => (List.range 128).map fun j => l * 128 + j := by
  induction accs with
  | nil => exact fun _ => rfl
  | cons a r ih =>
    intro s
    unfold accLoads
    dsimp only
    rw [List.map_append, map_fst_rowWords, ih, List.map_cons, List.flatMap_cons]

/-- A word of a lane's row is what memory held, where no walk of the instruction marks it. -/
theorem mem_accLoads {accs : List LaneAcc} : ∀ {s : State} {a : LaneAcc}, a ∈ accs → (∀ r ∈ accRuns a, plainMemory s r) →
    (∀ r ∈ accRuns a, r.len % 4 = 0) → ∀ {j pa : Nat}, j < 128 → byteAddress (accRuns a) (4 * j) = some pa →
    (∀ k, k < 4 → ¬ leafByte (accs.flatMap accRuns) (pa + k)) →
    (a.lane * 128 + j, BitVec.ofNat 32 (leValue (memRead s pa 4))) ∈ (accLoads s accs).1 := by
  induction accs with
  | nil =>
    intro s a ha
    cases ha
  | cons b r ih =>
    intro s a ha hplain h4 j pa hj hpa hleaf
    obtain ⟨hoff, hmem⟩ := loadRuns_keeps s b.ea (accRuns b)
    have hsame : memRead (loadRuns s b.ea (accRuns b)).2 pa 4 = memRead s pa 4 := memRead_congr fun x hlo hhi => by
      have hx := hleaf (x - pa) (by omega)
      rw [Nat.add_sub_cancel' hlo] at hx
      exact hmem x (not_leafByte_of_mem List.mem_cons_self hx)
    unfold accLoads
    dsimp only
    by_cases hr : a ∈ r
    · refine List.mem_append_right _ ?_
      rw [← hsame]
      have hlink : (loadRuns s b.ea (accRuns b)).2.linkUp = s.linkUp := (congrArg State.linkUp hoff :)
      refine ih hr (fun q hq => ?_) h4 hj hpa fun k hk => not_leafByte_tail (hleaf k hk)
      have := hplain q hq
      unfold plainMemory at this ⊢
      rwa [hlink]
    · obtain rfl := (List.mem_cons.1 ha).resolve_right hr
      refine List.mem_append_left _ (List.mem_map.2 ⟨j, List.mem_range.2 hj, ?_⟩)
      have hbytes : (loadRuns s a.ea (accRuns a)).1 =
          (accRuns a).flatMap fun q => memRead (loadRuns s a.ea (accRuns a)).2 q.pa q.len :=
        List.flatMap_congr fun q hq => readPlace_plain (hplain q hq)
      rw [hbytes, areaNat_runs h4 hpa, hsame]

/-! ### Destinations of a tile store -/

theorem rowDst_eq (a : LaneAcc) : rowDst a = (List.range 128).map fun j => (a.lane * 128 + j, nth (runWords (accRuns a)) j (0, 0)) := rfl

/-- A lane's row goes to the words of its access, in order. -/
theorem mem_rowDst {a : LaneAcc} (h4 : ∀ r ∈ accRuns a, r.len % 4 = 0) {j pa : Nat} (hj : j < 128)
    (hpa : byteAddress (accRuns a) (4 * j) = some pa) : ∃ pol, (a.lane * 128 + j, pa, pol) ∈ rowDst a := by
  rw [byteAddress_runWords h4] at hpa
  obtain ⟨w, hw, rfl⟩ := Option.map_eq_some_iff.1 hpa
  refine ⟨w.2, List.mem_map.2 ⟨j, List.mem_range.2 hj, ?_⟩⟩
  rw [runWords] at hw
  simp only [nth, hw]
  rfl

theorem exists_of_mem_rowDst {a : LaneAcc} (h4 : ∀ r ∈ accRuns a, r.len % 4 = 0) (hlen : runsLen (accRuns a) = 512) {p : Nat × Nat × Nat}
    (hp : p ∈ rowDst a) : ∃ j < 128, p.1 = a.lane * 128 + j ∧ byteAddress (accRuns a) (4 * j) = some p.2.1 := by
  rw [rowDst_eq] at hp
  obtain ⟨j, hj, rfl⟩ := List.mem_map.1 hp
  have hj' := List.mem_range.1 hj
  have hcount := runWords_length h4
  refine ⟨j, hj', rfl, ?_⟩
  rw [byteAddress_runWords h4, nth, List.getElem?_eq_getElem (by omega)]
  rfl

theorem map_fst_rowDsts (accs : List LaneAcc) :
    (accs.flatMap rowDst).map (·.1) = (accs.map (·.lane)).flatMap fun l => (List.range 128).map fun j => l * 128 + j := by
  rw [List.map_flatMap, List.flatMap_map]
  exact List.flatMap_congr fun a _ => by simp [rowDst]

/-- Rows of different lanes have different elements. -/
theorem rows_nodup {lanes : List Nat} (h : lanes.Nodup) : (lanes.flatMap fun l => (List.range 128).map fun j => l * 128 + j).Nodup := by
  refine nodup_flatMap_of_tag (· / 128) h (fun l _ k hk => ?_) fun l _ => List.nodup_range.map fun a b h => Nat.add_left_cancel h
  obtain ⟨j, hj, rfl⟩ := List.mem_map.1 hk
  have := List.mem_range.1 hj
  omega

theorem touchLanes_keeps (k : Access) (accs : List LaneAcc) : ∀ s : State, walkOff (touchLanes k s accs) = walkOff s ∧
    ∀ x, ¬ leafByte (accs.flatMap accRuns) x → memGet (touchLanes k s accs) x = memGet s x := by
  induction accs with
  | nil => exact fun s => ⟨rfl, fun _ _ => rfl⟩
  | cons a r ih =>
    intro s
    obtain ⟨hoff, hmem⟩ := ih (touchRuns s (accActor s a.ea) k a.ea (accRuns a))
    exact ⟨hoff.trans (touchRuns_rest _ _ _ _ _), fun x hx =>
      (hmem x (not_leafByte_tail hx)).trans (memGet_touchRuns_other _ _ _ _ _ (not_leafByte_of_mem List.mem_cons_self hx))⟩

end Sys2Proof.Machine
end

section
/-! Matrix instructions where they may issue, batches closed and waited for, and their traps (R28, R250 to R262, R295). -/
namespace Sys2Proof.Machine

open Sys2Proof.Claims

/-! ### Lanes that reach their rows -/

theorem accs_lane (x : LmForm) (v : LaneEnv) (s : State) (lanes : List Nat) (chk : W64 → Except Nat (List Run)) :
    (laneAccs x v s lanes chk).map (·.lane) = lanes := by
  unfold laneAccs
  rw [List.map_map]
  exact List.map_id' lanes

section
variable {s : State} {x : LmForm} {v : LaneEnv} {lanes : List Nat} {chk : W64 → Except Nat (List Run)} {write : Bool} {run : Nat → List Run}
  (h : LanesReach s x v lanes chk write run)
include h

/-- A lane's access has the runs that its check gave. -/
theorem accs_of_reach : laneAccs x v s lanes chk = lanes.map fun l => { lane := l, ea := lmEa x v s l, res := .ok (run l) } :=
  List.map_congr_left fun l hl => by rw [h.good l hl]

theorem flatMap_accRuns_of_reach : (laneAccs x v s lanes chk).flatMap accRuns = lanes.flatMap run := by
  rw [accs_of_reach h, List.flatMap_map]
  rfl

theorem lanesTrap_of_reach : lanesTrap (laneAccs x v s lanes chk) = none := by
  rw [accs_of_reach h]
  unfold lanesTrap
  refine List.findSome?_eq_none_iff.2 fun c hc => ?_
  have hc0 : c ≠ 0 := by
    rintro rfl
    exact absurd hc (by decide)
  rw [List.find?_eq_none.2, Option.map_none]
  intro a ha
  obtain ⟨l, -, rfl⟩ := List.mem_map.1 ha
  simp [failedWith, hc0.symm]

theorem runsBusy_of_reach : ((laneAccs x v s lanes chk).any fun a => runsBusy s write (accRuns a)) = false := by
  rw [accs_of_reach h]
  simpa [accRuns] using h.free

/-- Lanes that reach their words go on. -/
theorem accessLanes_of_reach {k : State → State} : accessLanes true x write (laneAccs x v s lanes chk) k s = k s := by
  unfold accessLanes
  rw [lanesTrap_of_reach h, runsBusy_of_reach h]
  rfl

end

/-! ### The SC order of an access (R105, R109) -/

theorem scope_toNat_iff {o : BitVec 3} (n : Nat) (hn : n < 8) : o.toNat = n ↔ o = BitVec.ofNat 3 n :=
  ⟨fun h => BitVec.eq_of_toNat_eq (by simp [h, Nat.mod_eq_of_lt hn]), fun h => by simp [h, Nat.mod_eq_of_lt hn]⟩

theorem takesPlace_iff (x : LmForm) : takesPlace x.order.toNat x.scope.toNat = true ↔ x.order = 4 ∧ (x.scope = 4 ∨ x.scope = 5) := by
  simp only [takesPlace, Bool.and_eq_true, Bool.or_eq_true, decide_eq_true_eq, scope_toNat_iff 4 (by omega), scope_toNat_iff 5 (by omega)]
  rfl

theorem released_of_releaseDone {x : LmForm} {s : State} (h : releaseDone x s) :
    (!isRelease x.order.toNat || storesDone s x.scope.toNat) = true := by
  by_cases hr : isRelease x.order.toNat = true
  · have ho : x.order = 2 ∨ x.order = 3 ∨ x.order = 4 := by
      simpa [isRelease, scope_toNat_iff 2, scope_toNat_iff 3, scope_toNat_iff 4, or_assoc] using hr
    simp [h ho]
  · simp [hr]

theorem lmMayIssue_of_ready {x : LmForm} {s : State} (hroom : (longOuts s.cur).length < 64) (h : orderReady x s) : lmMayIssue x s = true := by
  obtain ⟨hrel, hturn⟩ := h
  have hsc : scMay s .lane x.order.toNat x.scope.toNat 0 = true := by
    unfold scMay
    by_cases ht : takesPlace x.order.toNat x.scope.toNat = true
    · obtain ⟨ho, hs⟩ := (takesPlace_iff x).1 ht
      obtain ⟨h1, h2, h3⟩ := hturn ho hs
      simp [h1, h2, h3]
    · simp [ht]
  simp [lmMayIssue, hroom, released_of_releaseDone hrel, hsc]

theorem tileMayIssue_of_ready {x : LmForm} {s : State} (hroom : (longOuts s.cur).length < 64) (h : releaseDone x s) : tileMayIssue x s = true := by
  simp [tileMayIssue, hroom, released_of_releaseDone h]

/-- An access that is performed takes its place in the SC order, where it has one. -/
theorem scTake_lane (s : State) (order scope lane : Nat) : ∃ p q, scTake s .lane order scope lane = { s with scLast := p, cur := { s.cur with scOpen := q } } ∧
    (q = s.cur.scOpen ∨ q = s.cur.scOpen.filter fun e => e.use ≠ .lane) := by
  unfold scTake
  split
  · exact ⟨_, _, rfl, .inr rfl⟩
  · exact ⟨s.scLast, s.cur.scOpen, rfl, .inl rfl⟩

/-! ### Tile loads and stores (R261) -/

/-- The accesses of a tile load or store. -/
def tileAccs (i : Instr) (x : LmForm) (v : LaneEnv) (s : State) : List LaneAcc :=
  laneAccs x v s (lanesOf v.active) (laneChk v.e.fmt s i)

/-- The elements and words that a tile load or store names: each lane's row, each element once. -/
structure RowKeys {α : Type} (lanes : List Nat) (ws : List (Nat × α)) : Prop where
  nodup : (ws.map (·.1)).Nodup
  row : ∀ p ∈ ws, ∃ l ∈ lanes, ∃ j < 128, p.1 = l * 128 + j

theorem rowKeys_of_map_fst {α : Type} {lanes : List Nat} (hl : lanes.Nodup) {ws : List (Nat × α)}
    (h : ws.map (·.1) = lanes.flatMap fun l => (List.range 128).map fun j => l * 128 + j) : RowKeys lanes ws := by
  refine ⟨h ▸ rows_nodup hl, fun p hp => ?_⟩
  have hk : p.1 ∈ ws.map (·.1) := List.mem_map_of_mem hp
  rw [h] at hk
  obtain ⟨l, hl, hj⟩ := List.mem_flatMap.1 hk
  obtain ⟨j, hj, he⟩ := List.mem_map.1 hj
  exact ⟨l, hl, j, List.mem_range.1 hj, he.symm⟩

/-- A lane's access to its row. -/
def rowAcc (x : LmForm) (v : LaneEnv) (s : State) (run : Nat → List Run) (l : Nat) : LaneAcc :=
  { lane := l, ea := lmEa x v s l, res := .ok (run l) }

theorem mem_tileAccs {i : Instr} {x : LmForm} {v : LaneEnv} {s : State} {write : Bool} {run : Nat → List Run}
    (h : LanesReach s x v (lanesOf v.active) (laneChk v.e.fmt s i) write run) {l : Nat} (hl : l ∈ lanesOf v.active) :
    rowAcc x v s run l ∈ tileAccs i x v s := by
  unfold tileAccs
  rw [accs_of_reach h]
  exact List.mem_map.2 ⟨l, hl, rfl⟩

section
variable {x : LmForm} {v : LaneEnv} {s : State} {run : Nat → List Run} (hroom : (longOuts s.cur).length < 64)
include hroom

/-- ACCLD issues with the words its lanes' rows hold. -/
theorem accldBody_eq (hord : orderReady x s)
    (h : LanesReach s x v (lanesOf v.active) (laneChk v.e.fmt s (.accld x)) false run) : accldBody x v s =
      issueLong false [accTile x] [] (.accld (accTile x) (accLoads (scTake s .lane x.order.toNat x.scope.toNat 31) (tileAccs (.accld x) x v s)).1)
        (accLoads (scTake s .lane x.order.toNat x.scope.toNat 31) (tileAccs (.accld x) x v s)).2 := by
  unfold accldBody laneAccess
  rw [lmMayIssue_of_ready hroom hord]
  exact accessLanes_of_reach h

/-- ACCST issues with the words its lanes' rows go to. -/
theorem accstBody_eq (hrel : releaseDone x s)
    (h : LanesReach s x v (lanesOf v.active) (laneChk v.e.fmt s (.accst x)) true run) : accstBody x v s =
      issueLong false [accTile x] [] (.accst (accTile x) ((tileAccs (.accst x) x v s).flatMap rowDst))
        (scTile x (touchLanes .store s (tileAccs (.accst x) x v s))) := by
  unfold accstBody
  rw [tileMayIssue_of_ready hroom hrel]
  exact accessLanes_of_reach h

end

/-- Loading rows changes what accesses change, and of the group its SC operations alone. -/
theorem touchedRest_accLoads (s : State) (order scope lane : Nat) (accs : List LaneAcc) :
    touchedRest s (accLoads (scTake s .lane order scope lane) accs).2 ∧ groupKept s (accLoads (scTake s .lane order scope lane) accs).2 ∧
    (accLoads (scTake s .lane order scope lane) accs).2.cur.queue = s.cur.queue ∧
    ∀ a, ¬ leafByte (accs.flatMap accRuns) a → memGet (accLoads (scTake s .lane order scope lane) accs).2 a = memGet s a := by
  obtain ⟨p, q, ht, hq⟩ := scTake_lane s order scope lane
  obtain ⟨hoff, hmem⟩ := accLoads_keeps accs (scTake s .lane order scope lane)
  rw [ht] at hoff hmem ⊢
  have hcur : (accLoads { s with scLast := p, cur := { s.cur with scOpen := q } } accs).2.cur = { s.cur with scOpen := q } :=
    (congrArg State.cur hoff :)
  refine ⟨⟨?_, ?_⟩, ?_, ?_, hmem⟩
  · have hsame := congrArg (fun u : State => ({ u with
      mem := s.mem, tlb := s.tlb, heat := s.heat, dir := s.dir, poison := s.poison, hist := s.hist, hostPend := s.hostPend, scLast := s.scLast,
      cur := { u.cur with lfsr := s.cur.lfsr, fstat := s.cur.fstat, scOpen := s.cur.scOpen } } : State)) hoff
    exact hsame
  · rw [hcur]
    exact hq
  · unfold groupKept
    rw [hcur]
  · rw [hcur]

/-- The walks of a tile store, and with SC its place among the group's SC operations. -/
theorem storeIssued_scTile (x : LmForm) (s : State) (accs : List LaneAcc) : storeIssued x s (scTile x (touchLanes .store s accs)) ∧
    (scTile x (touchLanes .store s accs)).cur.queue = s.cur.queue ∧
    ∀ a, ¬ leafByte (accs.flatMap accRuns) a → memGet (scTile x (touchLanes .store s accs)) a = memGet s a := by
  obtain ⟨hoff, hmem⟩ := touchLanes_keeps .store accs s
  have hcur : (touchLanes .store s accs).cur = s.cur := (congrArg State.cur hoff :)
  have hsame : sameButAccessed s { touchLanes .store s accs with cur := s.cur } := by
    have h := congrArg (fun u : State => ({ u with
      mem := s.mem, tlb := s.tlb, heat := s.heat, dir := s.dir, poison := s.poison, hist := s.hist, hostPend := s.hostPend, scLast := s.scLast,
      cur := s.cur } : State)) hoff
    exact h
  unfold storeIssued scTile
  by_cases hp : takesPlace x.order.toNat x.scope.toNat = true
  · rw [if_pos hp, if_pos ((takesPlace_iff x).1 hp)]
    refine ⟨⟨hsame, ?_, ?_⟩, ?_, hmem⟩
    · unfold modCur scDrop
      rw [hcur]
    · unfold modCur
      rw [hcur]
      refine ⟨_, rfl, rfl, ?_⟩
      cases scFind s.cur .lane <;> rfl
    · unfold modCur scDrop
      rw [hcur]
  · rw [if_neg hp, if_neg fun hx => hp ((takesPlace_iff x).2 hx)]
    refine ⟨⟨hsame, ?_, ?_⟩, ?_, hmem⟩
    · rw [hcur]
    · rw [hcur]
    · rw [hcur]

end Sys2Proof.Machine
end

section
/-! Matrix instructions where they may issue, batches closed and waited for, and their traps (R28, R250 to R262, R295). -/
namespace Sys2Proof.Machine

open Sys2Proof.Claims

/-! ### Early traps that do not arise (R138) -/

theorem lmEarly_none {x : LmForm} {v : LaneEnv} {s : State} {al : Nat}
    (h : ∀ u, fillGranules s (neededGranules s.cur (lanesOf v.active) [(1, .src 1 none, x.addr)]) = .ok u →
      ∀ l ∈ lanesOf v.active, (lmEa x v u l).toNat % al = 0) : lmEarly x al v s = none := by
  unfold lmEarly
  split
  · next u hu =>
    rw [List.find?_eq_none.2, Option.map_none]
    intro ea hea
    obtain ⟨l, hl, rfl⟩ := List.mem_map.1 hea
    simp [h u hu l hl]
  · rfl

theorem mmaEarly_none {x : LxForm} {scaled : Bool} {v : LaneEnv} {s : State} {len : Nat}
    (h : mmaFault x scaled len (sreg s x.bBase) (if scaled then sreg s x.bScale else 0) = none) : mmaEarly x scaled v s = none := by
  have hb : (sreg s x.bBase).toNat % 128 = 0 := by
    by_contra hn
    rw [mmaFault, if_pos hn] at h
    cases h
  unfold mmaEarly
  rw [if_neg (not_not.2 hb)]
  cases scaled with
  | false => rfl
  | true =>
    by_cases hs : (sreg s x.bScale).toNat % 4 = 0
    · simp [hs]
    · simp [mmaFault, hb, hs] at h

/-! ### MMA and MMAS (R252, R254) -/

theorem mmaBody_issues {x : LxForm} {scaled : Bool} {v : LaneEnv} {s : State} (hroom : (matrixOuts s.cur).length < 64)
    (hf : mmaFault x scaled (mmaCrew x s).splen (sreg s x.bBase) (if scaled then sreg s x.bScale else 0) = none) :
    mmaBody x scaled v s = issueMatrix (mmaTiles x)
        (.mma { form := x, scaled := scaled, fmt := v.e.fmt,
                aData := captureSlots s (slotOf x.a) (mmaASlots x),
                aScale := if scaled then captureSlots s x.aScale.toNat (mmaScaleSlots x) else [],
                bBase := scratchPa (mmaCrew x s).cluster (mmaCrew x s).core ((mmaCrew x s).spbase + (sreg s x.bBase).toNat),
                bScaleBase := scratchPa (mmaCrew x s).cluster (mmaCrew x s).core
                  ((mmaCrew x s).spbase + (if scaled then sreg s x.bScale else 0).toNat),
                boff := sreg s x.bBase, soff := if scaled then sreg s x.bScale else 0, mark := s.hist.length }) x.band s := by
  unfold mmaBody
  dsimp only
  rw [hf]
  exact if_neg (by omega)

theorem mmaPre_none {i : Instr} {x : LxForm} {s : State} (hb : x.band = true → bandModeOk s = true)
    (ht : x.tile.toNat + mmaRowBlocks x * mmaColBlocks x ≤ s.cur.tiles.length) : mmaPre i x s = none := by
  unfold mmaPre
  rw [if_neg, tilesPre_none ht]
  cases hx : x.band
  · simp
  · simp [hb hx]

/-! ### Batches (R257, R258) -/

/-- A batch with an operation pending keeps its place at the head. -/
theorem settleBatches_pending {g : Group} {b : Batch} {r : List Batch} (h : ∃ q ∈ b.ops, ∃ o ∈ g.outs, o.seq = q) :
    settleBatches g (b :: r) = { g with batches := b :: r } := by
  have hall : (b.ops.all fun q => !(g.outs.any fun o => decide (o.seq = q))) = false := by
    obtain ⟨q, hq, o, ho, hs⟩ := h
    refine List.all_eq_false.2 ⟨q, hq, ?_⟩
    have hany : (g.outs.any fun o => decide (o.seq = q)) = true := List.any_eq_true.2 ⟨o, ho, by simpa using hs⟩
    simp [hany]
  rw [settleBatches, hall]
  rfl

/-- A single batch with nothing pending completes. -/
theorem settleBatches_done {g : Group} {b : Batch} (h : ∀ q ∈ b.ops, ∀ o ∈ g.outs, o.seq ≠ q) :
    (settleBatches g [b]).batches = [] ∧ (settleBatches g [b]).mbdone = b.num := by
  have hall : (b.ops.all fun q => !(g.outs.any fun o => decide (o.seq = q))) = true := by
    refine List.all_eq_true.2 fun q hq => ?_
    have hany : (g.outs.any fun o => decide (o.seq = q)) = false := List.any_eq_false.2 fun o ho => by simpa using h q hq o ho
    simp [hany]
  rw [settleBatches, if_pos hall]
  exact ⟨rfl, rfl⟩

theorem closeBatch_eq (g : Group) : closeBatch g =
    { g with bctr := g.bctr + 1, openOps := [], batches := (closeBatch g).batches, mbdone := (closeBatch g).mbdone,
             merr := (closeBatch g).merr, errOps := (closeBatch g).errOps } := by
  unfold closeBatch
  dsimp only
  rw [settleBatches_eq]

/-! ### Each instruction where it may issue -/

section
variable {s s1 : State} {i : Instr} {m : MatParts} {v : LaneEnv} (h : MatReady s i m v s1)
include h

/-- ACCZ issues (R260). -/
theorem issue_accz {x : LxForm} (hi : i = .accz x) (hroom : (matrixOuts s1.cur).length < 64) :
    ∃ t o, exec i s = .next t ∧ MatrixIssued v o s1 t ∧ o.act = .accz m.tile ∧ o.tiles = [m.tile] ∧ o.band = none := by
  subst hi
  obtain rfl := Option.some.inj h.parts
  have hx := exec_of_matReady h (i := .accz x) rfl (tilesPre_none h.tiles) rfl
  rw [if_neg (by omega)] at hx
  exact ⟨_, _, hx, matrixIssued_issueMatrix (running_of_matReady h) _ _ _, rfl, rfl, rfl⟩

/-- ACCRD issues with the elements its lanes name (R262). -/
theorem issue_accrd {x : LaForm} (hi : i = .accrd x) (hroom : (longOuts s1.cur).length < 64) :
    ∃ t src, exec i s = .next t ∧ LongIssued v (longOp s1 v true [m.tile] [] (.accrd m.tile src)) s1 t ∧
      writesOnly src s1.cur x.d 4 (lanesOf v.active) ∧ ∀ l ∈ lanesOf v.active, ∀ j key, j < 4 → (opndKeys s1.cur x.d 4 l)[j]? = some key →
        (key, readSlots s1 v x.a 1 none l % 32 * 128 + l + 32 * j) ∈ src := by
  subst hi
  obtain rfl := Option.some.inj h.parts
  have hx := exec_of_matReady h (i := .accrd x) rfl (tilesPre_none h.tiles) rfl
  unfold accrdBody at hx
  rw [if_neg (by omega)] at hx
  exact ⟨_, accrdSrc s1 v x, hx, longIssued_issueLong (running_of_matReady h) _ _ _ _, accrdSrc_writesOnly s1 v x,
    fun l hl j key hj hk => mem_accrdSrc hl hj hk⟩

/-- ACCWR issues with the elements and words its lanes name (R262). -/
theorem issue_accwr {x : LaForm} (hi : i = .accwr x) (hroom : (longOuts s1.cur).length < 64) :
    ∃ t ws, exec i s = .next t ∧ LongIssued v (longOp s1 v false [m.tile] [] (.accwr m.tile ws)) s1 t ∧ (ws.map (·.1)).Nodup ∧
      (∀ p ∈ ws, ∃ l ∈ lanesOf v.active, ∃ j < 4, p.1 = readSlots s1 v x.b 1 none l % 32 * 128 + l + 32 * j) ∧
      ∀ l ∈ lanesOf v.active, ∀ j, j < 4 → (readSlots s1 v x.b 1 none l % 32 * 128 + l + 32 * j,
        BitVec.ofNat 32 (readSlots s1 v x.a 4 (some .f32) l / 2 ^ (32 * j))) ∈ ws := by
  subst hi
  obtain rfl := Option.some.inj h.parts
  have hx := exec_of_matReady h (i := .accwr x) rfl (tilesPre_none h.tiles) rfl
  unfold accwrBody at hx
  rw [if_neg (by omega)] at hx
  exact ⟨_, accwrWords s1 v x, hx, longIssued_issueLong (running_of_matReady h) _ _ _ _, accwrWords_nodup s1 v x,
    fun p hp => exists_of_mem_accwrWords hp, fun l hl j hj => mem_accwrWords hl hj⟩

/-- ACCLD issues with the words its rows hold (R261). -/
theorem issue_accld {x : LmForm} {run : Nat → List Run} (hi : i = .accld x) (hroom : (longOuts s1.cur).length < 64) (hord : orderReady x s1)
    (hreach : LanesReach s1 x v (lanesOf v.active) (laneChk v.e.fmt s1 i) (laneWrites i) run)
    (h4 : ∀ l ∈ lanesOf v.active, ∀ r ∈ run l, r.len % 4 = 0) :
    ∃ t s2 ws, exec i s = .next t ∧ LongIssued v (longOp s2 v false [m.tile] [] (.accld m.tile ws)) s2 t ∧ touchedRest s1 s2 ∧ groupKept s1 s2 ∧
      RowKeys (lanesOf v.active) ws ∧ (∀ a, ¬ leafByte ((lanesOf v.active).flatMap run) a → memGet t a = memGet s1 a) ∧
      ∀ l ∈ lanesOf v.active, ∀ j a, j < 128 → byteAddress (run l) (4 * j) = some a →
        (∀ k, k < 4 → ¬ leafByte ((lanesOf v.active).flatMap run) (a + k)) →
        (l * 128 + j, BitVec.ofNat 32 (leValue (memRead s1 a 4))) ∈ ws := by
  subst hi
  obtain rfl := Option.some.inj h.parts
  have hx := exec_of_matReady h (i := .accld x) rfl (tilesPre_none h.tiles) (lmEarly_none (h.aligned x (.inl rfl)))
  rw [accldBody_eq hroom hord hreach] at hx
  have hleaf : (tileAccs (.accld x) x v s1).flatMap accRuns = (lanesOf v.active).flatMap run := flatMap_accRuns_of_reach hreach
  obtain ⟨htouched, hkept, hq, hmem⟩ := touchedRest_accLoads s1 x.order.toNat x.scope.toNat 31 (tileAccs (.accld x) x v s1)
  rw [hleaf] at hmem
  have hissued := longIssued_issueLong ((running_congr hq).trans (running_of_matReady h)) false [accTile x] []
    (.accld (accTile x) (accLoads (scTake s1 .lane x.order.toNat x.scope.toNat 31) (tileAccs (.accld x) x v s1)).1)
  refine ⟨_, _, _, hx, hissued, htouched, hkept, rowKeys_of_map_fst (lanesOf_nodup _) ?_, fun a ha => ?_, fun l hl j a hj ha hk => ?_⟩
  · rw [map_fst_accLoads, tileAccs, accs_lane]
  · exact (memGet_congr (congrArg State.mem hissued.rest :) (congrArg State.revived hissued.rest :) a).trans (hmem a ha)
  · obtain ⟨p, q, ht, -⟩ := scTake_lane s1 x.order.toNat x.scope.toNat 31
    have hl' := mem_tileAccs hreach hl
    have := mem_accLoads (s := scTake s1 .lane x.order.toNat x.scope.toNat 31) hl' (fun r hr => ?_) (h4 l hl) hj ha (by rwa [hleaf])
    · rw [ht] at this ⊢
      exact this
    · rw [ht]
      exact hreach.plain l hl r hr

/-- ACCST issues with the words its rows go to (R261). -/
theorem issue_accst {x : LmForm} {run : Nat → List Run} (hi : i = .accst x) (hroom : (longOuts s1.cur).length < 64) (hrel : releaseDone x s1)
    (hreach : LanesReach s1 x v (lanesOf v.active) (laneChk v.e.fmt s1 i) (laneWrites i) run)
    (h4 : ∀ l ∈ lanesOf v.active, ∀ r ∈ run l, r.len % 4 = 0) :
    ∃ t s2 dst, exec i s = .next t ∧ LongIssued v (longOp s2 v false [m.tile] [] (.accst m.tile dst)) s2 t ∧ storeIssued x s1 s2 ∧
      (dst.map (·.1)).Nodup ∧ (∀ p ∈ dst, ∃ l ∈ lanesOf v.active, ∃ j < 128, p.1 = l * 128 + j ∧ byteAddress (run l) (4 * j) = some p.2.1) ∧
      (∀ a, ¬ leafByte ((lanesOf v.active).flatMap run) a → memGet t a = memGet s1 a) ∧
      ∀ l ∈ lanesOf v.active, ∀ j a, j < 128 → byteAddress (run l) (4 * j) = some a → ∃ pol, (l * 128 + j, a, pol) ∈ dst := by
  subst hi
  obtain rfl := Option.some.inj h.parts
  have hx := exec_of_matReady h (i := .accst x) rfl (tilesPre_none h.tiles) (lmEarly_none (h.aligned x (.inr rfl)))
  rw [accstBody_eq hroom hrel hreach] at hx
  have hleaf : (tileAccs (.accst x) x v s1).flatMap accRuns = (lanesOf v.active).flatMap run := flatMap_accRuns_of_reach hreach
  obtain ⟨hstore, hq, hmem⟩ := storeIssued_scTile x s1 (tileAccs (.accst x) x v s1)
  rw [hleaf] at hmem
  have hissued := longIssued_issueLong ((running_congr hq).trans (running_of_matReady h)) false [accTile x] []
    (.accst (accTile x) ((tileAccs (.accst x) x v s1).flatMap rowDst))
  refine ⟨_, _, _, hx, hissued, hstore, ?_, fun p hp => ?_, fun a ha => ?_, fun l hl j a hj ha => ?_⟩
  · rw [map_fst_rowDsts, tileAccs, accs_lane]
    exact rows_nodup (lanesOf_nodup _)
  · obtain ⟨a, ha, hp⟩ := List.mem_flatMap.1 hp
    rw [tileAccs, accs_of_reach hreach] at ha
    obtain ⟨l, hl, rfl⟩ := List.mem_map.1 ha
    exact ⟨l, hl, exists_of_mem_rowDst (a := rowAcc x v s1 run l) (h4 l hl) (runsLen_laneCheck (f := storeErr) (n := 512) (hreach.good l hl)) hp⟩
  · exact (memGet_congr (congrArg State.mem hissued.rest :) (congrArg State.revived hissued.rest :) a).trans (hmem a ha)
  · obtain ⟨pol, hp⟩ := mem_rowDst (a := rowAcc x v s1 run l) (h4 l hl) hj ha
    exact ⟨pol, List.mem_flatMap.2 ⟨_, mem_tileAccs hreach hl, hp⟩⟩

end

end Sys2Proof.Machine
end

section
/-! MMA and MMAS, batches, and the traps of matrix instructions; the statement on their issue settled (R250 to R258, R295). -/
namespace Sys2Proof.Machine

open Sys2Proof.Claims

section
variable {s s1 : State} {i : Instr} {m : MatParts} {v : LaneEnv} (h : MatReady s i m v s1)
include h

theorem sreg_filled (r : BitVec 6) : sreg s1 r = sreg s r := by
  unfold sreg sget
  rw [(fillGranules_cur h.fill).2]

/-- MMA and MMAS issue with A and its scales captured and the places of B and its scales (R254). -/
theorem issue_mma {x : LxForm} {scaled : Bool} (hi : (i = .mma x ∧ scaled = false) ∨ (i = .mmas x ∧ scaled = true))
    (hroom : (matrixOuts s1.cur).length < 64) (hband : x.band = true → bandModeOk s = true)
    (hf : mmaFault x scaled (mmaCrew x s1).splen (sreg s1 x.bBase) (if scaled then sreg s1 x.bScale else 0) = none) :
    ∃ t o op, exec i s = .next t ∧ MatrixIssued v o s1 t ∧ o.act = .mma op ∧ o.tiles = mmaTiles x ∧ o.band.isSome = x.band ∧
      op.form = x ∧ op.scaled = scaled ∧ op.fmt = v.e.fmt ∧ op.mark = s1.hist.length ∧
      op.bBase = scratchPa (mmaCrew x s1).cluster (mmaCrew x s1).core ((mmaCrew x s1).spbase + (sreg s1 x.bBase).toNat) ∧
      (scaled = true → op.bScaleBase =
        scratchPa (mmaCrew x s1).cluster (mmaCrew x s1).core ((mmaCrew x s1).spbase + (sreg s1 x.bScale).toNat)) ∧
      ∀ a, x.a = .v a → ∀ j l, l < 32 →
        (j < mmaASlots x → spGet op.aData (j * 32 + l) = laneRead s1 ((a.toNat + j) * 32 + l)) ∧
        (scaled = true → j < mmaScaleSlots x → spGet op.aScale (j * 32 + l) = laneRead s1 ((x.aScale.toNat + j) * 32 + l)) := by
  have hearly : mmaEarly x scaled v s = none := by
    refine mmaEarly_none (len := (mmaCrew x s1).splen) ?_
    rwa [← sreg_filled h, ← sreg_filled h]
  have hx : exec i s = .next (mmaBody x scaled v s1) ∧ m.tile + m.tiles = x.tile.toNat + mmaRowBlocks x * mmaColBlocks x := by
    rcases hi with ⟨rfl, rfl⟩ | ⟨rfl, rfl⟩
    · obtain rfl := Option.some.inj h.parts
      exact ⟨exec_of_matReady h (i := .mma x) rfl (mmaPre_none hband h.tiles) hearly, rfl⟩
    · obtain rfl := Option.some.inj h.parts
      exact ⟨exec_of_matReady h (i := .mmas x) rfl (mmaPre_none hband h.tiles) hearly, rfl⟩
  refine ⟨_, _, _, hx.1.trans (congrArg Host.Outcome.next (mmaBody_issues hroom hf)), matrixIssued_issueMatrix (running_of_matReady h) _ _ _,
    rfl, rfl, ?_, rfl, rfl, rfl, rfl, rfl, ?_, fun a ha j l hl => ⟨fun hj => ?_, ?_⟩⟩
  · cases x.band <;> rfl
  · rintro rfl
    rfl
  · rw [ha]
    exact spGet_captureSlots s1 hj hl
  · rintro rfl hj
    exact spGet_captureSlots s1 hj hl

/-- MBFEN closes the open batch under the next number (R257). -/
theorem issue_mbfen {x : LiForm} (hi : i = .mbfen x) (hroom : s1.cur.batches.length < 64) :
    ∃ t, exec i s = .next t ∧ t.cur.bctr = s1.cur.bctr + 1 ∧ t.cur.openOps = [] ∧ ClauseMoved s1.cur t.cur v.e ∧
      t.cur.outs = s1.cur.outs ∧ t.cur.lanes = s1.cur.lanes ∧
      (∀ b r, s1.cur.batches ++ [{ num := s1.cur.bctr, ops := s1.cur.openOps }] = b :: r → (∃ q ∈ b.ops, ∃ o ∈ s1.cur.outs, o.seq = q) →
        t.cur.batches = b :: r ∧ t.cur.mbdone = s1.cur.mbdone ∧ t.cur.merr = s1.cur.merr) ∧
      (s1.cur.batches = [] → (∀ q ∈ s1.cur.openOps, ∀ o ∈ s1.cur.outs, o.seq ≠ q) →
        t.cur.batches = [] ∧ t.cur.mbdone = s1.cur.bctr) := by
  subst hi
  obtain rfl := Option.some.inj h.parts
  have hx := exec_of_matReady h (i := .mbfen x) rfl rfl rfl
  rw [if_neg (by omega)] at hx
  have hstep := stepClause_eq (closeBatch s1.cur)
  have hclose := closeBatch_eq s1.cur
  have hcur : (modCur s1 fun g => stepClause (closeBatch g)).cur = stepClause (closeBatch s1.cur) := rfl
  refine ⟨_, hx, ?_, ?_, ?_, ?_, ?_, fun b r hb hp => ?_, fun hb hd => ?_⟩
  · rw [hcur, hstep, hclose]
  · rw [hcur, hstep, hclose]
  · exact clauseMoved_stepClause (running_of_matReady h) (by rw [hclose]) (by rw [hclose])
  · rw [hcur, hstep, hclose]
  · rw [hcur, hstep, hclose]
  · have hsettle : closeBatch s1.cur = { s1.cur with bctr := s1.cur.bctr + 1, openOps := [], batches := b :: r } := by
      unfold closeBatch
      dsimp only
      rw [hb]
      exact settleBatches_pending (g := { s1.cur with bctr := s1.cur.bctr + 1, openOps := [] }) hp
    rw [hcur, hstep, hsettle]
    exact ⟨rfl, rfl, rfl⟩
  · have hsettle : (closeBatch s1.cur).batches = [] ∧ (closeBatch s1.cur).mbdone = s1.cur.bctr := by
      unfold closeBatch
      dsimp only
      rw [hb]
      exact settleBatches_done hd
    rw [hcur, hstep]
    exact hsettle

omit h in
theorem mbNamed_iff (g : Group) (b : BitVec 16) : mbNamed g b = true ↔ 1 ≤ (g.bctr - b).toNat ∧ (g.bctr - b).toNat ≤ 64 := by
  unfold mbNamed
  rw [Bool.and_eq_true, decide_eq_true_eq, decide_eq_true_eq]

/-- MBWAIT of a batch that has been closed: it waits, goes on, or raises 0x14 once (R256, R258, R295). -/
theorem issue_mbwait {x : LiForm} {b : BitVec 16} (hi : i = .mbwait x) (hb : b = (x.imm.setWidth 16 : BitVec 16))
    (h1 : 1 ≤ (s.cur.bctr - b).toNat) (h64 : (s.cur.bctr - b).toNat ≤ 64) :
    (32768 ≤ (s1.cur.mbdone - b).toNat → exec i s = .next s1) ∧
    ((s1.cur.mbdone - b).toNat < 32768 →
      (b ∉ s1.cur.merr → ∃ t, exec i s = .next t ∧ ClauseMoved s1.cur t.cur v.e ∧
        { t with cur := { t.cur with queue := s1.cur.queue, flags := s1.cur.flags } } = s1) ∧
      (b ∈ s1.cur.merr →
        (∀ t, trapWaits s1 true = some t → exec i s = .next t) ∧
        (trapWaits s1 true = none → exec i s =
          .next (laneTrap { s1 with cur := { s1.cur with merr := s1.cur.merr.erase b } } 0x14 (b.setWidth 64))))) := by
  subst hi
  obtain rfl := Option.some.inj h.parts
  have hnamed : mbNamed s.cur (x.imm.setWidth 16) = true := hb ▸ (mbNamed_iff s.cur b).2 ⟨h1, h64⟩
  have hx : exec (.mbwait x) s = .next (mbwaitBody b s1) := by
    rw [hb]
    exact exec_of_matReady h (i := .mbwait x) rfl (if_pos hnamed) rfl
  rw [hx]
  unfold mbwaitBody
  refine ⟨fun hd => ?_, fun hd => ⟨fun hm => ?_, fun hm => ⟨fun t ht => ?_, fun ht => ?_⟩⟩⟩
  · have hf : mbDone s1.cur b = false := decide_eq_false (by omega)
    rw [hf]
    rfl
  all_goals
    have hdone : mbDone s1.cur b = true := decide_eq_true hd
    rw [hdone, if_neg (by decide)]
  · rw [if_neg (by simpa using hm)]
    refine ⟨_, rfl, clauseMoved_stepClause (running_of_matReady h) rfl rfl, ?_⟩
    unfold modCur
    rw [stepClause_eq]
  · rw [if_pos (by simpa using hm), trapAfter, ht]
    rfl
  · rw [if_pos (by simpa using hm), trapAfter, ht]
    rfl

end

/-! ### Traps (R28, R252, R295) -/

/-- The checks of every matrix instruction, in one view: its tiles, p0 and the full mask, a handler before MSAVE. -/
theorem exec_matrix_frame {s : State} {i : Instr} {m : MatParts} (hm : matParts i = some m)
    (hband : ∀ x, i = .mma x ∨ i = .mmas x → x.band = true → bandModeOk s = true)
    (hnamed : ∀ x, i = .mbwait x → mbNamed s.cur (x.imm.setWidth 16) = true) :
    ∃ early pre body, exec i s = .next (withMatrixEarly early i m.pr pre m.ps body s) ∧ pre s = tilesPre m.tile m.tiles s := by
  have hmma : ∀ (x : LxForm), (x.band = true → bandModeOk s = true) →
      mmaPre i x s = tilesPre x.tile.toNat (mmaRowBlocks x * mmaColBlocks x) s := by
    intro x hb
    unfold mmaPre
    cases hx : x.band
    · rfl
    · simp [hb hx]
  cases i
  case mma x =>
    cases hm
    exact ⟨_, _, _, rfl, hmma x (hband x (.inl rfl))⟩
  case mmas x =>
    cases hm
    exact ⟨_, _, _, rfl, hmma x (hband x (.inr rfl))⟩
  case accz x | accld x | accst x | accrd x | accwr x =>
    cases hm
    exact ⟨_, _, _, rfl, rfl⟩
  case mbfen x =>
    cases hm
    exact ⟨_, _, _, rfl, (tilesPre_none (Nat.zero_le _)).symm⟩
  case mbwait x =>
    cases hm
    exact ⟨_, _, _, rfl, (if_pos (hnamed x rfl)).trans (tilesPre_none (Nat.zero_le _)).symm⟩
  all_goals cases hm

/-- Settles O31: one lemma for each instruction where it may issue (`issue_mma`, `issue_accld`, …), and the checks of the frame for the traps. -/
theorem matrixIssue : Obligations.MatrixIssue := by
  refine ⟨fun s i m v s1 h => ⟨fun x hi hroom => issue_accz h hi hroom, fun x scaled hi hroom hb hf => issue_mma h hi hroom hb hf,
    fun x run hi hroom hord hrel hreach h4 => ?_, fun x hi hroom => issue_accrd h hi hroom, fun x hi hroom => issue_accwr h hi hroom⟩,
    fun s i m v s1 => ⟨fun h => ⟨fun x hi hroom => issue_mbfen h hi hroom, fun x b hi hb h1 h64 => issue_mbwait h hi hb h1 h64⟩,
      fun e hr hl hm hband hnamed => ?_⟩⟩
  · rcases hi with rfl | rfl
    · obtain ⟨t, s2, ws, hx, hissued, htouched, hkept, hkeys, hmem, hws⟩ := issue_accld h rfl hroom (hord rfl) hreach h4
      refine ⟨t, s2, ws, [], hx, ?_, fun _ => ⟨htouched, hkept⟩, fun hi => by simp at hi, hkeys.nodup, hkeys.row, List.nodup_nil, by simp,
        hmem, fun l hl j a hj ha => ⟨fun hi => by simp at hi, fun _ hk => hws l hl j a hj ha hk⟩⟩
      rwa [if_pos rfl]
    · obtain ⟨t, s2, dst, hx, hissued, hstore, hnodup, hrow, hmem, hdst⟩ := issue_accst h rfl hroom (hrel rfl) hreach h4
      refine ⟨t, s2, [], dst, hx, ?_, fun hi => by simp at hi, fun _ => hstore, List.nodup_nil, by simp, hnodup, hrow, hmem,
        fun l hl j a hj ha => ⟨fun _ => hdst l hl j a hj ha, fun hi => by simp at hi⟩⟩
      rwa [if_neg (by simp)]
  · obtain ⟨early, pre, body, hx, hpre⟩ := exec_matrix_frame hm hband hnamed
    refine ⟨fun ht => ?_, fun ht => ⟨fun hc => ?_, fun hc hh hs => ?_⟩⟩
    · rw [hx, withMatrix_pre hr hl (hpre.trans (if_neg (by omega)))]
    · have hcf : matrixConverged m.pr e = false := Bool.eq_false_iff.2 fun ht => hc ((matrixConverged_iff _ _).1 ht)
      rw [hx, withMatrix_diverged hr hl (hpre.trans (tilesPre_none ht)) hcf]
    · rw [hx, withMatrix_handler hr hl (hpre.trans (tilesPre_none ht)) ((matrixConverged_iff _ _).2 hc) hh hs]

end Sys2Proof.Machine
end

section
/-! Lists with one element replaced, folds with one step that matters, and what the scheduler's stores and loads leave of the machine
(R40, R315, R319 to R321). -/
namespace Sys2Proof.Machine

open Sys2Proof.Claims

/-! ### Lists -/

/-- The element found is replaced where the search is the same. -/
theorem find?_replaceFirst_same {α : Type} (p : α → Bool) (f : α → α) (hf : ∀ x, p (f x) = p x) (l : List α) :
    (replaceFirst p f l).find? p = (l.find? p).map f := by
  induction l with
  | nil => rfl
  | cons x r ih => by_cases hx : p x = true <;> simp [replaceFirst, hx, hf, ih]

/-- Another search finds what it found. -/
theorem find?_replaceFirst_other {α : Type} (p q : α → Bool) (f : α → α) (h : ∀ x, p x = true → q x = false ∧ q (f x) = false) (l : List α) :
    (replaceFirst p f l).find? q = l.find? q := by
  induction l with
  | nil => rfl
  | cons x r ih =>
    by_cases hx : p x = true
    · simp [replaceFirst, hx, h x hx]
    · simp [replaceFirst, hx, ih, List.find?_cons]

/-- A replacement that keeps what is looked at leaves the list as looked at. -/
theorem map_replaceFirst {α β : Type} (p : α → Bool) (f : α → α) (g : α → β) (h : ∀ x, g (f x) = g x) (l : List α) :
    (replaceFirst p f l).map g = l.map g := by
  induction l with
  | nil => rfl
  | cons x r ih => by_cases hx : p x = true <;> simp [replaceFirst, hx, h, ih]

/-- A fold whose every step, at its place in the list, keeps what is looked at. -/
theorem foldl_keeps_at {α σ β : Type} (obs : σ → β) (f : σ → α → σ) (l : List α) : ∀ s,
    (∀ pre x post, l = pre ++ x :: post → obs (f (pre.foldl f s) x) = obs (pre.foldl f s)) → obs (l.foldl f s) = obs s := by
  induction l with
  | nil => exact fun _ _ => rfl
  | cons a r ih =>
    intro s h
    refine (ih (f s a) fun pre x post hl => ?_).trans (h [] a r rfl)
    exact h (a :: pre) x post (by rw [hl]; rfl)

/-- A fold keeps what each step over an element of the list keeps. -/
theorem foldl_keeps_mem {α σ β : Type} (obs : σ → β) (f : σ → α → σ) {l : List α} (h : ∀ t, ∀ x ∈ l, obs (f t x) = obs t) (s : σ) :
    obs (l.foldl f s) = obs s :=
  foldl_keeps_at obs f l s fun pre x post hl => h _ x (by simp [hl])

/-- A fold in which one step alone changes what is looked at. -/
theorem foldl_once {α σ β : Type} (obs : σ → β) (f : σ → α → σ) {pre post : List α} {a : α} {g : β → β}
    (hpre : ∀ t, ∀ x ∈ pre, obs (f t x) = obs t) (hpost : ∀ t, ∀ x ∈ post, obs (f t x) = obs t) (hat : ∀ t, obs (f t a) = g (obs t)) (s : σ) :
    obs ((pre ++ a :: post).foldl f s) = g (obs s) := by
  rw [List.foldl_append, List.foldl_cons, foldl_keeps_mem obs f hpost, hat, foldl_keeps_mem obs f hpre]

/-- A list with its positions, cut at one of them: no other position is the same. -/
theorem zipIdx_cut_ne {α : Type} {l : List α} {pre post : List (α × Nat)} {x : α × Nat} (h : l.zipIdx = pre ++ x :: post) :
    (∀ y ∈ pre, y.2 ≠ x.2) ∧ ∀ y ∈ post, y.2 ≠ x.2 := by
  have hnodup : ((pre ++ x :: post).map (·.2)).Nodup := by
    rw [← h, List.zipIdx_map_snd]
    exact List.nodup_range'
  rw [List.map_append, List.map_cons, List.nodup_append, List.nodup_cons] at hnodup
  obtain ⟨-, ⟨hpost, -⟩, hpre⟩ := hnodup
  exact ⟨fun y hy => hpre _ (List.mem_map_of_mem hy) _ List.mem_cons_self, fun y hy hxy => hpost (hxy ▸ List.mem_map_of_mem hy)⟩

theorem zipIdx_cut {α : Type} {l : List α} {i : Nat} {a : α} (h : l[i]? = some a) : ∃ pre post, l.zipIdx = pre ++ (a, i) :: post :=
  List.append_of_mem (List.mem_zipIdx_iff_getElem?.2 h)

/-! ### What stores and loads of the scheduler leave -/

/-- The state but for memory and its marks, cached translations, counts, tiles and device registers. -/
def storeOff (t : State) : State :=
  { t with mem := [], tlb := [], heat := [], poison := [], hist := [], mgmt := [], fe := [], tiles := [], nextId := 0 }

theorem touchRuns_storeOff (s : State) (a : Actor) (k : Access) (va : W64) (rs : List Run) : storeOff (touchRuns s a k va rs) = storeOff s :=
  (congrArg storeOff (touchRuns_rest a k rs s va) :)

theorem mgmtPut_storeOff (s : State) (off hi lo v : Nat) : storeOff (mgmtPut s off hi lo v) = storeOff s := by
  unfold mgmtPut
  split <;> rfl

theorem hwRun_storeOff (s : State) (r : Run) (bs : List Byte) : storeOff (hwRun s r bs) = storeOff s := by
  unfold hwRun
  split
  · refine foldl_keeps storeOff _ (fun t x => ?_) _ s
    exact mgmtPut_storeOff ..
  · rfl

theorem hwRuns_storeOff (rs : List Run) : ∀ (s : State) (bs : List Byte), storeOff (hwRuns s rs bs) = storeOff s := by
  induction rs with
  | nil => exact fun _ _ => rfl
  | cons r rs ih => exact fun s bs => (ih _ _).trans (hwRun_storeOff s r _)

/-- A store of the scheduler (R315). -/
theorem hwWrite_storeOff (s : State) (a : Actor) (va : W64) (bs : List Byte) : storeOff (hwWrite s a va bs) = storeOff s := by
  unfold hwWrite
  split
  · exact (hwRuns_storeOff _ _ _).trans (touchRuns_storeOff ..)
  · rfl

/-- A read of the scheduler (R315). -/
theorem ctxRead_storeOff (s : State) (l : Launch) (b va n : Nat) : storeOff (ctxRead s l b va n).after = storeOff s := by
  unfold ctxRead hwRead
  split
  · exact touchRuns_storeOff ..
  · rfl

theorem tilePut_storeOff (s : State) (t : Tile) : storeOff (tilePut s t) = storeOff s := rfl

theorem poisonAt_storeOff (s : State) (pa : Nat) (offs : List Nat) : storeOff (poisonAt s pa offs) = storeOff s := by
  refine foldl_keeps storeOff _ (fun t x => ?_) offs s
  rfl

/-- A scratchpad run that comes back (R321). -/
theorem loadImage_storeOff (l : Launch) (s : State) (c : Crew) : storeOff (loadImage l s c) = storeOff s := by
  unfold loadImage
  refine (poisonAt_storeOff ..).trans ?_
  refine Eq.trans (b := storeOff (ctxRead (ctxRead (clearRun s c.cluster c.core c.spbase c.splen) l c.key.band
    (imageArea l c.key.band c.key.crew) c.splen).after l c.key.band (imageArea l c.key.band c.key.crew + c.splen) (c.splen / 32)).after) rfl ?_
  exact (ctxRead_storeOff ..).trans ((ctxRead_storeOff ..).trans rfl)

/-- Tiles that come back (R321). -/
theorem loadTiles_storeOff (l : Launch) (s : State) (g : Group) : storeOff (loadTiles l s g) = storeOff s :=
  foldl_keeps storeOff _ (fun t _ => (tilePut_storeOff ..).trans (ctxRead_storeOff t ..)) _ s

/-! ### Crews found -/

/-- A crew found stands under the key looked for. -/
theorem key_of_findCrew {s : State} {k : GKey} {c : Crew} (h : findCrew s k = some c) : c.key = crewKey k := by
  unfold findCrew at h
  split at h
  · next hk => exact Option.some.inj h ▸ hk
  · simpa using List.find?_some h

theorem findCrew_congr {s t : State} (h : storeOff t = storeOff s) (k : GKey) : findCrew t k = findCrew s k := by
  unfold findCrew
  rw [show t.crew = s.crew from (congrArg State.crew h :), show t.crews = s.crews from (congrArg State.crews h :)]

/-- A change of one crew is seen there and nowhere else. -/
theorem findCrew_onCrewData (s : State) (k j : GKey) {f : Crew → Crew} (hf : ∀ c, (f c).key = c.key) :
    findCrew (onCrewData s k f) j = if crewKey j = crewKey k then (findCrew s j).map f else findCrew s j := by
  unfold findCrew onCrewData
  split
  · next hk =>
    by_cases hj : crewKey j = crewKey k
    · simp [hj, hk, hf]
    · have : ¬ crewKey k = crewKey j := fun h => hj h.symm
      simp [hj, hk, hf, this]
  · next hk =>
    by_cases hj : crewKey j = crewKey k
    · simp only [hj, hk, if_true, if_false]
      exact find?_replaceFirst_same _ f (fun x => by rw [hf]) _
    · dsimp only
      rw [find?_replaceFirst_other, if_neg hj]
      intro x hx
      have hx : x.key = crewKey k := by simpa using hx
      have : ¬ crewKey k = crewKey j := fun h => hj h.symm
      simp [hf, hx, this]

theorem onCrewGroups_crews (s : State) (k : GKey) (f : Group → Group) (j : GKey) : findCrew (onCrewGroups s k f) j = findCrew s j := rfl

theorem onGroupData_crews (s : State) (k : GKey) (f : Group → Group) (j : GKey) : findCrew (onGroupData s k f) j = findCrew s j := by
  unfold onGroupData
  split <;> rfl

/-! ### Groups but for their places -/

/-- A group but for its core and its tiles. -/
def placeOff (g : Group) : Group := { g with cluster := 0, core := 0, tiles := [] }

/-- The groups of the machine but for their cores and tiles. -/
def groupsOff (s : State) : Group × List Group := (placeOff s.cur, s.groups.map placeOff)

theorem groupsOff_congr {s t : State} (h : storeOff t = storeOff s) : groupsOff t = groupsOff s :=
  (congrArg groupsOff h :)

theorem onGroupData_groupsOff (s : State) (k : GKey) {f : Group → Group} (hf : ∀ g, placeOff (f g) = placeOff g) :
    groupsOff (onGroupData s k f) = groupsOff s := by
  unfold onGroupData groupsOff
  split
  · simp [hf]
  · simp [map_replaceFirst _ f placeOff hf]

theorem onCrewGroups_groupsOff (s : State) (k : GKey) {f : Group → Group} (hf : ∀ g, placeOff (f g) = placeOff g) :
    groupsOff (onCrewGroups s k f) = groupsOff s := by
  have hh : ∀ g : Group, placeOff (if g.status = .resident && crewKey g.key = crewKey k then f g else g) = placeOff g := by
    intro g
    split
    · exact hf g
    · rfl
  unfold onCrewGroups groupsOff
  simp only [List.map_map, hh]
  congr 1
  exact List.map_congr_left fun g _ => hh g

theorem onCrewData_groupsOff (s : State) (k : GKey) (f : Crew → Crew) : groupsOff (onCrewData s k f) = groupsOff s := by
  unfold onCrewData
  split <;> rfl

theorem find?_placeOff (k : GKey) (l : List Group) :
    (l.map placeOff).find? (fun g => decide (g.key = k)) = (l.find? fun g => decide (g.key = k)).map placeOff := by
  rw [List.find?_map]
  rfl

/-- Where the groups but for their places agree, a group found before is found, and no other part of it differs. -/
theorem findGroup_of_groupsOff {s t : State} (h : groupsOff t = groupsOff s) {k : GKey} {g : Group} (hg : findGroup s k = some g) :
    ∃ g', findGroup t k = some g' ∧ g' = { g with cluster := g'.cluster, core := g'.core, tiles := g'.tiles } := by
  obtain ⟨hcur, hgroups⟩ := Prod.mk.inj h
  have hkey : t.cur.key = s.cur.key := (congrArg Group.key hcur :)
  have hstatus : t.cur.status = s.cur.status := (congrArg Group.status hcur :)
  have hoff : (findGroup t k).map placeOff = some (placeOff g) := by
    rw [← Option.map_some, ← hg]
    unfold findGroup
    rw [hkey, hstatus]
    split
    · rw [Option.map_some, Option.map_some, hcur]
    · rw [← find?_placeOff, ← find?_placeOff, hgroups]
  obtain ⟨g', hg', hoff⟩ := Option.map_eq_some_iff.1 hoff
  refine ⟨g', hg', ?_⟩
  exact (congrArg (fun x : Group => { x with cluster := g'.cluster, core := g'.core, tiles := g'.tiles }) hoff :)

end Sys2Proof.Machine
end

section
/-! Bands give way: PREWAIT_EXPIRY and PREEMPT_COMMAND (R318, R321, R323). -/
namespace Sys2Proof.Machine

open Sys2Proof.Claims

/-- The name of a placed band. -/
def bandKey (x : Band) : Nat × Nat := (x.launch, x.band)

/-- A band told to leave. -/
def givenUp (x : Band) : Band := if x.phase = .resident then { x with phase := .leaving } else x

theorem bandKey_givenUp (x : Band) : bandKey (givenUp x) = bandKey x := by
  unfold givenUp
  split <;> rfl

theorem givenUp_givenUp (x : Band) : givenUp (givenUp x) = givenUp x := by
  by_cases h : x.phase = .resident <;> simp [givenUp, h]

/-- Where one element at most satisfies p, the first that does is the only one. -/
theorem replaceFirst_eq_map {α : Type} (p : α → Bool) (f : α → α) {l : List α} (h : l.Pairwise fun x y => ¬ (p x = true ∧ p y = true)) :
    replaceFirst p f l = l.map fun x => if p x = true then f x else x := by
  induction l with
  | nil => rfl
  | cons x r ih =>
    obtain ⟨hx, hr⟩ := List.pairwise_cons.1 h
    by_cases hp : p x = true
    · have hid : r.map (fun x => if p x = true then f x else x) = r := by
        conv_rhs => rw [← List.map_id r]
        exact List.map_congr_left fun y hy => if_neg fun hy' => hx y hy ⟨hp, hy'⟩
      simp [replaceFirst, hp, hid]
    · simp [replaceFirst, hp, ih hr]

/-- A band of some is told to leave. -/
def leavesWith (vs : List Band) (x : Band) : Band := if bandKey x ∈ vs.map bandKey then givenUp x else x

theorem bandKey_leavesWith (vs : List Band) (x : Band) : bandKey (leavesWith vs x) = bandKey x := by
  unfold leavesWith
  split
  · exact bandKey_givenUp x
  · rfl

theorem preemptBand_eq {s : State} (h : (s.bands.map bandKey).Nodup) (v : Band) :
    preemptBand s v.launch v.band = { s with bands := s.bands.map (leavesWith [v]) } := by
  have hpair : s.bands.Pairwise fun x y =>
      ¬ ((decide (x.launch = v.launch) && decide (x.band = v.band)) = true ∧ (decide (y.launch = v.launch) && decide (y.band = v.band)) = true) := by
    refine (List.pairwise_map.1 h).imp fun {x y} hne hxy => hne ?_
    simp only [Bool.and_eq_true, decide_eq_true_eq] at hxy
    obtain ⟨⟨hxl, hxb⟩, hyl, hyb⟩ := hxy
    simp [bandKey, hxl, hxb, hyl, hyb]
  unfold preemptBand onBand
  rw [replaceFirst_eq_map _ _ hpair]
  congr 1
  refine List.map_congr_left fun x _ => ?_
  simp [leavesWith, bandKey, givenUp]

/-- Bands told to leave one after the other (R318). -/
theorem preemptBands_eq (vs : List Band) : ∀ {s : State}, (s.bands.map bandKey).Nodup →
    vs.foldl (fun s b => preemptBand s b.launch b.band) s = { s with bands := s.bands.map (leavesWith vs) } := by
  induction vs with
  | nil =>
    intro s _
    have hid : s.bands.map (leavesWith []) = s.bands := by
      conv_rhs => rw [← List.map_id s.bands]
      exact List.map_congr_left fun x _ => by simp [leavesWith]
    rw [hid]
    rfl
  | cons v r ih =>
    intro s h
    have hkeys : ((s.bands.map (leavesWith [v])).map bandKey).Nodup := by
      rw [List.map_map]
      exact (congrArg List.Nodup (List.map_congr_left fun x _ => bandKey_leavesWith [v] x)).mpr h
    rw [List.foldl_cons, preemptBand_eq h, ih hkeys]
    dsimp only
    rw [List.map_map]
    congr 1
    refine List.map_congr_left fun x _ => ?_
    rw [Function.comp_apply, leavesWith, bandKey_leavesWith]
    unfold leavesWith
    by_cases hv : bandKey x = bandKey v <;> by_cases hr : bandKey x ∈ r.map bandKey <;> simp [hv, hr, givenUp_givenUp]

/-- The bands a cluster can give up for a level (R318). -/
theorem mem_victims {s : State} {c level : Nat} {v : Band} : v ∈ victims s c level ↔
    v ∈ s.bands ∧ v.level < level ∧ v.cluster = c ∧ v.phase = .resident ∧ inRegion s v.launch v.band = false := by
  unfold victims
  simp only [List.mem_flatMap, List.mem_range, List.mem_reverse, List.mem_filter, Bool.and_eq_true, decide_eq_true_eq,
    Bool.not_eq_true']
  constructor
  · rintro ⟨i, hi, hv, ⟨⟨rfl, hc⟩, hp⟩, hr⟩
    exact ⟨hv, hi, hc, hp, hr⟩
  · rintro ⟨hv, hl, hc, hp, hr⟩
    exact ⟨v.level, hl, hv, ⟨⟨rfl, hc⟩, hp⟩, hr⟩

/-- The bands chosen are among those the cluster can give up. -/
theorem chosenVictims_subset {s : State} {l : Launch} {level c : Nat} {v : Band} (h : v ∈ chosenVictims s l level c) : v ∈ victims s c level := by
  unfold chosenVictims at h
  dsimp only at h
  split at h
  · next w hw => exact List.mem_singleton.1 h ▸ List.mem_of_find?_eq_some hw
  · split at h
    · exact List.mem_of_mem_take h
    · cases h

/-- Where one band's removal is enough, one band is chosen (R318). -/
theorem chosenVictims_single {s : State} {l : Launch} {level c : Nat} {v : Band} (h : v ∈ victims s c level)
    (hfit : (assignCores s l (nextBand l) c [(v.launch, v.band)]).isSome) : ∃ w, chosenVictims s l level c = [w] := by
  unfold chosenVictims
  dsimp only
  split
  · next w _ => exact ⟨w, rfl⟩
  · next hnone => exact absurd hfit (List.find?_eq_none.1 hnone v h)

/-- PREWAIT_EXPIRY where the entry has waited and nothing leaves yet (R318). -/
theorem exec_prewaitExpiry {s : State} {id c : Nat} {e : Entry} {l : Launch} (he : entryOf s id = some e) (hl : findLaunch s id = some l)
    (hblock : e.blocking = true) (hwait : e.waitFrom + mgmtField s 0x338 31 0 * 1000 ≤ s.time) (hlive : clusterLive s c = true)
    (hleave : ∀ b ∈ s.bands, b.phase ≠ .leaving) (hfit : fitsSomewhere s l (nextBand l) = false) :
    exec (.prewaitExpiry id c) s = .next ((chosenVictims s l e.level c).foldl (fun s b => preemptBand s b.launch b.band) s) := by
  have hnone : (s.bands.any fun b => decide (b.phase = .leaving)) = false := by simpa using hleave
  refine Eq.trans (b := execPrewaitExpiry id c s) rfl ?_
  unfold execPrewaitExpiry
  rw [he, hl]
  simp [hblock, hwait, hlive, hnone, hfit]

/-- A band changed is found changed. -/
theorem findBand_onBand_same (s : State) (l b : Nat) {f : Band → Band} (hf : ∀ x, bandKey (f x) = bandKey x) :
    findBand (onBand s l b f) l b = (findBand s l b).map f := by
  refine find?_replaceFirst_same _ f (fun x => ?_) _
  obtain ⟨hl, hb⟩ := Prod.mk.inj (hf x)
  rw [hl, hb]

theorem findBand_onBand_other (s : State) {l b k j : Nat} (h : (k, j) ≠ (l, b)) {f : Band → Band} (hf : ∀ x, bandKey (f x) = bandKey x) :
    findBand (onBand s l b f) k j = findBand s k j := by
  refine find?_replaceFirst_other _ _ f (fun x hx => ?_) _
  obtain ⟨hl, hb⟩ := Prod.mk.inj (hf x)
  simp only [Bool.and_eq_true, decide_eq_true_eq] at hx
  obtain ⟨rfl, rfl⟩ := hx
  have : ¬ (x.launch = k ∧ x.band = j) := by rintro ⟨rfl, rfl⟩; exact h rfl
  simpa [hl, hb] using this

theorem key_of_findBand {s : State} {l b : Nat} {x : Band} (h : findBand s l b = some x) : x.launch = l ∧ x.band = b := by
  simpa using List.find?_some h

end Sys2Proof.Machine
end

section
/-! Crews and bands that resume, stopped crews that end; the statement on bands that leave and return settled (R321, R331, R332). -/
namespace Sys2Proof.Machine

open Sys2Proof.Claims

/-! ### A crew resumes -/

/-- A crew but for its subscriptions and where its run starts. -/
def runOff (c : Crew) : Crew := { c with spbase := 0, subs := [] }

/-- A crew as it stands after it has taken a core over: it runs, unless it is stopped or over. -/
def resumed (cl co : Nat) (halted : Bool) (c : Crew) : Crew :=
  { c with cluster := cl, core := co, halt := if halted then c.halt else .running }

/-- A crew is given its core and its run (R321). -/
def takePlace (cl : Nat) (p : Nat × Nat × Crew) (s : State) : State :=
  onCrewData (onCrewGroups s p.2.2.key fun g => { g with cluster := cl, core := p.1, tiles := [] }) p.2.2.key
    fun c => { c with cluster := cl, core := p.1, spbase := p.2.1 }

/-- A crew goes on, its deliveries with later frames (R280, R321). -/
def goOn (now : Nat) (c : Crew) : Crew := { c with halt := .running, subs := c.subs.map fun u => { u with since := now } }

theorem resumeGroup_crews (l : Launch) (cl co : Nat) (s : State) (k j : GKey) : findCrew (resumeGroup l cl co s k) j = findCrew s j := by
  unfold resumeGroup
  dsimp only
  split
  · rw [findCrew_congr (loadTiles_storeOff ..), onGroupData_crews]
  · exact onGroupData_crews ..

theorem resumeGroup_groupsOff (l : Launch) (cl co : Nat) (s : State) (k : GKey) : groupsOff (resumeGroup l cl co s k) = groupsOff s := by
  unfold resumeGroup
  dsimp only
  split
  · rw [groupsOff_congr (loadTiles_storeOff ..)]
    exact onGroupData_groupsOff _ _ fun _ => rfl
  · exact onGroupData_groupsOff _ _ fun _ => rfl

section
variable (l : Launch) (cl : Nat) (s : State) (p : Nat × Nat × Crew)

/-- A crew that stands stopped or is over only takes its place (R331, R332). -/
theorem resumeCrew_halted (h : (decide (p.2.2.halt = .stopped) || decide (p.2.2.halt = .over)) = true) :
    resumeCrew l cl s p = takePlace cl p s := by
  unfold resumeCrew
  dsimp only
  rw [if_pos h]
  rfl

/-- Any other goes on there, its run and its tiles restored: nothing else of it or of its groups changes (R321). -/
theorem resumeCrew_running (h : (decide (p.2.2.halt = .stopped) || decide (p.2.2.halt = .over)) = false) :
    ∃ u, u = onCrewData (takePlace cl p s) p.2.2.key (goOn (frameOf s)) ∧
      (∀ j, findCrew (resumeCrew l cl s p) j = findCrew u j) ∧ groupsOff (resumeCrew l cl s p) = groupsOff u := by
  refine ⟨_, rfl, fun j => ?_, ?_⟩
  · unfold resumeCrew
    dsimp only
    rw [if_neg (by simp [h]), foldl_keeps (fun t => findCrew t j) _ (fun t k => resumeGroup_crews ..)]
    split
    · exact findCrew_congr (loadImage_storeOff ..) j
    · rfl
  · unfold resumeCrew
    dsimp only
    rw [if_neg (by simp [h]), foldl_keeps groupsOff _ (fun t k => resumeGroup_groupsOff ..)]
    split
    · exact groupsOff_congr (loadImage_storeOff ..)
    · rfl

theorem takePlace_groupsOff : groupsOff (takePlace cl p s) = groupsOff s :=
  (onCrewData_groupsOff ..).trans (onCrewGroups_groupsOff _ _ fun _ => rfl)

/-- The groups keep all but their places. -/
theorem resumeCrew_groupsOff : groupsOff (resumeCrew l cl s p) = groupsOff s := by
  cases h : decide (p.2.2.halt = .stopped) || decide (p.2.2.halt = .over) with
  | true => rw [resumeCrew_halted l cl s p h, takePlace_groupsOff]
  | false =>
    obtain ⟨u, rfl, -, hg⟩ := resumeCrew_running l cl s p h
    rw [hg, onCrewData_groupsOff, takePlace_groupsOff]

theorem takePlace_crews (j : GKey) : findCrew (takePlace cl p s) j =
    if crewKey j = crewKey p.2.2.key then (findCrew s j).map fun c => { c with cluster := cl, core := p.1, spbase := p.2.1 } else findCrew s j :=
  findCrew_onCrewData _ _ _ fun _ => rfl

/-- The crew resumed is found at its place, every other as it was. -/
theorem resumeCrew_crews (j : GKey) : (findCrew (resumeCrew l cl s p) j).map runOff =
    if crewKey j = crewKey p.2.2.key then
      ((findCrew s j).map runOff).map (resumed cl p.1 (decide (p.2.2.halt = .stopped) || decide (p.2.2.halt = .over)))
    else (findCrew s j).map runOff := by
  cases h : decide (p.2.2.halt = .stopped) || decide (p.2.2.halt = .over) with
  | true =>
    rw [resumeCrew_halted l cl s p h, takePlace_crews]
    split
    · rw [Option.map_map, Option.map_map]
      rfl
    · rfl
  | false =>
    obtain ⟨u, rfl, hc, -⟩ := resumeCrew_running l cl s p h
    rw [hc, findCrew_onCrewData _ _ _ fun _ => by rfl, takePlace_crews]
    split
    · rw [Option.map_map, Option.map_map, Option.map_map]
      rfl
    · rfl

end

/-! ### A band resumes -/

/-- What a band's crew needs to resume: its core, its run, the crew. -/
def resumePlace (s : State) (x : Band) (l : Launch) (cl : Nat) (p : Nat × Nat) : Option (Nat × Nat × Crew) :=
  (findCrew s { launch := x.launch, band := x.band, crew := p.2, group := 0 }).map fun c =>
    (p.1, (resumeRun s x l.desc cl p.1 p.2).getD c.spbase, c)

/-- The crews of a band once each has its core. -/
def resumeAll (s : State) (x : Band) (l : Launch) (cl : Nat) (cores : List Nat) : State :=
  (cores.zipIdx.filterMap (resumePlace s x l cl)).foldl (resumeCrew l cl) s

theorem resumeBand_eq (s : State) (x : Band) (l : Launch) (cl : Nat) (cores : List Nat) : resumeBand s x l cl cores =
    onBand (resumeAll s x l cl cores) x.launch x.band fun y =>
      { y with cluster := cl, cores := cores, spbases := (cores.zipIdx.filterMap (resumePlace s x l cl)).map (·.2.1), phase := .resident,
               reloc := false } := rfl

theorem resumePlace_key {s : State} {x : Band} {l : Launch} {cl : Nat} {p : Nat × Nat} {q : Nat × Nat × Crew}
    (h : resumePlace s x l cl p = some q) : q.2.2.key = { launch := x.launch, band := x.band, crew := p.2, group := 0 } := by
  obtain ⟨c, hc, rfl⟩ := Option.map_eq_some_iff.1 h
  exact key_of_findCrew hc

/-- Each crew of the band takes its own place over. -/
theorem resumeAll_crew {s : State} {x : Band} {l : Launch} {cl : Nat} {cores : List Nat} {i co : Nat} {cr : Crew}
    (hi : cores[i]? = some co) (hcr : findCrew s { launch := x.launch, band := x.band, crew := i, group := 0 } = some cr) :
    (findCrew (resumeAll s x l cl cores) { launch := x.launch, band := x.band, crew := i, group := 0 }).map runOff =
      some (resumed cl co (decide (cr.halt = .stopped) || decide (cr.halt = .over)) (runOff cr)) := by
  obtain ⟨pre, post, hcut⟩ := zipIdx_cut hi
  obtain ⟨hpre, hpost⟩ := zipIdx_cut_ne hcut
  have hplace : resumePlace s x l cl (co, i) = some (co, (resumeRun s x l.desc cl co i).getD cr.spbase, cr) := by
    unfold resumePlace
    rw [hcr]
    rfl
  have hother : ∀ ps : List (Nat × Nat), (∀ p ∈ ps, p.2 ≠ i) → ∀ t, ∀ q ∈ ps.filterMap (resumePlace s x l cl),
      (findCrew (resumeCrew l cl t q) { launch := x.launch, band := x.band, crew := i, group := 0 }).map runOff =
        (findCrew t { launch := x.launch, band := x.band, crew := i, group := 0 }).map runOff := by
    intro ps hps t q hq
    obtain ⟨p, hp, hq⟩ := List.mem_filterMap.1 hq
    rw [resumeCrew_crews, resumePlace_key hq, if_neg]
    intro hkey
    exact hps p hp (congrArg GKey.crew hkey).symm
  unfold resumeAll
  rw [hcut, List.filterMap_append, List.filterMap_cons_some hplace]
  refine (foldl_once (fun t => (findCrew t { launch := x.launch, band := x.band, crew := i, group := 0 }).map runOff) (resumeCrew l cl)
    (g := Option.map (resumed cl co (decide (cr.halt = .stopped) || decide (cr.halt = .over)))) (hother pre hpre) (hother post hpost)
    (fun t => ?_) s).trans ?_
  · rw [resumeCrew_crews, if_pos]
    rw [key_of_findCrew hcr]
    rfl
  · rw [hcr]
    rfl

theorem resumeAll_groupsOff (s : State) (x : Band) (l : Launch) (cl : Nat) (cores : List Nat) :
    groupsOff (resumeAll s x l cl cores) = groupsOff s :=
  foldl_keeps groupsOff _ (fun t p => resumeCrew_groupsOff l cl t p) _ s

theorem resumeCrew_bands (l : Launch) (cl : Nat) (s : State) (p : Nat × Nat × Crew) : (resumeCrew l cl s p).bands = s.bands := by
  have hcrew : ∀ (t : State) k f, (onCrewData t k f).bands = t.bands := by
    intro t k f
    unfold onCrewData
    split <;> rfl
  have hgroup : ∀ (t : State) k, (resumeGroup l cl p.1 t k).bands = t.bands := by
    intro t k
    have hdata : ∀ f, (onGroupData t k f).bands = t.bands := by
      intro f
      unfold onGroupData
      split <;> rfl
    unfold resumeGroup
    dsimp only
    split
    · exact (congrArg State.bands (loadTiles_storeOff l _ _) :).trans (hdata _)
    · exact hdata _
  unfold resumeCrew
  dsimp only
  split
  · exact hcrew ..
  · rw [foldl_keeps State.bands _ hgroup]
    split
    · exact (congrArg State.bands (loadImage_storeOff l _ _) :).trans ((hcrew ..).trans (hcrew ..))
    · exact (hcrew ..).trans (hcrew ..)

theorem resumeAll_bands (s : State) (x : Band) (l : Launch) (cl : Nat) (cores : List Nat) : (resumeAll s x l cl cores).bands = s.bands :=
  foldl_keeps State.bands _ (fun t p => resumeCrew_bands l cl t p) _ s

/-- What is known of a crew but for its run and subscriptions. -/
theorem of_runOff_resumed {o : Option Crew} {cl co : Nat} {b : Bool} {c : Crew} (h : o.map runOff = some (resumed cl co b (runOff c))) :
    ∃ c', o = some c' ∧ c'.cluster = cl ∧ c'.core = co ∧ c'.halt = (if b then c.halt else .running) ∧ c'.tags = c.tags ∧ c'.bbs = c.bbs ∧
      c'.cbars = c.cbars := by
  obtain ⟨c', rfl, hc⟩ := Option.map_eq_some_iff.1 h
  exact ⟨c', rfl, (congrArg Crew.cluster hc :), (congrArg Crew.core hc :), (congrArg Crew.halt hc :), (congrArg Crew.tags hc :),
    (congrArg Crew.bbs hc :), (congrArg Crew.cbars hc :)⟩

/-! ### A stopped crew ends -/

/-- END_STOPPED_CREW of a crew that stands stopped (R332). -/
theorem exec_endStoppedCrew {s : State} {k : GKey} {c : Crew} (hc : findCrew s k = some c) (hstop : c.halt = .stopped) :
    exec (.endStoppedCrew k) s = .next (onLaunch (onCrewData (onCrewGroups s k (finishGroup none)) k fun c => { c with halt := .over })
      k.launch fun l => { l with status := 0x0C }) := by
  refine Eq.trans (b := execEndStoppedCrew k s) rfl ?_
  unfold execEndStoppedCrew
  rw [hc]
  exact if_pos hstop

/-- Every group of a crew that is ended has ended. -/
theorem ended_of_finishGroup {s : State} {k : GKey} {g : Group} (hg : g ∈ allGroups (onCrewGroups s k (finishGroup none)))
    (hk : crewKey g.key = crewKey k) : g.status = .ended := by
  have hall : ∃ x, g = if x.status = .resident && crewKey x.key = crewKey k then finishGroup none x else x := by
    obtain ⟨hmem, -⟩ := List.mem_filter.1 hg
    rcases List.mem_cons.1 hmem with rfl | hmem
    · exact ⟨s.cur, rfl⟩
    · obtain ⟨x, -, rfl⟩ := List.mem_map.1 hmem
      exact ⟨x, rfl⟩
  have hne : g.status ≠ .empty := by simpa using (List.mem_filter.1 hg).2
  obtain ⟨x, rfl⟩ := hall
  by_cases hx : (decide (x.status = .resident) && decide (crewKey x.key = crewKey k)) = true
  · rw [if_pos hx]
    rfl
  · rw [if_neg hx] at hk hne ⊢
    cases hst : x.status with
    | empty => exact absurd hst hne
    | ended => rfl
    | resident => simp [hst, hk] at hx

theorem onCrewData_allGroups (s : State) (k : GKey) (f : Crew → Crew) : allGroups (onCrewData s k f) = allGroups s := by
  unfold onCrewData
  split <;> rfl

theorem memGet_onCrewData (s : State) (k : GKey) (f : Crew → Crew) (a : Nat) : memGet (onCrewData s k f) a = memGet s a := by
  unfold onCrewData
  split <;> rfl

/-- A launch changed is found changed. -/
theorem findLaunch_onLaunch (s : State) (id : Nat) {f : Launch → Launch} (hf : ∀ l, (f l).id = l.id) :
    findLaunch (onLaunch s id f) id = (findLaunch s id).map f :=
  find?_replaceFirst_same _ f (fun x => by rw [hf]) _

theorem findLaunch_onCrewData (s : State) (k : GKey) (f : Crew → Crew) (id : Nat) : findLaunch (onCrewData s k f) id = findLaunch s id := by
  unfold onCrewData
  split <;> rfl

/-! ### The statement -/

/-- Settles O49: bands told to leave change in place, one at most under each name; a crew that resumes keeps every register of its groups. -/
theorem bandsLeaveAndReturn : Obligations.BandsLeaveAndReturn := by
  unfold Obligations.BandsLeaveAndReturn
  intro s
  refine ⟨?_, ?_, ?_, ?_, ?_, fun k => rfl⟩
  · intro id c e l he hl hblock hwait hlive hleave hfit hkeys
    refine ⟨_, exec_prewaitExpiry he hl hblock hwait hlive hleave hfit, ?_⟩
    rw [preemptBands_eq _ hkeys]
    refine ⟨rfl, List.length_map .., fun i x y hx hy => ?_, fun v hv hlevel hc hphase hreg hsome => ?_⟩
    · have hmem : x ∈ s.bands := List.mem_of_getElem? hx
      have hy : leavesWith (chosenVictims s l e.level c) x = y := by simpa [hx] using hy
      by_cases hin : bandKey x ∈ (chosenVictims s l e.level c).map bandKey
      · obtain ⟨v, hv, hvx⟩ := List.mem_map.1 hin
        obtain ⟨hvm, hlevel, hc, hphase, hreg⟩ := mem_victims.1 (chosenVictims_subset hv)
        obtain rfl : v = x := List.inj_on_of_nodup_map hkeys hvm hmem hvx
        rw [leavesWith, if_pos hin, givenUp, if_pos hphase] at hy
        exact .inr ⟨hy.symm, hphase, hlevel, hc, hreg⟩
      · rw [leavesWith, if_neg hin] at hy
        exact .inl hy.symm
    · obtain ⟨w, hw⟩ := chosenVictims_single (mem_victims.2 ⟨hv, hlevel, hc, hphase, hreg⟩) hsome
      obtain ⟨hwm, -, -, hwp, -⟩ := mem_victims.1 (chosenVictims_subset (hw ▸ List.mem_singleton_self w))
      exact ⟨_, List.mem_map_of_mem hwm, by simp [hw, leavesWith, givenUp, hwp]⟩
  · intro l b reloc x hx
    have hgive : ∀ x : Band, bandKey (if x.phase = .resident then { x with phase := .leaving } else x) = bandKey x := bandKey_givenUp
    refine ⟨_, rfl, rfl, ?_, fun k j h => ?_⟩
    · rw [findBand_onBand_same _ _ _ fun _ => by rfl, preemptBand, findBand_onBand_same _ _ _ hgive, hx]
      by_cases hp : x.phase = .resident <;> simp [hp]
    · rw [findBand_onBand_other _ h fun _ => by rfl, preemptBand, findBand_onBand_other _ h hgive]
  · intro l b c cores x y hx hy hsaved hok
    obtain ⟨rfl, rfl⟩ := key_of_findBand hx
    have hexec : exec (.bandResume x.launch x.band c cores) s = .next (resumeBand s x y c cores) := by
      refine Eq.trans (b := execBandResume x.launch x.band c cores s) rfl ?_
      unfold execBandResume
      rw [hx, hy]
      simp [hsaved, hok]
    have hfound : findBand (resumeAll s x y c cores) x.launch x.band = some x := by
      unfold findBand
      rw [resumeAll_bands]
      exact hx
    have hback := findBand_onBand_same (resumeAll s x y c cores) x.launch x.band (f := fun z =>
      { z with cluster := c, cores := cores, spbases := (cores.zipIdx.filterMap (resumePlace s x y c)).map (·.2.1), phase := .resident,
               reloc := false }) fun _ => rfl
    rw [hfound, ← resumeBand_eq] at hback
    refine ⟨_, _, hexec, hback, rfl, rfl, rfl, rfl, fun i co cr hi hcr => ?_,
      fun k g hg => findGroup_of_groupsOff (s := s) (resumeAll_groupsOff s x y c cores) hg⟩
    · obtain ⟨c', hc', hcl, hco, hhalt, hrest⟩ := of_runOff_resumed (resumeAll_crew (l := y) (cl := c) hi hcr)
      exact ⟨c', hc', hcl, hco, by simpa using hhalt, hrest⟩
  · intro k c l b hc hl hb hstop hphase hfree
    have hexec : exec (.resumeStoppedCrew k) s = .next (resumeCrew l c.cluster s (c.core, c.spbase, { c with halt := .running })) := by
      refine Eq.trans (b := execResumeStoppedCrew k s) rfl ?_
      unfold execResumeStoppedCrew
      rw [hc, hl, hb]
      simp [hstop, hphase, hfree]
    have hcrew := resumeCrew_crews l c.cluster s (c.core, c.spbase, { c with halt := .running }) k
    rw [if_pos (by rw [key_of_findCrew hc]; rfl), hc] at hcrew
    obtain ⟨c', hc', hcl, hco, hhalt, htags, hbbs, -⟩ := of_runOff_resumed (c := c) hcrew
    exact ⟨_, c', hexec, hc', hhalt, hcl, hco, htags, hbbs, fun j g hg => findGroup_of_groupsOff (resumeCrew_groupsOff ..) hg⟩
  · intro k c l hc hl hstop
    refine ⟨_, exec_endStoppedCrew hc hstop, ?_, ?_, fun g hg hk => ?_, fun a => ?_⟩
    · refine Eq.trans (b := findCrew (onCrewData (onCrewGroups s k (finishGroup none)) k fun c => { c with halt := .over }) k) rfl ?_
      rw [findCrew_onCrewData _ _ _ fun _ => by rfl, if_pos rfl, onCrewGroups_crews, hc]
      rfl
    · rw [findLaunch_onLaunch _ _ fun _ => by rfl, findLaunch_onCrewData]
      exact congrArg (Option.map _) hl
    · have hg : g ∈ allGroups (onCrewData (onCrewGroups s k (finishGroup none)) k fun c => { c with halt := .over }) := hg
      rw [onCrewData_allGroups] at hg
      exact ended_of_finishGroup hg hk
    · exact (memGet_onCrewData ..).trans rfl

end Sys2Proof.Machine
end

section
/-! What placing a group and placing a crew do (R13, R14, R29, R40, R75, R314). -/
namespace Sys2Proof.Machine

open Sys2Proof.Claims

/-! ### Groups at their start -/

/-- A group at its start, with the range it inherits, if any (R29, R40). -/
def startGroup (l : Launch) (b c g cl co : Nat) (ps : List Nat) : Option KeptRange → Group
  | none => newGroup l b c g cl co ps
  | some k => inherit k (newGroup l b c g cl co ps)

theorem inherit_key (k : KeptRange) (g : Group) : (inherit k g).key = g.key := by
  unfold inherit
  dsimp only
  split <;> rfl

theorem startGroup_key (l : Launch) (b c g cl co : Nat) (ps : List Nat) (o : Option KeptRange) :
    (startGroup l b c g cl co ps o).key = { launch := l.id, band := b, crew := c, group := g } := by
  cases o with
  | none => rfl
  | some k => exact inherit_key k _

theorem vget_replicate {α : Type} {n : Nat} (x d : α) (i : Fin n) : vget (Vector.replicate n x) i d = x := by simp [vget]

theorem newGroup_start (l : Launch) (b c k cl co : Nat) (ps : List Nat) : GroupStart (newGroup l b c k cl co ps) l b c k cl co where
  place := ⟨rfl, rfl, rfl⟩
  pc := rfl
  scalars r := by
    refine Eq.trans (b := spGet (spSet (spSet [] 1 l.param) 63 (BitVec.ofNat 64 (stackArea l b c k + l.desc.stksz))) r) rfl ?_
    by_cases h63 : r = 63
    · simp [h63]
    · by_cases h1 : r = 1
      · rw [spGet_spSet_other _ _ (Ne.symm h63), h1, spGet_spSet_same, if_pos rfl]
      · rw [spGet_spSet_other _ _ (Ne.symm h63), spGet_spSet_other _ _ (Ne.symm h1), if_neg h1, if_neg h63]
        rfl
  ix i := vget_replicate _ _ i
  preds i := vget_replicate _ _ i
  fmt := ⟨rfl, rfl, rfl, rfl, rfl, rfl⟩
  flags i := vget_replicate _ _ i
  prng := ⟨rfl, fun i hi => lfsrGet_setPrng _ _ hi⟩
  counters := ⟨rfl, rfl, rfl, rfl, rfl⟩
  launch := ⟨rfl, rfl, rfl, rfl, rfl, rfl, rfl⟩
  outside := ⟨rfl, rfl, rfl, rfl, rfl⟩

/-- A group that inherits starts as any other, its lane registers aside (R40). -/
theorem inherit_start {r : KeptRange} {g : Group} {l : Launch} {b c k cl co : Nat} (h : GroupStart g l b c k cl co) :
    GroupStart (inherit r g) l b c k cl co := by
  unfold inherit
  dsimp only
  split <;> exact ⟨h.place, h.pc, h.scalars, h.ix, h.preds, h.fmt, h.flags, h.prng, h.counters, h.launch, h.outside⟩

theorem startGroup_start (l : Launch) (b c k cl co : Nat) (ps : List Nat) (o : Option KeptRange) :
    GroupStart (startGroup l b c k cl co ps o) l b c k cl co := by
  cases o with
  | none => exact newGroup_start ..
  | some r => exact inherit_start (newGroup_start ..)

theorem laneGet_newGroup (l : Launch) (b c k cl co : Nat) (ps : List Nat) (x : Nat) : laneGet (newGroup l b c k cl co ps) x = 0 := rfl

/-- The granules of a range, and no other slot. -/
theorem spGet_granuleVals (m : Sparse 32) (first count x : Nat) :
    spGet (granuleVals m first count) x = if 8 * first * 32 ≤ x ∧ x < 8 * (first + count) * 32 then spGet m x else 0 := by
  unfold granuleVals
  induction m with
  | nil => simp [spGet]
  | cons p r ih =>
    obtain ⟨i, y⟩ := p
    by_cases hi : i = x
    · subst hi
      by_cases hin : 8 * first * 32 ≤ i ∧ i < 8 * (first + count) * 32
      · simp [spGet, laneKey, hin]
      · rw [if_neg hin] at ih ⊢
        rw [List.filter_cons_of_neg (by simpa [laneKey] using hin)]
        exact ih
    · rw [List.filter_cons]
      split
      · simpa [spGet, hi] using ih
      · simpa [spGet, hi] using ih

/-- A group placed on its counterpart's core starts with the lane registers kept for it (R40). -/
theorem laneGet_inherit_here {r : KeptRange} {g : Group} (h : keptHere r g.cluster g.core = true) (hr : r.first + r.count ≤ g.nslots / 8)
    (x : Nat) : laneGet (inherit r g) x = if 8 * r.first * 32 ≤ x ∧ x < 8 * (r.first + r.count) * 32 then spGet r.vals x else 0 := by
  have hn : min r.count (g.nslots / 8 - r.first) = r.count := by omega
  unfold inherit
  dsimp only
  rw [if_pos h, hn]
  exact spGet_granuleVals ..

/-- One placed elsewhere starts with those granules absent, to fill from the spilled range (R40). -/
theorem inherit_elsewhere {r : KeptRange} {g : Group} (h : keptHere r g.cluster g.core = false) : inherit r g =
    { g with absent := ((List.range r.count).map (r.first + ·)).filter (· < g.nslots / 8), fillFrom := r.area, fillAsid := r.asid,
             fillPt := r.ptbase } := by
  unfold inherit
  dsimp only
  rw [if_neg (by simp [h])]

theorem mem_granules {r : KeptRange} {n j : Nat} :
    j ∈ ((List.range r.count).map (r.first + ·)).filter (· < n) ↔ j < n ∧ r.first ≤ j ∧ j < r.first + r.count := by
  simp only [List.mem_filter, List.mem_map, List.mem_range, decide_eq_true_eq]
  constructor
  · rintro ⟨⟨i, hi, rfl⟩, hj⟩
    omega
  · rintro ⟨hj, hlo, hhi⟩
    exact ⟨⟨j - r.first, by omega, by omega⟩, hj⟩

/-! ### Placing a group -/

/-- The state but for what the scheduler's stores change, and the lists a placement adds to. -/
def placedOff (t : State) : State := { storeOff t with groups := [], crews := [], keptRanges := [] }

theorem freshTiles_storeOff (s : State) (cl co : Nat) (ps : List Nat) : storeOff (freshTiles s cl co ps) = storeOff s := by
  refine foldl_keeps storeOff _ (fun t x => ?_) ps s
  rfl

theorem spillKept_storeOff (s : State) (k : KeptRange) : storeOff (spillKept s k) = storeOff s := by
  unfold spillKept
  dsimp only
  split
  · rfl
  · exact foldl_keeps storeOff _ (fun t i => hwWrite_storeOff ..) _ s

theorem spillCore_placedOff (cl : Nat) (s : State) (co : Nat) : placedOff (spillCore cl s co) = placedOff s := by
  unfold spillCore
  dsimp only
  refine Eq.trans (b := placedOff ((s.keptRanges.filter fun k => decide (k.cluster = cl) && decide (k.core = co)).foldl spillKept s)) rfl ?_
  exact (congrArg placedOff (foldl_keeps storeOff _ (fun t k => spillKept_storeOff t k) _ s) :)

theorem keptFor_congr {s t : State} (h : storeOff t = storeOff s) (l : Launch) (b c g : Nat) : keptFor t l b c g = keptFor s l b c g := by
  unfold keptFor
  rw [show t.keptRanges = s.keptRanges from (congrArg State.keptRanges h :)]

section
variable (l : Launch) (b c cl co : Nat) (s : State) (k : Nat)

/-- A group placed joins the groups; the rest but for memory and tiles is as it was. -/
theorem placeGroup_storeOff : storeOff (placeGroup l b c cl co s k) = storeOff { s with groups := s.groups ++
    [startGroup l b c k cl co ((freeTiles s cl co).take l.desc.ntiles) (keptFor s l b c k)] } := by
  have hfresh := freshTiles_storeOff s cl co ((freeTiles s cl co).take l.desc.ntiles)
  have happend : ∀ {t u : State} (g : Group), storeOff t = storeOff u →
      storeOff { t with groups := t.groups ++ [g] } = storeOff { u with groups := u.groups ++ [g] } := fun g h =>
    (congrArg (fun v : State => storeOff { v with groups := v.groups ++ [g] }) h :)
  unfold placeGroup
  dsimp only
  cases hk : keptFor s l b c k with
  | none => exact happend _ hfresh
  | some r =>
    dsimp only
    split
    · exact happend _ hfresh
    · exact happend _ ((spillKept_storeOff ..).trans hfresh)

theorem placeGroup_groups : (placeGroup l b c cl co s k).groups =
    s.groups ++ [startGroup l b c k cl co ((freeTiles s cl co).take l.desc.ntiles) (keptFor s l b c k)] :=
  (congrArg State.groups (placeGroup_storeOff l b c cl co s k) :)

theorem placeGroup_crews (j : GKey) : findCrew (placeGroup l b c cl co s k) j = findCrew s j :=
  (findCrew_congr (placeGroup_storeOff l b c cl co s k) j).trans rfl

theorem placeGroup_kept (i g : Nat) : keptFor (placeGroup l b c cl co s k) l b i g = keptFor s l b i g :=
  (keptFor_congr (placeGroup_storeOff l b c cl co s k) l b i g).trans rfl

/-- The group placed is found, where none of its name was. -/
theorem findGroup_placeGroup_same (h : findGroup s { launch := l.id, band := b, crew := c, group := k } = none) :
    findGroup (placeGroup l b c cl co s k) { launch := l.id, band := b, crew := c, group := k } =
      some (startGroup l b c k cl co ((freeTiles s cl co).take l.desc.ntiles) (keptFor s l b c k)) := by
  have hcur : (placeGroup l b c cl co s k).cur = s.cur := (congrArg State.cur (placeGroup_storeOff l b c cl co s k) :)
  unfold findGroup at h ⊢
  rw [hcur, placeGroup_groups]
  split at h
  · cases h
  · next hne => rw [if_neg hne, List.find?_append, h, Option.none_or, List.find?_cons_of_pos (by simp [startGroup_key])]

/-- Every other group is found as it was. -/
theorem findGroup_placeGroup_other {j : GKey} (h : j ≠ { launch := l.id, band := b, crew := c, group := k }) :
    findGroup (placeGroup l b c cl co s k) j = findGroup s j := by
  have hcur : (placeGroup l b c cl co s k).cur = s.cur := (congrArg State.cur (placeGroup_storeOff l b c cl co s k) :)
  unfold findGroup
  rw [hcur, placeGroup_groups, List.find?_append, List.find?_cons_of_neg (by simpa [startGroup_key] using Ne.symm h), List.find?_nil,
    Option.or_none]

/-- With nothing to inherit no byte of memory changes. -/
theorem placeGroup_memory (h : keptFor s l b c k = none) : (placeGroup l b c cl co s k).mem = s.mem ∧ (placeGroup l b c cl co s k).fe = s.fe := by
  have hfresh : ∀ (ps : List Nat), (freshTiles s cl co ps).mem = s.mem ∧ (freshTiles s cl co ps).fe = s.fe := by
    intro ps
    refine ⟨foldl_keeps State.mem _ (fun t x => ?_) ps s, foldl_keeps State.fe _ (fun t x => ?_) ps s⟩
    · rfl
    · rfl
  unfold placeGroup
  dsimp only
  rw [h]
  exact hfresh _

end

/-! ### Placing a crew -/

/-- A run cleared is zero and empty, and no other byte changes (R75). -/
theorem memGet_clearRun (s : State) (cl co base len a : Nat) : memGet (clearRun s cl co base len) a =
    if scratchPa cl co base ≤ a ∧ a < scratchPa cl co base + len then 0 else memGet s a := by
  refine Eq.trans (b := spGet (fillZero s (scratchPa cl co base) len).mem a ^^^ memUnlisted s.revived a) rfl ?_
  rw [fillZero_mem]
  split
  · next hrev =>
    have hzero : memUnlisted s.revived a = 0 := by rw [List.isEmpty_iff.1 hrev]; rfl
    rw [spGet_spClear]
    split
    · rw [hzero]; rfl
    · rfl
  · split
    · next hin =>
      obtain ⟨i, rfl⟩ := Nat.exists_eq_add_of_le hin.1
      rw [spGet_memPut_same _ _ _ _ _ (by rw [List.length_replicate]; omega), List.getElem_replicate]
    · next hout =>
      rw [spGet_memPut_other _ _ _ _ (by rw [List.length_replicate]; omega)]
      rfl

theorem setHas_clearRun (s : State) (cl co base len a : Nat) : setHas (clearRun s cl co base len).fe a =
    (setHas s.fe a && !decide (scratchPa cl co base ≤ a ∧ a < scratchPa cl co base + len)) := by
  unfold clearRun setHas
  dsimp only
  rw [Bool.eq_iff_iff]
  simp

end Sys2Proof.Machine
end

section
/-! A crew placed: its groups, its run, the ranges it uses up (R13, R29, R40, R75). -/
namespace Sys2Proof.Machine

open Sys2Proof.Claims

section
variable (l : Launch) (b cl : Nat) (s : State) (p : Nat × Nat)

/-- The crew that is placed on a core. -/
def placedCrew : Crew := newCrew l b p.2 cl p.1 (pickRun s l.desc cl p.1)

/-- A crew stands on its core, its run cleared, no group of it placed. -/
def crewOpened : State :=
  clearRun { s with crews := s.crews ++ [placedCrew l b cl s p] } cl p.1 (pickRun s l.desc cl p.1) (l.desc.units * 4096)

/-- The crew with its groups. -/
def crewFilled : State := (List.range l.desc.groups).foldl (placeGroup l b p.2 cl p.1) (crewOpened l b cl s p)

/-- Once a crew has its groups its counterpart's kept ranges are used up; that is all (R40). -/
theorem placeCrew_eq : placeCrew l b cl s p =
    { crewFilled l b cl s p with keptRanges := match counterpart l b p.2 with
        | some k => (crewFilled l b cl s p).keptRanges.filter fun x => crewKey x.key ≠ k
        | none => (crewFilled l b cl s p).keptRanges } := by
  unfold placeCrew
  cases counterpart l b p.2 <;> rfl

theorem placeGroup_placedOff (c co k : Nat) : placedOff (placeGroup l b c cl co s k) = placedOff s :=
  (congrArg placedOff (placeGroup_storeOff l b c cl co s k) :)

theorem crewFilled_placedOff : placedOff (crewFilled l b cl s p) = placedOff s :=
  (foldl_keeps placedOff _ (fun t k => placeGroup_placedOff l b cl t p.2 p.1 k) _ _).trans rfl

theorem placeCrew_placedOff : placedOff (placeCrew l b cl s p) = placedOff s :=
  (congrArg placedOff (placeCrew_eq l b cl s p) :).trans ((crewFilled_placedOff l b cl s p).symm ▸ rfl)

/-! ### The crew -/

theorem findCrew_placeCrew (j : GKey) : findCrew (placeCrew l b cl s p) j = findCrew (crewOpened l b cl s p) j :=
  (congrArg (findCrew · j) (placeCrew_eq l b cl s p) :).trans (foldl_keeps (findCrew · j) _ (fun t k => placeGroup_crews l b p.2 cl p.1 t k j) _ _)

/-- The crew placed is found, where none of its name was. -/
theorem findCrew_placeCrew_same (h : findCrew s { launch := l.id, band := b, crew := p.2, group := 0 } = none) :
    findCrew (placeCrew l b cl s p) { launch := l.id, band := b, crew := p.2, group := 0 } = some (placedCrew l b cl s p) := by
  rw [findCrew_placeCrew]
  refine Eq.trans (b := findCrew { s with crews := s.crews ++ [placedCrew l b cl s p] } _) rfl ?_
  unfold findCrew at h ⊢
  split at h
  · cases h
  · next hne =>
    rw [if_neg hne]
    dsimp only
    rw [List.find?_append, h, Option.none_or, List.find?_cons_of_pos (by simp [placedCrew, newCrew, crewKey])]

/-- Every other crew is found as it was. -/
theorem findCrew_placeCrew_other {j : GKey} (h : crewKey j ≠ { launch := l.id, band := b, crew := p.2, group := 0 }) :
    findCrew (placeCrew l b cl s p) j = findCrew s j := by
  rw [findCrew_placeCrew]
  refine Eq.trans (b := findCrew { s with crews := s.crews ++ [placedCrew l b cl s p] } j) rfl ?_
  unfold findCrew
  split
  · rfl
  · dsimp only
    rw [List.find?_append, List.find?_cons_of_neg (fun e => h (of_decide_eq_true e).symm), List.find?_nil, Option.or_none]

/-- The crew as R29 has it. -/
theorem placedCrew_start : CrewStart (placedCrew l b cl s p) l.desc cl p.1 where
  place := ⟨rfl, rfl⟩
  shape := ⟨rfl, rfl, List.length_replicate, List.length_replicate, List.length_replicate, rfl⟩
  tags := fun _ hx => List.eq_of_mem_replicate hx
  barriers := fun _ hx => by rw [List.eq_of_mem_replicate hx]; rfl
  crewBarriers := fun _ hx => by rw [List.eq_of_mem_replicate hx]; exact ⟨rfl, rfl⟩
  subs := rfl
  running := rfl

/-! ### Its groups -/

theorem findGroup_placeCrew (j : GKey) : findGroup (placeCrew l b cl s p) j = findGroup (crewFilled l b cl s p) j :=
  (congrArg (findGroup · j) (placeCrew_eq l b cl s p) :)

/-- A group of another crew is found as it was. -/
theorem findGroup_placeCrew_other {j : GKey} (h : j.crew ≠ p.2) : findGroup (placeCrew l b cl s p) j = findGroup s j := by
  rw [findGroup_placeCrew]
  refine (foldl_keeps (findGroup · j) _ (fun t k => findGroup_placeGroup_other l b p.2 cl p.1 t k ?_) _ _).trans rfl
  rintro rfl
  exact h rfl

/-- A group placed is found, as it stands at its start (R29, R40). -/
theorem findGroup_placeCrew_same {k : Nat} (hk : k < l.desc.groups)
    (h : findGroup s { launch := l.id, band := b, crew := p.2, group := k } = none) :
    ∃ ps, findGroup (placeCrew l b cl s p) { launch := l.id, band := b, crew := p.2, group := k } =
      some (startGroup l b p.2 k cl p.1 ps (keptFor s l b p.2 k)) := by
  obtain ⟨pre, post, hcut⟩ := List.append_of_mem (List.mem_range.2 hk)
  have hnodup : (pre ++ k :: post).Nodup := hcut ▸ List.nodup_range
  rw [List.nodup_append, List.nodup_cons] at hnodup
  obtain ⟨-, ⟨hpost, -⟩, hpre⟩ := hnodup
  have hother : ∀ (ks : List Nat) t, k ∉ ks → findGroup (ks.foldl (placeGroup l b p.2 cl p.1) t)
      { launch := l.id, band := b, crew := p.2, group := k } = findGroup t { launch := l.id, band := b, crew := p.2, group := k } := by
    intro ks t hks
    refine foldl_keeps_mem (findGroup · _) _ (fun t g hg => findGroup_placeGroup_other l b p.2 cl p.1 t g ?_) t
    intro heq
    have hkg : k = g := congrArg GKey.group heq
    exact hks (hkg ▸ hg)
  have hkept : keptFor (pre.foldl (placeGroup l b p.2 cl p.1) (crewOpened l b cl s p)) l b p.2 k = keptFor s l b p.2 k :=
    foldl_keeps (keptFor · l b p.2 k) _ (fun t g => placeGroup_kept l b p.2 cl p.1 t g p.2 k) pre _
  have hnone : findGroup (pre.foldl (placeGroup l b p.2 cl p.1) (crewOpened l b cl s p))
      { launch := l.id, band := b, crew := p.2, group := k } = none := by
    rw [hother pre _ fun hmem => hpre k hmem k List.mem_cons_self rfl]
    exact h
  have hplaced := findGroup_placeGroup_same l b p.2 cl p.1 _ k hnone
  rw [hkept] at hplaced
  rw [findGroup_placeCrew, crewFilled, hcut, List.foldl_append, List.foldl_cons, hother post _ hpost]
  exact ⟨_, hplaced⟩

/-- The ranges kept for other crews stay (R40). -/
theorem keptFor_placeCrew {i : Nat} (g : Nat) (h : i ≠ p.2) : keptFor (placeCrew l b cl s p) l b i g = keptFor s l b i g := by
  have hfilled : keptFor (crewFilled l b cl s p) l b i g = keptFor s l b i g :=
    foldl_keeps (keptFor · l b i g) _ (fun t k => placeGroup_kept l b p.2 cl p.1 t k i g) _ _
  rw [← hfilled, placeCrew_eq]
  unfold keptFor
  dsimp only
  split
  · next key hkey =>
    rw [List.find?_filter]
    congr 1
    funext x
    rw [Bool.eq_iff_iff]
    simp only [Bool.and_eq_true, decide_eq_true_eq, and_iff_right_iff_imp]
    rintro ⟨hinh, hx⟩ rfl
    rw [counterpart, if_pos hinh, hx] at hkey
    exact h (congrArg GKey.crew (Option.some.inj hkey)).symm
  · rfl

/-! ### Its run -/

theorem keptFor_of_not_inherits (h : l.inh = false) (i g : Nat) : keptFor s l b i g = none := by simp [keptFor, h]

/-- Where nothing is inherited, placing a crew clears its run and leaves every other byte (R75). -/
theorem placeCrew_memory (h : l.inh = false) :
    (∀ a, memGet (placeCrew l b cl s p) a = memGet (clearRun s cl p.1 (pickRun s l.desc cl p.1) (l.desc.units * 4096)) a) ∧
      (placeCrew l b cl s p).fe = (clearRun s cl p.1 (pickRun s l.desc cl p.1) (l.desc.units * 4096)).fe := by
  have hgroup : ∀ t k, (placeGroup l b p.2 cl p.1 t k).mem = t.mem ∧ (placeGroup l b p.2 cl p.1 t k).fe = t.fe := fun t k =>
    placeGroup_memory l b p.2 cl p.1 t k (keptFor_of_not_inherits l b t h p.2 k)
  have hmem : (crewFilled l b cl s p).mem = (crewOpened l b cl s p).mem := foldl_keeps State.mem _ (fun t k => (hgroup t k).1) _ _
  have hfe : (crewFilled l b cl s p).fe = (crewOpened l b cl s p).fe := foldl_keeps State.fe _ (fun t k => (hgroup t k).2) _ _
  have hrev : (crewFilled l b cl s p).revived = s.revived := (congrArg State.revived (crewFilled_placedOff l b cl s p) :)
  rw [placeCrew_eq]
  exact ⟨fun a => memGet_congr hmem hrev a, hfe⟩

theorem memGet_placeCrew (h : l.inh = false) (a : Nat) : memGet (placeCrew l b cl s p) a =
    if scratchPa cl p.1 (pickRun s l.desc cl p.1) ≤ a ∧ a < scratchPa cl p.1 (pickRun s l.desc cl p.1) + l.desc.units * 4096 then 0
    else memGet s a := by
  rw [(placeCrew_memory l b cl s p h).1, memGet_clearRun]

theorem setHas_placeCrew (h : l.inh = false) (a : Nat) : setHas (placeCrew l b cl s p).fe a = (setHas s.fe a &&
    !decide (scratchPa cl p.1 (pickRun s l.desc cl p.1) ≤ a ∧ a < scratchPa cl p.1 (pickRun s l.desc cl p.1) + l.desc.units * 4096)) := by
  rw [(placeCrew_memory l b cl s p h).2, setHas_clearRun]

/-- A byte that is zero and empty stays so (R75). -/
theorem placeCrew_keeps_clear (h : l.inh = false) {a : Nat} (ha : memGet s a = 0 ∧ setHas s.fe a = false) :
    memGet (placeCrew l b cl s p) a = 0 ∧ setHas (placeCrew l b cl s p).fe a = false := by
  obtain ⟨hmem, hfe⟩ := ha
  rw [memGet_placeCrew l b cl s p h, setHas_placeCrew l b cl s p h, hmem, hfe, ite_self]
  exact ⟨rfl, rfl⟩

end

end Sys2Proof.Machine
end

section
/-! A band placed: every crew and group of it, its runs, the launch's entry; the statement on band placement settled (R13, R29, R40, R75,
R311, R313, R314). -/
namespace Sys2Proof.Machine

open Sys2Proof.Claims

/-! ### The crews of a band, one after the other -/

/-- The machine once every crew of a band is placed. -/
def crewsPlaced (l : Launch) (b cl : Nat) (cores : List Nat) (s : State) : State := cores.zipIdx.foldl (placeCrew l b cl) s

/-- No crew and no group of a band stands in the machine. -/
structure BandAbsent (s : State) (id b : Nat) : Prop where
  crews : ∀ i, findCrew s { launch := id, band := b, crew := i, group := 0 } = none
  groups : ∀ i k, findGroup s { launch := id, band := b, crew := i, group := k } = none

theorem bandAbsent_of_forall {s : State} {id b : Nat} (hg : ∀ g ∈ s.cur :: s.groups, ¬ (g.key.launch = id ∧ g.key.band = b))
    (hc : ∀ x ∈ s.crew :: s.crews, ¬ (x.key.launch = id ∧ x.key.band = b)) : BandAbsent s id b := by
  refine ⟨fun i => ?_, fun i k => ?_⟩
  · unfold findCrew
    rw [if_neg fun h => hc s.crew List.mem_cons_self (by rw [h]; exact ⟨rfl, rfl⟩), List.find?_eq_none]
    intro x hx h
    exact hc x (List.mem_cons_of_mem _ hx) (by rw [of_decide_eq_true h]; exact ⟨rfl, rfl⟩)
  · have hcur : s.cur.key ≠ { launch := id, band := b, crew := i, group := k } := fun h =>
      hg s.cur List.mem_cons_self (by rw [h]; exact ⟨rfl, rfl⟩)
    unfold findGroup
    rw [if_neg (by simp [hcur]), List.find?_eq_none]
    intro x hx h
    exact hg x (List.mem_cons_of_mem _ hx) (by rw [of_decide_eq_true h]; exact ⟨rfl, rfl⟩)

section
variable {l : Launch} {b cl : Nat} {cores : List Nat} {s : State}

theorem crewsPlaced_placedOff : placedOff (crewsPlaced l b cl cores s) = placedOff s :=
  foldl_keeps placedOff _ (fun t p => placeCrew_placedOff l b cl t p) _ s

theorem findCrew_foldl_other {ps : List (Nat × Nat)} {i : Nat} (h : ∀ p ∈ ps, p.2 ≠ i) (t : State) :
    findCrew (ps.foldl (placeCrew l b cl) t) { launch := l.id, band := b, crew := i, group := 0 } =
      findCrew t { launch := l.id, band := b, crew := i, group := 0 } :=
  foldl_keeps_mem (findCrew · _) _ (fun u p hp => findCrew_placeCrew_other l b cl u p fun heq => h p hp (GKey.mk.inj heq).2.2.1.symm) t

theorem findGroup_foldl_other {ps : List (Nat × Nat)} {i : Nat} (h : ∀ p ∈ ps, p.2 ≠ i) (t : State) (k : Nat) :
    findGroup (ps.foldl (placeCrew l b cl) t) { launch := l.id, band := b, crew := i, group := k } =
      findGroup t { launch := l.id, band := b, crew := i, group := k } :=
  foldl_keeps_mem (findGroup · _) _ (fun u p hp => findGroup_placeCrew_other l b cl u p fun heq => h p hp heq.symm) t

theorem keptFor_foldl_other {ps : List (Nat × Nat)} {i : Nat} (h : ∀ p ∈ ps, p.2 ≠ i) (t : State) (k : Nat) :
    keptFor (ps.foldl (placeCrew l b cl) t) l b i k = keptFor t l b i k :=
  foldl_keeps_mem (keptFor · l b i k) _ (fun u p hp => keptFor_placeCrew l b cl u p k fun heq => h p hp heq.symm) t

theorem placedCrew_core (t : State) (p : Nat × Nat) : (placedCrew l b cl t p).core = p.1 := rfl

theorem placedCrew_spbase (t : State) (p : Nat × Nat) : (placedCrew l b cl t p).spbase = pickRun t l.desc cl p.1 := rfl

section
variable {pre post : List (Nat × Nat)} {p : Nat × Nat} (hcut : cores.zipIdx = pre ++ p :: post) (habs : BandAbsent s l.id b)
include hcut habs

/-- The crew at a position of the band is the one placed there. -/
theorem findCrew_crewsPlaced : findCrew (crewsPlaced l b cl cores s) { launch := l.id, band := b, crew := p.2, group := 0 } =
    some (placedCrew l b cl (pre.foldl (placeCrew l b cl) s) p) := by
  obtain ⟨hpre, hpost⟩ := zipIdx_cut_ne hcut
  rw [crewsPlaced, hcut, List.foldl_append, List.foldl_cons, findCrew_foldl_other hpost]
  exact findCrew_placeCrew_same l b cl _ p ((findCrew_foldl_other hpre s).trans (habs.crews p.2))

/-- Its groups stand at their start, with the ranges kept for them (R29, R40). -/
theorem findGroup_crewsPlaced {k : Nat} (hk : k < l.desc.groups) :
    ∃ ps, findGroup (crewsPlaced l b cl cores s) { launch := l.id, band := b, crew := p.2, group := k } =
      some (startGroup l b p.2 k cl p.1 ps (keptFor s l b p.2 k)) := by
  obtain ⟨hpre, hpost⟩ := zipIdx_cut_ne hcut
  rw [crewsPlaced, hcut, List.foldl_append, List.foldl_cons, findGroup_foldl_other hpost, ← keptFor_foldl_other hpre s]
  exact findGroup_placeCrew_same l b cl _ p hk ((findGroup_foldl_other hpre s k).trans (habs.groups p.2 k))

omit habs in
/-- Its run is zero and empty (R75). -/
theorem crewsPlaced_clear (hinh : l.inh = false) {a base : Nat} (hbase : base = pickRun (pre.foldl (placeCrew l b cl) s) l.desc cl p.1)
    (hlo : scratchPa cl p.1 base ≤ a) (hhi : a < scratchPa cl p.1 base + l.desc.units * 4096) :
    memGet (crewsPlaced l b cl cores s) a = 0 ∧ setHas (crewsPlaced l b cl cores s).fe a = false := by
  subst hbase
  have hkeep : ∀ (ps : List (Nat × Nat)) (t : State), memGet t a = 0 ∧ setHas t.fe a = false →
      memGet (ps.foldl (placeCrew l b cl) t) a = 0 ∧ setHas (ps.foldl (placeCrew l b cl) t).fe a = false := by
    intro ps
    induction ps with
    | nil => exact fun _ h => h
    | cons q r ih => exact fun t h => ih _ (placeCrew_keeps_clear l b cl t q hinh h)
  rw [crewsPlaced, hcut, List.foldl_append, List.foldl_cons]
  refine hkeep post _ ?_
  rw [memGet_placeCrew _ _ _ _ _ hinh, setHas_placeCrew _ _ _ _ _ hinh]
  simp [hlo, hhi]

end

/-- A byte outside every run of the band is as it was. -/
theorem memGet_crewsPlaced (habs : BandAbsent s l.id b) (hinh : l.inh = false) {a : Nat}
    (h : ∀ i cr, i < cores.length → findCrew (crewsPlaced l b cl cores s) { launch := l.id, band := b, crew := i, group := 0 } = some cr →
      a < scratchPa cl cr.core cr.spbase ∨ scratchPa cl cr.core cr.spbase + l.desc.units * 4096 ≤ a) :
    memGet (crewsPlaced l b cl cores s) a = memGet s a := by
  refine foldl_keeps_at (memGet · a) _ _ s fun pre p post hcut => ?_
  have hp : cores[p.2]? = some p.1 := List.mem_zipIdx_iff_getElem?.1 (hcut ▸ List.mem_append_right _ List.mem_cons_self)
  have hout := h p.2 _ (List.getElem?_eq_some_iff.1 hp).1 (findCrew_crewsPlaced hcut habs)
  rw [placedCrew_core, placedCrew_spbase] at hout
  rw [memGet_placeCrew _ _ _ _ _ hinh, if_neg (by omega)]

end

/-! ### The launch and its entry -/

/-- A launch with its next band placed (R311, R333). -/
def oneMore (l : Launch) : Launch := { l with redo := l.redo.tail, placed := if l.redo.isEmpty then l.placed + 1 else l.placed }

theorem bandPlaced_eq (s : State) (l : Launch) : bandPlaced s l =
    if bandsLeft (oneMore l) then
      { onLaunch s l.id (fun _ => oneMore l) with
        entries := s.entries.map fun e => if e.launch = l.id then { e with waitFrom := s.time, blocking := false } else e }
    else
      { onLaunch s l.id (fun _ => oneMore l) with
        entries := s.entries.filter fun e => e.launch ≠ l.id
        keptRanges := if l.inh then s.keptRanges.filter fun k => k.key.launch ≠ l.pred else s.keptRanges } := rfl

/-- What a band placed leaves but for the launch, its entry and kept ranges. -/
theorem bandPlaced_rest (s : State) (l : Launch) :
    ({ bandPlaced s l with launches := s.launches, entries := s.entries, keptRanges := s.keptRanges } : State) = s := by
  rw [bandPlaced_eq]
  split <;> rfl

theorem findLaunch_bandPlaced {s : State} {l : Launch} (h : findLaunch s l.id = some l) :
    findLaunch (bandPlaced s l) l.id = some (oneMore l) := by
  have hlaunches : findLaunch (bandPlaced s l) l.id = findLaunch (onLaunch s l.id fun _ => oneMore l) l.id := by
    rw [bandPlaced_eq]
    split <;> rfl
  rw [hlaunches]
  unfold findLaunch onLaunch at *
  dsimp only
  generalize s.launches = ls at h ⊢
  induction ls with
  | nil => cases h
  | cons x r ih =>
    by_cases hx : x.id = l.id
    · simp [replaceFirst, hx, oneMore]
    · rw [List.find?_cons_of_neg (by simp [hx])] at h
      simpa [replaceFirst, hx] using ih h

/-- The last band placed takes the launch's entry away (R311). -/
theorem entryOf_bandPlaced_last {s : State} {l : Launch} (h : bandsLeft (oneMore l) = false) : entryOf (bandPlaced s l) l.id = none := by
  rw [bandPlaced_eq, if_neg (by simp [h])]
  refine List.find?_eq_none.2 fun e he => ?_
  simpa using (List.mem_filter.1 he).2

/-- Any other starts its entry's wait again (R311, R313). -/
theorem entryOf_bandPlaced_more {s : State} {l : Launch} {e : Entry} (h : bandsLeft (oneMore l) = true) (he : entryOf s l.id = some e) :
    entryOf (bandPlaced s l) l.id = some { e with waitFrom := s.time, blocking := false } := by
  have hid : e.launch = l.id := by simpa using List.find?_some he
  have hsame : ∀ x : Entry, (if x.launch = l.id then { x with waitFrom := s.time, blocking := false } else x).launch = x.launch := by
    intro x
    split <;> rfl
  rw [bandPlaced_eq, if_pos h]
  unfold entryOf at he ⊢
  refine (List.find?_map ..).trans ?_
  rw [show ((fun e : Entry => decide (e.launch = l.id)) ∘ fun x : Entry =>
    if x.launch = l.id then { x with waitFrom := s.time, blocking := false } else x) = fun e => decide (e.launch = l.id) from
      funext fun x => by simp [hsame]]
  rw [he, Option.map_some, if_pos hid]

end Sys2Proof.Machine
end

section
/-! The statement on band placement settled (R13, R29, R40, R75, R311, R313, R314, R315). -/
namespace Sys2Proof.Machine

open Sys2Proof.Claims

/-! ### Making way -/

theorem spillCores_placedOff (cl : Nat) (cores : List Nat) (s : State) : placedOff (cores.foldl (spillCore cl) s) = placedOff s :=
  foldl_keeps placedOff _ (fun t co => spillCore_placedOff cl t co) cores s

/-- Before a band is placed kept ranges are spilled, or nothing changes (R40, R319). -/
theorem makeWay_cases (s : State) (cl : Nat) (cores : List Nat) : makeWay s cl cores = s ∨ makeWay s cl cores = cores.foldl (spillCore cl) s := by
  unfold makeWay
  split
  · exact .inr rfl
  · exact .inl rfl

theorem makeWay_placedOff (s : State) (cl : Nat) (cores : List Nat) : placedOff (makeWay s cl cores) = placedOff s := by
  rcases makeWay_cases s cl cores with h | h
  · rw [h]
  · rw [h, spillCores_placedOff]

/-- Spilling kept ranges brings in no crew and no group. -/
theorem makeWay_groups (s : State) (cl : Nat) (cores : List Nat) :
    (makeWay s cl cores).cur = s.cur ∧ (makeWay s cl cores).groups = s.groups ∧ (makeWay s cl cores).crew = s.crew ∧
      (makeWay s cl cores).crews = s.crews := by
  have hspill : ∀ (t : State) co, (spillCore cl t co).groups = t.groups ∧ (spillCore cl t co).crews = t.crews := by
    intro t co
    have h := foldl_keeps storeOff _ (fun u k => spillKept_storeOff u k)
      (t.keptRanges.filter fun k => decide (k.cluster = cl) && decide (k.core = co)) t
    exact ⟨(congrArg State.groups h :), (congrArg State.crews h :)⟩
  have hoff := makeWay_placedOff s cl cores
  refine ⟨(congrArg State.cur hoff :), ?_, (congrArg State.crew hoff :), ?_⟩
  · rcases makeWay_cases s cl cores with h | h
    · rw [h]
    · rw [h]
      exact foldl_keeps State.groups _ (fun t co => (hspill t co).1) cores s
  · rcases makeWay_cases s cl cores with h | h
    · rw [h]
    · rw [h]
      exact foldl_keeps State.crews _ (fun t co => (hspill t co).2) cores s

/-! ### The band -/

/-- The band as it joins the placed bands. -/
def joinBand (l : Launch) (b level cl : Nat) (cores : List Nat) (now : Nat) (s : State) : State :=
  { s with bands := s.bands ++ [{ launch := l.id, band := b, cluster := cl, cores := cores
                                  spbases := cores.zipIdx.map fun p =>
                                    ((findCrew s { launch := l.id, band := b, crew := p.2, group := 0 }).map (·.spbase)).getD 0
                                  level := level, placedAt := now, phase := .resident, reloc := false }] }

theorem placeBand_eq (s : State) (l : Launch) (level cl : Nat) (cores : List Nat) : placeBand s l level cl cores =
    bandPlaced (joinBand l (nextBand l) level cl cores s.time (crewsPlaced l (nextBand l) cl cores s)) l := rfl

section
variable (s : State) (l : Launch) (level cl : Nat) (cores : List Nat)

/-- A band placed leaves crews, groups, memory and full/empty bits as its crews left them. -/
theorem placeBand_rest : (∀ k, findCrew (placeBand s l level cl cores) k = findCrew (crewsPlaced l (nextBand l) cl cores s) k) ∧
    (∀ k, findGroup (placeBand s l level cl cores) k = findGroup (crewsPlaced l (nextBand l) cl cores s) k) ∧
    (∀ a, memGet (placeBand s l level cl cores) a = memGet (crewsPlaced l (nextBand l) cl cores s) a) ∧
    (placeBand s l level cl cores).fe = (crewsPlaced l (nextBand l) cl cores s).fe := by
  have h := bandPlaced_rest (joinBand l (nextBand l) level cl cores s.time (crewsPlaced l (nextBand l) cl cores s)) l
  rw [← placeBand_eq] at h
  exact ⟨fun k => (congrArg (findCrew · k) h :), fun k => (congrArg (findGroup · k) h :), fun a => (congrArg (memGet · a) h :),
    (congrArg State.fe h :)⟩

theorem placeBand_bands : (placeBand s l level cl cores).bands =
    (joinBand l (nextBand l) level cl cores s.time (crewsPlaced l (nextBand l) cl cores s)).bands := by
  rw [placeBand_eq]
  exact (congrArg State.bands (bandPlaced_rest _ l) :)

end

/-- BAND_PLACEMENT where the search reaches the launch and the choice is one (R313, R314). -/
theorem exec_bandPlacement {s : State} {id c : Nat} {cores : List Nat} {e : Entry} {l : Launch} (he : entryOf (makeWay s c cores) id = some e)
    (hl : findLaunch (makeWay s c cores) id = some l) (hleft : bandsLeft l = true) (hreach : searchReaches (makeWay s c cores) e = true)
    (hok : choiceOk (makeWay s c cores) l (nextBand l) c cores = true) :
    exec (.bandPlacement id c cores) s = .next (placeBand (makeWay s c cores) l e.level c cores) := by
  refine Eq.trans (b := execBandPlacement id c cores s) rfl ?_
  unfold execBandPlacement
  dsimp only
  rw [he, hl]
  simp [hleft, hreach, hok]

/-! ### The lane registers of a group placed -/

section
variable {l : Launch} {b i k c co : Nat} {ps : List Nat} {o : Option KeptRange}

theorem laneGet_startGroup_none (h : o = none) (x : Nat) : laneGet (startGroup l b i k c co ps o) x = 0 := by
  subst h
  exact laneGet_newGroup ..

theorem laneGet_startGroup_here {r : KeptRange} (h : o = some r) (hhere : keptHere r c co = true) (hr : r.first + r.count ≤ l.desc.nslots / 8)
    (x : Nat) : laneGet (startGroup l b i k c co ps o) x =
      if 8 * r.first * 32 ≤ x ∧ x < 8 * (r.first + r.count) * 32 then spGet r.vals x else 0 := by
  subst h
  exact laneGet_inherit_here (g := newGroup l b i k c co ps) hhere hr x

theorem startGroup_elsewhere {r : KeptRange} (h : o = some r) (hhere : keptHere r c co = false) {g : Group}
    (hg : g = startGroup l b i k c co ps o) : (∀ x, laneGet g x = 0) ∧ g.fillFrom = r.area ∧ g.fillAsid = r.asid ∧ g.fillPt = r.ptbase ∧
      ∀ j, j ∈ g.absent ↔ j < l.desc.nslots / 8 ∧ r.first ≤ j ∧ j < r.first + r.count := by
  have hg := (h ▸ hg).trans (inherit_elsewhere (g := newGroup l b i k c co ps) hhere)
  subst hg
  exact ⟨fun x => laneGet_newGroup l b i k c co ps x, rfl, rfl, rfl, fun j => mem_granules⟩

end

/-- Bands are left after one more where another is to be placed again, or the launch has more. -/
theorem bandsLeft_oneMore (l : Launch) :
    bandsLeft (oneMore l) = true ↔ 1 < l.redo.length ∨ l.placed + (if l.redo = [] then 1 else 0) < l.bands := by
  unfold bandsLeft oneMore
  rcases l.redo with _ | ⟨x, _ | ⟨y, r⟩⟩
  · simp
  · simp
  · simp

/-- Settles O48: the crews are placed one after the other, and each step touches its own crew, groups, run and kept ranges alone. -/
theorem bandPlacement : Obligations.BandPlacement := by
  unfold Obligations.BandPlacement
  rintro s p id c cores e l b rfl he hl hleft rfl hany hgroups hcrews
  obtain rfl : l.id = id := by simpa using List.find?_some hl
  have hoff := makeWay_placedOff s c cores
  have hu := makeWay_cases s c cores
  obtain ⟨hcur, hgs, hcrew, hcs⟩ := makeWay_groups s c cores
  generalize huw : makeWay s c cores = u at hoff hu hcur hgs hcrew hcs
  have habs : BandAbsent u l.id (nextBand l) := bandAbsent_of_forall (by rwa [hcur, hgs]) (by rwa [hcrew, hcs])
  have htime : u.time = s.time := (congrArg State.time hoff :)
  have heu : entryOf u l.id = some e := (congrArg (entryOf · l.id) hoff :).trans he
  have hlu : findLaunch u l.id = some l := (congrArg (findLaunch · l.id) hoff :).trans hl
  obtain ⟨hreach, hok⟩ := hany u hu
  have hexec := exec_bandPlacement (s := s) (by rwa [huw]) (by rwa [huw]) hleft (by rwa [huw]) (by rwa [huw])
  rw [huw] at hexec
  obtain ⟨hfc, hfg, hmem, hfe⟩ := placeBand_rest u l e.level c cores
  have hcoff := crewsPlaced_placedOff (l := l) (b := nextBand l) (cl := c) (cores := cores) (s := u)
  have hct : (crewsPlaced l (nextBand l) c cores u).time = s.time := (congrArg State.time hcoff :).trans htime
  have hce : entryOf (joinBand l (nextBand l) e.level c cores u.time (crewsPlaced l (nextBand l) c cores u)) l.id = some e :=
    (congrArg (entryOf · l.id) hcoff :).trans heu
  have hcl : findLaunch (joinBand l (nextBand l) e.level c cores u.time (crewsPlaced l (nextBand l) c cores u)) l.id = some l :=
    (congrArg (findLaunch · l.id) hcoff :).trans hlu
  have hlaunch : findLaunch (placeBand u l e.level c cores) l.id = some (oneMore l) := findLaunch_bandPlaced hcl
  refine ⟨u, _, hu, hexec, ?_, ?_, ?_, ?_, ?_, ?_, ?_⟩
  · refine ⟨_, (placeBand_bands ..).trans (congrArg (· ++ _) ?_), rfl, rfl, rfl, rfl, rfl, htime, rfl⟩
    exact (congrArg State.bands hcoff :).trans (congrArg State.bands hoff :)
  · intro i co hi
    obtain ⟨pre, post, hcut⟩ := zipIdx_cut hi
    refine ⟨_, (hfc _).trans (findCrew_crewsPlaced hcut habs), placedCrew_start .., fun k hk => ?_⟩
    obtain ⟨ps, hg⟩ := findGroup_crewsPlaced hcut habs hk
    exact ⟨_, (hfg _).trans hg, startGroup_start .., fun h x => laneGet_startGroup_none h x, fun r h hhere hr x => laneGet_startGroup_here h hhere hr x,
      fun r h hhere => startGroup_elsewhere h hhere rfl⟩
  · refine fun hinh => ⟨fun i cr hi hcr a hlo hhi => ?_, fun a ha => ?_⟩
    · obtain ⟨pre, post, hcut⟩ := zipIdx_cut (List.getElem?_eq_getElem hi)
      rw [hfc, findCrew_crewsPlaced hcut habs, Option.some.injEq] at hcr
      subst hcr
      rw [hmem, hfe]
      exact crewsPlaced_clear hcut hinh rfl hlo hhi
    · rw [hmem]
      refine memGet_crewsPlaced habs hinh fun i cr hi hcr => ha i cr hi ?_
      rw [hfc]
      exact hcr
  · intro hredo
    rw [hlaunch]
    simp [oneMore, hredo]
  · intro x r hredo
    rw [hlaunch]
    simp [oneMore, hredo]
  · intro hlen hbands
    refine entryOf_bandPlaced_last (Bool.eq_false_iff.2 fun h => ?_)
    rcases (bandsLeft_oneMore l).1 h with h | h <;> omega
  · intro hmore
    rw [← hct]
    exact entryOf_bandPlaced_more ((bandsLeft_oneMore l).2 hmore) hce

end Sys2Proof.Machine
end

section
/-! Exact values as rational numbers: sums, products and order (R57, R63, R67). -/
namespace Sys2Proof.Machine

open Sys2Proof.Claims

/-! ### Finite values -/

theorem rational_fin (neg : Bool) (m : Nat) (e : Int) : rational (.fin neg m e) = some (exactly neg m e) := rfl

theorem rational_eq_some {x : Num} {q : ℚ} (h : rational x = some q) : ∃ neg m e, x = .fin neg m e ∧ exactly neg m e = q := by
  cases x with
  | nan => cases h
  | inf neg => cases h
  | fin neg m e => exact ⟨neg, m, e, rfl, Option.some.inj h⟩

@[simp] theorem exactly_zero (neg : Bool) (e : Int) : exactly neg 0 e = 0 := by simp [exactly]

theorem exactly_false (m : Nat) (e : Int) : exactly false m e = m * 2 ^ e := by simp [exactly]

theorem exactly_true (m : Nat) (e : Int) : exactly true m e = -(m * 2 ^ e) := by simp [exactly]

theorem exactly_false_nonneg (m : Nat) (e : Int) : 0 ≤ exactly false m e := by
  rw [exactly_false]
  positivity

theorem exactly_false_pos {m : Nat} (e : Int) (h : m ≠ 0) : 0 < exactly false m e := by
  rw [exactly_false]
  positivity

theorem exactly_eq (neg : Bool) (m : Nat) (e : Int) : exactly neg m e = if neg then -exactly false m e else exactly false m e := by
  cases neg
  · simp
  · simp [exactly_true, exactly_false]

@[simp] theorem exactly_not (neg : Bool) (m : Nat) (e : Int) : exactly (!neg) m e = -exactly neg m e := by
  cases neg <;> simp [exactly]

@[simp] theorem exactly_eq_zero {neg : Bool} {m : Nat} {e : Int} : exactly neg m e = 0 ↔ m = 0 := by
  cases neg <;> simp [exactly, zpow_ne_zero]

@[simp] theorem abs_exactly (neg : Bool) (m : Nat) (e : Int) : |exactly neg m e| = exactly false m e := by
  rw [exactly_eq neg]
  cases neg <;> simp [abs_of_nonneg (exactly_false_nonneg m e)]

/-- The sign of a value other than zero. -/
theorem exactly_neg_iff {neg : Bool} {m : Nat} (e : Int) (h : m ≠ 0) : exactly neg m e < 0 ↔ neg = true := by
  have := exactly_false_pos e h
  rw [exactly_eq]
  cases neg
  · simpa using this.le
  · simpa using this

theorem exactly_mul (a b : Bool) (m n : Nat) (e f : Int) : exactly a m e * exactly b n f = exactly (a != b) (m * n) (e + f) := by
  rw [exactly_eq a, exactly_eq b, exactly_eq (a != b)]
  simp only [exactly_false]
  rw [zpow_add₀ (two_ne_zero), Nat.cast_mul]
  cases a <;> cases b <;> simp <;> ring

/-- A value at a lower exponent is an integer multiple of it. -/
theorem exactly_eq_scaledInt (neg : Bool) (m : Nat) {e lo : Int} (h : lo ≤ e) : exactly neg m e = scaledInt neg m e lo * 2 ^ lo := by
  have he : (2 : ℚ) ^ e = 2 ^ (e - lo).toNat * 2 ^ lo := by
    rw [← zpow_natCast, ← zpow_add₀ two_ne_zero, Int.toNat_of_nonneg (by omega), sub_add_cancel]
  cases neg
  · simp [exactly, scaledInt, Nat.shiftLeft_eq, he, mul_assoc]
  · simp [exactly, scaledInt, Nat.shiftLeft_eq, he, mul_assoc]

theorem exactly_natAbs (v : Int) (e : Int) : exactly (decide (v < 0)) v.natAbs e = v * 2 ^ e := by
  rcases lt_or_ge v 0 with h | h
  · have hc : ((v.natAbs : Nat) : ℚ) = -(v : ℚ) := by
      rw [← Int.cast_natCast, Int.ofNat_natAbs_of_nonpos h.le, Int.cast_neg]
    simp [exactly, h, hc]
  · have hc : ((v.natAbs : Nat) : ℚ) = (v : ℚ) := by
      rw [← Int.cast_natCast, Int.natAbs_of_nonneg h]
    rw [decide_eq_false (by omega), exactly_false, hc]

/-! ### Sums and products (R57, R63, R67) -/

@[simp] theorem numAdd_nan_left (rm : Rm) (y : Num) : (numAdd rm .nan y).1 = .nan := by cases y <;> rfl
@[simp] theorem numAdd_nan_right (rm : Rm) (x : Num) : (numAdd rm x .nan).1 = .nan := by cases x <;> rfl
@[simp] theorem numMul_nan_left (y : Num) : numMul .nan y = (.nan, 0) := by cases y <;> rfl
@[simp] theorem numMul_nan_right (x : Num) : numMul x .nan = (.nan, 0) := by cases x <;> rfl

/-- The sum of finite values is their rational sum. -/
theorem rational_numAdd (rm : Rm) {x y : Num} {p q : ℚ} (hx : rational x = some p) (hy : rational y = some q) :
    rational (numAdd rm x y).1 = some (p + q) := by
  obtain ⟨n1, m1, e1, rfl, rfl⟩ := rational_eq_some hx
  obtain ⟨n2, m2, e2, rfl, rfl⟩ := rational_eq_some hy
  have hsum : exactly n1 m1 e1 + exactly n2 m2 e2 =
      ((scaledInt n1 m1 e1 (min e1 e2) + scaledInt n2 m2 e2 (min e1 e2) : Int) : ℚ) * 2 ^ min e1 e2 := by
    rw [exactly_eq_scaledInt n1 m1 (min_le_left e1 e2), exactly_eq_scaledInt n2 m2 (min_le_right e1 e2)]
    push_cast
    ring
  by_cases h1 : m1 = 0
  · subst h1
    by_cases h2 : m2 = 0
    · subst h2
      simp [numAdd, rational_fin]
    · simp [numAdd, h2, rational_fin]
  · by_cases h2 : m2 = 0
    · subst h2
      simp [numAdd, h1, rational_fin]
    · simp only [numAdd, h1, h2, decide_false, Bool.and_self, Bool.false_eq_true, if_false]
      rw [hsum]
      split
      · next hz => simp [rational_fin, hz]
      · rw [rational_fin, exactly_natAbs]

/-- The product of finite values is their rational product. -/
theorem rational_numMul {x y : Num} {p q : ℚ} (hx : rational x = some p) (hy : rational y = some q) :
    rational (numMul x y).1 = some (p * q) ∧ (numMul x y).2 = 0 := by
  obtain ⟨n1, m1, e1, rfl, rfl⟩ := rational_eq_some hx
  obtain ⟨n2, m2, e2, rfl, rfl⟩ := rational_eq_some hy
  exact ⟨congrArg some (exactly_mul ..).symm, rfl⟩

theorem rational_numFma (rm : Rm) {x y z : Num} {p q r : ℚ} (hx : rational x = some p) (hy : rational y = some q)
    (hz : rational z = some r) : rational (numFma rm x y z).1 = some (p * q + r) := by
  obtain ⟨hm, hf⟩ := rational_numMul hx hy
  simp only [numFma, hf, ne_eq, not_true_eq_false, if_false]
  exact rational_numAdd rm hm hz

/-- A NaN among the sources of a fused sum gives NaN. -/
theorem numFma_nan (rm : Rm) {x y z : Num} (h : x = .nan ∨ y = .nan ∨ z = .nan) : (numFma rm x y z).1 = .nan := by
  rcases h with rfl | rfl | rfl
  · simp [numFma]
  · simp [numFma]
  · simp only [numFma]
    split <;> simp

theorem rational_numNeg {x : Num} {q : ℚ} (h : rational x = some q) : rational (numNeg x) = some (-q) := by
  obtain ⟨n, m, e, rfl, rfl⟩ := rational_eq_some h
  exact congrArg some (exactly_not n m e)

theorem isNan_iff {x : Num} : isNan x = true ↔ x = .nan := by cases x <;> simp [isNan]

theorem isNan_or_isInf_iff {x : Num} : (isNan x = true ∨ isInf x = true) ↔ rational x = none := by
  cases x <;> simp [isNan, isInf, rational]

/-! ### Order (R204, R205) -/

theorem numLess_fin (a b : Bool) (m n : Nat) (e f : Int) : numLess (.fin a m e) (.fin b n f) = decide (exactly a m e < exactly b n f) := by
  have hpos : (0 : ℚ) < 2 ^ min e f := by positivity
  rw [exactly_eq_scaledInt a m (min_le_left e f), exactly_eq_scaledInt b n (min_le_right e f)]
  simp only [numLess, mul_lt_mul_iff_left₀ hpos, Int.cast_lt]

/-- The model's order of values that are not NaN is the order of the extended line. -/
theorem numLess_eq_below {x y : Num} (hx : x ≠ .nan) (hy : y ≠ .nan) : numLess x y = below x y := by
  cases x with
  | nan => exact absurd rfl hx
  | inf a =>
    cases y with
    | nan => exact absurd rfl hy
    | inf b => rfl
    | fin b n f => rfl
  | fin a m e =>
    cases y with
    | nan => exact absurd rfl hy
    | inf b => rfl
    | fin b n f => exact numLess_fin a b m n e f

theorem below_nan_left (y : Num) : below .nan y = false := by cases y <;> rfl
theorem below_nan_right (x : Num) : below x .nan = false := by cases x <;> rfl

theorem numEq_eq_samePoint (x y : Num) : numEq x y = samePoint x y := by
  by_cases hx : x = .nan
  · simp [numEq, samePoint, hx, isNan]
  · by_cases hy : y = .nan
    · simp [numEq, samePoint, hy, isNan]
    · have h1 : isNan x = false := Bool.eq_false_iff.2 fun h => hx (isNan_iff.1 h)
      have h2 : isNan y = false := Bool.eq_false_iff.2 fun h => hy (isNan_iff.1 h)
      simp [numEq, samePoint, hx, hy, h1, h2, numLess_eq_below hx hy, numLess_eq_below hy hx]

theorem isZero_eq (x : Num) : isZero x = decide (rational x = some 0) := by
  cases x with
  | nan => rfl
  | inf neg => rfl
  | fin neg m e => simp [isZero, rational_fin]

theorem numLessZ_eq_before {x y : Num} (hx : x ≠ .nan) (hy : y ≠ .nan) : numLessZ x y = before x y := by
  simp [numLessZ, before, numLess_eq_below hx hy, isZero_eq]

/-- Two values of the extended line are in order one way or the other, or the same point. -/
theorem not_below_iff {x y : Num} (hx : x ≠ .nan) (hy : y ≠ .nan) : (!below y x) = (below x y || samePoint x y) := by
  have hasymm : below y x = true → below x y = false := by
    intro h
    rw [← numLess_eq_below hy hx] at h
    rw [← numLess_eq_below hx hy]
    cases x <;> cases y
    case fin.fin => simp only [numLess_fin, decide_eq_true_eq, decide_eq_false_iff_not] at h ⊢; exact h.not_gt
    all_goals simp_all [numLess]
  cases h1 : below y x
  · simp [samePoint, hx, hy, h1]
  · simp [samePoint, hasymm h1, h1]

end Sys2Proof.Machine
end

section
/-! Formats: the value of a magnitude code, splitting at a quantum, and the exactness of rounding (R45 to R50, R57). -/
namespace Sys2Proof.Machine

open Sys2Proof.Claims

/-! ### Binary logarithms -/

theorem two_zpow_pos (e : Int) : (0 : ℚ) < 2 ^ e := by positivity

theorem two_zpow_lt {a b : Int} (h : a < b) : (2 : ℚ) ^ a < 2 ^ b := zpow_lt_zpow_right₀ one_lt_two h

theorem two_zpow_le {a b : Int} (h : a ≤ b) : (2 : ℚ) ^ a ≤ 2 ^ b := zpow_le_zpow_right₀ one_le_two h

/-- A magnitude stands between two powers of 2, its `expOf` and the next. -/
theorem two_zpow_expOf_le {m : Nat} (e : Int) (h : m ≠ 0) : (2 : ℚ) ^ expOf m e ≤ exactly false m e ∧
    exactly false m e < 2 ^ (expOf m e + 1) := by
  have hlo : ((2 ^ m.log2 : Nat) : ℚ) ≤ m := by exact_mod_cast Nat.log2_self_le h
  have hhi : (m : ℚ) < (2 ^ (m.log2 + 1) : Nat) := by exact_mod_cast Nat.lt_log2_self
  have hp := two_zpow_pos e
  rw [exactly_false, expOf, show e + (m.log2 : Int) + 1 = e + ((m.log2 + 1 : Nat) : Int) by push_cast; ring,
    zpow_add₀ two_ne_zero, zpow_add₀ two_ne_zero, zpow_natCast, zpow_natCast, mul_comm (m : ℚ)]
  push_cast at hlo hhi
  exact ⟨by gcongr, by gcongr⟩

/-- An exponent is that of a magnitude if its powers of 2 enclose it. -/
theorem expOf_unique {m : Nat} {e x : Int} (h : m ≠ 0) (hlo : (2 : ℚ) ^ x ≤ exactly false m e) (hhi : exactly false m e < 2 ^ (x + 1)) :
    expOf m e = x := by
  obtain ⟨h1, h2⟩ := two_zpow_expOf_le e h
  have ha := (zpow_lt_zpow_iff_right₀ (one_lt_two (α := ℚ))).1 (h1.trans_lt hhi)
  have hb := (zpow_lt_zpow_iff_right₀ (one_lt_two (α := ℚ))).1 (hlo.trans_lt h2)
  omega

/-- Equal magnitudes have one exponent. -/
theorem expOf_congr {m n : Nat} {e f : Int} (hm : m ≠ 0) (h : exactly false m e = exactly false n f) : expOf m e = expOf n f := by
  have hn : n ≠ 0 := fun hn => hm (exactly_eq_zero.1 (h.trans (exactly_eq_zero.2 hn)))
  obtain ⟨h1, h2⟩ := two_zpow_expOf_le f hn
  exact expOf_unique hm (h ▸ h1) (h ▸ h2)

theorem expOf_eq_log {m : Nat} (e : Int) (h : m ≠ 0) : expOf m e = Int.log 2 (exactly false m e) := by
  obtain ⟨h1, h2⟩ := two_zpow_expOf_le e h
  have hpos := exactly_false_pos e h
  refine le_antisymm ((Int.zpow_le_iff_le_log one_lt_two hpos).1 (by exact_mod_cast h1)) ?_
  have := (Int.lt_zpow_iff_log_lt one_lt_two hpos).1 (by exact_mod_cast h2)
  omega

/-! ### Splitting at a quantum (R57) -/

/-- A magnitude split at a quantum: whole quanta and a part below one. -/
theorem splitAt_spec (m : Nat) (e q : Int) :
    exactly false m e = ((splitAt m e q).1 + (splitAt m e q).2.1 / 2 ^ (splitAt m e q).2.2 : ℚ) * 2 ^ q ∧
      (splitAt m e q).2.1 < 2 ^ (splitAt m e q).2.2 := by
  rw [exactly_false]
  unfold splitAt
  split
  · next h =>
    obtain ⟨d, hd⟩ := Int.le.dest h
    have hn : (e - q).toNat = d := by omega
    refine ⟨?_, by simp⟩
    rw [hn, ← hd, zpow_add₀ two_ne_zero, zpow_natCast, Nat.shiftLeft_eq]
    push_cast
    ring
  · next h =>
    dsimp only
    obtain ⟨d, hd⟩ := Int.le.dest (not_le.1 h).le
    have hn : (q - e).toNat = d := by omega
    rw [hn, ← hd, zpow_add₀ two_ne_zero, zpow_natCast, Nat.shiftRight_eq_div_pow]
    refine ⟨?_, Nat.mod_lt _ (by positivity)⟩
    have hm : (m : ℚ) = 2 ^ d * (m / 2 ^ d : Nat) + (m % 2 ^ d : Nat) := by exact_mod_cast (Nat.div_add_mod m (2 ^ d)).symm
    have hp : (2 : ℚ) ^ d ≠ 0 := by positivity
    calc (m : ℚ) * 2 ^ e = (2 ^ d * (m / 2 ^ d : Nat) + (m % 2 ^ d : Nat)) * 2 ^ e := by rw [← hm]
      _ = _ := by field_simp

/-- The part below one quantum. -/
theorem rem_div_lt_one (m : Nat) (e q : Int) : ((splitAt m e q).2.1 : ℚ) / 2 ^ (splitAt m e q).2.2 < 1 := by
  rw [div_lt_one (by positivity)]
  exact_mod_cast (splitAt_spec m e q).2

/-- A whole number of quanta is split exactly. -/
theorem splitAt_of_eq {m k : Nat} {e q : Int} (h : exactly false m e = k * 2 ^ q) : (splitAt m e q).1 = k ∧ (splitAt m e q).2.1 = 0 := by
  obtain ⟨hs, -⟩ := splitAt_spec m e q
  have hlt := rem_div_lt_one m e q
  have h0 : (0 : ℚ) ≤ (splitAt m e q).2.1 / 2 ^ (splitAt m e q).2.2 := by positivity
  have hk : ((splitAt m e q).1 : ℚ) + (splitAt m e q).2.1 / 2 ^ (splitAt m e q).2.2 = k :=
    mul_right_cancel₀ (two_zpow_pos q).ne' (hs.symm.trans h)
  have hle : (splitAt m e q).1 ≤ k := by
    have : ((splitAt m e q).1 : ℚ) ≤ k := by linarith
    exact_mod_cast this
  have hge : k < (splitAt m e q).1 + 1 := by
    have : (k : ℚ) < (splitAt m e q).1 + 1 := by linarith
    exact_mod_cast this
  have heq : (splitAt m e q).1 = k := by omega
  refine ⟨heq, ?_⟩
  rw [heq] at hk
  have hz : ((splitAt m e q).2.1 : ℚ) / 2 ^ (splitAt m e q).2.2 = 0 := by linarith
  rcases div_eq_zero_iff.1 hz with hz | hz
  · exact_mod_cast hz
  · exact absurd hz (by positivity)

/-- A magnitude without a part below one quantum is its whole quanta. -/
theorem eq_of_splitAt {m : Nat} {e q : Int} (h : (splitAt m e q).2.1 = 0) : exactly false m e = (splitAt m e q).1 * 2 ^ q := by
  rw [(splitAt_spec m e q).1, h]
  simp

/-! ### Magnitude codes (R45, R48, R57) -/

/-- The value of a magnitude code. -/
def magRat (F : FFmt) (k : Nat) : ℚ := exactly false (magValue F k).1 (magValue F k).2

variable {F : FFmt}

theorem magValue_of_lt {k : Nat} (h : k < 2 ^ trail F) : magValue F k = (k, minQuantum F) := if_pos h

theorem magValue_of_ge {i j : Nat} (h : i < 2 ^ trail F) : magValue F ((j + 1) * 2 ^ trail F + i) = (2 ^ trail F + i, minQuantum F + j) := by
  have hp : 0 < 2 ^ trail F := by positivity
  have hge : ¬ (j + 1) * 2 ^ trail F + i < 2 ^ trail F := by
    rw [Nat.succ_mul]
    omega
  have hdiv : ((j + 1) * 2 ^ trail F + i) / 2 ^ trail F = j + 1 := by
    rw [Nat.mul_comm, Nat.mul_add_div hp, Nat.div_eq_of_lt h]
  rw [magValue, if_neg hge, Nat.mul_add_mod', Nat.mod_eq_of_lt h, hdiv]
  rfl

/-- A magnitude code is one below the normal codes, or a binade and a place in it. -/
theorem magCode_cases (F : FFmt) (k : Nat) : k < 2 ^ trail F ∨ ∃ i j, i < 2 ^ trail F ∧ k = (j + 1) * 2 ^ trail F + i := by
  rcases Nat.lt_or_ge k (2 ^ trail F) with h | h
  · exact .inl h
  · have hp : 0 < 2 ^ trail F := by positivity
    have hd : 1 ≤ k / 2 ^ trail F := (Nat.le_div_iff_mul_le hp).2 (by omega)
    refine .inr ⟨k % 2 ^ trail F, k / 2 ^ trail F - 1, Nat.mod_lt _ hp, ?_⟩
    rw [Nat.sub_add_cancel hd, Nat.div_add_mod']

theorem magRat_of_lt {k : Nat} (h : k < 2 ^ trail F) : magRat F k = k * 2 ^ minQuantum F := by
  rw [magRat, magValue_of_lt h, exactly_false]

theorem magRat_of_ge {i j : Nat} (h : i < 2 ^ trail F) :
    magRat F ((j + 1) * 2 ^ trail F + i) = (2 ^ trail F + i : ℚ) * 2 ^ (minQuantum F + j) := by
  rw [magRat, magValue_of_ge h, exactly_false]
  push_cast
  ring

/-- The first code of a binade. -/
theorem magRat_binade (F : FFmt) (j : Nat) : magRat F ((j + 1) * 2 ^ trail F) = 2 ^ trail F * 2 ^ (minQuantum F + j) := by
  simpa using magRat_of_ge (F := F) (i := 0) (j := j) (by positivity)

/-- Larger magnitude codes stand for larger values. -/
theorem magRat_strictMono (F : FFmt) : StrictMono (magRat F) := by
  refine strictMono_nat_of_lt_succ fun k => ?_
  have hq := two_zpow_pos (minQuantum F)
  rcases magCode_cases F k with h | ⟨i, j, hi, rfl⟩
  · rw [magRat_of_lt h]
    rcases Nat.lt_or_ge (k + 1) (2 ^ trail F) with h' | h'
    · rw [magRat_of_lt h']
      push_cast
      linarith
    · have hk : k + 1 = (0 + 1) * 2 ^ trail F := by omega
      rw [hk, magRat_binade]
      have hlt : (k : ℚ) < 2 ^ trail F := by exact_mod_cast h
      simpa using (mul_lt_mul_iff_left₀ hq).2 hlt
  · rw [magRat_of_ge hi]
    have hj := two_zpow_pos (minQuantum F + j)
    rcases Nat.lt_or_ge (i + 1) (2 ^ trail F) with h' | h'
    · rw [Nat.add_assoc, magRat_of_ge h']
      push_cast
      linarith
    · have hk : (j + 1) * 2 ^ trail F + i + 1 = (j + 1 + 1) * 2 ^ trail F := by
        rw [Nat.succ_mul (j + 1)]
        omega
      have hlt : (i : ℚ) < 2 ^ trail F := by exact_mod_cast hi
      rw [hk, magRat_binade, Nat.cast_succ, ← add_assoc, zpow_add_one₀ two_ne_zero]
      nlinarith

@[simp] theorem magRat_zero (F : FFmt) : magRat F 0 = 0 := by
  rw [magRat_of_lt (by positivity)]
  simp

/-- The value of k quanta of a magnitude code. -/
theorem magRat_magCode {k : Nat} {q : Int} (hF : 1 ≤ F.prec) (hq : minQuantum F ≤ q) (hk : k ≤ 2 ^ F.prec)
    (hn : q = minQuantum F ∨ 2 ^ trail F ≤ k) : magRat F (magCode F k q) = k * 2 ^ q := by
  have hprec : 2 ^ F.prec = 2 * 2 ^ trail F := by
    rw [trail, ← pow_succ', Nat.sub_add_cancel hF]
  obtain ⟨j, hj⟩ := Int.le.dest hq
  have hjn : (q - minQuantum F).toNat = j := by omega
  unfold magCode
  split
  · next h =>
    rw [magRat_of_lt h, hn.resolve_right (by omega)]
  · next h =>
    rw [hjn]
    split
    · next h' =>
      rw [magRat_of_ge (by omega), hj, Nat.cast_sub (by omega)]
      push_cast
      ring
    · have hk' : k = 2 * 2 ^ trail F := by omega
      rw [show (j + 2) * 2 ^ trail F = ((j + 1) + 1) * 2 ^ trail F by ring, magRat_binade, hk', Nat.cast_succ, ← add_assoc, hj,
        zpow_add_one₀ two_ne_zero]
      push_cast
      ring

/-! ### Quanta of a value -/

theorem minQuantum_le_quantum (F : FFmt) (m : Nat) (e : Int) : minQuantum F ≤ quantum F m e := le_max_right _ _

/-- At its quantum a value has at most p bits, and p of them where the quantum is not the smallest. -/
theorem splitAt_quantum {m : Nat} {e : Int} (hF : 1 ≤ F.prec) (hm : m ≠ 0) : (splitAt m e (quantum F m e)).1 < 2 ^ F.prec ∧
    (quantum F m e = minQuantum F ∨ 2 ^ trail F ≤ (splitAt m e (quantum F m e)).1) := by
  obtain ⟨hlo, hhi⟩ := two_zpow_expOf_le e hm
  obtain ⟨hs, -⟩ := splitAt_spec m e (quantum F m e)
  have hlt := rem_div_lt_one m e (quantum F m e)
  have h0 : (0 : ℚ) ≤ (splitAt m e (quantum F m e)).2.1 / 2 ^ (splitAt m e (quantum F m e)).2.2 := by positivity
  have hq := two_zpow_pos (quantum F m e)
  constructor
  · have hle : (2 : ℚ) ^ (expOf m e + 1) ≤ 2 ^ (F.prec : Int) * 2 ^ quantum F m e := by
      rw [← zpow_add₀ two_ne_zero]
      refine two_zpow_le ?_
      have := le_max_left (expOf m e - (trail F : Int)) (minQuantum F)
      unfold quantum trail at *
      omega
    have hk : ((splitAt m e (quantum F m e)).1 : ℚ) * 2 ^ quantum F m e < 2 ^ F.prec * 2 ^ quantum F m e := by
      rw [← zpow_natCast]
      nlinarith
    exact_mod_cast (mul_lt_mul_iff_left₀ hq).1 hk
  · rcases max_choice (expOf m e - (trail F : Int)) (minQuantum F) with h | h
    · refine .inr ?_
      have he : (2 : ℚ) ^ expOf m e = 2 ^ trail F * 2 ^ quantum F m e := by
        rw [← zpow_natCast, ← zpow_add₀ two_ne_zero, quantum, h]
        congr 1
        omega
      have hk : (2 : ℚ) ^ trail F * 2 ^ quantum F m e < ((splitAt m e (quantum F m e)).1 + 1) * 2 ^ quantum F m e := by
        nlinarith
      have hk' := (mul_lt_mul_iff_left₀ hq).1 hk
      have : 2 ^ trail F < (splitAt m e (quantum F m e)).1 + 1 := by exact_mod_cast hk'
      omega
    · exact .inl h

/-- The code of a value's whole quanta stands for them. -/
theorem magRat_splitAt {m : Nat} {e : Int} (hF : 1 ≤ F.prec) (hm : m ≠ 0) :
    magRat F (magCode F (splitAt m e (quantum F m e)).1 (quantum F m e)) = (splitAt m e (quantum F m e)).1 * 2 ^ quantum F m e := by
  obtain ⟨hk, hn⟩ := splitAt_quantum (e := e) hF hm
  exact magRat_magCode hF (minQuantum_le_quantum F m e) hk.le hn

/-- The quantum of a code's value is the code's own exponent. -/
theorem quantum_of_magRat {m k : Nat} {e : Int} (hm : m ≠ 0) (h : magRat F k = exactly false m e) :
    quantum F m e = (magValue F k).2 := by
  have hx : expOf (magValue F k).1 (magValue F k).2 = expOf m e := by
    refine expOf_congr (fun h0 => hm ?_) h
    rw [magRat, h0, exactly_zero] at h
    exact exactly_eq_zero.1 h.symm
  rw [quantum, ← hx]
  rcases magCode_cases F k with hk | ⟨i, j, hi, rfl⟩
  · rw [magValue_of_lt hk] at hx ⊢
    have hk0 : k ≠ 0 := by
      rintro rfl
      rw [magRat_zero] at h
      exact hm (exactly_eq_zero.1 h.symm)
    have hl : k.log2 < trail F := (Nat.log2_lt hk0).2 hk
    dsimp only [expOf]
    omega
  · rw [magValue_of_ge hi]
    have hl : (2 ^ trail F + i).log2 = trail F := by
      rw [Nat.log2_eq_iff (by positivity)]
      omega
    dsimp only [expOf]
    rw [hl]
    omega

/-- A value that a magnitude code stands for is split exactly, into that code. -/
theorem splitAt_of_magRat {m k : Nat} {e : Int} (hF : 1 ≤ F.prec) (hm : m ≠ 0) (h : magRat F k = exactly false m e) :
    (splitAt m e (quantum F m e)).2.1 = 0 ∧ magCode F (splitAt m e (quantum F m e)).1 (quantum F m e) = k := by
  have hq := quantum_of_magRat hm h
  have hv : exactly false m e = (magValue F k).1 * 2 ^ quantum F m e := by rw [← h, magRat, exactly_false, hq]
  obtain ⟨h1, h2⟩ := splitAt_of_eq hv
  refine ⟨h2, (magRat_strictMono F).injective ?_⟩
  rw [magRat_splitAt hF hm, h1, h, hv]

end Sys2Proof.Machine
end

section
/-! Codes of a format: sign and magnitude, decoding, and the rounding of a value that a code stands for (R45 to R50, R57). -/
namespace Sys2Proof.Machine

open Sys2Proof.Claims

/-! ### Formats in use -/

/-- The widths and precisions of the formats of R45 to R50. -/
def FmtOk (F : FFmt) : Prop :=
  1 ≤ F.prec ∧ match F.kind with
    | .ieee => 2 ≤ F.prec ∧ F.prec < F.width
    | .e2m1 => F.width = 4
    | _ => F.width = 8

theorem fmtOk_f32 : FmtOk fmtF32 := ⟨by decide, by decide, by decide⟩

theorem fmtOk_vpf {p : Nat} (h : 2 ≤ p) : FmtOk (fmtVpf p) := ⟨by simp [fmtVpf]; omega, h, by simp [fmtVpf]⟩

theorem fmtOk_b8 {f : W64} (h : fmtP f ≠ 0) : FmtOk (fmtB8 f) := by
  refine ⟨Nat.pos_of_ne_zero h, ?_⟩
  unfold fmtB8
  cases fmtB8u f <;> exact rfl

/-- Every format but binary8 with P = 0 and the variable-precision ones. -/
theorem fmtOk_fmtOf {f : W64} {t : Ty} (hb : t = .b8 → fmtP f ≠ 0) (hv : tyIsVpf t = false) : FmtOk (fmtOf f t) := by
  cases t
  case b8 => exact fmtOk_b8 (hb rfl)
  case vpf | vpfc => cases hv
  case bf16 => exact show FmtOk fmtBf16 from ⟨by decide, by decide, by decide⟩
  case f16 => exact show FmtOk fmtF16 from ⟨by decide, by decide, by decide⟩
  case e5m2 => exact show FmtOk fmtE5m2 from ⟨by decide, by decide, by decide⟩
  case e4m3 => exact show FmtOk fmtE4m3 from ⟨by decide, rfl⟩
  case e2m1 => exact show FmtOk fmtE2m1 from ⟨by decide, rfl⟩
  all_goals exact fmtOk_f32

/-! ### Sign and magnitude of a code -/

/-- The sign of a code. -/
def codeSign (F : FFmt) (code : Nat) : Bool := hasSign F && code.testBit (F.width - 1)

/-- The bits of a code's magnitude. -/
def magBits (F : FFmt) : Nat := if hasSign F then F.width - 1 else F.width

/-- The magnitude of a code. -/
def codeMag (F : FFmt) (code : Nat) : Nat := code % 2 ^ magBits F

variable {F : FFmt}

theorem hasSign_iff : hasSign F = true ↔ F.kind ≠ .b8u := by simp [hasSign]

theorem codeMag_eq (F : FFmt) (code : Nat) :
    codeMag F code = if hasSign F then code % 2 ^ (F.width - 1) else code % 2 ^ F.width := by
  unfold codeMag magBits
  split <;> rfl

theorem isSubnormal_eq (F : FFmt) (code : Nat) : isSubnormal F code = (decide (codeMag F code ≠ 0) && decide (codeMag F code < 2 ^ trail F)) := by
  rw [codeMag_eq]
  rfl

theorem two_pow_width {F : FFmt} (h : 1 ≤ F.width) : 2 ^ F.width = 2 * 2 ^ (F.width - 1) := by
  rw [← pow_succ', Nat.sub_add_cancel h]

theorem FmtOk.width_pos (h : FmtOk F) : 1 ≤ F.width := by
  obtain ⟨-, h⟩ := h
  split at h <;> omega

theorem two_pow_trail_le (h : FmtOk F) (hk : F.kind = .ieee) : 2 * 2 ^ trail F ≤ 2 ^ (F.width - 1) ∧ 2 ≤ 2 ^ trail F := by
  obtain ⟨-, h⟩ := h
  rw [hk] at h
  obtain ⟨h2, hw⟩ := h
  constructor
  · rw [← pow_succ']
    exact Nat.pow_le_pow_right two_pos (by unfold trail; omega)
  · exact Nat.le_self_pow (by unfold trail; omega) 2

theorem infCode_ieee (hk : F.kind = .ieee) : infCode F = 2 ^ (F.width - 1) - 2 ^ trail F := by simp [infCode, hk]

theorem maxCode_ieee (hk : F.kind = .ieee) : maxCode F = infCode F - 1 := by simp [maxCode, hk]

/-- The largest finite code fits its magnitude. -/
theorem maxCode_lt (h : FmtOk F) : maxCode F < 2 ^ magBits F := by
  obtain ⟨hp, hw⟩ := h
  cases hk : F.kind <;> rw [hk] at hw
  case ieee =>
    have hpos : 0 < 2 ^ (F.width - 1) := by positivity
    have hi : infCode F ≤ 2 ^ (F.width - 1) := infCode_ieee hk ▸ Nat.sub_le _ _
    rw [maxCode_ieee hk, magBits, if_pos (by simp [hasSign, hk])]
    exact (Nat.sub_le_sub_right hi 1).trans_lt (Nat.sub_one_lt hpos.ne')
  case' e4m3 | e2m1 | b8s | b8u => unfold maxCode magBits hasSign; rw [hk]
  case e4m3 | e2m1 => simp [hw]
  case b8s | b8u =>
    simp only [hw]
    cases F.hasInf <;> decide

/-- A code put together from a sign that the format has and a magnitude. -/
theorem withSign_parts {neg : Bool} {k : Nat} (hF : FmtOk F) (hk : k < 2 ^ magBits F) (hs : neg = true → hasSign F = true) :
    codeMag F (withSign F neg k) = k ∧ codeSign F (withSign F neg k) = (neg && !(decide (k = 0) && decide (F.kind = .b8s))) := by
  have hw := two_pow_width hF.width_pos
  cases h : hasSign F
  · have hneg : neg = false := by simpa [h] using mt hs
    rw [magBits, h] at hk
    subst hneg
    unfold withSign codeMag codeSign magBits
    rw [h]
    split
    · next h0 => simp_all
    · exact ⟨Nat.mod_eq_of_lt hk, rfl⟩
  · rw [magBits, h] at hk
    have hsw : signWeight F = 2 ^ (F.width - 1) := if_pos h
    have hlow : (k.testBit (F.width - 1)) = false := Nat.testBit_lt_two_pow hk
    unfold withSign codeMag codeSign magBits
    rw [h, hsw]
    by_cases h0 : k = 0 ∧ F.kind = .b8s
    · obtain ⟨rfl, h8⟩ := h0
      simp [h8]
    · have hn8 := hasSign_iff.1 h
      have h0' : ¬(decide (k = 0) && (decide (F.kind = .b8s) || decide (F.kind = .b8u))) = true := by simpa [hn8] using h0
      have h0'' : (decide (k = 0) && decide (F.kind = .b8s)) = false := by simpa using h0
      rw [if_neg h0', h0'']
      cases neg
      · exact ⟨Nat.mod_eq_of_lt hk, by simpa using hlow⟩
      · refine ⟨by simpa using Nat.mod_eq_of_lt hk, ?_⟩
        simpa [Nat.testBit_two_pow_add_eq] using hlow

/-- A code is put together from its sign and its magnitude, but for binary8's NaN. -/
theorem withSign_codeMag {code : Nat} (hF : FmtOk F) (hc : code < 2 ^ F.width) (h8 : ¬(F.kind = .b8s ∧ codeSign F code = true ∧ codeMag F code = 0)) :
    withSign F (codeSign F code) (codeMag F code) = code := by
  have hw := two_pow_width hF.width_pos
  cases h : hasSign F
  · have hm : codeMag F code = code := by
      rw [codeMag, magBits, h]
      exact Nat.mod_eq_of_lt hc
    have hs : codeSign F code = false := by rw [codeSign, h]; rfl
    rw [hm, hs, withSign]
    split
    · next h0 => simp_all
    · rfl
  · have hsw : signWeight F = 2 ^ (F.width - 1) := if_pos h
    have hn8 := hasSign_iff.1 h
    have hs : codeSign F code = code.testBit (F.width - 1) := by rw [codeSign, h]; rfl
    have hm : codeMag F code = code % 2 ^ (F.width - 1) := by rw [codeMag, magBits, h]; rfl
    have hdm := Nat.div_add_mod code (2 ^ (F.width - 1))
    have hdiv : code / 2 ^ (F.width - 1) = if codeSign F code then 1 else 0 := by
      have hlt : code / 2 ^ (F.width - 1) < 2 := Nat.div_lt_of_lt_mul (by omega)
      rw [hs, Nat.testBit_eq_decide_div_mod_eq, Nat.mod_eq_of_lt hlt]
      rcases Nat.lt_or_ge (code / 2 ^ (F.width - 1)) 1 with h1 | h1
      · have h0 : code / 2 ^ (F.width - 1) = 0 := Nat.lt_one_iff.1 h1
        simp [h0]
      · have h1 : code / 2 ^ (F.width - 1) = 1 := le_antisymm (Nat.lt_succ_iff.1 hlt) h1
        simp [h1]
    rw [hdiv, ← hm] at hdm
    unfold withSign
    rw [hsw]
    cases hneg : codeSign F code
    · rw [hneg, if_neg Bool.false_ne_true, Nat.mul_zero, Nat.zero_add] at hdm
      split
      · next h0 =>
        simp only [Bool.and_eq_true, decide_eq_true_eq] at h0
        exact h0.1.symm.trans hdm
      · exact hdm
    · rw [hneg, if_pos rfl, Nat.mul_one] at hdm
      rw [if_neg]
      · exact hdm
      · simp only [Bool.and_eq_true, decide_eq_true_eq, Bool.or_eq_true, hn8, or_false, not_and]
        exact fun h0 h8' => h8 ⟨h8', hneg, h0⟩

/-! ### Decoding -/

/-- A code whose magnitude is finite is its sign and the value of its magnitude. -/
theorem decodeNum_of_le {code : Nat} (hF : FmtOk F) (hc : codeMag F code ≤ maxCode F)
    (h8 : ¬(F.kind = .b8s ∧ codeSign F code = true ∧ codeMag F code = 0)) :
    decodeNum F code = .fin (codeSign F code) (magValue F (codeMag F code)).1 (magValue F (codeMag F code)).2 := by
  unfold decodeNum
  rw [← codeMag_eq]
  change (match F.kind with
    | .ieee => _ | .e4m3 => _ | .e2m1 => _ | .b8s => _ | .b8u => _) = _
  unfold maxCode at hc
  cases hk : F.kind <;> rw [hk] at hc
  case ieee =>
    obtain ⟨h1, h2⟩ := two_pow_trail_le hF hk
    have hi := infCode_ieee hk
    exact if_pos (by dsimp only at hc ⊢; omega)
  case e4m3 => exact if_neg (by dsimp only at hc; omega)
  case e2m1 => rfl
  case b8s =>
    have hz : (codeSign F code && decide (codeMag F code = 0)) = false := by simpa [hk] using h8
    have hi : (F.hasInf && decide (codeMag F code = 0x7F)) = false := by
      cases h : F.hasInf
      · rfl
      · simp only [h, if_true] at hc
        simp
        omega
    dsimp only
    rw [if_neg (by rw [← codeSign, hz]; simp), if_neg (by rw [hi]; simp)]
    rfl
  case b8u =>
    have hi : (F.hasInf && decide (codeMag F code = 0xFE)) = false := by
      cases h : F.hasInf
      · rfl
      · simp only [h, if_true] at hc
        simp
        omega
    have hff : codeMag F code ≠ 0xFF := by
      dsimp only at hc
      split at hc <;> omega
    dsimp only
    rw [if_neg hff, if_neg (by rw [hi]; simp)]
    rfl

/-- A code with a finite value has a finite magnitude. -/
theorem of_decodeNum_fin {code : Nat} {neg : Bool} {m : Nat} {e : Int} (hF : FmtOk F) (h : decodeNum F code = .fin neg m e) :
    codeMag F code ≤ maxCode F ∧ ¬(F.kind = .b8s ∧ codeSign F code = true ∧ codeMag F code = 0) := by
  have hlt : codeMag F code < 2 ^ magBits F := Nat.mod_lt _ (by positivity)
  obtain ⟨-, hw⟩ := hF
  unfold decodeNum at h
  rw [← codeMag_eq] at h
  unfold magBits hasSign at hlt
  unfold maxCode
  cases hk : F.kind <;> rw [hk] at hw hlt h
  case ieee =>
    dsimp only at h
    split at h
    · next hc => exact ⟨Nat.le_sub_one_of_lt hc, by simp⟩
    · split at h <;> cases h
  case e4m3 =>
    dsimp only at h
    simp [hw] at hlt
    split at h
    · cases h
    · exact ⟨by dsimp only; omega, by simp⟩
  case e2m1 =>
    simp [hw] at hlt
    exact ⟨by dsimp only; omega, by simp⟩
  case b8s =>
    simp [hw] at hlt
    dsimp only at h
    rw [← codeSign] at h
    split at h
    · cases h
    · next hz =>
      split at h
      · cases h
      · next hi =>
        refine ⟨?_, by simpa using hz⟩
        dsimp only
        split
        · next hinf =>
          simp [hinf] at hi
          omega
        · omega
  case b8u =>
    simp [hw] at hlt
    dsimp only at h
    split at h
    · cases h
    · split at h
      · cases h
      · next hi =>
        refine ⟨?_, by simp⟩
        dsimp only
        split
        · next hinf =>
          simp [hinf] at hi
          omega
        · omega

/-- The value of a finite magnitude with a sign that the format has. -/
theorem rational_withSign {neg : Bool} {k : Nat} (hF : FmtOk F) (hk : k ≤ maxCode F) (hs : neg = true → hasSign F = true) :
    rational (decodeNum F (withSign F neg k)) = some (if neg then -magRat F k else magRat F k) := by
  obtain ⟨hm, hn⟩ := withSign_parts hF (hk.trans_lt (maxCode_lt hF)) hs
  have h8 : ¬(F.kind = .b8s ∧ codeSign F (withSign F neg k) = true ∧ codeMag F (withSign F neg k) = 0) := by
    rw [hm, hn]
    rintro ⟨h8, hs', h0⟩
    simp [h8, h0] at hs'
  rw [decodeNum_of_le hF (by rw [hm]; exact hk) h8, hm, hn, rational_fin, exactly_eq]
  change some (if _ then -magRat F k else magRat F k) = _
  by_cases h0 : k = 0
  · subst h0
    simp
  · simp [h0]

/-! ### Rounding what a code stands for (R57) -/

/-- A value that a finite magnitude code stands for is rounded to that code, where flushing does not touch it. -/
theorem roundFin_of_magRat {f : W64} {rm : Rm} {r : BitVec 16} {neg : Bool} {m k : Nat} {e : Int} (hF : 1 ≤ F.prec)
    (h : magRat F k = exactly false m e) (hk : k ≤ maxCode F) (hfl : flushOut f F.cls = true → k ≠ 0 → 2 ^ trail F ≤ k) :
    roundFin f F rm r neg m e = (withSign F neg k, 0) := by
  by_cases hm : m = 0
  · subst hm
    have hk0 : k = 0 := (magRat_strictMono F).injective (by rw [h]; simp)
    simp [roundFin, hk0]
  · obtain ⟨hrem, hcode⟩ := splitAt_of_magRat hF hm h
    have hflush : ¬((flushOut f F.cls && decide (k ≠ 0) && decide (k < 2 ^ trail F)) = true) := by
      simp only [Bool.and_eq_true, decide_eq_true_eq, not_and, and_imp, not_lt]
      exact hfl
    simp only [roundFin, if_neg hm, hrem, roundsUp, if_true, Bool.false_eq_true, if_false, hcode, if_neg (not_lt.2 hk), hflush]
    simp

/-- A finite code's value is rounded back to the code. -/
theorem roundTo_decodeNum {f : W64} {rm : Rm} {r : BitVec 16} {code : Nat} {neg : Bool} {m : Nat} {e : Int} (hF : FmtOk F)
    (hc : code < 2 ^ F.width) (h : decodeNum F code = .fin neg m e) (hfl : flushOut f F.cls = true → isSubnormal F code = false) :
    roundTo f F rm r (decodeNum F code) = (code, 0) := by
  obtain ⟨hle, h8⟩ := of_decodeNum_fin hF h
  rw [decodeNum_of_le hF hle h8, roundTo, roundFin_of_magRat hF.1 rfl hle, withSign_codeMag hF hc h8]
  intro hf h0
  have := hfl hf
  rw [isSubnormal_eq] at this
  simpa [h0] using this

/-- The magnitude code a value other than zero is rounded to, before overflow and flushing (R57). -/
def roundedMag (F : FFmt) (rm : Rm) (r : BitVec 16) (neg : Bool) (m : Nat) (e : Int) : Nat :=
  let q := quantum F m e
  let p := splitAt m e q
  magCode F (if roundsUp rm neg ((magCode F p.1 q).testBit 0) p.2.1 p.2.2 r then p.1 + 1 else p.1) q

/-- The code of a rounded value: an overflow, a flushed subnormal, or its sign and magnitude (R57, R58, R61). -/
theorem roundFin_code (f : W64) (F : FFmt) (rm : Rm) (r : BitVec 16) (neg : Bool) {m : Nat} (e : Int) (hm : m ≠ 0) :
    (roundFin f F rm r neg m e).1 =
      if maxCode F < roundedMag F rm r neg m e then overflowCode F (fmtSat f) rm neg
      else if flushOut f F.cls && decide (roundedMag F rm r neg m e ≠ 0) && decide (roundedMag F rm r neg m e < 2 ^ trail F) then withSign F neg 0
      else withSign F neg (roundedMag F rm r neg m e) := by
  unfold roundFin
  rw [if_neg hm]
  change (ite _ _ _ : Nat × Nat).1 = _
  rw [apply_ite Prod.fst, apply_ite Prod.fst]
  rfl

/-- Settles O24, since a code's value is split exactly at its own quantum (`splitAt_of_magRat`). -/
theorem roundingExact : Obligations.RoundingExact := by
  intro f t rm r code ht h1 hc hfin hfl hb _ _
  obtain ⟨neg, m, e, hd⟩ := hfin
  have hw : tyWidth t ≤ (fmtOf f t).width := by
    cases t
    case f32 | bf16 | f16 => exact le_refl _
    all_goals cases ht
  exact roundTo_decodeNum (fmtOk_fmtOf hb (tyIsVpf_of_float ht).1) (hc.trans_le (Nat.pow_le_pow_right two_pos hw)) hd hfl

end Sys2Proof.Machine
end

section
/-! A matrix multiplication completes: exact sums of k-groups, their accumulation, and the tiles written (R68, R248 to R253, R257). -/
namespace Sys2Proof.Machine

open Sys2Proof.Claims

/-! ### Exact sums (R68) -/

theorem exactSum_append (xs : List Num) (x : Num) : exactSum (xs ++ [x]) = (numAdd .rne (exactSum xs) x).1 := by
  rw [exactSum, List.foldl_append]
  rfl

/-- A sum with a NaN among its terms is NaN. -/
theorem exactSum_nan {xs : List Num} (h : .nan ∈ xs) : exactSum xs = .nan := by
  induction xs using List.reverseRecOn with
  | nil => cases h
  | append_singleton xs x ih =>
    rw [exactSum_append]
    rcases List.mem_append.1 h with h | h
    · rw [ih h, numAdd_nan_left]
    · rw [← List.mem_singleton.1 h, numAdd_nan_right]

/-- The sum of finite terms is their rational sum. -/
theorem rational_exactSum {f : Nat → Num} {a : Nat → ℚ} (n : Nat) (h : ∀ i < n, rational (f i) = some (a i)) :
    rational (exactSum ((List.range n).map f)) = some (∑ i ∈ Finset.range n, a i) := by
  induction n with
  | zero => simp [exactSum, rational_fin]
  | succ n ih =>
    rw [List.range_succ, List.map_append, List.map_singleton, exactSum_append, Finset.sum_range_succ]
    exact rational_numAdd _ (ih fun i hi => h i (by omega)) (h n (by omega))

/-- A sum over whole blocks of 32. -/
theorem sum_range_blocks (f : Nat → ℚ) (n : Nat) :
    ∑ i ∈ Finset.range (32 * n), f i = ∑ b ∈ Finset.range n, ∑ i ∈ Finset.range 32, f (32 * b + i) := by
  induction n with
  | zero => simp
  | succ n ih => rw [Nat.mul_succ, Finset.sum_range_add, ih, Finset.sum_range_succ _ n]

variable {s : State} {op : MmaOp} {r j lo n : Nat}

theorem dotSum_nan {i : Nat} (hi : i < n) (h : mmaA op r (lo + i) = .nan ∨ mmaB s op (lo + i) j = .nan) : dotSum s op r j lo n = .nan := by
  refine exactSum_nan (List.mem_map.2 ⟨i, List.mem_range.2 hi, ?_⟩)
  rcases h with h | h <;> rw [h] <;> simp

theorem rational_dotSum {a b : Nat → ℚ} (h : ∀ i < n, rational (mmaA op r (lo + i)) = some (a i) ∧ rational (mmaB s op (lo + i) j) = some (b i)) :
    rational (dotSum s op r j lo n) = some (∑ i ∈ Finset.range n, a i * b i) :=
  rational_exactSum n fun i hi => (rational_numMul (h i hi).1 (h i hi).2).1

/-- A block of a group of whole blocks. -/
theorem block_index {b : Nat} (hlo : lo % 32 = 0) (i : Nat) : 32 * (lo / 32 + b) + i = lo + (32 * b + i) := by omega

/-- A NaN among a k-group's elements or scales makes its sum NaN. -/
theorem groupSum_nan {i : Nat} (hs : op.scaled = true → lo % 32 = 0 ∧ n % 32 = 0) (hi : i < n)
    (h : mmaA op r (lo + i) = .nan ∨ mmaB s op (lo + i) j = .nan ∨
      (op.scaled = true ∧ (mmaEa op r (lo / 32 + i / 32) = .nan ∨ mmaEb s op (lo / 32 + i / 32) j = .nan))) :
    groupSum s op r j lo n = .nan := by
  unfold groupSum
  split
  · next hsc =>
    obtain ⟨hlo, hn⟩ := hs hsc
    refine exactSum_nan (List.mem_map.2 ⟨i / 32, List.mem_range.2 (by omega), ?_⟩)
    dsimp only
    have hk : 32 * (lo / 32 + i / 32) + i % 32 = lo + i := by omega
    have hdot (h : mmaA op r (lo + i) = .nan ∨ mmaB s op (lo + i) j = .nan) : dotSum s op r j (32 * (lo / 32 + i / 32)) 32 = .nan :=
      dotSum_nan (Nat.mod_lt i (by omega)) (by rwa [hk])
    rcases h with h | h | ⟨-, h | h⟩
    · rw [hdot (.inl h), numMul_nan_left]
    · rw [hdot (.inr h), numMul_nan_left]
    · rw [h, numMul_nan_left, numMul_nan_right]
    · rw [h, numMul_nan_right, numMul_nan_right]
  · next hsc => exact dotSum_nan hi (by simpa [hsc] using h)

/-- The sum of an unscaled k-group of finite elements. -/
theorem rational_groupSum_plain {a b : Nat → ℚ} (hsc : op.scaled = false)
    (h : ∀ i < n, rational (mmaA op r (lo + i)) = some (a i) ∧ rational (mmaB s op (lo + i) j) = some (b i)) :
    rational (groupSum s op r j lo n) = some (∑ i ∈ Finset.range n, a i * b i) := by
  rw [groupSum, hsc]
  exact rational_dotSum h

/-- The sum of a k-group scaled by block. -/
theorem rational_groupSum_scaled {a b ea eb : Nat → ℚ} (hsc : op.scaled = true) (hlo : lo % 32 = 0) (hn : n % 32 = 0)
    (h : ∀ i < n, rational (mmaA op r (lo + i)) = some (a i) ∧ rational (mmaB s op (lo + i) j) = some (b i))
    (he : ∀ i < n / 32, rational (mmaEa op r (lo / 32 + i)) = some (ea i) ∧ rational (mmaEb s op (lo / 32 + i) j) = some (eb i)) :
    rational (groupSum s op r j lo n) = some (∑ i ∈ Finset.range n, a i * b i * (ea (i / 32) * eb (i / 32))) := by
  obtain ⟨m, rfl⟩ := Nat.dvd_of_mod_eq_zero hn
  have hdiv : 32 * m / 32 = m := by omega
  have hblock : ∀ k < m, ∑ i ∈ Finset.range 32, a (32 * k + i) * b (32 * k + i) * (ea ((32 * k + i) / 32) * eb ((32 * k + i) / 32)) =
      (∑ i ∈ Finset.range 32, a (32 * k + i) * b (32 * k + i)) * (ea k * eb k) := by
    intro k _
    rw [Finset.sum_mul]
    refine Finset.sum_congr rfl fun i hi => ?_
    have hi' := Finset.mem_range.1 hi
    rw [show (32 * k + i) / 32 = k by omega]
  rw [groupSum, if_pos hsc, sum_range_blocks, Finset.sum_congr rfl fun k hk => hblock k (Finset.mem_range.1 hk), hdiv]
  refine rational_exactSum m fun k hk => ?_
  have hk' : k < 32 * m / 32 := by omega
  have hdot : rational (dotSum s op r j (32 * (lo / 32 + k)) 32) = some (∑ i ∈ Finset.range 32, a (32 * k + i) * b (32 * k + i)) :=
    rational_dotSum (a := fun i => a (32 * k + i)) (b := fun i => b (32 * k + i)) fun i hi => by
      rw [block_index hlo]
      exact h _ (by omega)
  exact (rational_numMul hdot (rational_numMul (he k hk').1 (he k hk').2).1).1

/-! ### The accumulator (R68) -/

theorem numAdd_inf_opposite (rm : Rm) (neg : Bool) : (numAdd rm (.inf neg) (.inf (!neg))).1 = .nan := by
  cases neg <;> rfl

theorem numAdd_inf_left (rm : Rm) {neg : Bool} {y : Num} (h1 : y ≠ .nan) (h2 : y ≠ .inf (!neg)) : (numAdd rm (.inf neg) y).1 = .inf neg := by
  cases y with
  | nan => exact absurd rfl h1
  | inf k => cases neg <;> cases k <;> simp_all [numAdd]
  | fin k m e => rfl

theorem numAdd_inf_right (rm : Rm) {neg : Bool} {x : Num} (h1 : x ≠ .nan) (h2 : x ≠ .inf (!neg)) : (numAdd rm x (.inf neg)).1 = .inf neg := by
  cases x with
  | nan => exact absurd rfl h1
  | inf k => cases neg <;> cases k <;> simp_all [numAdd]
  | fin k m e => rfl

/-- The sign of a magnitude below 2^31 as the flush of the accumulator keeps it. -/
theorem withSign_f32_sign (neg : Bool) {k : Nat} (hk : k < 2 ^ 31) : withSign fmtF32 neg k / 2 ^ 31 * 2 ^ 31 = withSign fmtF32 neg 0 := by
  cases neg <;> simp [withSign, signWeight, hasSign, fmtF32] <;> omega

/-- The code of a finite rounding to FP32 is its sign and a magnitude. -/
theorem roundFin_f32 (f : W64) (neg : Bool) {m : Nat} (e : Int) (hm : m ≠ 0) :
    ∃ k < 2 ^ 31, (roundFin f fmtF32 .rne 0 neg m e).1 = withSign fmtF32 neg k := by
  have hmax : maxCode fmtF32 < 2 ^ 31 := maxCode_lt fmtOk_f32
  rw [roundFin_code _ _ _ _ _ _ hm]
  split
  · exact ⟨infCode fmtF32, by decide, by simp [overflowCode, fmtF32]⟩
  · next hc =>
    split
    · exact ⟨0, by decide, rfl⟩
    · exact ⟨_, (not_lt.1 hc).trans_lt hmax, rfl⟩

/-- The accumulator's rounding is that of R68. -/
theorem accumulated_accRound (f : W64) (x y : Num) : accumulated f x y (accRound f (numAdd .rne x y).1) := by
  refine ⟨fun a b hx hy h0 => ?_, fun a b hx hy h0 => ?_, fun h => ?_, fun neg h => ?_⟩
  · obtain ⟨neg, m, e, hn, hv⟩ := rational_eq_some (rational_numAdd .rne hx hy)
    obtain rfl : m = 0 := exactly_eq_zero.1 (hv.trans h0)
    have hz : ∀ neg, rational (decodeNum fmtF32 (withSign fmtF32 neg 0)) = some 0 := by
      intro neg
      rw [rational_withSign fmtOk_f32 (Nat.zero_le _) fun _ => rfl]
      simp
    simp only [accRound, hn, roundTo, roundFin, if_true]
    split
    · rw [withSign_f32_sign neg (by decide)]
      exact hz neg
    · exact hz neg
  · refine ⟨_, _, rational_numAdd .rne hx hy, rfl, ?_⟩
    obtain ⟨neg, m, e, hn, hv⟩ := rational_eq_some (rational_numAdd .rne hx hy)
    have hm : m ≠ 0 := fun hm => h0 (by rw [← hv, hm, exactly_zero])
    obtain ⟨k, hk, hc⟩ := roundFin_f32 0 neg e hm
    have hneg : decide (a + b < 0) = neg := by
      rw [← hv, Bool.eq_iff_iff, decide_eq_true_eq]
      exact exactly_neg_iff e hm
    rw [hn, hneg]
    simp only [accRound, roundTo, hc, withSign_f32_sign neg hk, Bool.and_eq_true]
  · have hn : (numAdd .rne x y).1 = .nan := by
      rcases h with rfl | rfl | ⟨neg, rfl, rfl⟩
      · exact numAdd_nan_left _ _
      · exact numAdd_nan_right _ _
      · exact numAdd_inf_opposite _ neg
    rw [hn]
    exact if_neg (by rw [show isSubnormal fmtF32 (roundTo 0 fmtF32 .rne 0 .nan).1 = false from rfl]; simp)
  · have hn : (numAdd .rne x y).1 = .inf neg := by
      rcases h with ⟨rfl, h1, h2⟩ | ⟨rfl, h1, h2⟩
      · exact numAdd_inf_left _ h1 h2
      · exact numAdd_inf_right _ h1 h2
    have hsub : isSubnormal fmtF32 (roundTo 0 fmtF32 .rne 0 (.inf neg)).1 = false := by cases neg <;> rfl
    rw [hn]
    exact if_neg (by rw [hsub]; simp)

/-- The accumulator after some k-groups. -/
def accAfter (s : State) (o : MmaOp) (r j acc0 kg groups : Nat) : Nat :=
  (List.range groups).foldl (fun acc g => accRound o.fmt (numAdd .rne (decodeNum fmtF32 acc) (groupSum s o r j (g * kg) kg)).1) acc0

theorem accAfter_succ (s : State) (o : MmaOp) (r j acc0 kg g : Nat) : accAfter s o r j acc0 kg (g + 1) =
    accRound o.fmt (numAdd .rne (decodeNum fmtF32 (accAfter s o r j acc0 kg g)) (groupSum s o r j (g * kg) kg)).1 := by
  rw [accAfter, List.range_succ, List.foldl_append]
  rfl

theorem mmaElem_eq (s : State) (o : MmaOp) (r j : Nat) (start : W32) : mmaElem s o r j start =
    BitVec.ofNat 32 (accAfter s o r j (if o.form.mode = 0 then start.toNat else 0) (mmaDims o.form).2.2 (mmaK o.form / (mmaDims o.form).2.2)) := rfl

/-- The k-group of a legal pair of types is that of A's type (R248). -/
theorem mmaDims_groupSize {x : LxForm} (h : (mmaPair x.tA x.tB).isSome = true) : (mmaDims x).2.2 = Claims.groupSize x.tA := by
  have h8 : ∀ t : Ty, (t = .e4m3 ∨ t = .e5m2) ∨ t = .b8 → Claims.groupSize t = 32 := by rintro t ((rfl | rfl) | rfl) <;> rfl
  unfold mmaDims
  unfold mmaPair at h ⊢
  dsimp only at h ⊢
  split
  · next hc =>
    simp only [Bool.or_eq_true, Bool.and_eq_true, decide_eq_true_eq] at hc
    rcases hc with ⟨ha, -⟩ | ⟨ha, -⟩ <;> rw [ha] <;> rfl
  · split
    · next hc =>
      simp only [Bool.or_eq_true, Bool.and_eq_true, decide_eq_true_eq] at hc
      exact (h8 _ hc.1).symm
    · split
      · next hc =>
        simp only [Bool.and_eq_true, decide_eq_true_eq] at hc
        rw [hc.1]
        rfl
      · next h1 h2 h3 => simp [h1, h2, h3] at h

/-! ### The tiles of the result (R252) -/

/-- Several tiles written, each once: the one named takes its words. -/
theorem tileAt_foldl_tileWrite {l : List (Nat × List (Nat × W32))} {id : Nat} {ws : List (Nat × W32)} (hl : (l.map (·.1)).Nodup)
    (hm : (id, ws) ∈ l) (s : State) : tileAt (l.foldl (fun s w => tileWrite s w.1 w.2) s) id = tileAt (tileWrite s id ws) id := by
  have hother : ∀ (l : List (Nat × List (Nat × W32))) (s : State), id ∉ l.map (·.1) →
      tileAt (l.foldl (fun s w => tileWrite s w.1 w.2) s) id = tileAt s id := by
    intro l
    induction l with
    | nil => exact fun _ _ => rfl
    | cons p r ih =>
      intro s h
      obtain ⟨h1, h2⟩ := not_or.1 (mt List.mem_cons.2 h)
      rw [List.foldl_cons, ih _ h2, tileAt_tileWrite_other _ _ h1]
  induction l generalizing s with
  | nil => cases hm
  | cons p r ih =>
    obtain ⟨hp, hr⟩ := List.nodup_cons.1 hl
    rw [List.foldl_cons]
    rcases List.mem_cons.1 hm with rfl | hm
    · exact hother r _ hp
    · have hne : id ≠ p.1 := fun he => hp (List.mem_map.2 ⟨_, hm, he⟩)
      rw [ih hr hm, tileAt_tileWrite_same, tileAt_tileWrite_same, tileAt_tileWrite_other _ _ hne]

/-- A group's tiles are distinct physical tiles. -/
theorem physTile_injOn {g : Group} (h : g.tiles.Nodup) {a b : Nat} (ha : a < g.tiles.length) (hb : b < g.tiles.length)
    (he : physTile g a = physTile g b) : a = b := by
  have hn : nth g.tiles a 0 = nth g.tiles b 0 := Nat.add_left_cancel he
  rw [nth, nth, List.getElem?_eq_getElem ha, List.getElem?_eq_getElem hb] at hn
  exact (List.Nodup.getElem_inj_iff h).1 hn

theorem mmaWrite_revived (s : State) (g : Group) (o : MmaOp) : (mmaWrite s g o).revived = s.revived := by
  unfold mmaWrite
  refine foldl_keeps State.revived _ (fun t x => ?_) _ s
  rfl

/-- Each tile of the result takes the words computed for it. -/
theorem tileAt_mmaWrite {s : State} {g : Group} {o : MmaOp} (hd : g.tiles.Nodup)
    (hl : o.form.tile.toNat + mmaRowBlocks o.form * mmaColBlocks o.form ≤ g.tiles.length) {n : Nat}
    (hn : n < mmaRowBlocks o.form * mmaColBlocks o.form) : tileAt (mmaWrite s g o) (physTile g (o.form.tile.toNat + n)) =
      tileAt (tileWrite s (physTile g (o.form.tile.toNat + n)) (mmaTileWords s g o n)) (physTile g (o.form.tile.toNat + n)) := by
  refine tileAt_foldl_tileWrite ?_ (List.mem_map.2 ⟨n, List.mem_range.2 hn, rfl⟩) s
  rw [List.map_map]
  refine List.Nodup.map_on (fun a ha b hb he => ?_) List.nodup_range
  have ha' := List.mem_range.1 ha
  have hb' := List.mem_range.1 hb
  have := physTile_injOn hd (by omega) (by omega) he
  omega

/-- The words a tile of the result receives, by row and column. -/
theorem mem_mmaTileWords {s : State} {g : Group} {o : MmaOp} {n r c : Nat} {x : W32} (hc : c < 128) :
    (r * 128 + c, x) ∈ mmaTileWords s g o n ↔ r < 32 ∧ c < mmaN o.form ∧
      x = mmaElem s o (32 * (n / mmaColBlocks o.form) + r) (mmaFirstCol g.key o + 128 * (n % mmaColBlocks o.form) + c)
        (tileElem (tileAt s (physTile g (o.form.tile.toNat + n))) (r * 128 + c)) := by
  simp only [mmaTileWords, List.mem_flatMap, List.mem_map, List.mem_range, Prod.mk.injEq, lt_min_iff]
  constructor
  · rintro ⟨r', hr', c', ⟨hc1, hc2⟩, he, rfl⟩
    obtain rfl : r' = r := by omega
    obtain rfl : c' = c := by omega
    exact ⟨hr', hc2, rfl⟩
  · rintro ⟨hr, hc2, rfl⟩
    exact ⟨r, hr, c, ⟨hc, hc2⟩, rfl, rfl⟩

/-- An element of the result: computed where the result has its column, else kept. -/
theorem tileWord_mmaWrite {s : State} {g : Group} {o : MmaOp} (hd : g.tiles.Nodup)
    (hl : o.form.tile.toNat + mmaRowBlocks o.form * mmaColBlocks o.form ≤ g.tiles.length) {n r c : Nat}
    (hn : n < mmaRowBlocks o.form * mmaColBlocks o.form) (hr : r < 32) (hc : c < 128) :
    tileWord (mmaWrite s g o) g (o.form.tile.toNat + n) (r * 128 + c) =
      if c < mmaN o.form then
        mmaElem s o (32 * (n / mmaColBlocks o.form) + r) (mmaFirstCol g.key o + 128 * (n % mmaColBlocks o.form) + c)
          (tileWord s g (o.form.tile.toNat + n) (r * 128 + c))
      else tileWord s g (o.form.tile.toNat + n) (r * 128 + c) := by
  rw [tileWord, tileAt_mmaWrite hd hl hn]
  split
  · next hcn => exact tileElem_tileWrite_of_mem _ _ ((mem_mmaTileWords hc).2 ⟨hr, hcn, rfl⟩) fun y hy => ((mem_mmaTileWords hc).1 hy).2.2
  · next hcn => exact tileElem_tileWrite_other _ _ fun x hx => hcn ((mem_mmaTileWords hc).1 hx).2.1

/-- Settles O33: the completion writes each tile of the result once (`tileWord_mmaWrite`); an element is the accumulator after all k-groups
(`mmaElem_eq`), each added as `accumulated_accRound` says; the sums of the k-groups are exact. -/
theorem matrixMultiply : Obligations.MatrixMultiply := by
  refine ⟨fun s k q g f o op hg hf hgf hm hb hfl ha hd hl => ?_, fun s op r j start kg hkg hp => ?_,
    fun s op r j lo n i hs hi h => groupSum_nan hs hi h,
    fun s op r j lo n a b h => ⟨fun hsc => rational_groupSum_plain hsc h,
      fun hsc hlo hn ea eb he => rational_groupSum_scaled hsc hlo hn h he⟩⟩
  · have hact : performAct f o = mmaWrite f f.cur op := by simp [performAct, ha]
    have hcur : (performAct f o).cur = f.cur := by rw [hact, mmaWrite_cur]
    rw [exec_matrixOperationComplete hg hf hgf hm hb]
    refine ⟨_, rfl, retired_retireOut hfl (by simp [ha]) hcur, ?_, fun a => ?_, fun n hn r c hr hc => ?_⟩
    · rw [modCur_cur, hcur]
      exact (congrArg Group.lanes (retireOut_eq o f.cur) :)
    · rw [memGet_modCur, hact]
      exact memGet_congr (mmaWrite_mem ..) (mmaWrite_revived ..) a
    · rw [hact]
      exact tileWord_mmaWrite hd hl hn hr hc
  · refine ⟨accAfter s op r j (if op.form.mode = 0 then start.toNat else 0) kg, rfl, ?_, fun g => ?_⟩
    · rw [mmaElem_eq, mmaDims_groupSize hp, hkg]
    · rw [accAfter_succ]
      exact accumulated_accRound ..

end Sys2Proof.Machine
end

section
/-! What a lane instruction's results read as in one acting lane (R23, R32, R192, R193, R205). -/
namespace Sys2Proof.Machine

open Sys2Proof.Claims

/-! ### The part of a result that one lane receives -/

/-- The lane registers, predicates and single results that a result gives lane l. -/
def LaneRes.part (r : LaneRes) (l : Nat) : LaneRes :=
  { regs := r.regs.filter fun q => decide (q.1 % 32 = l)
    preds := r.preds.filter fun q => decide (q.2.1 = l)
    single := r.single.filter fun q => decide (q.1 = l) }

theorem LaneRes.part_join (a b : LaneRes) (l : Nat) : (a.join b).part l = (a.part l).join (b.part l) := by
  simp [LaneRes.part, LaneRes.join]

theorem LaneRes.join_empty (a : LaneRes) : a.join {} = a := by
  simp [LaneRes.join]

theorem LaneRes.empty_join (a : LaneRes) : LaneRes.join {} a = a := by
  simp [LaneRes.join]

theorem LaneRes.join_assoc (a b c : LaneRes) : (a.join b).join c = a.join (b.join c) := by
  simp [LaneRes.join, Nat.or_assoc]

theorem joinRes_cons (r : LaneRes) (rs : List LaneRes) : joinRes (r :: rs) = r.join (joinRes rs) := by
  have hfold : ∀ (rs : List LaneRes) (a : LaneRes), rs.foldl LaneRes.join a = a.join (joinRes rs) := by
    intro rs
    induction rs with
    | nil => exact fun a => (LaneRes.join_empty a).symm
    | cons q rs ih =>
      intro a
      rw [List.foldl_cons, ih, show joinRes (q :: rs) = rs.foldl LaneRes.join (LaneRes.join {} q) from rfl, ih (LaneRes.join {} q),
        LaneRes.empty_join, LaneRes.join_assoc]
  rw [joinRes, List.foldl_cons, hfold, LaneRes.empty_join]

/-- A result r of lane l gives that lane the result a, and no other lane anything. -/
structure Puts (r : LaneRes) (l : Nat) (a : LaneRes) : Prop where
  own : r.part l = a
  others : ∀ k, k ≠ l → r.part k = {}
  lane : ∀ q ∈ r.single, q.1 = l

/-- A result without registers, predicates and single results gives no lane anything. -/
theorem Puts.join_plain {r a : LaneRes} {l : Nat} (h : Puts r l a) {b : LaneRes} (hr : b.regs = []) (hp : b.preds = []) (hs : b.single = []) :
    Puts (r.join b) l a := by
  have hb : ∀ k, b.part k = {} := fun k => by simp [LaneRes.part, hr, hp, hs]
  refine ⟨?_, fun k hk => ?_, fun q hq => ?_⟩
  · rw [LaneRes.part_join, hb, LaneRes.join_empty, h.own]
  · rw [LaneRes.part_join, hb, LaneRes.join_empty, h.others k hk]
  · exact h.lane q (by simpa [LaneRes.join, hs] using hq)

theorem Puts.join_stat {r a : LaneRes} {l : Nat} (h : Puts r l a) (v : LaneEnv) (k st : Nat) : Puts (r.join (statOf v k st)) l a :=
  h.join_plain rfl rfl rfl

theorem Puts.join_rnd {r a : LaneRes} {l : Nat} (h : Puts r l a) (w : List (Nat × BitVec 16)) : Puts (r.join { rnd := w }) l a :=
  h.join_plain rfl rfl rfl

/-- Results joined give a lane what the one result of that lane gives it. -/
theorem part_joinRes {α : Type} {ps : List α} {key : α → Nat} {G A : α → LaneRes} (hG : ∀ p ∈ ps, Puts (G p) (key p) (A p)) (l : Nat) :
    (joinRes (ps.map G)).part l = joinRes ((ps.filter fun p => decide (key p = l)).map A) := by
  induction ps with
  | nil => rfl
  | cons p ps ih =>
    obtain ⟨hp, hps⟩ := List.forall_mem_cons.1 hG
    rw [List.map_cons, joinRes_cons, LaneRes.part_join, ih hps, List.filter_cons]
    by_cases hk : key p = l
    · rw [if_pos (by simpa using hk), List.map_cons, joinRes_cons, ← hk, hp.own]
    · rw [if_neg (by simpa using hk), hp.others l (Ne.symm hk), LaneRes.empty_join]

theorem single_joinRes {α : Type} {ps : List α} {key : α → Nat} {G A : α → LaneRes} (hG : ∀ p ∈ ps, Puts (G p) (key p) (A p)) :
    ∀ q ∈ (joinRes (ps.map G)).single, ∃ p ∈ ps, q.1 = key p := by
  induction ps with
  | nil => exact fun q hq => by cases hq
  | cons p ps ih =>
    obtain ⟨hp, hps⟩ := List.forall_mem_cons.1 hG
    intro q hq
    rw [List.map_cons, joinRes_cons] at hq
    rcases List.mem_append.1 hq with hq | hq
    · exact ⟨p, List.mem_cons_self, hp.lane q hq⟩
    · obtain ⟨u, hu, he⟩ := ih hps q hq
      exact ⟨u, List.mem_cons_of_mem _ hu, he⟩

theorem joinRes_single (a : LaneRes) : joinRes [a] = a := by
  rw [joinRes_cons, joinRes, List.foldl_nil, LaneRes.join_empty]

/-- A bit of the joined flags is one of a result's. -/
theorem testBit_stat_joinRes (rs : List LaneRes) (k : Nat) : (joinRes rs).stat.testBit k = rs.any fun r => r.stat.testBit k := by
  induction rs with
  | nil => simp [joinRes]
  | cons r rs ih =>
    rw [joinRes_cons, List.any_cons, ← ih]
    exact Nat.testBit_or ..

/-! ### Keys of an operand in a lane -/

theorem mem_opndKeys_mod {g : Group} {d : Opnd} {n l key : Nat} (hl : l < 32) (h : key ∈ opndKeys g d n l) : key % 32 = l := by
  unfold opndKeys at h
  split at h
  · obtain ⟨j, -, rfl⟩ := List.mem_map.1 h
    unfold cKey laneKey
    omega
  · rw [List.mem_singleton.1 h]
    unfold yKey laneKey
    omega
  · split at h
    · obtain ⟨j, -, rfl⟩ := List.mem_map.1 h
      unfold laneKey
      omega
    · cases h

theorem nodup_opndKeys (g : Group) (d : Opnd) (n l : Nat) : (opndKeys g d n l).Nodup := by
  unfold opndKeys
  split
  · refine List.Nodup.map (fun a b hab => ?_) List.nodup_range
    unfold cKey laneKey at hab
    omega
  · exact List.nodup_singleton _
  · split
    · refine List.Nodup.map (fun a b hab => ?_) List.nodup_range
      unfold laneKey at hab
      omega
    · exact List.nodup_nil

/-- A slot in range is no y register. -/
theorem yKey_not_mem_opndKeys {g : Group} {d : Opnd} {l : Nat} (hr : slotInRange g d 1 l = true) (hd : ∀ k, d ≠ .y k) :
    yKey 0 l ∉ opndKeys g d 1 l := by
  intro h
  have hc : ∀ i : BitVec 3, yKey 0 l ≠ cKey (i.toNat + 0) l := by
    intro i
    have := i.isLt
    unfold yKey cKey laneKey
    omega
  cases d
  case c i =>
    simp only [opndKeys, List.range_one, List.map_singleton, List.mem_singleton] at h
    exact hc i h
  case y k => exact hd k rfl
  case v b =>
    have := b.isLt
    simp only [opndKeys, mainSlot, List.range_one, List.map_singleton, List.mem_singleton, Int.toNat_natCast] at h
    unfold yKey laneKey at h
    omega
  case vx k off =>
    have hlim : ixLimit g l k.toNat < 2 ^ 8 := ((ixGet g l k.toNat).extractLsb' 24 8).isLt
    simp only [slotInRange, Bool.and_eq_true, decide_eq_true_eq] at hr
    obtain ⟨⟨-, hle⟩, -⟩ := hr
    simp only [opndKeys, mainSlot, List.range_one, List.map_singleton, List.mem_singleton] at h
    unfold yKey laneKey at h
    omega
  all_goals simp [opndKeys, mainSlot] at h

/-! ### Slots written -/

theorem puts_putSlots (g : Group) (d : Opnd) (n val : Nat) {l : Nat} (hl : l < 32) :
    Puts (putSlots g d n l val) l (putSlots g d n l val) := by
  have hkeys : ∀ q ∈ (opndKeys g d n l).zip (splitSlots val n), q.1 % 32 = l := fun q hq =>
    mem_opndKeys_mod hl (List.of_mem_zip hq).1
  constructor
  case own =>
    unfold LaneRes.part putSlots
    dsimp only
    rw [List.filter_eq_self.2 fun q hq => by simpa using hkeys q hq]
    split <;> simp
  case others =>
    intro k hk
    unfold LaneRes.part putSlots
    dsimp only
    rw [List.filter_eq_nil_iff.2 fun q hq => by simpa [hkeys q hq] using Ne.symm hk]
    split <;> simp [Ne.symm hk]
  case lane =>
    intro q hq
    unfold putSlots at hq
    dsimp only at hq
    split at hq
    · rw [List.mem_singleton.1 hq]
    · cases hq

theorem puts_putTest (g : Group) (d : Opnd) (n w : Nat) (b : Bool) {l : Nat} (hl : l < 32) :
    Puts (putTest g d n w l b) l (putTest g d n w l b) := by
  unfold putTest
  split
  · exact ⟨by simp [LaneRes.part], fun k hk => by simp [LaneRes.part, Ne.symm hk], by simp⟩
  · exact puts_putSlots g _ n _ hl

/-- A key of the operand is written with its slot of the value. -/
theorem mem_zip_splitSlots {keys : List Nat} {n val key j : Nat} (h : keys[j]? = some key) (hj : j < n) :
    (key, BitVec.ofNat 32 (val / 2 ^ (32 * j))) ∈ keys.zip (splitSlots val n) := by
  refine List.mem_of_getElem? (i := j) ?_
  have hs : (splitSlots val n)[j]? = some (BitVec.ofNat 32 (val / 2 ^ (32 * j))) := by
    simp [splitSlots, hj, Nat.shiftRight_eq_div_pow]
  rw [List.getElem?_zip_eq_some]
  exact ⟨h, hs⟩

theorem length_opndKeys_le (g : Group) (d : Opnd) {n : Nat} (hn : 1 ≤ n) (l : Nat) : (opndKeys g d n l).length ≤ n := by
  unfold opndKeys
  split
  · simp
  · simpa using hn
  · split <;> simp

/-- A key without repetition is written with one word. -/
theorem eq_of_mem_zip {keys : List Nat} (hk : keys.Nodup) {ws : List W32} {key : Nat} {x y : W32} (hx : (key, x) ∈ keys.zip ws)
    (hy : (key, y) ∈ keys.zip ws) : x = y := by
  obtain ⟨i, hi⟩ := List.getElem?_of_mem hx
  obtain ⟨j, hj⟩ := List.getElem?_of_mem hy
  rw [List.getElem?_zip_eq_some] at hi hj
  obtain ⟨hi1, hi2⟩ := hi
  obtain ⟨hj1, hj2⟩ := hj
  have hij : i = j := by
    obtain ⟨hil, hie⟩ := List.getElem?_eq_some_iff.1 hi1
    obtain ⟨hjl, hje⟩ := List.getElem?_eq_some_iff.1 hj1
    exact (List.Nodup.getElem_inj_iff hk).1 (hie.trans hje.symm)
  subst hij
  exact Option.some.inj (hi2.symm.trans hj2)

/-! ### The y registers (R23) -/

/-- The y registers of a lane with one single result: the result, and what y0 held. -/
theorem laneGet_shiftYs_same {ys : List (Nat × W32)} {l : Nat} {w : W32} (hl : l < 32) (hlt : ∀ q ∈ ys, q.1 < 32)
    (h : ys.filter (fun q => decide (q.1 = l)) = [(l, w)]) (g : Group) :
    laneGet (shiftYs g ys) (yKey 0 l) = w ∧ laneGet (shiftYs g ys) (yKey 1 l) = laneGet g (yKey 0 l) := by
  have hne : ∀ k < 32, k ≠ l → ∀ i < 2, ∀ j < 2, yKey i l ≠ yKey j k := by
    intro k hk hkl i hi j hj
    unfold yKey laneKey
    omega
  have h01 : yKey 0 l ≠ yKey 1 l := by
    unfold yKey laneKey
    omega
  induction ys generalizing g with
  | nil => cases h
  | cons q ys ih =>
    obtain ⟨hq, hys⟩ := List.forall_mem_cons.1 hlt
    have hstep : shiftYs g (q :: ys) = shiftYs (shiftY g q.1 q.2) ys := rfl
    rw [hstep]
    by_cases hql : q.1 = l
    · rw [List.filter_cons, if_pos (by simpa using hql), List.cons.injEq] at h
      obtain ⟨rfl, hnil⟩ := h
      have hother : ∀ p ∈ ys, ∀ i < 2, yKey i l ≠ yKey 0 p.1 ∧ yKey i l ≠ yKey 1 p.1 := fun p hp i hi => by
        have hpl : p.1 ≠ l := by simpa using List.filter_eq_nil_iff.1 hnil p hp
        exact ⟨hne _ (hys p hp) hpl i hi 0 (by omega), hne _ (hys p hp) hpl i hi 1 (by omega)⟩
      rw [laneGet_shiftYs_other _ fun p hp => hother p hp 0 (by omega), laneGet_shiftYs_other _ fun p hp => hother p hp 1 (by omega)]
      unfold shiftY laneSet laneGet
      dsimp only
      rw [spGet_spSet_same, spGet_spSet_other _ _ h01, spGet_spSet_same]
      exact ⟨rfl, rfl⟩
    · rw [List.filter_cons, if_neg (by simpa using hql)] at h
      obtain ⟨h0, h1⟩ := ih hys h (shiftY g q.1 q.2)
      refine ⟨h0, h1.trans ?_⟩
      unfold shiftY laneSet laneGet
      dsimp only
      rw [spGet_spSet_other _ _ (hne _ hq hql 0 (by omega) 0 (by omega)).symm,
        spGet_spSet_other _ _ (hne _ hq hql 0 (by omega) 1 (by omega)).symm]

/-! ### Results read back -/

theorem laneGet_commitLane (s : State) (r : LaneRes) (yw : Bool) (key : Nat) :
    laneGet (commitLane s r yw).cur key = laneGet (applyRes s.cur r yw) key := by
  change laneGet (stepClause (applyRes s.cur r yw)) key = _
  rw [stepClause_eq]
  rfl

theorem laneGet_applyPlain (g : Group) (r : LaneRes) (key : Nat) : laneGet (applyPlain g r) key = spGet (spSetAll g.lanes r.regs) key := by
  rw [applyPlain_eq]
  rfl

/-- A lane that a result gives nothing keeps its registers. -/
theorem laneGet_commitLane_of_part_empty {s : State} {r : LaneRes} {yw : Bool} {key : Nat} (hp : r.part (key % 32) = {})
    (hlt : ∀ q ∈ r.single, q.1 < 32) : laneGet (commitLane s r yw).cur key = laneGet s.cur key := by
  have hregs : ∀ q ∈ r.regs, q.1 ≠ key := fun q hq he => by
    have := List.filter_eq_nil_iff.1 (congrArg LaneRes.regs hp) q hq
    simp [he] at this
  have hsing : ∀ q ∈ r.single, q.1 ≠ key % 32 := fun q hq he => by
    have := List.filter_eq_nil_iff.1 (congrArg LaneRes.single hp) q hq
    simp [he] at this
  rw [laneGet_commitLane]
  refine laneGet_applyRes_other s.cur hregs fun _ q hq => ?_
  have hq32 := hlt q hq
  have hqk := hsing q hq
  unfold yKey laneKey
  omega

/-- The slots a result gives a lane are read there. -/
theorem holds_of_part {s : State} {r : LaneRes} {d : Opnd} {n l val : Nat} {yw : Bool} (hl : l < 32) (hn : 1 ≤ n)
    (hp : r.part l = putSlots s.cur d n l val) (hlt : ∀ q ∈ r.single, q.1 < 32) (hr : slotInRange s.cur d 1 l = true) :
    holds s (commitLane s r yw) d n l val yw := by
  have hregs : ∀ q, q ∈ r.regs ∧ q.1 % 32 = l ↔ q ∈ (opndKeys s.cur d n l).zip (splitSlots val n) := fun q => by
    have := congrArg (q ∈ ·) (congrArg LaneRes.regs hp)
    simpa [LaneRes.part, putSlots] using this
  constructor
  · intro j key hkey hy
    have hj : j < n := by
      obtain ⟨hj, -⟩ := List.getElem?_eq_some_iff.1 hkey
      exact hj.trans_le (length_opndKeys_le _ _ hn _)
    have hmod := mem_opndKeys_mod hl (List.mem_of_getElem? hkey)
    have hmem := mem_zip_splitSlots (val := val) hkey hj
    have hplain : laneGet (applyPlain s.cur r) key = BitVec.ofNat 32 (val / 2 ^ (32 * j)) := by
      rw [laneGet_applyPlain]
      exact spGet_spSetAll_of_mem ((hregs _).2 hmem).1 fun y hy =>
        eq_of_mem_zip (nodup_opndKeys _ _ _ _) ((hregs _).1 ⟨hy, hmod⟩) hmem
    rw [laneGet_commitLane, applyRes_eq_shiftYs]
    split
    · next hyw =>
      have hlow := hy.resolve_left (by simp [hyw])
      rw [laneGet_shiftYs_other, hplain]
      intro q _
      unfold yKey laneKey
      omega
    · exact hplain
  · rintro rfl rfl
    have hsing : r.single.filter (fun q => decide (q.1 = l)) = [(l, BitVec.ofNat 32 val)] := congrArg LaneRes.single hp
    obtain ⟨h0, h1⟩ := laneGet_shiftYs_same hl hlt hsing (applyPlain s.cur r)
    rw [show 264 * 32 + l = yKey 0 l from rfl, show 265 * 32 + l = yKey 1 l from rfl, laneGet_commitLane, laneGet_commitLane,
      applyRes_eq_shiftYs, if_pos rfl, h0, h1]
    refine ⟨rfl, fun hd => ?_⟩
    rw [laneGet_applyPlain]
    refine spGet_spSetAll_other _ _ fun q hq he => yKey_not_mem_opndKeys hr hd ?_
    have hm : q.1 % 32 = l := by
      rw [he]
      unfold yKey laneKey
      omega
    exact he ▸ (List.of_mem_zip ((hregs q).1 ⟨hq, hm⟩)).1

/-- A value of one slot is read by its low 32 bits alone. -/
theorem holds_congr_mod {s t : State} {d : Opnd} {l a b : Nat} {yw : Bool} (h : a % 2 ^ 32 = b % 2 ^ 32) (ha : holds s t d 1 l a yw) :
    holds s t d 1 l b yw := by
  have hab : BitVec.ofNat 32 a = BitVec.ofNat 32 b := BitVec.eq_of_toNat_eq (by simpa using h)
  obtain ⟨hk, hy⟩ := ha
  refine ⟨fun j key hkey hlow => ?_, fun hyw hn => hab ▸ hy hyw hn⟩
  have hj : j = 0 := by
    obtain ⟨hj, -⟩ := List.getElem?_eq_some_iff.1 hkey
    exact Nat.lt_one_iff.1 (hj.trans_le (length_opndKeys_le _ _ le_rfl _))
  subst hj
  have := hk 0 key hkey hlow
  simpa [hab] using this

/-! ### Predicates -/

theorem predGet_setPredLane_same (g : Group) {k l : Nat} {b : Bool} (hk : k ≠ 0) (hk8 : k < 8) (hl : l < 32) :
    predGet (setPredLane g k l b) k l = b := by
  have hbit : ((1 <<< l : Nat) : W32).getLsbD l = true := by
    rw [BitVec.natCast_eq_ofNat, BitVec.getLsbD_ofNat, Nat.one_shiftLeft, Nat.testBit_two_pow]
    simp [hl]
  unfold predGet setPredLane predSetMask
  simp only [hk, decide_false, Bool.false_or, if_false]
  rw [vget_vset, if_pos ⟨rfl, hk8⟩]
  cases b
  · rw [if_neg Bool.false_ne_true, BitVec.getLsbD_and, BitVec.getLsbD_not, hbit]
    simp
  · rw [if_pos rfl, BitVec.getLsbD_or, hbit, Bool.or_true]

/-- The predicate of a lane that results set once. -/
theorem predGet_setPreds_same {ps : List (Nat × Nat × Bool)} {k l : Nat} {b : Bool} (hk : k ≠ 0) (hk8 : k < 8) (hl : l < 32)
    (h : ps.filter (fun q => decide (q.2.1 = l)) = [(k, l, b)]) (g : Group) : predGet (setPreds g ps) k l = b := by
  induction ps generalizing g with
  | nil => cases h
  | cons q ps ih =>
    have hstep : setPreds g (q :: ps) = setPreds (setPredLane g q.1 q.2.1 q.2.2) ps := rfl
    rw [hstep]
    by_cases hql : q.2.1 = l
    · rw [List.filter_cons, if_pos (by simpa using hql), List.cons.injEq] at h
      obtain ⟨rfl, hnil⟩ := h
      rw [predGet_setPreds_other _ fun p hp => .inr (Ne.symm (by simpa using List.filter_eq_nil_iff.1 hnil p hp)),
        predGet_setPredLane_same g hk hk8 hl]
    · rw [List.filter_cons, if_neg (by simpa using hql)] at h
      exact ih h _

/-- The outcome of a test that a result gives a lane is read there. -/
theorem holdsTest_of_part {s : State} {r : LaneRes} {d : Opnd} {n w l : Nat} {b yw : Bool} (hl : l < 32) (hn : 1 ≤ n)
    (hp : r.part l = putTest s.cur d n w l b) (hlt : ∀ q ∈ r.single, q.1 < 32) (hr : slotInRange s.cur d 1 l = true) :
    holdsTest s (commitLane s r yw) d n w l b yw := by
  cases d
  case p neg k =>
    change predGet (stepClause (applyRes s.cur r yw)) k.toNat l = _
    rw [stepClause_eq, applyRes_eq, applyPlain_eq]
    change predGet (setPreds _ _) k.toNat l = _
    by_cases hk : k = 0
    · simp [hk, predGet]
    · have hk0 : k.toNat ≠ 0 := fun h => hk (BitVec.eq_of_toNat_eq h)
      rw [predGet_setPreds_same hk0 k.isLt hl (congrArg LaneRes.preds hp), decide_eq_false hk, Bool.or_false]
  all_goals exact holds_of_part hl hn hp hlt hr

end Sys2Proof.Machine
end

section
/-! Float instructions where they may issue: each commits the joined results of its acting lanes (R192, R197, R203 to R225). -/
namespace Sys2Proof.Machine

open Sys2Proof.Claims

/-! ### The destination is in range (R33) -/

theorem slotInRange_congr {g h : Group} (hi : h.ixs = g.ixs) (hn : h.nslots = g.nslots) (o : Opnd) (n l : Nat) :
    slotInRange h o n l = slotInRange g o n l := by
  unfold slotInRange ixValue ixBase ixLimit ixGet
  rw [hi, hn]

/-- The first slot of an operand in range is in range. -/
theorem slotInRange_one {g : Group} {d : Opnd} {n l : Nat} (hn : 1 ≤ n) (h : slotInRange g d n l = true) : slotInRange g d 1 l = true := by
  cases d
  case v b =>
    simp only [slotInRange, decide_eq_true_eq] at h ⊢
    omega
  case vx k off =>
    simp only [slotInRange, Bool.and_eq_true, decide_eq_true_eq] at h ⊢
    obtain ⟨⟨h1, h2⟩, h3⟩ := h
    omega
  all_goals rfl

/-- Filling granules leaves what ranges depend on. -/
theorem slotInRange_of_ready {s s1 : State} {i : Instr} {p : LaneParts} {v : LaneEnv} (h : LaneReady s i p v s1) (o : Opnd) (n l : Nat) :
    slotInRange s1.cur o n l = slotInRange s.cur o n l := by
  obtain ⟨s0, h0, h1⟩ := h.fill
  have r0 := fillGranules_rest _ h0
  have r1 := fillGranules_rest _ h1
  exact slotInRange_congr ((congrArg Group.ixs r1 :).trans (congrArg Group.ixs r0 :)) ((congrArg Group.nslots r1 :).trans (congrArg Group.nslots r0 :)) o n l

/-- The use of a destination: a register of some slots, or a predicate. -/
def destUse : Use → Bool
  | .dst _ | .upd _ | .pdst => true
  | _ => false

theorem destUse_cmpDst (d : Opnd) (n : Nat) : destUse (cmpDst d n) = true := by cases d <;> rfl

theorem destUse_liDst {d c : Use} (h : destUse d = true) : destUse (liDst d c) = true := by
  cases c <;> cases d <;> simp_all [liDst, destUse]

/-- A main-slot destination takes at least one slot. -/
theorem one_le_useSlots {u : Use} {d : Opnd} {b : BitVec 8} {k : BitVec 2} {off : BitVec 7} (h : d = .v b ∨ d = .vx k off)
    (hu : useOk u d = true) (hd : destUse u = true) : 1 ≤ useSlots u := by
  cases u
  case dst n | upd n => rcases h with rfl | rfl <;> exact of_decide_eq_true hu
  case pdst => rcases h with rfl | rfl <;> cases hu
  all_goals cases hd

/-- The destination of an instruction that may issue is in range in every acting lane. -/
theorem dest_inRange {s s1 : State} {i : Instr} {p : LaneParts} {v : LaneEnv} (h : LaneReady s i p v s1) {u : Use} {d : Opnd}
    (hm : (0, u, d) ∈ p.ps) (hu : useOk u d = true) (hd : destUse u = true) : ∀ l ∈ actLanes v, slotInRange s1.cur d 1 l = true := by
  intro l hl
  have hrange := h.range
  unfold badPosition at hrange
  rw [Option.map_eq_none_iff, List.find?_eq_none] at hrange
  have hpos := hrange _ hm
  have hin : useSlots u ≠ 0 → slotInRange s.cur d (useSlots u) l = true := fun h0 => by
    simp only [h0, ne_eq, not_false_eq_true, decide_true, Bool.true_and, Bool.not_eq_true, List.any_eq_false, Bool.not_eq_true',
      Bool.not_eq_false] at hpos
    exact hpos l hl
  rw [slotInRange_of_ready h]
  cases d
  case v b =>
    have h1 := one_le_useSlots (k := 0) (off := 0) (.inl rfl) hu hd
    exact slotInRange_one h1 (hin (by omega))
  case vx k off =>
    have h1 := one_le_useSlots (b := 0) (.inr rfl) hu hd
    exact slotInRange_one h1 (hin (by omega))
  all_goals rfl

/-! ### The run -/

/-- An instruction that may issue runs its body where its granules are filled. -/
theorem exec_of_ready {s s1 : State} {i : Instr} {p : LaneParts} {v : LaneEnv} {body : LaneEnv → State → State} (h : LaneReady s i p v s1)
    (he : exec i s = .next (withLane (firstGranules i p) i p.pr p.ps body s)) (h2 : ∀ t v, secondGranules i p t v = []) :
    exec i s = .next (body v s1) := by
  obtain ⟨hr, hleg, hp, henv, hb, hf, ⟨s0, hs0, hs1⟩, hx⟩ := h
  rw [h2] at hs1
  cases hs1
  rw [henv] at hb hf hs0 ⊢
  rw [he, withLane_filled hr hleg hb hf, hs0]

/-- An instruction that gives each acting lane a result commits those results joined. -/
theorem exec_perLane_of_ready {s s1 : State} {i : Instr} {p : LaneParts} {v : LaneEnv} {f : LaneEnv → State → Nat → LaneRes} {yw : Bool}
    {body : LaneEnv → State → State} (h : LaneReady s i p v s1) (he : exec i s = .next (withLane (firstGranules i p) i p.pr p.ps body s))
    (h2 : ∀ t v, secondGranules i p t v = []) (hbody : body v s1 = perLane yw f v s1) :
    exec i s = .next (commitLane s1 (joinRes ((actLanes v).map (f v s1))) yw) :=
  (exec_of_ready h he h2).trans (congrArg Host.Outcome.next hbody)

/-- The operands and the lane function of each float, conversion and variable-precision instruction (R203 to R212, R220 to R225). -/
def floatLane : Instr → Option (Srcs × (Srcs → LaneEnv → State → Nat → LaneRes))
  | .fadd x => some (srcsLa x, arithLane false opFadd)
  | .faddLi x => some (srcsLi x, arithLane false opFadd)
  | .fmul x => some (srcsLa x, arithLane false opFmul)
  | .fmulLi x => some (srcsLi x, arithLane false opFmul)
  | .ffma x => some (srcsLa x, arithLane true opFfma)
  | .ffmaLi x => some (srcsLi x, arithLane true opFfma)
  | .fmin x => some (srcsLa x, minmaxLane false)
  | .fminLi x => some (srcsLi x, minmaxLane false)
  | .fmax x => some (srcsLa x, minmaxLane true)
  | .fmaxLi x => some (srcsLi x, minmaxLane true)
  | .fcmp x | .xcmp x => some (srcsLa x, fcmpLane)
  | .fcmpLi x => some (srcsLi x, fcmpLane)
  | .fclass x => some (srcsLa x, fclassLane)
  | .fmath x => some (srcsLa x, fmathLane)
  | .fmathDivLi x => some (srcsLi x, fmathLane)
  | .fsca x => some (srcsLa x, fscaLane)
  | .fscaLi x => some (srcsLi x, fscaLane)
  | .cvt x | .xcvt x => some (srcsLa x, cvtLane)
  | .pack x => some (srcsLa x, packLane)
  | .unpack x => some (srcsLa x, unpackLane)
  | .scalex x => some (srcsLa x, scalexLane)
  | .xadd x => some (srcsLa x, xaddLane)
  | .xmul x => some (srcsLa x, xmulLane)
  | .xfma x => some (srcsLa x, xfmaLane)
  | .xadde x => some (srcsLa x, exactLane false)
  | .xmule x => some (srcsLa x, exactLane true)
  | .xrnd x => some (srcsLa x, xrndLane)
  | .xerr x => some (srcsLa x, xerrLane)
  | _ => none

/-- The run of an instruction and the range of its destination. -/
structure LaneCommits (s s1 : State) (i : Instr) (v : LaneEnv) (x : Srcs) (f : LaneEnv → State → Nat → LaneRes) : Prop where
  run : exec i s = .next (commitLane s1 (joinRes ((actLanes v).map (f v s1))) x.yw)
  range : ∀ l ∈ actLanes v, slotInRange s1.cur x.d 1 l = true

section
variable {s s1 : State} {i : Instr} {v : LaneEnv} {f : LaneEnv → State → Nat → LaneRes} {fm : W64}

theorem laneCommits_la {x : LaForm} {sh : Shape} {second : Bool} (h : LaneReady s i (ofLa x sh) v s1)
    (hok : laOk fm x second sh = true) (hd : sh.ok = true → destUse sh.d = true)
    (he : exec i s = .next (commitLane s1 (joinRes ((actLanes v).map (f v s1))) x.yw)) : LaneCommits s s1 i v (srcsLa x) f := by
  obtain ⟨hsh, hu⟩ := laOk_shape hok
  exact ⟨he, dest_inRange (u := sh.d) h (by simp [ofLa, srcsLa]) hu (hd hsh)⟩

theorem laneCommits_li {x : LiForm} {sh : Shape} {raw : Bool} (h : LaneReady s i (ofLi x sh) v s1) (hok : liOk fm x raw sh = true)
    (hd : destUse sh.d = true) (he : exec i s = .next (commitLane s1 (joinRes ((actLanes v).map (f v s1))) false)) :
    LaneCommits s s1 i v (srcsLi x) f := by
  have hu : useOk (liDst sh.d sh.c) x.d = true := by
    simp only [liOk, Bool.and_eq_true] at hok
    obtain ⟨⟨⟨⟨⟨⟨⟨-, -⟩, hu⟩, -⟩, -⟩, -⟩, -⟩, -⟩ := hok
    exact hu
  exact ⟨he, dest_inRange (u := liDst sh.d sh.c) h (by simp [ofLi, srcsLi]) hu (destUse_liDst hd)⟩

end

theorem destUse_cvt {f : W64} {ty : Ty} {md : BitVec 10} {ext : BitVec 14} (h : (shCvt f ty md ext).ok = true) :
    destUse (shCvt f ty md ext).d = true := by
  unfold shCvt at h ⊢
  split
  · next hn => simp [hn] at h
  · rfl

theorem destUse_xcvt {f : W64} {ty : Ty} {md : BitVec 10} {ext : BitVec 14} (h : (shXcvt f ty md ext).ok = true) :
    destUse (shXcvt f ty md ext).d = true := by
  unfold shXcvt at h ⊢
  split
  · next hn => simp [hn] at h
  · rfl

theorem destUse_unpack {ty : Ty} {md : BitVec 10} {ext : BitVec 14} (h : (shUnpack ty md ext).ok = true) :
    destUse (shUnpack ty md ext).d = true := by
  unfold shUnpack at h ⊢
  split
  · next hn => simp [hn] at h
  · rfl

theorem destUse_vpf {f : W64} {third exact two byteOk : Bool} {md mask : BitVec 10} {ty : Ty} {ext : BitVec 14}
    (h : (shVpf f third exact md mask ty ext two byteOk).ok = true) : destUse (shVpf f third exact md mask ty ext two byteOk).d = true := by
  unfold shVpf at h ⊢
  split
  · next hn => simp [hn] at h
  · rfl

/-- Each float instruction that may issue commits the results its lane function gives. -/
theorem laneCommits_of_ready {s s1 : State} {i : Instr} {p : LaneParts} {v : LaneEnv} {x : Srcs} {f : Srcs → LaneEnv → State → Nat → LaneRes}
    (h : LaneReady s i p v s1) (hf : floatLane i = some (x, f)) : LaneCommits s s1 i v x (f x) := by
  have hleg := h.legal
  have hfmt := clauseFmt_of_running h.clause
  have hp := h.parts
  rw [← hfmt] at hp hleg
  cases i
  case fadd y | fmul y | ffma y | fmin y | fmax y | fmath y | fsca y | pack y | scalex y =>
    cases hf; cases hp
    exact laneCommits_la h hleg (fun _ => rfl) (exec_perLane_of_ready h rfl (fun _ _ => rfl) rfl)
  case faddLi y | fmulLi y | ffmaLi y | fminLi y | fmaxLi y | fscaLi y =>
    cases hf; cases hp
    exact laneCommits_li h hleg rfl (exec_perLane_of_ready h rfl (fun _ _ => rfl) rfl)
  case fmathDivLi y =>
    cases hf; cases hp
    simp only [legalAt, Bool.and_eq_true] at hleg
    exact laneCommits_li h hleg.1 rfl (exec_perLane_of_ready h rfl (fun _ _ => rfl) rfl)
  case fcmp y | xcmp y | fclass y =>
    cases hf; cases hp
    exact laneCommits_la h hleg (fun _ => destUse_cmpDst _ _) (exec_perLane_of_ready h rfl (fun _ _ => rfl) rfl)
  case fcmpLi y =>
    cases hf; cases hp
    exact laneCommits_li h hleg (destUse_cmpDst _ _) (exec_perLane_of_ready h rfl (fun _ _ => rfl) rfl)
  case cvt y =>
    cases hf; cases hp
    exact laneCommits_la h hleg destUse_cvt (exec_perLane_of_ready h rfl (fun _ _ => rfl) rfl)
  case xcvt y =>
    cases hf; cases hp
    exact laneCommits_la h hleg destUse_xcvt (exec_perLane_of_ready h rfl (fun _ _ => rfl) rfl)
  case unpack y =>
    cases hf; cases hp
    exact laneCommits_la h hleg destUse_unpack (exec_perLane_of_ready h rfl (fun _ _ => rfl) rfl)
  case xadd y | xmul y | xfma y | xrnd y | xerr y =>
    cases hf; cases hp
    exact laneCommits_la h hleg destUse_vpf (exec_perLane_of_ready h rfl (fun _ _ => rfl) rfl)
  case xadde y | xmule y =>
    cases hf; cases hp
    exact laneCommits_la h hleg destUse_vpf (exec_perLane_of_ready h rfl (fun _ _ => rfl) (exactBody_eq h.exact))
  all_goals cases hf

/-! ### What an acting lane receives -/

theorem nodup_actLanes (v : LaneEnv) : (actLanes v).Nodup := List.nodup_range.filter _

section
variable {s s1 : State} {i : Instr} {v : LaneEnv} {x : Srcs} {f : LaneEnv → State → Nat → LaneRes} {A : Nat → LaneRes}

theorem part_joinRes_actLanes (hA : ∀ l ∈ actLanes v, Puts (f v s1 l) l (A l)) {l : Nat} (hl : l ∈ actLanes v) :
    (joinRes ((actLanes v).map (f v s1))).part l = A l := by
  have hfilter : (actLanes v).filter (fun k => decide (k = l)) = [l] := by
    have hbeq : (fun k => decide (k = l)) = fun k => k == l := funext fun k => (beq_eq_decide k l).symm
    rw [hbeq, List.filter_beq, List.count_eq_one_of_mem (nodup_actLanes v) hl, List.replicate_one]
  rw [part_joinRes hA, hfilter, List.map_singleton, joinRes_single]

theorem single_joinRes_actLanes (hA : ∀ l ∈ actLanes v, Puts (f v s1 l) l (A l)) :
    ∀ q ∈ (joinRes ((actLanes v).map (f v s1))).single, q.1 < 32 := fun q hq => by
  obtain ⟨l, hl, he⟩ := single_joinRes hA q hq
  exact he ▸ lt_of_mem_actLanes hl

/-- The slots each acting lane is given are read there after the instruction. -/
theorem LaneCommits.holds (h : LaneCommits s s1 i v x f) {n : Nat} {val : Nat → Nat} (hn : 1 ≤ n)
    (hA : ∀ l ∈ actLanes v, Puts (f v s1 l) l (putSlots s1.cur x.d n l (val l))) :
    ∃ t, exec i s = .next t ∧ ∀ l ∈ actLanes v, Claims.holds s1 t x.d n l (val l) x.yw :=
  ⟨_, h.run, fun l hl => holds_of_part (lt_of_mem_actLanes hl) hn (part_joinRes_actLanes hA hl) (single_joinRes_actLanes hA) (h.range l hl)⟩

/-- The outcomes each acting lane is given are read there after the instruction. -/
theorem LaneCommits.holdsTest (h : LaneCommits s s1 i v x f) {n w : Nat} {b : Nat → Bool} (hn : 1 ≤ n)
    (hA : ∀ l ∈ actLanes v, Puts (f v s1 l) l (putTest s1.cur x.d n w l (b l))) :
    ∃ t, exec i s = .next t ∧ ∀ l ∈ actLanes v, Claims.holdsTest s1 t x.d n w l (b l) x.yw :=
  ⟨_, h.run, fun l hl => holdsTest_of_part (lt_of_mem_actLanes hl) hn (part_joinRes_actLanes hA hl) (single_joinRes_actLanes hA) (h.range l hl)⟩

end

end Sys2Proof.Machine
end

section
/-! Codes fit their formats, and packed words hold their elements (R45 to R50, R58, R59, R62, R64). -/
namespace Sys2Proof.Machine

open Sys2Proof.Claims

/-! ### The codes of results fit their format -/

section
variable {F : FFmt} (hF : FmtOk F)
include hF

theorem withSign_lt (neg : Bool) {k : Nat} (hk : k < 2 ^ magBits F) : withSign F neg k < 2 ^ F.width := by
  have hw := two_pow_width hF.width_pos
  have hpos : 0 < 2 ^ F.width := by positivity
  unfold withSign signWeight
  unfold magBits at hk
  split
  · exact hpos
  · cases h : hasSign F
    · rw [h] at hk
      simpa using hk
    · rw [h] at hk
      simp only [if_true] at hk ⊢
      split <;> omega

theorem infCode_lt : infCode F < 2 ^ magBits F := by
  unfold infCode magBits hasSign
  cases hk : F.kind
  case b8s | b8u =>
    have hw := hF.2
    rw [hk] at hw
    simp [hw]
  all_goals
    have hp : 0 < 2 ^ trail F := by positivity
    have hq : 0 < 2 ^ (F.width - 1) := by positivity
    simp

theorem nanCode_lt : nanCode F < 2 ^ F.width := by
  have hw := two_pow_width hF.width_pos
  have hF2 := hF.2
  unfold nanCode
  cases hk : F.kind
  case ieee =>
    obtain ⟨h1, h2⟩ := two_pow_trail_le hF hk
    have hhalf : 2 ^ (trail F - 1) ≤ 2 ^ trail F := Nat.pow_le_pow_right two_pos (Nat.sub_le _ _)
    rw [infCode_ieee hk]
    dsimp only
    omega
  case e2m1 => positivity
  all_goals
    rw [hk] at hF2
    simp [hF2]

theorem overflowCode_lt (sat : Bool) (rm : Rm) (neg : Bool) : overflowCode F sat rm neg < 2 ^ F.width := by
  have hm := withSign_lt hF neg (maxCode_lt hF)
  have hi := withSign_lt hF neg (infCode_lt hF)
  have hn := nanCode_lt hF
  unfold overflowCode
  dsimp only
  split
  · exact hm
  · split
    · exact hm
    · split
      · exact hm
      · split_ifs <;> assumption
    · split_ifs <;> assumption
    · split_ifs <;> assumption

theorem roundFin_lt (f : W64) (rm : Rm) (r : BitVec 16) (neg : Bool) (m : Nat) (e : Int) : (roundFin f F rm r neg m e).1 < 2 ^ F.width := by
  have h0 : 0 < 2 ^ magBits F := by positivity
  by_cases hm : m = 0
  · rw [roundFin, if_pos hm]
    exact withSign_lt hF neg h0
  · rw [roundFin_code _ _ _ _ _ _ hm]
    split
    · exact overflowCode_lt hF _ _ _
    · next hc =>
      split
      · exact withSign_lt hF neg h0
      · exact withSign_lt hF neg ((not_lt.1 hc).trans_lt (maxCode_lt hF))

theorem roundTo_lt (f : W64) (rm : Rm) (r : BitVec 16) (x : Num) : (roundTo f F rm r x).1 < 2 ^ F.width := by
  cases x
  case nan => exact nanCode_lt hF
  case inf neg => exact withSign_lt hF neg (infCode_lt hF)
  case fin neg m e => exact roundFin_lt hF f rm r neg m e

theorem convertNum_lt (f : W64) (rm : Rm) (r : BitVec 16) (x : Num) : (convertNum f F rm r x).1 < 2 ^ F.width := by
  have hpos : 0 < 2 ^ F.width := by positivity
  have hn := nanCode_lt hF
  cases x
  case nan => exact hn
  case inf neg =>
    have hm := withSign_lt hF neg (maxCode_lt hF)
    have hi := withSign_lt hF neg (infCode_lt hF)
    unfold convertNum
    dsimp only
    split_ifs <;> assumption
  case fin neg m e =>
    unfold convertNum
    dsimp only
    split
    · unfold convertNegU
      dsimp only
      split_ifs <;> assumption
    · exact roundFin_lt hF f rm r neg m e

end

/-- The formats of elements: as wide as their place in the word, and in use where binary8 has its precision (R47, R55). -/
theorem width_fmtOf_elem (f : W64) {t : Ty} (h : tyIsFloatOrPair t = true ∨ tyPacked t = true) : (fmtOf f (tyElem t)).width = tyWidth t / tyCount t := by
  cases t
  case f32 | bf16 | f16 | bf16x2 | f16x2 | e4m3x4 | e5m2x4 | e2m1x8 | b8x4 => rfl
  all_goals simp [tyIsFloatOrPair, tyPacked] at h

theorem fmtOk_elem {f : W64} {t : Ty} (h : tyIsFloatOrPair t = true ∨ tyPacked t = true) (hb : b8Ok f [t] = true) : FmtOk (fmtOf f (tyElem t)) := by
  refine fmtOk_fmtOf (fun hb8 => ?_) ?_
  · cases t <;> simp_all [tyElem, b8Ok, tyIsB8]
  · cases t
    case vpf | vpfc => simp [tyIsFloatOrPair, tyPacked] at h
    all_goals rfl

/-! ### Packed words (R47) -/

/-- Some numbers of w bits in order, the first lowest. -/
def joinElems (w : Nat) (cs : List Nat) : Nat := cs.foldr (fun c acc => c + acc <<< w) 0

theorem joinElems_div_mod {w : Nat} {cs : List Nat} (h : ∀ c ∈ cs, c < 2 ^ w) {j c : Nat} (hj : cs[j]? = some c) :
    joinElems w cs / 2 ^ (w * j) % 2 ^ w = c := by
  have hp : 0 < 2 ^ w := by positivity
  induction cs generalizing j with
  | nil => cases hj
  | cons a cs ih =>
    obtain ⟨ha, hcs⟩ := List.forall_mem_cons.1 h
    have hjoin : joinElems w (a :: cs) = a + 2 ^ w * joinElems w cs := by
      rw [joinElems, List.foldr_cons, Nat.shiftLeft_eq, Nat.mul_comm]
      rfl
    rw [hjoin]
    cases j with
    | zero =>
      cases hj
      rw [Nat.mul_zero, Nat.pow_zero, Nat.div_one, Nat.add_mul_mod_self_left, Nat.mod_eq_of_lt ha]
    | succ j =>
      rw [Nat.mul_succ, Nat.pow_add, Nat.mul_comm (2 ^ (w * j)), ← Nat.div_div_eq_div_mul, Nat.add_mul_div_left _ _ hp,
        Nat.div_eq_of_lt ha, Nat.zero_add]
      exact ih hcs hj

theorem elemAt_packElems {t : Ty} {cs : List Nat} (h : ∀ c ∈ cs, c < 2 ^ (tyWidth t / tyCount t)) {j c : Nat} (hj : cs[j]? = some c) :
    elemAt t (packElems t cs) j = c := by
  rw [elemAt, Nat.shiftRight_eq_div_pow]
  exact joinElems_div_mod h hj

/-! ### Random words drawn in order (R59) -/

/-- Each result of a list is its function's, with some random word. -/
theorem drawEach_spec (rm : Rm) (f : Nat → BitVec 16 → Nat × Nat) (is : List Nat) (r : BitVec 16) :
    (drawEach rm f is r).1.length = is.length ∧ ∀ j c : Nat, (drawEach rm f is r).1[j]? = some c → ∃ i, is[j]? = some i ∧ ∃ w, c = (f i w).1 := by
  induction is generalizing r with
  | nil => exact ⟨rfl, by simp [drawEach]⟩
  | cons i is ih =>
    obtain ⟨hlen, hget⟩ := ih (if rm = .sr then lfsrStep r else r)
    refine ⟨congrArg (· + 1) hlen, fun j c hj => ?_⟩
    cases j with
    | zero =>
      cases hj
      exact ⟨i, rfl, _, rfl⟩
    | succ j => exact hget j c hj

/-- The results for the positions below n. -/
theorem drawEach_range (rm : Rm) (f : Nat → BitVec 16 → Nat × Nat) (n : Nat) (r : BitVec 16) {j : Nat} (hj : j < n) :
    ∃ w, (drawEach rm f (List.range n) r).1[j]? = some (f j w).1 := by
  obtain ⟨hlen, hget⟩ := drawEach_spec rm f (List.range n) r
  obtain ⟨c, hc⟩ : ∃ c, (drawEach rm f (List.range n) r).1[j]? = some c :=
    ⟨_, List.getElem?_eq_getElem (by rwa [hlen, List.length_range])⟩
  obtain ⟨i, hi, w, rfl⟩ := hget j c hc
  obtain rfl : j = i := by simpa [hj] using hi
  exact ⟨w, hc⟩

theorem exists_of_mem_drawEach {rm : Rm} {f : Nat → BitVec 16 → Nat × Nat} {is : List Nat} {r : BitVec 16} {c : Nat}
    (h : c ∈ (drawEach rm f is r).1) : ∃ i w, c = (f i w).1 := by
  obtain ⟨j, hj⟩ := List.getElem?_of_mem h
  obtain ⟨i, -, w, hc⟩ := (drawEach_spec rm f is r).2 j c hj
  exact ⟨i, w, hc⟩

/-! ### Typed values written to one slot -/

theorem extTyBits_mod (t : Ty) (x : Nat) (h : tySigned t = false) : extTyBits t x % 2 ^ 32 = x % 2 ^ 32 := by
  have hd : 2 ^ 32 ∣ 2 ^ max (tyWidth t) 32 := Nat.pow_dvd_pow 2 (le_max_right _ _)
  simp only [extTyBits, h, Bool.and_false, Bool.false_and, Bool.false_eq_true, if_false]
  exact Nat.mod_mod_of_dvd x hd

theorem tySigned_of_not_int {t : Ty} (h : tyIsInt t = false) : tySigned t = false := by cases t <;> simp_all [tyIsInt, tySigned]

section
variable {s s1 : State} {i : Instr} {v : LaneEnv} {x : Srcs} {f : LaneEnv → State → Nat → LaneRes}

/-- A value of a type that is no integer, in one slot, is read as its low 32 bits. -/
theorem LaneCommits.holds_ty (h : LaneCommits s s1 i v x f) {val : Nat → Nat} (ht : tyIsInt x.ty = false)
    (hA : ∀ l ∈ actLanes v, Puts (f v s1 l) l (putTy s1.cur x.d x.ty 1 l (val l))) :
    ∃ t, exec i s = .next t ∧ ∀ l ∈ actLanes v, Claims.holds s1 t x.d 1 l (val l) x.yw := by
  obtain ⟨t, he, ht'⟩ := h.holds (le_refl 1) hA
  exact ⟨t, he, fun l hl => holds_congr_mod (extTyBits_mod _ _ (tySigned_of_not_int ht)) (ht' l hl)⟩

theorem puts_roundedElems (x : Srcs) (v : LaneEnv) (s : State) {l : Nat} (hl : l < 32) (f : Nat → BitVec 16 → Nat × Nat) :
    Puts (roundedElems x v s l f) l
      (putTy s.cur x.d x.ty 1 l (packElems x.ty (drawEach (rmIn v x.md) f (List.range (tyCount x.ty)) (lfsrGet s.cur l)).1)) :=
  ((puts_putSlots s.cur x.d 1 _ hl).join_stat v l _).join_rnd _

/-- Each element of a rounded result is its function's, with some random word. -/
theorem LaneCommits.holds_elems (h : LaneCommits s s1 i v x f) {g : Nat → Nat → BitVec 16 → Nat × Nat} (ht : tyIsInt x.ty = false)
    (hf : ∀ l, f v s1 l = roundedElems x v s1 l (g l)) (hb : ∀ l j r, (g l j r).1 < 2 ^ (tyWidth x.ty / tyCount x.ty)) :
    ∃ t, exec i s = .next t ∧ ∀ l ∈ actLanes v, ∃ word, Claims.holds s1 t x.d 1 l word x.yw ∧
      ∀ j, j < tyCount x.ty → ∃ r, elemAt x.ty word j = (g l j r).1 := by
  obtain ⟨t, he, hh⟩ := h.holds_ty ht fun l hl => hf l ▸ puts_roundedElems x v s1 (lt_of_mem_actLanes hl) (g l)
  refine ⟨t, he, fun l hl => ⟨_, hh l hl, fun j hj => ?_⟩⟩
  obtain ⟨r, hr⟩ := drawEach_range (rmIn v x.md) (g l) (tyCount x.ty) (lfsrGet s1.cur l) hj
  refine ⟨r, elemAt_packElems (fun c hc => ?_) hr⟩
  obtain ⟨i, w, rfl⟩ := exists_of_mem_drawEach hc
  exact hb l i w

/-- A code of a float or variable-precision type fills the slots of its type. -/
theorem LaneCommits.holdsCode (h : LaneCommits s s1 i v x f) {code : Nat → Nat} (ht : tyIsInt x.ty = false)
    (hn : 1 ≤ slotsOf v.e.fmt x.ty) (hA : ∀ l ∈ actLanes v, Puts (f v s1 l) l (putCode s1 v x.d x.ty l (code l))) :
    ∃ t, exec i s = .next t ∧ ∀ l ∈ actLanes v, Claims.holdsCode s1 t v x.d x.ty l (code l) x.yw := by
  unfold Claims.holdsCode
  unfold putCode at hA
  cases hv : tyIsVpf x.ty
  · rw [hv] at hA
    rw [slotsOf_eq_one hv ht]
    exact h.holds_ty ht hA
  · rw [hv] at hA
    exact h.holds hn hA

end

theorem puts_putCode (s : State) (v : LaneEnv) (d : Opnd) (t : Ty) (code : Nat) {l : Nat} (hl : l < 32) :
    Puts (putCode s v d t l code) l (putCode s v d t l code) := by
  unfold putCode
  split
  · exact puts_putSlots s.cur d _ _ hl
  · exact puts_putSlots s.cur d 1 _ hl

end Sys2Proof.Machine
end

section
/-! Rounding to an integer (R57, R66). -/
namespace Sys2Proof.Machine

open Sys2Proof.Claims

/-- Which side of one half the part below one quantum lies on (R57). -/
theorem half_iff {rem sh : Nat} : (2 * rem = 2 ^ sh ↔ (rem : ℚ) / 2 ^ sh = 1 / 2) ∧ (2 ^ sh < 2 * rem ↔ (1 : ℚ) / 2 < rem / 2 ^ sh) := by
  have hp : (0 : ℚ) < 2 ^ sh := by positivity
  constructor
  · rw [div_eq_div_iff hp.ne' two_ne_zero]
    constructor
    · intro h
      have : (2 : ℚ) * rem = 2 ^ sh := by exact_mod_cast h
      linarith
    · intro h
      have : (2 : ℚ) * rem = 2 ^ sh := by linarith
      exact_mod_cast this
  · rw [div_lt_div_iff₀ two_pos hp]
    constructor
    · intro h
      have : (2 : ℚ) ^ sh < 2 * rem := by exact_mod_cast h
      linarith
    · intro h
      have : (2 : ℚ) ^ sh < 2 * rem := by linarith
      exact_mod_cast this

/-- What rounding up or down by a mode says of the part d below one quantum, of a value of sign `neg` whose whole quanta are odd or
even. -/
def RoundSide (rm : Rm) (neg odd up : Bool) (d : ℚ) : Prop :=
  (d = 0 → up = false) ∧ match rm with
    | .rne => (up = true → 1 / 2 ≤ d ∧ (d = 1 / 2 → odd = true)) ∧ (up = false → d ≤ 1 / 2 ∧ (d = 1 / 2 → odd = false))
    | .rna => (up = true → 1 / 2 ≤ d) ∧ (up = false → d < 1 / 2)
    | .rtz => up = false
    | .rup => d ≠ 0 → up = !neg
    | .rdn => d ≠ 0 → up = neg
    | .sr => True

theorem roundSide_roundsUp (rm : Rm) (neg odd : Bool) (rem sh : Nat) (r : BitVec 16) :
    RoundSide rm neg odd (roundsUp rm neg odd rem sh r) (rem / 2 ^ sh) := by
  obtain ⟨heq, hlt⟩ := half_iff (rem := rem) (sh := sh)
  have hz : (rem : ℚ) / 2 ^ sh = 0 ↔ rem = 0 := by simp
  unfold RoundSide roundsUp
  by_cases h0 : rem = 0
  · subst h0
    refine ⟨fun _ => rfl, ?_⟩
    cases rm <;> simp
  · refine ⟨fun h => absurd (hz.1 h) h0, ?_⟩
    rw [if_neg h0]
    cases rm
    case rne =>
      simp only [gt_iff_lt, Bool.or_eq_true, decide_eq_true_eq, Bool.and_eq_true, Bool.or_eq_false_iff, decide_eq_false_iff_not,
        Bool.and_eq_false_imp, hlt, heq]
      constructor
      · rintro (h | ⟨h, ho⟩)
        · exact ⟨h.le, fun he => absurd he h.ne'⟩
        · exact ⟨h.ge, fun _ => ho⟩
      · rintro ⟨h1, h2⟩
        exact ⟨not_lt.1 h1, h2⟩
    case rna =>
      simp only [ge_iff_le, decide_eq_true_eq, decide_eq_false_iff_not, Nat.le_iff_lt_or_eq, hlt, eq_comm (a := 2 ^ sh), heq]
      exact ⟨fun h => h.elim le_of_lt (·.ge), fun h => lt_of_le_of_ne (not_lt.1 fun h' => h (.inl h')) fun h' => h (.inr h')⟩
    case rtz => rfl
    case rup | rdn => exact fun _ => rfl
    case sr => trivial

/-- A value k + d rounded to k or k + 1 by the side its mode says is rounded as R57 and R66 say, with its sign. -/
theorem roundedTo_of_side {rm : Rm} {neg up : Bool} {k : Nat} {d : ℚ} (h0 : 0 ≤ d) (h1 : d < 1)
    (hs : RoundSide rm neg (k.testBit 0) up d) :
    roundedTo rm (if neg then -(k + d) else k + d) (if neg then -((if up then k + 1 else k : Nat) : Int) else (if up then k + 1 else k : Nat)) := by
  obtain ⟨hz, hs⟩ := hs
  have hk : (0 : ℚ) ≤ k := by positivity
  have hodd : k.testBit 0 = decide (k % 2 = 1) := Nat.testBit_zero k
  have hcast : ∀ n : Nat, n = (if up then k + 1 else k) →
      ((if neg then -(n : Int) else n : Int) : ℚ) = if neg then -((k : ℚ) + if up then 1 else 0) else k + if up then 1 else 0 := by
    rintro n rfl
    cases neg <;> cases up <;> simp
  have herr : |(if neg then -(k + d) else k + d) - (if neg then -(k + if up then (1 : ℚ) else 0) else k + if up then 1 else 0)| =
      if up then 1 - d else d := by
    cases neg <;> cases up <;> simp only [if_true, if_false, Bool.false_eq_true]
    · rw [show (k : ℚ) + d - (k + 0) = d by ring, abs_of_nonneg h0]
    · rw [show (k : ℚ) + d - (k + 1) = -(1 - d) by ring, abs_neg, abs_of_nonneg (by linarith)]
    · rw [show -((k : ℚ) + d) - -(k + 0) = -d by ring, abs_neg, abs_of_nonneg h0]
    · rw [show -((k : ℚ) + d) - -(k + 1) = 1 - d by ring, abs_of_nonneg (by linarith)]
  have hpar : ∀ b : Bool, k.testBit 0 = b → up = b → ∀ n : Nat, n = (if up then k + 1 else k) →
      (if neg then -(n : Int) else n) % 2 = 0 := by
    rintro b hb rfl n rfl
    rw [hodd] at hb
    cases up <;> cases neg <;> simp only [decide_eq_true_eq, decide_eq_false_iff_not, if_true, if_false, Bool.false_eq_true] at hb ⊢ <;>
      omega
  have hval : |(if neg then -((k : ℚ) + d) else k + d)| = k + d := by
    cases neg
    · exact abs_of_nonneg (by simpa using add_nonneg hk h0)
    · rw [if_pos rfl, abs_neg, abs_of_nonneg (add_nonneg hk h0)]
  have hint : |(if neg then -((k : ℚ) + if up then 1 else 0) else k + if up then 1 else 0)| = k + if up then 1 else 0 := by
    have hn : (0 : ℚ) ≤ k + if up then 1 else 0 := by split <;> positivity
    cases neg
    · exact abs_of_nonneg hn
    · rw [if_pos rfl, abs_neg, abs_of_nonneg hn]
  unfold roundedTo
  rw [hcast _ rfl, herr]
  refine ⟨?_, ?_⟩
  · cases up
    · simpa using h1
    · have : d ≠ 0 := fun h => by simpa using hz h
      have := lt_of_le_of_ne h0 this.symm
      simpa using this
  · cases rm
    case sr => trivial
    case rtz =>
      obtain rfl : up = false := hs
      dsimp only
      rw [hval, hint]
      simpa using h0
    case rne =>
      obtain ⟨ht, hf⟩ := hs
      cases up
      · obtain ⟨hd, hp⟩ := hf rfl
        exact ⟨hd, fun he => hpar false (hp he) rfl _ rfl⟩
      · obtain ⟨hd, hp⟩ := ht rfl
        have he : ∀ h : 1 - d = 1 / 2, d = 1 / 2 := fun h => by linarith
        exact ⟨by simp only [if_true]; linarith, fun h => hpar true (hp (he h)) rfl _ rfl⟩
    case rna =>
      obtain ⟨ht, hf⟩ := hs
      dsimp only
      rw [hval, hint]
      cases up
      · have hd := hf rfl
        exact ⟨hd.le, fun he => absurd he hd.ne⟩
      · have hd := ht rfl
        exact ⟨by simp only [if_true]; linarith, fun _ => by simp only [if_true]; linarith⟩
    case rup =>
      by_cases hd : d = 0
      · subst hd
        rw [hz rfl]
        cases neg <;> simp
      · rw [hs hd]
        cases neg
        · simpa using h1.le
        · simpa using h0
    case rdn =>
      by_cases hd : d = 0
      · subst hd
        rw [hz rfl]
        cases neg <;> simp
      · rw [hs hd]
        cases neg
        · simpa using h0
        · simpa using h1.le

/-- A finite value's integer rounding is that of R57 and R66. -/
theorem roundedTo_roundInt (rm : Rm) (r : BitVec 16) (neg : Bool) (m : Nat) (e : Int) :
    roundedTo rm (exactly neg m e) (roundInt rm r neg m e).1 := by
  obtain ⟨hs, -⟩ := splitAt_spec m e 0
  rw [zpow_zero, mul_one] at hs
  have hside := roundSide_roundsUp rm neg ((splitAt m e 0).1.testBit 0) (splitAt m e 0).2.1 (splitAt m e 0).2.2 r
  rw [exactly_eq, hs]
  exact roundedTo_of_side (by positivity) (rem_div_lt_one m e 0) hside

end Sys2Proof.Machine
end

section
/-! Sums, products and fused sums of floats, rounded once (R57, R67, R203, R207, R220). -/
namespace Sys2Proof.Machine

open Sys2Proof.Claims

/-! ### What legality says of types (R48, R197, R219) -/

theorem laOk_b8 {f : W64} {x : LaForm} {second : Bool} {sh : Shape} (h : laOk f x second sh = true) : b8Ok f (laTypes x second) = true := by
  simp only [laOk, Bool.and_eq_true] at h
  exact h.2

theorem liOk_b8 {f : W64} {x : LiForm} {raw : Bool} {sh : Shape} (h : liOk f x raw sh = true) : b8Ok f [x.ty] = true := by
  simp only [liOk, Bool.and_eq_true] at h
  obtain ⟨⟨⟨-, hb⟩, -⟩, -⟩ := h
  exact hb

theorem b8Ok_of_mem {f : W64} {ts : List Ty} {t : Ty} (h : b8Ok f ts = true) (ht : t ∈ ts) : b8Ok f [t] = true := by
  simp only [b8Ok, Bool.or_eq_true, decide_eq_true_eq, List.all_eq_true, List.mem_singleton, forall_eq] at h ⊢
  exact h.imp id fun h => h t ht

theorem laOk_b8_ty {f : W64} {x : LaForm} {second : Bool} {sh : Shape} (h : laOk f x second sh = true) : b8Ok f [x.ty] = true :=
  b8Ok_of_mem (laOk_b8 h) (List.mem_cons_self ..)

theorem laOk_b8_ext {f : W64} {x : LaForm} {sh : Shape} {t : Ty} (h : laOk f x true sh = true) (ht : extTy x.ext = some t) : b8Ok f [t] = true :=
  b8Ok_of_mem (laOk_b8 h) (by simp [laTypes, ht])

theorem tyIsInt_of_floatOrPair {t : Ty} (h : tyIsFloatOrPair t = true) : tyIsInt t = false := by
  cases t
  case f32 | bf16 | f16 | bf16x2 | f16x2 => rfl
  all_goals cases h

theorem tyIsInt_of_vpf {t : Ty} (h : tyIsVpf t = true) : tyIsInt t = false := by
  cases t
  case vpf | vpfc => rfl
  all_goals cases h

/-! ### The exact results (R57, R203) -/

/-- An operation of the model gives the exact result q of finite sources, and NaN where a source it reads is NaN. -/
structure ExactOp (third : Bool) (op : Rm → Num → Num → Num → Num × Nat) (q : ℚ → ℚ → ℚ → ℚ) : Prop where
  finite : ∀ rm {a b c : Num} {qa qb qc : ℚ}, rational a = some qa → rational b = some qb → (third = true → rational c = some qc) →
    rational (op rm a b c).1 = some (q qa qb qc)
  nan : ∀ rm {a b c : Num}, a = .nan ∨ b = .nan ∨ third = true ∧ c = .nan → (op rm a b c).1 = .nan

theorem exactOp_fadd : ExactOp false opFadd fun a b _ => a + b := by
  constructor
  · exact fun rm _ _ _ _ _ _ ha hb _ => rational_numAdd rm ha hb
  · rintro rm a b c (rfl | rfl | ⟨h, -⟩)
    · exact numAdd_nan_left rm b
    · exact numAdd_nan_right rm a
    · cases h

theorem exactOp_fmul : ExactOp false opFmul fun a b _ => a * b := by
  constructor
  · exact fun rm _ _ _ _ _ _ ha hb _ => (rational_numMul ha hb).1
  · rintro rm a b c (rfl | rfl | ⟨h, -⟩)
    · exact congrArg Prod.fst (numMul_nan_left b)
    · exact congrArg Prod.fst (numMul_nan_right a)
    · cases h

theorem exactOp_ffma : ExactOp true opFfma fun a b c => a * b + c := by
  constructor
  · exact fun rm _ _ _ _ _ _ ha hb hc => rational_numFma rm ha hb (hc rfl)
  · exact fun rm _ _ _ h => numFma_nan rm (h.imp id (Or.imp id And.right))

/-- FADD, FMUL and FFMA round the exact operation of their sources, of a float type (R203). -/
theorem floatLane_of_floatOp {i : Instr} {x : Srcs} {third : Bool} {q : ℚ → ℚ → ℚ → ℚ} (h : floatOp i = some (x, third, q)) :
    ∃ op, floatLane i = some (x, arithLane third op) ∧ ExactOp third op q := by
  cases i
  case fadd | faddLi => cases h; exact ⟨_, rfl, exactOp_fadd⟩
  case fmul | fmulLi => cases h; exact ⟨_, rfl, exactOp_fmul⟩
  case ffma | ffmaLi => cases h; exact ⟨_, rfl, exactOp_ffma⟩
  all_goals cases h

theorem legal_floatOp {f : W64} {i : Instr} {x : Srcs} {third : Bool} {q : ℚ → ℚ → ℚ → ℚ} (h : floatOp i = some (x, third, q))
    (hleg : legalAt f i = true) : tyIsFloatOrPair x.ty = true ∧ b8Ok f [x.ty] = true := by
  have hsh : ∀ {k third ty md ext}, (shFloat k third ty md ext).ok = true → tyIsFloatOrPair ty = true := fun h => by
    simp only [shFloat, Bool.and_eq_true] at h
    exact h.1.1
  cases i
  case fadd y | fmul y | ffma y => cases h; exact ⟨hsh (laOk_shape hleg).1, laOk_b8_ty hleg⟩
  case faddLi y | fmulLi y | ffmaLi y => cases h; exact ⟨hsh (liOk_shape hleg), liOk_b8 hleg⟩
  all_goals cases h

/-! ### Elementwise sums and products (R203) -/

/-- Codes rounded to an element's format fit its place in the word. -/
theorem roundTo_lt_elem {f : W64} {t : Ty} (ht : tyIsFloatOrPair t = true ∨ tyPacked t = true) (hb : b8Ok f [t] = true) (rm : Rm)
    (r : BitVec 16) (n : Num) : (roundTo f (fmtOf f (tyElem t)) rm r n).1 < 2 ^ (tyWidth t / tyCount t) :=
  width_fmtOf_elem f ht ▸ roundTo_lt (fmtOk_elem ht hb) f rm r n

/-- Each element of FADD, FMUL and FFMA is one rounding of the exact result, NaN for a NaN source (R57, R203). -/
theorem float_op_rounded {s s1 : State} {i : Instr} {p : LaneParts} {v : LaneEnv} (h : LaneReady s i p v s1) {x : Srcs} {third : Bool}
    {q : ℚ → ℚ → ℚ → ℚ} (hop : floatOp i = some (x, third, q)) :
    ∃ t, exec i s = .next t ∧ ∀ l ∈ actLanes v, ∃ word, holds s1 t x.d 1 l word x.yw ∧ ∀ j, j < tyCount x.ty → ∀ a b c,
      a = srcNum v x (readTy s1 v x.a x.ty l) j (x.md.getLsbD 0) (x.md.getLsbD 2) →
      b = srcNum v x (readB s1 v x x.ty l) j (x.md.getLsbD 1) (x.md.getLsbD 3) →
      c = srcNum v x (if third then readTy s1 v x.c x.ty l else 0) j (x.md.getLsbD 4) false →
      (∀ qa qb qc, rational a = some qa → rational b = some qb → rational c = some qc → q qa qb qc ≠ 0 →
        ∃ n r, rational n = some (q qa qb qc) ∧
          elemAt x.ty word j = (roundTo v.e.fmt (fmtOf v.e.fmt (tyElem x.ty)) (rmIn v x.md) r n).1) ∧
      ((a = .nan ∨ b = .nan ∨ third = true ∧ c = .nan) → elemAt x.ty word j = nanCode (fmtOf v.e.fmt (tyElem x.ty))) := by
  obtain ⟨op, hf, hexact⟩ := floatLane_of_floatOp hop
  obtain ⟨hty, hb⟩ := legal_floatOp hop h.legal
  obtain ⟨t, he, hh⟩ := (laneCommits_of_ready h hf).holds_elems (tyIsInt_of_floatOrPair hty) (fun l => rfl)
    (fun l j r => roundTo_lt_elem (.inl hty) hb _ _ _)
  refine ⟨t, he, fun l hl => ?_⟩
  obtain ⟨word, hw, helem⟩ := hh l hl
  refine ⟨word, hw, fun j hj a b c ha hb hc => ?_⟩
  obtain ⟨r, hr⟩ := helem j hj
  subst ha hb hc
  refine ⟨fun qa qb qc ha hb hc _ => ⟨_, r, hexact.finite _ ha hb (fun _ => hc), hr⟩, fun hnan => ?_⟩
  exact hr.trans (congrArg (fun n => (roundTo v.e.fmt _ _ r n).1) (hexact.nan (rmIn v x.md) hnan))

/-! ### Scaled addition (R46, R207) -/

theorem rational_e8m0Num (c : Nat) : rational (e8m0Num c) = scaleCode c := by
  unfold e8m0Num scaleCode
  split
  · rfl
  · simp [rational]

theorem e8m0Num_of_none {c : Nat} (h : scaleCode c = none) : e8m0Num c = .nan := by
  unfold scaleCode at h
  split at h
  · next hc => exact if_pos hc
  · cases h

/-- The scale of FSCA by its kind (R207). -/
def fscaScale (f : W64) (kind number codes : Nat) : Num :=
  match kind with
  | 0 => readNum f fmtF32 number
  | 1 => e8m0Num codes
  | _ => (numMul (e8m0Num codes) (e8m0Num (codes / 256))).1

theorem rational_fscaScale {f : W64} {kind number codes : Nat} {k : ℚ} (h : scaleOf f kind number codes = some k) :
    rational (fscaScale f kind number codes) = some k := by
  match kind with
  | 0 => exact h
  | 1 => exact (rational_e8m0Num codes).trans h
  | _ + 2 =>
    obtain ⟨x, hx, y, hy, rfl⟩ : ∃ x, scaleCode codes = some x ∧ ∃ y, scaleCode (codes / 256) = some y ∧ x * y = k := by
      simpa [scaleOf, Option.bind_eq_some_iff] using h
    exact (rational_numMul ((rational_e8m0Num _).trans hx) ((rational_e8m0Num _).trans hy)).1

theorem fscaScale_nan {f : W64} {kind number codes : Nat} (hk : 1 ≤ kind) (h : scaleOf f kind number codes = none) :
    fscaScale f kind number codes = .nan := by
  match kind with
  | 0 => omega
  | 1 => exact e8m0Num_of_none h
  | _ + 2 =>
    have hnone : scaleCode codes = none ∨ scaleCode (codes / 256) = none := by
      cases hx : scaleCode codes
      · exact .inl rfl
      · exact .inr (by simpa [scaleOf, hx] using h)
    change (numMul _ _).1 = _
    rcases hnone with h | h
    · rw [e8m0Num_of_none h, numMul_nan_left]
    · rw [e8m0Num_of_none h, numMul_nan_right]

theorem fscaLane_eq (x : Srcs) (v : LaneEnv) (s : State) (l : Nat) : fscaLane x v s l = roundedElems x v s l fun _ r =>
    let n := numFma (rmIn v x.md) (readNum v.e.fmt fmtF32 (readTy s v x.a .f32 l))
      (fscaScale v.e.fmt (x.md.extractLsb' 0 2).toNat (readB s v x .f32 l) (readB32 s v x l)) (readNum v.e.fmt fmtF32 (readTy s v x.c .f32 l))
    ((roundTo v.e.fmt fmtF32 (rmIn v x.md) r n.1).1, n.2 ||| (roundTo v.e.fmt fmtF32 (rmIn v x.md) r n.1).2) := rfl

theorem holds_elem_f32 {s t : State} {d : Opnd} {l word : Nat} {yw : Bool} (h : holds s t d 1 l word yw) :
    holds s t d 1 l (elemAt .f32 word 0) yw := by
  refine holds_congr_mod ?_ h
  change _ = (word >>> 0) % 2 ^ 32 % 2 ^ 32
  rw [Nat.mod_mod, Nat.shiftRight_zero]

/-- FSCA writes a times the scale plus c, rounded once; NaN for a NaN scale (R207). -/
theorem fsca_rounded {s s1 : State} {i : Instr} {x : Srcs} {p : LaneParts} {v : LaneEnv} (h : LaneReady s i p v s1)
    (hi : (∃ f, i = .fsca f ∧ x = srcsLa f) ∨ (∃ f, i = .fscaLi f ∧ x = srcsLi f)) :
    ∃ t, exec i s = .next t ∧ ∀ l ∈ actLanes v, ∃ word, holds s1 t x.d 1 l word x.yw ∧
      ∀ sc, sc = scaleOf v.e.fmt (x.md.extractLsb' 0 2).toNat (readB s1 v x .f32 l) (readB32 s1 v x l) →
        (∀ qa qc k, rational (readNum v.e.fmt fmtF32 (readTy s1 v x.a .f32 l)) = some qa →
          rational (readNum v.e.fmt fmtF32 (readTy s1 v x.c .f32 l)) = some qc → sc = some k → qa * k + qc ≠ 0 →
          ∃ n r, rational n = some (qa * k + qc) ∧ word = (roundTo v.e.fmt fmtF32 (rmIn v x.md) r n).1) ∧
        (1 ≤ (x.md.extractLsb' 0 2).toNat → sc = none → word = nanCode fmtF32) := by
  have hsh : ∀ {ty md ext}, (shFsca ty md ext).ok = true → ty = .f32 := fun h => by
    simp only [shFsca, Bool.and_eq_true, decide_eq_true_eq] at h
    exact h.1.1.1
  obtain ⟨hf, hty⟩ : floatLane i = some (x, fscaLane) ∧ x.ty = .f32 := by
    rcases hi with ⟨f, rfl, rfl⟩ | ⟨f, rfl, rfl⟩
    · exact ⟨rfl, hsh (laOk_shape h.legal).1⟩
    · exact ⟨rfl, hsh (liOk_shape h.legal)⟩
  obtain ⟨t, he, hh⟩ := (laneCommits_of_ready h hf).holds_elems (by rw [hty]; rfl) (fun l => fscaLane_eq x v s1 l)
    (fun l j r => by rw [hty]; exact roundTo_lt fmtOk_f32 _ _ _ _)
  refine ⟨t, he, fun l hl => ?_⟩
  obtain ⟨word, hw, helem⟩ := hh l hl
  rw [hty] at helem
  obtain ⟨r, hr⟩ := helem 0 (by decide)
  refine ⟨_, holds_elem_f32 hw, fun sc hsc => ⟨fun qa qc k ha hc hk _ => ?_, fun hkind hnone => ?_⟩⟩
  · exact ⟨_, r, rational_numFma _ ha (rational_fscaScale (hsc.symm.trans hk)) hc, hr⟩
  · rw [hr]
    dsimp only
    rw [fscaScale_nan hkind (hsc.symm.trans hnone), numFma_nan _ (.inr (.inl rfl))]
    rfl

/-! ### Variable precision (R219, R220) -/

/-- The random word a lane draws for one rounding (R59). -/
def drawnWord (rm : Rm) (s : State) (l : Nat) : BitVec 16 := if rm = .sr then lfsrStep (lfsrGet s.cur l) else lfsrGet s.cur l

/-- What legality says of a variable-precision form: a type of variable precision, and a window for it. -/
structure VpfLegal (f : W64) (x : LaForm) : Prop where
  vpf : tyIsVpf x.ty = true
  slots : 1 ≤ slotsOf f x.ty

section
variable {f : W64} {x : LaForm} {third exact two byteOk : Bool} {mask : BitVec 10}

theorem shVpf_ok (h : (shVpf f third exact x.md mask x.ty x.ext two byteOk).ok = true) :
    tyIsVpf x.ty = true ∧ (exact = true → x.ty = .vpfc) ∧ byteOk = true ∧
      (shVpf f third exact x.md mask x.ty x.ext two byteOk).d = .dst (slotsOf f x.ty) := by
  unfold shVpf at h ⊢
  split
  · next hn => simp [hn] at h
  · next ts hts =>
    simp only [hts, Bool.and_eq_true, Bool.or_eq_true, Bool.not_eq_true', decide_eq_true_eq] at h
    obtain ⟨⟨⟨⟨hv, hex⟩, -⟩, -⟩, hb⟩ := h
    exact ⟨hv, fun he => hex.resolve_left (by simp [he]), hb, rfl⟩

theorem vpfLegal_of_laOk (h : laOk f x true (shVpf f third exact x.md mask x.ty x.ext two byteOk) = true) : VpfLegal f x := by
  obtain ⟨hsh, hd⟩ := laOk_shape h
  obtain ⟨hv, -, -, hdst⟩ := shVpf_ok hsh
  rw [hdst] at hd
  refine ⟨hv, ?_⟩
  cases hx : x.d <;> simp_all [useOk]
  all_goals omega

end

/-- The precisions of windows (R31). -/
theorem prec_of_slots {f : W64} {t : Ty} (hv : tyIsVpf t = true) (hs : 1 ≤ slotsOf f t) :
    fmtOf f t = fmtVpf (vpfPrec f t) ∧ 2 ≤ vpfPrec f t := by
  have hp : 2 ≤ vpfPrec f t := by
    by_contra hlt
    rw [slotsOf, if_pos hv, windowLen, if_pos (by omega)] at hs
    cases hs
  cases t
  case vpf | vpfc => exact ⟨rfl, hp⟩
  all_goals cases hv

theorem puts_vpfRound (x : Srcs) (v : LaneEnv) (s : State) {l : Nat} (hl : l < 32) (n : Num × Nat) :
    Puts (vpfRound x v s l n) l (putCode s v x.d x.ty l
      (roundTo v.e.fmt (fmtOf v.e.fmt x.ty) (rmIn v x.md) (drawnWord (rmIn v x.md) s l) n.1).1) :=
  ((puts_putCode s v x.d x.ty _ hl).join_stat v l _).join_rnd _

theorem holds_of_holdsCode {s t : State} {v : LaneEnv} {d : Opnd} {ty : Ty} {l code : Nat} {yw : Bool} (hv : tyIsVpf ty = true)
    (h : holdsCode s t v d ty l code yw) : holds s t d (slotsOf v.e.fmt ty) l (codeWindow (vpfPrec v.e.fmt ty) code) yw := by
  rwa [Claims.holdsCode, if_pos hv] at h

/-- A lane's rounded operation on its three variable-precision sources. -/
def vpfOpLane (op : Rm → Num → Num → Num → Num × Nat) (x : Srcs) (v : LaneEnv) (s : State) (l : Nat) : LaneRes :=
  vpfRound x v s l (op (rmIn v x.md) (vpfSrc s v x x.a l) (vpfSrc s v x x.b l) (vpfSrc s v x x.c l))

/-- XADD, XMUL and XFMA round the exact operation of their sources (R220). -/
theorem floatLane_of_vpfOp {i : Instr} {x : LaForm} {third : Bool} {q : ℚ → ℚ → ℚ → ℚ} (h : vpfOp i = some (x, third, q)) :
    ∃ op, floatLane i = some (srcsLa x, vpfOpLane op) ∧ ExactOp third op q := by
  cases i
  case xadd => cases h; exact ⟨opFadd, rfl, exactOp_fadd⟩
  case xmul => cases h; exact ⟨opFmul, rfl, exactOp_fmul⟩
  case xfma => cases h; exact ⟨opFfma, rfl, exactOp_ffma⟩
  all_goals cases h

theorem legal_vpfOp {f : W64} {i : Instr} {x : LaForm} {third : Bool} {q : ℚ → ℚ → ℚ → ℚ} (h : vpfOp i = some (x, third, q))
    (hleg : legalAt f i = true) : VpfLegal f x := by
  cases i
  case xadd | xmul | xfma => cases h; exact vpfLegal_of_laOk hleg
  all_goals cases h

/-- XADD, XMUL and XFMA write the window of the exact result, rounded once (R220). -/
theorem vpf_op_rounded {s s1 : State} {i : Instr} {p : LaneParts} {v : LaneEnv} (h : LaneReady s i p v s1) {x : LaForm} {third : Bool}
    {q : ℚ → ℚ → ℚ → ℚ} (hop : vpfOp i = some (x, third, q)) :
    ∃ t, exec i s = .next t ∧ ∀ l ∈ actLanes v, ∀ a b c,
      a = vpfSrc s1 v (srcsLa x) x.a l → b = vpfSrc s1 v (srcsLa x) x.b l → c = vpfSrc s1 v (srcsLa x) x.c l →
      ∀ qa qb qc, rational a = some qa → rational b = some qb → (third = true → rational c = some qc) → q qa qb qc ≠ 0 →
        ∃ n r, rational n = some (q qa qb qc) ∧
          (tyIsVpf x.ty = true → holds s1 t x.d (slotsOf v.e.fmt x.ty) l
            (codeWindow (vpfPrec v.e.fmt x.ty) (roundTo v.e.fmt (fmtOf v.e.fmt x.ty) (rmIn v x.md) r n).1) x.yw) := by
  obtain ⟨op, hf, hexact⟩ := floatLane_of_vpfOp hop
  have hleg := legal_vpfOp hop h.legal
  obtain ⟨t, he, hh⟩ := (laneCommits_of_ready h hf).holdsCode (tyIsInt_of_vpf hleg.vpf) hleg.slots
    (fun l hl => puts_vpfRound (srcsLa x) v s1 (lt_of_mem_actLanes hl) _)
  refine ⟨t, he, fun l hl a b c ha hb hc qa qb qc hqa hqb hqc _ => ?_⟩
  subst ha hb hc
  refine ⟨_, drawnWord (rmIn v x.md) s1 l, hexact.finite (rmIn v x.md) hqa hqb hqc, fun hv => ?_⟩
  exact holds_of_holdsCode hv (hh l hl)

end Sys2Proof.Machine
end

section
/-! The exact forms XADDE and XMULE (R71, R221). -/
namespace Sys2Proof.Machine

open Sys2Proof.Claims

/-! ### Formats without output flushing (R71) -/

theorem bitAt_noFlushOut (v : LaneEnv) {k : Nat} (hk : k < 64) : bitAt (noFlushOut v).e.fmt k = (bitAt v.e.fmt k && decide (k ≠ 6)) := by
  have hm : ∀ k < 64, (~~~(0x40 : W64)).getLsbD k = decide (k ≠ 6) := by decide
  change (v.e.fmt &&& ~~~0x40).getLsbD k = _
  rw [BitVec.getLsbD_and, hm k hk]
  rfl

theorem fmtRm_noFlushOut (v : LaneEnv) : fmtRm (noFlushOut v).e.fmt = fmtRm v.e.fmt := by
  refine Nat.eq_of_testBit_eq fun k => ?_
  rw [fmtRm, fmtRm, testBit_bitsOf, testBit_bitsOf]
  by_cases hk : k < 3
  · have hb := bitAt_noFlushOut v (k := k) (by omega)
    rw [decide_eq_true (show k ≠ 6 by omega), Bool.and_true] at hb
    rw [Nat.zero_add]
    exact congrArg (_ && ·) hb
  · simp [hk]

theorem rmIn_noFlushOut (v : LaneEnv) (md : BitVec 10) : rmIn (noFlushOut v) md = rmIn v md := by
  unfold rmIn rmCode
  rw [fmtRm_noFlushOut]

theorem vpfPrec_noFlushOut (v : LaneEnv) (t : Ty) : vpfPrec (noFlushOut v).e.fmt t = vpfPrec v.e.fmt t := by
  unfold vpfPrec fmtCprec fmtWprec
  rw [bitsOf_noFlushOut v (by omega) (by omega), bitsOf_noFlushOut v (by omega) (by omega)]

theorem putCode_noFlushOut (s : State) (v : LaneEnv) (d : Opnd) (t : Ty) (l code : Nat) :
    putCode s (noFlushOut v) d t l code = putCode s v d t l code := by
  unfold putCode
  rw [slotsOf_noFlushOut, vpfPrec_noFlushOut]

theorem fmtSat_noFlushOut (v : LaneEnv) : fmtSat (noFlushOut v).e.fmt = fmtSat v.e.fmt := by
  rw [fmtSat, bitAt_noFlushOut v (by omega), decide_eq_true (by omega), Bool.and_true, fmtSat]

theorem flushOut_noFlushOut (v : LaneEnv) : flushOut (noFlushOut v).e.fmt .a = false := by
  rw [flushOut, fmtFoa, bitAt_noFlushOut v (by omega)]
  simp

/-! ### Values a format holds (R45, R50) -/

section
variable {F : FFmt} (hF : FmtOk F)
include hF

/-- A finite code's magnitude is its value's. -/
theorem exists_magRat_of_decodeNum {c : Nat} {neg : Bool} {m : Nat} {e : Int} (h : rational (decodeNum F c) = some (exactly neg m e)) :
    ∃ k ≤ maxCode F, magRat F k = exactly false m e := by
  obtain ⟨neg', m', e', hd, hq⟩ := rational_eq_some h
  obtain ⟨hle, h8⟩ := of_decodeNum_fin hF hd
  refine ⟨_, hle, ?_⟩
  rw [decodeNum_of_le hF hle h8, rational_fin, Option.some.injEq] at h
  rw [← abs_exactly neg m e, ← h, abs_exactly]
  rfl

/-- A magnitude's code stands for it, in a format with a sign. -/
theorem rational_withSign_of_magRat {k : Nat} (neg : Bool) {m : Nat} {e : Int} (hk : k ≤ maxCode F) (hs : hasSign F = true)
    (h : magRat F k = exactly false m e) : rational (decodeNum F (withSign F neg k)) = some (exactly neg m e) := by
  rw [rational_withSign hF hk (fun _ => hs), h, ← exactly_eq]

/-- Rounding does not go below the code of the whole quanta. -/
theorem magCode_le_roundedMag (rm : Rm) (r : BitVec 16) (neg : Bool) {m : Nat} {e : Int} (hm : m ≠ 0) :
    magCode F (splitAt m e (quantum F m e)).1 (quantum F m e) ≤ roundedMag F rm r neg m e := by
  obtain ⟨hk, hn⟩ := splitAt_quantum hF.1 hm (e := e)
  have hq := minQuantum_le_quantum F m e
  unfold roundedMag
  dsimp only
  split
  · refine (magRat_strictMono F).le_iff_le.1 ?_
    rw [magRat_splitAt hF.1 hm, magRat_magCode hF.1 hq hk (hn.imp id Nat.le_succ_of_le)]
    have := two_zpow_pos (quantum F m e)
    push_cast
    linarith
  · exact le_refl _

/-- Where an exact result counts as fitting and no code has its magnitude, it is beyond the largest one (R71, log 92). -/
theorem beyond_of_exactFits {neg : Bool} {m : Nat} {e : Int} (hm : m ≠ 0) (hfit : exactFits F (.fin neg m e) = true)
    (hno : ∀ k ≤ maxCode F, magRat F k ≠ exactly false m e) :
    maxCode F ≤ magCode F (splitAt m e (quantum F m e)).1 (quantum F m e) ∧ magRat F (maxCode F) < exactly false m e := by
  simp only [exactFits, if_neg hm, Bool.or_eq_true, Bool.and_eq_true, decide_eq_true_eq, numLess_fin, ge_iff_le] at hfit
  rcases hfit with hrem | hbeyond
  · have heq : magRat F (magCode F (splitAt m e (quantum F m e)).1 (quantum F m e)) = exactly false m e :=
      (magRat_splitAt hF.1 hm).trans (eq_of_splitAt hrem).symm
    have hlt := not_le.1 fun hle => hno _ hle heq
    exact ⟨hlt.le, heq ▸ magRat_strictMono F hlt⟩
  · exact hbeyond

/-- A value with a code is split exactly. -/
theorem exactFits_of_magRat (neg : Bool) {k m : Nat} {e : Int} (hm : m ≠ 0) (h : magRat F k = exactly false m e) :
    exactFits F (.fin neg m e) = true := by
  simp [exactFits, hm, (splitAt_of_magRat hF.1 hm h).1]

/-- Beyond the largest code the rounded code does not depend on flushing. -/
theorem roundFin_congr_of_maxCode_le {f g : W64} {rm : Rm} {r : BitVec 16} {neg : Bool} {m : Nat} {e : Int} (hm : m ≠ 0)
    (hfg : fmtSat f = fmtSat g) (ht : 2 ^ trail F ≤ maxCode F)
    (h : maxCode F ≤ magCode F (splitAt m e (quantum F m e)).1 (quantum F m e)) :
    (roundFin f F rm r neg m e).1 = (roundFin g F rm r neg m e).1 := by
  have hge : ¬ roundedMag F rm r neg m e < 2 ^ trail F := not_lt.2 (ht.trans (h.trans (magCode_le_roundedMag hF rm r neg hm)))
  rw [roundFin_code f _ _ _ _ _ hm, roundFin_code g _ _ _ _ _ hm, hfg]
  simp [hge]

end

/-! ### Variable-precision formats (R50) -/

theorem two_pow_trail_le_maxCode_vpf {p : Nat} (hp : 2 ≤ p) : 2 ^ trail (fmtVpf p) ≤ maxCode (fmtVpf p) := by
  have ht : 1 ≤ 2 ^ (p - 1) := Nat.one_le_two_pow
  have hw : 2 ^ (15 + p - 1) = 2 ^ 15 * 2 ^ (p - 1) := by rw [← pow_add]; congr 1; omega
  rw [maxCode_ieee rfl, infCode_ieee rfl]
  change 2 ^ (p - 1) ≤ 2 ^ (15 + p - 1) - 2 ^ (p - 1) - 1
  omega

theorem withSign_false_maxCode_vpf (p : Nat) : withSign (fmtVpf p) false (maxCode (fmtVpf p)) = maxCode (fmtVpf p) := by
  simp [withSign, fmtVpf]

/-! ### The exact forms -/

theorem rational_exactOf {mul : Bool} {x : Srcs} {v : LaneEnv} {s : State} {l : Nat} {qa qb : ℚ}
    (ha : rational (vpfSrc s v x x.a l) = some qa) (hb : rational (vpfSrc s v x x.b l) = some qb) :
    rational (exactOf mul x v s l).1 = some (if mul then qa * qb else qa + qb) := by
  cases mul
  · exact rational_numAdd _ ha hb
  · exact (rational_numMul ha hb).1

/-- The code XADDE and XMULE write: flushed only where the exact result does not fit (R71). -/
def exactCode (mul : Bool) (x : Srcs) (v : LaneEnv) (s : State) (l : Nat) : Nat :=
  (roundTo (if exactFits (fmtOf v.e.fmt x.ty) (exactOf mul x v s l).1 then (noFlushOut v).e.fmt else v.e.fmt) (fmtOf v.e.fmt x.ty) (rmIn v x.md)
    (drawnWord (rmIn v x.md) s l) (exactOf mul x v s l).1).1

theorem puts_exactLane (mul : Bool) {x : Srcs} {v : LaneEnv} (s : State) {l : Nat} (hl : l < 32) (hv : tyIsVpf x.ty = true)
    (hs : 1 ≤ slotsOf v.e.fmt x.ty) : Puts (exactLane mul x v s l) l (putCode s v x.d x.ty l (exactCode mul x v s l)) := by
  have hF : fmtOf (noFlushOut v).e.fmt x.ty = fmtOf v.e.fmt x.ty := by
    rw [(prec_of_slots hv hs).1, (prec_of_slots hv (slotsOf_noFlushOut v x.ty ▸ hs)).1, vpfPrec_noFlushOut]
  unfold exactLane exactCode
  dsimp only
  split
  · have h := puts_vpfRound x (noFlushOut v) s hl (exactOf mul x v s l)
    rw [hF, rmIn_noFlushOut, putCode_noFlushOut] at h
    exact h
  · exact (puts_vpfRound x v s hl _).join_stat v l _

/-- What the code is worth: the exact value where a code has it, else the value rounded once (R71). -/
theorem exactCode_spec {x : LaForm} {v : LaneEnv} (hleg : VpfLegal v.e.fmt x) {mul : Bool} {s : State} {l : Nat} {q : ℚ}
    (hq : rational (exactOf mul (srcsLa x) v s l).1 = some q) (h0 : q ≠ 0) :
    ((∃ c, rational (decodeNum (fmtOf v.e.fmt x.ty) c) = some q) →
      rational (decodeNum (fmtOf v.e.fmt x.ty) (exactCode mul (srcsLa x) v s l)) = some q) ∧
    ((∀ c < 2 ^ (fmtOf v.e.fmt x.ty).width, rational (decodeNum (fmtOf v.e.fmt x.ty) c) ≠ some q) →
      exactCode mul (srcsLa x) v s l = (roundTo v.e.fmt (fmtOf v.e.fmt x.ty) (rmIn v x.md) (drawnWord (rmIn v x.md) s l)
        (exactOf mul (srcsLa x) v s l).1).1 ∧
      ((∀ top, rational (decodeNum (fmtOf v.e.fmt x.ty) (maxCode (fmtOf v.e.fmt x.ty))) = some top → |q| < top) →
        exactFits (fmtOf v.e.fmt x.ty) (exactOf mul (srcsLa x) v s l).1 = false)) := by
  obtain ⟨hF, hp⟩ := prec_of_slots hleg.vpf hleg.slots
  have hok := fmtOk_vpf hp
  obtain ⟨neg, m, e, hn, rfl⟩ := rational_eq_some hq
  have hm : m ≠ 0 := fun h => h0 (exactly_eq_zero.2 h)
  unfold exactCode
  change (_ → rational (decodeNum (fmtOf v.e.fmt x.ty) (roundTo (if exactFits (fmtOf v.e.fmt x.ty) _ then _ else _) (fmtOf v.e.fmt x.ty) _ _ _).1) = _) ∧
    (_ → (roundTo (if exactFits (fmtOf v.e.fmt x.ty) _ then _ else _) (fmtOf v.e.fmt x.ty) _ _ _).1 = _ ∧ _)
  rw [hF, hn]
  constructor
  · rintro ⟨c, hc⟩
    obtain ⟨k, hk, hmag⟩ := exists_magRat_of_decodeNum hok hc
    rw [if_pos (exactFits_of_magRat hok neg hm hmag), roundTo, roundFin_of_magRat hok.1 hmag hk]
    · exact rational_withSign_of_magRat hok neg hk rfl hmag
    · intro hfl
      exact absurd hfl (by rw [show (fmtVpf (vpfPrec v.e.fmt x.ty)).cls = .a from rfl, flushOut_noFlushOut]; simp)
  · intro hno
    have hno' : ∀ k ≤ maxCode (fmtVpf (vpfPrec v.e.fmt x.ty)), magRat _ k ≠ exactly false m e := fun k hk hmag =>
      hno _ (withSign_lt hok neg (hk.trans_lt (maxCode_lt hok))) (rational_withSign_of_magRat hok neg hk rfl hmag)
    refine ⟨?_, fun htop => ?_⟩
    · split
      · next hfit =>
        exact roundFin_congr_of_maxCode_le hok hm (fmtSat_noFlushOut v) (two_pow_trail_le_maxCode_vpf hp)
          (beyond_of_exactFits hok hm hfit hno').1
      · rfl
    · by_contra hfit
      have hlt := (beyond_of_exactFits hok hm (Bool.eq_true_of_not_eq_false hfit) hno').2
      have hmax := rational_withSign hok (neg := false) le_rfl (by simp)
      rw [withSign_false_maxCode_vpf] at hmax
      have := htop _ hmax
      rw [abs_exactly] at this
      exact lt_asymm hlt this

/-! ### Sticky flags (R60) -/

/-- A flag of an acting lane's result is set after the instruction. -/
theorem LaneCommits.fstat_getLsbD {s s1 t : State} {i : Instr} {v : LaneEnv} {x : Srcs} {f : LaneEnv → State → Nat → LaneRes}
    (h : LaneCommits s s1 i v x f) (ht : exec i s = .next t) {l k : Nat} (hl : l ∈ actLanes v) (hk : k < 7)
    (hs : (f v s1 l).stat.testBit k = true) : t.cur.fstat.getLsbD k = true := by
  have hany : (joinRes ((actLanes v).map (f v s1))).stat.testBit k = true := by
    rw [testBit_stat_joinRes, List.any_eq_true]
    exact ⟨_, List.mem_map_of_mem hl, hs⟩
  have hfstat : t.cur.fstat = s1.cur.fstat ||| BitVec.ofNat 7 (joinRes ((actLanes v).map (f v s1))).stat := by
    cases h.run.symm.trans ht
    rw [← fstat_applyRes _ _ x.yw]
    exact (congrArg Group.fstat (stepClause_eq _) :)
  rw [hfstat, BitVec.getLsbD_or, BitVec.getLsbD_ofNat, hany, decide_eq_true hk]
  simp

/-- Where the exact result does not fit, XADDE and XMULE set PX, but in a helper lane (R71). -/
theorem exactLane_px {mul : Bool} {x : Srcs} {v : LaneEnv} {s : State} {l : Nat} (hh : isHelper v l = false)
    (hfit : exactFits (fmtOf v.e.fmt x.ty) (exactOf mul x v s l).1 = false) : (exactLane mul x v s l).stat.testBit 6 = true := by
  unfold exactLane
  dsimp only
  rw [hfit]
  have hpx : (fPX ||| fNX).testBit 6 = true := by decide
  simp [LaneRes.join, statOf, hh, hpx]

/-- XADDE and XMULE write the exact result where a code has it, else round it once and set PX (R71, R221). -/
theorem exact_op_written {s s1 : State} {i : Instr} {x : LaForm} {mul : Bool} {p : LaneParts} {v : LaneEnv} (h : LaneReady s i p v s1)
    (hi : i = .xadde x ∧ mul = false ∨ i = .xmule x ∧ mul = true) :
    ∃ t, exec i s = .next t ∧ ∀ l ∈ actLanes v, ∀ qa qb q F,
      rational (vpfSrc s1 v (srcsLa x) x.a l) = some qa → rational (vpfSrc s1 v (srcsLa x) x.b l) = some qb →
      q = (if mul then qa * qb else qa + qb) → q ≠ 0 → F = fmtOf v.e.fmt x.ty →
      ∃ code n r, rational n = some q ∧ holdsCode s1 t v x.d x.ty l code x.yw ∧
        ((∃ c < 2 ^ F.width, rational (decodeNum F c) = some q) → rational (decodeNum F code) = some q) ∧
        ((∀ c < 2 ^ F.width, rational (decodeNum F c) ≠ some q) →
          code = (roundTo v.e.fmt F (rmIn v x.md) r n).1 ∧
            (isHelper v l = false → (∀ top, rational (decodeNum F (maxCode F)) = some top → |q| < top) → t.cur.fstat.getLsbD 6 = true)) := by
  obtain ⟨hf, hleg⟩ : floatLane i = some (srcsLa x, exactLane mul) ∧ VpfLegal v.e.fmt x := by
    rcases hi with ⟨rfl, rfl⟩ | ⟨rfl, rfl⟩
    · exact ⟨rfl, vpfLegal_of_laOk h.legal⟩
    · exact ⟨rfl, vpfLegal_of_laOk h.legal⟩
  have hc := laneCommits_of_ready h hf
  obtain ⟨t, he, hh⟩ := hc.holdsCode (tyIsInt_of_vpf hleg.vpf) hleg.slots
    (fun l hl => puts_exactLane mul s1 (lt_of_mem_actLanes hl) hleg.vpf hleg.slots)
  refine ⟨t, he, fun l hl qa qb q F ha hb hq h0 hF => ?_⟩
  subst hF
  have hn : rational (exactOf mul (srcsLa x) v s1 l).1 = some q := hq ▸ rational_exactOf ha hb
  obtain ⟨hrep, hround⟩ := exactCode_spec hleg hn h0
  refine ⟨_, _, drawnWord (rmIn v x.md) s1 l, hn, hh l hl, fun ⟨c, _, hc⟩ => hrep ⟨c, hc⟩, fun hno => ?_⟩
  obtain ⟨hcode, hfits⟩ := hround hno
  exact ⟨hcode, fun hhelp htop => hc.fstat_getLsbD he hl (by omega) (exactLane_px hhelp (hfits htop))⟩

/-! ### Rounding to an integer or a precision (R224) -/

/-- The value XRND rounds to the destination's precision, the source at an integer or at precision q, and its flags. -/
def xrndNum (f : W64) (F : FFmt) (rm : Rm) (q : Nat) (r : BitVec 16) (a : Num) : Num × Nat :=
  match a with
  | .fin neg m e =>
    if q = 0 then (.fin neg (roundInt rm r neg m e).1.natAbs 0, if (splitAt m e 0).2.1 = 0 then 0 else fNX)
    else (decodeNum (fmtVpf (min q F.prec)) (roundTo f (fmtVpf (min q F.prec)) rm r a).1, (roundTo f (fmtVpf (min q F.prec)) rm r a).2)
  | n => (n, 0)

theorem natAbs_roundInt (rm : Rm) (r : BitVec 16) (neg : Bool) (m : Nat) (e : Int) : (roundInt rm r neg m e).1.natAbs =
    if roundsUp rm neg ((splitAt m e 0).1.testBit 0) (splitAt m e 0).2.1 (splitAt m e 0).2.2 r then (splitAt m e 0).1 + 1 else (splitAt m e 0).1 := by
  cases neg
  · rfl
  · exact Int.natAbs_neg _

/-- An integer keeps its sign when rounded to. -/
theorem exactly_roundInt (rm : Rm) (r : BitVec 16) (neg : Bool) (m : Nat) (e : Int) :
    exactly neg (roundInt rm r neg m e).1.natAbs 0 = (roundInt rm r neg m e).1 := by
  rw [natAbs_roundInt, exactly_eq, exactly_false, zpow_zero, mul_one]
  cases neg
  · rfl
  · exact (Int.cast_neg _).symm

theorem xrndLane_eq (x : Srcs) (v : LaneEnv) (s : State) (l : Nat) : xrndLane x v s l =
    let r := drawnWord (rmIn v x.md) s l
    let y := xrndNum v.e.fmt (fmtOf v.e.fmt x.ty) (rmIn v x.md) (extByte x.ext).toNat r (vpfSrc s v x x.a l)
    let c := roundTo v.e.fmt (fmtOf v.e.fmt x.ty) (rmIn v x.md) r y.1
    ((putCode s v x.d x.ty l c.1).join (statOf v l (y.2 ||| c.2))).join { rnd := [(l, r)] } := by
  unfold xrndLane xrndNum
  cases vpfSrc s v x x.a l
  case nan | inf => rfl
  case fin neg m e =>
    by_cases hq : (extByte x.ext).toNat = 0
    · simp only [hq, if_true, natAbs_roundInt]
      rfl
    · simp only [hq, if_false]
      rfl

theorem puts_xrndLane (x : Srcs) (v : LaneEnv) (s : State) {l : Nat} (hl : l < 32) :
    Puts (xrndLane x v s l) l (putCode s v x.d x.ty l (roundTo v.e.fmt (fmtOf v.e.fmt x.ty) (rmIn v x.md) (drawnWord (rmIn v x.md) s l)
      (xrndNum v.e.fmt (fmtOf v.e.fmt x.ty) (rmIn v x.md) (extByte x.ext).toNat (drawnWord (rmIn v x.md) s l) (vpfSrc s v x x.a l)).1).1) := by
  rw [xrndLane_eq]
  exact ((puts_putCode s v x.d x.ty _ hl).join_stat v l _).join_rnd _

/-- XRND rounds to an integer or a precision, then to the destination's precision (R224). -/
theorem xrnd_written {s s1 : State} {x : LaForm} {p : LaneParts} {v : LaneEnv} (h : LaneReady s (.xrnd x) p v s1) :
    ∃ t, exec (.xrnd x) s = .next t ∧ ∀ l ∈ actLanes v, ∀ a F q,
      a = vpfSrc s1 v (srcsLa x) x.a l → F = fmtOf v.e.fmt x.ty → q = (extByte x.ext).toNat →
      (a = .nan → holdsCode s1 t v x.d x.ty l (nanCode F) x.yw) ∧
      (∀ qa, rational a = some qa → q = 0 → ∃ k, roundedTo (rmIn v x.md) qa k ∧
        (k ≠ 0 → ∃ n r, rational n = some (k : ℚ) ∧ holdsCode s1 t v x.d x.ty l (roundTo v.e.fmt F (rmIn v x.md) r n).1 x.yw)) ∧
      (∀ qa, rational a = some qa → q ≠ 0 → ∃ y r, y = decodeNum (fmtVpf (min q F.prec)) (roundTo v.e.fmt (fmtVpf (min q F.prec)) (rmIn v x.md) r a).1 ∧
        holdsCode s1 t v x.d x.ty l (roundTo v.e.fmt F (rmIn v x.md) r y).1 x.yw) := by
  have hleg := vpfLegal_of_laOk h.legal
  obtain ⟨t, he, hh⟩ := (laneCommits_of_ready h rfl).holdsCode (tyIsInt_of_vpf hleg.vpf) hleg.slots
    (fun l hl => puts_xrndLane (srcsLa x) v s1 (lt_of_mem_actLanes hl))
  refine ⟨t, he, fun l hl a F q ha hF hq => ?_⟩
  have hl' := hh l hl
  change holdsCode s1 t v x.d x.ty l (roundTo v.e.fmt (fmtOf v.e.fmt x.ty) (rmIn v x.md) (drawnWord (rmIn v x.md) s1 l)
    (xrndNum v.e.fmt (fmtOf v.e.fmt x.ty) (rmIn v x.md) (extByte x.ext).toNat (drawnWord (rmIn v x.md) s1 l) (vpfSrc s1 v (srcsLa x) x.a l)).1).1 x.yw at hl'
  rw [← ha, ← hF, ← hq] at hl'
  refine ⟨?_, fun qa hqa hq0 => ?_, fun qa hqa hq0 => ?_⟩
  · rintro rfl
    exact hl'
  · obtain ⟨neg, m, e, rfl, rfl⟩ := rational_eq_some hqa
    rw [xrndNum, if_pos hq0] at hl'
    exact ⟨_, roundedTo_roundInt _ _ neg m e, fun _ => ⟨_, _, (rational_fin ..).trans (congrArg some (exactly_roundInt ..)), hl'⟩⟩
  · obtain ⟨neg, m, e, rfl, rfl⟩ := rational_eq_some hqa
    rw [xrndNum, if_neg hq0] at hl'
    exact ⟨_, _, rfl, hl'⟩

/-! ### The error of a sum or product (R225) -/

/-- The exact sum or product XERR compares with. -/
def xerrNum (rm : Rm) (mul : Bool) (a b : Num) : Num := (if mul then numMul a b else numAdd rm a b).1

/-- The flags of a result that XERR makes NaN: of a NaN, of an infinity or of an overflow. -/
def xerrBad (a b : Num) (sum : Nat × Nat) : Option Nat :=
  if isNan a || isNan b then some 0 else if isInf a || isInf b || sum.2 &&& fOF ≠ 0 then some fNV else none

/-- The code XERR writes and its flags, from the rounded sum or product. -/
def xerrCode (f : W64) (F : FFmt) (rm : Rm) (r : BitVec 16) (a b n : Num) (sum : Nat × Nat) : Nat × Nat :=
  match xerrBad a b sum with
  | some fl => (nanCode F, fl)
  | none => roundTo f F rm r (numAdd rm n (numNeg (decodeNum F sum.1))).1

theorem xerrLane_eq (x : Srcs) (v : LaneEnv) (s : State) (l : Nat) : xerrLane x v s l =
    let rm := rmIn v x.md
    let F := fmtOf v.e.fmt x.ty
    let a := vpfSrc s v x x.a l
    let b := vpfSrc s v x x.b l
    let n := xerrNum rm (bitAt x.md 0) a b
    let c := xerrCode v.e.fmt F rm (drawnWord rm s l) a b n (roundTo v.e.fmt F rm (lfsrGet s.cur l) n)
    ((putCode s v x.d x.ty l c.1).join (statOf v l c.2)).join { rnd := [(l, drawnWord rm s l)] } := rfl

theorem xerrCode_nan {f : W64} {F : FFmt} {rm : Rm} {r : BitVec 16} {a b n : Num} {sum : Nat × Nat}
    (h : rational a = none ∨ rational b = none) : (xerrCode f F rm r a b n sum).1 = nanCode F := by
  obtain ⟨fl, hfl⟩ : ∃ fl, xerrBad a b sum = some fl := by
    simp only [← isNan_or_isInf_iff] at h
    unfold xerrBad
    split
    · exact ⟨_, rfl⟩
    · next h1 =>
      rw [Bool.or_eq_true, not_or] at h1
      rw [if_pos (by simp only [Bool.or_eq_true]; exact .inl (h.imp (·.resolve_left h1.1) (·.resolve_left h1.2)))]
      exact ⟨_, rfl⟩
  rw [xerrCode, hfl]

theorem xerrCode_fin {f : W64} {F : FFmt} {rm : Rm} {r : BitVec 16} {a b n : Num} {sum : Nat × Nat} {qa qb : ℚ}
    (ha : rational a = some qa) (hb : rational b = some qb) : (xerrCode f F rm r a b n sum).1 =
      if sum.2 &&& fOF ≠ 0 then nanCode F else (roundTo f F rm r (numAdd rm n (numNeg (decodeNum F sum.1))).1).1 := by
  obtain ⟨_, _, _, rfl, rfl⟩ := rational_eq_some ha
  obtain ⟨_, _, _, rfl, rfl⟩ := rational_eq_some hb
  by_cases hof : sum.2 &&& fOF = 0
  · simp [xerrCode, xerrBad, isNan, isInf, hof]
  · simp [xerrCode, xerrBad, isNan, isInf, hof]

theorem rational_xerrNum (rm : Rm) (mul : Bool) {a b : Num} {qa qb : ℚ} (ha : rational a = some qa) (hb : rational b = some qb) :
    rational (xerrNum rm mul a b) = some (if mul then qa * qb else qa + qb) := by
  cases mul
  · exact rational_numAdd rm ha hb
  · exact (rational_numMul ha hb).1

/-- XERR writes what the rounded sum or product lacks of the exact one, rounded once (R225). -/
theorem xerr_written {s s1 : State} {x : LaForm} {p : LaneParts} {v : LaneEnv} (h : LaneReady s (.xerr x) p v s1) :
    ∃ t, exec (.xerr x) s = .next t ∧ ∀ l ∈ actLanes v, ∀ a b F rm,
      a = vpfSrc s1 v (srcsLa x) x.a l → b = vpfSrc s1 v (srcsLa x) x.b l → F = fmtOf v.e.fmt x.ty → rm = rmIn v x.md →
      (rational a = none ∨ rational b = none → holdsCode s1 t v x.d x.ty l (nanCode F) x.yw) ∧
      (∀ qa qb q, rational a = some qa → rational b = some qb → q = (if x.md.getLsbD 0 then qa * qb else qa + qb) →
        ∃ n0 sum, rational n0 = some q ∧ sum = roundTo v.e.fmt F rm (lfsrGet s1.cur l) n0 ∧
          (sum.2 &&& fOF ≠ 0 → holdsCode s1 t v x.d x.ty l (nanCode F) x.yw) ∧
          (sum.2 &&& fOF = 0 → ∀ qs, rational (decodeNum F sum.1) = some qs → q - qs ≠ 0 →
            ∃ n r, rational n = some (q - qs) ∧ holdsCode s1 t v x.d x.ty l (roundTo v.e.fmt F rm r n).1 x.yw)) := by
  have hleg := vpfLegal_of_laOk h.legal
  obtain ⟨t, he, hh⟩ := (laneCommits_of_ready h rfl).holdsCode (tyIsInt_of_vpf hleg.vpf) hleg.slots
    (fun l hl => xerrLane_eq (srcsLa x) v s1 l ▸ ((puts_putCode s1 v _ _ _ (lt_of_mem_actLanes hl)).join_stat v l _).join_rnd _)
  refine ⟨t, he, fun l hl a b F rm ha hb hF hrm => ?_⟩
  have hl' := hh l hl
  change holdsCode s1 t v x.d x.ty l (xerrCode v.e.fmt (fmtOf v.e.fmt x.ty) (rmIn v x.md) (drawnWord (rmIn v x.md) s1 l)
    (vpfSrc s1 v (srcsLa x) x.a l) (vpfSrc s1 v (srcsLa x) x.b l)
    (xerrNum (rmIn v x.md) (x.md.getLsbD 0) (vpfSrc s1 v (srcsLa x) x.a l) (vpfSrc s1 v (srcsLa x) x.b l))
    (roundTo v.e.fmt (fmtOf v.e.fmt x.ty) (rmIn v x.md) (lfsrGet s1.cur l)
      (xerrNum (rmIn v x.md) (x.md.getLsbD 0) (vpfSrc s1 v (srcsLa x) x.a l) (vpfSrc s1 v (srcsLa x) x.b l)))).1 x.yw at hl'
  rw [← ha, ← hb, ← hF, ← hrm] at hl'
  refine ⟨fun hnone => xerrCode_nan hnone ▸ hl', fun qa qb q hqa hqb hq => ?_⟩
  rw [xerrCode_fin hqa hqb] at hl'
  have hn := rational_xerrNum rm (x.md.getLsbD 0) hqa hqb
  rw [← hq] at hn
  refine ⟨_, _, hn, rfl, fun hof => ?_, fun hof qs hqs _ => ?_⟩
  · rwa [if_pos hof] at hl'
  · rw [if_neg (not_not.2 hof)] at hl'
    exact ⟨_, _, (rational_numAdd rm hn (rational_numNeg hqs)).trans (by rw [sub_eq_add_neg]), hl'⟩

/-- Settles O23, instruction by instruction: each lane's result is the rounding of a value that is the exact result (`ExactOp`). -/
theorem laneFloats : Obligations.LaneFloats :=
  ⟨fun _ _ _ _ _ h _ _ _ hop => float_op_rounded h hop, fun _ _ _ _ _ h _ _ _ hop => vpf_op_rounded h hop,
    fun _ _ _ _ _ _ h hi => fsca_rounded h hi, fun _ _ _ _ _ _ _ h hi => exact_op_written h hi,
    fun _ _ _ _ _ h => xrnd_written h, fun _ _ _ _ _ h => xerr_written h⟩

end Sys2Proof.Machine
end

section
/-! Extremes, comparison and classification lane by lane (R204, R205, R208, R223). -/
namespace Sys2Proof.Machine

open Sys2Proof.Claims

/-! ### Each lane on its own (R192) -/

/-- The lane functions of O25 are those of `floatLane`. -/
theorem floatLane_of_laneFn {i : Instr} {yw : Bool} {f : LaneEnv → State → Nat → LaneRes} (h : laneFn i = some (yw, f)) :
    ∃ x g, floatLane i = some (x, g) ∧ f = g x ∧ yw = x.yw := by
  cases i
  case fmin | fminLi | fmax | fmaxLi | fcmp | fcmpLi | fclass | fmath | fmathDivLi | fsca | fscaLi | pack | unpack | scalex | cvt | xcvt | xcmp |
      xadde | xmule | xrnd | xerr =>
    cases h
    exact ⟨_, _, rfl, rfl, rfl⟩
  all_goals cases h

/-- Each acting lane's result is computed from the state before, and the results are written together (R192). -/
theorem exec_joined {s s1 : State} {i : Instr} {p : LaneParts} {v : LaneEnv} (h : LaneReady s i p v s1) {yw : Bool}
    {f : LaneEnv → State → Nat → LaneRes} (hf : laneFn i = some (yw, f)) : exec i s = .next (commitLane s1 (joinRes ((actLanes v).map (f v s1))) yw) := by
  obtain ⟨x, g, hg, rfl, rfl⟩ := floatLane_of_laneFn hf
  exact (laneCommits_of_ready h hg).run

/-! ### Extremes (R204) -/

theorem pickNum_eq_chosen (greater nan : Bool) (a b : Num) : pickNum greater nan a b = chosen greater nan a b := by
  by_cases ha : a = .nan
  · subst ha
    cases b <;> cases nan <;> rfl
  · by_cases hb : b = .nan
    · subst hb
      cases a
      case nan => exact absurd rfl ha
      all_goals cases nan <;> rfl
    · have h1 : isNan a = false := Bool.eq_false_iff.2 fun h => ha (isNan_iff.1 h)
      have h2 : isNan b = false := Bool.eq_false_iff.2 fun h => hb (isNan_iff.1 h)
      simp only [pickNum, chosen, h1, h2, if_neg ha, if_neg hb, numLessZ_eq_before ha hb, numLessZ_eq_before hb ha]

/-- Each element of a packed word made of a list's codes, that fit, is its code. -/
theorem elemAt_packElems_map {t : Ty} {n : Nat} {g : Nat → Nat × Nat} (hb : ∀ j, (g j).1 < 2 ^ (tyWidth t / tyCount t)) {j : Nat} (hj : j < n) :
    elemAt t (packElems t (((List.range n).map g).map (·.1))) j = (g j).1 := by
  refine elemAt_packElems (fun c hc => ?_) (by simp [hj])
  obtain ⟨_, hp, rfl⟩ := List.mem_map.1 hc
  obtain ⟨k, -, rfl⟩ := List.mem_map.1 hp
  exact hb k

/-- The code of an element of FMIN or FMAX. -/
def minmaxElem (greater : Bool) (x : Srcs) (v : LaneEnv) (s : State) (l j : Nat) : Nat × Nat :=
  roundTo v.e.fmt (fmtOf v.e.fmt (tyElem x.ty)) .rne 0
    (pickNum greater (bitAt x.md 0) (srcNum v x (readTy s v x.a x.ty l) j false false) (srcNum v x (readB s v x x.ty l) j false false))

theorem puts_minmaxLane (greater : Bool) (x : Srcs) (v : LaneEnv) (s : State) {l : Nat} (hl : l < 32) :
    Puts (minmaxLane greater x v s l) l
      (putTy s.cur x.d x.ty 1 l (packElems x.ty (((List.range (tyCount x.ty)).map (minmaxElem greater x v s l)).map (·.1)))) :=
  (puts_putSlots s.cur x.d 1 _ hl).join_stat v l _

/-- Each element of FMIN and FMAX is the source that R204 chooses. -/
theorem minmax_written {s s1 : State} {i : Instr} {x : Srcs} {p : LaneParts} {v : LaneEnv} (h : LaneReady s i p v s1) (greater : Bool)
    (hi : (∃ f, i = (if greater then .fmax f else .fmin f) ∧ x = srcsLa f) ∨ (∃ f, i = (if greater then .fmaxLi f else .fminLi f) ∧ x = srcsLi f)) :
    ∃ t, exec i s = .next t ∧ ∀ l ∈ actLanes v, ∃ word, holds s1 t x.d 1 l word x.yw ∧ ∀ j, j < tyCount x.ty → ∀ a b,
      a = srcNum v x (readTy s1 v x.a x.ty l) j false false → b = srcNum v x (readB s1 v x x.ty l) j false false →
      elemAt x.ty word j = (roundTo v.e.fmt (fmtOf v.e.fmt (tyElem x.ty)) .rne 0 (chosen greater (x.md.getLsbD 0) a b)).1 := by
  have hsh : ∀ {ty md ext}, (shFminmax ty md ext).ok = true → tyIsFloatOrPair ty = true := fun h => by
    simp only [shFminmax, Bool.and_eq_true] at h
    exact h.1.1
  have hleg := h.legal
  obtain ⟨hf, hty, hb⟩ : floatLane i = some (x, minmaxLane greater) ∧ tyIsFloatOrPair x.ty = true ∧ b8Ok v.e.fmt [x.ty] = true := by
    rcases hi with ⟨f, rfl, rfl⟩ | ⟨f, rfl, rfl⟩ <;> cases greater
    · exact ⟨rfl, hsh (laOk_shape hleg).1, laOk_b8_ty hleg⟩
    · exact ⟨rfl, hsh (laOk_shape hleg).1, laOk_b8_ty hleg⟩
    · exact ⟨rfl, hsh (liOk_shape hleg), liOk_b8 hleg⟩
    · exact ⟨rfl, hsh (liOk_shape hleg), liOk_b8 hleg⟩
  obtain ⟨t, he, hh⟩ := (laneCommits_of_ready h hf).holds_ty (tyIsInt_of_floatOrPair hty)
    (fun l hl => puts_minmaxLane greater x v s1 (lt_of_mem_actLanes hl))
  refine ⟨t, he, fun l hl => ⟨_, hh l hl, fun j hj a b ha hb' => ?_⟩⟩
  subst ha hb'
  have hlt : ∀ j, (minmaxElem greater x v s1 l j).1 < 2 ^ (tyWidth x.ty / tyCount x.ty) := fun j => roundTo_lt_elem (.inl hty) hb _ _ _
  rw [elemAt_packElems_map hlt hj, ← pickNum_eq_chosen]
  rfl

/-! ### Comparison (R205, R223) -/

theorem floatCond_eq (c : Nat) (a b : Num) : (floatCond c a b).1 = condHolds c a b := by
  have hun : (isNan a || isNan b) = decide (a = .nan ∨ b = .nan) := by
    rw [Bool.eq_iff_iff]
    simp [isNan_iff]
  have hor : (!(isNan a || isNan b)) = decide (a ≠ .nan ∧ b ≠ .nan) := by
    rw [hun]
    simp
  by_cases h : a = .nan ∨ b = .nan
  · have hun' : (isNan a || isNan b) = true := hun.trans (decide_eq_true h)
    have hb : below a b = false ∧ below b a = false := by
      rcases h with rfl | rfl
      · exact ⟨below_nan_left b, below_nan_right b⟩
      · exact ⟨below_nan_right a, below_nan_left a⟩
    have hs : samePoint a b = false ∧ samePoint b a = false := by
      rcases h with rfl | rfl <;> simp [samePoint]
    unfold floatCond condHolds
    rw [hun']
    split
    all_goals simp [hb, hs, h]
    tauto
  · obtain ⟨ha, hb⟩ := not_or.1 h
    have hun' : (isNan a || isNan b) = false := hun.trans (decide_eq_false h)
    unfold floatCond condHolds
    simp only [hun', numEq_eq_samePoint, numLess_eq_below ha hb, numLess_eq_below hb ha, not_below_iff ha hb, not_below_iff hb ha]
    split <;> simp [ha, hb, samePoint, Bool.and_comm]

theorem puts_fcmpLane (x : Srcs) (v : LaneEnv) (s : State) {l : Nat} (hl : l < 32) :
    Puts (fcmpLane x v s l) l (putTest s.cur x.d 1 (if tyIsVpf x.ty then 32 else tyWidth x.ty) l
      (combine (x.md.extractLsb' 3 2).toNat (condHolds (x.md.extractLsb' 0 3).toNat (readNum v.e.fmt (fmtOf v.e.fmt x.ty) (readCode s v x.a x.ty l))
        (readNum v.e.fmt (fmtOf v.e.fmt x.ty) (readCodeB s v x x.ty l))) (readPred s x.c l))) := by
  rw [← floatCond_eq]
  exact (puts_putTest s.cur x.d 1 _ _ hl).join_stat v l _

/-- FCMP and XCMP write their condition's outcome, combined with the predicate source (R205, R223). -/
theorem fcmp_written {s s1 : State} {i : Instr} {x : Srcs} {p : LaneParts} {v : LaneEnv} (h : LaneReady s i p v s1)
    (hi : (∃ f, (i = .fcmp f ∨ i = .xcmp f) ∧ x = srcsLa f) ∨ (∃ f, i = .fcmpLi f ∧ x = srcsLi f)) :
    ∃ t, exec i s = .next t ∧ ∀ l ∈ actLanes v, ∀ a b q m,
      a = readNum v.e.fmt (fmtOf v.e.fmt x.ty) (readCode s1 v x.a x.ty l) →
      b = readNum v.e.fmt (fmtOf v.e.fmt x.ty) (readCodeB s1 v x x.ty l) →
      q = condHolds (x.md.extractLsb' 0 3).toNat a b →
      m = (match (x.md.extractLsb' 3 2).toNat with
        | 0 => q | 1 => q && readPred s1 x.c l | 2 => q || readPred s1 x.c l | _ => q != readPred s1 x.c l) →
      holdsTest s1 t x.d 1 (if tyIsVpf x.ty then 32 else tyWidth x.ty) l m x.yw := by
  have hf : floatLane i = some (x, fcmpLane) := by
    rcases hi with ⟨f, rfl | rfl, rfl⟩ | ⟨f, rfl, rfl⟩ <;> rfl
  obtain ⟨t, he, hh⟩ := (laneCommits_of_ready h hf).holdsTest le_rfl (fun l hl => puts_fcmpLane x v s1 (lt_of_mem_actLanes hl))
  refine ⟨t, he, fun l hl a b q m ha hb hq hm => ?_⟩
  subst ha hb hq hm
  exact hh l hl

/-! ### Classification (R208) -/

/-- The subnormal codes are those below the smallest normal number. -/
theorem isSubnormal_iff {F : FFmt} (hF : FmtOk F) {code : Nat} {neg : Bool} {m : Nat} {e : Int} (h : decodeNum F code = .fin neg m e) (hm : m ≠ 0) :
    isSubnormal F code = decide (exactly false m e < (2 : ℚ) ^ (1 - F.bias)) := by
  obtain ⟨hle, h8⟩ := of_decodeNum_fin hF h
  have hmag : magRat F (codeMag F code) = exactly false m e := by
    rw [decodeNum_of_le hF hle h8, Num.fin.injEq] at h
    rw [magRat, h.2.1, h.2.2]
  have h0 : codeMag F code ≠ 0 := by
    intro h0
    rw [h0, magRat_zero] at hmag
    exact hm (exactly_eq_zero.1 hmag.symm)
  have hsmall : magRat F (2 ^ trail F) = (2 : ℚ) ^ (1 - F.bias) := by
    have := magRat_binade F 0
    rw [Nat.zero_add, Nat.one_mul] at this
    rw [this, ← zpow_natCast, ← zpow_add₀ two_ne_zero, minQuantum]
    congr 1
    push_cast
    ring
  rw [isSubnormal_eq, decide_eq_true h0, Bool.true_and, ← hmag, ← hsmall, decide_eq_decide, (magRat_strictMono F).lt_iff_lt]

theorem classMask_eq {F : FFmt} (hF : FmtOk F) (code : Nat) : classMask F code = 2 ^ classOf F code := by
  unfold classMask classOf
  cases h : decodeNum F code
  case nan => rfl
  case inf neg => cases neg <;> rfl
  case fin neg m e =>
    by_cases hm : m = 0
    · cases neg <;> simp [hm]
    · simp only [hm, if_false, exactly_eq_zero, isSubnormal_iff hF h hm, decide_eq_true_eq]
      split <;> cases neg <;> rfl

theorem classOf_lt (F : FFmt) (code : Nat) : classOf F code < 9 := by
  unfold classOf
  split
  · decide
  · split <;> decide
  · split_ifs <;> decide

/-- A mask of classes names a class by its bit. -/
theorem two_pow_and_ne_zero (c : Nat) (md : BitVec 10) (hc : c < 9) : decide (2 ^ c &&& (md.extractLsb' 0 9).toNat ≠ 0) = md.getLsbD c := by
  rw [Nat.two_pow_and]
  have hbit : (md.extractLsb' 0 9).toNat.testBit c = md.getLsbD c := by
    change (md.extractLsb' 0 9).getLsbD c = _
    simp [hc]
  rw [hbit]
  cases md.getLsbD c <;> simp

/-- A typed source of a legal form has at least one slot. -/
theorem one_le_of_useOk_src {n : Nat} {t : Option Ty} {o : Opnd} (h : useOk (.src n t) o = true) : 1 ≤ n := by
  cases o
  case v | vx => exact of_decide_eq_true h
  case c =>
    simp only [useOk, Bool.and_eq_true, decide_eq_true_eq] at h
    exact h.1
  case y | spec => exact (of_decide_eq_true h).ge
  case s | imm =>
    simp only [useOk, useScalarWide, Bool.and_eq_true, Bool.or_eq_true, decide_eq_true_eq] at h
    rcases h.1 with h | h <;> omega
  case p => cases h

theorem laOk_useOk_a {f : W64} {x : LaForm} {second : Bool} {sh : Shape} (h : laOk f x second sh = true) : useOk sh.a x.a = true := by
  simp only [laOk, Bool.and_eq_true] at h
  obtain ⟨⟨⟨⟨⟨⟨⟨⟨-, -⟩, -⟩, ha⟩, -⟩, -⟩, -⟩, -⟩, -⟩ := h
  exact ha

/-- The format of a type that is in use: binary8 with its precision, a window that is one. -/
theorem fmtOk_of_legal {f : W64} {t : Ty} (hb : b8Ok f [t] = true) (hs : 1 ≤ slotsOf f t) : FmtOk (fmtOf f t) := by
  cases hv : tyIsVpf t
  · refine fmtOk_fmtOf (fun h8 => ?_) hv
    subst h8
    simpa [b8Ok, tyIsB8] using hb
  · obtain ⟨hF, hp⟩ := prec_of_slots hv hs
    rw [hF]
    exact fmtOk_vpf hp

/-- FCLASS writes the class's bit, or whether the mask names the class (R208). -/
theorem fclass_written {s s1 : State} {f : LaForm} {p : LaneParts} {v : LaneEnv} (h : LaneReady s (.fclass f) p v s1) :
    ∃ t, exec (.fclass f) s = .next t ∧ ∀ l ∈ actLanes v, ∀ k, k = classOf (fmtOf v.e.fmt f.ty) (readCode s1 v f.a f.ty l) →
      (isPred f.d = true → holdsTest s1 t f.d 1 1 l (f.md.getLsbD k) f.yw) ∧ (isPred f.d = false → holds s1 t f.d 1 l (2 ^ k) f.yw) := by
  have hleg : laOk v.e.fmt f false (shFclass v.e.fmt f.d f.ty f.md f.ext) = true := h.legal
  have hF := fmtOk_of_legal (laOk_b8_ty hleg) (one_le_of_useOk_src (laOk_useOk_a hleg))
  have hrun := laneCommits_of_ready h rfl
  cases hd : isPred f.d
  · obtain ⟨t, he, hh⟩ := hrun.holds le_rfl (val := fun l => 2 ^ classOf (fmtOf v.e.fmt f.ty) (readCode s1 v f.a f.ty l)) fun l hl => by
      rw [← classMask_eq hF]
      simp only [fclassLane, srcsLa, hd, Bool.false_eq_true, if_false]
      exact puts_putSlots _ _ _ _ (lt_of_mem_actLanes hl)
    exact ⟨t, he, fun l hl k hk => ⟨fun hp => absurd hp Bool.false_ne_true, fun _ => hk ▸ hh l hl⟩⟩
  · obtain ⟨t, he, hh⟩ := hrun.holdsTest (n := 1) (w := 1) le_rfl
      (b := fun l => f.md.getLsbD (classOf (fmtOf v.e.fmt f.ty) (readCode s1 v f.a f.ty l))) fun l hl => by
      rw [← two_pow_and_ne_zero _ _ (classOf_lt _ _), ← classMask_eq hF]
      simp only [fclassLane, srcsLa, hd, if_true]
      exact puts_putTest _ _ _ _ _ (lt_of_mem_actLanes hl)
    exact ⟨t, he, fun l hl k hk => ⟨fun _ => hk ▸ hh l hl, fun hp => absurd hp (by decide)⟩⟩

end Sys2Proof.Machine
end

section
/-! Conversions between integers, floats and variable precision (R64 to R66, R209, R222). -/
namespace Sys2Proof.Machine

open Sys2Proof.Claims

/-! ### Integers of a type (R44, R193, R198) -/

theorem tyWidth_of_int {t : Ty} (h : tyIsInt t = true) : tyWidth t = 8 ∨ tyWidth t = 16 ∨ tyWidth t = 32 ∨ tyWidth t = 64 := by
  cases t <;> simp_all [tyIsInt, tyWidth]

/-- A number below 2^w as an integer of its type. -/
theorem tyInt_eq_asInt {t : Ty} {x : Nat} (hx : x < 2 ^ tyWidth t) : tyInt t x = asInt t x := by
  unfold tyInt asInt
  cases tySigned t
  · rfl
  · simp only [Bool.true_and, if_true]
    rw [BitVec.toInt_eq_msb_cond, BitVec.msb_eq_getLsbD_last]
    simp only [BitVec.toNat_ofNat, Nat.mod_eq_of_lt hx, BitVec.getLsbD, Nat.cast_pow, Nat.cast_ofNat]

/-- The slots of a wrapped integer are its word. -/
theorem extTyBits_wrap (t : Ty) (r : Int) : extTyBits t (r % (2 ^ tyWidth t : Int)).toNat = intWord t r := by
  have hword : (BitVec.ofInt (tyWidth t) r).toNat = (r % (2 ^ tyWidth t : Int)).toNat := by
    rw [BitVec.toNat_ofInt]
    norm_cast
  have hlt : (r % (2 ^ tyWidth t : Int)).toNat < 2 ^ tyWidth t := hword ▸ (BitVec.ofInt (tyWidth t) r).isLt
  have hmax : (r % (2 ^ tyWidth t : Int)).toNat < 2 ^ max (tyWidth t) 32 := hlt.trans_le (Nat.pow_le_pow_right two_pos (le_max_left _ _))
  unfold extTyBits intWord
  dsimp only
  by_cases hs : tyWidth t < 32 ∧ tySigned t = true
  · have hle : 2 ^ tyWidth t ≤ 2 ^ 32 := Nat.pow_le_pow_right two_pos hs.1.le
    rw [if_pos hs, BitVec.toNat_signExtend, BitVec.toNat_setWidth, BitVec.msb_eq_getLsbD_last, BitVec.getLsbD, hword,
      Nat.mod_eq_of_lt (hlt.trans_le hle), decide_eq_true hs.1, hs.2, Bool.true_and, Bool.true_and]
    split
    · rw [Nat.mod_eq_of_lt hlt]
    · rw [Nat.mod_eq_of_lt hmax, Nat.add_zero]
  · rw [if_neg hs, hword, if_neg, Nat.mod_eq_of_lt hmax]
    simp only [Bool.and_eq_true, decide_eq_true_eq]
    exact fun h => hs h.1

/-- The bounds of a type, in R44's words. -/
theorem clamped_eq (t : Ty) (r : Int) : clamped t true r = max (intMin t) (min (intMax t) r) := by
  have h1 : (1 : Int) ≤ 2 ^ (tyWidth t - 1) := one_le_pow₀ (by decide)
  have h2 : (1 : Int) ≤ 2 ^ tyWidth t := one_le_pow₀ (by decide)
  unfold clamped intMin intMax
  generalize (2 : Int) ^ (tyWidth t - 1) = a at *
  generalize (2 : Int) ^ tyWidth t = b at *
  cases tySigned t
  all_goals
    simp only [Bool.true_eq_false, Bool.false_eq_true, if_true, if_false]
    split_ifs <;> omega

theorem wrapOrClamp_eq (t : Ty) (sat : Bool) (r : Int) :
    extTyBits t (wrapOrClamp t sat r) = intWord t (clamped t sat r) := by
  unfold wrapOrClamp
  rw [extTyBits_wrap]
  cases sat
  · rfl
  · rw [clamped_eq, if_pos rfl]

/-- A conversion to an integer type gives the rounded integer held to the type's range (R66). -/
theorem convertInt_fin (t : Ty) (rm : Rm) (r : BitVec 16) (neg : Bool) (m : Nat) (e : Int) :
    (convertInt t rm r (.fin neg m e)).1 = clamped t true (roundInt rm r neg m e).1 := by
  have hle : intMin t ≤ intMax t := by
    have h1 : (1 : Int) ≤ 2 ^ (tyWidth t - 1) := one_le_pow₀ (by decide)
    have h2 : (1 : Int) ≤ 2 ^ tyWidth t := one_le_pow₀ (by decide)
    unfold intMin intMax
    split <;> omega
  rw [clamped_eq, convertInt]
  dsimp only
  split_ifs <;> omega

/-- An infinity becomes the type's bound (R66). -/
theorem convertInt_inf {t : Ty} (ht : tyIsInt t = true) (rm : Rm) (r : BitVec 16) (neg : Bool) :
    (convertInt t rm r (.inf neg)).1 = clamped t true (if neg then -2 ^ 64 else 2 ^ 64) := by
  rw [clamped_eq, convertInt]
  unfold intMin intMax
  rcases tyWidth_of_int ht with h | h | h | h <;> rw [h] <;> cases tySigned t <;> cases neg <;> rfl

/-! ### Sources of conversions (R46, R209) -/

theorem rational_numOfInt (k : Int) : rational (numOfInt k) = some (k : ℚ) := by
  rw [numOfInt, rational_fin, exactly_natAbs, zpow_zero, mul_one]

theorem readTy_lt_of_int {s : State} {v : LaneEnv} {o : Opnd} {t : Ty} {l : Nat} (ht : tyIsInt t = true) : readTy s v o t l < 2 ^ tyWidth t := by
  have hv : tyIsVpf t = false := by
    cases hv : tyIsVpf t
    · rfl
    · rw [tyIsInt_of_vpf hv] at ht
      cases ht
  unfold readTy
  rw [hv, if_neg Bool.false_ne_true]
  exact Nat.mod_lt _ (by positivity)

theorem rational_srcValue (s : State) (v : LaneEnv) (o : Opnd) (t : Ty) (l : Nat) : rational (srcValue s v o t l) = sourceRational s v o t l := by
  unfold srcValue sourceRational
  split
  · next ht => rw [rational_numOfInt, tyInt_eq_asInt (readTy_lt_of_int ht)]
  · split
    · exact rational_e8m0Num _
    · rfl

/-! ### Conversion to a float (R64, R65) -/

theorem signOk_iff {F : FFmt} {neg : Bool} : (F.kind = .b8u && neg) = true ↔ ¬ signOk F neg := by
  simp [signOk]

/-- A negative value converted into unsigned binary8 becomes zero, or NaN without saturation (R65). -/
theorem convertNegU_code (f : W64) (F : FFmt) (rm : Rm) (r : BitVec 16) (m : Nat) (e : Int) :
    (convertNegU f F rm r m e).1 = 0 ∨ (convertNegU f F rm r m e).1 = nanCode F ∧ fmtSat f = false := by
  unfold convertNegU
  dsimp only
  cases fmtSat f
  · split_ifs <;> simp
  · rw [if_pos rfl]
    split_ifs <;> simp

/-- A finite value converted is rounded once; a negative one becomes zero or NaN in unsigned binary8. -/
theorem convertsTo_convertNum (f : W64) (F : FFmt) (rm : Rm) (r : BitVec 16) {a : Num} {q : ℚ} (h : rational a = some q) :
    convertsTo f F rm q (convertNum f F rm r a).1 := by
  obtain ⟨neg, m, e, rfl, rfl⟩ := rational_eq_some h
  constructor
  · intro h0 hs
    have hm : m ≠ 0 := fun hm => h0 (exactly_eq_zero.2 hm)
    have hneg : decide (exactly neg m e < 0) = neg := by
      rw [Bool.eq_iff_iff, decide_eq_true_eq, exactly_neg_iff e hm]
    rw [hneg] at hs
    refine ⟨_, r, h, ?_⟩
    rw [convertNum, if_neg (fun hb => signOk_iff.1 hb hs)]
    rfl
  · intro hk hq
    have hm : m ≠ 0 := by
      rintro rfl
      rw [exactly_zero] at hq
      exact lt_irrefl _ hq
    have hneg : neg = true := (exactly_neg_iff e hm).1 hq
    rw [convertNum, if_pos (by simp [hk, hneg])]
    exact convertNegU_code f F rm r m e

theorem convertNum_nan (f : W64) (F : FFmt) (rm : Rm) (r : BitVec 16) : (convertNum f F rm r .nan).1 = nanCode F := rfl

theorem infinityTo_convertNum (f : W64) (F : FFmt) (rm : Rm) (r : BitVec 16) (neg : Bool) : infinityTo f F neg (convertNum f F rm r (.inf neg)).1 := by
  refine ⟨fun hs hinf => ?_, fun hs hinf => ?_, fun hs => ?_⟩
  · rw [convertNum, if_neg (fun hb => signOk_iff.1 hb hs), if_pos hinf]
  · rw [convertNum, if_neg (fun hb => signOk_iff.1 hb hs), if_neg (by simp [hinf])]
    cases fmtSat f
    · simp only [Bool.false_eq_true, if_false, false_or]
      split <;> rfl
    · rfl
  · rw [convertNum, if_pos (signOk_iff.2 hs)]

/-! ### CVT and XCVT (R209, R222) -/

/-- What legality says of CVT and XCVT: a destination of at least one slot. -/
theorem slots_of_cvt {f : W64} {i : Instr} {x : LaForm} (hi : i = .cvt x ∨ i = .xcvt x) (h : legalAt f i = true) : 1 ≤ slotsOf f x.ty := by
  have hdst : ∀ {sh : Shape}, laOk f x true sh = true → (sh.ok = true → sh.d = .dst (slotsOf f x.ty)) → 1 ≤ slotsOf f x.ty := by
    intro sh hok hd
    obtain ⟨hsh, hu⟩ := laOk_shape hok
    rw [hd hsh] at hu
    cases hx : x.d
    all_goals
      rw [hx] at hu
      simp only [useOk, Bool.and_eq_true, decide_eq_true_eq, Bool.false_eq_true] at hu
    all_goals omega
  rcases hi with rfl | rfl
  · refine hdst h fun hok => ?_
    unfold shCvt at hok ⊢
    split at hok
    · cases hok
    · rfl
  · refine hdst h fun hok => ?_
    unfold shXcvt at hok ⊢
    split at hok
    · cases hok
    · rfl

section
variable {x : Srcs} {ts : Ty} (hts : extTy x.ext = some ts) (v : LaneEnv) (s : State) {l : Nat} (hl : l < 32)
include hts hl

theorem puts_cvtLane_ints (hd : tyIsInt x.ty = true) (ha : tyIsInt ts = true) :
    Puts (cvtLane x v s l) l (putSlots s.cur x.d (slotsOf v.e.fmt x.ty) l
      (intWord x.ty (clamped x.ty (bitAt x.md 0) (asInt ts (readTy s v x.a ts l))))) := by
  rw [← tyInt_eq_asInt (readTy_lt_of_int ha), ← wrapOrClamp_eq]
  simp only [cvtLane, hts, Option.getD_some, hd, ha, Bool.and_true, if_true]
  exact puts_putSlots _ _ _ _ hl

theorem puts_cvtLane_toInt (hd : tyIsInt x.ty = true) (ha : tyIsInt ts = false) :
    Puts (cvtLane x v s l) l (putSlots s.cur x.d (slotsOf v.e.fmt x.ty) l
      (intWord x.ty (convertInt x.ty (rmIn v x.md) (drawnWord (rmIn v x.md) s l) (srcValue s v x.a ts l)).1)) := by
  have hw := wrapOrClamp_eq x.ty false (convertInt x.ty (rmIn v x.md) (drawnWord (rmIn v x.md) s l) (srcValue s v x.a ts l)).1
  rw [show ∀ k, clamped x.ty false k = k from fun _ => rfl] at hw
  rw [← hw]
  simp only [cvtLane, hts, Option.getD_some, hd, ha, Bool.and_false, Bool.false_eq_true, if_false, if_true]
  exact ((puts_putSlots _ _ _ _ hl).join_stat v l _).join_rnd _

theorem puts_cvtLane_toFloat (hd : tyIsInt x.ty = false) :
    Puts (cvtLane x v s l) l (putCode s v x.d x.ty l
      (convertNum v.e.fmt (fmtOf v.e.fmt x.ty) (rmIn v x.md) (drawnWord (rmIn v x.md) s l) (srcValue s v x.a ts l)).1) := by
  simp only [cvtLane, hts, Option.getD_some, hd, Bool.false_and, Bool.false_eq_true, if_false]
  exact ((puts_putCode s v _ _ _ hl).join_stat v l _).join_rnd _

end

/-- What CVT and XCVT leave in a lane, in the words of O25. -/
def Converted (s1 t : State) (v : LaneEnv) (x : LaForm) (ts : Ty) (l : Nat) : Prop :=
  ∀ f F rm n, f = v.e.fmt → F = fmtOf f x.ty → rm = rmIn v x.md → n = slotsOf f x.ty →
    (tyIsInt x.ty = true → tyIsInt ts = true →
      holds s1 t x.d n l (intWord x.ty (clamped x.ty (x.md.getLsbD 0) (asInt ts (readTy s1 v x.a ts l)))) x.yw) ∧
    (tyIsInt x.ty = true → tyIsInt ts = false →
      (∀ q, sourceRational s1 v x.a ts l = some q → ∃ k, roundedTo rm q k ∧ holds s1 t x.d n l (intWord x.ty (clamped x.ty true k)) x.yw) ∧
      (srcValue s1 v x.a ts l = .nan → holds s1 t x.d n l 0 x.yw) ∧
      (∀ neg, srcValue s1 v x.a ts l = .inf neg →
        holds s1 t x.d n l (intWord x.ty (clamped x.ty true (if neg then -2 ^ 64 else 2 ^ 64))) x.yw)) ∧
    (tyIsInt x.ty = false → ∃ code, holdsCode s1 t v x.d x.ty l code x.yw ∧
      (∀ q, sourceRational s1 v x.a ts l = some q → convertsTo f F rm q code) ∧
      (srcValue s1 v x.a ts l = .nan → code = nanCode F) ∧
      ∀ neg, srcValue s1 v x.a ts l = .inf neg → infinityTo f F neg code)

section
variable {s1 t : State} {v : LaneEnv} {x : LaForm} {ts : Ty} {l : Nat}

theorem converted_ints (hd : tyIsInt x.ty = true) (ha : tyIsInt ts = true)
    (h : holds s1 t x.d (slotsOf v.e.fmt x.ty) l (intWord x.ty (clamped x.ty (bitAt x.md 0) (asInt ts (readTy s1 v x.a ts l)))) x.yw) :
    Converted s1 t v x ts l := by
  rintro _ _ _ _ rfl rfl rfl rfl
  refine ⟨fun _ _ => h, fun _ h' => ?_, fun h' => ?_⟩
  · rw [ha] at h'
    cases h'
  · rw [hd] at h'
    cases h'

theorem converted_toInt {r : BitVec 16} (hd : tyIsInt x.ty = true) (ha : tyIsInt ts = false)
    (h : holds s1 t x.d (slotsOf v.e.fmt x.ty) l (intWord x.ty (convertInt x.ty (rmIn v x.md) r (srcValue s1 v x.a ts l)).1) x.yw) :
    Converted s1 t v x ts l := by
  rintro _ _ _ _ rfl rfl rfl rfl
  refine ⟨fun _ h' => ?_, fun _ _ => ⟨fun q hq => ?_, fun hn => ?_, fun neg hn => ?_⟩, fun h' => ?_⟩
  · rw [ha] at h'
    cases h'
  · rw [← rational_srcValue] at hq
    obtain ⟨neg, m, e, hn, rfl⟩ := rational_eq_some hq
    rw [hn, convertInt_fin] at h
    exact ⟨_, roundedTo_roundInt _ _ neg m e, h⟩
  · rw [hn] at h
    have h0 : intWord x.ty 0 = 0 := by
      rw [← extTyBits_wrap, Int.zero_emod]
      simp [extTyBits]
    exact h0 ▸ h
  · rw [hn, convertInt_inf hd] at h
    exact h
  · rw [hd] at h'
    cases h'

theorem converted_toFloat {r : BitVec 16} (hd : tyIsInt x.ty = false)
    (h : holdsCode s1 t v x.d x.ty l (convertNum v.e.fmt (fmtOf v.e.fmt x.ty) (rmIn v x.md) r (srcValue s1 v x.a ts l)).1 x.yw) :
    Converted s1 t v x ts l := by
  rintro _ _ _ _ rfl rfl rfl rfl
  refine ⟨fun h' => ?_, fun h' => ?_, fun _ => ⟨_, h, fun q hq => ?_, fun hn => ?_, fun neg hn => ?_⟩⟩
  · rw [hd] at h'
    cases h'
  · rw [hd] at h'
    cases h'
  · exact convertsTo_convertNum _ _ _ _ ((rational_srcValue ..).trans hq)
  · rw [hn]
    rfl
  · rw [hn]
    exact infinityTo_convertNum ..

end

/-- CVT and XCVT leave in each acting lane the value their tables give (R209, R222). -/
theorem cvt_written {s s1 : State} {i : Instr} {x : LaForm} {p : LaneParts} {v : LaneEnv} (h : LaneReady s i p v s1)
    (hi : i = .cvt x ∨ i = .xcvt x) {ts : Ty} (hts : extTy x.ext = some ts) :
    ∃ t, exec i s = .next t ∧ ∀ l ∈ actLanes v, Converted s1 t v x ts l := by
  have hf : floatLane i = some (srcsLa x, cvtLane) := by rcases hi with rfl | rfl <;> rfl
  have hrun := laneCommits_of_ready h hf
  have hn := slots_of_cvt hi h.legal
  cases hd : tyIsInt x.ty
  · obtain ⟨t, he, hh⟩ := hrun.holdsCode hd hn (fun l hl => puts_cvtLane_toFloat (x := srcsLa x) hts v s1 (lt_of_mem_actLanes hl) hd)
    exact ⟨t, he, fun l hl => converted_toFloat hd (hh l hl)⟩
  · cases ha : tyIsInt ts
    · obtain ⟨t, he, hh⟩ := hrun.holds hn (fun l hl => puts_cvtLane_toInt (x := srcsLa x) hts v s1 (lt_of_mem_actLanes hl) hd ha)
      exact ⟨t, he, fun l hl => converted_toInt hd ha (hh l hl)⟩
    · obtain ⟨t, he, hh⟩ := hrun.holds hn (fun l hl => puts_cvtLane_ints (x := srcsLa x) hts v s1 (lt_of_mem_actLanes hl) hd ha)
      exact ⟨t, he, fun l hl => converted_ints hd ha (hh l hl)⟩

end Sys2Proof.Machine
end

section
/-! Packing, unpacking and scale codes (R210 to R212, R70). -/
namespace Sys2Proof.Machine

open Sys2Proof.Claims

/-! ### Scaling by a code (R46, R210, R211) -/

/-- A value times 2^k, exact; NaN where the scale's code is 0xFF. -/
def scaledNum (scaled : Bool) (b : Nat) (k : Int) (a : Num) : Num :=
  if scaled then (if b = 0xFF then .nan else (numMul a (.fin false 1 k)).1) else a

section
variable {scaled : Bool} {c : Nat} {k : Int} {a : Num} {sc : Option ℚ}

theorem rational_pow (k : Int) : rational (.fin false 1 k) = some ((2 : ℚ) ^ k) := by simp [rational]

theorem rational_scaledNum {qa w : ℚ} (ha : rational a = some qa) (hsc : (if scaled then scaleCode c else some 1) = some w) :
    rational (scaledNum scaled (c % 256) k a) = some (qa * if scaled then 2 ^ k else 1) := by
  unfold scaledNum
  cases scaled
  · simpa using ha
  · simp only [if_true, scaleCode] at hsc ⊢
    split at hsc
    · cases hsc
    · next h255 => rw [if_neg h255, (rational_numMul ha (rational_pow k)).1]

/-- The factor that a scale's code stands for. -/
theorem scaleCode_some {w : ℚ} (h : scaleCode c = some w) : w = (2 : ℚ) ^ (((c % 256 : Nat) : Int) - 127) := by
  unfold scaleCode at h
  split at h
  · cases h
  · exact (Option.some.inj h).symm

theorem scaledNum_nan (h : a = .nan ∨ (if scaled then scaleCode c else some 1) = none) : scaledNum scaled (c % 256) k a = .nan := by
  unfold scaledNum
  cases scaled
  · simpa using h
  · simp only [if_true, scaleCode] at h ⊢
    split
    · rfl
    · next h255 =>
      rw [if_neg h255] at h
      obtain rfl := h.resolve_right (by simp)
      rw [numMul_nan_left]

theorem scaledNum_inf {neg : Bool} (h : (if scaled then scaleCode c else some 1) ≠ none) : scaledNum scaled (c % 256) k (.inf neg) = .inf neg := by
  unfold scaledNum
  cases scaled
  · rfl
  · simp only [if_true, scaleCode] at h ⊢
    split
    · next h255 => exact absurd (if_pos h255) h
    · cases neg <;> rfl

end

/-! ### PACK (R210) -/

theorem packLane_eq (x : Srcs) (v : LaneEnv) (s : State) (l : Nat) : packLane x v s l = roundedElems x v s l fun j r =>
    convertNum v.e.fmt (fmtOf v.e.fmt (tyElem x.ty)) (rmIn v x.md) r
      (scaledNum (bitAt x.md 0) (readB32 s v x l % 256) (127 - ((readB32 s v x l % 256 : Nat) : Int))
        (readNum v.e.fmt fmtF32 (windowSlot s v x.a (tyCount x.ty) j l))) := rfl

theorem tyIsInt_of_packed {t : Ty} (h : tyPacked t = true) : tyIsInt t = false := by
  cases t
  case bf16x2 | f16x2 | e4m3x4 | e5m2x4 | e2m1x8 | b8x4 => rfl
  all_goals cases h

/-- Each element of PACK is a slot of its window, scaled where asked for and converted once (R210). -/
theorem pack_written {s s1 : State} {x : LaForm} {p : LaneParts} {v : LaneEnv} (h : LaneReady s (.pack x) p v s1) :
    ∃ t, exec (.pack x) s = .next t ∧ ∀ l ∈ actLanes v, ∃ word, holds s1 t x.d 1 l word x.yw ∧
      ∀ j, j < tyCount x.ty → ∀ a sc F, F = fmtOf v.e.fmt (tyElem x.ty) →
        a = readNum v.e.fmt fmtF32 (windowSlot s1 v x.a (tyCount x.ty) j l) →
        sc = (if x.md.getLsbD 0 then scaleCode (readB32 s1 v (srcsLa x) l) else some 1) →
        (∀ qa k, rational a = some qa → sc = some k → convertsTo v.e.fmt F (rmIn v x.md) (qa / k) (elemAt x.ty word j)) ∧
        (a = .nan ∨ sc = none → elemAt x.ty word j = nanCode F) ∧
        (∀ neg, a = .inf neg → sc ≠ none → infinityTo v.e.fmt F neg (elemAt x.ty word j)) := by
  have hleg : laOk v.e.fmt x true (shPack x.ty x.md x.ext) = true := h.legal
  have hty : tyPacked x.ty = true := by
    have hok := (laOk_shape hleg).1
    simp only [shPack, Bool.and_eq_true] at hok
    exact hok.1.1.1
  have hb := laOk_b8_ty hleg
  obtain ⟨t, he, hh⟩ := (laneCommits_of_ready h rfl).holds_elems (x := srcsLa x) (tyIsInt_of_packed hty) (fun l => packLane_eq _ v s1 l)
    (fun l j r => (convertNum_lt (fmtOk_elem (.inr hty) hb) _ _ _ _).trans_eq (congrArg (2 ^ ·) (width_fmtOf_elem _ (.inr hty))))
  refine ⟨t, he, fun l hl => ?_⟩
  obtain ⟨word, hw, helem⟩ := hh l hl
  refine ⟨word, hw, fun j hj a sc F hF ha hsc => ?_⟩
  obtain ⟨r, hr⟩ := helem j hj
  change elemAt x.ty word j = (convertNum v.e.fmt (fmtOf v.e.fmt (tyElem x.ty)) (rmIn v x.md) r (scaledNum (x.md.getLsbD 0)
    (readB32 s1 v (srcsLa x) l % 256) _ (readNum v.e.fmt fmtF32 (windowSlot s1 v x.a (tyCount x.ty) j l)))).1 at hr
  rw [hr, ← hF, ← ha]
  subst hsc
  refine ⟨fun qa k hqa hk => ?_, fun hn => ?_, fun neg hn hs => ?_⟩
  · have hq := rational_scaledNum (k := 127 - ((readB32 s1 v (srcsLa x) l % 256 : Nat) : Int)) hqa hk
    have hfactor : qa * (if x.md.getLsbD 0 then 2 ^ (127 - ((readB32 s1 v (srcsLa x) l % 256 : Nat) : Int)) else 1) = qa / k := by
      split at hk
      · next hbit => rw [if_pos hbit, scaleCode_some hk, div_eq_mul_inv, ← zpow_neg, neg_sub]
      · next hbit => rw [if_neg hbit, ← Option.some.inj hk, div_one, mul_one]
    exact convertsTo_convertNum _ _ _ _ (hfactor ▸ hq)
  · rw [scaledNum_nan hn, convertNum_nan]
  · rw [hn, scaledNum_inf hs]
    exact infinityTo_convertNum ..

/-! ### UNPACK (R211) -/

/-- UNPACK's elements: FP32 codes and the random word after. -/
def unpackElems (x : Srcs) (ts : Ty) (v : LaneEnv) (s : State) (l : Nat) : List Nat × Nat × BitVec 16 :=
  drawEach (if bitAt x.md 0 then rmIn v x.md else .rne) (fun j r => roundTo v.e.fmt fmtF32 (if bitAt x.md 0 then rmIn v x.md else .rne) r
    (scaledNum (bitAt x.md 0) (readB32 s v x l % 256) (((readB32 s v x l % 256 : Nat) : Int) - 127)
      (readNum v.e.fmt (fmtOf v.e.fmt (tyElem ts)) (elemAt ts (readTy s v x.a ts l) j)))) (List.range (tyCount ts)) (lfsrGet s.cur l)

theorem puts_unpackLane {x : Srcs} {ts : Ty} (hts : extTy x.ext = some ts) (v : LaneEnv) (s : State) {l : Nat} (hl : l < 32) :
    Puts (unpackLane x v s l) l (putSlots s.cur x.d (tyCount ts) l (joinElems 32 (unpackElems x ts v s l).1)) := by
  have h : unpackLane x v s l = ((putSlots s.cur x.d (tyCount ts) l (joinElems 32 (unpackElems x ts v s l).1)).join
      (statOf v l (unpackElems x ts v s l).2.1)).join { rnd := if bitAt x.md 0 then [(l, (unpackElems x ts v s l).2.2)] else [] } := by
    unfold unpackLane
    rw [hts]
    rfl
  rw [h]
  exact ((puts_putSlots s.cur x.d _ _ hl).join_stat v l _).join_rnd _

theorem tyCount_pos (t : Ty) : 1 ≤ tyCount t := by cases t <;> decide

/-- Each slot UNPACK writes is an element of its source as an FP32, scaled where asked for (R211). -/
theorem unpack_written {s s1 : State} {x : LaForm} {p : LaneParts} {v : LaneEnv} (h : LaneReady s (.unpack x) p v s1) {ts : Ty}
    (hts : extTy x.ext = some ts) : ∃ t, exec (.unpack x) s = .next t ∧ ∀ l ∈ actLanes v, ∃ val,
      holds s1 t x.d (tyCount ts) l val x.yw ∧ ∀ j, j < tyCount ts → ∀ a sc,
        a = readNum v.e.fmt (fmtOf v.e.fmt (tyElem ts)) (elemAt ts (readTy s1 v x.a ts l) j) →
        sc = (if x.md.getLsbD 0 then scaleCode (readB32 s1 v (srcsLa x) l) else some 1) →
        (∀ qa k, rational a = some qa → sc = some k → qa ≠ 0 → ∃ n r, rational n = some (qa * k) ∧
          val / 2 ^ (32 * j) % 2 ^ 32 = (roundTo v.e.fmt fmtF32 (if x.md.getLsbD 0 then rmIn v x.md else .rne) r n).1) ∧
        (a = .nan ∨ sc = none → val / 2 ^ (32 * j) % 2 ^ 32 = nanCode fmtF32) := by
  obtain ⟨t, he, hh⟩ := (laneCommits_of_ready h rfl).holds (tyCount_pos ts)
    (fun l hl => puts_unpackLane (x := srcsLa x) hts v s1 (lt_of_mem_actLanes hl))
  refine ⟨t, he, fun l hl => ⟨_, hh l hl, fun j hj a sc ha hsc => ?_⟩⟩
  subst hsc
  obtain ⟨r, hr⟩ : ∃ r, (unpackElems (srcsLa x) ts v s1 l).1[j]? = some _ := drawEach_range _ _ _ _ hj
  have hlt : ∀ c ∈ (unpackElems (srcsLa x) ts v s1 l).1, c < 2 ^ 32 := fun c hc => by
    obtain ⟨i, w, rfl⟩ := exists_of_mem_drawEach hc
    exact roundTo_lt fmtOk_f32 _ _ _ _
  have helem : joinElems 32 (unpackElems (srcsLa x) ts v s1 l).1 / 2 ^ (32 * j) % 2 ^ 32 =
      (roundTo v.e.fmt fmtF32 (if x.md.getLsbD 0 then rmIn v x.md else .rne) r (scaledNum (x.md.getLsbD 0) (readB32 s1 v (srcsLa x) l % 256)
        (((readB32 s1 v (srcsLa x) l % 256 : Nat) : Int) - 127) a)).1 := by
    rw [ha]
    exact joinElems_div_mod hlt hr
  rw [helem]
  refine ⟨fun qa k hqa hk _ => ⟨_, r, ?_, rfl⟩, fun hn => ?_⟩
  · rw [rational_scaledNum hqa hk]
    split at hk
    · next hbit => rw [if_pos hbit, scaleCode_some hk]
    · next hbit => rw [if_neg hbit, ← Option.some.inj hk]
  · rw [scaledNum_nan hn]
    rfl

/-! ### SCALEX (R70, R212) -/

theorem maxCode_pos {F : FFmt} (hF : FmtOk F) : 0 < maxCode F := by
  unfold maxCode
  cases hk : F.kind
  case ieee =>
    obtain ⟨h1, h2⟩ := two_pow_trail_le hF hk
    rw [infCode_ieee hk]
    dsimp only
    omega
  case b8s | b8u =>
    dsimp only
    split <;> decide
  case e4m3 | e2m1 =>
    dsimp only
    decide

/-- A format's largest finite value, and its exponent (R49, R70). -/
theorem emaxOf_eq {F : FFmt} (hF : FmtOk F) {top : ℚ} (h : rational (decodeNum F (maxCode F)) = some top) : emaxOf F = Int.log 2 top := by
  have hpos := maxCode_pos hF
  have hcode : withSign F false (maxCode F) = maxCode F := by simp [withSign, hpos.ne']
  have htop : magRat F (maxCode F) = top := by
    have := rational_withSign hF (neg := false) le_rfl (by simp)
    rw [hcode, h] at this
    exact (Option.some.inj this).symm
  have hne : (magValue F (maxCode F)).1 ≠ 0 := by
    intro h0
    have hlt := magRat_strictMono F hpos
    rw [magRat_zero, magRat, h0, exactly_zero] at hlt
    exact lt_irrefl _ hlt
  rw [emaxOf, expOf_eq_log _ hne, ← htop, magRat]

theorem scaleFor_scalexVal {F : FFmt} (hF : FmtOk F) (a : Num) : scaleFor F a (scalexVal F a).1 := by
  cases a
  case nan | inf => exact rfl
  case fin neg m e =>
    unfold scaleFor scalexVal
    dsimp only
    by_cases hm : m = 0
    · simp [hm]
    · rw [if_neg hm, if_neg hm]
      intro top htop k hk
      rw [expOf_eq_log e hm, emaxOf_eq hF htop, ← hk]
      split_ifs <;> rfl

/-- SCALEX writes the code of R70's scale (R212). -/
theorem scalex_written {s s1 : State} {x : LaForm} {p : LaneParts} {v : LaneEnv} (h : LaneReady s (.scalex x) p v s1) :
    ∃ t, exec (.scalex x) s = .next t ∧ ∀ l ∈ actLanes v, ∃ code, holds s1 t x.d 1 l code x.yw ∧
      ∀ ts, extTy x.ext = some ts → scaleFor (fmtOf v.e.fmt ts) (readNum v.e.fmt fmtF32 (readTy s1 v x.a .f32 l)) code := by
  have hleg : laOk v.e.fmt x true (shScalex x.ty x.md x.ext) = true := h.legal
  obtain ⟨t, he, hh⟩ := (laneCommits_of_ready h rfl).holds le_rfl
    (fun l hl => (puts_putSlots s1.cur x.d 1 (scalexVal (fmtOf v.e.fmt ((extTy x.ext).getD .e4m3))
      (readNum v.e.fmt fmtF32 (readTy s1 v x.a .f32 l))).1 (lt_of_mem_actLanes hl)).join_stat v l _)
  refine ⟨t, he, fun l hl => ⟨_, hh l hl, fun ts hts => ?_⟩⟩
  rw [hts, Option.getD_some]
  refine scaleFor_scalexVal (fmtOk_fmtOf (fun h8 => ?_) ?_) _
  · have hb := laOk_b8_ext hleg hts
    subst h8
    simpa [b8Ok, tyIsB8] using hb
  · have hok := (laOk_shape hleg).1
    simp only [shScalex, hts, Bool.and_eq_true] at hok
    cases ts
    case vpf | vpfc => cases hok.2
    all_goals rfl

end Sys2Proof.Machine
end

section
/-! Reductions and scans over floats (R216, R217). -/
namespace Sys2Proof.Machine

open Sys2Proof.Claims

/-! ### The pairwise tree (R216) -/

section
variable {α : Type} {f : α → α → α × Nat}

/-- One level of the tree combines the positions 2k and 2k + 1. -/
theorem treeLevel_map_range (n : Nat) (h : Nat → Option α) :
    (treeLevel f ((List.range (2 * n)).map h)).1 = (List.range n).map fun k => (combOpt f (h (2 * k)) (h (2 * k + 1))).1 := by
  induction n generalizing h with
  | zero => rfl
  | succ n ih =>
    have h2 : (List.range (2 * (n + 1))).map h = h 0 :: h 1 :: (List.range (2 * n)).map fun k => h (k + 2) := by
      rw [show 2 * (n + 1) = 2 * n + 1 + 1 by ring, List.range_succ_eq_map, List.range_succ_eq_map]
      simp [Function.comp_def]
    rw [h2, treeLevel]
    dsimp only
    rw [ih, List.range_succ_eq_map, List.map_cons, List.map_map]
    rfl

end

/-- The pairwise tree over 2^n positions gives the value of `pairTree` (R216). -/
theorem treeReduce_map_range {f : Num → Num → Num × Nat} (leaf : Nat → Option Num) {n : Nat} :
    ∀ {levels : Nat}, n ≤ levels → ∀ j, (treeReduce f levels ((List.range (2 ^ n)).map (pairTree (fun x y => (f x y).1) leaf j))).1 =
      pairTree (fun x y => (f x y).1) leaf (j + n) 0 := by
  induction n with
  | zero =>
    intro levels _ j
    cases levels <;> rfl
  | succ n ih =>
    intro levels hle j
    obtain ⟨levels, rfl⟩ := Nat.exists_eq_succ_of_ne_zero (Nat.ne_zero_of_lt hle)
    have hlong : ¬ ((List.range (2 ^ (n + 1))).map (pairTree (fun x y => (f x y).1) leaf j)).length ≤ 1 := by
      rw [List.length_map, List.length_range, pow_succ]
      have := Nat.one_le_two_pow (n := n)
      omega
    have hlevel : ∀ k, (combOpt f (pairTree (fun x y => (f x y).1) leaf j (2 * k)) (pairTree (fun x y => (f x y).1) leaf j (2 * k + 1))).1 =
        pairTree (fun x y => (f x y).1) leaf (j + 1) k := by
      intro k
      rw [pairTree]
      cases pairTree (fun x y => (f x y).1) leaf j (2 * k) <;> cases pairTree (fun x y => (f x y).1) leaf j (2 * k + 1) <;> rfl
    rw [treeReduce, if_neg hlong]
    dsimp only
    rw [pow_succ', treeLevel_map_range, funext hlevel, ih (Nat.le_of_succ_le_succ hle) (j + 1), Nat.add_right_comm, Nat.add_assoc]

/-! ### Running combinations (R217) -/

section
variable {α : Type} (f : α → α → α × Nat) (ex : Bool) (ident : α)

/-- The combination of some values after those before them. -/
def runAcc (acc : Option α) (xs : List (Nat × α)) : Option α := xs.foldl (fun a p => (combOpt f a (some p.2)).1) acc

theorem scanList_cons (acc : Option α) (l : Nat) (x : α) (r : List (Nat × α)) : (scanList f ex ident acc ((l, x) :: r)).1 =
    (l, if ex then acc.getD ident else (combOpt f acc (some x)).1.getD x) :: (scanList f ex ident (combOpt f acc (some x)).1 r).1 := by
  cases r
  · cases ex <;> rfl
  · rfl

/-- The lane of a scan that stands once in the list receives the combination of those before it, or with its own. -/
theorem filter_scanList {l : Nat} {x : α} {pre post : List (Nat × α)} (hpre : ∀ q ∈ pre, q.1 ≠ l) (hpost : ∀ q ∈ post, q.1 ≠ l) (acc : Option α) :
    (scanList f ex ident acc (pre ++ (l, x) :: post)).1.filter (fun q => decide (q.1 = l)) =
      [(l, if ex then (runAcc f acc pre).getD ident else (combOpt f (runAcc f acc pre) (some x)).1.getD x)] := by
  induction pre generalizing acc with
  | nil =>
    rw [List.nil_append, scanList_cons, List.filter_cons_of_pos (by simp)]
    refine congrArg (List.cons _) (List.filter_eq_nil_iff.2 fun q hq => ?_)
    obtain ⟨p, hp, he⟩ := List.mem_map.1 (mem_scanList hq)
    simpa [he] using hpost p hp
  | cons p pre ih =>
    rw [List.cons_append, scanList_cons, List.filter_cons_of_neg (by simpa using hpre p (List.mem_cons_self ..)),
      ih (fun q hq => hpre q (List.mem_cons_of_mem _ hq))]
    rfl

end

/-- The running combination of R217 is the scan's. -/
theorem runAcc_getD {f : Num → Num → Num × Nat} {ident : Num} {op : Nat} (hid : runningOf (fun x y => (f x y).1) op [] = ident) (xs : List (Nat × Num)) :
    (runAcc f none xs).getD ident = runningOf (fun x y => (f x y).1) op (xs.map (·.2)) := by
  cases xs with
  | nil => exact hid.symm
  | cons p xs =>
    have hsome : ∀ (xs : List (Nat × Num)) (a : Num), runAcc f (some a) xs = some ((xs.map (·.2)).foldl (fun x y => (f x y).1) a) := by
      intro xs
      induction xs with
      | nil => exact fun _ => rfl
      | cons q xs ih => exact fun a => ih _
    exact congrArg (Option.getD · ident) (hsome xs p.2)

theorem combOpt_getD {α : Type} (f : α → α → α × Nat) (acc : Option α) (x y : α) :
    (combOpt f acc (some x)).1.getD x = (combOpt f acc (some x)).1.getD y := by
  cases acc <;> rfl

/-! ### Segments (R216) -/

theorem mem_segLanes {g k l : Nat} (hg : 0 < g) : l ∈ segLanes g k ↔ l / g = k := by
  unfold segLanes
  rw [List.mem_map]
  constructor
  · rintro ⟨i, hi, rfl⟩
    rw [Nat.mul_comm, Nat.mul_add_div hg, Nat.div_eq_of_lt (List.mem_range.1 hi), Nat.add_zero]
  · rintro rfl
    exact ⟨l % g, List.mem_range.2 (Nat.mod_lt _ hg), by rw [Nat.mul_comm]; exact Nat.div_add_mod l g⟩

theorem sorted_segLanes (g k : Nat) : (segLanes g k).Pairwise (· < ·) := by
  unfold segLanes
  rw [List.pairwise_map]
  exact List.pairwise_lt_range.imp fun h => Nat.add_lt_add_left h _

/-- The lanes of a segment are those of the 32 with its number. -/
theorem filter_range_eq_segLanes : ∀ c < 5, ∀ k < 2 ^ c, (List.range 32).filter (fun j => decide (j / 2 ^ (5 - c) = k)) = segLanes (2 ^ (5 - c)) k := by
  decide

theorem fst_mem_of_mem_segResult {α : Type} {scan ex : Bool} {comb : α → α → α × Nat} {ident : α} {read : Nat → α} {parts : Nat → Bool}
    {lanes : List Nat} {q : Nat × α} (h : q ∈ (segResult scan ex comb ident read parts lanes).1) : q.1 ∈ lanes := by
  unfold segResult at h
  split at h
  · obtain ⟨p, hp, he⟩ := List.mem_map.1 (mem_scanList h)
    obtain ⟨l, hl, rfl⟩ := List.mem_map.1 hp
    exact he ▸ (List.mem_filter.1 hl).1
  · dsimp only at h
    split at h
    · cases h
    · obtain ⟨l, hl, rfl⟩ := List.mem_map.1 h
      exact (List.mem_filter.1 hl).1

theorem allSegs_fst {α : Type} (g : Nat) (seg : List Nat → List (Nat × α) × Nat) :
    (allSegs g seg).1 = (List.range (32 / g)).flatMap fun k => (seg (segLanes g k)).1 := by
  have hfold : ∀ (ks : List Nat) (acc : List (Nat × α) × Nat),
      (ks.foldl (fun acc k => let r := seg (segLanes g k); (acc.1 ++ r.1, acc.2 ||| r.2)) acc).1 = acc.1 ++ ks.flatMap fun k => (seg (segLanes g k)).1 := by
    intro ks
    induction ks with
    | nil => simp
    | cons k ks ih =>
      intro acc
      rw [List.foldl_cons, ih, List.flatMap_cons, List.append_assoc]
  exact hfold _ _

/-- What a lane receives of all segments is what its own segment gives it. -/
theorem filter_allSegs {α : Type} {g l : Nat} {seg : List Nat → List (Nat × α) × Nat} (hg : 0 < g) (hseg : ∀ lanes, ∀ q ∈ (seg lanes).1, q.1 ∈ lanes)
    (hl : l / g < 32 / g) : (allSegs g seg).1.filter (fun q => decide (q.1 = l)) = (seg (segLanes g (l / g))).1.filter fun q => decide (q.1 = l) := by
  obtain ⟨pre, post, hsplit⟩ := List.append_of_mem (List.mem_range.2 hl)
  have hnodup : (pre ++ l / g :: post).Nodup := hsplit ▸ List.nodup_range
  have hempty : ∀ ks : List Nat, l / g ∉ ks → ((ks.flatMap fun k => (seg (segLanes g k)).1).filter fun q => decide (q.1 = l)) = [] := by
    intro ks hks
    refine List.filter_eq_nil_iff.2 fun q hq => ?_
    obtain ⟨k, hk, hqk⟩ := List.mem_flatMap.1 hq
    have hdiv := (mem_segLanes hg).1 (hseg _ q hqk)
    simp only [decide_eq_true_eq]
    rintro rfl
    exact hks (hdiv ▸ hk)
  obtain ⟨-, hnd, hdisj⟩ := List.nodup_append.1 hnodup
  have hpre : l / g ∉ pre := fun h => hdisj _ h _ (List.mem_cons_self ..) rfl
  have hpost : l / g ∉ post := (List.nodup_cons.1 hnd).1
  rw [allSegs_fst, hsplit, List.flatMap_append, List.flatMap_cons, List.filter_append, List.filter_append, hempty pre hpre, hempty post hpost,
    List.nil_append, List.append_nil]

/-- The participants of a segment around one of them: those below it and those above. -/
theorem split_parts {g l : Nat} (hg : 0 < g) {parts : Nat → Bool} (hl : parts l = true) : ∃ pre post,
    (segLanes g (l / g)).filter parts = pre ++ l :: post ∧ (∀ k ∈ pre, k < l) ∧ ∀ k ∈ post, l < k := by
  obtain ⟨pre, post, hsplit⟩ := List.append_of_mem (List.mem_filter.2 ⟨(mem_segLanes hg).2 rfl, hl⟩)
  have hsorted : (pre ++ l :: post).Pairwise (· < ·) := hsplit ▸ (sorted_segLanes g (l / g)).filter parts
  obtain ⟨-, hcons, hlt⟩ := List.pairwise_append.1 hsorted
  exact ⟨pre, post, hsplit, fun k hk => hlt k hk l (List.mem_cons_self ..), fun k hk => (List.pairwise_cons.1 hcons).1 k hk⟩

/-! ### What each lane of a segment receives -/

section
variable {ex : Bool} {comb : Num → Num → Num × Nat} {ident : Num} {read : Nat → Num} {parts : Nat → Bool} {l : Nat}

/-- RED gives each participant the tree's value. -/
theorem filter_segResult_red {n : Nat} (hn : n ≤ 5) (hl : parts l = true) {r : Num}
    (hr : pairTree (fun x y => (comb x y).1) (fun k => if parts (l / 2 ^ n * 2 ^ n + k) then some (read (l / 2 ^ n * 2 ^ n + k)) else none) n 0 = some r) :
    (segResult false ex comb ident read parts (segLanes (2 ^ n) (l / 2 ^ n))).1.filter (fun q => decide (q.1 = l)) = [(l, r)] := by
  have htree : (treeReduce comb 5 ((segLanes (2 ^ n) (l / 2 ^ n)).map fun l => if parts l then some (read l) else none)).1 = some r := by
    have htree := treeReduce_map_range (f := comb) (fun k => if parts (l / 2 ^ n * 2 ^ n + k) then some (read (l / 2 ^ n * 2 ^ n + k)) else none) hn 0
    rw [Nat.zero_add, hr] at htree
    rw [segLanes, List.map_map]
    exact htree
  obtain ⟨pre, post, hsplit, hpre, hpost⟩ := split_parts (g := 2 ^ n) (by positivity) hl
  have hne : ∀ ks : List Nat, (∀ k ∈ ks, k ≠ l) → ((ks.map fun k => (k, r)).filter fun q => decide (q.1 = l)) = [] := fun ks hks =>
    List.filter_eq_nil_iff.2 (List.forall_mem_map.2 fun k hk => by simpa using hks k hk)
  simp only [segResult, Bool.false_eq_true, if_false, htree]
  rw [hsplit, List.map_append, List.map_cons, List.filter_append, List.filter_cons_of_pos (by simp), hne pre fun k hk => (hpre k hk).ne,
    hne post fun k hk => (hpost k hk).ne', List.nil_append]

/-- SCAN gives each participant the combination of those up to it, or before it. -/
theorem filter_segResult_scan {g op : Nat} (hg : 0 < g) (hl : parts l = true) (hid : runningOf (fun x y => (comb x y).1) op [] = ident) :
    (segResult true ex comb ident read parts (segLanes g (l / g))).1.filter (fun q => decide (q.1 = l)) =
      [(l, runningOf (fun x y => (comb x y).1) op
        ((((segLanes g (l / g)).filter parts).filter fun k => decide (k < l) || (!ex && decide (k = l))).map read))] := by
  obtain ⟨pre, post, hsplit, hpre, hpost⟩ := split_parts hg hl
  have hbefore : ((pre ++ l :: post).filter fun k => decide (k < l) || (!ex && decide (k = l))) = pre ++ if ex then [] else [l] := by
    have h1 : pre.filter (fun k => decide (k < l) || (!ex && decide (k = l))) = pre :=
      List.filter_eq_self.2 fun k hk => by simp [hpre k hk]
    have h2 : post.filter (fun k => decide (k < l) || (!ex && decide (k = l))) = [] :=
      List.filter_eq_nil_iff.2 fun k hk => by
        have := hpost k hk
        simp [this.not_gt, this.ne']
    rw [List.filter_append, h1, List.filter_cons, h2]
    cases ex <;> simp
  simp only [segResult, if_true]
  rw [hsplit, hbefore, List.map_append, List.map_cons, filter_scanList comb ex ident (fun q hq => ?_) (fun q hq => ?_)]
  · congr 2
    cases ex
    · have hacc : (combOpt comb (runAcc comb none (pre.map fun l => (l, read l))) (some (read l))).1 =
          runAcc comb none ((pre ++ [l]).map fun l => (l, read l)) := by
        rw [List.map_append, runAcc, runAcc, List.foldl_append]
        rfl
      rw [if_neg Bool.false_ne_true, combOpt_getD _ _ _ ident, hacc, runAcc_getD hid, List.map_map]
      simp [Function.comp_def]
    · rw [if_pos rfl, runAcc_getD hid, List.map_map]
      simp [Function.comp_def]
  · obtain ⟨k, hk, rfl⟩ := List.mem_map.1 hq
    exact (hpre k hk).ne
  · obtain ⟨k, hk, rfl⟩ := List.mem_map.1 hq
    exact (hpost k hk).ne'

end

end Sys2Proof.Machine
end

section
/-! RED and SCAN over floats where they may issue (R216, R217, log 47, log 89). -/
namespace Sys2Proof.Machine

open Sys2Proof.Claims

/-! ### The results of a reduction over floats -/

/-- The lanes that a reduction over floats gives a result, with the value before its flush. -/
def redResults (scan : Bool) (x : Srcs) (v : LaneEnv) (s : State) : List (Nat × Num) :=
  (allSegs (segWidth (if scan then x.md.extractLsb' 4 3 else x.md.extractLsb' 3 3).toNat)
    (segResult scan (scan && bitAt x.md 3) (redNum v.e.fmt (fmtOf v.e.fmt x.ty) (redRm v x.md) (x.md.extractLsb' 0 3).toNat)
      (identNum (x.md.extractLsb' 0 3).toNat) (reduced s v x (x.md.extractLsb' 0 3).toNat) fun l => v.active.getLsbD l)).1

/-- The registers of one lane's result. -/
def redRes (x : Srcs) (v : LaneEnv) (s : State) (p : Nat × Num) : LaneRes :=
  putTy s.cur x.d x.ty (slotsOf v.e.fmt x.ty) p.1 (roundTo v.e.fmt (fmtOf v.e.fmt x.ty) .rne 0 p.2).1

theorem redBody_float (scan : Bool) {x : Srcs} (v : LaneEnv) (s : State) (ht : tyIsInt x.ty = false) :
    ∃ st, redBody scan x v s = commitLane s ((joinRes ((redResults scan x v s).map (redRes x v s))).join { stat := st }) x.yw := by
  unfold redBody
  dsimp only
  rw [if_neg (by simp [ht]), List.map_map]
  exact ⟨_, rfl⟩

theorem active_of_mem_redResults {scan : Bool} {x : Srcs} {v : LaneEnv} {s : State} : ∀ q ∈ redResults scan x v s, v.active.getLsbD q.1 = true :=
  parts_of_mem_allSegs fun _ _ h => parts_of_mem_segResult h

theorem puts_redRes (x : Srcs) (v : LaneEnv) (s : State) {p : Nat × Num} (hl : p.1 < 32) : Puts (redRes x v s p) p.1 (redRes x v s p) :=
  puts_putSlots _ _ _ _ hl

section
variable {scan : Bool} {x : Srcs} {v : LaneEnv} {s : State}

theorem puts_redResults : ∀ p ∈ redResults scan x v s, Puts (redRes x v s p) p.1 (redRes x v s p) := fun p hp =>
  puts_redRes x v s (BitVec.lt_of_getLsbD (active_of_mem_redResults p hp))

theorem part_redResults (l st : Nat) : ((joinRes ((redResults scan x v s).map (redRes x v s))).join { stat := st }).part l =
    joinRes (((redResults scan x v s).filter fun p => decide (p.1 = l)).map (redRes x v s)) := by
  rw [LaneRes.part_join, part_joinRes puts_redResults l]
  exact LaneRes.join_empty _

theorem single_redResults (st : Nat) : ∀ q ∈ ((joinRes ((redResults scan x v s).map (redRes x v s))).join { stat := st }).single, q.1 < 32 := by
  intro q hq
  have hq' : q ∈ (joinRes ((redResults scan x v s).map (redRes x v s))).single := by simpa [LaneRes.join] using hq
  obtain ⟨p, hp, he⟩ := single_joinRes puts_redResults q hq'
  exact he ▸ BitVec.lt_of_getLsbD (active_of_mem_redResults p hp)

/-- A lane that takes no part keeps its registers (log 47). -/
theorem laneGet_redBody_of_inactive (ht : tyIsInt x.ty = false) {key : Nat} (h : v.active.getLsbD (key % 32) = false) :
    laneGet (redBody scan x v s).cur key = laneGet s.cur key := by
  obtain ⟨st, hst⟩ := redBody_float scan v s ht
  rw [hst]
  refine laneGet_commitLane_of_part_empty ?_ (single_redResults st)
  rw [part_redResults, List.filter_eq_nil_iff.2 fun q hq => ?_]
  · rfl
  · simp only [decide_eq_true_eq]
    rintro he
    have := active_of_mem_redResults q hq
    rw [he, h] at this
    cases this

/-- A lane that receives a value holds its code. -/
theorem holdsCode_redBody {l : Nat} {n : Num} (ht : tyIsInt x.ty = false) (hv : tyIsVpf x.ty = false) (hl : l < 32)
    (hd : slotInRange s.cur x.d 1 l = true) (hr : (redResults scan x v s).filter (fun p => decide (p.1 = l)) = [(l, n)]) :
    holdsCode s (redBody scan x v s) v x.d x.ty l (roundTo v.e.fmt (fmtOf v.e.fmt x.ty) .rne 0 n).1 x.yw := by
  obtain ⟨st, hst⟩ := redBody_float scan v s ht
  have hslots : slotsOf v.e.fmt x.ty = 1 := slotsOf_eq_one hv ht
  rw [hst, Claims.holdsCode, hslots, if_neg (by simp [hv])]
  refine holds_congr_mod (extTyBits_mod _ _ (tySigned_of_not_int ht)) (holds_of_part hl le_rfl ?_ (single_redResults st) hd)
  rw [part_redResults, hr, List.map_singleton, joinRes_single, redRes, hslots]
  rfl

end

/-! ### The values (R216, R217) -/

theorem redNum_eq_combined (f : W64) (F : FFmt) (rm : Rm) (op : Nat) (x y : Num) : (redNum f F rm op x y).1 = combined f F rm op x y := by
  match op with
  | 0 => rfl
  | 1 => exact pickNum_eq_chosen false false x y
  | 2 => exact pickNum_eq_chosen true false x y
  | _ + 3 => exact pickNum_eq_chosen true true x y

theorem runningOf_nil (comb : Num → Num → Num) (op : Nat) : runningOf comb op [] = identNum op := by
  match op with
  | 0 | 1 | _ + 2 => rfl

theorem segWidth_eq {c : Nat} (hc : c < 5) : segWidth c = 2 ^ (5 - c) ∧ 32 / 2 ^ (5 - c) = 2 ^ c := by
  revert c
  decide

theorem segment_lt {c l : Nat} (hc : c < 5) (hl : l < 32) : l / 2 ^ (5 - c) < 2 ^ c := by
  rw [Nat.div_lt_iff_lt_mul (by positivity), ← pow_add, Nat.add_sub_cancel' hc.le]
  exact hl

section
variable {x : Srcs} {v : LaneEnv} {s : State} {l c op : Nat} {comb : Num → Num → Num}

/-- RED: each active lane of a segment receives the tree's value over the segment's positions (R216). -/
theorem redResults_red (hop : op = (x.md.extractLsb' 0 3).toNat) (hc : c = (x.md.extractLsb' 3 3).toNat) (hc5 : c < 5) (hl : l < 32)
    (ha : v.active.getLsbD l = true) (hcomb : comb = combined v.e.fmt (fmtOf v.e.fmt x.ty) (redRm v x.md) op) {r : Num}
    (hr : pairTree comb (fun k => if v.active.getLsbD (l / 2 ^ (5 - c) * 2 ^ (5 - c) + k) then
      some (reduced s v x op (l / 2 ^ (5 - c) * 2 ^ (5 - c) + k)) else none) (5 - c) 0 = some r) :
    (redResults false x v s).filter (fun p => decide (p.1 = l)) = [(l, r)] := by
  obtain ⟨hg, hn⟩ := segWidth_eq hc5
  have hk := segment_lt hc5 hl
  have hcomb' : comb = fun a b => (redNum v.e.fmt (fmtOf v.e.fmt x.ty) (redRm v x.md) op a b).1 := by
    funext a b
    rw [hcomb, redNum_eq_combined]
  subst hop
  rw [redResults, if_neg Bool.false_ne_true, ← hc, hg, filter_allSegs (by positivity) (fun _ _ h => fst_mem_of_mem_segResult h) (hn ▸ hk)]
  exact filter_segResult_red (Nat.sub_le 5 c) ha (hcomb' ▸ hr)

/-- SCAN: each active lane receives the combination of the active lanes of its segment up to it, or before it (R217). -/
theorem redResults_scan (hop : op = (x.md.extractLsb' 0 3).toNat) (hc : c = (x.md.extractLsb' 4 3).toNat) (hc5 : c < 5) (hl : l < 32)
    (ha : v.active.getLsbD l = true) (hcomb : comb = combined v.e.fmt (fmtOf v.e.fmt x.ty) (redRm v x.md) op) :
    (redResults true x v s).filter (fun p => decide (p.1 = l)) = [(l, runningOf comb op (((List.range 32).filter fun k => v.active.getLsbD k &&
      decide (k / 2 ^ (5 - c) = l / 2 ^ (5 - c)) && (decide (k < l) || (!x.md.getLsbD 3 && decide (k = l)))).map fun k => reduced s v x op k))] := by
  obtain ⟨hg, hn⟩ := segWidth_eq hc5
  have hk := segment_lt hc5 hl
  have hcomb' : comb = fun a b => (redNum v.e.fmt (fmtOf v.e.fmt x.ty) (redRm v x.md) op a b).1 := by
    funext a b
    rw [hcomb, redNum_eq_combined]
  have hlanes : (List.range 32).filter (fun k => v.active.getLsbD k && decide (k / 2 ^ (5 - c) = l / 2 ^ (5 - c)) &&
      (decide (k < l) || (!x.md.getLsbD 3 && decide (k = l)))) =
      ((segLanes (2 ^ (5 - c)) (l / 2 ^ (5 - c))).filter fun k => v.active.getLsbD k).filter fun k => decide (k < l) || (!x.md.getLsbD 3 && decide (k = l)) := by
    rw [← filter_range_eq_segLanes c hc5 _ hk, List.filter_filter, List.filter_filter]
    refine List.filter_congr fun k _ => ?_
    ac_rfl
  subst hop
  rw [hlanes, redResults, if_pos rfl, ← hc, hg, filter_allSegs (by positivity) (fun _ _ h => fst_mem_of_mem_segResult h) (hn ▸ hk), hcomb']
  exact filter_segResult_scan (by positivity) ha (runningOf_nil _ _)

end

/-! ### RED and SCAN (R216, R217) -/

/-- What legality says of RED and SCAN: a segment code of at most 4, and a float type where the type is no integer. -/
theorem shRed_ok {f : W64} {scan : Bool} {ty : Ty} {md : BitVec 10} {ext : BitVec 14} (h : (shRed f scan ty md ext).ok = true) :
    (if scan then md.extractLsb' 4 3 else md.extractLsb' 3 3).toNat < 5 ∧ (tyIsInt ty = false → tyIsVpf ty = false) := by
  simp only [shRed, Bool.and_eq_true, Bool.or_eq_true, decide_eq_true_eq] at h
  obtain ⟨⟨⟨⟨hty, -⟩, hseg⟩, -⟩, -⟩ := h
  exact ⟨Nat.lt_succ_of_le hseg, fun hi => (tyIsVpf_of_float (hty.resolve_left (by simp [hi]))).1⟩

/-- The run of RED and SCAN, and the range of their destination. -/
theorem red_run {s s1 : State} {i : Instr} {x : LaForm} {scan : Bool} {p : LaneParts} {v : LaneEnv} (h : LaneReady s i p v s1)
    (hi : i = .red x ∧ scan = false ∨ i = .scan x ∧ scan = true) : exec i s = .next (redBody scan (srcsLa x) v s1) ∧
      (shRed v.e.fmt scan x.ty x.md x.ext).ok = true ∧ ∀ l ∈ actLanes v, slotInRange s1.cur x.d 1 l = true := by
  have hfmt := clauseFmt_of_running h.clause
  have hp := h.parts
  have hleg := h.legal
  rw [← hfmt] at hp hleg ⊢
  rcases hi with ⟨rfl, rfl⟩ | ⟨rfl, rfl⟩
  · cases hp
    obtain ⟨hok, hu⟩ := laOk_shape hleg
    exact ⟨exec_of_ready h rfl fun _ _ => rfl, hok, dest_inRange h (by simp [ofLa]) hu rfl⟩
  · cases hp
    obtain ⟨hok, hu⟩ := laOk_shape hleg
    exact ⟨exec_of_ready h rfl fun _ _ => rfl, hok, dest_inRange h (by simp [ofLa]) hu rfl⟩

/-- RED and SCAN over floats give each active lane its segment's tree or running combination, and no other lane anything (R216, R217). -/
theorem red_written {s s1 : State} {i : Instr} {x : LaForm} {scan : Bool} {p : LaneParts} {v : LaneEnv} (h : LaneReady s i p v s1)
    (hi : i = .red x ∧ scan = false ∨ i = .scan x ∧ scan = true) :
    exec i s = .next (redBody scan (srcsLa x) v s1) ∧ (tyIsInt x.ty = false →
       (∀ key, v.active.getLsbD (key % 32) = false → laneGet (redBody scan (srcsLa x) v s1).cur key = laneGet s1.cur key) ∧
       ∀ l, l < 32 → v.active.getLsbD l = true → ∀ f F op rm c comb, f = v.e.fmt → F = fmtOf f x.ty → op = (x.md.extractLsb' 0 3).toNat →
         rm = (if rmIn v x.md = .sr then .rne else rmIn v x.md) → c = (if scan then x.md.extractLsb' 4 3 else x.md.extractLsb' 3 3).toNat →
         comb = combined f F rm op →
         (scan = false → ∀ r, pairTree comb (fun k => if v.active.getLsbD (l / 2 ^ (5 - c) * 2 ^ (5 - c) + k) then
             some (reduced s1 v (srcsLa x) op (l / 2 ^ (5 - c) * 2 ^ (5 - c) + k)) else none) (5 - c) 0 = some r →
           holdsCode s1 (redBody scan (srcsLa x) v s1) v x.d x.ty l (roundTo f F .rne 0 r).1 x.yw) ∧
         (scan = true → ∀ lanes, lanes = (List.range 32).filter (fun k => v.active.getLsbD k &&
             decide (k / 2 ^ (5 - c) = l / 2 ^ (5 - c)) && (decide (k < l) || (!x.md.getLsbD 3 && decide (k = l)))) →
           holdsCode s1 (redBody scan (srcsLa x) v s1) v x.d x.ty l
             (roundTo f F .rne 0 (runningOf comb op (lanes.map fun k => reduced s1 v (srcsLa x) op k))).1 x.yw)) := by
  obtain ⟨hrun, hok, hrange⟩ := red_run h hi
  obtain ⟨hc5, hvpf⟩ := shRed_ok hok
  refine ⟨hrun, fun ht => ⟨fun key hkey => laneGet_redBody_of_inactive ht hkey, ?_⟩⟩
  rintro l hl ha _ _ op rm c comb rfl rfl hop hrm hc hcomb
  have hcode := fun n => holdsCode_redBody (x := srcsLa x) (scan := scan) (v := v) (n := n) ht (hvpf ht) hl (hrange l (mem_actLanes_of_bit ha))
  rw [← hc] at hc5
  subst hrm
  refine ⟨?_, ?_⟩
  · rintro rfl r hr
    exact hcode r (redResults_red (x := srcsLa x) hop hc hc5 hl ha hcomb hr)
  · rintro rfl lanes rfl
    exact hcode _ (redResults_scan (x := srcsLa x) hop hc hc5 hl ha hcomb)

end Sys2Proof.Machine
end

section
/-! Quotients and roots of FMATH: as near as one rounding needs, and exact where the result has a finite expansion (R206). -/
namespace Sys2Proof.Machine

open Sys2Proof.Claims

/-! ### A magnitude with an odd last bit where something was dropped -/

/-- What is added to the whole part of an inexact magnitude. -/
def stickyHalf (exact : Bool) : ℚ := if exact then 0 else 1 / 2

theorem stickyHalf_mem (exact : Bool) : 0 ≤ stickyHalf exact ∧ stickyHalf exact ≤ 1 / 2 := by
  unfold stickyHalf
  split <;> norm_num

theorem rational_sticky (neg : Bool) (q : Nat) (exact : Bool) (e : Int) :
    rational (sticky neg q exact e) = some (if neg then -((q + stickyHalf exact) * 2 ^ e) else (q + stickyHalf exact) * 2 ^ e) := by
  have hmag : exactly false (2 * q + (if exact then 0 else 1)) (e - 1) = (q + stickyHalf exact) * 2 ^ e := by
    rw [exactly_false, zpow_sub_one₀ two_ne_zero, stickyHalf]
    cases exact
    · simp only [Bool.false_eq_true, if_false]
      push_cast
      ring
    · simp only [if_true]
      push_cast
      ring
  rw [sticky, rational_fin, exactly_eq, hmag]

/-! ### Quotients -/

/-- A quotient that is an integer times a power of 2 is one with wp fraction bits, where the divisor is below 2^wp. -/
theorem dvd_of_dyadic {n d : Nat} (hd : d ≠ 0) (hlt : d < 2 ^ wp) {z j : Int} (h : (n : ℚ) / d = z * 2 ^ j) : d ∣ n * 2 ^ wp := by
  have hdq : (d : ℚ) ≠ 0 := Nat.cast_ne_zero.2 hd
  obtain ⟨k, hk⟩ : ∃ k : Nat, d ∣ n * 2 ^ k := by
    rw [div_eq_iff hdq] at h
    obtain ⟨k, rfl | rfl⟩ := Int.eq_nat_or_neg j
    · refine ⟨0, Int.natCast_dvd_natCast.1 ⟨z * 2 ^ k, ?_⟩⟩
      rw [zpow_natCast] at h
      push_cast
      have : (n : ℚ) * 2 ^ 0 = d * (z * 2 ^ k) := by rw [h]; ring
      exact_mod_cast this
    · refine ⟨k, Int.natCast_dvd_natCast.1 ⟨z, ?_⟩⟩
      rw [zpow_neg, zpow_natCast] at h
      have : (n : ℚ) * 2 ^ k = d * z := by
        rw [h]
        field_simp
      push_cast
      exact_mod_cast this
  obtain ⟨t, d', hodd, rfl⟩ := Nat.exists_eq_two_pow_mul_odd hd
  have hn : d' ∣ n := (hodd.coprime_two_right.pow_right k).dvd_of_dvd_mul_right ((Nat.dvd_mul_left _ _).trans hk)
  have ht : t ≤ wp := by
    have hle : 2 ^ t ≤ 2 ^ t * d' := Nat.le_mul_of_pos_right _ hodd.pos
    exact ((Nat.pow_lt_pow_iff_right (by decide)).1 (hle.trans_lt hlt)).le
  rw [Nat.mul_comm n]
  exact Nat.mul_dvd_mul (Nat.pow_dvd_pow 2 ht) hn

/-- The magnitude of a quotient: within 2^-600 in proportion, exact where it is dyadic. -/
theorem rational_quotNum (neg : Bool) (n : Nat) {d : Nat} (e : Int) (hd : d ≠ 0) (hlt : d < 2 ^ 24) : ∃ ρ : ℚ,
    rational (quotNum neg n d e) = some (if neg then -ρ else ρ) ∧ |ρ - n / d * 2 ^ e| ≤ n / d * 2 ^ e / 2 ^ 600 ∧
      ((∃ z i : Int, (n : ℚ) / d * 2 ^ e = z * 2 ^ i) → ρ = n / d * 2 ^ e) := by
  have hdq : (0 : ℚ) < d := Nat.cast_pos.2 (Nat.pos_of_ne_zero hd)
  have hu : (0 : ℚ) < 2 ^ (e - wp) := by positivity
  have hN : ((n <<< wp : Nat) : ℚ) = n * 2 ^ wp := by rw [Nat.shiftLeft_eq]; push_cast; rfl
  have hscale : (n : ℚ) / d * 2 ^ e = ((n <<< wp : Nat) : ℚ) / d * 2 ^ (e - wp) := by
    rw [hN, zpow_sub₀ two_ne_zero, zpow_natCast]
    field_simp
  have hdiv : ((n <<< wp : Nat) : ℚ) / d = ((n <<< wp) / d : Nat) + ((n <<< wp) % d : Nat) / d := by
    rw [div_eq_iff hdq.ne', add_mul, div_mul_cancel₀ _ hdq.ne']
    exact_mod_cast (Nat.div_add_mod' (n <<< wp) d).symm
  refine ⟨_, rational_sticky _ _ _ _, ?_⟩
  rw [hscale]
  by_cases h0 : (n <<< wp) % d = 0
  · have heq : ((((n <<< wp) / d : Nat) : ℚ) + stickyHalf (decide ((n <<< wp) % d = 0))) * 2 ^ (e - (wp : Int)) =
        ((n <<< wp : Nat) : ℚ) / d * 2 ^ (e - wp) := by
      rw [hdiv, h0, decide_eq_true rfl]
      simp [stickyHalf]
    rw [heq]
    refine ⟨?_, fun _ => rfl⟩
    rw [sub_self, abs_zero]
    exact div_nonneg (mul_nonneg (div_nonneg (Nat.cast_nonneg _) hdq.le) hu.le) (pow_pos two_pos 600).le
  · have hn : (1 : ℚ) ≤ n := by
      refine Nat.one_le_cast.2 (Nat.pos_of_ne_zero fun hn => h0 ?_)
      rw [hn, Nat.zero_shiftLeft, Nat.zero_mod]
    have hbig : (2 : ℚ) ^ 600 ≤ ((n <<< wp : Nat) : ℚ) / d := by
      have hd24 : (d : ℚ) ≤ 2 ^ 24 := by exact_mod_cast hlt.le
      rw [hN, le_div_iff₀ hdq]
      calc (2 : ℚ) ^ 600 * d ≤ 2 ^ 600 * 2 ^ 24 := mul_le_mul_of_nonneg_left hd24 (pow_pos two_pos 600).le
        _ = 2 ^ (600 + 24) := (pow_add _ _ _).symm
        _ ≤ 2 ^ wp := pow_le_pow_right₀ one_le_two (by decide)
        _ ≤ n * 2 ^ wp := le_mul_of_one_le_left (by positivity) hn
    have hfrac : (0 : ℚ) ≤ ((n <<< wp) % d : Nat) / d ∧ (((n <<< wp) % d : Nat) : ℚ) / d < 1 := by
      refine ⟨div_nonneg (Nat.cast_nonneg _) hdq.le, (div_lt_one hdq).2 ?_⟩
      exact_mod_cast Nat.mod_lt _ (Nat.pos_of_ne_zero hd)
    have herr : |(((n <<< wp) / d : Nat) : ℚ) + 1 / 2 - ((n <<< wp : Nat) : ℚ) / d| ≤ ((n <<< wp : Nat) : ℚ) / d / 2 ^ 600 := by
      have h1 : (1 : ℚ) ≤ ((n <<< wp : Nat) : ℚ) / d / 2 ^ 600 := (one_le_div (pow_pos two_pos 600)).2 hbig
      refine le_trans ?_ h1
      rw [hdiv, abs_le]
      constructor <;> linarith [hfrac.1, hfrac.2]
    refine ⟨?_, fun ⟨z, i, hz⟩ => absurd ?_ h0⟩
    · rw [decide_eq_false h0, stickyHalf, if_neg Bool.false_ne_true, ← sub_mul, abs_mul, abs_of_pos hu, mul_div_right_comm]
      exact mul_le_mul_of_nonneg_right herr hu.le
    · rw [← hscale] at hz
      have hz' : (n : ℚ) / d = z * 2 ^ (i - e) := by
        rw [zpow_sub₀ two_ne_zero, ← mul_div_assoc, ← hz]
        field_simp
      have h24 : 2 ^ 24 < 2 ^ wp := Nat.pow_lt_pow_right (by decide) (by decide)
      rw [Nat.shiftLeft_eq]
      exact Nat.mod_eq_zero_of_dvd (dvd_of_dyadic hd (hlt.trans h24) hz')

theorem exactly_div (s k : Bool) (m p : Nat) (e h : Int) :
    exactly s m e / exactly k p h = if s != k then -((m : ℚ) / p * 2 ^ (e - h)) else (m : ℚ) / p * 2 ^ (e - h) := by
  have hmag : exactly false m e / exactly false p h = (m : ℚ) / p * 2 ^ (e - h) := by
    rw [exactly_false, exactly_false, zpow_sub₀ two_ne_zero, mul_div_mul_comm]
  rw [exactly_eq s, exactly_eq k, ← hmag]
  cases s <;> cases k <;> simp [neg_div, div_neg]

/-- The quotient of two finite numbers, the divisor not zero (R206). -/
theorem quotNum_spec (s k : Bool) (m : Nat) {p : Nat} (e h : Int) (hp : p ≠ 0) (hlt : p < 2 ^ 24) : ∃ r, rational (quotNum (s != k) m p (e - h)) = some r ∧
    |r - exactly s m e / exactly k p h| ≤ |exactly s m e / exactly k p h| / 2 ^ 600 ∧
      ∀ z i : Int, exactly s m e / exactly k p h = z * 2 ^ i → r = z * 2 ^ i := by
  obtain ⟨ρ, hr, herr, hexact⟩ := rational_quotNum (s != k) m (e - h) hp hlt
  have hq0 : (0 : ℚ) ≤ (m : ℚ) / p * 2 ^ (e - h) := by positivity
  refine ⟨_, hr, ?_, fun z i hz => ?_⟩
  · rw [exactly_div]
    split
    · rwa [neg_sub_neg, abs_sub_comm, abs_neg, abs_of_nonneg hq0]
    · rwa [abs_of_nonneg hq0]
  · rw [exactly_div] at hz
    split at hz
    · next hneg =>
      have hz' : (m : ℚ) / p * 2 ^ (e - h) = (-z : Int) * 2 ^ i := by
        push_cast
        linarith
      rw [if_pos hneg, hexact ⟨-z, i, hz'⟩]
      exact hz
    · next hneg =>
      rw [if_neg hneg, hexact ⟨z, i, hz⟩]
      exact hz

/-- a / b with its special cases (R206). -/
theorem quotientIs_divNum {a b : Num} (hb : ∀ k p h, b = .fin k p h → p < 2 ^ 24) : quotientIs a b (divNum a b).1 := by
  cases a
  case nan => cases b <;> exact rfl
  case inf s => cases b <;> exact rfl
  case fin s m e =>
    cases b
    case nan | inf => exact rfl
    case fin k p h =>
      unfold quotientIs divNum
      dsimp only
      by_cases hp : p = 0
      · rw [if_pos hp, if_pos hp]
        split <;> rfl
      · rw [if_neg hp, if_neg hp]
        exact quotNum_spec s k m e h hp (hb k p h rfl)

/-! ### Square roots -/

theorem isqrtBits_spec {n : Nat} : ∀ {k r : Nat}, r * r ≤ n → n < (r + 2 ^ k) * (r + 2 ^ k) →
    isqrtBits n k r * isqrtBits n k r ≤ n ∧ n < (isqrtBits n k r + 1) * (isqrtBits n k r + 1)
  | 0, _, h1, h2 => ⟨h1, h2⟩
  | k + 1, r, h1, h2 => by
    rw [isqrtBits]
    by_cases h : (r + 2 ^ k) * (r + 2 ^ k) ≤ n
    · rw [if_pos h]
      refine isqrtBits_spec h ?_
      rwa [Nat.add_assoc, ← Nat.two_mul, ← Nat.pow_succ']
    · rw [if_neg h]
      exact isqrtBits_spec h1 (not_le.1 h)

/-- The bitwise root is the floor of the square root. -/
theorem isqrt_eq_sqrt (n : Nat) : isqrt n = Nat.sqrt n := by
  have hlt : n < (0 + 2 ^ (n.log2 / 2 + 1)) * (0 + 2 ^ (n.log2 / 2 + 1)) := by
    rw [Nat.zero_add, ← Nat.pow_add]
    exact Nat.lt_log2_self.trans_le (Nat.pow_le_pow_right two_pos (by omega))
  obtain ⟨h1, h2⟩ := isqrtBits_spec (Nat.zero_le n) hlt
  exact Nat.eq_sqrt.2 ⟨h1, h2⟩

/-- A number m * 2^e with an even exponent. -/
theorem evenExp_spec (m : Nat) (e : Int) : m ≤ (evenExp m e).1 ∧ (evenExp m e).1 ≤ 2 * m ∧
    exactly false m e = (evenExp m e).1 * (2 ^ ((evenExp m e).2 / 2)) ^ 2 := by
  have hsq : ∀ x : Int, x % 2 = 0 → ((2 : ℚ) ^ (x / 2)) ^ 2 = 2 ^ x := fun x hx => by
    rw [← zpow_natCast, ← zpow_mul]
    congr 1
    omega
  unfold evenExp
  split
  · next h => exact ⟨le_refl _, by dsimp only; omega, by rw [exactly_false, hsq e h]⟩
  · next h =>
    refine ⟨by dsimp only; omega, le_refl _, ?_⟩
    rw [exactly_false, hsq (e - 1) (by omega), zpow_sub_one₀ two_ne_zero]
    push_cast
    ring

/-- A root with its half is as near to the number as the next integer root. -/
theorem sqrt_near (n : Nat) {δ : ℚ} (hδ : 0 ≤ δ ∧ δ ≤ 1 / 2) : |((n.sqrt : ℚ) + δ) ^ 2 - n| ≤ 2 * n.sqrt + 1 := by
  have h1 : (n.sqrt : ℚ) * n.sqrt ≤ n := by exact_mod_cast Nat.sqrt_le n
  have h2 : (n : ℚ) < (n.sqrt + 1) * (n.sqrt + 1) := by exact_mod_cast Nat.lt_succ_sqrt n
  have h0 : (0 : ℚ) ≤ n.sqrt := by positivity
  obtain ⟨hlo, hhi⟩ := hδ
  have hsδ : (n.sqrt : ℚ) * δ ≤ n.sqrt * (1 / 2) := mul_le_mul_of_nonneg_left hhi h0
  have hδδ : δ * δ ≤ 1 / 2 * (1 / 2) := mul_le_mul hhi hhi hlo (by norm_num)
  have hsq : (n.sqrt + δ) ^ 2 = n.sqrt * n.sqrt + 2 * (n.sqrt * δ) + δ * δ := by ring
  rw [abs_le]
  constructor <;> linarith [mul_nonneg h0 hlo, mul_nonneg hlo hlo]

theorem one_le_isqrt {n : Nat} (h : 0 < n) : (1 : ℚ) ≤ n.sqrt := by exact_mod_cast Nat.sqrt_pos.2 h

/-- 2^wp and its square, against the 2^600 of R206's nearness. -/
theorem two_pow_wp_large : (2 : ℚ) ^ 600 * 2 ^ 30 ≤ 2 ^ wp := by
  rw [← pow_add]
  exact pow_le_pow_right₀ one_le_two (by decide)

theorem cast_shiftLeft_two_wp (m : Nat) : ((m <<< (2 * wp) : Nat) : ℚ) = m * (2 ^ wp) ^ 2 := by
  rw [Nat.shiftLeft_eq, Nat.mul_comm 2, pow_mul]
  push_cast
  rfl

/-- A positive rational root of an integer times an even power of 2 is an integer times its root. -/
theorem exists_nat_root {M : Nat} {x : ℚ} (hx : 0 < x) {u : ℚ} (hu : 0 < u) (h : x ^ 2 = M * u ^ 2) : ∃ k : Nat, k * k = M ∧ x = k * u := by
  have hsq : (x / u) * (x / u) = M := by
    field_simp
    linarith
  obtain ⟨k, hk⟩ : IsSquare M := Rat.isSquare_natCast_iff.1 ⟨x / u, hsq.symm⟩
  refine ⟨k, hk.symm, ?_⟩
  have hxu : (x / u) ^ 2 = (k : ℚ) ^ 2 := by
    rw [sq, hsq, hk]
    push_cast
    ring
  rw [← div_eq_iff hu.ne']
  exact (pow_left_inj₀ (by positivity) (by positivity) two_ne_zero).1 hxu

/-- A root with its half, against a number whose root is at least 2^wp. -/
theorem sqrt_near_large {n : Nat} (hn : (2 : ℚ) ^ wp ≤ n.sqrt) {δ : ℚ} (hδ : 0 ≤ δ ∧ δ ≤ 1 / 2) : |((n.sqrt : ℚ) + δ) ^ 2 - n| ≤ n / 2 ^ 600 := by
  have hK : (1 : ℚ) ≤ 2 ^ 600 := one_le_pow₀ one_le_two
  have hw := two_pow_wp_large
  have h1 : (n.sqrt : ℚ) * n.sqrt ≤ n := by exact_mod_cast Nat.sqrt_le n
  have hnear := sqrt_near n hδ
  generalize (2 : ℚ) ^ 600 = K at *
  generalize (2 : ℚ) ^ wp = W at *
  rw [le_div_iff₀ (by linarith)]
  have h3 : K * 3 ≤ n.sqrt := by linarith
  calc |((n.sqrt : ℚ) + δ) ^ 2 - n| * K ≤ (2 * n.sqrt + 1) * K := mul_le_mul_of_nonneg_right hnear (by linarith)
    _ ≤ n.sqrt * (3 * K) := by linarith [mul_le_mul_of_nonneg_right (show (1 : ℚ) ≤ n.sqrt by linarith) (show 0 ≤ K by linarith)]
    _ ≤ n.sqrt * n.sqrt := mul_le_mul_of_nonneg_left (by linarith) (by linarith)
    _ ≤ n := h1

/-- The square root of a positive number (R206). -/
theorem sqrtNum_spec {m : Nat} (e : Int) (hm : m ≠ 0) : ∃ r, rational (sqrtNum m e) = some r ∧ 0 < r ∧
    |r ^ 2 - exactly false m e| ≤ exactly false m e / 2 ^ 600 ∧ ∀ x : ℚ, 0 < x → x ^ 2 = exactly false m e → r = x := by
  obtain ⟨hle, -, hv⟩ := evenExp_spec m e
  obtain ⟨M, h, hM⟩ : ∃ M h, evenExp m e = (M, h) := ⟨_, _, rfl⟩
  rw [hM] at hle hv
  dsimp only at hle hv
  have hn := cast_shiftLeft_two_wp M
  have hu : (0 : ℚ) < 2 ^ (h / 2 - wp) := by positivity
  have hW : (0 : ℚ) < 2 ^ wp := pow_pos two_pos wp
  have hscale : (2 : ℚ) ^ (h / 2) = 2 ^ wp * 2 ^ (h / 2 - wp) := by
    rw [← zpow_natCast, ← zpow_add₀ two_ne_zero, add_sub_cancel]
  have hvn : exactly false m e = ((M <<< (2 * wp) : Nat) : ℚ) * (2 ^ (h / 2 - wp)) ^ 2 := by
    rw [hv, hn, hscale]
    ring
  have hroot : (2 : ℚ) ^ wp ≤ (M <<< (2 * wp)).sqrt := by
    have : 2 ^ wp ≤ (M <<< (2 * wp)).sqrt := by
      rw [Nat.le_sqrt, Nat.shiftLeft_eq, ← Nat.pow_add, ← Nat.two_mul]
      exact Nat.le_mul_of_pos_left _ (by omega)
    rw [← Nat.cast_le (α := ℚ), Nat.cast_pow, Nat.cast_ofNat] at this
    exact this
  have hδ := stickyHalf_mem (decide ((M <<< (2 * wp)).sqrt * (M <<< (2 * wp)).sqrt = M <<< (2 * wp)))
  have hval : sqrtNum m e = sticky false (M <<< (2 * wp)).sqrt (decide ((M <<< (2 * wp)).sqrt * (M <<< (2 * wp)).sqrt = M <<< (2 * wp))) (h / 2 - wp) := by
    rw [sqrtNum, hM]
    dsimp only
    rw [isqrt_eq_sqrt]
  refine ⟨_, by rw [hval]; exact rational_sticky _ _ _ _, ?_, ?_, fun x hx hxx => ?_⟩
  · rw [if_neg Bool.false_ne_true]
    exact mul_pos (by linarith) hu
  · rw [if_neg Bool.false_ne_true, hvn, mul_pow, ← sub_mul, abs_mul, abs_of_nonneg (pow_nonneg hu.le 2), mul_div_right_comm]
    exact mul_le_mul_of_nonneg_right (sqrt_near_large hroot hδ) (pow_nonneg hu.le 2)
  · obtain ⟨k, hk, rfl⟩ := exists_nat_root hx (u := 2 ^ (h / 2)) (by positivity) (hxx.trans hv)
    have hsquare : M <<< (2 * wp) = (k * 2 ^ wp) * (k * 2 ^ wp) := by
      rw [Nat.shiftLeft_eq, ← hk, Nat.mul_comm 2, Nat.pow_mul]
      ring
    rw [if_neg Bool.false_ne_true, hsquare, Nat.sqrt_eq, decide_eq_true rfl, stickyHalf, if_pos rfl, hscale]
    push_cast
    ring

/-- The root of W² / M with its half, against W² / M itself. -/
theorem rsqrt_near {n M W : ℚ} {s : Nat} (h1 : (s : ℚ) * s ≤ n) (h2 : n + 1 ≤ (s + 1) * (s + 1)) (hn : n * M ≤ W ^ 2) (hn1 : W ^ 2 < (n + 1) * M)
    (hM : 1 ≤ M) (hM25 : M ≤ 2 ^ 25) (hW : (2 : ℚ) ^ 600 * 2 ^ 30 ≤ W) {δ : ℚ} (hδ : 0 ≤ δ ∧ δ ≤ 1 / 2) :
    |(s + δ) ^ 2 * M - W ^ 2| ≤ W ^ 2 / 2 ^ 600 := by
  have hK : (1 : ℚ) ≤ 2 ^ 600 := one_le_pow₀ one_le_two
  generalize (2 : ℚ) ^ 600 = K at *
  have hs : (0 : ℚ) ≤ s := Nat.cast_nonneg s
  obtain ⟨hlo, hhi⟩ := hδ
  have hW1 : 1 ≤ W := by linarith
  have hsW : (s : ℚ) ≤ W := by
    have hn0 : 0 ≤ n := (mul_self_nonneg _).trans h1
    have hsq : (s : ℚ) ^ 2 ≤ W ^ 2 := by linarith [le_mul_of_one_le_right hn0 hM]
    exact (pow_le_pow_iff_left₀ hs (by linarith) two_ne_zero).1 hsq
  have hnear : |(s + δ) ^ 2 * M - W ^ 2| ≤ (2 * s + 1) * M := by
    have hlower : (s : ℚ) * s * M ≤ W ^ 2 := (mul_le_mul_of_nonneg_right h1 (by linarith)).trans hn
    have hupper : W ^ 2 ≤ (s + 1) * (s + 1) * M := hn1.le.trans (mul_le_mul_of_nonneg_right h2 (by linarith))
    have hδδ : δ * δ ≤ 1 / 2 * (1 / 2) := mul_le_mul hhi hhi hlo (by norm_num)
    have hsδ : (s : ℚ) * δ ≤ s * (1 / 2) := mul_le_mul_of_nonneg_left hhi hs
    have hsq : (s + δ) ^ 2 = s * s + 2 * (s * δ) + δ * δ := by ring
    have e1 : (s + δ) ^ 2 * M ≤ (s * s + s + 1 / 4) * M := mul_le_mul_of_nonneg_right (by linarith) (by linarith)
    have e2 : (s : ℚ) * s * M ≤ (s + δ) ^ 2 * M :=
      mul_le_mul_of_nonneg_right (by linarith [mul_nonneg hs hlo, mul_nonneg hlo hlo]) (by linarith)
    have hsM : 0 ≤ (s : ℚ) * M := mul_nonneg hs (by linarith)
    rw [abs_le]
    constructor <;> linarith
  rw [le_div_iff₀ (by linarith)]
  calc |(s + δ) ^ 2 * M - W ^ 2| * K ≤ (2 * s + 1) * M * K := mul_le_mul_of_nonneg_right hnear (by linarith)
    _ ≤ (3 * W) * 2 ^ 25 * K := by gcongr; linarith
    _ = W * (K * (3 * 2 ^ 25)) := by ring
    _ ≤ W * W := mul_le_mul_of_nonneg_left (by linarith) (by linarith)
    _ = W ^ 2 := (sq W).symm

/-- The inverse square root of a positive number below 2^24 in significand (R206). -/
theorem rsqrtNum_spec {m : Nat} (e : Int) (hm : m ≠ 0) (hlt : m < 2 ^ 24) : ∃ r, rational (rsqrtNum m e) = some r ∧ 0 < r ∧
    |r ^ 2 * exactly false m e - 1| ≤ 1 / 2 ^ 600 := by
  obtain ⟨hle, hle2, hv⟩ := evenExp_spec m e
  obtain ⟨M, h, hM⟩ : ∃ M h, evenExp m e = (M, h) := ⟨_, _, rfl⟩
  rw [hM] at hle hle2 hv
  dsimp only at hle hle2 hv
  have hW : (0 : ℚ) < 2 ^ wp := pow_pos two_pos wp
  have hX : ((1 <<< (2 * wp) : Nat) : ℚ) = (2 ^ wp) ^ 2 := (cast_shiftLeft_two_wp 1).trans (by rw [Nat.cast_one, one_mul])
  have hMX : M ≤ 1 <<< (2 * wp) := by
    have h25 : M ≤ 2 ^ 25 := by omega
    have hexp : 25 ≤ 2 * wp := by decide
    rw [Nat.one_shiftLeft]
    exact h25.trans (pow_le_pow_right₀ one_le_two hexp)
  obtain ⟨n, hn⟩ : ∃ n, n = (1 <<< (2 * wp)) / M := ⟨_, rfl⟩
  have hn0 : 0 < n := hn ▸ Nat.div_pos hMX (by omega)
  have hnM : (n : ℚ) * M ≤ (2 ^ wp) ^ 2 := by
    rw [← hX, ← Nat.cast_mul, Nat.cast_le, hn]
    exact Nat.div_mul_le_self _ _
  have hnM1 : (2 ^ wp) ^ 2 < ((n : ℚ) + 1) * M := by
    rw [← hX, ← Nat.cast_add_one, ← Nat.cast_mul, Nat.cast_lt, hn]
    exact (Nat.lt_mul_div_succ _ (by omega)).trans_eq (Nat.mul_comm _ _)
  have hs1 : (n.sqrt : ℚ) * n.sqrt ≤ n := by exact_mod_cast Nat.sqrt_le n
  have hs2 : (n : ℚ) + 1 ≤ (n.sqrt + 1) * (n.sqrt + 1) := by exact_mod_cast Nat.lt_succ_sqrt n
  have hval : rsqrtNum m e = sticky false n.sqrt (decide (n.sqrt * n.sqrt * M = 1 <<< (2 * wp))) (-(h / 2) - wp) := by
    rw [rsqrtNum, hM, hn]
    dsimp only
    rw [isqrt_eq_sqrt]
  have hδ := stickyHalf_mem (decide (n.sqrt * n.sqrt * M = 1 <<< (2 * wp)))
  refine ⟨_, by rw [hval]; exact rational_sticky _ _ _ _, ?_, ?_⟩
  · rw [if_neg Bool.false_ne_true]
    have := one_le_isqrt hn0
    exact mul_pos (by linarith) (by positivity)
  · generalize stickyHalf _ = δ at *
    have hnear := rsqrt_near hs1 hs2 hnM hnM1 (by exact_mod_cast (show 1 ≤ M by omega)) (by exact_mod_cast (show M ≤ 2 ^ 25 by omega)) two_pow_wp_large hδ
    have heq : ((n.sqrt + δ) * (2 : ℚ) ^ (-(h / 2) - wp : Int)) ^ 2 * exactly false m e - 1 = ((n.sqrt + δ) ^ 2 * M - (2 ^ wp) ^ 2) / (2 ^ wp) ^ 2 := by
      rw [hv, zpow_sub₀ two_ne_zero, zpow_neg, zpow_natCast]
      field_simp
    rw [if_neg Bool.false_ne_true, heq, abs_div, abs_of_pos (pow_pos hW 2), div_le_iff₀ (pow_pos hW 2), one_div_mul_eq_div]
    exact hnear

end Sys2Proof.Machine
end

section
/-! The other functions of FMATH where their value is exact, and the settlement of O25 (R206). -/
namespace Sys2Proof.Machine

open Sys2Proof.Claims

/-! ### The functions on finite numbers (R206) -/

/-- A finite value of a half turn with its argument's sign, no flag. -/
def signedTurn (neg : Bool) : Num → Num × Nat
  | .fin k q h => (.fin (neg != k) q h, 0)
  | x => (x, 0)

section
variable (neg : Bool) (m : Nat) (e : Int) (b : Num)

theorem fmathVal_recip_fin : fmathVal 0 (.fin neg m e) b = if m = 0 then (.inf neg, fDZ) else (quotNum neg 1 m (-e), 0) := rfl

theorem fmathVal_rsqrt_fin : fmathVal 1 (.fin neg m e) b =
    if m = 0 then (.inf neg, fDZ) else if neg then (.nan, fNV) else (rsqrtNum m e, 0) := rfl

theorem fmathVal_sqrt_fin : fmathVal 2 (.fin neg m e) b =
    if m = 0 then (.fin neg 0 0, 0) else if neg then (.nan, fNV) else (sqrtNum m e, 0) := rfl

theorem fmathVal_log_fin : fmathVal 4 (.fin neg m e) b =
    if m = 0 then (.inf true, fDZ) else if neg then (.nan, fNV) else (log2Num m e, 0) := rfl

theorem fmathVal_sin_fin : fmathVal 5 (.fin neg m e) b =
    if m = 0 || isInteger m e then (.fin neg 0 0, 0)
    else signedTurn neg (sinTurn (fixOf m e)) := by
  simp only [fmathVal]
  generalize sinTurn (fixOf m e) = t
  cases t <;> rfl

theorem fmathVal_cos_fin : fmathVal 6 (.fin neg m e) b =
    if m = 0 then (.fin false 1 0, 0) else (sinTurn (fixOf m (min e 4) + 2 ^ (wp - 1)), 0) := by
  simp only [fmathVal]

theorem fmathVal_tanh_fin : fmathVal 7 (.fin neg m e) b = if m = 0 then (.fin neg 0 0, 0) else (tanhNum neg m e, 0) := rfl

end

/-! ### Fixed point and integers -/

/-- A multiple of 2^-wp is exact in fixed point. -/
theorem fixOf_eq {m : Nat} {e : Int} {n : Nat} (h : exactly false m e * 2 ^ wp = n) : fixOf m e = n := by
  have hv : (m : ℚ) * 2 ^ (e + wp) = n := by
    rw [← h, exactly_false, zpow_add₀ two_ne_zero, zpow_natCast, mul_assoc]
  unfold fixOf
  split
  · next h0 =>
    obtain ⟨k, hk⟩ := Int.eq_ofNat_of_zero_le h0
    rw [hk, zpow_natCast] at hv
    rw [hk, Int.toNat_natCast, Nat.shiftLeft_eq]
    exact_mod_cast hv
  · next h0 =>
    obtain ⟨k, hk⟩ := Int.eq_ofNat_of_zero_le (show 0 ≤ -(e + wp) by omega)
    have hm : (m : ℚ) = n * 2 ^ k := by
      rw [← hv, ← zpow_natCast, ← hk, mul_assoc, ← zpow_add₀ two_ne_zero, add_neg_cancel, zpow_zero, mul_one]
    have hm' : m = n * 2 ^ k := by exact_mod_cast hm
    rw [hk, Int.toNat_natCast, Nat.shiftRight_eq_div_pow, hm', Nat.mul_div_cancel _ (by positivity)]

theorem cast_mul_two_wp (k : Nat) : ((k * 2 ^ wp : Nat) : ℚ) = k * 2 ^ wp := by
  rw [Nat.cast_mul, Nat.cast_pow, Nat.cast_ofNat]

theorem isInteger_iff (m : Nat) (e : Int) : isInteger m e = true ↔ ∃ k : Nat, exactly false m e = k := by
  unfold isInteger
  rcases le_or_gt 0 e with h | h
  · obtain ⟨j, rfl⟩ := Int.eq_ofNat_of_zero_le h
    refine ⟨fun _ => ⟨m * 2 ^ j, ?_⟩, fun _ => by simp⟩
    rw [exactly_false, zpow_natCast]
    push_cast
    rfl
  · obtain ⟨j, rfl⟩ : ∃ j : Nat, e = -j := ⟨(-e).toNat, by omega⟩
    have hval : ∀ k : Nat, exactly false m (-j) = k ↔ m = k * 2 ^ j := fun k => by
      rw [exactly_false, zpow_neg, zpow_natCast, ← div_eq_mul_inv, div_eq_iff (by positivity)]
      exact_mod_cast Iff.rfl
    simp only [hval, neg_neg, Int.toNat_natCast, Bool.or_eq_true, decide_eq_true_eq, not_le.2 h, false_or]
    constructor
    · exact fun h0 => ⟨m / 2 ^ j, (Nat.div_mul_cancel (Nat.dvd_of_mod_eq_zero h0)).symm⟩
    · rintro ⟨k, rfl⟩
      exact Nat.mul_mod_left _ _

/-- The magnitude of a value that is an integer. -/
theorem exactly_false_of_int {neg : Bool} {m : Nat} {e z : Int} (h : exactly neg m e = z) : exactly false m e = z.natAbs := by
  rw [← abs_exactly neg, h, Nat.cast_natAbs, Int.cast_abs]

/-- A value other than zero that is an integer has its sign. -/
theorem neg_of_int {neg : Bool} {m : Nat} {e z : Int} (hm : m ≠ 0) (h : exactly neg m e = z) : neg = decide (z < 0) := by
  rw [Bool.eq_iff_iff, ← exactly_neg_iff e hm, h, decide_eq_true_eq, Int.cast_lt_zero]

/-! ### Powers of 2 and their logarithms -/

theorem powerIs_exp2 (a b : Num) : powerIs a (fmathVal 3 a b).1 := by
  cases a
  case nan => exact rfl
  case inf neg => cases neg <;> exact rfl
  case fin neg m e =>
    intro z hz hv
    have hmag := exactly_false_of_int hv
    change rational (exp2Num neg m e) = _
    unfold exp2Num
    by_cases hm : m = 0
    · subst hm
      have hz0 : z = 0 := by simpa using hmag.symm
      rw [if_pos rfl, hz0]
      simp [rational]
    · have hsmall : ¬ 12 ≤ expOf m e := fun hle => by
        have h1 := (two_zpow_le hle).trans (two_zpow_expOf_le e hm).1
        rw [hmag, Nat.cast_natAbs] at h1
        have h2 : (4096 : Int) ≤ |z| := by
          have h3 : ((4096 : Int) : ℚ) ≤ (|z| : Int) := le_trans (by norm_num) h1
          exact_mod_cast h3
        omega
      have hf : fixOf m e = z.natAbs * 2 ^ wp := fixOf_eq (by rw [hmag, cast_mul_two_wp])
      have hneg := neg_of_int hm hv
      rw [if_neg hm, if_neg hsmall]
      dsimp only
      rw [hf, Nat.mul_mod_left, if_pos rfl, Nat.shiftRight_eq_div_pow, Nat.mul_div_cancel _ (by positivity), rational_fin, exactly_false,
        Nat.cast_one, one_mul]
      congr 2
      by_cases hz0 : z < 0
      · rw [hneg, if_pos (decide_eq_true hz0)]
        omega
      · rw [hneg, if_neg (by simpa using hz0)]
        omega

theorem logIs_log2 (a b : Num) : logIs a (fmathVal 4 a b).1 := by
  cases a
  case nan => exact rfl
  case inf neg => cases neg <;> exact rfl
  case fin neg m e =>
    rw [fmathVal_log_fin]
    unfold logIs
    dsimp only
    by_cases hm : m = 0
    · rw [if_pos hm, if_pos hm]
    · rw [if_neg hm, if_neg hm]
      cases neg
      · intro z hz
        have hexp : expOf m e = z := expOf_unique hm hz.ge (hz ▸ two_zpow_lt (Int.lt_succ z))
        have hpow : m = 2 ^ m.log2 := by
          have h1 : (m : ℚ) * 2 ^ e = 2 ^ m.log2 * 2 ^ e := by
            rw [← exactly_false, hz, ← hexp, expOf, zpow_add₀ two_ne_zero, zpow_natCast, mul_comm]
          have h2 := mul_right_cancel₀ (two_zpow_pos e).ne' h1
          exact_mod_cast h2
        change rational (log2Num m e) = _
        rw [log2Num, if_pos hpow, hexp, rational_fin, exactly_natAbs, zpow_zero, mul_one]
      · exact rfl

/-! ### Sines and cosines of multiples of one half -/

theorem wp_pos : 1 ≤ wp := by decide

/-- The sine of a whole turn or half a turn is 0. -/
theorem sinTurn_whole (k : Nat) : sinTurn (k * 2 ^ wp) = .fin false 0 0 := by
  have hmod : k * 2 ^ wp % 2 ^ (wp + 1) % 2 ^ wp = 0 := by
    rw [Nat.mod_mod_of_dvd _ (Nat.pow_dvd_pow 2 (Nat.le_succ wp)), Nat.mul_mod_left]
  unfold sinTurn
  dsimp only
  rw [hmod, if_neg (Nat.not_lt_zero _), if_pos rfl]

/-- The sine of a quarter turn and k half turns is 1 or -1. -/
theorem sinTurn_half (k : Nat) : sinTurn (k * 2 ^ wp + 2 ^ (wp - 1)) = .fin (decide (k % 2 = 1)) 1 0 := by
  have hW : 2 ^ wp = 2 * 2 ^ (wp - 1) := by rw [← Nat.pow_succ', Nat.succ_eq_add_one, Nat.sub_add_cancel wp_pos]
  have h2W : 2 ^ (wp + 1) = 2 * 2 ^ wp := by rw [Nat.pow_succ']
  have hH : 0 < 2 ^ (wp - 1) := by positivity
  have hturn : (k * 2 ^ wp + 2 ^ (wp - 1)) % 2 ^ (wp + 1) = k % 2 * 2 ^ wp + 2 ^ (wp - 1) := by
    have hk : k * 2 ^ wp + 2 ^ (wp - 1) = (k % 2 * 2 ^ wp + 2 ^ (wp - 1)) + 2 ^ (wp + 1) * (k / 2) := by
      rw [h2W]
      conv_lhs => rw [← Nat.div_add_mod k 2]
      ring
    have hlt : k % 2 * 2 ^ wp ≤ 1 * 2 ^ wp := Nat.mul_le_mul_right _ (Nat.le_of_lt_succ (Nat.mod_lt k two_pos))
    rw [hk, Nat.add_mul_mod_self_left, Nat.mod_eq_of_lt (by omega)]
  have hfrac : (k % 2 * 2 ^ wp + 2 ^ (wp - 1)) % 2 ^ wp = 2 ^ (wp - 1) := by
    rw [Nat.add_comm, Nat.add_mul_mod_self_right, Nat.mod_eq_of_lt (by omega)]
  have hneg : decide (2 ^ wp ≤ k % 2 * 2 ^ wp + 2 ^ (wp - 1)) = decide (k % 2 = 1) := by
    rcases Nat.mod_two_eq_zero_or_one k with h | h <;> rw [h, decide_eq_decide] <;> omega
  unfold sinTurn
  dsimp only
  rw [hturn, hfrac, hneg, if_neg (lt_irrefl _), if_neg hH.ne', if_pos rfl]

/-- Fixed point of an integer and a half. -/
theorem cast_half_two_wp (k : Nat) : ((k * 2 ^ wp + 2 ^ (wp - 1) : Nat) : ℚ) = (k + 1 / 2) * 2 ^ wp := by
  have hW : (2 : ℚ) ^ wp = 2 ^ (wp - 1) * 2 := (pow_sub_one_mul (Nat.one_le_iff_ne_zero.1 wp_pos) (2 : ℚ)).symm
  rw [Nat.cast_add, cast_mul_two_wp, Nat.cast_pow, Nat.cast_ofNat, hW]
  ring

/-- The magnitude of a value that is an integer and a half, its sign and the parity of its whole part. -/
theorem half_of_exactly {neg : Bool} {m : Nat} {e z : Int} (h : exactly neg m e = z + 1 / 2) :
    ∃ k : Nat, exactly false m e = k + 1 / 2 ∧ m ≠ 0 ∧ neg = decide (z < 0) ∧ ((neg != decide (k % 2 = 1)) = decide (z % 2 ≠ 0)) := by
  have hne : (z : ℚ) + 1 / 2 ≠ 0 := by
    intro h0
    have : ((2 * z + 1 : Int) : ℚ) = (0 : Int) := by
      push_cast
      linarith
    have := Int.cast_injective this
    omega
  have hm : m ≠ 0 := by
    rintro rfl
    rw [exactly_zero] at h
    exact hne h.symm
  have hsign : neg = decide (z < 0) := by
    rw [Bool.eq_iff_iff, ← exactly_neg_iff e hm, h, decide_eq_true_eq]
    constructor
    · intro hlt
      by_contra hz
      have : (0 : ℚ) ≤ z := by exact_mod_cast not_lt.1 hz
      linarith
    · intro hz
      have : (z : ℚ) ≤ -1 := by exact_mod_cast Int.le_sub_one_of_lt hz
      linarith
  rw [exactly_eq] at h
  rcases lt_or_ge z 0 with hz | hz
  · rw [if_pos (hsign.trans (decide_eq_true hz))] at h
    obtain ⟨k, hk⟩ := Int.eq_ofNat_of_zero_le (show 0 ≤ -z - 1 by omega)
    have hkq : (k : ℚ) = -z - 1 := by exact_mod_cast hk.symm
    refine ⟨k, by linarith, hm, hsign, ?_⟩
    rw [hsign, decide_eq_true hz, Bool.eq_iff_iff]
    simp only [bne_iff_ne, ne_eq, Bool.true_eq, decide_eq_true_eq]
    omega
  · rw [if_neg (by rw [hsign]; simpa using hz)] at h
    obtain ⟨k, hk⟩ := Int.eq_ofNat_of_zero_le hz
    have hkq : (k : ℚ) = z := by exact_mod_cast hk.symm
    refine ⟨k, by linarith, hm, hsign, ?_⟩
    rw [hsign, decide_eq_false hz.not_gt, Bool.eq_iff_iff]
    simp only [bne_iff_ne, ne_eq, Bool.false_eq, decide_eq_true_eq, decide_eq_false_iff_not, not_not]
    omega

theorem rational_one_signed (neg : Bool) : rational (.fin neg 1 0) = some (if neg then -1 else 1) := by
  cases neg <;> simp [rational]

theorem sineIs_sin (a b : Num) : sineIs a (fmathVal 5 a b).1 := by
  cases a
  case nan | inf => exact rfl
  case fin neg m e =>
    intro z
    rw [fmathVal_sin_fin]
    refine ⟨fun hv => ?_, fun hv => ?_⟩
    · rw [if_pos (by rw [Bool.or_eq_true]; exact .inr ((isInteger_iff m e).2 ⟨_, exactly_false_of_int hv⟩))]
    · obtain ⟨k, hk, hm, -, hpar⟩ := half_of_exactly hv
      have hint : isInteger m e = false := by
        rw [Bool.eq_false_iff, Ne, isInteger_iff]
        rintro ⟨j, hj⟩
        rw [hk] at hj
        have : ((2 * k + 1 : Nat) : ℚ) = (2 * j : Nat) := by
          push_cast
          linarith
        have := Nat.cast_injective this
        omega
      have hf : fixOf m e = k * 2 ^ wp + 2 ^ (wp - 1) := fixOf_eq (by rw [hk, cast_half_two_wp])
      rw [if_neg (by simp [hm, hint]), hf, sinTurn_half, signedTurn, rational_one_signed, hpar]
      by_cases hz : z % 2 = 0 <;> simp [hz]

theorem cosineIs_cos (a b : Num) : cosineIs a (fmathVal 6 a b).1 := by
  cases a
  case nan | inf => exact rfl
  case fin neg m e =>
    intro z
    rw [fmathVal_cos_fin]
    refine ⟨fun hv => ?_, fun hv => ?_⟩
    · have hmag := exactly_false_of_int hv
      by_cases hm : m = 0
      · subst hm
        have hz0 : z = 0 := by simpa using hmag.symm
        rw [if_pos rfl, rational_one_signed, hz0]
        rfl
      · obtain ⟨k, hf, hk⟩ : ∃ k, fixOf m (min e 4) = k * 2 ^ wp ∧ k % 2 = z.natAbs % 2 := by
          rcases le_or_gt e 4 with he | he
          · exact ⟨z.natAbs, by rw [min_eq_left he]; exact fixOf_eq (by rw [hmag, cast_mul_two_wp]), rfl⟩
          · refine ⟨m * 2 ^ 4, by rw [min_eq_right he.le]; exact fixOf_eq (by rw [exactly_false, cast_mul_two_wp, Nat.cast_mul, Nat.cast_pow, Nat.cast_ofNat]; norm_cast), ?_⟩
            obtain ⟨j, hj⟩ := Int.eq_ofNat_of_zero_le (show 0 ≤ e - 5 by omega)
            have hz : z.natAbs = 2 * (m * 2 ^ (j + 4)) := by
              have hzq : ((z.natAbs : Nat) : ℚ) = ((2 * (m * 2 ^ (j + 4)) : Nat) : ℚ) := by
                rw [← hmag, exactly_false, show e = ((j + 5 : Nat) : Int) by push_cast; omega, zpow_natCast]
                push_cast
                ring
              exact_mod_cast hzq
            omega
        rw [if_neg hm, hf, sinTurn_half]
        dsimp only
        rw [rational_one_signed]
        by_cases hz : z % 2 = 0
        · rw [if_pos hz, if_neg (by simp only [decide_eq_true_eq]; omega)]
        · rw [if_neg hz, if_pos (by simp only [decide_eq_true_eq]; omega)]
    · obtain ⟨k, hk, hm, -, -⟩ := half_of_exactly hv
      have he : e ≤ 4 := by
        by_contra he
        have hint := (isInteger_iff m e).1 (by simp [isInteger]; omega)
        obtain ⟨j, hj⟩ := hint
        rw [hk] at hj
        have : ((2 * k + 1 : Nat) : ℚ) = (2 * j : Nat) := by
          push_cast
          linarith
        have := Nat.cast_injective this
        omega
      have hf : fixOf m (min e 4) + 2 ^ (wp - 1) = (k + 1) * 2 ^ wp := by
        rw [min_eq_left he, fixOf_eq (n := k * 2 ^ wp + 2 ^ (wp - 1)) (by rw [hk, cast_half_two_wp]), Nat.add_assoc,
          ← Nat.two_mul, ← Nat.pow_succ', Nat.succ_eq_add_one, Nat.sub_add_cancel wp_pos, Nat.succ_mul]
      rw [if_neg hm, hf, sinTurn_whole]

/-! ### The hyperbolic tangent -/

/-- The magnitude that `tanhNum` gives has wp bits at most. -/
theorem tanhNum_eq (neg : Bool) (m : Nat) (e : Int) : ∃ q < 2 ^ wp, tanhNum neg m e = sticky neg q false (-(wp : Int)) := by
  have hpos : 0 < 2 ^ wp := by positivity
  have hquot : ∀ t, 1 ≤ t → ((2 ^ wp - t) <<< wp) / (2 ^ wp + t) < 2 ^ wp := fun t ht => by
    rw [Nat.shiftLeft_eq, Nat.div_lt_iff_lt_mul (by omega), Nat.mul_comm (2 ^ wp)]
    exact Nat.mul_lt_mul_of_pos_right (by omega) hpos
  unfold tanhNum
  split
  · refine ⟨_, ?_, rfl⟩
    exact Nat.sub_lt hpos Nat.one_pos
  · refine ⟨_, ?_, rfl⟩
    exact hquot _ (le_max_left 1 _)

theorem tanhIs_tanh (a b : Num) : tanhIs a (fmathVal 7 a b).1 := by
  cases a
  case nan => exact rfl
  case inf neg => exact rational_one_signed neg
  case fin neg m e =>
    rw [fmathVal_tanh_fin]
    unfold tanhIs
    dsimp only
    by_cases hm : m = 0
    · rw [if_pos hm, if_pos hm]
    · obtain ⟨q, hq, heq⟩ := tanhNum_eq neg m e
      have hW : (0 : ℚ) < 2 ^ wp := pow_pos two_pos wp
      have hq1 : ((q : ℚ) + 1) ≤ 2 ^ wp := by exact_mod_cast hq
      have hq0 : (0 : ℚ) ≤ q + 1 / 2 := add_nonneg (Nat.cast_nonneg q) one_half_pos.le
      have h0 : (0 : ℚ) ≤ (q + 1 / 2) * 2 ^ (-(wp : Int)) := mul_nonneg hq0 (two_zpow_pos _).le
      have h1 : ((q : ℚ) + 1 / 2) * 2 ^ (-(wp : Int)) < 1 := by
        rw [zpow_neg, zpow_natCast, ← div_eq_mul_inv, div_lt_one hW]
        linarith
      rw [if_neg hm, if_neg hm, heq]
      refine ⟨_, rational_sticky neg q false _, ?_⟩
      rw [stickyHalf, if_neg Bool.false_ne_true]
      cases neg
      · rw [if_neg Bool.false_ne_true, if_neg Bool.false_ne_true, abs_of_nonneg h0]
        exact ⟨h1, h0⟩
      · rw [if_pos rfl, if_pos rfl, abs_neg, abs_of_nonneg h0, neg_neg]
        exact ⟨h1, h0⟩

/-! ### Reciprocals and roots -/

theorem quotientIs_recip {a b : Num} (ha : ∀ k p h, a = .fin k p h → p < 2 ^ 24) : quotientIs (.fin false 1 0) a (fmathVal 0 a b).1 := by
  cases a
  case nan => exact rfl
  case inf k => cases k <;> exact rfl
  case fin k p h =>
    rw [fmathVal_recip_fin]
    unfold quotientIs
    dsimp only
    by_cases hp : p = 0
    · rw [if_pos hp, if_pos hp, if_neg one_ne_zero]
      cases k <;> rfl
    · have hsign : (false != k) = k := by cases k <;> rfl
      have hspec := quotNum_spec false k 1 0 h hp (ha k p h rfl)
      rw [hsign, zero_sub] at hspec
      rw [if_neg hp, if_neg hp]
      exact hspec

theorem inverseRootIs_rsqrt {a b : Num} (ha : ∀ k p h, a = .fin k p h → p < 2 ^ 24) : inverseRootIs a (fmathVal 1 a b).1 := by
  cases a
  case nan => exact rfl
  case inf neg => cases neg <;> exact rfl
  case fin neg m e =>
    rw [fmathVal_rsqrt_fin]
    unfold inverseRootIs
    dsimp only
    by_cases hm : m = 0
    · rw [if_pos hm, if_pos hm]
    · rw [if_neg hm, if_neg hm]
      cases neg
      · exact rsqrtNum_spec e hm (ha false m e rfl)
      · exact rfl

theorem rootIs_sqrt (a b : Num) : rootIs a (fmathVal 2 a b).1 := by
  cases a
  case nan => exact rfl
  case inf neg => cases neg <;> exact rfl
  case fin neg m e =>
    rw [fmathVal_sqrt_fin]
    unfold rootIs
    dsimp only
    by_cases hm : m = 0
    · rw [if_pos hm, if_pos hm]
    · rw [if_neg hm, if_neg hm]
      cases neg
      · exact sqrtNum_spec e hm
      · exact rfl

/-- Every function of FMATH is R206's, on significands of at most 24 bits. -/
theorem functionIs_fmathVal {fn : Nat} {a b : Num} (hfn : fn ≤ 8) (ha : ∀ k p h, a = .fin k p h → p < 2 ^ 24)
    (hb : ∀ k p h, b = .fin k p h → p < 2 ^ 24) : functionIs fn a b (fmathVal fn a b).1 := by
  match fn, hfn with
  | 0, _ => exact quotientIs_recip ha
  | 1, _ => exact inverseRootIs_rsqrt ha
  | 2, _ => exact rootIs_sqrt a b
  | 3, _ => exact powerIs_exp2 a b
  | 4, _ => exact logIs_log2 a b
  | 5, _ => exact sineIs_sin a b
  | 6, _ => exact cosineIs_cos a b
  | 7, _ => exact tanhIs_tanh a b
  | 8, _ => exact quotientIs_divNum hb

/-! ### FMATH (R206) -/

/-- A finite value of a format has a significand of its precision. -/
theorem significand_lt {F : FFmt} (hF : FmtOk F) {f : W64} {code : Nat} {neg : Bool} {m : Nat} {e : Int} (h : readNum f F code = .fin neg m e) :
    m < 2 ^ F.prec := by
  have hprec : 2 ^ F.prec = 2 * 2 ^ trail F := by rw [trail, ← pow_succ', Nat.sub_add_cancel hF.1]
  have hpos : 0 < 2 ^ F.prec := by positivity
  have hdec : ∀ {neg m e}, decodeNum F code = .fin neg m e → m < 2 ^ F.prec := fun {neg m e} hd => by
    obtain ⟨hle, h8⟩ := of_decodeNum_fin hF hd
    rw [decodeNum_of_le hF hle h8, Num.fin.injEq] at hd
    obtain ⟨-, hm, -⟩ := hd
    rw [← hm]
    rcases magCode_cases F (codeMag F code) with hk | ⟨i, j, hi, hk⟩
    · rw [magValue_of_lt hk]
      dsimp only
      omega
    · rw [hk, magValue_of_ge hi]
      dsimp only
      omega
  unfold readNum at h
  split at h
  · cases hd : decodeNum F code
    case fin =>
      rw [hd] at h
      cases h
      exact hpos
    all_goals
      rw [hd] at h
      cases h
  · exact hdec h

theorem prec_elem_le {f : W64} {t : Ty} (h : tyIsFloatOrPair t = true) : (fmtOf f (tyElem t)).prec ≤ 24 := by
  cases t
  case f32 => exact le_refl 24
  case bf16 | bf16x2 => exact show 8 ≤ 24 by decide
  case f16 | f16x2 => exact show 11 ≤ 24 by decide
  all_goals cases h

/-- Each element of FMATH is one rounding of its function (R206). -/
theorem fmath_written {s s1 : State} {i : Instr} {x : Srcs} {p : LaneParts} {v : LaneEnv} (h : LaneReady s i p v s1)
    (hi : (∃ f, i = .fmath f ∧ x = srcsLa f) ∨ (∃ f, i = .fmathDivLi f ∧ x = srcsLi f)) :
    ∃ t, exec i s = .next t ∧ ∀ l ∈ actLanes v, ∃ word, holds s1 t x.d 1 l word x.yw ∧ ∀ j, j < tyCount x.ty → ∀ fn a b,
       fn = (x.md.extractLsb' 0 4).toNat → a = srcNum v x (readTy s1 v x.a x.ty l) j false false →
       b = srcNum v x (if fn = 8 then readB s1 v x x.ty l else 0) j false false →
       ∃ n r, functionIs fn a b n ∧ elemAt x.ty word j = (roundTo v.e.fmt (fmtOf v.e.fmt (tyElem x.ty)) (rmIn v x.md) r n).1 := by
  have hsh : ∀ {ty md ext}, (shFmath ty md ext).ok = true → tyIsFloatOrPair ty = true ∧ (md.extractLsb' 0 4).toNat ≤ 8 := fun h => by
    simp only [shFmath, Bool.and_eq_true, decide_eq_true_eq] at h
    exact ⟨h.1.1.1, h.1.2⟩
  have hleg := h.legal
  obtain ⟨hf, ⟨hty, hfn⟩, hb8⟩ : floatLane i = some (x, fmathLane) ∧ (tyIsFloatOrPair x.ty = true ∧ (x.md.extractLsb' 0 4).toNat ≤ 8) ∧
      b8Ok v.e.fmt [x.ty] = true := by
    rcases hi with ⟨f, rfl, rfl⟩ | ⟨f, rfl, rfl⟩
    · exact ⟨rfl, hsh (laOk_shape hleg).1, laOk_b8_ty hleg⟩
    · simp only [legalAt, Bool.and_eq_true] at hleg
      exact ⟨rfl, hsh (liOk_shape hleg.1), liOk_b8 hleg.1⟩
  obtain ⟨t, he, hh⟩ := (laneCommits_of_ready h hf).holds_elems (tyIsInt_of_floatOrPair hty) (fun _ => rfl)
    (fun _ _ _ => roundTo_lt_elem (.inl hty) hb8 _ _ _)
  have hsig : ∀ {code j : Nat} k q g, srcNum v x code j false false = .fin k q g → q < 2 ^ 24 := fun k q g hk =>
    (significand_lt (fmtOk_elem (.inl hty) hb8) hk).trans_le (Nat.pow_le_pow_right two_pos (prec_elem_le hty))
  refine ⟨t, he, fun l hl => ?_⟩
  obtain ⟨word, hw, helem⟩ := hh l hl
  refine ⟨word, hw, fun j hj fn a b hfn' ha hb => ?_⟩
  obtain ⟨r, hr⟩ := helem j hj
  subst hfn' ha hb
  exact ⟨_, r, functionIs_fmathVal hfn hsig hsig, hr⟩

/-- Settles O25, each instruction's lanes being joined results of their own (`LaneCommits`), which its rule's lemma evaluates. -/
theorem laneByLane : Obligations.LaneByLane := by
  refine ⟨fun _ _ _ _ _ h _ _ hf => exec_joined h hf, fun _ _ _ _ _ _ h => ⟨fun greater hi => minmax_written h greater hi,
    fun hi => fcmp_written h hi, ?_⟩, fun _ _ _ _ _ _ h hi => fmath_written h hi, fun _ _ _ _ _ _ h hi _ hts => cvt_written h hi hts,
    fun _ _ _ _ _ _ h => ⟨?_, ?_, ?_⟩, fun _ _ _ _ _ _ _ h hi => ?_⟩
  · rintro f rfl rfl
    exact fclass_written h
  · rintro rfl
    exact pack_written h
  · rintro rfl _ hts
    exact unpack_written h hts
  · rintro rfl
    exact scalex_written h
  · obtain ⟨hrun, hval⟩ := red_written h hi
    exact ⟨hrun, fun rm _ _ _ _ ha hb => rational_numAdd rm ha hb, _, hrun, hval⟩

end Sys2Proof.Machine
end

section
/-! Numbers in little-endian bytes: their size, and what the bytes read back as (R5). -/
namespace Sys2Proof.Machine

open Sys2Proof.Claims

theorem leValue_cons (b : Byte) (bs : List Byte) : leValue (b :: bs) = b.toNat + 256 * leValue bs := rfl

theorem leValue_lt (bs : List Byte) : leValue bs < 2 ^ (8 * bs.length) := by
  induction bs with
  | nil => decide
  | cons b bs ih =>
    have hb : b.toNat < 256 := b.isLt
    have hpow : 2 ^ (8 * (b :: bs).length) = 256 * 2 ^ (8 * bs.length) := by
      rw [List.length_cons, Nat.mul_succ, Nat.pow_add, Nat.mul_comm]
    rw [leValue_cons, hpow]
    omega

theorem littleEndian_succ (v n : Nat) : littleEndian v (n + 1) = BitVec.ofNat 8 v :: littleEndian (v / 256) n := by
  have hshift : ∀ i, v / 2 ^ (8 * (i + 1)) = v / 256 / 2 ^ (8 * i) := fun i => by
    rw [Nat.div_div_eq_div_mul, Nat.mul_succ, Nat.pow_add, Nat.mul_comm]
  simp [littleEndian, List.range_succ_eq_map, Function.comp_def, hshift]

/-- The bytes of a number read back as that number. -/
theorem leValue_littleEndian (v n : Nat) : leValue (littleEndian v n) = v % 2 ^ (8 * n) := by
  induction n generalizing v with
  | zero => simp [littleEndian, leValue, Nat.mod_one]
  | succ n ih =>
    have hpow : 2 ^ (8 * (n + 1)) = 256 * 2 ^ (8 * n) := by rw [Nat.mul_succ, Nat.pow_add, Nat.mul_comm]
    rw [littleEndian_succ, leValue_cons, ih, hpow, Nat.mod_mul, BitVec.toNat_ofNat]

theorem leValue_leBytes (v n : Nat) : leValue (leBytes v n) = v % 2 ^ (8 * n) := by rw [leBytes_eq, leValue_littleEndian]

@[simp] theorem littleEndian_length (v n : Nat) : (littleEndian v n).length = n := by simp [littleEndian]

theorem numberAt_eq (s : State) (pa n : Nat) : numberAt s pa n = leValue (memRead s pa n) := rfl

end Sys2Proof.Machine
end

section
/-! The scalar loads, stores and literals: what their walks mark, what the access leaves, the value loaded or stored (R88, R166, R167). -/
namespace Sys2Proof.Machine

open Sys2Proof.Claims

/-! ### The marks of a walk (R88) -/

/-- A leaf entry in memory after an access has marked it. -/
theorem entry_markLeaf (s : State) (k : Access) (l : Leaf) : (BitVec.ofNat 64 (leValue (memRead (markLeaf s k l) l.at_ 8)) : W64) =
    BitVec.ofNat 64 (leValue (memRead s l.at_ 8)) ||| markBits k := by
  unfold markLeaf
  dsimp only
  split
  · next h => exact h.symm
  · have hput : ∀ v : W64, memRead { s with mem := memPut s.revived s.mem l.at_ (leBytes v.toNat 8) } l.at_ 8 = leBytes v.toNat 8 := fun v => by
      have := memRead_memWrite_same s l.at_ (leBytes v.toNat 8)
      rwa [leBytes_length] at this
    rw [hput, leValue_leBytes, Nat.mod_eq_of_lt (BitVec.isLt _), BitVec.ofNat_toNat, BitVec.setWidth_eq]

theorem getLsbD_markBits (k : Access) (b : Nat) : (markBits k).getLsbD b = (decide (b = 7) || (decide (k = .store) && decide (b = 8))) := by
  have hbits : ∀ b < 64, (0x80 : W64).getLsbD b = decide (b = 7) ∧ (0x180 : W64).getLsbD b = (decide (b = 7) || decide (b = 8)) := by decide
  by_cases hb : b < 64
  · obtain ⟨h1, h2⟩ := hbits b hb
    unfold markBits
    by_cases hk : k = .store
    · rw [if_pos hk, h2]
      simp [hk]
    · rw [if_neg hk, h1]
      simp [hk]
  · have h7 : b ≠ 7 := by omega
    have h8 : b ≠ 8 := by omega
    simp [h7, h8, BitVec.getLsbD_of_ge _ _ (Nat.le_of_not_lt hb)]

/-- After the leaf is marked, nothing that the walk of one run does changes memory. -/
theorem memGet_touchRuns_single (s : State) (act : Actor) (k : Access) (va : W64) {r : Run} {l : Leaf} (h : r.leaf = some l) (a : Nat) :
    memGet (touchRuns s act k va [r]) a = memGet (markLeaf s k l) a := by
  simp only [touchRuns, h]
  refine (memGet_congr (countHeat_mem _ _) (congrArg State.revived (countHeat_rest _ _) :) a).trans ?_
  exact memGet_congr (cacheLeaf_mem _ _ _ _ _) (congrArg State.revived (cacheLeaf_rest _ _ _ _ _) :) a

/-- An access sets bit A, and a store bit D, of the leaf entry of its walk, and no other (R88). -/
theorem leaf_touchRuns (s : State) (act : Actor) (k : Access) (va : W64) {r : Run} {l : Leaf} (h : r.leaf = some l) (b : Nat) :
    (BitVec.ofNat 64 (leValue (memRead (touchRuns s act k va [r]) l.at_ 8)) : W64).getLsbD b =
      ((BitVec.ofNat 64 (leValue (memRead s l.at_ 8)) : W64).getLsbD b || b = 7 || (k = .store && b = 8)) := by
  have hread : memRead (touchRuns s act k va [r]) l.at_ 8 = memRead (markLeaf s k l) l.at_ 8 :=
    memRead_congr fun a _ _ => memGet_touchRuns_single s act k va h a
  rw [hread, entry_markLeaf, BitVec.getLsbD_or, getLsbD_markBits, Bool.or_assoc]

/-! ### What an access leaves of the machine -/

/-- The state but for what a performed access may change outside the group. -/
def touchOff (t : State) : State :=
  { t with mem := [], poison := [], hist := [], tlb := [], dir := [], hostPend := [], heat := [], scLast := ⟨0, 0, 0, 0, 0, 0, 0⟩ }

theorem touchOff_of_accessOff {s t : State} (h : accessOff t = accessOff s) : touchOff t = touchOff s :=
  congrArg (fun u : State => { u with poison := [], hist := [], hostPend := [], scLast := ⟨0, 0, 0, 0, 0, 0, 0⟩ }) h

theorem sameButAccessed_of_touchOff {s t : State} (h : touchOff t = touchOff s) : sameButAccessed s t :=
  (congrArg (fun u : State => { u with mem := s.mem, poison := s.poison, hist := s.hist, tlb := s.tlb, dir := s.dir, hostPend := s.hostPend,
                                       heat := s.heat, scLast := s.scLast }) h :)

/-- A result written after an access that has left the group as it was. -/
theorem accessRest_retS {s u : State} (h : touchOff u = touchOff s) (d : BitVec 6) (v : W64) : accessRest s (retS u d v) := by
  have hcur : u.cur = s.cur := (congrArg State.cur h :)
  have hgroup : ({ (retS u d v).cur with sregs := s.cur.sregs, pc := s.cur.pc, wait := s.cur.wait, scOpen := s.cur.scOpen } : Group) = s.cur := by
    rw [retS_cur, hcur]
    unfold sset
    split <;> rfl
  have hsc : (retS u d v).cur.scOpen = s.cur.scOpen := (congrArg Group.scOpen hgroup :) ▸ by
    rw [retS_cur, hcur]
    unfold sset
    split <;> rfl
  refine ⟨?_, .inl hsc⟩
  rw [hgroup]
  refine sameButAccessed_of_touchOff ?_
  exact congrArg (fun w : State => { w with cur := s.cur }) h

theorem readPlace_retS (u : State) (d : BitVec 6) (v : W64) (r : Run) : readPlace (retS u d v) r = readPlace u r := by
  unfold readPlace
  split <;> rfl

/-- A result written after an access that changed no byte but of page-table entries. -/
theorem accessResult_load {s u : State} {rs : List Run} (h : touchOff u = touchOff s) (hmem : ∀ x, ¬ leafByte rs x → memGet u x = memGet s x)
    (d : BitVec 6) (v : W64) (pa : Nat) : AccessResult s (retS u d v) rs d v pa [] := by
  have hcur : u.cur = s.cur := (congrArg State.cur h :)
  obtain ⟨hdest, hothers, hpc, -, -⟩ := scalarResult_retS u d v
  refine ⟨hdest, fun r hr => ?_, ?_, nofun, fun a _ ha => hmem a ha, accessRest_retS h d v⟩
  · rw [hothers r hr, sreg, hcur, sreg]
  · rw [hpc, hcur]

/-! ### The order of an access with what comes before it (R99, R114, R343) -/

/-- An access that nothing holds back is performed. -/
theorem scalarAcc_of_free {α : Type} {f : State → Run → Option XErr} {s : State} {k : Access} {ea : W64} {n : Nat} {rs : List Run}
    (hrs : checkedRuns f s 0 k ea n = .ok rs) (hfree : accessFree s k rs) (act : List Run → α) (go : α → State) :
    scalarAcc s ea (checkedRuns f s 0 k ea n) (accessAt f k s 0 ea n act) go = go (act rs) := by
  obtain ⟨hheld, hbusy⟩ := hfree
  simp [scalarAcc, accessAt, hrs, hheld, hbusy]

theorem runsLen_checkedRuns {f : State → Run → Option XErr} {s : State} {space : Nat} {k : Access} {ea : W64} {n : Nat} {rs : List Run}
    (h : checkedRuns f s space k ea n = .ok rs) : runsLen rs = n := by
  unfold checkedRuns at h
  split at h
  · cases h
  · next hs =>
    split at h
    · cases h
    · cases h
      exact runsLen_spaceRuns hs

theorem len_of_checkedRuns {f : State → Run → Option XErr} {s : State} {space : Nat} {k : Access} {ea : W64} {n : Nat} {r : Run}
    (h : checkedRuns f s space k ea n = .ok [r]) : r.len = n := by
  simpa [runsLen] using runsLen_checkedRuns h

/-! ### Addresses (R166, R167) -/

theorem signExtend_shiftLeft {m : Nat} (x : BitVec m) (n : Nat) : (x.signExtend 64 <<< n : W64) = BitVec.ofInt 64 (x.toInt * 2 ^ n) := by
  have hpow : BitVec.twoPow 64 n = BitVec.ofInt 64 (2 ^ n) := by
    rw [← Nat.cast_ofNat (R := Int), ← Nat.cast_pow, BitVec.ofInt_natCast]
    exact BitVec.eq_of_toNat_eq (by rw [BitVec.toNat_twoPow, BitVec.toNat_ofNat])
  rw [BitVec.shiftLeft_eq_mul_twoPow, hpow, BitVec.ofInt_mul]
  rfl

theorem scalarEa_eq (s : State) (a : BitVec 6) (w : BitVec 2) (o : BitVec 11) : scalarEa s a w o = offsetAddress s a w o := by
  rw [scalarEa, offsetAddress, signExtend_shiftLeft]

/-- The address of a literal (R167). -/
theorem literalAddress_eq (pc : W64) (imm : BitVec 20) : pc + (sext64 imm <<< 2) = BitVec.ofInt 64 ((pc.toNat : Int) + 4 * imm.toInt) := by
  have hpc : BitVec.ofInt 64 (pc.toNat : Int) = pc := by rw [BitVec.ofInt_natCast, BitVec.ofNat_toNat, BitVec.setWidth_eq]
  rw [signExtend_shiftLeft, BitVec.ofInt_add, hpc, mul_comm]
  rfl

/-! ### Loads (R166) -/

/-- Sign extension of a number of n bits, n at most 64: the bits above are those of its top bit. -/
theorem ofInt_toInt_ofNat {n v : Nat} (hn : n ≤ 64) (hv : v < 2 ^ n) : BitVec.ofInt 64 (BitVec.ofNat n v).toInt =
    if v.testBit (n - 1) then BitVec.ofNat 64 (v + (2 ^ 64 - 2 ^ n)) else BitVec.ofNat 64 v := by
  have htoNat : (BitVec.ofNat n v).toNat = v := by rw [BitVec.toNat_ofNat, Nat.mod_eq_of_lt hv]
  have hmsb : (BitVec.ofNat n v).msb = v.testBit (n - 1) := by
    rw [BitVec.msb_eq_getLsbD_last, BitVec.getLsbD, htoNat]
  have hpow : 2 ^ n ≤ 2 ^ 64 := Nat.pow_le_pow_right (by decide) hn
  rw [BitVec.toInt_eq_msb_cond, hmsb, htoNat]
  split
  · refine BitVec.eq_of_toNat_eq ?_
    rw [BitVec.toNat_ofInt, BitVec.toNat_ofNat]
    omega
  · rw [BitVec.ofInt_natCast]

theorem loadedValue_eq {x : BitVec 1} {bs : List Byte} (h : bs.length ≤ 8) : loadedValue x bs = extended x bs := by
  unfold loadedValue extended
  by_cases hx : x = 1
  · rw [if_pos hx, ofInt_toInt_ofNat (by omega) (leValue_lt bs)]
    simp only [hx, decide_true, Bool.true_and]
  · rw [if_neg hx, decide_eq_false hx]
    rfl

theorem readPlace_length (s : State) (r : Run) : (readPlace s r).length = r.len := by
  unfold readPlace
  split <;> simp [regBytes, accumBytes]

theorem pow_width_le (w : BitVec 2) : 2 ^ w.toNat ≤ 8 := Nat.pow_le_pow_right (by decide) (by have := w.isLt; omega : w.toNat ≤ 3)

theorem exec_ld {s : State} {d a : BitVec 6} {w : BitVec 2} {x : BitVec 1} {o : BitVec 11} {r : Run} (hlegal : w = 3 → x = 0)
    (halign : (offsetAddress s a w o).toNat % 2 ^ w.toNat = 0)
    (hrs : checkedRuns loadErr s 0 .load (offsetAddress s a w o) (2 ^ w.toNat) = .ok [r]) (hfree : accessFree s .load [r]) :
    ∃ u, u = (loadRuns s (offsetAddress s a w o) [r]).2 ∧
      exec (.ld d a w x o) s = .next (retS u d (extended x (readPlace u r))) := by
  have hl : legalAt staticFmt (.ld d a w x o) = true := by
    simpa [legalAt] using Decidable.not_or_of_imp hlegal
  have hlen : (readPlace (loadRuns s (offsetAddress s a w o) [r]).2 r).length ≤ 8 := by
    rw [readPlace_length, len_of_checkedRuns hrs]
    exact pow_width_le w
  have hbytes : (loadRuns s (offsetAddress s a w o) [r]).1 = readPlace (loadRuns s (offsetAddress s a w o) [r]).2 r :=
    List.flatMap_singleton _ _
  refine ⟨_, rfl, ?_⟩
  show execLd d a w x o s = _
  simp only [execLd, scalarEa_eq, hl, halign, Bool.not_true, Bool.false_eq_true, if_false, ne_eq, not_true_eq_false]
  rw [loadAt, scalarAcc_of_free hrs hfree, hbytes, loadedValue_eq hlen]

/-! ### Stores (R166) -/

/-- A store to memory proper changes of the machine what accesses change. -/
theorem touchOff_writePlace {s : State} {r : Run} (h : plainMemory s r) (bs : List Byte) : touchOff (writePlace s r bs) = touchOff s := by
  have hrun : ∀ f, touchOff (memWrite (onRun s r f) r.pa bs) = touchOff s := fun f =>
    show touchOff (dirOff (onRun s r f)) = touchOff (dirOff s) from congrArg touchOff (onRun_rest s r f)
  rcases h with ⟨st, d, h⟩ | h | ⟨h, hl⟩ | ⟨cl, co, off, h⟩
  · simpa only [writePlace, h] using hrun _
  · simpa only [writePlace, h] using hrun _
  · simp only [writePlace, h, hl, if_true]
    rfl
  · simp only [writePlace, h]
    rfl

theorem plainMemory_congr {s t : State} (h : t.linkUp = s.linkUp) {r : Run} (hr : plainMemory s r) : plainMemory t r := by
  unfold plainMemory at hr ⊢
  rwa [h]

theorem touchOff_touchRuns (s : State) (a : Actor) (k : Access) (va : W64) (rs : List Run) : touchOff (touchRuns s a k va rs) = touchOff s :=
  touchOff_of_accessOff (touchRuns_accessOff s a k va rs)

theorem exec_st {s : State} {d a : BitVec 6} {w : BitVec 2} {o : BitVec 11} {r : Run}
    (halign : (offsetAddress s a w o).toNat % 2 ^ w.toNat = 0)
    (hrs : checkedRuns storeErr s 0 .store (offsetAddress s a w o) (2 ^ w.toNat) = .ok [r]) (hfree : accessFree s .store [r]) :
    exec (.st d a w o) s =
      .next (advance (storeRuns s (offsetAddress s a w o) [r] (littleEndian (sreg s d).toNat (2 ^ w.toNat)))) := by
  show execSt d a w o s = _
  simp only [execSt, scalarEa_eq, halign, ne_eq, not_true_eq_false, if_false, leBytes_eq]
  rw [storeAt, littleEndian_length, scalarAcc_of_free hrs hfree]

/-- A store of a run's bytes to memory proper. -/
theorem accessResult_store {s : State} {r : Run} (h : plainMemory s r) (ea : W64) {bs : List Byte} (hlen : bs.length = r.len) :
    AccessResult s (advance (storeRuns s ea [r] bs)) [r] 0 0 r.pa bs := by
  have hwalk := touchOff_touchRuns s (accActor s ea) .store ea [r]
  have hlink : (touchRuns s (accActor s ea) .store ea [r]).linkUp = s.linkUp := (congrArg State.linkUp hwalk :)
  have hplain := plainMemory_congr hlink h
  have hsteps : storeRuns s ea [r] bs = writePlace (touchRuns s (accActor s ea) .store ea [r]) r bs := by
    rw [storeRuns, writePlaces, writePlaces, ← hlen, List.take_length]
  have hstored := stored_writePlace hplain bs
  have hoff : touchOff (storeRuns s ea [r] bs) = touchOff s := hsteps ▸ (touchOff_writePlace hplain bs).trans hwalk
  have hcur : (storeRuns s ea [r] bs).cur = s.cur := (congrArg State.cur hoff :)
  rw [← hsteps] at hstored
  have hsreg : ∀ x, sreg (advance (storeRuns s ea [r] bs)) x = sreg s x := fun x => by
    rw [sreg, advance_cur, hcur]
    rfl
  refine ⟨?_, fun x _ => hsreg x, ?_, fun i hi => ?_, fun a ha hleaf => ?_, ?_⟩
  · rw [hsreg, sreg_zero, if_pos rfl]
  · rw [advance_cur, hcur]
  · have hread := congrArg (·[i]?) hstored.bytes
    simpa [memRead, hi] using hread
  · exact (hstored.others a ha).trans (memGet_touchRuns_other _ _ _ _ _ hleaf)
  · have hrest := accessRest_retS hoff 0 0
    exact hrest

/-! ### The statement -/

/-- Settles O9: LD and ST by their equations and what loads and stores of a run leave; LDK by its own equation. -/
theorem scalarLoadsAndStores : Obligations.ScalarLoadsAndStores := by
  refine ⟨fun s act k va r => ⟨fun a ha => memGet_touchRuns_other act k [r] s va ha, fun l hl b => leaf_touchRuns s act k va hl b⟩,
    fun s d a w x o r hlegal halign hrs hfree => ?_, fun s d a w o r halign hrs hfree => ⟨exec_st halign hrs hfree, fun hplain => ?_⟩,
    fun s d imm la hla => ⟨fun halign => ⟨fun bs s1 hf => ?_, fun e hf => ?_⟩, fun halign => ?_⟩⟩
  · obtain ⟨u, rfl, he⟩ := exec_ld hlegal halign hrs hfree
    obtain ⟨hoff, hmem⟩ := loadRuns_keeps s (offsetAddress s a w o) [r]
    refine ⟨_, he, ?_, fun hplain => ?_⟩
    · rw [readPlace_retS]
      exact accessResult_load (touchOff_of_accessOff hoff) hmem d _ _
    · rw [readPlace_plain hplain, len_of_checkedRuns hrs]
      rfl
  · refine ⟨_, exec_st halign hrs hfree, accessResult_store hplain _ ?_⟩
    rw [littleEndian_length, len_of_checkedRuns hrs]
  · refine ⟨_, ?_, scalarResult_retS s1 d _⟩
    show execLdk d imm s = _
    simp [execLdk, literalAddress_eq, ← hla, halign, hf]
  · show execLdk d imm s = _
    simp [execLdk, literalAddress_eq, ← hla, halign, hf]
  · show execLdk d imm s = _
    simp [execLdk, literalAddress_eq, ← hla, halign]

end Sys2Proof.Machine
end

section
/-! MSAVE and MREST: the runs of the save area, the bytes stored there and read back, the tiles and the batch state (R86, R295, R328). -/
namespace Sys2Proof.Machine

open Sys2Proof.Claims

/-! ### Checked pages (R86) -/

theorem runsLen_append (rs rs' : List Run) : runsLen (rs ++ rs') = runsLen rs + runsLen rs' := by simp [runsLen]

theorem runsLen_cons (r : Run) (rs : List Run) : runsLen (r :: rs) = r.len + runsLen rs := by simp [runsLen]

theorem checkPagesFrom_succ {f : State → Run → Option XErr} {s : State} {a : Actor} {k : Access} {fuel : Nat} {va : W64} {n : Nat}
    {rs : List Run} (hn : n ≠ 0) (h : checkPagesFrom f s a k (fuel + 1) va n = .ok rs) :
    ∃ here page rest, here = min n (4096 - va.toNat % 4096) ∧ rs = page ++ rest ∧ runs s a k va here = .ok page ∧
      checkPagesFrom f s a k fuel (va + BitVec.ofNat 64 here) (n - here) = .ok rest := by
  unfold checkPagesFrom at h
  rw [if_neg hn] at h
  dsimp only at h
  split at h
  · cases h
  · next page hpage =>
    split at h
    · cases h
    · cases h
    · next rest _ hrest =>
      cases h
      exact ⟨_, page, rest, rfl, rfl, hpage, hrest⟩

theorem runsLen_checkPagesFrom {f : State → Run → Option XErr} {s : State} {a : Actor} {k : Access} : ∀ {fuel : Nat} {va : W64} {n : Nat}
    {rs : List Run}, checkPagesFrom f s a k fuel va n = .ok rs → (n = 0 ∨ n + va.toNat % 4096 ≤ 4096 * fuel) → runsLen rs = n := by
  intro fuel
  induction fuel with
  | zero =>
    intro va n rs h hn
    cases h
    have hn0 : n = 0 := by omega
    exact hn0.symm
  | succ fuel ih =>
    intro va n rs h hn
    by_cases h0 : n = 0
    · subst h0
      cases h
      rfl
    · obtain ⟨here, page, rest, hhere, rfl, hpage, hrest⟩ := checkPagesFrom_succ h0 h
      have hva : (va + BitVec.ofNat 64 here).toNat % 4096 = (va.toNat + here) % 4096 := by
        rw [BitVec.toNat_add, BitVec.toNat_ofNat]
        omega
      have hlen := ih hrest (by rw [hva]; omega)
      rw [runsLen_append, runsLen_runs hpage, hlen]
      omega

theorem runsLen_checkPages {f : State → Run → Option XErr} {s : State} {a : Actor} {k : Access} {va : W64} {n : Nat} {rs : List Run}
    (h : checkPages f s a k va n = .ok rs) : runsLen rs = n :=
  runsLen_checkPagesFrom h (.inr (by omega))

theorem runsLen_areaPages {f : State → Run → Option XErr} {s : State} {k : Access} {off : W64} {n : Nat} {rs : List Run}
    (h : areaPages f s k off n = .ok rs) : runsLen rs = n :=
  runsLen_checkPages h

/-! ### Bytes stored to several runs -/

theorem runByte_cons_lt {r : Run} {rs : List Run} {p : Nat} (h : p < r.len) : runByte (r :: rs) p = some (r.pa + p) := if_pos h

theorem runByte_cons_add (r : Run) (rs : List Run) (p : Nat) : runByte (r :: rs) (r.len + p) = runByte rs p := by
  simp [runByte]

/-- What stores to runs of memory proper leave: the bytes of the runs, the later of two at one address, and every other byte as before. -/
structure StoredRuns (s t : State) (rs : List Run) (bs : List Byte) : Prop where
  rest : touchOff t = touchOff s
  others : ∀ a, (∀ p, runByte rs p ≠ some a) → memGet t a = memGet s a
  bytes : ∀ p a, runByte rs p = some a → (∀ q, p < q → runByte rs q ≠ some a) → bs[p]? = some (memGet t a)

theorem storedRuns_writePlaces {rs : List Run} : ∀ {s : State} {bs : List Byte}, (∀ r ∈ rs, plainMemory s r) → runsLen rs = bs.length →
    StoredRuns s (writePlaces s rs bs) rs bs := by
  induction rs with
  | nil => exact fun _ _ => ⟨rfl, fun _ _ => rfl, nofun⟩
  | cons r rs ih =>
    intro s bs hplain hlen
    rw [runsLen_cons] at hlen
    have hhead : (bs.take r.len).length = r.len := by rw [List.length_take]; omega
    have hstored := stored_writePlace (hplain r (List.mem_cons_self ..)) (bs.take r.len)
    have hrest := touchOff_writePlace (hplain r (List.mem_cons_self ..)) (bs.take r.len)
    have hbytes := hstored.bytes
    have hothers := hstored.others
    rw [hhead] at hbytes hothers
    have htail : StoredRuns (writePlace s r (bs.take r.len)) (writePlaces s (r :: rs) bs) rs (bs.drop r.len) := by
      refine ih (fun x hx => plainMemory_congr hstored.link (hplain x (List.mem_cons_of_mem _ hx))) ?_
      rw [List.length_drop]
      omega
    have hnext : ∀ {p a}, runByte (r :: rs) (r.len + p) ≠ some a → runByte rs p ≠ some a := fun {p a} h => by
      rwa [runByte_cons_add] at h
    refine ⟨htail.rest.trans hrest, fun a ha => ?_, fun p a hp hlast => ?_⟩
    · refine (htail.others a fun p => hnext (ha _)).trans (hothers a ?_)
      by_contra hin
      exact ha (a - r.pa) (by rw [runByte_cons_lt (by omega)]; congr 1; omega)
    · by_cases hpr : p < r.len
      · rw [runByte_cons_lt hpr, Option.some.injEq] at hp
        rw [htail.others a fun q => hnext (hlast _ (by omega)), ← hp]
        have hread := congrArg (·[p]?) hbytes
        simpa [memRead, hpr] using hread.symm
      · obtain ⟨q, rfl⟩ : ∃ q, p = r.len + q := ⟨p - r.len, by omega⟩
        rw [runByte_cons_add] at hp
        have hb := htail.bytes q a hp fun i hi => hnext (hlast _ (by omega))
        rwa [List.getElem?_drop] at hb

/-- Stores to checked runs: the page-table entries they walked may change before the bytes stand. -/
theorem storeRuns_keeps {s : State} {rs : List Run} {bs : List Byte} (ea : W64) (hplain : ∀ r ∈ rs, plainMemory s r)
    (hlen : runsLen rs = bs.length) : ∃ u, touchOff u = touchOff s ∧ (∀ a, ¬ leafByte rs a → memGet u a = memGet s a) ∧
      StoredRuns u (storeRuns s ea rs bs) rs bs := by
  have hwalk := touchOff_touchRuns s (accActor s ea) .store ea rs
  have hlink : (touchRuns s (accActor s ea) .store ea rs).linkUp = s.linkUp := (congrArg State.linkUp hwalk :)
  exact ⟨_, hwalk, fun a ha => memGet_touchRuns_other _ _ _ _ _ ha,
    storedRuns_writePlaces (fun r hr => plainMemory_congr hlink (hplain r hr)) hlen⟩

/-! ### Numbers inside a row of bytes -/

/-- Some of the bytes read from an address on are those read from a later one. -/
theorem memRead_slice {u : State} {pa n k m : Nat} (h : k + m ≤ n) : ((memRead u pa n).drop k).take m = memRead u (pa + k) m := by
  apply List.ext_getElem
  · simp
    omega
  · intro i h1 h2
    simp [memRead, Nat.add_assoc]

theorem areaNat_memRead (u : State) {pa n k m : Nat} (h : k + m ≤ n) : areaNat (memRead u pa n) k m = numberAt u (pa + k) m := by
  rw [areaNat, memRead_slice h, numberAt_eq]

theorem length_flatMap_range {α : Type} {f : Nat → List α} {L : Nat} (hf : ∀ k, (f k).length = L) (n : Nat) :
    ((List.range n).flatMap f).length = L * n := by
  simp [List.length_flatMap, hf, Nat.mul_comm]

/-- Row k of a table of rows of L bytes each. -/
theorem getElem?_flatMap_range {α : Type} {f : Nat → List α} {L : Nat} (hf : ∀ k, (f k).length = L) {n k i : Nat} (hk : k < n) (hi : i < L) :
    ((List.range n).flatMap f)[L * k + i]? = (f k)[i]? := by
  have hlen := length_flatMap_range hf
  induction n with
  | zero => omega
  | succ n ih =>
    rw [List.range_succ, List.flatMap_append, List.flatMap_singleton]
    by_cases hkn : k < n
    · have hbound : L * (k + 1) ≤ L * n := Nat.mul_le_mul_left L hkn
      rw [List.getElem?_append_left (by rw [hlen, Nat.mul_add] at *; omega)]
      exact ih hkn
    · obtain rfl : k = n := by omega
      rw [List.getElem?_append_right (by rw [hlen]; omega), hlen, Nat.add_sub_cancel_left]

/-! ### The tiles in the save area (R320, R328) -/

theorem tileBytes_length (t : Tile) : (tileBytes t).length = 0x4000 :=
  length_flatMap_range (fun _ => leBytes_length _ _) 4096

/-- Byte j of element e of tile k, among the bytes of a group's tiles. -/
theorem getElem?_tilesBytes (s : State) (g : Group) {k e j : Nat} (hk : k < g.tiles.length) (he : e < 4096) (hj : j < 4) :
    ((List.range g.tiles.length).flatMap fun t => tileBytes (tileAt s (physTile g t)))[0x4000 * k + 4 * e + j]? =
      some (BitVec.ofNat 8 ((tileElem (tileAt s (physTile g k)) e).toNat / 2 ^ (8 * j))) := by
  rw [Nat.add_assoc, getElem?_flatMap_range (fun _ => tileBytes_length _) hk (by omega), tileBytes,
    getElem?_flatMap_range (fun _ => leBytes_length _ _) he hj, leBytes_eq]
  simp [littleEndian, hj]

theorem tilesBytes_length (s : State) (g : Group) :
    ((List.range g.tiles.length).flatMap fun t => tileBytes (tileAt s (physTile g t))).length = g.tiles.length * 0x4000 := by
  rw [length_flatMap_range fun _ => tileBytes_length _, Nat.mul_comm]

theorem tileElem_tileOf (id : Nat) (bs : List Byte) {e : Nat} (he : e < 4096) :
    tileElem (tileOf id bs) e = BitVec.ofNat 32 (areaNat bs (4 * e) 4) := by
  have hfind : ∀ n, e < n → ((List.range n).map fun i => (i, BitVec.ofNat 32 (areaNat bs (4 * i) 4))).find? (fun p => decide (p.1 = e)) =
      some (e, BitVec.ofNat 32 (areaNat bs (4 * e) 4)) := fun n hn => by
    rw [List.find?_map, List.find?_range_eq_some.2 ⟨by simp, List.mem_range.2 hn, fun j hj => by simp; omega⟩]
    rfl
  rw [tileElem, tileOf, hfind 4096 he]

/-- Writing a row of tiles one after another: the last one written under a number stands. -/
theorem tileAt_foldl_tilePut (s : State) (id : Nat → Nat) (f : Nat → Tile) (hf : ∀ k, (f k).id = id k) {n k : Nat} (hk : k < n)
    (hlast : ∀ j, k < j → j < n → id j ≠ id k) : tileAt ((List.range n).foldl (fun s t => tilePut s (f t)) s) (id k) = f k := by
  induction n with
  | zero => omega
  | succ n ih =>
    rw [List.range_succ, List.foldl_append, List.foldl_cons, List.foldl_nil]
    by_cases hkn : k < n
    · rw [tileAt_tilePut_other _ (by rw [hf]; exact (hlast n hkn (Nat.lt_succ_self n)).symm)]
      exact ih hkn fun j hkj hj => hlast j hkj (by omega)
    · obtain rfl : k = n := by omega
      rw [← hf, tileAt_tilePut_same]

/-! ### The batch state in the save area (R328) -/

theorem merrWord_testBit (g : Group) (i : Fin 64) : (merrWord g).testBit i = g.merr.contains (g.bctr - 1 - BitVec.ofNat 16 i) := by
  rw [merrWord, (foldl_bits (fun i => g.merr.contains (g.bctr - 1 - BitVec.ofNat 16 i)) 64).2, decide_eq_true i.isLt, Bool.true_and]

theorem merrWord_lt (g : Group) : merrWord g < 2 ^ 64 :=
  (foldl_bits (fun i => g.merr.contains (g.bctr - 1 - BitVec.ofNat 16 i)) 64).1

theorem batchBytes_length (saved : Bool) (g : Group) : (batchBytes saved g).length = 0x11 := by simp [batchBytes, leBytes_length]

/-- The fields of the batch state: BCTR, MBDONE, MERR and the byte that says MSAVE stored them. -/
theorem areaNat_batchBytes (g : Group) : areaNat (batchBytes true g) 0 2 = g.bctr.toNat ∧ areaNat (batchBytes true g) 2 2 = g.mbdone.toNat ∧
    areaNat (batchBytes true g) 8 8 = merrWord g ∧ areaNat (batchBytes true g) 0x10 1 = 1 := by
  have hfield : ∀ v n, v < 2 ^ (8 * n) → leValue (leBytes v n) = v := fun v n h => by rw [leValue_leBytes, Nat.mod_eq_of_lt h]
  have hdrop : ∀ v n k, n ≤ k → (leBytes v n).drop k = [] := fun v n k h => List.drop_eq_nil_of_le (by rw [leBytes_length]; exact h)
  refine ⟨?_, ?_, ?_, ?_⟩
  · simp [areaNat, batchBytes, leBytes_length, hfield _ 2 g.bctr.isLt]
  · simp [areaNat, batchBytes, leBytes_length, hfield _ 2 g.mbdone.isLt]
  · simp [areaNat, batchBytes, List.drop_append, leBytes_length, hdrop, hfield _ 8 (merrWord_lt g)]
  · simp [areaNat, batchBytes, List.drop_append, leBytes_length, hdrop, leValue_cons]
    rfl

/-- The failed batches that a save area names. -/
theorem restoreBatch_merr (bs : List Byte) (g : Group) (i : Fin 64) :
    (restoreBatch bs g).merr.contains ((restoreBatch bs g).bctr - 1 - BitVec.ofNat 16 i) = (areaNat bs 8 8).testBit i := by
  have hinj : ∀ (n : BitVec 16) (j : Nat), j < 64 → (n - 1 - BitVec.ofNat 16 j = n - 1 - BitVec.ofNat 16 i ↔ j = i) := fun n j hj => by
    rw [BitVec.sub_right_inj]
    refine ⟨fun h => ?_, fun h => h ▸ rfl⟩
    have := congrArg BitVec.toNat h
    rwa [BitVec.toNat_ofNat, BitVec.toNat_ofNat, Nat.mod_eq_of_lt (by omega), Nat.mod_eq_of_lt (by omega)] at this
  rw [Bool.eq_iff_iff, List.contains_iff_mem]
  simp only [restoreBatch, List.mem_map, List.mem_filter, List.mem_range]
  constructor
  · rintro ⟨j, ⟨hj, hbit⟩, heq⟩
    rwa [(hinj _ j hj).1 heq] at hbit
  · exact fun hbit => ⟨i, ⟨i.isLt, hbit⟩, rfl⟩

/-! ### MSAVE (R295) -/

theorem exec_msave {s : State} (hh : s.cur.handler = true) (hq : s.cur.queue = []) (ho : s.cur.outs = []) (hb : s.cur.batches = [])
    (hop : s.cur.openOps = []) (hs : s.cur.msaved = false) (hd : storesDone s 4 = true) : exec .msave s = .next (matrixSave s) := by
  show execMsave s = _
  simp [execMsave, laneComplete, batchesDone, longOuts, hh, hq, ho, hb, hop, hs, hd]

theorem exec_mrest {s : State} (hh : s.cur.handler = true) (hq : s.cur.queue = []) (ho : s.cur.outs = []) (hb : s.cur.batches = [])
    (hs : s.cur.msaved = true) : exec .mrest s = .next (matrixRestore s) := by
  show execMrest s = _
  simp [execMrest, laneComplete, longOuts, hh, hq, ho, hb, hs]

/-- A page of the save area that cannot be written. -/
theorem matrixSave_error {s : State} {r1 : List Run} {c : Nat × W64} (ha : s.cur.tsave.toNat % 4096 = 0)
    (h : areaPages storeErr s .store 0x300 0x11 = .error c ∨ areaPages storeErr s .store 0x300 0x11 = .ok r1 ∧
      areaPages storeErr s .store 0x1000 (s.cur.tiles.length * 0x4000) = .error c) : matrixSave s = scalarTrap s c.1 c.2 := by
  unfold areaPages at h
  rcases h with h | ⟨h1, h2⟩
  · simp only [matrixSave, ha, h, ne_eq, not_true_eq_false, if_false]
  · simp only [matrixSave, ha, h1, h2, ne_eq, not_true_eq_false, if_false]

theorem matrixRestore_error {s : State} {r1 : List Run} {c : Nat × W64} (ha : s.cur.tsave.toNat % 4096 = 0)
    (h : areaPages loadErr s .load 0x300 0x11 = .error c ∨ areaPages loadErr s .load 0x300 0x11 = .ok r1 ∧
      areaPages loadErr s .load 0x1000 (s.cur.tiles.length * 0x4000) = .error c) : matrixRestore s = scalarTrap s c.1 c.2 := by
  unfold areaPages at h
  rcases h with h | ⟨h1, h2⟩
  · simp only [matrixRestore, ha, h, ne_eq, not_true_eq_false, if_false]
  · simp only [matrixRestore, ha, h1, h2, ne_eq, not_true_eq_false, if_false]

/-- What MSAVE stores: the tiles first, then the batch state. -/
def savedArea (s : State) (r1 r2 : List Run) : State :=
  storeRuns (storeRuns s (s.cur.tsave + 0x1000) r2
    ((List.range s.cur.tiles.length).flatMap fun t => tileBytes (tileAt s (physTile s.cur t)))) (s.cur.tsave + 0x300) r1 (batchBytes true s.cur)

theorem matrixSave_ok {s : State} {r1 r2 : List Run} (ha : s.cur.tsave.toNat % 4096 = 0)
    (h1 : areaPages storeErr s .store 0x300 0x11 = .ok r1) (h2 : areaPages storeErr s .store 0x1000 (s.cur.tiles.length * 0x4000) = .ok r2)
    (hb : runsBusy s true (r1 ++ r2) = false) : matrixSave s = modCur (advance (savedArea s r1 r2)) fun g => { g with msaved := true } := by
  unfold areaPages at h1 h2
  simp only [matrixSave, ha, h1, h2, hb, ne_eq, not_true_eq_false, Bool.false_eq_true, if_false]
  rfl

/-- The bytes of the save area after MSAVE: first the tiles stand there, then the batch state. -/
theorem savedArea_stored {s : State} {r1 r2 : List Run} (h1 : areaPages storeErr s .store 0x300 0x11 = .ok r1)
    (h2 : areaPages storeErr s .store 0x1000 (s.cur.tiles.length * 0x4000) = .ok r2) (hplain : ∀ r ∈ r1 ++ r2, plainMemory s r) :
    ∃ u v w, (∀ a, ¬ leafByte r2 a → memGet u a = memGet s a) ∧
      StoredRuns u v r2 ((List.range s.cur.tiles.length).flatMap fun t => tileBytes (tileAt s (physTile s.cur t))) ∧
      (∀ a, ¬ leafByte r1 a → memGet w a = memGet v a) ∧ StoredRuns w (savedArea s r1 r2) r1 (batchBytes true s.cur) ∧
      touchOff (savedArea s r1 r2) = touchOff s := by
  obtain ⟨u, hu, humem, hv⟩ := storeRuns_keeps (s.cur.tsave + 0x1000) (fun r hr => hplain r (List.mem_append_right _ hr))
    ((runsLen_areaPages h2).trans (tilesBytes_length s s.cur).symm)
  have hvs := hv.rest.trans hu
  have hlink := congrArg State.linkUp hvs
  obtain ⟨w, hw, hwmem, ht⟩ := storeRuns_keeps (s.cur.tsave + 0x300)
    (fun r hr => plainMemory_congr (t := storeRuns s (s.cur.tsave + 0x1000) r2 _) hlink (hplain r (List.mem_append_left _ hr)))
    ((runsLen_areaPages h1).trans (batchBytes_length true s.cur).symm)
  exact ⟨u, _, w, humem, hv, hwmem, ht, (ht.rest.trans hw).trans hvs⟩

theorem leafByte_append {r1 r2 : List Run} {a : Nat} : leafByte (r1 ++ r2) a ↔ leafByte r1 a ∨ leafByte r2 a := by
  simp only [leafByte, List.mem_append, or_and_right, exists_or]

/-- The bytes of one run that is stored whole. -/
theorem memRead_of_storedRuns {s t : State} {r : Run} {bs : List Byte} (h : StoredRuns s t [r] bs) (hlen : bs.length = r.len) :
    memRead t r.pa r.len = bs := by
  refine List.ext_getElem? fun i => ?_
  by_cases hi : i < r.len
  · rw [h.bytes i (r.pa + i) (runByte_cons_lt hi) fun q hq => ?_]
    · simp [memRead, hi]
    · unfold runByte runByte
      split
      · simp
        omega
      · exact nofun
  · rw [List.getElem?_eq_none (by rw [memRead_length]; omega), List.getElem?_eq_none (by omega)]

/-- The fields of the batch state in memory. -/
theorem numberAt_batch {t : State} {g : Group} {pa : Nat} (h : memRead t pa 0x11 = batchBytes true g) :
    numberAt t pa 2 = g.bctr.toNat ∧ numberAt t (pa + 2) 2 = g.mbdone.toNat ∧ numberAt t (pa + 0x10) 1 = 1 ∧
    ∀ i : Fin 64, (numberAt t (pa + 8) 8).testBit i = g.merr.contains (g.bctr - 1 - BitVec.ofNat 16 i) := by
  obtain ⟨hctr, hdone, herr, hone⟩ := areaNat_batchBytes g
  rw [← h, areaNat_memRead t (by decide)] at hctr hdone herr hone
  exact ⟨hctr, hdone, hone, fun i => herr ▸ merrWord_testBit g i⟩

/-! ### MREST (R295) -/

/-- What MREST has loaded before the batch state is the group's: the tiles put back. -/
def restoredTiles (s : State) (r1 r2 : List Run) : State :=
  let b2 := loadRuns (loadRuns s (s.cur.tsave + 0x300) r1).2 (s.cur.tsave + 0x1000) r2
  (List.range s.cur.tiles.length).foldl (fun u k => tilePut u (tileOf (physTile s.cur k) ((b2.1.drop (0x4000 * k)).take 0x4000))) b2.2

theorem matrixRestore_ok {s : State} {r1 r2 : List Run} (ha : s.cur.tsave.toNat % 4096 = 0)
    (h1 : areaPages loadErr s .load 0x300 0x11 = .ok r1) (h2 : areaPages loadErr s .load 0x1000 (s.cur.tiles.length * 0x4000) = .ok r2)
    (hb : runsBusy s false (r1 ++ r2) = false) : matrixRestore s =
      modCur (advance (restoredTiles s r1 r2)) (restoreBatch (loadRuns s (s.cur.tsave + 0x300) r1).1) := by
  unfold areaPages at h1 h2
  simp only [matrixRestore, ha, h1, h2, hb, ne_eq, not_true_eq_false, Bool.false_eq_true, if_false]
  rfl

/-- The tiles apart, MREST's loads leave what loads leave. -/
theorem restoredTiles_keeps (s : State) (r1 r2 : List Run) :
    (restoredTiles s r1 r2).cur = s.cur ∧ ∀ a, ¬ leafByte (r1 ++ r2) a → memGet (restoredTiles s r1 r2) a = memGet s a := by
  obtain ⟨hacc1, hmem1⟩ := loadRuns_keeps s (s.cur.tsave + 0x300) r1
  obtain ⟨hacc2, hmem2⟩ := loadRuns_keeps (loadRuns s (s.cur.tsave + 0x300) r1).2 (s.cur.tsave + 0x1000) r2
  have hfold := foldl_keeps (fun u : State => { u with tiles := [] })
    (fun u k => tilePut u (tileOf (physTile s.cur k) (((loadRuns (loadRuns s (s.cur.tsave + 0x300) r1).2 (s.cur.tsave + 0x1000) r2).1.drop
      (0x4000 * k)).take 0x4000))) (fun _ _ => rfl) (List.range s.cur.tiles.length)
    (loadRuns (loadRuns s (s.cur.tsave + 0x300) r1).2 (s.cur.tsave + 0x1000) r2).2
  refine ⟨((congrArg State.cur hfold :).trans (congrArg State.cur hacc2 :)).trans (congrArg State.cur hacc1 :), fun a ha => ?_⟩
  rw [leafByte_append, not_or] at ha
  exact ((memGet_congr (congrArg State.mem hfold :) (congrArg State.revived hfold :) a).trans (hmem2 a ha.2)).trans (hmem1 a ha.1)

/-- The elements of the tiles that MREST gives back; of two under one number the last one stands. -/
theorem tileElem_restoredTiles {s : State} {r1 r2 : List Run} {k e : Nat} (hk : k < s.cur.tiles.length) (he : e < 4096)
    (hlast : ∀ j, k < j → j < s.cur.tiles.length → physTile s.cur j ≠ physTile s.cur k) :
    tileElem (tileAt (restoredTiles s r1 r2) (physTile s.cur k)) e =
      BitVec.ofNat 32 (leValue (((loadRuns (loadRuns s (s.cur.tsave + 0x300) r1).2 (s.cur.tsave + 0x1000) r2).1.drop
        (0x4000 * k + 4 * e)).take 4)) := by
  rw [restoredTiles, tileAt_foldl_tilePut _ (physTile s.cur)
    (fun k => tileOf (physTile s.cur k) (((loadRuns (loadRuns s (s.cur.tsave + 0x300) r1).2 (s.cur.tsave + 0x1000) r2).1.drop
      (0x4000 * k)).take 0x4000)) (fun _ => rfl) hk hlast, tileElem_tileOf _ _ he, areaNat, List.drop_take, List.take_take, List.drop_drop,
    Nat.min_eq_left (by omega)]

/-- The batch state that MREST gives back, from one run of memory proper. -/
theorem restoreBatch_run {s : State} {r : Run} (hplain : plainMemory s r) (hlen : r.len = 0x11) (ea : W64) (g : Group) :
    let b := loadRuns s ea [r]
    (restoreBatch b.1 g).bctr = BitVec.ofNat 16 (numberAt b.2 r.pa 2) ∧
    (restoreBatch b.1 g).mbdone = BitVec.ofNat 16 (numberAt b.2 (r.pa + 2) 2) ∧
    ∀ i : Fin 64, (restoreBatch b.1 g).merr.contains ((restoreBatch b.1 g).bctr - 1 - BitVec.ofNat 16 i) =
      (numberAt b.2 (r.pa + 8) 8).testBit i := by
  intro b
  have hbytes : b.1 = memRead b.2 r.pa 0x11 := by
    rw [← hlen, ← readPlace_plain hplain]
    exact List.flatMap_singleton _ _
  have hfield : ∀ k m, k + m ≤ 0x11 → areaNat b.1 k m = numberAt b.2 (r.pa + k) m := fun k m h => by
    rw [hbytes, areaNat_memRead b.2 h]
  exact ⟨congrArg (BitVec.ofNat 16) (hfield 0 2 (by decide)), congrArg (BitVec.ofNat 16) (hfield 2 2 (by decide)),
    fun i => by rw [restoreBatch_merr, hfield 8 8 (by decide)]⟩

/-! ### The statement -/

/-- Settles O14: MSAVE stores the tiles, then the batch state, to the runs of the save area; MREST reads them back. -/
theorem matrixSaveAndRestore : Obligations.MatrixSave := by
  intro s r1 r2 hh hq ho hb hop ha
  refine ⟨fun hs hd h1 h2 hplain hbusy => ?_, fun c hs hd h => ?_, fun c hs h => ?_, fun hs h1 h2 hbusy u hu => ?_⟩
  · obtain ⟨u, v, w, hu, hv, hw, ht, hrest⟩ := savedArea_stored h1 h2 hplain
    have hcur : (savedArea s r1 r2).cur = s.cur := (congrArg State.cur hrest :)
    refine ⟨_, (exec_msave hh hq ho hb hop hs hd).trans (congrArg Host.Outcome.next (matrixSave_ok ha h1 h2 hbusy)), ?_, fun r hr => ?_,
      fun k e j a hk he hj hp hlast hr1 hleaf => ?_, fun a hp hleaf => ?_⟩
    · rw [modCur_cur, advance_cur, hcur]
    · subst hr
      have hlen : r.len = 0x11 := by simpa [runsLen] using runsLen_areaPages h1
      have hread := memRead_of_storedRuns ht (by rw [batchBytes_length, hlen])
      rw [hlen] at hread
      exact numberAt_batch (t := savedArea s [r] r2) hread
    · have hbyte := hv.bytes _ a hp hlast
      rw [getElem?_tilesBytes s s.cur hk he hj, Option.some.injEq] at hbyte
      exact ((ht.others a hr1).trans (hw a hleaf)).trans hbyte.symm
    · rw [leafByte_append, not_or] at hleaf
      have hbatch := (ht.others a fun p => (hp p).1).trans (hw a hleaf.1)
      exact (hbatch.trans (hv.others a fun p => (hp p).2)).trans (hu a hleaf.2)
  · rw [exec_msave hh hq ho hb hop hs hd, matrixSave_error ha h]
  · rw [exec_mrest hh hq ho hb hs, matrixRestore_error ha h]
  · subst hu
    obtain ⟨hcur, hmem⟩ := restoredTiles_keeps s r1 r2
    have hgroup : (modCur (advance (restoredTiles s r1 r2)) (restoreBatch (loadRuns s (s.cur.tsave + 0x300) r1).1)).cur =
        restoreBatch (loadRuns s (s.cur.tsave + 0x300) r1).1 { s.cur with pc := s.cur.pc + 4 } := by
      rw [modCur_cur, advance_cur, hcur]
    refine ⟨_, (exec_mrest hh hq ho hb hs).trans (congrArg Host.Outcome.next (matrixRestore_ok ha h1 h2 hbusy)), ?_, ?_, ?_, ?_, ?_,
      fun r hr hp => ?_, fun k e hk he hlast => tileElem_restoredTiles hk he hlast, hmem⟩
    · rw [hgroup]; rfl
    · rw [hgroup]; rfl
    · rw [hgroup]; rfl
    · rw [hgroup]; rfl
    · rw [hgroup]; rfl
    · subst hr
      rw [hgroup]
      exact restoreBatch_run hp (by simpa [runsLen] using runsLen_areaPages h1) _ _

end Sys2Proof.Machine
end

section
/-! The slots of the broadcast window, data responses, acknowledgements of invalidations, and frames (R91, R280, R282, R336, R343). -/
namespace Sys2Proof.Machine

open Sys2Proof.Claims

/-! ### Broadcast-window slots (R109, R280, R282) -/

/-- A change of one group, seen under its key. -/
theorem findGroup_onGroupData {s : State} {k : GKey} {g : Group} (hg : findGroup s k = some g) {f : Group → Group} (hkey : ∀ g, (f g).key = g.key)
    (hstatus : ∀ g, (f g).status = g.status) : findGroup (onGroupData s k f) k = some (f g) := by
  unfold findGroup at hg
  unfold findGroup onGroupData
  split at hg
  · next hcur =>
    cases hg
    rw [if_pos hcur]
    simp only [hkey, hstatus]
    rw [if_pos hcur]
  · next hcur =>
    rw [if_neg hcur]
    simp only [hcur, Bool.false_eq_true, if_false]
    rw [find?_replaceFirst_same _ f (fun x => by rw [hkey]), hg]
    rfl

/-- What a broadcast slot does to the crews that take it. -/
def deliverCrews (s : State) (x : Slot) (line : Nat) (bytes : List Byte) : State :=
  (allCrews s).foldl (fun s c => (c.subs.filter fun u => subTakes u x line).foldl (deliverSub c x line bytes) s) s

/-- BSYNC's slot of a group is done, and its SC store is performed (R109, R282). -/
def slotDone (id : Nat) (g : Group) : Group :=
  { g with bslots := g.bslots.map fun b => if b.id = id then { b with done := true } else b
           scOpen := g.scOpen.filter fun e => e.use ≠ .window id }

/-- What a broadcast slot does to the group that sent it and to the SC order. -/
def deliverSender (s u : State) (id : Nat) (k : GKey) : State :=
  match (findGroup s k).bind fun g => scFind g (.window id) with
  | some e => { onGroupData u k (slotDone id) with scLast := laterPlace u.scLast e.place }
  | none => onGroupData u k (slotDone id)

theorem onGroupData_scLast (s : State) (k : GKey) (f : Group → Group) : (onGroupData s k f).scLast = s.scLast := by
  unfold onGroupData
  split <;> rfl

theorem deliverBcast_eq (s : State) (x : Slot) (line : Nat) (bytes : List Byte) (k : GKey) :
    deliverBcast s x line bytes k = deliverSender s (deliverCrews s x line bytes) x.id k := by
  simp only [deliverBcast, onGroupData_scLast]
  rfl

theorem exec_bcast {s : State} {p : Nat} {x : Slot} {line : Nat} {bytes : List Byte} {k : GKey} (hx : headSlot s p = some x)
    (hm : x.msg = .bcast line bytes k) : exec (.bcast p) s =
      .next (deliverSender (takeSlot s p x) (deliverCrews (takeSlot s p x) x line bytes) x.id k) := by
  rw [← deliverBcast_eq]
  show execBcast p s = _
  simp [execBcast, applyHead, applySlot, hx, hm]

/-- Only the crews that take a slot are changed by it. -/
theorem deliverCrews_eq (s : State) (x : Slot) (line : Nat) (bytes : List Byte) : deliverCrews s x line bytes =
    ((allCrews s).filter fun c => c.subs.any fun v => subTakes v x line).foldl
      (fun s c => (c.subs.filter fun u => subTakes u x line).foldl (deliverSub c x line bytes) s) s := by
  rw [deliverCrews, List.foldl_filter]
  congr 1
  funext u c
  split
  · rfl
  · next h =>
    have hnone : c.subs.filter (fun u => subTakes u x line) = [] :=
      List.filter_eq_nil_iff.2 fun v hv htakes => h (List.any_eq_true.2 ⟨v, hv, htakes⟩)
    rw [hnone]
    rfl

/-- Where no subscription takes the slot, no crew and no byte changes. -/
theorem deliverCrews_none {s : State} {x : Slot} {line : Nat}
    (h : ∀ c ∈ allCrews s, ∀ v ∈ c.subs, subTakes v x line = false) (bytes : List Byte) :
    deliverCrews s x line bytes = s := by
  have hnone : ((allCrews s).filter fun c => c.subs.any fun v => subTakes v x line) = [] :=
    List.filter_eq_nil_iff.2 fun c hc hany => by
      obtain ⟨v, hv, htakes⟩ := List.any_eq_true.1 hany
      rw [h c hc v hv] at htakes
      cases htakes
  rw [deliverCrews_eq, hnone]
  rfl

/-- Where one subscription of one crew takes it, the slot is delivered there. -/
theorem deliverCrews_one {s : State} {x : Slot} {line : Nat} {c : Crew} {v : Sub}
    (hc : (allCrews s).filter (fun c => c.subs.any fun v => subTakes v x line) = [c]) (hv : c.subs.filter (fun v => subTakes v x line) = [v])
    (bytes : List Byte) : deliverCrews s x line bytes = deliverSub c x line bytes s v := by
  rw [deliverCrews_eq, hc, List.foldl_cons, hv]
  rfl

theorem memGet_onGroupData (s : State) (k : GKey) (f : Group → Group) (a : Nat) : memGet (onGroupData s k f) a = memGet s a := by
  unfold onGroupData
  split <;> rfl

/-- Of the machine a sender's slot changes its group and the SC order. -/
theorem deliverSender_rest (s u : State) (id : Nat) (k : GKey) :
    (∀ a, memGet (deliverSender s u id k) a = memGet u a) ∧ (∀ j, findCrew (deliverSender s u id k) j = findCrew u j) ∧
      (deliverSender s u id k).crew = u.crew ∧ (deliverSender s u id k).crews = u.crews := by
  have hcrews : (onGroupData u k (slotDone id)).crew = u.crew ∧ (onGroupData u k (slotDone id)).crews = u.crews := by
    unfold onGroupData
    split <;> exact ⟨rfl, rfl⟩
  unfold deliverSender
  split
  · exact ⟨fun a => memGet_onGroupData u k _ a, fun j => onGroupData_crews u k _ j, hcrews⟩
  · exact ⟨fun a => memGet_onGroupData u k _ a, fun j => onGroupData_crews u k _ j, hcrews⟩

/-- The sender's group, with its SC store, after its slot has taken effect. -/
theorem deliverSender_group {s : State} {k : GKey} {g : Group} (hg : findGroup s k = some g) (id : Nat) :
    findGroup (deliverSender s s id k) k = some (slotDone id g) ∧
    (deliverSender s s id k).scLast = (match scFind g (.window id) with
      | some e => laterPlace s.scLast e.place
      | none => s.scLast) := by
  have hfound := findGroup_onGroupData hg (f := slotDone id) (fun _ => rfl) (fun _ => rfl)
  cases he : scFind g (.window id) with
  | none =>
    simp only [deliverSender, hg, Option.bind_some, he]
    exact ⟨hfound, onGroupData_scLast _ _ _⟩
  | some e =>
    simp only [deliverSender, hg, Option.bind_some, he]
    exact ⟨hfound, trivial⟩

theorem findCrew_onCrewData_same {s : State} {k : GKey} {c : Crew} (hc : findCrew s k = some c) {f : Crew → Crew} (hf : ∀ c, (f c).key = c.key) :
    findCrew (onCrewData s k f) k = some (f c) := by
  rw [findCrew_onCrewData s k k hf, if_pos rfl, hc]
  rfl

/-- A slot delivered to a subscription of a crew that runs: the line and the arrival of its bytes. -/
theorem deliverSub_running {s : State} {c : Crew} {x : Slot} {v : Sub} {line : Nat} (hrun : c.halt = .running) (hsince : v.since < x.frame)
    (hfound : findCrew s c.key = some c) (bytes : List Byte) : ∃ w,
      w = memWrite s (scratchPa c.cluster c.core (c.spbase + v.spoff + (line * 128 - v.wbase))) bytes ∧
      (∀ a, memGet (deliverSub c x line bytes s v) a = memGet w a) ∧ findCrew (deliverSub c x line bytes s v) c.key =
        some { c with bbs := c.bbs.set v.bar (arrived 128 ((barAt c v.bar).phase.getLsbD 0) 0 (barAt c v.bar)) } := by
  have htake : (crewAway c || decide (x.frame ≤ v.since)) = false := by
    simp [crewAway, hrun, hsince]
  refine ⟨_, rfl, fun a => ?_, ?_⟩
  · rw [deliverSub, if_neg (by rw [htake]; decide), memGet_onCrewData]
  · rw [deliverSub, if_neg (by rw [htake]; decide)]
    refine (findCrew_onCrewData_same (s := memWrite s _ bytes) hfound (f := onBar v.bar fun b => arriveBar 128 (phaseBit b) 0 b)
      fun _ => rfl).trans ?_
    simp only [onBar, arriveBar_eq]
    rfl

/-- A slot that a subscription misses. -/
theorem deliverSub_missed {s : State} {c : Crew} {x : Slot} {v : Sub}
    (haway : c.halt = .saved ∨ c.halt = .stopped ∨ c.halt = .over ∨ x.frame ≤ v.since)
    (hsub : c.subs.find? (fun y => y.num = v.num) = some v) (hfound : findCrew s c.key = some c) (line : Nat) (bytes : List Byte) :
    (∀ a, memGet (deliverSub c x line bytes s v) a = memGet s a) ∧ ∃ d, findCrew (deliverSub c x line bytes s v) c.key = some d ∧
      (∃ y ∈ d.subs, y = { v with missed := v.missed + 1 }) ∧ { d with subs := c.subs } = c := by
  have hmiss : (crewAway c || decide (x.frame ≤ v.since)) = true := by
    simpa [crewAway, or_assoc] using haway
  refine ⟨fun a => ?_, ?_⟩
  · rw [deliverSub, if_pos hmiss, memGet_onCrewData]
  · have hnew := find?_replaceFirst_same (fun y : Sub => decide (y.num = v.num)) (fun w => { w with missed := w.missed + 1 }) (fun _ => rfl) c.subs
    rw [hsub] at hnew
    rw [deliverSub, if_pos hmiss]
    exact ⟨_, findCrew_onCrewData_same hfound (fun _ => rfl), ⟨_, List.mem_of_find?_eq_some hnew, rfl⟩, rfl⟩

/-! ### Data responses (R343) -/

/-- The words of a data response arrive for the requests of a cluster that have taken effect. -/
def responds (s : State) (c line : Nat) (r : Request) : Bool := decide (r.cluster = c) && decide (r.line = line) && slotApplied s line r.slot

/-- A request with some words that have come. -/
def withWords (m : W32) (r : Request) : Request := { r with got := r.got ||| m }

/-- The requests still open once words have come: those that miss a word. -/
theorem mem_reqs_closeRequest {s : State} {c line : Nat} {m : W32} {r : Request} : r ∈ (closeRequest s c line m).reqs ↔
    r.mask &&& ~~~r.got ≠ 0 ∧ ∃ y ∈ s.reqs, (if responds s c line y then withWords m y else y) = r := by
  show r ∈ ((s.reqs.map fun y => if responds s c line y then withWords m y else y).filter fun r => r.mask &&& ~~~r.got ≠ 0) ↔ _
  rw [List.mem_filter, List.mem_map, decide_eq_true_eq, and_comm]

theorem responds_iff {s : State} {c line : Nat} {r : Request} :
    responds s c line r = true ↔ r.cluster = c ∧ r.line = line ∧ slotApplied s line r.slot = true := by
  simp [responds, and_assoc]

theorem exec_dataResponse (s : State) (c line : Nat) (m : W32) :
    exec (.dataResponse c line m) s = .next (if filterRoom s line then closeRequest s c line m else s) := rfl

theorem closeRequest_reqs (s : State) (c line : Nat) (m : W32) :
    (∀ r ∈ s.reqs, r.cluster = c → r.line = line → slotApplied s line r.slot = true → r.mask &&& ~~~(r.got ||| m) ≠ 0 →
      { r with got := r.got ||| m } ∈ (closeRequest s c line m).reqs) ∧
    (∀ r ∈ (closeRequest s c line m).reqs, r.cluster = c → r.line = line → slotApplied s line r.slot = true →
      r.mask &&& ~~~r.got ≠ 0 ∧ ∃ y ∈ s.reqs, r = { y with got := y.got ||| m }) ∧
    ∀ r, (r.cluster ≠ c ∨ r.line ≠ line ∨ slotApplied s line r.slot = false) → r.mask &&& ~~~r.got ≠ 0 →
      (r ∈ (closeRequest s c line m).reqs ↔ r ∈ s.reqs) := by
  refine ⟨fun r hr hc hl ha hmask => ?_, fun r hr hc hl ha => ?_, fun r hne hmask => ?_⟩
  · exact mem_reqs_closeRequest.2 ⟨hmask, r, hr, if_pos (responds_iff.2 ⟨hc, hl, ha⟩)⟩
  · obtain ⟨hmask, y, hy, heq⟩ := mem_reqs_closeRequest.1 hr
    have hresp : responds s c line r = true := responds_iff.2 ⟨hc, hl, ha⟩
    split at heq
    · exact ⟨hmask, y, hy, heq.symm⟩
    · next hn => exact absurd (heq ▸ hresp) hn
  · have hnot : ¬ responds s c line r = true := fun h => by
      obtain ⟨hc, hl, ha⟩ := responds_iff.1 h
      rcases hne with hne | hne | hne
      · exact hne hc
      · exact hne hl
      · rw [ha] at hne
        cases hne
    rw [mem_reqs_closeRequest]
    constructor
    · rintro ⟨-, y, hy, heq⟩
      split at heq
      · next hresp => exact absurd (heq ▸ hresp) hnot
      · exact heq ▸ hy
    · exact fun hr => ⟨hmask, r, hr, if_neg hnot⟩

/-! ### Planes, and the slots queued on them (R336) -/

theorem nth_planes_onPlane_same {s : State} {p : Nat} (hp : p < s.planes.length) (f : Plane → Plane) :
    nth (onPlane s p f).planes p idlePlane = f (nth s.planes p idlePlane) := by
  simp [onPlane, nth, hp]

theorem nth_planes_onPlane_other (s : State) {p q : Nat} (h : q ≠ p) (f : Plane → Plane) :
    nth (onPlane s p f).planes q idlePlane = nth s.planes q idlePlane := by
  simp [onPlane, nth, List.getElem?_set_ne h.symm]

theorem nth_planes_queueSlot_same {s : State} {p : Nat} (hp : p < s.planes.length) (w : Nat) (m : Msg) :
    nth (queueSlot s p w m).planes p idlePlane = { nth s.planes p idlePlane with
      pend := (nth s.planes p idlePlane).pend ++ [{ id := s.nextId, frame := 0, writer := w, msg := m, last := 0, resent := 0 }] } :=
  nth_planes_onPlane_same (s := { s with nextId := s.nextId + 1 }) hp _

theorem queuedLast_queueSlot {s : State} {p : Nat} (hp : p < s.planes.length) (w : Nat) (m : Msg) : queuedLast s (queueSlot s p w m) p w m :=
  ⟨⟨_, rfl, rfl, rfl, congrArg Plane.pend (nth_planes_queueSlot_same hp w m)⟩, fun _ hq => nth_planes_onPlane_other _ hq _⟩

/-! ### Acknowledgements (R91) -/

theorem exec_tlbAcknowledge {s : State} {id h : Nat} {i : Inval} (hi : s.invals.find? (fun i => i.id = id) = some i) (hw : h ∈ i.waiting)
    (hslots : ∀ q ∈ s.planes, ∀ x ∈ q.pend ++ q.sent, x.msg ≠ .tlbinv id ∧ ¬ (x.writer = h ∧ x.msg = .ack id))
    (hbusy : ∀ g ∈ allGroups s, g.cluster = h → (∀ b ∈ g.bslots, b.done = true) ∧ ∀ o ∈ g.outs, ∀ tl d, o.act ≠ .accst tl d) :
    exec (.tlbAcknowledge id h) s = .next (queueSlot s 0 h (.ack id)) := by
  have hsent : (s.planes.any fun q => (q.pend ++ q.sent).any fun x => x.writer = h && x.msg = .ack id) = false := by
    rw [List.any_eq_false]
    intro q hq hany
    obtain ⟨x, hx, hmsg⟩ := List.any_eq_true.1 hany
    exact (hslots q hq x hx).2 (by simpa using hmsg)
  have hpending : invalPending s id = false := by
    rw [invalPending, List.any_eq_false]
    intro q hq hany
    obtain ⟨x, hx, hmsg⟩ := List.any_eq_true.1 hany
    exact (hslots q hq x hx).1 (by simpa using hmsg)
  have hholder : holderBusy s h = false := by
    rw [holderBusy, List.any_eq_false]
    intro g hg hany
    rw [Bool.and_eq_true, decide_eq_true_eq, Bool.or_eq_true] at hany
    obtain ⟨hcl, hany⟩ := hany
    obtain ⟨hdone, hacts⟩ := hbusy g hg hcl
    rcases hany with hany | hany
    · obtain ⟨b, hb, hnd⟩ := List.any_eq_true.1 hany
      rw [hdone b hb] at hnd
      cases hnd
    · obtain ⟨o, ho, hact⟩ := List.any_eq_true.1 hany
      split at hact
      · next tl d heq => exact hacts o ho tl d heq
      · cases hact
  show execTlbAcknowledge id h s = _
  simp only [execTlbAcknowledge, hi, hsent, hpending, hholder, List.contains_iff_mem.2 hw, Bool.not_false, Bool.and_true, if_true]

/-! ### What hardware does of its own accord on the planes (R336) -/

/-- t is s with slots queued: nothing that has been sent or goes again differs, and what is new to send has a new identity. -/
structure SlotsQueued (s t : State) : Prop where
  ids : s.nextId ≤ t.nextId
  planes : t.planes.length = s.planes.length
  revived : t.revived = s.revived
  sent : ∀ p, (nth t.planes p idlePlane).sent = (nth s.planes p idlePlane).sent
  again : ∀ p, (nth t.planes p idlePlane).again = (nth s.planes p idlePlane).again
  pend : ∀ p, ∀ y ∈ (nth t.planes p idlePlane).pend, y ∈ (nth s.planes p idlePlane).pend ∨ s.nextId ≤ y.id

/-- What slots are queued on: the planes, the next identity, and the keys of memory's contents. -/
def queueView (t : State) : List Plane × Nat × List (Nat × Nat × Nat) := (t.planes, t.nextId, t.revived)

theorem SlotsQueued.of_view {s t : State} (h : queueView t = queueView s) : SlotsQueued s t := by
  simp only [queueView, Prod.mk.injEq] at h
  obtain ⟨hplanes, hids, hrevived⟩ := h
  refine ⟨hids.ge, by rw [hplanes], hrevived, fun p => by rw [hplanes], fun p => by rw [hplanes], fun p y hy => .inl ?_⟩
  rwa [hplanes] at hy

theorem SlotsQueued.trans {s t u : State} (h : SlotsQueued s t) (h' : SlotsQueued t u) : SlotsQueued s u where
  ids := h.ids.trans h'.ids
  planes := h'.planes.trans h.planes
  revived := h'.revived.trans h.revived
  sent p := (h'.sent p).trans (h.sent p)
  again p := (h'.again p).trans (h.again p)
  pend p y hy := (h'.pend p y hy).elim (h.pend p y) fun hid => .inr (h.ids.trans hid)

theorem slotsQueued_queueSlot (s : State) (p w : Nat) (m : Msg) : SlotsQueued s (queueSlot s p w m) := by
  have hlen : (queueSlot s p w m).planes.length = s.planes.length := List.length_set
  by_cases hp : p < s.planes.length
  · obtain ⟨⟨x, -, -, hid, hpend⟩, hother⟩ := queuedLast_queueSlot hp w m
    have hsame := nth_planes_queueSlot_same hp w m
    refine ⟨Nat.le_succ _, hlen, rfl, fun q => ?_, fun q => ?_, fun q y hy => ?_⟩
    · by_cases hq : q = p
      · rw [hq, hsame]
      · rw [hother q hq]
    · by_cases hq : q = p
      · rw [hq, hsame]
      · rw [hother q hq]
    · by_cases hq : q = p
      · subst hq
        rw [hpend, List.mem_append, List.mem_singleton] at hy
        exact hy.imp_right fun h => by rw [h, hid]
      · rw [hother q hq] at hy
        exact .inl hy
  · have hsame : (queueSlot s p w m).planes = s.planes := List.set_eq_of_length_le (Nat.le_of_not_lt hp)
    exact ⟨Nat.le_succ _, hlen, rfl, fun q => by rw [hsame], fun q => by rw [hsame], fun q y hy => .inl (by rwa [hsame] at hy)⟩

theorem slotsQueued_sendRequest (s : State) (c line : Nat) (m : W32) (x : Msg) : SlotsQueued s (sendRequest s c line m x) := by
  unfold sendRequest
  split
  · exact .of_view rfl
  · exact (slotsQueued_queueSlot s (planeOf line) c x).trans (.of_view rfl)

theorem slotsQueued_askLine (s : State) (c line : Nat) (m : W32) (write : Bool) (core agent : Nat) :
    SlotsQueued s (askLine s c line m write core agent) :=
  (slotsQueued_sendRequest ..).trans (slotsQueued_sendRequest ..)

theorem slotsQueued_recallLine (s : State) (line : Nat) : SlotsQueued s (recallLine s line) := by
  unfold recallLine
  split
  · exact (slotsQueued_queueSlot s _ _ _).trans (.of_view rfl)
  · exact .of_view rfl

theorem slotsQueued_writeBack (s : State) (c : Nat) (d : WordDir) : SlotsQueued s (writeBack s c d) := by
  unfold writeBack
  dsimp only
  split
  · exact .of_view rfl
  · exact slotsQueued_queueSlot _ _ _ _

theorem queueView_cacheEntry (s : State) (t : TlbEntry) : queueView (cacheEntry s t) = queueView s := by
  unfold cacheEntry
  split <;> rfl

theorem queueView_mgmtPut (s : State) (off hi lo v : Nat) : queueView (mgmtPut s off hi lo v) = queueView s :=
  (congrArg queueView (mgmtPut_rest s off hi lo v) :)

theorem queueView_dropCopies (s : State) (c : Nat) (d : WordDir) : queueView (dropCopies s c d) = queueView s := by
  unfold dropCopies
  split <;> rfl

/-- Of its own accord hardware only queues slots. -/
theorem slotsQueued_spontaneous (s : State) : SlotsQueued s (spontaneous s) := by
  unfold spontaneous
  dsimp only
  split
  · exact slotsQueued_writeBack _ _ _
  · exact .of_view (queueView_dropCopies _ _ _)
  · split
    · exact .of_view rfl
    · exact slotsQueued_recallLine _ _
  · split
    · exact slotsQueued_askLine _ _ _ _ _ _ _
    · exact .of_view rfl
  · exact .of_view (foldl_keeps queueView cacheEntry queueView_cacheEntry _ s)
  · exact .of_view (queueView_mgmtPut _ _ _ _ _)
  · exact .of_view rfl

/-! ### The slots of a frame (R336, R340) -/

/-- A row that names at most one element for each number, in ascending order: the numbers stay in order. -/
theorem pairwise_filterMap_range {α : Type} {f : Nat → Option α} {num : α → Nat} (hf : ∀ w x, f w = some x → num x = w) (n : Nat) :
    (((List.range n).filterMap f).map num).Pairwise (· < ·) := by
  rw [List.pairwise_map, List.pairwise_filterMap]
  exact List.pairwise_lt_range.imp fun {a b} hab x hx y hy => by rwa [hf a x hx, hf b y hy]

/-- The slot of a writer that goes on a plane again in a frame, with its writer. -/
def againOf (s : State) (p f w : Nat) : Option (Nat × Nat) :=
  if maySend s p w f && !((nth s.planes p idlePlane).pend.any fun x => x.writer = w && isControl x.msg) then
    (nth s.planes p idlePlane).again.find? fun a => a.1 = w
  else none

theorem againOf_some {s : State} {p f w : Nat} {i : Nat × Nat} (h : againOf s p f w = some i) :
    i.1 = w ∧ i ∈ (nth s.planes p idlePlane).again ∧ (nextAgain (nth s.planes p idlePlane) w).isSome = true := by
  unfold againOf at h
  split at h
  · next hsend =>
    rw [Bool.and_eq_true, Bool.not_eq_true'] at hsend
    refine ⟨by simpa using List.find?_some h, List.mem_of_find?_eq_some h, ?_⟩
    rw [nextAgain, if_neg (by rw [hsend.2]; decide), h]
    rfl
  · cases h

theorem frameAgain_eq (s : State) (p f : Nat) : frameAgain s p f = ((List.range 80).filterMap (againOf s p f)).map (·.2) := by
  rw [frameAgain, List.map_filterMap]
  congr 1
  funext w
  unfold againOf nextAgain
  cases maySend s p w f with
  | false => rfl
  | true =>
    cases (nth s.planes p idlePlane).pend.any fun x => x.writer = w && isControl x.msg with
    | false => rfl
    | true => rfl

/-- What a writer sends new on a plane: its own slot, waiting there, and none while a slot of it goes again. -/
theorem offered_some {s : State} {p w f : Nat} {y : Slot} (h : offered s p w f = some y) :
    y.writer = w ∧ y ∈ (nth s.planes p idlePlane).pend ∧ (nextAgain (nth s.planes p idlePlane) w).isSome = false := by
  unfold offered at h
  split at h
  · obtain ⟨h, -⟩ := Option.filter_eq_some_iff.1 h
    unfold nextSend at h
    split at h
    · next x hx =>
      cases h
      have hfound := List.find?_some hx
      have hany : ((nth s.planes p idlePlane).pend.any fun x => x.writer = w && isControl x.msg) = true :=
        List.any_eq_true.2 ⟨_, List.mem_of_find?_eq_some hx, hfound⟩
      refine ⟨?_, List.mem_of_find?_eq_some hx, ?_⟩
      · simp only [Bool.and_eq_true, decide_eq_true_eq] at hfound
        exact hfound.1
      · rw [nextAgain, if_pos hany]
        rfl
    · split at h
      · cases h
      · next hstop =>
        obtain ⟨h, -⟩ := Option.filter_eq_some_iff.1 h
        rw [Bool.or_eq_true, not_or, Bool.not_eq_true, Bool.not_eq_true] at hstop
        exact ⟨by simpa using List.find?_some h, List.mem_of_find?_eq_some h, hstop.2⟩
  · cases h

/-- The slot that a writer sends new on a plane in a frame, with its stamp. -/
def sentNew (s : State) (p f w : Nat) : Option Slot :=
  (offered s p w f).bind fun x => if descReady s f x then some { x with frame := f, last := f } else none

theorem sentNew_some {s : State} {p f w : Nat} {x : Slot} (h : sentNew s p f w = some x) :
    ∃ y, offered s p w f = some y ∧ x = { y with frame := f, last := f } := by
  obtain ⟨y, hy, hx⟩ := Option.bind_eq_some_iff.1 h
  split at hx
  · exact ⟨y, hy, (Option.some.inj hx).symm⟩
  · cases hx

theorem sentNew_writer {s : State} {p f w : Nat} {x : Slot} (h : sentNew s p f w = some x) : x.writer = w := by
  obtain ⟨y, hy, rfl⟩ := sentNew_some h
  exact (offered_some hy).1

/-- What a frame carries on a plane: at most one slot of each writer, new or sent again. -/
theorem frame_slots (s : State) (p f : Nat) : ((frameSlots s p f).map (·.writer)).Pairwise (· < ·) ∧
    (((List.range 80).filterMap (againOf s p f)).map (·.1)).Pairwise (· < ·) ∧
    (∀ i ∈ (List.range 80).filterMap (againOf s p f), i ∈ (nth s.planes p idlePlane).again) ∧
    (∀ i ∈ (List.range 80).filterMap (againOf s p f), ∀ x ∈ frameSlots s p f, x.writer ≠ i.1) ∧
    ∀ x ∈ frameSlots s p f, ∃ y ∈ (nth s.planes p idlePlane).pend, x = { y with frame := f, last := f } := by
  refine ⟨pairwise_filterMap_range (fun w x h => sentNew_writer h) 80, pairwise_filterMap_range (fun w i h => (againOf_some h).1) 80,
    fun i hi => ?_, fun i hi x hx heq => ?_, fun x hx => ?_⟩
  · obtain ⟨w, -, hw⟩ := List.mem_filterMap.1 hi
    exact (againOf_some hw).2.1
  · obtain ⟨w, -, hw⟩ := List.mem_filterMap.1 hi
    obtain ⟨v, -, hv⟩ := List.mem_filterMap.1 hx
    obtain ⟨y, hy, hxy⟩ := sentNew_some hv
    obtain ⟨hiw, -, hagain⟩ := againOf_some hw
    obtain ⟨-, -, hnone⟩ := offered_some hy
    rw [← sentNew_writer hv, heq, hiw, hagain] at hnone
    cases hnone
  · obtain ⟨v, -, hv⟩ := List.mem_filterMap.1 hx
    obtain ⟨y, hy, hxy⟩ := sentNew_some hv
    exact ⟨y, (offered_some hy).2.1, hxy⟩

/-! ### A frame (R336, R337) -/

/-- A plane's slots sent, and whether there is such a plane. -/
def sentView (p : Nat) (s : State) : Nat × List Slot := (s.planes.length, (nth s.planes p idlePlane).sent)

/-- What a frame does to a plane. -/
def framePlane (f : Nat) (t : State) (p : Nat) (q : Plane) : Plane :=
  { q with
    pend := q.pend.filter fun x => !(frameSlots t p f).any fun y => y.id = x.id
    sent := q.sent.map (sentAgain f (frameAgain t p f)) ++ frameSlots t p f
    kept := q.kept.map (sentAgain f (frameAgain t p f)) ++ frameSlots t p f
    again := q.again.filter fun a => !(frameAgain t p f).contains a.2 }

theorem sentView_sendFrame (f : Nat) (t s : State) (p q : Nat) : sentView q (sendFrame f t s p) = sentView q (onPlane s p (framePlane f t p)) := rfl

theorem sentView_sendFrame_other (f : Nat) (t s : State) {p q : Nat} (h : q ≠ p) : sentView q (sendFrame f t s p) = sentView q s := by
  rw [sentView_sendFrame, sentView, nth_planes_onPlane_other s h]
  exact Prod.ext List.length_set rfl

theorem sentView_sendFrame_same (f : Nat) (t s : State) {p : Nat} (h : p < s.planes.length) : sentView p (sendFrame f t s p) =
    (s.planes.length, (nth s.planes p idlePlane).sent.map (sentAgain f (frameAgain t p f)) ++ frameSlots t p f) := by
  rw [sentView_sendFrame, sentView, nth_planes_onPlane_same h]
  exact Prod.ext List.length_set rfl

/-- A plane without its slots of reserved kinds (R337). -/
def unreserved (q : Plane) : Plane := { q with sent := q.sent.filter fun x => !reservedKind x.msg }

/-- The readers count a reserved slot's errors on wavelengths; nothing else changes but the plane. -/
theorem dropReserved_rest (s : State) (p : Nat) : ({ dropReserved s p with mgmt := [] } : State) = { onPlane s p unreserved with mgmt := [] } := by
  unfold dropReserved
  have hcount : ∀ (t : State) off, ({ countCrc t off with mgmt := [] } : State) = { t with mgmt := [] } := fun t off =>
    congrArg (fun u : State => { u with mgmt := [] }) (mgmtPut_rest t off 12 0 _)
  refine foldl_keeps (fun u : State => { u with mgmt := [] }) _ (fun t x => ?_) _ _
  split
  · exact foldl_keeps (fun u : State => { u with mgmt := [] }) _ (fun t _ => hcount t _) _ t
  · rfl

theorem dropReserved_queueView (s : State) (p : Nat) : queueView (dropReserved s p) = queueView (onPlane s p unreserved) :=
  (congrArg queueView (dropReserved_rest s p) :)

theorem sentView_of_queueView {s t : State} (h : queueView t = queueView s) (p : Nat) : sentView p t = sentView p s :=
  congrArg (fun v : List Plane × Nat × List (Nat × Nat × Nat) => (v.1.length, (nth v.1 p idlePlane).sent)) h

theorem sentView_dropReserved_other (s : State) {p q : Nat} (h : q ≠ p) : sentView q (dropReserved s p) = sentView q s := by
  rw [sentView_of_queueView (dropReserved_queueView s p), sentView, nth_planes_onPlane_other s h]
  exact Prod.ext List.length_set rfl

theorem sentView_dropReserved_same (s : State) (p : Nat) : sentView p (dropReserved s p) =
    (s.planes.length, (nth s.planes p idlePlane).sent.filter fun x => !reservedKind x.msg) := by
  rw [sentView_of_queueView (dropReserved_queueView s p), sentView]
  by_cases hp : p < s.planes.length
  · rw [nth_planes_onPlane_same hp]
    exact Prod.ext List.length_set rfl
  · have hsame : (onPlane s p unreserved).planes = s.planes :=
      List.set_eq_of_length_le (Nat.le_of_not_lt hp)
    have hidle : nth s.planes p idlePlane = idlePlane := by simp [nth, Nat.le_of_not_lt hp]
    rw [hsame, hidle]
    rfl

/-- The machine after a frame: what goes is sent on every plane, then slots of reserved kinds are dropped. -/
def frameSent (f : Nat) (t : State) : State := (List.range 8).foldl dropReserved ((List.range 8).foldl (sendFrame f t) t)

/-- What no frame changes: memory, the keys of its contents, and the last frame. -/
def frameView (t : State) : List Host.Cell × List (Nat × Nat × Nat) × Nat := (t.mem, t.revived, t.lastFrame)

theorem frameView_dropReserved (s : State) (p : Nat) : frameView (dropReserved s p) = frameView s := (congrArg frameView (dropReserved_rest s p) :)

/-- Memory, the keys of its contents and the last frame stay as they are. -/
theorem frameSent_rest (f : Nat) (t : State) : (∀ a, memGet (frameSent f t) a = memGet t a) ∧ (frameSent f t).lastFrame = t.lastFrame := by
  have hsend := foldl_keeps frameView (sendFrame f t) (fun _ _ => rfl) (List.range 8) t
  have hall : frameView (frameSent f t) = frameView t := (foldl_keeps frameView dropReserved frameView_dropReserved (List.range 8) _).trans hsend
  simp only [frameView, Prod.mk.injEq] at hall
  obtain ⟨hmem, hrevived, hlast⟩ := hall
  exact ⟨memGet_congr hmem hrevived, hlast⟩

theorem range_cut {n p : Nat} (hp : p < n) :
    ∃ pre post, List.range n = pre ++ p :: post ∧ (∀ x ∈ pre, p ≠ x) ∧ ∀ x ∈ post, p ≠ x := by
  obtain ⟨pre, post, hcut⟩ := List.append_of_mem (List.mem_range.2 hp)
  have hnodup : (pre ++ p :: post).Nodup := hcut ▸ List.nodup_range
  rw [List.nodup_append, List.nodup_cons] at hnodup
  obtain ⟨-, ⟨hpost, -⟩, hpre⟩ := hnodup
  exact ⟨pre, post, hcut, fun x hx h => hpre x hx p List.mem_cons_self h.symm, fun x hx h => hpost (h ▸ hx)⟩

theorem sentView_foldl_sendFrame (f : Nat) (t : State) {n p : Nat} (hp : p < n) (hlen : p < t.planes.length) :
    sentView p ((List.range n).foldl (sendFrame f t) t) =
      (t.planes.length, (nth t.planes p idlePlane).sent.map (sentAgain f (frameAgain t p f)) ++ frameSlots t p f) := by
  obtain ⟨pre, post, hcut, hpre, hpost⟩ := range_cut hp
  have hbefore : sentView p (pre.foldl (sendFrame f t) t) = sentView p t :=
    foldl_keeps_mem (sentView p) _ (fun u x hx => sentView_sendFrame_other f t u (hpre x hx)) t
  obtain ⟨hl, hs⟩ := Prod.mk.inj hbefore
  rw [hcut, List.foldl_append, List.foldl_cons, foldl_keeps_mem (sentView p) _ fun u x hx => sentView_sendFrame_other f t u (hpost x hx),
    sentView_sendFrame_same f t _ (hl ▸ hlen), hl, hs]

theorem sentView_foldl_dropReserved (s : State) {n p : Nat} (hp : p < n) : sentView p ((List.range n).foldl dropReserved s) =
    ((sentView p s).1, (sentView p s).2.filter fun x => !reservedKind x.msg) := by
  obtain ⟨pre, post, hcut, hpre, hpost⟩ := range_cut hp
  rw [hcut]
  exact foldl_once (sentView p) dropReserved (g := fun v => (v.1, v.2.filter fun x => !reservedKind x.msg))
    (fun u x hx => sentView_dropReserved_other u (hpre x hx)) (fun u x hx => sentView_dropReserved_other u (hpost x hx))
    (fun u => sentView_dropReserved_same u p) s

theorem sent_frameSent (f : Nat) (t : State) {p : Nat} (hp : p < 8) (hlen : p < t.planes.length) : (nth (frameSent f t).planes p idlePlane).sent =
    ((nth t.planes p idlePlane).sent.map (sentAgain f (frameAgain t p f)) ++ frameSlots t p f).filter fun x => !reservedKind x.msg := by
  have h := sentView_foldl_dropReserved ((List.range 8).foldl (sendFrame f t) t) hp
  rw [sentView_foldl_sendFrame f t hp hlen] at h
  exact (Prod.mk.inj h).2

/-- The state that a frame is sent from: what hardware does of its own accord comes first. -/
def frameStart (s : State) : State := { (if Config.choice s.ctr 3 then spontaneous s else s) with lastFrame := frameOf s }

theorem exec_buntingFrame {s : State} (h : s.lastFrame < frameOf s) : exec .buntingFrame s = .next (frameSent (frameOf s) (frameStart s)) := by
  show execBuntingFrame s = _
  simp only [execBuntingFrame, if_neg (Nat.not_le.2 h)]
  rfl

theorem exec_buntingFrame_same {s : State} (h : frameOf s ≤ s.lastFrame) : exec .buntingFrame s = .next s := by
  show execBuntingFrame s = _
  simp only [execBuntingFrame, if_pos h]

theorem slotsQueued_frameStart (s : State) : SlotsQueued s (frameStart s) := by
  unfold frameStart
  split
  · exact (slotsQueued_spontaneous s).trans (.of_view rfl)
  · exact .of_view rfl

theorem frameStart_mem (s : State) : (frameStart s).mem = s.mem := by
  unfold frameStart
  split
  · exact spontaneous_mem s
  · rfl

/-! ### The statement -/

/-- Settles O38: a broadcast slot by the crews that take it and the group that sent it, a data response by the requests it serves, an
acknowledgement by the slot it queues, and a frame by the slots each writer offers on each plane. -/
theorem broadcastFrames : Obligations.BroadcastFrames := by
  refine ⟨fun s p x line bytes k hx hm => ⟨fun hnone => ?_, fun c v pa hc hv hrun hsince _ hfound hpa => ?_,
    fun c v hc hv hsub haway _ hfound => ?_⟩, fun s => ⟨fun c line m => ⟨fun hroom => ?_, fun hroom => ?_⟩,
    fun id h i hi hw hlen hslots hbusy => ?_, fun hf => ?_, exec_buntingFrame_same⟩⟩
  · have hcrews : deliverCrews (takeSlot s p x) x line bytes = takeSlot s p x :=
      deliverCrews_none (s := takeSlot s p x) hnone bytes
    obtain ⟨hmem, -, hcrew, hothers⟩ := deliverSender_rest (takeSlot s p x) (takeSlot s p x) x.id k
    have hexec := exec_bcast hx hm
    rw [hcrews] at hexec
    exact ⟨_, hexec, hmem, hcrew, hothers, fun g hg => deliverSender_group (s := takeSlot s p x) hg x.id⟩
  · have hcrews := deliverCrews_one (s := takeSlot s p x) hc hv bytes
    obtain ⟨w, rfl, hmem, hcrew⟩ := deliverSub_running (s := takeSlot s p x) (line := line) hrun hsince hfound bytes
    obtain ⟨hsame, hfind, -, -⟩ := deliverSender_rest (takeSlot s p x) (deliverSub c x line bytes (takeSlot s p x) v) x.id k
    have hexec := exec_bcast hx hm
    rw [hcrews] at hexec
    rw [← hpa] at hmem
    refine ⟨_, hexec, fun i hi => ?_, fun a ha => ?_, (hfind _).trans hcrew⟩
    · have hread := congrArg (·[i]?) (memRead_memWrite_same (takeSlot s p x) pa bytes)
      rw [hsame, hmem]
      simpa [memRead, hi] using hread
    · rw [hsame, hmem, memGet_memWrite_other _ _ _ ha]
      rfl
  · have hcrews := deliverCrews_one (s := takeSlot s p x) hc hv bytes
    obtain ⟨hmem, d, hd, hsubs⟩ := deliverSub_missed (s := takeSlot s p x) haway hsub hfound line bytes
    obtain ⟨hsame, hfind, -, -⟩ := deliverSender_rest (takeSlot s p x) (deliverSub c x line bytes (takeSlot s p x) v) x.id k
    have hexec := exec_bcast hx hm
    rw [hcrews] at hexec
    exact ⟨_, hexec, fun a => (hsame a).trans (hmem a), d, (hfind _).trans hd, hsubs⟩
  · rw [exec_dataResponse, hroom]
    rfl
  · refine ⟨closeRequest s c line m, ?_, rfl, closeRequest_reqs s c line m⟩
    rw [exec_dataResponse, hroom]
    rfl
  · exact ⟨_, exec_tlbAcknowledge hi hw hslots hbusy, queuedLast_queueSlot hlen h _⟩
  · have hq := slotsQueued_frameStart s
    obtain ⟨hmem, hlast⟩ := frameSent_rest (frameOf s) (frameStart s)
    refine ⟨_, exec_buntingFrame hf, hlast, fun a => (hmem a).trans (memGet_congr (frameStart_mem s) hq.revived a), fun p hp hlen => ?_⟩
    obtain ⟨hnew, hagain, hids, hone, hsent⟩ := frame_slots (frameStart s) p (frameOf s)
    refine ⟨frameSlots (frameStart s) p (frameOf s), (List.range 80).filterMap (againOf (frameStart s) p (frameOf s)), ?_, hnew, hagain,
      fun i hi => hq.again p ▸ hids i hi, hone, fun x hx => ?_⟩
    · rw [sent_frameSent _ _ hp (hq.planes ▸ hlen), hq.sent, frameAgain_eq]
    · obtain ⟨y, hy, rfl⟩ := hsent x hx
      exact ⟨rfl, rfl, y, rfl, hq.pend p y hy⟩

end Sys2Proof.Machine
end

section
/-! Migration by a Loam unit, its heat windows, and the switching of DRAM domains (R83, R93, R94, R388 to R392). -/
namespace Sys2Proof.Machine

open Sys2Proof.Claims

/-! ### Operations found and replaced -/

theorem find?_replaceFirst_of_holds {α : Type} {p : α → Bool} {f : α → α} (hf : ∀ x, p x = true → p (f x) = true) (l : List α) :
    (replaceFirst p f l).find? p = (l.find? p).map f := by
  induction l with
  | nil => rfl
  | cons x r ih =>
    by_cases hx : p x = true
    · simp [replaceFirst, hx, hf]
    · simp [replaceFirst, hx, ih]

theorem id_of_findOp {s : State} {id : Nat} {o : EngOp} (h : findOp s id = some o) : o.id = id := by simpa using List.find?_some h

theorem mem_of_findOp {s : State} {id : Nat} {o : EngOp} (h : findOp s id = some o) : o ∈ s.ops := List.mem_of_find?_eq_some h

theorem findOp_congr {s t : State} (h : t.ops = s.ops) (id : Nat) : findOp t id = findOp s id := by rw [findOp, h, findOp]

theorem findOp_putOp_same {s : State} {id : Nat} {o p : EngOp} (h : findOp s id = some o) (hp : p.id = id) : findOp (putOp s p) id = some p := by
  subst hp
  have hfind := find?_replaceFirst_of_holds (p := fun x : EngOp => decide (x.id = p.id)) (f := fun _ => p) (fun _ _ => decide_eq_true rfl) s.ops
  exact hfind.trans (congrArg (Option.map fun _ => p) h)

theorem findOp_putOp_other (s : State) {p : EngOp} {i : Nat} (h : i ≠ p.id) : findOp (putOp s p) i = findOp s i :=
  find?_replaceFirst_other _ _ _ (fun x hx => by
    have hx : x.id = p.id := by simpa using hx
    exact ⟨decide_eq_false (hx ▸ h.symm), decide_eq_false h.symm⟩) s.ops

theorem opReplaced_putOp {s : State} {id : Nat} {o p : EngOp} (h : findOp s id = some o) (hp : p.id = id) : OpReplaced s (putOp s p) p :=
  ⟨hp ▸ findOp_putOp_same h hp, fun _ hi => findOp_putOp_other s hi, rfl⟩

/-! ### Registers of a Loam unit (R389, R391) -/

theorem loamRaw_loamPut_same (s : State) (st off : Nat) (v : W64) : loamRaw (loamPut s st off v) st off = v := by
  rw [loamRaw, loamPut, rfGet_rfSet, if_pos rfl]

theorem loamRaw_loamPut_other (s : State) (st : Nat) {off x : Nat} (h : x ≠ off) (v : W64) :
    loamRaw (loamPut s st off v) st x = loamRaw s st x := by
  have hkey : loamKey st x ≠ loamKey st off := by
    unfold loamKey
    omega
  rw [loamRaw, loamPut, rfGet_rfSet, if_neg hkey, loamRaw]

theorem loamRaw_congr {s t : State} (h : t.loam = s.loam) (st off : Nat) : loamRaw t st off = loamRaw s st off := by rw [loamRaw, h, loamRaw]

/-! ### The words a move takes over (R93, R114) -/

theorem mem_setAdd {x n : Nat} {l : List Nat} : x ∈ setAdd l n ↔ x = n ∨ x ∈ l := by
  induction l with
  | nil => simp [setAdd]
  | cons k r ih =>
    unfold setAdd
    split
    · next h =>
      subst h
      simp
    · split
      · simp
      · simp only [List.mem_cons, ih]
        tauto

theorem mem_foldl_setAdd {α : Type} (f : α → Nat) (ps : List α) (l : List Nat) {x : Nat} :
    x ∈ ps.foldl (fun acc p => setAdd acc (f p)) l ↔ (∃ p ∈ ps, f p = x) ∨ x ∈ l := by
  induction ps generalizing l with
  | nil => simp
  | cons p r ih =>
    rw [List.foldl_cons, ih, mem_setAdd]
    simp only [List.exists_mem_cons_iff, or_assoc, or_left_comm, eq_comm (a := x)]

/-- Every byte of a run is in one of its pieces. -/
theorem exists_linePiece {pa n a : Nat} (h1 : pa ≤ a) (h2 : a < pa + n) : ∃ p ∈ linePieces pa n, p.2.1 ≤ a ∧ a < p.2.1 + p.2.2 := by
  have hn : n ≠ 0 := by omega
  unfold linePieces
  rw [if_neg hn]
  have hdiv : pa / 128 ≤ a / 128 := Nat.div_le_div_right h1
  have hlast : a / 128 ≤ (pa + n - 1) / 128 := Nat.div_le_div_right (by omega)
  refine ⟨_, List.mem_map.2 ⟨a / 128 - pa / 128, List.mem_range.2 (by omega), rfl⟩, ?_, ?_⟩
  · have := Nat.div_mul_le_self a 128
    simp only [Nat.add_sub_cancel' hdiv]
    omega
  · have := Nat.lt_div_mul_add (a := a) (b := 128) (by decide)
    simp only [Nat.add_sub_cancel' hdiv]
    omega

/-- A piece of a destination, as the operation owns it. -/
def ownsPiece (own : List Own) (p : Nat × Nat × Nat) : Prop := ∃ x ∈ own, x.pa = p.2.1 ∧ x.len = p.2.2

theorem ownsPiece_claimLine {w core agent : Nat} {ps : List (Nat × Nat × Nat)} {acc : List Own × State} {line : Nat} {p : Nat × Nat × Nat}
    (h : ownsPiece acc.1 p ∨ p ∈ ps ∧ p.1 = line) : ownsPiece (claimLine w core agent ps acc line).1 p := by
  unfold claimLine
  dsimp only
  rcases h with ⟨x, hx, hpa⟩ | ⟨hp, hline⟩
  · split <;> exact ⟨x, List.mem_append_left _ hx, hpa⟩
  · have hhere : p ∈ ps.filter fun p => p.1 = line := List.mem_filter.2 ⟨hp, decide_eq_true hline⟩
    split <;> exact ⟨_, List.mem_append_right _ (List.mem_map.2 ⟨p, hhere, rfl⟩), rfl, rfl⟩

theorem ownsPiece_foldl_claimLine {w core agent : Nat} {ps : List (Nat × Nat × Nat)} {p : Nat × Nat × Nat} (hp : p ∈ ps) :
    ∀ (lines : List Nat) (acc : List Own × State), ownsPiece acc.1 p ∨ p.1 ∈ lines →
      ownsPiece (lines.foldl (claimLine w core agent ps) acc).1 p := by
  intro lines
  induction lines with
  | nil => exact fun acc h => h.resolve_right (List.not_mem_nil)
  | cons l r ih =>
    intro acc h
    refine ih _ ?_
    rcases h with h | h
    · exact .inl (ownsPiece_claimLine (.inl h))
    · rcases List.mem_cons.1 h with h | h
      · exact .inl (ownsPiece_claimLine (.inr ⟨hp, h⟩))
      · exact .inr h

/-- A claim of some runs covers every byte of them. -/
theorem claimRuns_covers (s : State) (w core agent : Nat) {l : List (Nat × Nat)} {r : Nat × Nat} (hr : r ∈ l) {a : Nat} (h1 : r.1 ≤ a)
    (h2 : a < r.1 + r.2) : ∃ x ∈ (claimRuns s w core agent l).1, x.pa ≤ a ∧ a < x.pa + x.len := by
  obtain ⟨p, hp, hin⟩ := exists_linePiece h1 h2
  have hps : p ∈ destPieces l := List.mem_flatMap.2 ⟨r, hr, hp⟩
  have hline : p.1 ∈ (destPieces l).foldl (fun acc p => setAdd acc p.1) [] := (mem_foldl_setAdd _ _ _).2 (.inl ⟨p, hps, rfl⟩)
  obtain ⟨x, hx, hpa, hlen⟩ := ownsPiece_foldl_claimLine (w := w) (core := core) (agent := agent) hps _ ([], s) (.inr hline)
  exact ⟨x, hx, by rwa [hpa, hlen]⟩

theorem claimRuns_rest (s : State) (w core agent : Nat) (l : List (Nat × Nat)) : requestsOff (claimRuns s w core agent l).2 = requestsOff s :=
  foldl_keeps (fun acc : List Own × State => requestsOff acc.2) (claimLine w core agent (destPieces l)) (fun acc line => by
    unfold claimLine
    dsimp only
    split <;> rfl) _ ([], s)

theorem devAsk_rest (s : State) (l : List (Nat × Nat)) : requestsOff (devAsk s l) = requestsOff s :=
  foldl_keeps requestsOff _ (fun t r => by
    split
    · exact foldl_keeps requestsOff _ (fun u x => askHome_rest u _ _ _) _ t
    · rfl) l s

theorem whenReady_true {s : State} {l : List (Nat × Nat)} (h : devReady s l = true) (act : State) : whenReady s l act = act := if_pos h

theorem whenReady_false {s : State} {l : List (Nat × Nat)} (h : devReady s l = false) (act : State) : whenReady s l act = devAsk s l :=
  if_neg (by rw [h]; decide)

/-! ### MIG starts (R94, R264, R388, R390) -/

theorem exec_mig {s : State} {id : Nat} {o : EngOp} {b : List Byte} (h : findOp s id = some o)
    (hk : (∃ cw q, o.kind = .skcmd b cw q) ∨ o.kind = .heat b) : exec (.mig id) s = .next (migrate s o b) := by
  show execMig id s = _
  rcases hk with ⟨cw, q, hk⟩ | hk
  · simp only [execMig, h, hk]
  · simp only [execMig, h, hk]

/-- What the checks of a move come to. -/
def moveOutcome (s : State) (o : EngOp) (b : List Byte) : MoveStart → State
  | .ends st => endOp s o st
  | .waits => s
  | .begins l => beginMove s o b l

theorem migrate_start {s : State} {o : EngOp} {b : List Byte} (hm : o.move = none) (hr : cmdReady o 6 b = true) :
    migrate s o b = moveOutcome s o b (moveStart s o b) := by
  have hstage : o.stage = .issued := by
    simp only [cmdReady, Bool.and_eq_true, decide_eq_true_eq] at hr
    exact hr.1.1.1
  unfold migrate
  rw [hm]
  simp only [hstage, hr, reduceCtorEq, decide_false, Bool.false_and, Bool.not_true, Bool.false_eq_true, if_false]
  cases moveStart s o b <;> rfl

theorem moveStart_of_walk {s : State} {o : EngOp} {b : List Byte} {l : Leaf} (h : walk s o.ptbase (moveVa b) = .ok l) : moveStart s o b =
    if !o.priv && !bitAt l.entry 5 then .ends 0x01
    else if !movable l then .ends 0x05
    else if bitsOf l.entry 10 9 = moveTier b then .ends 0
    else if ringEmpty s (blkUnit b) (moveTier b) then .ends 0x05
    else if moveBlocked s (blkUnit b) then .waits
    else .begins l := by
  rw [moveStart, h]

/-- A move takes the frame at TAKE of its ring, and no byte of memory changes yet. -/
theorem beginMove_ring (s : State) (o : EngOp) (b : List Byte) (l : Leaf) :
    ringReg (beginMove s o b l) (blkUnit b) (moveTier b) 3 = ringReg s (blkUnit b) (moveTier b) 3 + 1 ∧ (beginMove s o b l).mem = s.mem := by
  have htaken := loamRaw_loamPut_same s (blkUnit b) (0x140 + 32 * moveTier b + 24) (ringReg s (blkUnit b) (moveTier b) 3 + 1)
  unfold beginMove
  dsimp only
  split
  · exact ⟨htaken, rfl⟩
  · refine ⟨?_, ?_⟩
    · refine (loamRaw_congr ?_ _ _).trans htaken
      exact (congrArg State.loam (claimRuns_rest _ _ _ _ _) :)
    · rw [putOp_mem, claimRuns_mem, loamPut_mem]

/-- A frame that cannot be used abandons the move. -/
theorem beginMove_bad {s : State} {o : EngOp} {b : List Byte} {l : Leaf} {id : Nat} {e : Byte} (ho : findOp s id = some o)
    (he : (frameBad s (bitsOf l.entry 51 12 * 4096)).or (frameBad s (ringFrame s (blkUnit b) (moveTier b))) = some e) :
    findOp (beginMove s o b l) id = some { o with
      stage := .running
      move := some { tier := moveTier b, old := bitsOf l.entry 51 12 * 4096, new := ringFrame s (blkUnit b) (moveTier b), at_ := l.at_,
                     phase := .logs e } } := by
  have hid := id_of_findOp ho
  simp only [beginMove, he]
  exact findOp_putOp_same (o := o) ho hid

/-- The operation takes over the words of both frames. -/
theorem beginMove_claims {s : State} {o : EngOp} {b : List Byte} {l : Leaf} {id old new : Nat} (ho : findOp s id = some o)
    (hold : old = bitsOf l.entry 51 12 * 4096) (hnew : new = ringFrame s (blkUnit b) (moveTier b))
    (he : (frameBad s old).or (frameBad s new) = none) :
    ∃ own, findOp (beginMove s o b l) id = some { o with
        stage := .running, owned := own, move := some { tier := moveTier b, old := old, new := new, at_ := l.at_, phase := .claims } } ∧
      ∀ i, i < 4096 → ∀ a, a = old + i ∨ a = new + i → ∃ x ∈ own, x.pa ≤ a ∧ a < x.pa + x.len := by
  have hid := id_of_findOp ho
  subst hold hnew
  simp only [beginMove, he]
  refine ⟨_, findOp_putOp_same (o := o) ?_ hid, fun i hi a ha => ?_⟩
  · refine (findOp_congr ?_ id).trans ho
    exact (congrArg State.ops (claimRuns_rest _ _ _ _ _) :)
  · rcases ha with rfl | rfl
    · exact claimRuns_covers _ _ _ _ (List.mem_cons_self ..) (by dsimp only; omega) (by dsimp only; omega)
    · exact claimRuns_covers _ _ _ _ (List.mem_cons_of_mem _ (List.mem_cons_self ..)) (by dsimp only; omega) (by dsimp only; omega)

/-! ### The page is moved (R93) -/

theorem migrate_goes_on {s : State} {o : EngOp} {b : List Byte} {m : Move} (hm : o.move = some m) (hs : o.stage = .running) :
    migrate s o b = stepMove s o b m := by
  unfold migrate
  rw [hm]
  exact if_pos hs

/-- A move that is abandoned once its words are taken over, for a frame that has failed or a leaf that is another's. -/
theorem commitMove_bad {s : State} {o : EngOp} {b : List Byte} {m : Move} {e : Byte} (he : (frameBad s m.old).or (frameBad s m.new) = some e) :
    commitMove s o b m = putOp s { o with owned := [], move := some { m with phase := .logs e } } := by
  simp only [commitMove, he]

theorem commitMove_stale {s : State} {o : EngOp} {b : List Byte} {m : Move} (he : (frameBad s m.old).or (frameBad s m.new) = none)
    (hl : leafStands s m = false) : commitMove s o b m = putOp s { o with owned := [], move := some { m with phase := .logs 0x05 } } := by
  simp only [commitMove, he, hl, Bool.not_false, if_true]

theorem commitMove_busy {s : State} {o : EngOp} {b : List Byte} {m : Move} (he : (frameBad s m.old).or (frameBad s m.new) = none)
    (hl : leafStands s m = true) (hb : pageBusy s o m.old = true) : commitMove s o b m = s := by
  simp only [commitMove, he, hl, hb, Bool.not_true, Bool.false_eq_true, if_false, if_true]

/-- The page in its new frame, its leaf rewritten, and no cached translation of it left. -/
def pageMoved (s : State) (o : EngOp) (b : List Byte) (m : Move) : State :=
  dropPage (memWrite (copyPage s o.id m.old m.new) m.at_
    (leBytes (movedLeaf (BitVec.ofNat 64 (numberAt s m.at_ 8)) m.new m.tier).toNat 8)) o.asid (moveVa b)

/-- The move after it: the invalidation is under way. -/
def moveCommitted (s : State) (o : EngOp) (b : List Byte) (m : Move) : State :=
  putOp (postInval (pageMoved s o b m) (64 + blkUnit b) o.grp (some o.asid) (natBits (blkA b) 47 12) 1)
    { o with move := some { m with phase := .invalidates (pageMoved s o b m).nextId } }

theorem commitMove_free {s : State} {o : EngOp} {b : List Byte} {m : Move} (he : (frameBad s m.old).or (frameBad s m.new) = none)
    (hl : leafStands s m = true) (hb : pageBusy s o m.old = false) :
    commitMove s o b m = whenReady s [(m.at_, 8)] (moveCommitted s o b m) := by
  simp only [commitMove, he, hl, hb, Bool.not_true, Bool.false_eq_true, if_false]
  rfl

/-- Memory after the move is memory with the page copied and then the leaf stored. -/
theorem memGet_moveCommitted (s : State) (o : EngOp) (b : List Byte) (m : Move) (a : Nat) : memGet (moveCommitted s o b m) a =
    memGet (memWrite (memWrite s m.new (memRead s m.old 4096)) m.at_
      (leBytes (movedLeaf (BitVec.ofNat 64 (numberAt s m.at_ 8)) m.new m.tier).toNat 8)) a :=
  memGet_congr rfl rfl a

theorem moveCommitted_memory (s : State) (o : EngOp) (b : List Byte) (m : Move) :
    (∀ i, i < 4096 → (m.new + i < m.at_ ∨ m.at_ + 8 ≤ m.new + i) → memGet (moveCommitted s o b m) (m.new + i) = memGet s (m.old + i)) ∧
    (∀ a, (a < m.new ∨ m.new + 4096 ≤ a) → (a < m.at_ ∨ m.at_ + 8 ≤ a) → memGet (moveCommitted s o b m) a = memGet s a) ∧
    numberAt (moveCommitted s o b m) m.at_ 8 = (movedLeaf (BitVec.ofNat 64 (numberAt s m.at_ 8)) m.new m.tier).toNat := by
  refine ⟨fun i hi hleaf => ?_, fun a hpage hleaf => ?_, ?_⟩
  · rw [memGet_moveCommitted, memGet_memWrite_other _ _ _ (by rwa [leBytes_length]),
      memGet_memWrite_same _ _ _ _ (by rwa [memRead_length])]
    simp [memRead]
  · rw [memGet_moveCommitted, memGet_memWrite_other _ _ _ (by rwa [leBytes_length]), memGet_memWrite_other _ _ _ (by rwa [memRead_length])]
  · have hleaf := memRead_memWrite_same (memWrite s m.new (memRead s m.old 4096)) m.at_
      (leBytes (movedLeaf (BitVec.ofNat 64 (numberAt s m.at_ 8)) m.new m.tier).toNat 8)
    rw [leBytes_length] at hleaf
    rw [numberAt_eq, memRead_congr fun a _ _ => memGet_moveCommitted s o b m a, hleaf, leValue_leBytes, Nat.mod_eq_of_lt (BitVec.isLt _)]

theorem postInval_ops (s : State) (w : Nat) (grp : GKey) (asid : Option (BitVec 16)) (lo len : Nat) :
    (postInval s w grp asid lo len).ops = s.ops := rfl

/-- The invalidation of the page is under way, and the operation waits for it. -/
theorem moveCommitted_inval {s : State} {o : EngOp} {id : Nat} (ho : findOp s id = some o) (b : List Byte) (m : Move) :
    ∃ v ∈ (moveCommitted s o b m).invals, v.asid = some o.asid ∧ v.len = 1 ∧ v.lo = natBits (blkA b) 47 12 ∧
      ∃ x ∈ (moveCommitted s o b m).ops, x.id = id ∧ x.move = some { m with phase := .invalidates v.id } := by
  have hid := id_of_findOp ho
  have hfind : findOp (pageMoved s o b m) id = some o := by
    have hops : (pageMoved s o b m).ops = s.ops.map (movedOp o.id m.old m.new) := rfl
    have hmap : ∀ x, decide ((movedOp o.id m.old m.new x).id = id) = decide (x.id = id) := fun x => by
      unfold movedOp
      split <;> rfl
    rw [findOp, hops, List.find?_map]
    simp only [Function.comp_def, hmap]
    rw [show s.ops.find? (fun x => decide (x.id = id)) = some o from ho]
    simp [movedOp]
  have hput := findOp_putOp_same (s := postInval (pageMoved s o b m) (64 + blkUnit b) o.grp (some o.asid) (natBits (blkA b) 47 12) 1)
    (p := { o with move := some { m with phase := .invalidates (pageMoved s o b m).nextId } }) ((findOp_congr (postInval_ops ..) id).trans hfind) hid
  exact ⟨_, List.mem_append_right _ (List.mem_singleton.2 rfl), rfl, rfl, rfl, _, mem_of_findOp hput, hid, rfl⟩

theorem moveCommitted_tlb (s : State) (o : EngOp) (b : List Byte) (m : Move) : ∀ e ∈ (moveCommitted s o b m).tlb,
    ¬ ((e.asid = o.asid ∨ bitAt e.entry 6 = true) ∧ e.vbase ≤ natBits (moveVa b).toNat 47 0 ∧
      natBits (moveVa b).toNat 47 0 < e.vbase + e.size) := by
  intro e he hnamed
  have hkept := (List.mem_filter.1 (show e ∈ s.tlb.filter _ from he)).2
  rw [Bool.not_eq_true', ← Bool.not_eq_true] at hkept
  exact hkept (by simpa [and_assoc] using hnamed)

/-! ### Frames that go back to their rings (R389) -/

/-- A frame pushed on a ring stands there, and PUT goes on; registers below the rings, TAKE and the operations stay. -/
theorem ringPush_spec (s : State) (st k : Nat) {frame : Nat} :
    ringReg (ringPush s st k frame) st k 2 = ringReg s st k 2 + 1 ∧
    (frame < 2 ^ 64 → numberAt (ringPush s st k frame) (ringPlace s st k).1 8 = frame) ∧
    (∀ off, off < 0x140 → loamRaw (ringPush s st k frame) st off = loamRaw s st off) ∧ (ringPush s st k frame).ops = s.ops := by
  refine ⟨loamRaw_loamPut_same _ _ _ _, fun hframe => ?_, fun off hoff => ?_, rfl⟩
  · have hplace := memRead_memWrite_same s (ringPlace s st k).1 (leBytes frame 8)
    rw [leBytes_length] at hplace
    have hpush : numberAt (ringPush s st k frame) (ringPlace s st k).1 8 =
        leValue (memRead (memWrite s (ringPlace s st k).1 (leBytes frame 8)) (ringPlace s st k).1 8) := by
      simp only [ringPlace, Nat.max_comm 1]
      rfl
    rw [hpush, hplace, leValue_leBytes, Nat.mod_eq_of_lt hframe]
  · unfold ringPush
    rw [loamRaw_loamPut_other _ _ (by omega)]
    rfl

theorem giveFrame_full {s : State} {st k : Nat} (h : ringFull s st k = true) (frame : Nat) :
    giveFrame s st k frame = { s with ringKept := s.ringKept ++ [(st, k, frame)] } := if_pos h

theorem giveFrame_room {s : State} {st k : Nat} (h : ringFull s st k = false) (frame : Nat) : giveFrame s st k frame = ringPush s st k frame :=
  if_neg (by rw [h]; decide)

theorem giveFrame_rest (s : State) (st k frame : Nat) :
    (∀ off, off < 0x140 → loamRaw (giveFrame s st k frame) st off = loamRaw s st off) ∧ (giveFrame s st k frame).ops = s.ops := by
  cases h : ringFull s st k with
  | true =>
    rw [giveFrame_full h]
    exact ⟨fun _ _ => rfl, rfl⟩
  | false =>
    rw [giveFrame_room h]
    exact (ringPush_spec s st k).2.2

/-- The operation once every holder has acknowledged: nothing of the frames is its own any more. -/
def acked (s : State) (o : EngOp) (m : Move) (v : Nat) : State :=
  putOp { s with invals := s.invals.filter fun i => i.id ≠ v } { o with owned := [], move := some { m with phase := .logs 0 } }

theorem releaseMove_waits {s : State} {o : EngOp} {b : List Byte} {m : Move} {v : Nat} (h : ∃ i ∈ s.invals, i.id = v ∧ i.waiting ≠ []) :
    releaseMove s o b m v = s := by
  obtain ⟨i, hi, hid, hw⟩ := h
  exact if_pos (List.any_eq_true.2 ⟨i, hi, by simp [hid, hw]⟩)

theorem releaseMove_acked {s : State} {o : EngOp} {b : List Byte} {m : Move} {v : Nat} (h : ∀ i ∈ s.invals, i.id = v → i.waiting = [])
    (hr : devReady s [ringPlace s (blkUnit b) (1 - m.tier)] = true) :
    releaseMove s o b m v = giveFrame (acked s o m v) (blkUnit b) (1 - m.tier) m.old := by
  have hnone : (s.invals.any fun i => i.id = v && !i.waiting.isEmpty) = false := by
    rw [List.any_eq_false]
    intro i hi hany
    rw [Bool.and_eq_true, decide_eq_true_eq] at hany
    rw [h i hi hany.1] at hany
    cases hany.2
  rw [releaseMove, if_neg (by rw [hnone]; decide)]
  exact whenReady_true hr _

/-- The ring that takes the old frame, and the operation, once every holder has acknowledged. -/
theorem releaseMove_spec {s : State} {o : EngOp} {b : List Byte} {m : Move} {id v : Nat} (ho : findOp s id = some o)
    (hack : ∀ i ∈ s.invals, i.id = v → i.waiting = []) (hr : devReady s [ringPlace s (blkUnit b) (1 - m.tier)] = true) :
    let t := releaseMove s o b m v
    findOp t id = some { o with owned := [], move := some { m with phase := .logs 0 } } ∧
      (ringFull s (blkUnit b) (1 - m.tier) = true → t.ringKept = s.ringKept ++ [(blkUnit b, 1 - m.tier, m.old)] ∧ t.mem = s.mem) ∧
      (ringFull s (blkUnit b) (1 - m.tier) = false → ringReg t (blkUnit b) (1 - m.tier) 2 = ringReg s (blkUnit b) (1 - m.tier) 2 + 1 ∧
        (m.old < 2 ^ 64 → numberAt t (ringPlace s (blkUnit b) (1 - m.tier)).1 8 = m.old)) := by
  have hid := id_of_findOp ho
  have hput : findOp (acked s o m v) id = some { o with owned := [], move := some { m with phase := .logs 0 } } := findOp_putOp_same (o := o) ho hid
  have hfull : ringFull (acked s o m v) (blkUnit b) (1 - m.tier) = ringFull s (blkUnit b) (1 - m.tier) := rfl
  rw [releaseMove_acked hack hr]
  refine ⟨(findOp_congr (giveFrame_rest _ _ _ _).2 id).trans hput, fun h => ?_, fun h => ?_⟩
  · rw [giveFrame_full (hfull.trans h)]
    exact ⟨rfl, rfl⟩
  · obtain ⟨hreg, hplace, -, -⟩ := ringPush_spec (acked s o m v) (blkUnit b) (1 - m.tier) (frame := m.old)
    rw [giveFrame_room (hfull.trans h)]
    exact ⟨hreg, hplace⟩

/-! ### The record of a move (R390) -/

theorem littleEndian_slice (v : Nat) {n k m : Nat} (h : k + m ≤ n) : ((littleEndian v n).drop k).take m = littleEndian (v / 2 ^ (8 * k)) m := by
  apply List.ext_getElem
  · simp
    omega
  · intro i h1 h2
    simp [littleEndian, Nat.div_div_eq_div_mul, ← Nat.pow_add, Nat.mul_add]

/-- The number in some bytes of a number. -/
theorem areaNat_leBytes (v : Nat) {n k m : Nat} (h : k + m ≤ n) : areaNat (leBytes v n) k m = v / 2 ^ (8 * k) % 2 ^ (8 * m) := by
  rw [areaNat, leBytes_eq, littleEndian_slice v h, leValue_littleEndian]

/-- The record of a move as one number, its SEQ apart (R390). -/
def moveRecord (time dir cause : Nat) (status : Byte) (new old : Nat) (asid : BitVec 16) (va : W64) : Nat :=
  new <<< 192 + old <<< 128 + asid.toNat <<< 112 + bitsOf va 47 12 <<< 64 + (time % 2 ^ 64) <<< 256 + status.toNat <<< 320 +
    cause <<< 328 + dir <<< 329

/-- A record is stored from its second word on, and then its SEQ (R390). -/
theorem logMove_eq (s : State) (st dir cause : Nat) (status : Byte) (new old : Nat) (asid : BitVec 16) (va : W64) :
    logMove s st dir cause status new old asid va = loamPut (memWrite (memWrite s (logPlace s st + 8)
      ((leBytes (moveRecord s.time dir cause status new old asid va) 64).drop 8)) (logPlace s st)
      (leBytes (loamRaw s st 0x118).toNat 8)) st 0x118 (loamRaw s st 0x118 + 1) := by
  unfold logMove moveRecord
  dsimp only

/-- Fields above bit 256, gathered in one number, above three others. -/
theorem shifted_fields (n o x z w y c d : Nat) : n <<< 192 + o <<< 128 + x <<< 112 + z <<< 64 + w <<< 256 + y <<< 320 + c <<< 328 + d <<< 329 =
    x * 2 ^ 112 + z * 2 ^ 64 + 2 ^ 128 * (o + 2 ^ 64 * (n + 2 ^ 64 * (w + y * 2 ^ 64 + c * 2 ^ 72 + d * 2 ^ 73))) := by
  have hup : ∀ x k, x <<< (256 + k) = x <<< k <<< 64 <<< 64 <<< 128 := fun x k => by
    simp only [← Nat.shiftLeft_add]
    congr 1
    omega
  have hw := hup w 0
  have hy := hup y 64
  have hc := hup c 72
  have hd := hup d 73
  simp only [Nat.reduceAdd] at hw hy hc hd
  simp only [hw, hy, hc, hd]
  simp only [Nat.shiftLeft_eq]
  ring

/-- The byte above a word. -/
theorem byte_above_word {w y : Nat} (c d : Nat) (hw : w < 2 ^ 64) (hy : y < 2 ^ 8) :
    (w + y * 2 ^ 64 + c * 2 ^ 72 + d * 2 ^ 73) / 2 ^ 64 % 2 ^ 8 = y := by
  omega

/-- The old frame, the new one and the status in the record. -/
theorem moveRecord_fields (time dir cause new old : Nat) (status : Byte) (asid : BitVec 16) (va : W64) :
    ∃ rest, moveRecord time dir cause status new old asid va / 2 ^ 128 = old + 2 ^ 64 * (new + 2 ^ 64 * rest) ∧
      rest / 2 ^ 64 % 2 ^ 8 = status.toNat := by
  have hasid := asid.isLt
  have hva : bitsOf va 47 12 < 2 ^ 36 := Nat.mod_lt _ (by decide)
  have hlow : asid.toNat * 2 ^ 112 + bitsOf va 47 12 * 2 ^ 64 < 2 ^ 128 := by omega
  have hsum : moveRecord time dir cause status new old asid va = asid.toNat * 2 ^ 112 + bitsOf va 47 12 * 2 ^ 64 +
      2 ^ 128 * (old + 2 ^ 64 * (new + 2 ^ 64 * (time % 2 ^ 64 + status.toNat * 2 ^ 64 + cause * 2 ^ 72 + dir * 2 ^ 73))) :=
    shifted_fields _ _ _ _ _ _ _ _
  have htime : time % 2 ^ 64 < 2 ^ 64 := Nat.mod_lt _ (by decide)
  refine ⟨_, ?_, byte_above_word cause dir htime status.isLt⟩
  rw [hsum, Nat.add_mul_div_left _ _ (Nat.two_pow_pos 128), Nat.div_eq_of_lt hlow, Nat.zero_add]

/-- A record appended to the log: SEQ and the fields stand at its place, and the unit's next SEQ is one more. -/
theorem logMove_spec (s : State) (st dir cause : Nat) (status : Byte) {new old : Nat} (hnew : new < 2 ^ 64)
    (hold : old < 2 ^ 64) (asid : BitVec 16) (va : W64) : let t := logMove s st dir cause status new old asid va
    loamRaw t st 0x118 = loamRaw s st 0x118 + 1 ∧ (∀ off, off ≠ 0x118 → loamRaw t st off = loamRaw s st off) ∧ t.ops = s.ops ∧
      numberAt t (logPlace s st) 8 = (loamRaw s st 0x118).toNat ∧ numberAt t (logPlace s st + 16) 8 = old ∧
      numberAt t (logPlace s st + 24) 8 = new ∧ memGet t (logPlace s st + 40) = status := by
  intro t
  obtain ⟨body, hb⟩ : ∃ body, body = moveRecord s.time dir cause status new old asid va := ⟨_, rfl⟩
  have ht : ∀ a, memGet t a = memGet (memWrite (memWrite s (logPlace s st + 8) ((leBytes body 64).drop 8)) (logPlace s st)
      (leBytes (loamRaw s st 0x118).toNat 8)) a := by
    intro a
    show memGet (logMove s st dir cause status new old asid va) a = _
    rw [logMove_eq, ← hb]
    rfl
  have hbody : memRead t (logPlace s st + 8) 56 = (leBytes body 64).drop 8 := by
    have hrest := memRead_memWrite_same s (logPlace s st + 8) ((leBytes body 64).drop 8)
    rw [List.length_drop, leBytes_length] at hrest
    refine (memRead_congr fun a ha _ => ?_).trans hrest
    rw [ht, memGet_memWrite_other _ _ _ (by rw [leBytes_length]; omega)]
  have hseq : memRead t (logPlace s st) 8 = leBytes (loamRaw s st 0x118).toNat 8 := by
    have hfirst := memRead_memWrite_same (memWrite s (logPlace s st + 8) ((leBytes body 64).drop 8)) (logPlace s st)
      (leBytes (loamRaw s st 0x118).toNat 8)
    rw [leBytes_length] at hfirst
    exact (memRead_congr fun a _ _ => ht a).trans hfirst
  have hfield : ∀ k m, 8 + k + m ≤ 56 → numberAt t (logPlace s st + 8 + (8 + k)) m =
      body / 2 ^ 128 / 2 ^ (8 * k) % 2 ^ (8 * m) := fun k m h => by
    rw [← areaNat_memRead t h, hbody, areaNat, List.drop_drop, ← areaNat, areaNat_leBytes _ (by omega), Nat.div_div_eq_div_mul, ← Nat.pow_add]
    congr 3
    omega
  obtain ⟨rest, hrec, hstatus⟩ := moveRecord_fields s.time dir cause new old status asid va
  rw [← hb] at hrec
  rw [hrec] at hfield
  have hold16 := hfield 0 8 (by decide)
  have hnew24 := hfield 8 8 (by decide)
  have hst40 := hfield 24 1 (by decide)
  refine ⟨loamRaw_loamPut_same _ _ _ _, fun off hoff => loamRaw_loamPut_other _ _ hoff _, rfl, ?_, hold16.trans ?_, hnew24.trans ?_, ?_⟩
  · rw [numberAt_eq, hseq, leValue_leBytes, Nat.mod_eq_of_lt (BitVec.isLt _)]
  · omega
  · omega
  · have hbyte : numberAt t (logPlace s st + 40) 1 = (memGet t (logPlace s st + 40)).toNat := by simp [numberAt_eq, memRead, leValue]
    refine BitVec.eq_of_toNat_eq (hbyte.symm.trans (hst40.trans ?_))
    omega

/-- The machine once a move's record is appended: an abandoned move has given its frame back before. -/
def moveLogged (s : State) (o : EngOp) (b : List Byte) (m : Move) (e : Byte) : State :=
  logMove (if e = 0 then s else giveFrame s (blkUnit b) m.tier m.new) (blkUnit b) m.tier (moveCause o) e
    (if e = 0 then m.new else 0) m.old o.asid (moveVa b)

theorem recordMove_ready {s : State} {o : EngOp} {b : List Byte} {m : Move} {e : Byte}
    (h : devReady s ((logPlace s (blkUnit b), 64) :: if e = 0 then [] else [ringPlace s (blkUnit b) m.tier]) = true) :
    recordMove s o b m e = endOp (moveLogged s o b m e) o e := by
  have hplaces : (if e = 0 then [(logPlace s (blkUnit b), 64)] else [(logPlace s (blkUnit b), 64), ringPlace s (blkUnit b) m.tier]) =
      (logPlace s (blkUnit b), 64) :: if e = 0 then [] else [ringPlace s (blkUnit b) m.tier] := by
    split <;> rfl
  rw [← hplaces] at h
  exact whenReady_true h _

/-- What the log and the rings hold once a move has been recorded. -/
theorem moveLogged_spec {s : State} {o : EngOp} {b : List Byte} {m : Move} {e : Byte} (hnew : m.new < 2 ^ 64) (hold : m.old < 2 ^ 64) :
    let t := moveLogged s o b m e
    t.ops = s.ops ∧ loamRaw t (blkUnit b) 0x118 = loamRaw s (blkUnit b) 0x118 + 1 ∧
      numberAt t (logPlace s (blkUnit b)) 8 = (loamRaw s (blkUnit b) 0x118).toNat ∧ numberAt t (logPlace s (blkUnit b) + 16) 8 = m.old ∧
      numberAt t (logPlace s (blkUnit b) + 24) 8 = (if e = 0 then m.new else 0) ∧ memGet t (logPlace s (blkUnit b) + 40) = e ∧
      (e ≠ 0 → ringFull s (blkUnit b) m.tier = false → ringReg t (blkUnit b) m.tier 2 = ringReg s (blkUnit b) m.tier 2 + 1) := by
  intro t
  obtain ⟨u, hu⟩ : ∃ u, u = if e = 0 then s else giveFrame s (blkUnit b) m.tier m.new := ⟨_, rfl⟩
  have hgiven : (∀ off, off < 0x140 → loamRaw u (blkUnit b) off = loamRaw s (blkUnit b) off) ∧ u.ops = s.ops := by
    rw [hu]
    split
    · exact ⟨fun _ _ => rfl, rfl⟩
    · exact giveFrame_rest _ _ _ _
  obtain ⟨hloam, hops⟩ := hgiven
  have hlt : (if e = 0 then m.new else 0) < 2 ^ 64 := by
    split
    · exact hnew
    · decide
  obtain ⟨hseq, hother, hlops, hn0, hn16, hn24, hst⟩ := logMove_spec u (blkUnit b) m.tier (moveCause o) e hlt hold o.asid (moveVa b)
  have ht : t = logMove u (blkUnit b) m.tier (moveCause o) e (if e = 0 then m.new else 0) m.old o.asid (moveVa b) := by rw [hu]; rfl
  have hplace : logPlace u (blkUnit b) = logPlace s (blkUnit b) := by
    rw [logPlace, hloam _ (by decide), hloam _ (by decide), hloam _ (by decide), logPlace]
  rw [hplace] at hn0 hn16 hn24 hst
  rw [hloam _ (by decide)] at hseq hn0
  rw [ht]
  refine ⟨hlops.trans hops, hseq, hn0, hn16, hn24, hst, fun he hroom => ?_⟩
  have hpush := (ringPush_spec s (blkUnit b) m.tier (frame := m.new)).1
  rw [ringReg, hother _ (by omega), hu, if_neg he, giveFrame_room hroom]
  exact hpush

/-! ### Heat windows (R388) -/

theorem exec_heatWindow_over {s : State} {st : Nat} (hst : st < 16) (hauto : bitAt (loamRaw s st 0x100) 0 = true)
    (hover : windowFrom s st + 100000 ≤ s.time) (p : HeatPage) : exec (.heatWindow st [p]) s = .next (newWindow st (heatPage st s p)) := by
  show execHeatWindow st [p] s = _
  simp only [execHeatWindow, hst, hauto, hover, decide_true, Bool.and_true, if_true]
  rfl

/-- A window that still runs, and one of a unit that does not count, changes nothing. -/
theorem exec_heatWindow_same {s : State} {st : Nat} (hst : st < 16) (p : HeatPage)
    (h : bitAt (loamRaw s st 0x100) 0 = false ∨ s.time < windowFrom s st + 100000) : exec (.heatWindow st [p]) s = .next s := by
  have hno : (bitAt (loamRaw s st 0x100) 0 && decide (windowFrom s st + 100000 ≤ s.time)) = false := by
    rcases h with h | h
    · rw [h, Bool.false_and]
    · rw [decide_eq_false (Nat.not_le.2 h), Bool.and_false]
  show execHeatWindow st [p] s = _
  simp only [execHeatWindow, hst, decide_true, Bool.true_and, hno, Bool.false_eq_true, if_false]

/-- The move of its own that a unit begins for a hot page. -/
def heatOp (s : State) (st tier : Nat) (p : HeatPage) : EngOp :=
  { newOp s (.heat (heatBlock st tier p.va)) .word with grp := deviceKey, asid := p.asid, ptbase := p.ptbase, priv := true }

theorem heatPage_hot {s : State} {st : Nat} {p : HeatPage} {l : Leaf} (hw : walk s p.ptbase p.va = .ok l) (hm : movable l = true)
    (hh : heatLimit s st ≤ heatOf s (bitsOf l.entry 51 12)) (hs : homeStack (bitsOf l.entry 51 12 * 4096) = some st) :
    heatPage st s p = { s with nextId := s.nextId + 1, ops := s.ops ++ [heatOp s st (1 - bitsOf l.entry 10 9) p] } := by
  simp only [heatPage, hw, hm, hh, hs, decide_true, Bool.and_true, if_true]
  rfl

theorem heatPage_cold {s : State} {st : Nat} {p : HeatPage} {l : Leaf} (hw : walk s p.ptbase p.va = .ok l)
    (h : movable l = false ∨ heatOf s (bitsOf l.entry 51 12) < heatLimit s st ∨ homeStack (bitsOf l.entry 51 12 * 4096) ≠ some st) :
    heatPage st s p = s := by
  simp only [heatPage, hw]
  refine if_neg fun hc => ?_
  simp only [Bool.and_eq_true, decide_eq_true_eq] at hc
  obtain ⟨⟨hm, hs⟩, hh⟩ := hc
  rcases h with h | h | h
  · rw [hm] at h
    cases h
  · omega
  · exact h hs

theorem heatPage_time (st : Nat) (s : State) (p : HeatPage) : (heatPage st s p).time = s.time := by
  unfold heatPage
  split
  · rfl
  · split <;> rfl

/-- A new window starts now; nothing of memory or of the operations changes with it. -/
theorem newWindow_spec (st : Nat) (s : State) : windowFrom (newWindow st s) st = s.time ∧ (newWindow st s).ops = s.ops := by
  refine ⟨?_, rfl⟩
  simp [windowFrom, newWindow]

/-- A unit's own command is a MIG. -/
theorem blkOp_heatBlock (st tier : Nat) (va : W64) : blkOp (heatBlock st tier va) = 6 := by
  have hfirst : leBytes (6 + 256 * st) 8 = BitVec.ofNat 8 (6 + 256 * st) :: littleEndian ((6 + 256 * st) / 256) 7 := by
    rw [leBytes_eq, littleEndian_succ]
  have hlow : ∀ rest : List Byte, natBits (leValue (BitVec.ofNat 8 (6 + 256 * st) :: rest)) 7 0 = 6 := fun rest => by
    rw [natBits, leValue_cons, BitVec.toNat_ofNat, Nat.shiftRight_zero]
    omega
  rw [blkOp, blockField, heatBlock, hfirst]
  exact hlow _

theorem heatOp_ready (s : State) (st tier : Nat) (p : HeatPage) : cmdReady (heatOp s st tier p) 6 (heatBlock st tier p.va) = true := by
  rw [cmdReady, blkOp_heatBlock]
  rfl

/-! ### Domains (R83, R392) -/

theorem domainReg_eq (s : State) (st : Nat) : domainReg s st = loamRaw s st 0x10 := rfl

theorem domainReg_loamPut (s : State) (st : Nat) (v : W64) : domainReg (loamPut s st 0x10 v) st = v := loamRaw_loamPut_same s st 0x10 v

theorem bitAt_cleared (v : W64) {n : Nat} (hn : n < 64) : bitAt (v &&& ~~~maskBits n n) n = false := by
  have h : (v &&& ~~~maskBits n n).getLsbD n = false := by
    rw [BitVec.getLsbD_and, BitVec.getLsbD_not, getLsbD_maskBits n n n (Nat.le_refl n)]
    simp [hn]
  exact h

theorem bitAt_set (v : W64) {n : Nat} (hn : n < 64) : bitAt (v ||| maskBits n n) n = true := by
  have h : (v ||| maskBits n n).getLsbD n = true := by
    rw [BitVec.getLsbD_or, getLsbD_maskBits n n n (Nat.le_refl n)]
    simp [hn]
  exact h

theorem bitAt_or (v w : W64) {n : Nat} (h : bitAt v n = true) : bitAt (v ||| w) n = true := by
  have hor : (v ||| w).getLsbD n = true := by
    rw [BitVec.getLsbD_or, show v.getLsbD n = true from h, Bool.true_or]
  exact hor

/-- What a domain held is gone; the words of other addresses are as before. -/
theorem spGet_filter_keys {w : Nat} {p : Nat → Bool} {a : Nat} (ha : p a = true) (m : Sparse w) :
    spGet (m.filter fun c => p c.1) a = spGet m a := by
  induction m with
  | nil => rfl
  | cons c r ih =>
    obtain ⟨k, v⟩ := c
    by_cases hk : p k = true
    · simp only [List.filter_cons, hk, if_true, spGet, ih]
    · have hka : k ≠ a := fun h => hk (h ▸ ha)
      simp only [List.filter_cons, hk, Bool.false_eq_true, if_false, spGet, if_neg hka, ih]

/-- Switching a domain off clears ON (R392). -/
theorem exec_domainSwitchOff (s : State) {st d : Nat} (hst : st < 16) (hd : d < 5) : ∃ t, exec (.domainSwitchOff st d) s = .next t ∧
    bitAt (loamRaw t st 0x10) d = false ∧ domainOn t st d = false ∧ { t with loam := s.loam } = s := by
  have hon : bitAt (loamRaw (domainOff s st d) st 0x10) d = false := by
    rw [domainOff, loamRaw_loamPut_same]
    exact bitAt_cleared _ (by omega)
  refine ⟨domainOff s st d, ?_, hon, ?_, rfl⟩
  · show execDomainSwitchOff st d s = _
    simp [execDomainSwitchOff, hst, hd]
  · rw [domainOn, domainReg_eq, hon, Bool.false_and]

/-- Switching a domain on sets ON (R392). -/
theorem exec_domainSwitchOn (s : State) {st d : Nat} (hst : st < 16) (hd : d < 5) : ∃ t, exec (.domainSwitchOn st d) s = .next t ∧
    bitAt (loamRaw t st 0x10) d = true ∧ { t with loam := s.loam } = s := by
  refine ⟨domainOnReq s st d, ?_, ?_, rfl⟩
  · show execDomainSwitchOn st d s = _
    simp [execDomainSwitchOn, hst, hd]
  · rw [domainOnReq, loamRaw_loamPut_same]
    exact bitAt_set _ (by omega)

/-- A domain that is off loses READY and its contents (R83, R392). -/
theorem exec_domainPowerOff {s : State} {st d : Nat} (hst : st < 16) (hd : d < 5) (hoff : bitAt (domainReg s st) d = false)
    (hready : bitAt (domainReg s st) (5 + d) = true) (hbusy : domainBusy s st d = false) (hckpt : ckptHolds s st d = false) :
    ∃ t, exec (.domainPowerOff st d) s = .next t ∧ bitAt (domainReg t st) (5 + d) = false ∧
      (∀ c ∈ t.mem, inDomain st d c.1 = false) ∧ ∀ a, inDomain st d a = false → spGet t.mem a = spGet s.mem a := by
  refine ⟨loamPut { s with
      mem := s.mem.filter fun c => !inDomain st d c.1
      poison := s.poison.filter fun w => !inDomain st d w
      dir := s.dir.filter fun w => !inDomain st d w.addr
      filter := s.filter.filter fun e => !inDomain st d (e.line * 128) } st 0x10 (domainReg s st &&& ~~~maskBits (5 + d) (5 + d)), ?_, ?_,
    fun c hc => ?_, fun a ha => spGet_filter_keys (p := fun a => !inDomain st d a) (by simp [ha]) s.mem⟩
  · show execDomainPowerOff st d s = _
    simp only [execDomainPowerOff, hst, hd, hoff, hready, hbusy, hckpt]
    rfl
  · rw [domainReg_loamPut]
    exact bitAt_cleared _ (by omega)
  · simpa using (List.mem_filter.1 hc).2

/-- A domain that is on becomes ready, whatever it then reads as (R392, log 11). -/
theorem exec_domainReady {s : State} {st d : Nat} (hst : st < 16) (hd : d < 5) (hon : bitAt (domainReg s st) d = true)
    (hready : bitAt (domainReg s st) (5 + d) = false) : ∃ t, exec (.domainReady st d) s = .next t ∧ domainOn t st d = true ∧ t.mem = s.mem := by
  refine ⟨loamPut { s with revived := (st, d, s.ctr) :: s.revived } st 0x10 (domainReg s st ||| maskBits (5 + d) (5 + d)), ?_, ?_, rfl⟩
  · show execDomainReady st d s = _
    simp only [execDomainReady, hst, hd, hon, hready]
    rfl
  · rw [domainOn, domainReg_loamPut, bitAt_or _ _ hon, bitAt_set _ (by omega : 5 + d < 64)]
    rfl

/-! ### The statement -/

theorem exec_mig_start {s : State} {id : Nat} {o : EngOp} {b : List Byte} (ho : findOp s id = some o)
    (hk : (∃ cw q, o.kind = .skcmd b cw q) ∨ o.kind = .heat b) (hm : o.move = none) (hr : cmdReady o 6 b = true) :
    exec (.mig id) s = .next (moveOutcome s o b (moveStart s o b)) := by
  rw [exec_mig ho hk, migrate_start hm hr]

theorem exec_mig_step {s : State} {id : Nat} {o : EngOp} {b : List Byte} {m : Move} (ho : findOp s id = some o)
    (hk : (∃ cw q, o.kind = .skcmd b cw q) ∨ o.kind = .heat b) (hm : o.move = some m) (hs : o.stage = .running) :
    exec (.mig id) s = .next (stepMove s o b m) := by
  rw [exec_mig ho hk, migrate_goes_on hm hs]

/-- A step of a move whose words are all taken over commits it. -/
theorem stepMove_claims {s : State} {o : EngOp} {b : List Byte} {m : Move} (hp : m.phase = .claims) :
    stepMove s o b m = if ownsAll o then commitMove s o b m else s := by
  rw [stepMove, hp]

/-- What the checks of MIG come to for a page with a leaf (R264, R388, R390). -/
theorem moveStart_outcomes {s : State} {o : EngOp} {b : List Byte} {l : Leaf} (hl : walk s o.ptbase (moveVa b) = .ok l) :
    (o.priv = false → bitAt l.entry 5 = false → moveStart s o b = .ends 0x01) ∧
    ((o.priv = true ∨ bitAt l.entry 5 = true) →
      (movable l = false → moveStart s o b = .ends 0x05) ∧
      (movable l = true → bitsOf l.entry 10 9 = moveTier b → moveStart s o b = .ends 0) ∧
      (movable l = true → bitsOf l.entry 10 9 ≠ moveTier b →
        (ringEmpty s (blkUnit b) (moveTier b) = true → moveStart s o b = .ends 0x05) ∧
        (ringEmpty s (blkUnit b) (moveTier b) = false → moveBlocked s (blkUnit b) = true → moveStart s o b = .waits) ∧
        (ringEmpty s (blkUnit b) (moveTier b) = false → moveBlocked s (blkUnit b) = false → moveStart s o b = .begins l))) := by
  rw [moveStart_of_walk hl]
  refine ⟨fun hpriv hu => by simp [hpriv, hu], fun hu => ?_⟩
  have hallowed : (!o.priv && !bitAt l.entry 5) = false := by
    rcases hu with hu | hu <;> simp [hu]
  rw [hallowed]
  exact ⟨fun hmov => by simp [hmov], fun hmov htier => by simp [hmov, htier], fun hmov htier =>
    ⟨fun hempty => by simp [hmov, htier, hempty], fun hempty hblocked => by simp [hmov, htier, hempty, hblocked],
      fun hempty hblocked => by simp [hmov, htier, hempty, hblocked]⟩⟩

/-- Settles O44: MIG by the outcome of its checks and then by the phase of its move, a heat window by the page that is hot, and a domain's
switch by bits ON and READY. -/
theorem migrationAndDomains : Obligations.MigrationAndDomains := by
  refine ⟨fun s id o b st ho hk hst ends hends => ?_, fun s st p l hst hw => ?_, fun s st d hst hd => ?_⟩
  · subst hst hends
    have hid := id_of_findOp ho
    refine ⟨fun hm hr => ?_, fun m hm hs => ?_⟩
    · have houtcome : ∀ r, moveStart s o b = r → exec (.mig id) s = .next (moveOutcome s o b r) := fun r h => h ▸ exec_mig_start ho hk hm hr
      refine ⟨fun e he => houtcome (.ends (errStatus e)) (by rw [moveStart, he]), fun l hl => ?_⟩
      obtain ⟨hdenied, hallowed⟩ := moveStart_outcomes (b := b) hl
      refine ⟨fun hpriv hu => houtcome _ (hdenied hpriv hu), fun hu => ?_⟩
      obtain ⟨hstays, hthere, hmoves⟩ := hallowed hu
      refine ⟨fun hmov => houtcome _ (hstays hmov), fun hmov htier => houtcome _ (hthere hmov htier), fun hmov htier => ?_⟩
      obtain ⟨hempty, hblocked, hbegins⟩ := hmoves hmov htier
      refine ⟨fun he => houtcome _ (hempty he), fun he hb => houtcome _ (hblocked he hb), fun he hb old new m hold hnew hmove => ?_⟩
      obtain ⟨hring, hmem⟩ := beginMove_ring s o b l
      subst hmove
      refine ⟨beginMove s o b l, houtcome _ (hbegins he hb), hring, hmem, fun e he => ?_, beginMove_claims ho hold hnew⟩
      subst hold hnew
      exact beginMove_bad ho he
    · have hexec := exec_mig_step ho hk hm hs
      refine ⟨fun hp => ?_, fun v hp => ?_, fun e hp pa hpa hready hnew hold => ?_⟩
      · rw [stepMove_claims hp] at hexec
        refine ⟨fun howns => ?_, fun howns => ?_⟩
        · rw [hexec, howns]
          rfl
        rw [howns, if_pos rfl] at hexec
        refine ⟨fun e he => ?_, fun he hl => ?_, fun he hl hb => ?_, fun he hl hb hready => ?_, fun he hl hb hready => ?_⟩
        · exact ⟨_, hexec.trans (by rw [commitMove_bad he]), opReplaced_putOp ho hid⟩
        · exact ⟨_, hexec.trans (by rw [commitMove_stale he hl]), opReplaced_putOp ho hid⟩
        · rw [hexec, commitMove_busy he hl hb]
        · refine ⟨devAsk s [(m.at_, 8)], ?_, devAsk_mem _ _, (congrArg State.ops (devAsk_rest _ _) :)⟩
          rw [hexec, commitMove_free he hl hb, whenReady_false hready]
        · obtain ⟨v, hv, hasid, hlen, hlo, hx⟩ := moveCommitted_inval ho b m
          obtain ⟨hpage, hrest, hleaf⟩ := moveCommitted_memory s o b m
          refine ⟨moveCommitted s o b m, v, ?_, hv, hasid, hlen, hlo, hx, hpage, hrest, hleaf, moveCommitted_tlb s o b m⟩
          rw [hexec, commitMove_free he hl hb, whenReady_true hready]
      · rw [stepMove, hp] at hexec
        exact ⟨fun hwait => hexec.trans (congrArg _ (releaseMove_waits hwait)),
          fun hack hready => ⟨_, hexec, releaseMove_spec ho hack hready⟩⟩
      · subst hpa
        rw [stepMove, hp] at hexec
        dsimp only at hexec
        rw [recordMove_ready hready] at hexec
        obtain ⟨hops, hseq, hn0, hn16, hn24, hstatus, hring⟩ := moveLogged_spec (s := s) (o := o) (b := b) (e := e) hnew hold
        exact ⟨_, hexec, findOp_putOp_same ((findOp_congr hops id).trans ho) hid, hseq, hn0, hn16, hn24, hstatus, hring⟩
  · refine ⟨exec_heatWindow_same hst p, fun hauto hover => ?_⟩
    obtain ⟨hfrom, hops⟩ := newWindow_spec st (heatPage st s p)
    refine ⟨_, exec_heatWindow_over hst hauto hover p, hfrom.trans (heatPage_time st s p), ?_, fun hm hh hs => ?_, fun hcold => ?_⟩
    · rw [newWindow_mem, heatPage_mem]
    · refine ⟨heatOp s st (1 - bitsOf l.entry 10 9) p, ?_, rfl, rfl, rfl, rfl, rfl, heatOp_ready s st _ p⟩
      rw [hops, heatPage_hot hw hm hh hs]
    · rw [hops, heatPage_cold hw hcold]
  · exact ⟨exec_domainSwitchOff s hst hd, exec_domainSwitchOn s hst hd, fun hoff hready hbusy hckpt =>
      exec_domainPowerOff hst hd hoff hready hbusy hckpt, fun hon hready => exec_domainReady hst hd hon hready⟩

end Sys2Proof.Machine
end
